-- ==== Sys2Proof/Word.lean ====
section
/-! DEFINITION. The word types of the device and their plainest arithmetic: bytes, 32-bit registers and
lanes, 64-bit instructions, 128-byte lines (a "line" of R15), little-endian as R15 states. -/

namespace Sys2Proof

abbrev Byte := BitVec 8
abbrev W16 := BitVec 16
abbrev W32 := BitVec 32
abbrev W64 := BitVec 64
/-- A 128-byte line; byte `i` is bits `[8i+7:8i]`. -/
abbrev Line := BitVec 1024

/-- `n` low bits set. -/
abbrev ones (w n : Nat) : BitVec w := BitVec.ofNat w (2 ^ n - 1)

end Sys2Proof
end

