-- ==== Sys2Proof/Syntax.lean ====
section
/-! DEFINITION. The commands that the device takes: one constructor of `Instr` per row of the opcode table,
with the operands this model gives it (the table gives none; assumption 1). -/

namespace Sys2Proof

/-! Numbers of units (R2). -/
abbrev FloretId := Fin 512
abbrev UmbelId := Fin 32
abbrev StackId := Fin 8
abbrev LinkId := Fin 12
abbrev RingId := Fin 32768
abbrev SlotId := Fin 64
abbrev PartId := Fin 16
abbrev ArrayId := Fin 4
abbrev FeedId := Fin 16
abbrev ChannelId := Fin 8
abbrev PoolId := Fin 4
/-- Rails of R333. -/
abbrev RailId := Fin 13
abbrev SeqSlot := Fin 16384
abbrev DevId := BitVec 10
/-- Tree ID minus 1 (R320). -/
abbrev TreeId := Fin 64
abbrev Fin3 := Fin 3
abbrev Fin4 := Fin 4
abbrev Fin8 := Fin 8
abbrev W2 := BitVec 2
abbrev W4 := BitVec 4
abbrev W7 := BitVec 7
abbrev W8 := BitVec 8
abbrev W18 := BitVec 18
abbrev W20 := BitVec 20
abbrev W26 := BitVec 26
abbrev W42 := BitVec 42
abbrev W52 := BitVec 52
abbrev W128 := BitVec 128
/-- A register page index (R469). -/
abbrev PageIx := Fin 16384

/-- Who moves lines (R232). -/
inductive Agent where
  | load (f : FloretId)
  | store (f : FloretId)
  | seq (f : FloretId)
  | dma (u : UmbelId) (c : ChannelId)
  | dd (u : UmbelId)
  | sorrel (k : StackId)
  | copy
  | frontEnd
  | umc
  | host
  deriving DecidableEq, Repr

/-- What the ECC of a memory finds at a line (R288, R362): nothing wrong, a corrected error, an error that the first
or the second re-read cured, an uncorrectable error, or a line whose integrity tag fails. -/
inductive Ecc where
  | clean
  | corrected
  | retried (twice : Bool)
  | uncorrectable
  | tagBad
  deriving DecidableEq, Repr

/-- The port through which a frame command reaches a stack's allocator (R204). -/
inductive KvPort where
  | page
  | frontEnd
  | umc
  deriving DecidableEq, Repr

/-- A Peruldo packet's token: the agent and line that its ACK or LOSS answers. -/
abbrev Token := Nat

/-- Header of a Peruldo packet (R308). -/
structure PktHdr where
  src : DevId
  flow : W7
  gen : W4
  /-- sub-channel on which it arrived (R313) -/
  sub : Bool
  /-- injection time, ns -/
  inj : Nat
  token : Token
  deriving DecidableEq, Repr

/-- Header of a response packet (R308, R318): of the request that it answers, the flow and generation. -/
structure RspHdr where
  src : DevId
  dst : DevId
  flow : W7
  gen : W4
  /-- sub-channel on which it arrived (R313) -/
  sub : Bool
  deriving DecidableEq, Repr

/-- One packet that an ACK completes; a write that its destination discarded is complete and not counted (R229, R314). -/
structure AckTok where
  tok : Token
  discarded : Bool
  deriving DecidableEq, Repr

/-- Why a packet was dropped (R308, R315): R309, R312, a link's retirement (R312), a unit held in reset (R244). -/
inductive LossWhy where
  | age
  | noRoute
  | linkRetired
  | unitReset
  deriving DecidableEq, Repr

/-- What a TIME packet says (R322), its timestamps in ps: it asks at time `t1`, or it answers what was asked at `t1`, came at `t2`
and went back at `t3`. -/
inductive TimeMsg where
  | ask (t1 : Nat)
  | reply (t1 t2 t3 : Nat)
  deriving DecidableEq, Repr

/-- What a lane shows (R307): the FEC has corrected `symbols` symbols of it within one second; it has lost lock. -/
inductive LaneSign where
  | fec (symbols : Nat)
  | lockLost
  deriving DecidableEq, Repr

abbrev OptFloret := Option FloretId
abbrev ListEcc := List Ecc

/-- What the ECC finds in the two lines of a granule (R288). -/
structure GranuleEcc where
  first : Ecc
  second : Ecc
  deriving DecidableEq, Repr

/-- A unit, and what the ECC finds in the line reads of one operation of it, in turn (R288). -/
structure UnitReads (α : Type) where
  unit : α
  ecc : ListEcc
  deriving DecidableEq, Repr

abbrev UmbelReads := UnitReads UmbelId
abbrev StackReads := UnitReads StackId

/-- Where a memory request of the host begins in its BAR, and whether it has the PCIe T bit (R395). -/
structure HostAt (α : Type) where
  off : α
  t : Bool
  deriving DecidableEq, Repr

abbrev HostAt18 := HostAt W18
abbrev HostAt26 := HostAt W26
abbrev HostAtBar4 := HostAt Nat

/-- A read of `len` bytes of BAR0. -/
structure HostSpan where
  off : W26
  len : Nat
  t : Bool
  deriving DecidableEq, Repr

/-- What a LOSS says: the packet that was dropped, and why (R308). -/
structure Loss where
  tok : Token
  why : LossWhy
  deriving DecidableEq, Repr

/-- A packet sent on a link, by its sequence number (R306). -/
structure SentPkt where
  link : LinkId
  seq : Nat
  deriving DecidableEq, Repr

/-- What a lane of a link shows (R307). -/
structure LaneReport where
  lane : Fin8
  sign : LaneSign
  deriving DecidableEq, Repr

/-- The far end of a link: its number there, and whether that end offers payload coding (R304). -/
structure PeerEnd where
  link : W4
  code : Bool
  deriving DecidableEq, Repr

/-- The part of a TIME exchange that a command brings, and its timestamps in ps (R322): this device's asking falls due; a
neighbour has asked at `t1`; the parent answers what was asked at `t1`, came at `t2` and went back at `t3`. -/
inductive TimeKind where
  | due
  | ask
  | reply
  deriving DecidableEq, Repr

structure TimeStamps where
  t1 : Nat
  t2 : Nat
  t3 : Nat
  deriving DecidableEq, Repr
abbrev OptUmbel := Option UmbelId
abbrev OptW32 := Option W32
abbrev ListAckTok := List AckTok
abbrev ListNat := List Nat
/-- An LSA (R324, R441): its origin and sequence number; for each link of the origin, by number, its state, peer device
and peer link; the sender's MSTATE, JOIN bit and ETT_DIGEST. -/
structure Lsa where
  origin : DevId
  seq : Nat
  links : List (Nat × Nat × Nat)
  mstate : Nat
  join : Bool
  digest : Nat
  deriving DecidableEq, Repr

/-- Where the smallest slack of an umbel's critical-path monitors lies (R341): above the fused high threshold, between
the thresholds, below the low one. -/
inductive Slack where
  | high
  | mid
  | low
  deriving DecidableEq, Repr

/-- What a regulator's STATUS_WORD and phase status report (R352, R353): whether the read succeeded, a fault, output off
or under voltage, healthy phases, the rail that it names. -/
structure VrStatus where
  ok : Bool
  fault : Bool
  off : Bool
  healthy : Nat
  deriving DecidableEq, Repr

/-- One rail's AVSBus reading (R334): whether the reply came and passed its check, mV, mA; the on-die estimate of its
current and of its dynamic current at full duty, mA (R344, R345). -/
structure RailReading where
  rail : RailId
  ok : Bool
  mv : Nat
  ma : Int
  estMa : Nat
  dynMa : Nat
  deriving DecidableEq, Repr

/-- A sample of AVSBus with the estimator's package power and power per 25 MHz step, mW. -/
structure AvsReading where
  rails : List RailReading
  estMw : Nat
  stepMw : Nat
  deriving DecidableEq, Repr

/-- A PMBus sample (R334): per rail 0 to 2 the phase currents in mA; the status of every regulator; (mV, mA) of rails 3
and 4. -/
structure PmbReading where
  phases : List (List Nat)
  status : List VrStatus
  aux : List (Nat × Nat)
  deriving DecidableEq, Repr

/-- What bring-up step 3 finds (R432, R434, R440, R455): the board configuration's check and fields, the flash's quad
read, the COMPAT_SEL level. -/
structure ConfigInput where
  crcOk : Bool
  quadOk : Bool
  phases : List Nat
  icl : List Nat
  maxRate : Nat
  topoTimeout : Nat
  standalone : Bool
  strap : Bool
  deriving DecidableEq, Repr

/-- What HBM training finds (R436, R437): valid training data, the rate at which each stack trains, the channels that fail
at 6.4 Gb/s, whether a lane had to be trained in full. -/
structure TrainInput where
  valid : Bool
  rates : List Nat
  fail : List Nat
  full : Bool
  deriving DecidableEq, Repr

/-- What one link's training finds (R304, R438): good lanes, the peer's device and link, its coding offer. -/
structure LinkTrain where
  link : LinkId
  mask : W8
  peerDev : DevId
  peerLink : W4
  peerCode : Bool
  deriving DecidableEq, Repr

/-- JTAG instructions (R457, R458), a debug instruction beyond the public ones, and a return to Test-Logic-Reset. -/
inductive TapInstr where
  | bypass
  | idcode
  | samplePreload
  | extest
  | extestPulse
  | extestTrain
  | highz
  | clamp
  | debug
  | testLogicReset
  deriving DecidableEq, Repr

/-- A PCIe configuration request: a read, a write of Bus Master Enable and Memory Space Enable, a write of BAR4's size. -/
inductive ConfigReq where
  | read
  | command (bme mse : Bool)
  | bar4Size (log2 : Nat)
  deriving DecidableEq, Repr

/-- A child's subtree count, with the link it came on; none for a count that has stopped (R320). -/
abbrev OptChild := Option (LinkId × Option Nat)
/-- First differing element and lowest differing bit (R376). -/
abbrev OptDiff := Option (Nat × Nat)
/-- A fault that hardware checks find (R361: UNIT_PARITY, NOC_UE) and report with a FAULT_REPORT. -/
inductive HwFault where
  | floretParity (f : FloretId)
  | umbelParity (u : UmbelId)
  | nocUe (u : UmbelId)
  deriving DecidableEq, Repr

abbrev OptFault := Option HwFault
abbrev ListVr := List VrStatus
abbrev ListLinkTrain := List LinkTrain

/-- The commands, one per row of the opcode table, in its order, those without operands last. -/
inductive Instr where
  /-- NOP -/
  | nop (f : FloretId)
  /-- HALT -/
  | halt (f : FloretId)
  /-- BR -/
  | br (f : FloretId)
  /-- LOOP -/
  | loopInsn (f : FloretId)
  /-- SALU -/
  | salu (f : FloretId)
  /-- SLI -/
  | sli (f : FloretId)
  /-- SCMP -/
  | scmp (f : FloretId)
  /-- TWAIT -/
  | twait (f : FloretId)
  /-- TWAIT_SATISFIED -/
  | twaitSatisfied (f : FloretId)
  /-- TSIG -/
  | tsig (f : FloretId)
  /-- TSET -/
  | tset (f : FloretId)
  /-- TREAD -/
  | tread (f : FloretId)
  /-- DFENCE -/
  | dfence (f : FloretId)
  /-- DFENCE_SATISFIED -/
  | dfenceSatisfied (f : FloretId)
  /-- FTEST -/
  | ftest (f : FloretId)
  /-- FCFG -/
  | fcfg (f : FloretId)
  /-- DQ -/
  | dq (f : FloretId)
  /-- MMA -/
  | mma (f : FloretId)
  /-- MMA_START -/
  | mmaStart (f : FloretId) (a : ArrayId)
  /-- WAVEFRONT_ISSUE -/
  | wavefrontIssue (f : FloretId) (a : ArrayId)
  /-- ACCUMULATOR_ADD -/
  | accumulatorAdd (f : FloretId) (a : ArrayId) (j : Fin8)
  /-- STATIONARY_LOAD_START -/
  | stationaryLoadStart (f : FloretId) (a : ArrayId)
  /-- STATIONARY_ROW_COMMIT -/
  | stationaryRowCommit (f : FloretId) (a : ArrayId)
  /-- DRAIN_ROW_READ -/
  | drainRowRead (f : FloretId)
  /-- VX_INT -/
  | vxInt (f : FloretId)
  /-- VX_FLOAT -/
  | vxFloat (f : FloretId)
  /-- VX_CVT -/
  | vxCvt (f : FloretId)
  /-- VX_REDUCE -/
  | vxReduce (f : FloretId)
  /-- VX_SPECIAL -/
  | vxSpecial (f : FloretId)
  /-- VLD -/
  | vld (f : FloretId)
  /-- VST -/
  | vst (f : FloretId)
  /-- NORM_RMS -/
  | normRms (f : FloretId)
  /-- NORM_LN -/
  | normLn (f : FloretId)
  /-- ROPE -/
  | rope (f : FloretId)
  /-- SMERGE -/
  | smerge (f : FloretId)
  /-- TOPK_R -/
  | topkR (f : FloretId)
  /-- TOPK_L -/
  | topkL (f : FloretId)
  /-- SAMPLE -/
  | sample (f : FloretId)
  /-- QX -/
  | qx (f : FloretId)
  /-- MARK -/
  | mark (f : FloretId)
  /-- DIGEST_PUBLISH -/
  | digestPublish (f : FloretId)
  /-- TILES -/
  | tilesDesc (g : Agent)
  /-- LINES -/
  | linesDesc (g : Agent)
  /-- GATHER -/
  | gather (g : Agent)
  /-- DESC_NOP -/
  | descNop (g : Agent)
  /-- DESC_WAIT -/
  | descWait (g : Agent)
  /-- DESC_WAIT_SATISFIED -/
  | descWaitSatisfied (g : Agent)
  /-- DESC_SIGNAL -/
  | descSignal (g : Agent)
  /-- DESC_END -/
  | descEnd (g : Agent)
  /-- DRAIN -/
  | drain (f : FloretId)
  /-- QOUT -/
  | qout (f : FloretId)
  /-- LINE_WRITE -/
  | lineWrite (g : Agent) (d : Nat) (n : Nat) (e : Ecc)
  /-- LINE_READ -/
  | lineRead (g : Agent) (d : Nat) (n : Nat) (e : Ecc)
  /-- LINE_READ_RETURN -/
  | lineReadReturn (g : Agent) (d : Nat) (n : Nat)
  /-- LINE_DROP_REPORT -/
  | lineDropReport (g : Agent) (d : Nat) (n : Nat)
  /-- FEED_LINE_ARRIVE -/
  | feedLineArrive (g : Agent) (d : Nat) (n : Nat)
  /-- FEED_END_MARKER -/
  | feedEndMarker (f : FloretId) (e : FeedId)
  /-- FEED_SLOT_DELIVER -/
  | feedSlotDeliver (f : FloretId) (e : FeedId)
  /-- FEED_SLOT_RELEASE -/
  | feedSlotRelease (f : FloretId) (e : FeedId)
  /-- PATCH_REQUEST -/
  | patchRequest (f : FloretId)
  /-- PATCH_UNIT_ANSWER -/
  | patchUnitAnswer (x : UmbelReads)
  /-- DMA_DESCRIPTOR_START -/
  | dmaDescriptorStart (u : UmbelId) (c : ChannelId)
  /-- ALLOC -/
  | allocGran (u : UmbelId) (c : ChannelId)
  /-- FREE -/
  | freeGran (u : UmbelId) (c : ChannelId)
  /-- KV_ALLOC -/
  | kvAlloc (k : StackId) (port : KvPort) (pool : PoolId) (owner : W20)
  /-- KV_FREE -/
  | kvFree (k : StackId) (port : KvPort) (pool : PoolId) (owner : W20) (frame : W20)
  /-- KV_BAD_OP -/
  | kvBadOp (k : StackId) (port : KvPort) (op : W2) (pool : PoolId)
  /-- SORREL_REQUEST -/
  | sorrelRequest (k : StackId) (h : Line) (src : OptFloret)
  /-- SORREL_SCAN_END -/
  | sorrelScanEnd (x : StackReads)
  /-- SUMMARY_BUILD -/
  | summaryBuild (x : StackReads)
  /-- LEN_UPDATE -/
  | lenUpdate (q : SeqSlot)
  /-- OPEN -/
  | openSeq (q : SeqSlot)
  /-- CLOSE -/
  | closeSeq (q : SeqSlot)
  /-- REBUILD -/
  | rebuild (q : SeqSlot)
  /-- SWITCH -/
  | switchSeq (q : SeqSlot)
  /-- SEQ_BAD_OP -/
  | seqBadOp (op : W4) (q : SeqSlot)
  /-- DOORBELL -/
  | doorbell (x : HostAt18) (size : Nat) (v : W64)
  /-- RING_ENABLE -/
  | ringEnable (r : RingId)
  /-- RING_DISABLE -/
  | ringDisable (r : RingId)
  /-- RING_RESUME -/
  | ringResume (r : RingId)
  /-- CMD_NOP -/
  | cmdNop (r : RingId)
  /-- LAUNCH -/
  | launch (r : RingId)
  /-- LAUNCH_RELEASE -/
  | launchRelease (t : SlotId)
  /-- FLORET_COMPLETION_REPORT -/
  | floretCompletionReport (f : FloretId) (t : SlotId) (gen : W4)
  /-- LAUNCH_COMPLETE -/
  | launchComplete (t : SlotId)
  /-- SLOT_QUARANTINE_END -/
  | slotQuarantineEnd (t : SlotId)
  /-- WATCHDOG_SAMPLE -/
  | watchdogSample (t : SlotId)
  /-- COPY -/
  | copyCmd (r : RingId)
  /-- COPY_ENGINE_COMPLETE -/
  | copyEngineComplete (d : Nat)
  /-- WAIT_TALLY -/
  | waitTally (r : RingId)
  /-- WAIT_TALLY_SATISFIED -/
  | waitTallySatisfied (r : RingId)
  /-- WAIT_TALLY_TIMEOUT -/
  | waitTallyTimeout (r : RingId)
  /-- CMD_SIGNAL -/
  | cmdSignal (r : RingId)
  /-- FENCE -/
  | fenceCmd (r : RingId)
  /-- PHASE_HINT -/
  | phaseHint (r : RingId)
  /-- PHASE_HOLD_EXPIRY -/
  | phaseHoldExpiry (u : UmbelId)
  /-- CMD_MARK -/
  | cmdMark (r : RingId)
  /-- LOAD_WEIGHTS_BASE -/
  | loadWeightsBase (r : RingId)
  /-- LOAD_WEIGHTS_PACK -/
  | loadWeightsPack (r : RingId)
  /-- RETIRING_WAIT_END -/
  | retiringWaitEnd (d : Nat)
  /-- PEER_TALLY_REACHED -/
  | peerTallyReached (d : Nat)
  /-- PEER_TIMEOUT -/
  | peerTimeout (d : Nat)
  /-- SWAP_LAYER -/
  | swapLayer (r : RingId)
  /-- SWAP_BEGIN_WAIT_END -/
  | swapBeginWaitEnd (d : Nat)
  /-- SWAP_RELOCATE -/
  | swapRelocate (r : RingId)
  /-- PKT_WRITE -/
  | pktWrite (l : LinkId) (h : PktHdr) (a : W52) (mask : W128) (data : Line) (psn : Bool) (tally : OptW32) (cnt : Bool)
  /-- PKT_READ -/
  | pktRead (l : LinkId) (h : PktHdr) (a : W52)
  /-- PKT_SIGNAL -/
  | pktSignal (l : LinkId) (h : PktHdr) (tally : W32) (v : W32)
  /-- PKT_END -/
  | pktEnd (l : LinkId) (h : PktHdr) (a : W52) (e : FeedId)
  /-- MC_WRITE -/
  | mcWrite (l : LinkId) (h : PktHdr) (tree : TreeId) (a : W42) (data : Line) (psn : Bool) (ct : Bool) (tally : OptW32)
  /-- PKT_DATA -/
  | pktData (l : LinkId) (h : RspHdr) (tok : Token) (data : Line) (psn : Bool)
  /-- ACK -/
  | ack (l : LinkId) (h : RspHdr) (toks : ListAckTok)
  /-- LOSS -/
  | lossPkt (l : LinkId) (h : RspHdr) (x : Loss)
  /-- PKT_FENCE -/
  | pktFence (l : LinkId) (dst : DevId) (src : DevId) (flow : W7) (gen : W4) (inj : Nat)
  /-- LSA -/
  | lsa (l : LinkId) (a : Lsa)
  /-- REACH_EXPIRY -/
  | reachExpiry (v : DevId)
  /-- PKT_TIME -/
  | pktTime (l : LinkId) (k : TimeKind) (x : TimeStamps)
  /-- SUBTREE_REPORT -/
  | subtreeReport (tree : TreeId) (child : OptChild)
  /-- REPLAY_REQUEST -/
  | replayRequest (l : LinkId) (crc : Bool) (asSender : Bool) (seq : Nat)
  /-- REPLAY_TIMEOUT -/
  | replayTimeout (x : SentPkt)
  /-- LANE_FAULT -/
  | laneFault (l : LinkId) (x : LaneReport)
  /-- LINK_DOWN -/
  | linkDown (l : LinkId)
  /-- LINK_TRAINED -/
  | linkTrained (l : LinkId) (mask : W8) (peerDev : DevId) (peerLink : W4) (peerCode : Bool)
  /-- LINK_RETIRE_TIMEOUT -/
  | linkRetireTimeout (l : LinkId)
  /-- LINK_PROBE -/
  | linkProbe (l : LinkId) (ok : Bool) (peerDev : DevId) (peer : PeerEnd)
  /-- LINK_EQ_TICK -/
  | linkEqTick (l : LinkId) (lane : Fin8)
  /-- RETRAIN -/
  | retrain (l : LinkId)
  /-- HBM_READ -/
  | hbmRead (a : W42) (e : Ecc)
  /-- HBM_WRITE -/
  | hbmWrite (a : W42) (data : Line) (psn : Bool)
  /-- HBM_PARTIAL_WRITE -/
  | hbmPartialWrite (a : W42) (mask : W128) (data : Line) (e : Ecc)
  /-- MIGRATION_COPY -/
  | migrationCopy (e : GranuleEcc)
  /-- HBM_THERM_SAMPLE -/
  | hbmThermSample (k : StackId) (temp : Nat)
  /-- SELF_REFRESH_ENTRY -/
  | selfRefreshEntry (k : StackId)
  /-- SELF_REFRESH_EXIT -/
  | selfRefreshExit (k : StackId)
  /-- FILL -/
  | fillStack (k : StackId)
  /-- FILL_END -/
  | fillEnd (k : StackId)
  /-- MARGIN_START -/
  | marginStart (k : StackId) (v : W32)
  /-- MARGIN_DONE -/
  | marginDone (k : StackId) (lo : W8) (hi : W8)
  /-- AVS_SAMPLE -/
  | avsSample (rd : AvsReading)
  /-- PMBUS_SAMPLE -/
  | pmbusSample (rd : PmbReading)
  /-- CURRENT_FAST_TICK -/
  | currentFastTick (est : ListNat)
  /-- MARGIN_LOOP_TICK -/
  | marginLoopTick (u : UmbelId) (slack : Slack)
  /-- CPM_ALARM -/
  | cpmAlarm (u : UmbelId) (alarm : Bool)
  /-- STRETCH_END -/
  | stretchEnd (u : UmbelId)
  /-- THERMAL_TICK -/
  | thermalTick (u : UmbelId) (quarterDeg : Nat)
  /-- DIE_OVERTEMP -/
  | dieOvertemp (u : UmbelId)
  /-- ACLK_STEP -/
  | aclkStep (u : UmbelId)
  /-- VOLTAGE_REACHED -/
  | voltageReached (rail : Fin3)
  /-- PWRWARN_FALL -/
  | pwrwarnFall (pf : Nat) (pu : Nat) (ph : Nat)
  /-- VR_FAULT_FALL -/
  | vrFaultFall (rail : Fin3)
  /-- VR_STATUS_READ -/
  | vrStatusRead (rail : Fin3) (st : VrStatus)
  /-- VR_FAULT3_FALL -/
  | vrFault3Fall (rail : RailId) (st : VrStatus)
  /-- PHASE_HEALTHY_EXPIRY -/
  | phaseHealthyExpiry (rail : Fin3)
  /-- PMB_ALERT_FALL -/
  | pmbAlertFall (sts : ListVr)
  /-- THERMTRIP -/
  | thermtrip (u : UmbelId)
  /-- UMBEL_WAKE -/
  | umbelWake (u : UmbelId)
  /-- UMBEL_WAKE_DONE -/
  | umbelWakeDone (u : UmbelId)
  /-- CLOCK_GATE -/
  | clockGate (u : UmbelId)
  /-- FAULT_REPORT -/
  | faultReport (hw : OptFault)
  /-- FAULT_RECORD_RESEND -/
  | faultRecordResend (n : Nat)
  /-- QUIESCE_END -/
  | quiesceEnd (p : PartId)
  /-- RECOVERY_RESET_END -/
  | recoveryResetEnd (p : PartId)
  /-- SCRUB_PRELOAD_END -/
  | scrubPreloadEnd (p : PartId) (failed : OptUmbel)
  /-- PART_LIVE_WRITE -/
  | partLiveWrite (p : PartId) (live : Bool)
  /-- PART_RESET -/
  | partReset (p : PartId)
  /-- DIE_RESET -/
  | dieReset (half : Bool)
  /-- DIE_RESET_END -/
  | dieResetEnd (half : Bool)
  /-- SWEEP_TEST_START -/
  | sweepTestStart (a : FloretId) (b : FloretId) (cls : Fin8) (seed : W64)
  /-- SWEEP_TEST_END -/
  | sweepTestEnd (dA : W64) (dB : W64) (c : FloretId) (dC : W64)
  /-- SWEEP_ABORT -/
  | sweepAbort (t : SlotId)
  /-- SWEEP_RERUN_END -/
  | sweepRerunEnd (diff : OptDiff)
  /-- UMC_FAULT_ACK -/
  | umcFaultAck (upto : W32)
  /-- GET_CERTIFICATE -/
  | getCertificate (slot : W4)
  /-- CHALLENGE -/
  | challenge (slot : W4) (nonce : Nat)
  /-- GET_MEASUREMENTS -/
  | getMeasurements (idx : Nat) (nonce : Nat)
  /-- KEY_EXCHANGE -/
  | keyExchange (sid : Nat) (doe : Bool) (pub : Nat)
  /-- END_SESSION -/
  | endSession (sid : Nat)
  /-- HEARTBEAT -/
  | heartbeat (sid : Nat)
  /-- KEY_UPDATE -/
  | keyUpdate (sid : Nat)
  /-- SESSION_EXPIRY -/
  | sessionExpiry (sid : Nat)
  /-- SET_OWNER -/
  | setOwner (sid : Nat) (key : Nat)
  /-- IDE_KM -/
  | ideKm (sid : Nat) (stream : Fin3)
  /-- LOCK_INTERFACE -/
  | lockInterface (sid : Nat)
  /-- TDI_RUN -/
  | tdiRun (sid : Nat)
  /-- CK_LOAD -/
  | ckLoad (n : Fin8)
  /-- CK_DROP -/
  | ckDrop (n : Fin8)
  /-- TR_CFG_WRITE -/
  | trCfgWrite (v : W32)
  /-- TR_TAIL_WRITE -/
  | trTailWrite (v : W32)
  /-- SNAPSHOT_HANG_REQUEST -/
  | snapshotHangRequest (t : SlotId)
  /-- CORE_HEARTBEAT_TIMEOUT -/
  | coreHeartbeatTimeout (core : Fin4)
  /-- SNAPSHOT_CAPTURE_END -/
  | snapshotCaptureEnd (trunc : Bool)
  /-- RAIL_WAIT_TIMEOUT -/
  | railWaitTimeout (rail : RailId)
  /-- UMC_BOOT -/
  | umcBoot (okA : Bool) (okB : Bool)
  /-- CONFIGURATION -/
  | configuration (c : ConfigInput)
  /-- SRAM_BIST -/
  | sramBist (fail : W32) (dieFail : Bool)
  /-- HBM_TRAINING -/
  | hbmTraining (t : TrainInput)
  /-- LINK_TRAINING -/
  | linkTraining (masks : ListLinkTrain)
  /-- JOIN_ADMIT -/
  | joinAdmit (v : DevId)
  /-- SET_ETT -/
  | setEtt (t : ListNat)
  /-- REG_WRITE -/
  | regWrite (off : W26) (v : W32)
  /-- CONFIG_REQUEST -/
  | configRequest (q : ConfigReq)
  /-- BAR4_READ -/
  | bar4Read (x : HostAtBar4) (len : Nat) (e : Ecc)
  /-- BAR4_WRITE -/
  | bar4Write (x : HostAtBar4) (mask : W128) (data : Line) (psn : Bool) (e : Ecc)
  /-- HOST_WINDOW_ACCESS -/
  | hostWindowAccess (g : Agent) (d : Nat) (n : Nat)
  /-- HOST_READ_COMPLETION -/
  | hostReadCompletion (g : Agent) (d : Nat) (n : Nat) (data : Line) (ep : Bool)
  /-- FEED_CFG_WRITE -/
  | feedCfgWrite (f : FloretId) (e : FeedId) (hi : Bool) (v : W32)
  /-- DMA_CFG_WRITE -/
  | dmaCfgWrite (u : UmbelId) (c : ChannelId) (bell : Bool) (v : W32)
  /-- KVP_CFG_WRITE -/
  | kvpCfgWrite (n : PoolId) (frames : Bool) (v : W32)
  /-- SEQ_TABLE_CFG_WRITE -/
  | seqTableCfgWrite (which : Fin3) (v : W32)
  /-- RING_TBL_WRITE -/
  | ringTblWrite (hi : Bool) (v : W32)
  /-- GRP_BASE_WRITE -/
  | grpBaseWrite (hi : Bool) (v : W32)
  /-- COMPAT_WRITE -/
  | compatWrite (page : PageIx) (v : W32)
  /-- GL_COMPAT_ALL -/
  | glCompatAll (v : Bool)
  /-- EVT_PEND_CLEAR -/
  | evtPendClear (page : PageIx) (v : W32) (coincident : W32)
  /-- LINK_CTRL_WRITE -/
  | linkCtrlWrite (l : LinkId) (v : W32)
  /-- COUNTER_LO_READ -/
  | counterLoRead (x : HostSpan)
  /-- REGISTER_WRITE -/
  | registerWrite (x : HostAt26) (be : W4) (v : W32)
  /-- ENTDAA -/
  | entdaa (addr : W7)
  /-- MANAGEMENT_REPLY_ACK -/
  | managementReplyAck (n : Nat)
  /-- TAP_INSTRUCTION_LOAD -/
  | tapInstructionLoad (n : TapInstr)
  /-- D2D_LANE_REPAIR -/
  | d2dLaneRepair (half : Bool) (lane : Nat)
  /-- SLOT_GRANT -/
  | slotGrant
  /-- DEAD_LIST_EXPIRY -/
  | deadListExpiry
  /-- LSA_TIMER -/
  | lsaTimer
  /-- SPLIT_DECLARE -/
  | splitDeclare
  /-- TIME_HOLDOVER -/
  | timeHoldover
  /-- PPS_EDGE -/
  | ppsEdge
  /-- MAP_SWITCH -/
  | mapSwitch
  /-- PWRWARN_RISE -/
  | pwrwarnRise
  /-- PWRWARN_RELEASE_TICK -/
  | pwrwarnReleaseTick
  /-- DEVICE_RESET -/
  | deviceReset
  /-- DEVICE_RESET_RUN -/
  | deviceResetRun
  /-- GL_RESET_DEVICE -/
  | glResetDevice
  /-- OOS_CLEAR -/
  | oosClear
  /-- MGMT_DEVICE_RESET -/
  | mgmtDeviceReset
  /-- TENANT_CHANGE_CMD -/
  | tenantChangeCmd
  /-- TENANT_CHANGE -/
  | tenantChange
  /-- TENANT_QUIESCE_END -/
  | tenantQuiesceEnd
  /-- TENANT_FILL_END -/
  | tenantFillEnd
  /-- IDE_INTEGRITY_FAILURE -/
  | ideIntegrityFailure
  /-- STOP_INTERFACE -/
  | stopInterface
  /-- TDI_ERROR -/
  | tdiError
  /-- CK_LOAD_END -/
  | ckLoadEnd
  /-- TRACE_WRITE -/
  | traceWrite
  /-- UMC_SNAP_START -/
  | umcSnapStart
  /-- SNAPSHOT_MCTP -/
  | snapshotMctp
  /-- AON_RST_N_FALL -/
  | aonRstNFall
  /-- AON_RST_N_RISE -/
  | aonRstNRise
  /-- ALWAYS_ON_LOCK -/
  | alwaysOnLock
  /-- TOPO_AGREE_TEST -/
  | topoAgreeTest
  /-- TOPO_TIMEOUT -/
  | topoTimeout
  /-- GET_BOOT_STATUS -/
  | getBootStatus
  /-- COMMIT_SVN -/
  | commitSvn
  /-- RECOVERY_IMAGE_LOAD -/
  | recoveryImageLoad
  /-- PERST_N_FALL -/
  | perstNFall
  /-- PERST_N_RISE -/
  | perstNRise
  /-- FLR -/
  | flr
  /-- VDD_AON_LOSS -/
  | vddAonLoss
  deriving DecidableEq, Repr

end Sys2Proof
end

