-- ==== Sys2Proof/Decode.lean ====
section
/-! DEFINITION. Table words. No row of the opcode table gives a command any bits, so no word spells a command. The
instruction words of florets, ring commands and descriptors are data of the device and are read by their meanings
(Machine/Isa.lean, Machine/Rings.lean, Machine/Engines.lean). -/

namespace Sys2Proof

/-- The command that a word of `nbits` bits spells by the table: none, whatever the word. -/
def decodeTableWord (_nbits _w : Nat) : Option Instr := none

end Sys2Proof
end

