-- ==== Sys2Proof/Machine/SMap.lean ====
section
/-! DEFINITION. Sparse tables as plain data: a list of (key, value) pairs with keys strictly rising and no
value equal to what an unlisted key reads as. Memories are the case of bytes (`Host.Cell`). -/

namespace Sys2Proof.Machine

/-- A table keyed by a number. -/
abbrev SMap (α : Type) := List (Nat × α)

/-- The value at key `k`; `d` is what an unlisted key reads as. -/
def SMap.get {α : Type} (d : α) : SMap α → Nat → α
  | [], _ => d
  | (k', v) :: m, k => if k = k' then v else SMap.get d m k

/-- Remove every entry of `k`. -/
def SMap.erase {α : Type} : SMap α → Nat → SMap α
  | [], _ => []
  | (k', v) :: m, k => if k = k' then SMap.erase m k else (k', v) :: SMap.erase m k

/-- Insert an entry in key order, replacing the entry of the same key. -/
def SMap.insert {α : Type} : SMap α → Nat → α → SMap α
  | [], k, x => [(k, x)]
  | (k', v) :: m, k, x =>
    if k = k' then (k, x) :: m else if k < k' then (k, x) :: (k', v) :: m else (k', v) :: SMap.insert m k x

/-- Write `x` at `k`, keeping the canonical form: writing the default `d` removes the entry. -/
def SMap.put {α : Type} [DecidableEq α] (d : α) (m : SMap α) (k : Nat) (x : α) : SMap α :=
  if x = d then SMap.erase m k else SMap.insert m k x

/-- Change the value at `k`. -/
def SMap.upd {α : Type} [DecidableEq α] (d : α) (m : SMap α) (k : Nat) (f : α → α) : SMap α :=
  SMap.put d m k (f (SMap.get d m k))

/-- Remove every entry whose key satisfies `p`. -/
def SMap.eraseIf {α : Type} (p : Nat → Bool) (m : SMap α) : SMap α := m.filter (fun e => !p e.1)

/-- The keys listed. -/
def SMap.keys {α : Type} (m : SMap α) : List Nat := m.map (·.1)

/-- Keys strictly rising from above `lo`. -/
def SMap.rising {α : Type} : Nat → SMap α → Bool
  | _, [] => true
  | lo, (k, _) :: m => decide (lo ≤ k) && SMap.rising (k + 1) m

/-- The canonical form: keys strictly rising, no entry equal to the default. -/
def SMap.wf {α : Type} [DecidableEq α] (d : α) (m : SMap α) : Bool :=
  SMap.rising 0 m && m.all (fun e => decide (e.2 ≠ d))

/-! Byte memories. -/

/-- A byte memory in canonical form; an unlisted address reads as 0 (DESIGN CHOICE, assumption 4). -/
abbrev Memory := List Host.Cell

def Memory.read (m : Memory) (a : Nat) : Byte := SMap.get (0 : Byte) m a
def Memory.write (m : Memory) (a : Nat) (b : Byte) : Memory := SMap.put (0 : Byte) m a b
def Memory.wf (m : Memory) : Bool := SMap.wf (0 : Byte) m

/-- The `n` bytes from `a`, little-endian (R15), as a number. -/
def Memory.readN (m : Memory) : Nat → Nat → Nat
  | 0, _ => 0
  | n + 1, a => (Memory.read m a).toNat + 256 * Memory.readN m n (a + 1)

/-- Store `n` bytes of the number `v`, little-endian (R15), from `a`. -/
def Memory.writeN (m : Memory) : Nat → Nat → Nat → Memory
  | 0, _, _ => m
  | n + 1, a, v => Memory.writeN (Memory.write m a (BitVec.ofNat 8 v)) n (a + 1) (v / 256)

/-- Store those bytes of `v` whose mask bit is 1. -/
def Memory.writeMasked (m : Memory) : Nat → Nat → Nat → Nat → Memory
  | 0, _, _, _ => m
  | n + 1, a, v, mask =>
    Memory.writeMasked (if mask % 2 = 1 then Memory.write m a (BitVec.ofNat 8 v) else m) n (a + 1) (v / 256) (mask / 2)

def Memory.readLine (m : Memory) (a : Nat) : Line := BitVec.ofNat 1024 (Memory.readN m 128 a)
def Memory.writeLine (m : Memory) (a : Nat) (l : Line) : Memory := Memory.writeN m 128 a l.toNat
def Memory.read32 (m : Memory) (a : Nat) : W32 := BitVec.ofNat 32 (Memory.readN m 4 a)
def Memory.read64 (m : Memory) (a : Nat) : W64 := BitVec.ofNat 64 (Memory.readN m 8 a)

/-! Bit fields. -/

/-- Bits `[hi:lo]` of a number. -/
def bitsN (w hi lo : Nat) : Nat := (w / 2 ^ lo) % 2 ^ (hi + 1 - lo)

/-- Bit `i` of a number. -/
def bitN (w i : Nat) : Bool := (w / 2 ^ i) % 2 == 1

/-- `w` with bits `[hi:lo]` replaced by `v`. -/
def setBitsN (w hi lo v : Nat) : Nat :=
  let n := hi + 1 - lo
  w % 2 ^ lo + 2 ^ lo * (v % 2 ^ n) + 2 ^ (hi + 1) * (w / 2 ^ (hi + 1))

/-- `w` with bit `i` set to `b`. -/
def setBitN (w i : Nat) (b : Bool) : Nat := setBitsN w i i (if b then 1 else 0)

/-- The signed reading of the low `n` bits. -/
def sext (n w : Nat) : Int := let v := w % 2 ^ n; if v < 2 ^ (n - 1) then (v : Int) else (v : Int) - (2 ^ n : Nat)

/-- An integer as `n`-bit two's complement. -/
def ofInt (n : Nat) (z : Int) : Nat := (z % (2 ^ n : Nat)).toNat

/-- Byte `i` of a line, as a number. -/
def lineByte (l : Line) (i : Nat) : Nat := bitsN l.toNat (8 * i + 7) (8 * i)
/-- 32-bit word `i` of a line. -/
def lineW32 (l : Line) (i : Nat) : W32 := BitVec.ofNat 32 (l.toNat / 2 ^ (32 * i))
/-- 64-bit word `i` of a line. -/
def lineW64 (l : Line) (i : Nat) : W64 := BitVec.ofNat 64 (l.toNat / 2 ^ (64 * i))

/-- A line from a list of items of `w` bits, the first lowest. -/
def packN (w : Nat) : List Nat → Nat
  | [] => 0
  | x :: xs => x % 2 ^ w + 2 ^ w * packN w xs

def lineOf (w : Nat) (xs : List Nat) : Line := BitVec.ofNat 1024 (packN w xs)

/-- The number of set bits among the low `n`. -/
def popN : Nat → Nat → Nat
  | 0, _ => 0
  | n + 1, w => w % 2 + popN n (w / 2)

/-- 0 or 1. -/
def b2n (b : Bool) : Nat := if b then 1 else 0

/-- The sum of a list. -/
def sumN (xs : List Nat) : Nat := xs.foldl (· + ·) 0

/-- Ceiling division. -/
def cdiv (a b : Nat) : Nat := (a + b - 1) / b

end Sys2Proof.Machine
end

