-- ==== Sys2Proof/Machine/Hash.lean ====
section
/-! DEFINITION. Philox-4x32-10 (R74, R134, R413), the CRC of pack entries (R104), CRC-32C (R437, R441) and the
digest hash (R410). -/

namespace Sys2Proof.Machine

/-- One Philox-4x32 round on (c0, c1, c2, c3) with key (k0, k1). -/
def philoxRound (c : Nat × Nat × Nat × Nat) (k0 k1 : Nat) : Nat × Nat × Nat × Nat :=
  let p0 := 0xD2511F53 * c.1
  let p1 := 0xCD9E8D57 * c.2.2.1
  ((p1 / 2 ^ 32) ^^^ c.2.1 ^^^ k0, p1 % 2 ^ 32, (p0 / 2 ^ 32) ^^^ c.2.2.2 ^^^ k1, p0 % 2 ^ 32)

def philoxRounds : Nat → Nat × Nat × Nat × Nat → Nat → Nat → Nat × Nat × Nat × Nat
  | 0, c, _, _ => c
  | n + 1, c, k0, k1 => philoxRounds n (philoxRound c k0 k1) ((k0 + 0x9E3779B9) % 2 ^ 32) ((k1 + 0xBB67AE85) % 2 ^ 32)

/-- Philox-4x32-10 (R74): the four output words. -/
def philox (key0 key1 c0 c1 c2 c3 : Nat) : Nat × Nat × Nat × Nat :=
  philoxRounds 10 (c0 % 2 ^ 32, c1 % 2 ^ 32, c2 % 2 ^ 32, c3 % 2 ^ 32) (key0 % 2 ^ 32) (key1 % 2 ^ 32)

def philoxWord (o : Nat × Nat × Nat × Nat) : Nat → Nat
  | 0 => o.1 | 1 => o.2.1 | 2 => o.2.2.1 | _ => o.2.2.2

/-- Eight steps of a most-significant-bit-first CRC-16 with polynomial 0x1021. -/
def crc16Bits : Nat → Nat → Nat
  | 0, c => c
  | n + 1, c => crc16Bits n (if bitN c 15 then ((c * 2) % 2 ^ 16) ^^^ 0x1021 else (c * 2) % 2 ^ 16)

/-- CRC-16 of R104 over bytes, from 0xFFFF. -/
def crc16 (bs : List Nat) : Nat := bs.foldl (fun c b => crc16Bits 8 (c ^^^ (b * 256))) 0xFFFF

def crc32cBits : Nat → Nat → Nat
  | 0, c => c
  | n + 1, c => crc32cBits n (if c % 2 = 1 then (c / 2) ^^^ 0x82F63B78 else c / 2)

/-- CRC-32C over bytes. -/
def crc32c (bs : List Nat) : Nat := (bs.foldl (fun c b => crc32cBits 8 (c ^^^ b)) 0xFFFFFFFF) ^^^ 0xFFFFFFFF

/-- The mixing function of R410. -/
def mix (z0 : Nat) : Nat :=
  let z1 := z0 ^^^ (z0 / 2 ^ 30)
  let z2 := z1 * 0xBF58476D1CE4E5B9 % 2 ^ 64
  let z3 := z2 ^^^ (z2 / 2 ^ 27)
  let z4 := z3 * 0x94D049BB133111EB % 2 ^ 64
  z4 ^^^ (z4 / 2 ^ 31)

/-- The hash of one contributing line (R410): descriptor index `k`, line index `n`, the line's words, a byte
that was not written taken as zero, a poisoned line taken as all ones. -/
def lineHash (k n : Nat) (l : Line) (poison : Bool) : Nat :=
  (List.range 16).foldl (fun h i => mix (h ^^^ (if poison then 2 ^ 64 - 1 else (lineW64 l i).toNat)))
    (mix ((k * 2 ^ 32 ||| n) % 2 ^ 64))

/-- A digest after one more line: addition modulo 2^64 (R410). -/
def digestAdd (digest h : Nat) : Nat := (digest + h) % 2 ^ 64

/-- Expand a byte mask to a mask of bits. -/
def maskBits : Nat → Nat → Nat
  | 0, _ => 0
  | n + 1, m => (if m % 2 = 1 then 255 else 0) + 256 * maskBits n (m / 2)

/-- The line with every byte outside the mask zero. -/
def maskLine (l : Line) (mask : Nat) : Line := BitVec.ofNat 1024 (l.toNat &&& maskBits 128 mask)

/-- The bytes of a number, lowest first. -/
def bytesOf : Nat → Nat → List Nat
  | 0, _ => []
  | n + 1, v => (v % 256) :: bytesOf n (v / 256)

end Sys2Proof.Machine
end

