-- ==== Sys2Proof/Machine/Codebook.lean ====
section
/-! DEFINITION. The fixed codebooks CB-E8 and CB-D4 (R96, R97, R99): a code's entry, by counting the points
before it in the order of the reference enumeration. -/

namespace Sys2Proof.Machine.Codebook

/-- The coordinates of one parity class in −6 to 6, ascending; `odd` selects odd coordinates. -/
def e8Coords (odd : Bool) : List Int := if odd then [-5, -3, -1, 1, 3, 5] else [-6, -4, -2, 0, 2, 4, 6]

def d4Coords : List Int := [-3, -2, -1, 0, 1, 2, 3]

/-- Number of ways to complete `d` coordinates from `cs` with squared norm `n` and sum `s` modulo `m`, read from
a table of rows (by norm) of counts (by sum modulo m). -/
def look (t : List (List Nat)) (n : Int) (s m : Nat) : Nat :=
  if n < 0 then 0 else (t.getD n.toNat []).getD (s % m) 0

/-- Table for one coordinate more. -/
def grow (cs : List Int) (top m : Nat) (t : List (List Nat)) : List (List Nat) :=
  (List.range (top + 1)).map (fun (n : Nat) => (List.range m).map (fun (s : Nat) =>
    sumN (cs.map (fun y => look t ((n : Int) - y * y) ((((s : Int) - y) % (m : Int)).toNat) m))))

/-- Tables for 0, 1, …, `k` coordinates. -/
def tables (cs : List Int) (top m : Nat) : Nat → List (List (List Nat))
  | 0 => [(List.range (top + 1)).map (fun (n : Nat) => (List.range m).map (fun (s : Nat) => if n = 0 ∧ s = 0 then 1 else 0))]
  | k + 1 => let ts := tables cs top m k; grow cs top m (ts.headD []) :: ts

/-- Tables with the largest number of coordinates last. -/
def e8Even : List (List (List Nat)) := (tables (e8Coords false) 48 4 7).reverse
def e8Odd : List (List (List Nat)) := (tables (e8Coords true) 48 4 7).reverse
def d4Tab : List (List (List Nat)) := (tables d4Coords 10 2 3).reverse

/-- Choose one coordinate: the first of `cs` whose completions hold index `c`; the counts of the coordinates
before it are passed over. -/
def pick (count : Int → Nat) : List Int → Nat → Int × Nat
  | [], c => (0, c)
  | y :: ys, c => if c < count y then (y, c) else pick count ys (c - count y)

/-- The `c`-th completion of `d` coordinates of norm `n` whose sum is congruent to `s`. -/
def unrank (cs : List Int) (tab : List (List (List Nat))) (m : Nat) : Nat → Int → Nat → Nat → List Int
  | 0, _, _, _ => []
  | d + 1, n, s, c =>
    let cnt (y : Int) := look (tab.getD d []) (n - y * y) ((((s : Int) - y) % (m : Int)).toNat) m
    let r := pick cnt cs c
    r.1 :: unrank cs tab m d (n - r.1 * r.1) ((((s : Int) - r.1) % (m : Int)).toNat) r.2

/-- Points of one shell of CB-E8 whose first coordinate is `y`. -/
def e8Count (n : Int) (y : Int) : Nat :=
  look ((if y % 2 = 0 then e8Even else e8Odd).getD 7 []) (n - y * y) (((-y) % 4).toNat) 4

def e8First : List Int := [-6, -5, -4, -3, -2, -1, 0, 1, 2, 3, 4, 5, 6]

/-- The shell of a code: (norm, index within the shell). -/
def shell (size : Nat → Nat) : List Nat → Nat → Nat × Nat
  | [], c => (0, c)
  | n :: ns, c => if c < size n then (n, c) else shell size ns (c - size n)

/-- Entry `c` of CB-E8: eight doubled coordinates (R96). -/
def e8 (c : Nat) : List Int :=
  let sh := shell (fun n => sumN (e8First.map (e8Count n))) [0, 8, 16, 24, 32, 40, 48] (c % 65536)
  let n : Int := sh.1
  let r := pick (e8Count n) e8First sh.2
  let odd := decide (r.1 % 2 ≠ 0)
  r.1 :: unrank (e8Coords odd) (if odd then e8Odd else e8Even) 4 7 (n - r.1 * r.1) (((-r.1) % 4).toNat) r.2

/-- Entry `c` of CB-D4: four coordinates (R99). -/
def d4 (c : Nat) : List Int :=
  let cnt (n : Int) (y : Int) := look (d4Tab.getD 3 []) (n - y * y) (((-y) % 2).toNat) 2
  let sh := shell (fun n => sumN (d4Coords.map (cnt n))) [0, 2, 4, 6, 8, 10] (c % 256)
  let n : Int := sh.1
  let r := pick (cnt n) d4Coords sh.2
  r.1 :: unrank d4Coords d4Tab 2 3 (n - r.1 * r.1) (((-r.1) % 2).toNat) r.2

end Sys2Proof.Machine.Codebook
end

