-- ==== Sys2Proof/Config.lean ====
section
/-! DEFINITION. What the manual leaves open or keeps to the individual part: constants and functions with no
body, so that nothing can evaluate them. Each is named in an assumption row. -/

namespace Sys2Proof.Config

/-- A fresh free value: `free k` for the plain counter of State (assumption 6). -/
opaque free : Nat → W64
/-- The bytes of a line whose content an uncorrectable error has lost (assumption 6). -/
opaque freeLine : Nat → Line

/-! Fast special functions (R126: "Forsiost does not publish them"; assumption 10). Those of R125 are `fastFn`, beside the
bounds that bind it in Machine/Float.lean. -/

/-- Fast cosine of ROPE for a phase in units of 2^-32 turn (R130). -/
opaque fastCos : Nat → W32
/-- Fast sine of ROPE for a phase in units of 2^-32 turn (R130). -/
opaque fastSin : Nat → W32

/-! Values fused per part (R484; assumption 7). -/

/-- PAGE_VER.STEP. -/
opaque step : BitVec 16
/-- The fuse words from which the V/F tables are read: (umbel, entry) to a raw frequency choice. -/
opaque vfFreq : Nat → Nat → Nat
/-- The raw voltage choice of an entry, mV above 550. -/
opaque vfVolt : Nat → Nat → Nat
/-- The fused choices behind the die fabric's minimum, by half, and behind the SRAM voltage, by frequency (0: retention). -/
opaque dieMin : Nat → Nat
opaque sramVolt : Nat → Nat
/-- The physical floret that test replaced with the spare of an umbel; 16 and above for none. -/
opaque spareFor : Nat → Nat
/-- The device's fused identity words. -/
opaque devId : Nat → W32

/-! Cryptographic primitives (chapter 16; assumption 8): the standard functions, uninterpreted. -/

/-- SHA-384 of a byte string. -/
opaque sha384 : List Byte → Nat
/-- First 8 bytes of the SHA-256 or SHA-384 digest of a byte string, as the rule names it. -/
opaque sha256 : List Byte → Nat
/-- ECDSA P-384 verification: public key, message, signature. -/
opaque ecdsaVerify : Nat → List Byte → Nat → Bool
/-- ECDSA P-384 signature by the key of the given handle. -/
opaque ecdsaSign : Nat → List Byte → Nat
/-- ECDH P-384 shared secret of the device's ephemeral key number and the peer's public value. -/
opaque ecdh : Nat → Nat → Nat
/-- HKDF: key and label to a key. -/
opaque hkdf : Nat → List Byte → Nat
/-- AES-256-XTS or -GCM over a byte string: key, tweak or nonce, text. -/
opaque aesDec : Nat → Nat → List Byte → List Byte
opaque aesEnc : Nat → Nat → List Byte → List Byte
/-- AES key unwrap: wrapping key, wrapped key; none when the check fails. -/
opaque keyUnwrap : Nat → Nat → Option Nat
/-- Output of the random-number generator, by draw number. -/
opaque random : Nat → Nat

/-- Hops to the time master over the parent on a link (R322); how a device learns them is not stated (assumption 6). -/
opaque timeDepth : Nat → Nat

/-- The digests of measurement indices 1 to 7 (R391), by index, running image slot and SVN floor. -/
opaque measured : Nat → Nat → Nat → Nat

/-- How the fields of a snapshot record lie in its bytes, by section in the order of R422: the manual names what a record
holds and how long it is, and no layout (assumption 26). -/
opaque snapRecord : Nat → List Nat → Nat

/-! Physics the controller only estimates (assumption 9). -/

/-- The phase-hint and activity estimate of an umbel's power, mW: umbel, aclk, duty, phase. -/
opaque estUmbel : Nat → Nat → Nat → Nat → Nat

/-! Peruldo packets (R321, R414: raw and coded sizes are not published; assumption 12). -/

/-- Raw size in bytes of a packet of kind `k` (in the order of R308). -/
opaque packetBytes : Nat → Nat
/-- Coded size of a payload line. -/
opaque codedBytes : Line → Nat
/-- The entry of the outstanding-line table that a line address hashes to (R311). -/
opaque lineHash : Nat → Nat

end Sys2Proof.Config
end

