-- ==== Sys2Proof/Machine/Float.lean ====
section
/-! DEFINITION. Number formats and floating-point arithmetic (chapter "Number Formats and Arithmetic",
R49 to R67, and the special functions of R125, R126). A floating result is a pair: the container bits and
the FL_FP_STAT bits it raises (R69). -/

namespace Sys2Proof.Machine.Fp

/-! FL_FP_STAT bits (R69). -/
def fNV : W32 := 0x1
def fDZ : W32 := 0x2
def fOF : W32 := 0x4
def fUF : W32 := 0x8
def fNX : W32 := 0x10
def fNAN : W32 := 0x100
def fOVF : W32 := 0x200
def fFTZ : W32 := 0x400
def fSCALE : W32 := 0x800
def fINT : W32 := 0x1000

/-- A result and the flags it raises. -/
abbrev FR := W32 × W32

/-- The canonical NaN (R56, R59). -/
def qNaN : W32 := 0x7FC00000
def infBits (neg : Bool) : W32 := if neg then 0xFF800000 else 0x7F800000
def zeroBits (neg : Bool) : W32 := if neg then 0x80000000 else 0

/-- The class of a binary32 container; `fin neg m e` is ±m × 2^e with m > 0. -/
inductive Cls where
  | nan (b : W32)
  | inf (neg : Bool)
  | zero (neg : Bool)
  | fin (neg : Bool) (m : Nat) (e : Int)
  deriving DecidableEq, Repr

def signOf (x : W32) : Bool := x.msb
def expOf (x : W32) : Nat := bitsN x.toNat 30 23
def fracOf (x : W32) : Nat := bitsN x.toNat 22 0

/-- IEEE classification of a container, subnormals kept. -/
def classify (x : W32) : Cls :=
  if expOf x = 255 then (if fracOf x = 0 then .inf (signOf x) else .nan x)
  else if expOf x = 0 then (if fracOf x = 0 then .zero (signOf x) else .fin (signOf x) (fracOf x) (-149))
  else .fin (signOf x) (fracOf x + 2 ^ 23) ((expOf x : Int) - 150)

def isSubnormal (x : W32) : Bool := expOf x == 0 && fracOf x != 0
def isNaN (x : W32) : Bool := expOf x == 255 && fracOf x != 0
def isSNaN (x : W32) : Bool := isNaN x && !x.getLsbD 22
def isInf (x : W32) : Bool := expOf x == 255 && fracOf x == 0

/-- An operand as an operation takes it: in fast mode a subnormal is a zero of its own sign (R56). -/
def operand (strict : Bool) (x : W32) : Cls × W32 :=
  if !strict && isSubnormal x then (.zero (signOf x), fFTZ) else (classify x, 0)

/-- Bits needed to write `m`. -/
def blen (m : Nat) : Nat := if m = 0 then 0 else Nat.log2 m + 1

/-- `m / 2^k` rounded to nearest, ties to even (R54). -/
def rneShift (m k : Nat) : Nat :=
  let q := m / 2 ^ k
  let r := m % 2 ^ k
  if 2 * r > 2 ^ k then q + 1 else if 2 * r = 2 ^ k then (if k = 0 then q else q + q % 2) else q

/-- `m × 2^e` scaled to the quantum `2^q`, rounded RNE. -/
def toQuantum (m : Nat) (e q : Int) : Nat :=
  if q ≤ e then m * 2 ^ (e - q).toNat else rneShift m (q - e).toNat

/-- Whether `m × 2^e` is a multiple of `2^q`. -/
def exactAt (m : Nat) (e q : Int) : Bool :=
  if q ≤ e then true else m % 2 ^ (q - e).toNat == 0

/-- A binary32 container from a sign, a significand of at most 24 bits and its exponent. -/
def pack (neg : Bool) (m : Nat) (e : Int) : W32 :=
  let s := if neg then 2 ^ 31 else 0
  if m < 2 ^ 23 then BitVec.ofNat 32 (s + m)
  else BitVec.ofNat 32 (s + ((e + 150).toNat) * 2 ^ 23 + (m - 2 ^ 23))

/-- Round ±m × 2^e (m > 0) once to `p` significand bits (24, or 11 for F19), to nearest with ties to even,
with the mode's rules for subnormal results and overflow (R54, R56, R59, R122). A value that is not dyadic
is given by a significand with many extra bits whose lowest bit is a sticky bit. -/
def round (strict : Bool) (p : Nat) (neg : Bool) (m : Nat) (e : Int) : FR :=
  let ev : Int := (blen m : Int) - 1 + e
  let q0 : Int := ev - ((p : Int) - 1)
  let r0 := toQuantum m e q0
  let up := decide (r0 = 2 ^ p)
  let ev' : Int := if up then ev + 1 else ev
  let nx0 := !exactAt m e q0
  if ev' > 127 then
    (infBits neg, if strict then fOF ||| fNX else fOVF)
  else if ev' < -126 then
    if strict then
      let r := toQuantum m e (-149)
      let nx := !exactAt m e (-149)
      (BitVec.ofNat 32 ((if neg then 2 ^ 31 else 0) + r), if nx then fUF ||| fNX else 0)
    else (zeroBits neg, fFTZ)
  else
    let sig := if up then 2 ^ 23 else r0 * 2 ^ (24 - p)
    (pack neg sig (ev' - 23), if strict && nx0 then fNX else 0)

/-- The NaN result of an operation with NaN operands: R60 in strict mode, R56 in fast mode, where a subnormal operand
beside the NaN is taken as zero before any other step and raises its flag (R69). -/
def nanOf (strict : Bool) (xs : List W32) : FR :=
  if strict then
    (match xs.find? isNaN with
     | some x => x ||| 0x00400000
     | none => qNaN, if xs.any isSNaN then fNV else 0)
  else (qNaN, if xs.any isSubnormal then fFTZ else 0)

/-- An invalid operation without a NaN operand (R57, R59, R60). -/
def invalid (strict : Bool) : FR := (qNaN, if strict then fNV else fNAN)

def withFlags (f : W32) (r : FR) : FR := (r.1, r.2 ||| f)

/-- Subnormal flags an operation's operands raise in fast mode. -/
def inFlags (strict : Bool) (xs : List W32) : W32 :=
  if !strict && xs.any isSubnormal then fFTZ else 0

/-- ±m × 2^e as an integer over a common quantum. -/
def signed (neg : Bool) (m : Nat) : Int := if neg then -(m : Int) else m

/-- The rounded sum of two exact dyadic values, of which at least one is not zero. -/
def addDy (strict : Bool) (p : Nat) (n1 : Bool) (m1 : Nat) (e1 : Int) (n2 : Bool) (m2 : Nat) (e2 : Int) : FR :=
  let e := if e1 ≤ e2 then e1 else e2
  let z := signed n1 (m1 * 2 ^ (e1 - e).toNat) + signed n2 (m2 * 2 ^ (e2 - e).toNat)
  if z = 0 then (0, 0) else round strict p (decide (z < 0)) z.natAbs e

/-- The sum of two classified operands with no NaN among them. -/
def addCls (strict : Bool) (p : Nat) (a b : Cls) : FR :=
  match a, b with
  | .inf s, .inf t => if s = t then (infBits s, 0) else invalid strict
  | .inf s, _ => (infBits s, 0)
  | _, .inf t => (infBits t, 0)
  | .zero s, .zero t => (zeroBits (s && t), 0)
  | .fin s m e, .zero _ => round strict p s m e
  | .zero _, .fin t m e => round strict p t m e
  | .fin s m e, .fin t n g => addDy strict p s m e t n g
  | .nan x, _ => nanOf strict [x]
  | _, .nan x => nanOf strict [x]

/-- a + b rounded once to `p` bits. -/
def add (strict : Bool) (p : Nat) (a b : W32) : FR :=
  if isNaN a || isNaN b then nanOf strict [a, b]
  else withFlags (inFlags strict [a, b]) (addCls strict p (operand strict a).1 (operand strict b).1)

/-- The sign change of a container; a NaN keeps its bits. -/
def neg (x : W32) : W32 := if isNaN x then x else x ^^^ 0x80000000

def sub (strict : Bool) (p : Nat) (a b : W32) : FR := add strict p a (neg b)

/-- a × b rounded once to `p` bits. -/
def mul (strict : Bool) (p : Nat) (a b : W32) : FR :=
  if isNaN a || isNaN b then nanOf strict [a, b]
  else withFlags (inFlags strict [a, b])
    (match (operand strict a).1, (operand strict b).1 with
     | .inf _, .zero _ => invalid strict
     | .zero _, .inf _ => invalid strict
     | .inf s, .inf t => (infBits (s != t), 0)
     | .inf s, .fin t _ _ => (infBits (s != t), 0)
     | .fin s _ _, .inf t => (infBits (s != t), 0)
     | .zero s, .zero t => (zeroBits (s != t), 0)
     | .zero s, .fin t _ _ => (zeroBits (s != t), 0)
     | .fin s _ _, .zero t => (zeroBits (s != t), 0)
     | .fin s m e, .fin t n g => round strict p (s != t) (m * n) (e + g)
     | _, _ => nanOf strict [a, b])

/-- a × b + c rounded once to `p` bits. -/
def fma (strict : Bool) (p : Nat) (a b c : W32) : FR :=
  let ca := (operand strict a).1
  let cb := (operand strict b).1
  let inv0 : Bool := match ca, cb with
    | .inf _, .zero _ => true
    | .zero _, .inf _ => true
    | _, _ => false
  if isNaN a || isNaN b || isNaN c then
    withFlags (if strict && inv0 then fNV else 0) (nanOf strict [a, b, c])
  else if inv0 then withFlags (inFlags strict [a, b, c]) (invalid strict)
  else
    let prod : Cls := match ca, cb with
      | .inf s, .inf t => .inf (s != t)
      | .inf s, .fin t _ _ => .inf (s != t)
      | .fin s _ _, .inf t => .inf (s != t)
      | .zero s, .zero t => .zero (s != t)
      | .zero s, .fin t _ _ => .zero (s != t)
      | .fin s _ _, .zero t => .zero (s != t)
      | .fin s m e, .fin t n g => .fin (s != t) (m * n) (e + g)
      | _, _ => .zero false
    withFlags (inFlags strict [a, b, c]) (addCls strict p prod (operand strict c).1)

/-- a ÷ b rounded once to `p` bits (R57, R59, R125). -/
def div (strict : Bool) (p : Nat) (a b : W32) : FR :=
  if isNaN a || isNaN b then nanOf strict [a, b]
  else withFlags (inFlags strict [a, b])
    (match (operand strict a).1, (operand strict b).1 with
     | .inf _, .inf _ => invalid strict
     | .zero _, .zero _ => invalid strict
     | .inf s, .zero t => (infBits (s != t), 0)
     | .inf s, .fin t _ _ => (infBits (s != t), 0)
     | .zero s, .fin t _ _ => (zeroBits (s != t), 0)
     | .zero s, .inf t => (zeroBits (s != t), 0)
     | .fin s _ _, .inf t => (zeroBits (s != t), 0)
     | .fin s _ _, .zero t => (infBits (s != t), if strict then fDZ else 0)
     | .fin s m e, .fin t n g =>
       let q := m * 2 ^ 64 / n
       let sticky := if m * 2 ^ 64 % n = 0 then 0 else 1
       round strict p (s != t) (2 * q + sticky) (e - g - 65)
     | _, _ => nanOf strict [a, b])

/-- The floor of the square root, bit by bit from bit `k - 1`. -/
def isqrtAux (n : Nat) : Nat → Nat → Nat
  | 0, r => r
  | k + 1, r => isqrtAux n k (if (r + 2 ^ k) * (r + 2 ^ k) ≤ n then r + 2 ^ k else r)

def isqrt (n : Nat) : Nat := isqrtAux n (blen n / 2 + 1) 0

/-- Square root rounded once to `p` bits. -/
def sqrt (strict : Bool) (p : Nat) (a : W32) : FR :=
  if isNaN a then nanOf strict [a]
  else withFlags (inFlags strict [a])
    (match (operand strict a).1 with
     | .zero s => (zeroBits s, 0)
     | .inf false => (infBits false, 0)
     | .inf true => invalid strict
     | .fin true _ _ => invalid strict
     | .fin false m e =>
       let m' := if e % 2 = 0 then m else 2 * m
       let e' := if e % 2 = 0 then e else e - 1
       let n := m' * 2 ^ 80
       let r := isqrt n
       let sticky := if r * r = n then 0 else 1
       round strict p false (2 * r + sticky) (e' / 2 - 41)
     | .nan _ => nanOf strict [a])

/-! Special functions by fixed-point arithmetic on 192 fraction bits (assumption 11): the significand
returned ends in a sticky bit that stands for the bits cut off. -/

def fxBits : Nat := 192

/-- 2^f for 0 ≤ f = num / 2^k < 1, in units of 2^-192, by the binary digits of f and repeated square roots. -/
def exp2Frac : Nat → Nat → Nat → Nat → Nat
  | 0, _, _, acc => acc
  | k + 1, num, root, acc =>
    let root' := isqrt (root * 2 ^ fxBits)
    let acc' := if bitN num k then acc * root' / 2 ^ fxBits else acc
    exp2Frac k num root' acc'

/-- log2 of y in [1, 2), y in units of 2^-192: `k` binary digits by repeated squaring. -/
def log2Frac : Nat → Nat → Nat → Nat
  | 0, _, acc => acc
  | k + 1, y, acc =>
    let y2 := y * y / 2 ^ fxBits
    if 2 ^ (fxBits + 1) ≤ y2 then log2Frac k (y2 / 2) (2 * acc + 1) else log2Frac k y2 (2 * acc)

/-- A non-zero real as a significand with a sticky lowest bit, an exponent and a sign. -/
structure Approx where
  neg : Bool
  m : Nat
  e : Int
  deriving DecidableEq, Repr

/-- 2^x for finite non-zero x = ±m × 2^e. -/
def exp2Approx (neg : Bool) (m : Nat) (e : Int) : Approx :=
  if e ≥ 0 then
    let n := signed neg (m * 2 ^ e.toNat)
    ⟨false, 1, if n > 4096 then 4096 else if n < -4096 then -4096 else n⟩
  else
    let k := (-e).toNat
    let z := signed neg m
    let n := z / (2 ^ k : Nat)
    let f := (z - n * (2 ^ k : Nat)).toNat
    if f = 0 then ⟨false, 1, n⟩
    else ⟨false, 2 * exp2Frac k f (2 ^ (fxBits + 1)) (2 ^ fxBits) + 1,
          (if n > 4096 then 4096 else if n < -4096 then -4096 else n) - (fxBits : Int) - 1⟩

/-- log2 of m × 2^e; none when the result is zero. -/
def log2Approx (m : Nat) (e : Int) : Option Approx :=
  let l := blen m - 1
  let n : Int := (l : Int) + e
  if m = 2 ^ l then (if n = 0 then none else some ⟨decide (n < 0), n.natAbs, 0⟩)
  else
    let y := m * 2 ^ fxBits / 2 ^ l
    let f := log2Frac 120 y 0
    let z := n * (2 ^ 120 : Nat) + f
    if z < 0 then some ⟨true, 2 * (z.natAbs - 1) + 1, -121⟩ else some ⟨false, 2 * z.natAbs + 1, -121⟩

/-- 1 ÷ (m × 2^e). -/
def rcpApprox (neg : Bool) (m : Nat) (e : Int) : Approx :=
  ⟨neg, 2 * (2 ^ 96 / m) + (if 2 ^ 96 % m = 0 then 0 else 1), -97 - e⟩

/-- 1 ÷ √(m × 2^e). -/
def rsqApprox (m : Nat) (e : Int) : Approx :=
  let m' := if e % 2 = 0 then m else 2 * m
  let e' := if e % 2 = 0 then e else e - 1
  let r := isqrt (2 ^ 192 / m')
  ⟨false, 2 * r + (if r * r * m' = 2 ^ 192 then 0 else 1), -97 - e' / 2⟩

/-- The special functions of R125. -/
inductive Fn where
  | exp2 | log2 | rcp | rsq
  deriving DecidableEq, Repr

/-- |x| in units of `2^q` is at most `b`, where x is an integer multiple. -/
def dist (a b : Int) : Nat := (a - b).natAbs

/-- Whether the finite non-zero container `c` lies within 2 ulp of the value approximated (R125). -/
def within2ulp (c : W32) (a : Approx) : Bool :=
  match classify c with
  | .fin s m e =>
    let big : Int := (blen a.m : Int) - 1 + a.e
    let q := if e ≤ a.e then e else a.e
    let q := if q ≤ big - 23 then q else big - 23
    decide (dist (signed s (m * 2 ^ (e - q).toNat)) (signed a.neg (a.m * 2 ^ (a.e - q).toNat))
      ≤ 2 * 2 ^ (big - 23 - q).toNat + 2 ^ (a.e - q).toNat)
  | _ => false

/-- A table of fast results: the bits that silicon gives a function's operand. -/
abbrev FnTable := Fn → W32 → W32

/-- The value of a special function at a finite non-zero operand: correctly rounded with STRICT set; with
STRICT clear the table's own bits where they meet the bound of R125 (assumption 10), except in the exact cases. -/
def special1 (t : Option FnTable) (strict : Bool) (fn : Fn) (x : W32) (a : Approx) (exact : Bool) : FR :=
  let r := round strict 24 a.neg a.m a.e
  match t with
  | none => r
  | some t =>
    if strict || exact then r
    else
      let normal : Bool := match classify r.1 with
        | .fin _ m _ => decide (2 ^ 23 ≤ m)
        | _ => false
      let c := t fn x
      if normal && within2ulp c a && !isSubnormal c then (c, r.2) else r

def isPow2 (m : Nat) : Bool := decide (m = 2 ^ (blen m - 1))

/-- EXP2, LOG2, RCP and RSQ of R125, to binary32, over a table of fast results; without one, every result is correctly
rounded. -/
def specialBy (tb : Option FnTable) (strict : Bool) (fn : Fn) (x : W32) : FR :=
  if isNaN x then nanOf strict [x]
  else withFlags (inFlags strict [x])
    (match fn, (operand strict x).1 with
     | .exp2, .inf true => (0, 0)
     | .exp2, .inf false => (infBits false, 0)
     | .exp2, .zero _ => (0x3F800000, 0)
     | .exp2, .fin s m e =>
       let a := exp2Approx s m e
       special1 tb strict fn x a (decide (a.m = 1))
     | .log2, .inf false => (infBits false, 0)
     | .log2, .inf true => invalid strict
     | .log2, .zero _ => (infBits true, if strict then fDZ else 0)
     | .log2, .fin true _ _ => invalid strict
     | .log2, .fin false m e =>
       (match log2Approx m e with
        | none => (0, 0)
        | some a => special1 tb strict fn x a (isPow2 m))
     | .rcp, .inf s => (zeroBits s, 0)
     | .rcp, .zero s => (infBits s, if strict then fDZ else 0)
     | .rcp, .fin s m e => special1 tb strict fn x (rcpApprox s m e) (isPow2 m)
     | .rsq, .inf false => (0, 0)
     | .rsq, .inf true => invalid strict
     | .rsq, .zero s => (infBits s, if strict then fDZ else 0)
     | .rsq, .fin true _ _ => invalid strict
     | .rsq, .fin false m e =>
       special1 tb strict fn x (rsqApprox m e) (isPow2 m && decide (((blen m - 1 : Nat) + e : Int) % 2 = 0))
     | _, .nan b => nanOf strict [b])

/-- The value order: −0 and +0 are equal. -/
def valKey (strict : Bool) (x : W32) : Int :=
  let m := if !strict && isSubnormal x then 0 else bitsN x.toNat 30 0
  if signOf x then -(m : Int) else (m : Int)

/-- Operands `x` below or equal to `y` on one stretch over which the exact function is monotonic (R125). -/
def stretch (fn : Fn) (x y : W32) : Bool :=
  !isNaN x && !isNaN y && decide (valKey false x ≤ valKey false y) &&
    (match fn with
     | .exp2 => true
     | .log2 => decide (0 ≤ valKey false x)
     | .rcp => decide (0 < valKey false x) || decide (valKey false y < 0)
     | .rsq => decide (0 < valKey false x))

/-- The function falls where it is monotonic. -/
def Fn.falls : Fn → Bool
  | .exp2 => false | .log2 => false | .rcp => true | .rsq => true

/-- Fast results over the table are monotonic wherever the exact function is (R125). -/
def Monotonic (t : FnTable) : Prop :=
  ∀ fn x y, stretch fn x y = true →
    let u := valKey false (specialBy (some t) false fn x).1
    let v := valKey false (specialBy (some t) false fn y).1
    if fn.falls then v ≤ u else u ≤ v

/-- Silicon's fast functions: the correctly rounded ones, or a table whose results are monotonic. -/
inductive FastFn where
  | rounded
  | table (t : FnTable) (ok : Monotonic t)
  deriving Inhabited

def FastFn.tab : FastFn → Option FnTable
  | .rounded => none
  | .table t _ => some t

end Sys2Proof.Machine.Fp

namespace Sys2Proof.Config

/-- The fast EXP2, LOG2, RCP and RSQ of silicon (R126: "Forsiost does not publish them"): one fixed function each, bound by
the bounds, exact cases and monotonicity of R125 (assumption 10). -/
opaque fastFn : Machine.Fp.FastFn

end Sys2Proof.Config

namespace Sys2Proof.Machine.Fp

/-- EXP2, LOG2, RCP and RSQ of R125 and R126. -/
def special (strict : Bool) (fn : Fn) (x : W32) : FR := specialBy Config.fastFn.tab strict fn x

/-! Sine and cosine of a phase in units of 2^-32 turn (R130). -/

def piFx : Nat := 0x3243f6a8885a308d313198a2e03707344a4093822299f31d008

/-- Taylor terms of sin (odd start) or cos (even start) for the angle `x` in units of 2^-200. -/
def taylor : Nat → Nat → Nat → Nat → Int
  | 0, _, _, _ => 0
  | k + 1, x2, term, i => (term : Int) - taylor k x2 (term * x2 / 2 ^ 200 / ((i + 1) * (i + 2))) (i + 2)

/-- cos and sin, in units of 2^-200, of a phase below an eighth of a turn (2^29). -/
def cosSinOct (phase : Nat) : Nat × Nat :=
  let x := phase * piFx / 2 ^ 31
  let x2 := x * x / 2 ^ 200
  ((taylor 40 x2 (2 ^ 200) 0).toNat, (taylor 40 x2 x 1).toNat)

/-- cos and sin of a phase below a quarter turn (2^30). -/
def cosSinQuad (phase : Nat) : Nat × Nat :=
  if phase ≤ 2 ^ 29 then cosSinOct phase
  else let r := cosSinOct (2 ^ 30 - phase); (r.2, r.1)

/-- (c, s) as signed magnitudes in units of 2^-200, for a phase that is no multiple of 2^30. -/
def cosSin (phase : Nat) : Approx × Approx :=
  let r := cosSinQuad (phase % 2 ^ 30)
  let mk (n : Bool) (v : Nat) : Approx := ⟨n, 2 * v + 1, -201⟩
  match phase / 2 ^ 30 % 4 with
  | 0 => (mk false r.1, mk false r.2)
  | 1 => (mk true r.2, mk false r.1)
  | 2 => (mk true r.1, mk true r.2)
  | _ => (mk false r.2, mk true r.1)

/-- Whether a container lies within 2^-22 of a value of `cosSin`. -/
def within22 (c : W32) (a : Approx) : Bool :=
  match classify c with
  | .fin s m e =>
    let q := if e ≤ a.e then e else a.e
    decide (dist (signed s (m * 2 ^ (e - q).toNat)) (signed a.neg (a.m * 2 ^ (a.e - q).toNat)) ≤ 2 ^ (-22 - q).toNat)
  | .zero _ => decide (a.m ≤ 2 ^ 179)
  | _ => false

/-- c and s of R130; rounding them raises no flag. -/
def ropeCS (strict : Bool) (phase : Nat) : W32 × W32 :=
  if phase % 2 ^ 30 = 0 then
    match phase / 2 ^ 30 % 4 with
    | 0 => (0x3F800000, 0)
    | 1 => (0, 0x3F800000)
    | 2 => (0xBF800000, 0)
    | _ => (0, 0xBF800000)
  else
    let r := cosSin phase
    let pick (c : W32) (a : Approx) : W32 :=
      if !strict && within22 c a then c else (round true 24 a.neg a.m a.e).1
    (pick (Config.fastCos phase) r.1, pick (Config.fastSin phase) r.2)

/-! Order, MIN, MAX and compares (R122). -/

/-- A key that orders finite and infinite containers, −0 below +0. -/
def orderKey (strict : Bool) (x : W32) : Int :=
  let m := if !strict && isSubnormal x then 0 else bitsN x.toNat 30 0
  if signOf x then -(m : Int) - 1 else (m : Int)

def maxF (strict : Bool) (a b : W32) : FR :=
  if isNaN a || isNaN b then nanOf strict [a, b]
  else withFlags (inFlags strict [a, b])
    (let r := if orderKey strict a < orderKey strict b then b else a
     (if !strict && isSubnormal r then zeroBits (signOf r) else r, 0))

def minF (strict : Bool) (a b : W32) : FR :=
  if isNaN a || isNaN b then nanOf strict [a, b]
  else withFlags (inFlags strict [a, b])
    (let r := if orderKey strict b < orderKey strict a then b else a
     (if !strict && isSubnormal r then zeroBits (signOf r) else r, 0))

/-- Compare: EQ, NE, LT, LE (R122). -/
inductive Cmp where
  | eq | ne | lt | le
  deriving DecidableEq, Repr

def cmpF (strict : Bool) (c : Cmp) (a b : W32) : Bool × W32 :=
  if isNaN a || isNaN b then
    (false, if !strict then 0 else
      match c with
      | .eq => if isSNaN a || isSNaN b then fNV else 0
      | .ne => if isSNaN a || isSNaN b then fNV else 0
      | .lt => fNV
      | .le => fNV)
  else
    let x := valKey strict a
    let y := valKey strict b
    (match c with
     | .eq => decide (x = y)
     | .ne => decide (x ≠ y)
     | .lt => decide (x < y)
     | .le => decide (x ≤ y), 0)

/-! Conversions. -/

/-- binary32 to F19 with STRICT clear (R55); `trunc` selects TRUNC. -/
def toF19 (trunc : Bool) (x : W32) : FR :=
  if isNaN x then (qNaN, 0)
  else if isInf x then (x, 0)
  else if isSubnormal x then (zeroBits (signOf x), fFTZ)
  else
    let n := x.toNat
    let kept := n / 2 ^ 13 * 2 ^ 13
    let low := n % 2 ^ 13
    let r := if !trunc && (low > 0x1000 || (low == 0x1000 && bitN n 13)) then kept + 0x2000 else kept
    let y := BitVec.ofNat 32 r
    (y, if isInf y then fOVF else 0)

/-- An F19 source operand: converted with STRICT clear, the container with STRICT set (R53, R61). -/
def readF19 (strict trunc : Bool) (x : W32) : FR := if strict then (x, 0) else toF19 trunc x

/-- Round to the nearest integer, ties to even. -/
def rneInt (neg : Bool) (m : Nat) (e : Int) : Int := signed neg (toQuantum m e 0)

/-- binary32 to an integer range (R62): the value and the flags. -/
def toInt (strict : Bool) (lo hi : Int) (x : W32) : Int × W32 :=
  match (operand strict x).1 with
  | .nan _ => (0, if strict then fNV else fINT)
  | .inf s => (if s then lo else hi, if strict then fNV else fINT)
  | .zero _ => (0, (operand strict x).2)
  | .fin s m e =>
    let v := rneInt s m e
    if v < lo then (lo, if strict then fNV else fINT)
    else if v > hi then (hi, if strict then fNV else fINT)
    else (v, if strict && !exactAt m e 0 then fNX else 0)

/-- Integer to binary32 or F19 (R63), `p` significand bits. -/
def ofIntF (strict : Bool) (p : Nat) (v : Int) : FR :=
  if v = 0 then (0, 0) else round strict p (decide (v < 0)) v.natAbs 0

/-- SW16 to binary32, exact (R65); with `c6` the bias is 40 (R67). -/
def ofSW16 (c6 : Bool) (w : Nat) : W32 :=
  let e := bitsN w 15 10
  let f := bitsN w 9 0
  BitVec.ofNat 32 ((e + (if c6 then 87 else 79)) * 2 ^ 23 + f * 2 ^ 13)

/-- binary32 to SW16 (R66, R67): the word and whether it clamped. -/
def toSW16 (c6 : Bool) (x : W32) : Nat × Bool :=
  if isNaN x || signOf x || expOf x == 0 then (0, true)
  else if isInf x then (0xFFFF, true)
  else
    let n := x.toNat
    let low := n % 2 ^ 13
    let k := n / 2 ^ 13 + (if low > 0x1000 || (low == 0x1000 && bitN n 13) then 1 else 0)
    let e : Int := (k / 2 ^ 10 : Nat) - 127 + (if c6 then 40 else 48)
    if e < 0 then (0, true) else if e > 63 then (0xFFFF, true) else (e.toNat * 2 ^ 10 + k % 2 ^ 10, false)

/-- The unit word, whose value is 1.0 (R84): 0xC000, or 0xA000 under C6 decoding. -/
def unitWord (c6 : Bool) : Nat := if c6 then 0xA000 else 0xC000

/-- Saturate to a signed 32-bit range; true when it clamped. -/
def satI32 (v : Int) : Int × Bool :=
  if v > 2147483647 then (2147483647, true) else if v < -2147483648 then (-2147483648, true) else (v, false)

/-- Saturate to a range. -/
def satRange (lo hi v : Int) : Int × Bool :=
  if v > hi then (hi, true) else if v < lo then (lo, true) else (v, false)

/-- The range of a `bits`-wide integer of the given signedness (R49). -/
def intLo (bits : Nat) (sgn : Bool) : Int := if sgn then -(2 ^ (bits - 1) : Nat) else 0
def intHi (bits : Nat) (sgn : Bool) : Int := if sgn then ((2 ^ (bits - 1) : Nat) : Int) - 1 else ((2 ^ bits : Nat) : Int) - 1

end Sys2Proof.Machine.Fp
end

