-- ==== Sys2Proof/Machine/FloretTypes.lean ====
section
/-! DEFINITION. The plain data of a floret and of an umbel: arrays, feeds, engines, queues, tallies
(chapters "Cubes and Arrays", "Stage Programs and Access Engines", "Near Banks, Umbel Buffers and
Spatial Pipelines"). -/

namespace Sys2Proof.Machine

/-- One element update that a wavefront's result makes: accumulator tile, row, column, and the value
(an integer in integer modes, a binary32 container in F19 mode). -/
structure Upd where
  tile : Nat
  row : Nat
  col : Nat
  val : Int
  deriving DecidableEq, Repr

/-- A scale word that a wavefront brings for a row or a column of a tile (R84). -/
structure Word84 where
  tile : Nat
  idx : Nat
  word : Nat
  deriving DecidableEq, Repr

/-- A wavefront in flight with its tag (R34). Its results are exact and fixed at issue (R24, R26, R40):
`res` holds the results of columns `next` to 7 in order, each taken by the add stage in cycle `cyc + 9 + j`. A bubble, and
a wavefront whose rows are all masked, has VALID clear and brings nothing (R35, R36). -/
structure Wave where
  cyc : Nat
  valid : Bool
  epoch : Nat
  half : Nat
  rowMask : Nat
  isF : Bool
  init : Bool
  acc : Nat
  pair : Bool
  jid : Nat
  next : Nat
  res : List (List Upd)
  rows : List Word84
  cols : List Word84
  deriving DecidableEq, Repr

/-- A stationary load in progress (R37, R38): the expanded and patched rows not yet committed. -/
structure Load where
  epoch : Nat
  isF : Bool
  /-- next cube row to commit, 0 to 7 -/
  next : Nat
  /-- cycles gathered of the row (F19: four) -/
  gather : Nat
  /-- elements of the tile, row-major, 32 columns -/
  elems : List Int
  /-- per cube row: elements clamped and groups applied by the patch adder (R101, R113) -/
  sat : List Nat
  grp : List Nat
  /-- the column words that the tile brings (R84) -/
  words : List Nat
  /-- issue cycle of the last valid wavefront of the tile that it replaces, plus 1; 0 when none (R38) -/
  old : Nat
  deriving DecidableEq, Repr

/-- A stationary buffer: the elements that each cube row holds, and the column words that the tile brought. -/
structure Stat where
  rows : List (List Int)
  words : List Nat
  deriving DecidableEq, Repr

/-- An array (R41 to R47). Tables keyed by tile × 1024 + row × 32 + column, or tile × 32 + index. -/
structure Arr where
  /-- advance cycles since floret reset (R44) -/
  cyc : Nat
  cross : Bool
  /-- issue cycle of the last valid wavefront, plus 1; 0 when none (R33) -/
  lastIssue : Nat
  /-- the same per epoch (R38) -/
  lastE0 : Nat
  lastE1 : Nat
  buf0 : Stat
  buf1 : Stat
  load : Option Load
  /-- stationary tiles whose load has started, and tiles whose wavefronts have all issued -/
  loaded : Nat
  used : Nat
  /-- position of the port and of the feeder: MMA number and tile within it; wavefront within the tile -/
  pJob : Nat
  pTile : Nat
  iJob : Nat
  iTile : Nat
  iWave : Nat
  waves : List Wave
  acc : SMap W32
  /-- tiles last written as binary32 (R88) -/
  isF : SMap Bool
  rowW : SMap Nat
  colW : SMap Nat
  /-- drain latch: words, and whether the tile holds binary32 (R84, R88, R89) -/
  rowD : SMap Nat
  colD : SMap Nat
  isFD : SMap Bool
  deriving DecidableEq, Repr

/-- A slot as its consumer holds it: the mask of valid lines, the lines, and which of them are poisoned. -/
structure Slot where
  mask : Nat
  lines : List Line
  poison : Nat
  deriving DecidableEq, Repr

/-- A feed (R156 to R161). Slot numbers count from 0 since configuration. -/
structure Feed where
  base : Nat
  slots : Nat
  bl : Nat
  patch : Bool
  /-- 0 disabled, 1 LIVE, 2 ENDED, 3 DONE -/
  state : Nat
  head : Nat
  /-- presence bits by slot index -/
  present : SMap Nat
  /-- patch slots answered, by slot index -/
  answered : SMap Nat
  /-- slots reserved by the own load engine's descriptors -/
  resv : Nat
  /-- patch-feed slots named in requests -/
  asked : Nat
  /-- slots delivered; those not yet released lie in `held`, oldest first -/
  deliv : Nat
  held : List Slot
  /-- first slot of the next MMA that reads the feed -/
  nextBase : Nat
  deriving DecidableEq, Repr

/-- An MMA in the MX queue (R137, R150). -/
structure Mma where
  jid : Nat
  word : Nat
  /-- arrays in which it has begun to issue, and in which it has issued its last wavefront (bit masks) -/
  started : Nat
  issued : Nat
  /-- its first slots in the activation, stationary and patch feeds, once fixed -/
  base : Option (Nat × Nat × Nat)
  /-- a wavefront of it has issued -/
  any : Bool
  deriving DecidableEq, Repr

/-- A close that waits for the last results of its MMA (R150). -/
structure Closing where
  jid : Nat
  acc : Nat
  pair : Bool
  left : Nat
  deriving DecidableEq, Repr

/-- One output row of the quantiser: elements packed, the width in elements, the word (R80 to R82). -/
structure QRow where
  data : Nat
  width : Nat
  bits : Nat
  word : Nat
  deriving DecidableEq, Repr

/-- A QX instruction in the QX queue with the operands it read at issue (R137, R144): its word, R, the line indices of the
source and of c, the seed, and the rows it has already passed to the quantiser. -/
structure QxJob where
  w : Nat
  r : Nat
  line : Nat
  cline : Nat
  seedLo : Nat
  seedHi : Nat
  row : Nat
  deriving DecidableEq, Repr

/-- A line held by an engine between its read and its write. -/
structure Held where
  line : Line
  poison : Bool
  mask : Nat
  deriving DecidableEq, Repr

/-- A descriptor: its 256 bits, the byte offset it came from, the digest interval it belongs to (R411). -/
structure QDesc where
  w : Nat
  src : Nat
  /-- lines that DQ adds to ADDR_A -/
  off : Nat
  dig : Nat
  /-- its index among the DIGEST descriptors of that interval -/
  digK : Nat
  deriving DecidableEq, Repr

/-- A descriptor started and not completed (R168, R169, R186). Line masks are bit masks over its lines. -/
structure Desc where
  id : Nat
  w : Nat
  src : Nat
  off : Nat
  lines : Nat
  rd : Nat
  ret : Nat
  /-- written lines that await a remote answer -/
  sent : Nat
  dn : Nat
  lost : Nat
  data : SMap (Option Held)
  /-- first feed slot of a feed-destined load -/
  slot0 : Nat
  /-- patch requests sent -/
  asked : Nat
  /-- DRAIN: rows read; QOUT: rows taken -/
  rowsRead : Nat
  dig : Nat
  digK : Nat
  /-- DRAIN, QOUT: line offset from ADDR_A of every line, set when its data is formed; GATHER: source address by tile -/
  dest : SMap Nat
  /-- QOUT: scale words of the row group being taken -/
  words : List Nat
  deriving DecidableEq, Repr

/-- An access engine's queue and window. -/
structure Eng where
  queue : List QDesc
  fly : List Desc
  nextId : Nat
  stopped : Bool
  /-- stopped by a lost line or signal (R244) -/
  lossStop : Bool
  /-- stopped by a descriptor error (R171, R188) -/
  descStop : Bool
  waiting : Bool
  blocked : Bool
  /-- descriptors enqueued since floret reset (DFENCE) -/
  enq : Nat
  deriving DecidableEq, Repr

/-- A digest interval (R411). -/
structure Interval where
  sum : Nat
  lines : Nat
  poison : Bool
  /-- DIGEST descriptors enqueued into it, and completed -/
  descs : Nat
  done : Nat
  closed : Bool
  markId : W32
  deriving DecidableEq, Repr

/-- A floret (chapters 2 to 8). -/
structure Floret where
  pc : Nat
  istore : SMap W64
  run : Bool
  halted : Bool
  /-- the sequencer has executed HALT since its release (R139) -/
  ended : Bool
  /-- a TWAIT or DFENCE holds issue; a DQ holds issue -/
  waiting : Bool
  qfull : Bool
  /-- v registers keyed by register × 64 + lane, predicates, scalars -/
  v : SMap W32
  p : SMap W64
  sr : SMap W32
  tallies : SMap W32
  feeds : SMap Feed
  credit : SMap W32
  le : Eng
  se : Eng
  mx : List Mma
  nextJid : Nat
  closings : List Closing
  /-- closed tiles: rows already read by the drain, plus 1; 0 when not closed -/
  closed : SMap Nat
  /-- closes of a tile that wait behind the one its drain now reads (R45, R46) -/
  again : SMap Nat
  /-- DRAINs started per tile since floret reset (R169) -/
  drains : SMap W32
  /-- QX instructions with rows still to be taken; the quantiser's row buffers, each with the rows it has still to emit
  (R79, R83, R137) -/
  qxq : List QxJob
  qx : List (List QRow)
  arrs : SMap Arr
  /-- digest intervals not yet published, the open one last, and the number of the first (R411) -/
  ivals : List Interval
  ival0 : Nat
  /-- END markers on their way to the feeds (bit mask) -/
  ends : Nat
  /-- byte offsets in the image of the program in the store (R269): image address and program index, plus 1 -/
  prog : Nat
  /-- sampled at release (R58, R402): STRICT, COMPAT, DET -/
  strict : Bool
  c6 : Bool
  det : Bool
  /-- launch slot and generation running here, plus 1; 0 for none -/
  lslot : Nat
  lgen : Nat
  /-- the launch's delta-pack pointer (R106) -/
  pack : Nat
  deriving DecidableEq, Repr

/-- A patch request (R106): the patch feed's slot, its near-bank line, the units still to answer, lines written so far. -/
structure PatchReq where
  floret : Nat
  feed : Nat
  slot : Nat
  line : Nat
  units : List Nat
  pack : Nat
  tally : W32
  tallyEn : Bool
  deriving DecidableEq, Repr

/-- Record lines of one unit that the delta decoder still has to write; `final` for the request's last unit. -/
structure DdOut where
  id : Nat
  req : PatchReq
  lines : List Line
  dn : Nat
  lost : Nat
  final : Bool
  deriving DecidableEq, Repr

/-- A DMA channel (R185, R186). -/
structure Chan where
  line : Nat
  size : Nat
  bell : Nat
  /-- doorbell value latched at configuration -/
  b : W32
  next : Nat
  eng : Eng
  deriving DecidableEq, Repr

/-- An umbel's own state (chapters 5, 8). -/
structure Umbel where
  tallies : SMap W32
  chans : SMap Chan
  /-- owner of each granule; 0 is free -/
  pool : SMap Nat
  ddq : List PatchReq
  ddout : List DdOut
  ddId : Nat
  /-- held in reset or power-gated (R471); NoC ingress closed (R244, R364) -/
  held : Bool
  closed : Bool
  deriving DecidableEq, Repr

/-! Reset values (R47, R92, R136, R174, R184, R188). -/

def Stat.zero : Stat := ⟨[], []⟩

/-- Commit one cube row. -/
def Stat.setRow (b : Stat) (i : Nat) (r : List Int) : Stat :=
  { b with rows := (List.range 8).map (fun j => if j = i then r else b.rows.getD j []) }

def Arr.reset : Arr :=
  { cyc := 0, cross := false, lastIssue := 0, lastE0 := 0, lastE1 := 0, buf0 := .zero, buf1 := .zero, load := none,
    loaded := 0, used := 0, pJob := 0, pTile := 0, iJob := 0, iTile := 0, iWave := 0, waves := [], acc := [], isF := [],
    rowW := [], colW := [], rowD := [], colD := [], isFD := [] }

def Feed.off : Feed :=
  { base := 0, slots := 0, bl := 0, patch := false, state := 0, head := 0, present := [], answered := [], resv := 0,
    asked := 0, deliv := 0, held := [], nextBase := 0 }

/-- Slots released of a feed: the number of its oldest slot held or still to come. -/
def Feed.released (fd : Feed) : Nat := fd.deliv - fd.held.length

/-- The slot of the ring that slot number `n` takes: the head slot is slot FL_FEED_HEAD mod SLOTS, the head a 32-bit count
(R156). -/
def Feed.index (fd : Feed) (n : Nat) : Nat := (fd.head + (n - fd.released)) % 2 ^ 32 % fd.slots

def Eng.reset : Eng := ⟨[], [], 0, false, false, false, false, false, 0⟩

def Interval.empty : Interval := ⟨0, 0, false, 0, 0, false, 0⟩

def Floret.reset : Floret :=
  { pc := 0, istore := [], run := false, halted := true, ended := false, waiting := false, qfull := false, v := [], p := [], sr := [],
    tallies := [], feeds := [], credit := [], le := .reset, se := .reset, mx := [], nextJid := 0, closings := [],
    closed := [], again := [], drains := [], qxq := [], qx := [], arrs := [], ivals := [], ival0 := 0, ends := 0, prog := 0, strict := false, c6 := false, det := false, lslot := 0,
    lgen := 0, pack := 0 }

def Chan.reset : Chan := ⟨0, 0, 0, 0, 0, .reset⟩

/-- An umbel before its first wake: power-gated, every granule free. -/
def Umbel.reset : Umbel := ⟨[], [], [], [], [], 0, true, false⟩

/-! Accessors of tables inside a floret. -/

def Floret.feed (fl : Floret) (e : Nat) : Feed := SMap.get Feed.off fl.feeds e
def Floret.setFeed (fl : Floret) (e : Nat) (x : Feed) : Floret := { fl with feeds := SMap.put Feed.off fl.feeds e x }
def Floret.arr (fl : Floret) (a : Nat) : Arr := SMap.get Arr.reset fl.arrs a
def Floret.setArr (fl : Floret) (a : Nat) (x : Arr) : Floret := { fl with arrs := SMap.put Arr.reset fl.arrs a x }
def Floret.s (fl : Floret) (r : Nat) : W32 := SMap.get (0 : W32) fl.sr (r % 32)
def Floret.setS (fl : Floret) (r : Nat) (x : W32) : Floret := { fl with sr := SMap.put (0 : W32) fl.sr (r % 32) x }
def Floret.vreg (fl : Floret) (r lane : Nat) : W32 := SMap.get (0 : W32) fl.v (r % 32 * 64 + lane)
def Floret.setV (fl : Floret) (r lane : Nat) (x : W32) : Floret :=
  { fl with v := SMap.put (0 : W32) fl.v (r % 32 * 64 + lane) x }
/-- Predicate registers; p0 reads as all ones (R116). -/
def Floret.pred (fl : Floret) (r : Nat) : W64 := if r % 8 = 0 then BitVec.allOnes 64 else SMap.get (0 : W64) fl.p (r % 8)
/-- A write to p0 is ignored (R116, R143). -/
def Floret.setPred (fl : Floret) (r : Nat) (x : W64) : Floret :=
  if r % 8 = 0 then fl else { fl with p := SMap.put (0 : W64) fl.p (r % 8) x }
def Floret.tally (fl : Floret) (i : Nat) : W32 := SMap.get (0 : W32) fl.tallies i
def Floret.setTally (fl : Floret) (i : Nat) (x : W32) : Floret := { fl with tallies := SMap.put (0 : W32) fl.tallies i x }
def Umbel.tally (u : Umbel) (i : Nat) : W32 := SMap.get (0 : W32) u.tallies i
def Umbel.setTally (u : Umbel) (i : Nat) (x : W32) : Umbel := { u with tallies := SMap.put (0 : W32) u.tallies i x }
def Umbel.chan (u : Umbel) (c : Nat) : Chan := SMap.get Chan.reset u.chans c
def Umbel.setChan (u : Umbel) (c : Nat) (x : Chan) : Umbel := { u with chans := SMap.put Chan.reset u.chans c x }

end Sys2Proof.Machine
end

