-- ==== Sys2Proof/Machine/Tile.lean ====
section
/-! DEFINITION. Tile operations: the fields of an MMA (R146), how it divides over the four arrays (R148), the
layout of activation and stationary slots (R71, R94, R95, R149), patch records (R107) and the arithmetic of one
wavefront (R24 to R26, R30 to R32). -/

namespace Sys2Proof.Machine.Tile

/-! Fields of the instruction word (R146). -/
def mode (w : Nat) : Nat := bitsN w 54 52
def asgn (w : Nat) : Bool := bitN w 51
def ssgn (w : Nat) : Bool := bitN w 50
def form (w : Nat) : Nat := bitsN w 49 47
def cross (w : Nat) : Bool := bitN w 46
def accIx (w : Nat) : Nat := bitsN w 45 43
def initBit (w : Nat) : Bool := bitN w 42
def closeBit (w : Nat) : Bool := bitN w 41
def rowUnit (w : Nat) : Bool := bitN w 40
def colUnit (w : Nat) : Bool := bitN w 39
def cvtTrunc (w : Nat) : Bool := bitN w 38
def patched (w : Nat) : Bool := bitN w 37
def ahold (w : Nat) : Bool := bitN w 36
def afeed (w : Nat) : Nat := bitsN w 35 32
def sfeed (w : Nat) : Nat := bitsN w 31 28
def ksteps (w : Nat) : Nat := bitsN w 27 18

/-- Whether the stationary operand is INT4 (a 64 × 32 stationary tile, R30). -/
def stat4 (w : Nat) : Bool := mode w == 2 || mode w == 3
def isF (w : Nat) : Bool := mode w == 4

/-- Rows of the stationary tile. -/
def tileK (w : Nat) : Nat := if stat4 w then 64 else 32

/-- The legality of R147 and R93 that depends on the word alone. -/
def legalWord (w : Nat) : Bool :=
  let m := mode w
  let f := form w
  bitsN w 17 0 == 0 && m ≤ 4 && f ≤ 5 && ksteps w != 0
  && (match f with
      | 0 => m == 0 || m == 1
      | 1 => m == 2 || m == 3
      | 2 => m == 2 || m == 3
      | 3 => m == 2 || m == 3
      | 4 => m == 2 || m == 3
      | _ => m == 4)
  && (!cross w || (f == 4 && ksteps w == 1 && accIx w % 2 == 0))
  && (!((f == 2 || f == 3) && m == 2) || ksteps w % 2 == 0)
  && (!patched w || (f != 0 && f != 4 && f != 5 && sfeed w != 15))
  && (!((f == 2 || f == 3) && !ssgn w))

/-- The legality of R147 that depends on the feeds' configuration. -/
def legalFeeds (fl : Floret) (w : Nat) : Bool :=
  let bl := if isF w then 32 else 33
  (fl.feed (afeed w)).bl == bl && (fl.feed (sfeed w)).bl == bl
  && (!patched w || (fl.feed (sfeed w + 1)).patch)

/-! The division of R148. -/

/-- Stationary slots that the whole MMA takes. -/
def statSlots (w : Nat) : Nat :=
  match mode w, form w with
  | 0, _ => 4 * ksteps w
  | 1, _ => 8 * ksteps w
  | 2, 1 => 2 * ksteps w
  | 2, 4 => if cross w then 4 else 2 * ksteps w
  | 2, _ => ksteps w
  | 3, 1 => 4 * ksteps w
  | 3, 4 => if cross w then 4 else 4 * ksteps w
  | 3, _ => 2 * ksteps w
  | _, _ => 4 * ksteps w

/-- Stationary tiles per array and step. -/
def perStep (w : Nat) : Nat :=
  match mode w, form w with
  | 0, _ => 4
  | 1, _ => 8
  | 2, 4 => if cross w then 4 else 2
  | 2, _ => 2
  | 3, _ => 4
  | _, _ => 1

/-- Stationary tiles that one array takes over the MMA. -/
def tilesOf (w : Nat) : Nat := perStep w * ksteps w

/-- Where stationary tile number `i` of array `a` comes from. -/
structure Src where
  /-- activation step -/
  step : Nat
  /-- stationary slot, counted from the MMA's first -/
  slot : Nat
  /-- tile index along K (or KV slice) and column half -/
  h : Nat
  g : Nat
  /-- first activation column of the tile within the activation slot -/
  k0 : Nat
  deriving DecidableEq, Repr

/-- R148: arrays 2t (g = 0) and 2t + 1 (g = 1) for weight tiles; array a takes slice a of a KV block in NORMAL;
array j takes slot j in CROSS and in F19 mode. -/
def src (w a i : Nat) : Src :=
  let n := perStep w
  let st := i / n
  let r := i % n
  let t := a / 2
  let g := a % 2
  match mode w, form w with
  | 0, _ => ⟨st, 4 * st + 2 * (r / 2) + t, r % 2, g, 64 * (r / 2) + 32 * (r % 2)⟩
  | 1, _ => ⟨st, 8 * st + 2 * (r / 2) + t, r % 2, g, 64 * (r / 2) + 32 * (r % 2)⟩
  | 2, 1 => ⟨st, 2 * st + t, r, g, 64 * r⟩
  | 2, 4 => if cross w then ⟨0, a, i, 0, 32 * i⟩ else ⟨st, 2 * st + r, a, 0, 64 * r⟩
  | 2, _ => ⟨st, 2 * (st / 2) + t, 2 * (st % 2) + r, g, 64 * r⟩
  | 3, 1 => ⟨st, 4 * st + 2 * (r / 2) + t, r % 2, g, 128 * (r / 2) + 64 * (r % 2)⟩
  | 3, 4 => if cross w then ⟨0, a, i, 0, 32 * i⟩ else ⟨st, 4 * st + r, a, 0, 64 * r⟩
  | 3, _ => ⟨st, 2 * st + t, r, g, 64 * r⟩
  | _, _ => ⟨st, 4 * st + a, 0, 0, 0⟩

/-! Slots. -/

def slotLine (s : Slot) (i : Nat) : Line := if bitN s.mask i then s.lines.getD i 0 else 0

def byteAt (s : Slot) (line i : Nat) : Nat := lineByte (slotLine s line) i
def nibAt (s : Slot) (line e : Nat) : Nat := let b := byteAt s line (e / 2); if e % 2 = 0 then b % 16 else b / 16

/-- An integer of `n` bits in the operand's signedness (R51). -/
def intOf (n : Nat) (sgn : Bool) (v : Nat) : Int := if sgn then sext n v else ((v % 2 ^ n : Nat) : Int)

/-- Bytes of a slot's patch records from line 0. -/
def recByte (s : Slot) (i : Nat) : Nat := byteAt s (i / 128) (i % 128)

def recN (s : Slot) : Nat → Nat → Nat
  | 0, _ => 0
  | n + 1, i => recByte s i + 256 * recN s n (i + 1)

/-- Start of record `r` in a patch slot: records lie consecutively, each padded to 128 B (R107). -/
def recStart (s : Slot) : Nat → Nat
  | 0 => 0
  | r + 1 => let b := recStart s r; b + cdiv (32 + 4 * popN 256 (recN s 32 b)) 128 * 128

/-- The delta word of cube row `i`, column `c` of the record at byte `b`; none when the group is not occupied. -/
def recDelta (s : Slot) (b i c : Nat) : Option Nat :=
  let m := recN s 32 b
  let k := 32 * i + c
  if bitN m k then some (recN s 4 (b + 32 + 4 * popN k (m % 2 ^ k))) else none

/-- The stored element (kk, n) of the stationary tile at `p`, expanded (R71, R94, R95, R149; R101 step 1). F32
elements are the container bits. -/
def element (w : Nat) (p : Src) (s : Slot) (kk n : Nat) : Int :=
  match form w with
  | 0 => intOf 8 (ssgn w) (byteAt s ((32 * p.h + kk) / 2) (64 * (kk % 2) + 32 * p.g + n))
  | 1 => let k := 64 * p.h + kk; intOf 4 (ssgn w) (nibAt s (k / 4) (k % 4 * 64 + 32 * p.g + n))
  | 2 =>
    let col := 32 * p.g + n
    let l := 8 * p.h + kk / 8
    (Codebook.e8 (byteAt s l (2 * col) + 256 * byteAt s l (2 * col + 1))).getD (kk % 8) 0
  | 3 =>
    let col := 32 * p.g + n
    let l := 8 * p.h + kk / 8
    (Codebook.d4 (byteAt s l (if kk % 8 < 4 then col else 64 + col))).getD (kk % 4) 0
  | 4 => intOf 4 (ssgn w) (nibAt s (kk / 2) (kk % 2 * 128 + 32 * p.h + n))
  | _ => ((slotLine s kk).toNat / 2 ^ (32 * n) % 2 ^ 32 : Nat)

/-- The record of the tile within its patch slot: increasing h, then increasing g (R107). -/
def recIndex (p : Src) : Nat := 2 * p.h + p.g

/-- The patched element and whether it was clamped (R101). -/
def patchElem (w : Nat) (v : Int) (delta : Option Nat) (kk : Nat) : Int × Bool :=
  match delta with
  | none => (v, false)
  | some d => Fp.satRange (Fp.intLo 4 (ssgn w)) (Fp.intHi 4 (ssgn w)) (v + sext 4 (d / 2 ^ (4 * (kk % 8))))

/-- All elements of the tile with the clamps and groups per cube row; without a patch slot no group is
occupied. -/
def loadTile (w : Nat) (p : Src) (s : Slot) (pt : Option Slot) : List Int × List Nat × List Nat :=
  let k := tileK w
  let b := match pt with
    | some q => recStart q (recIndex p)
    | none => 0
  let delta (i c : Nat) : Option Nat := match pt with
    | some q => recDelta q b i c
    | none => none
  let rows := (List.range k).map (fun kk => (List.range 32).map (fun n =>
    patchElem w (element w p s kk n) (delta (kk / 8) n) kk))
  let per := k / 8
  (rows.flatten.map (·.1),
   (List.range 8).map (fun i => sumN (((rows.drop (per * i)).take per).map (fun r => (r.filter (·.2)).length))),
   (List.range 8).map (fun i => ((List.range 32).filter (fun c => (delta i c).isSome)).length))

/-- Column words the tile brings: its scale line's entries, or unit words (R84). A missing scale line of a
residue slot gives 0x0000 (R160). An F32 tile has no scale line: with COL_SRC = STAT it brings no word (DESIGN CHOICE,
assumption 35). -/
def loadWords (w : Nat) (c6 : Bool) (p : Src) (s : Slot) : List Nat :=
  if colUnit w then List.replicate 64 (Fp.unitWord c6)
  else if isF w then []
  else if form w == 4 then
    (if cross w then (List.range 64).map (fun t => byteAt s 32 (2 * t) + 256 * byteAt s 32 (2 * t + 1))
     else List.replicate 64 (Fp.unitWord c6))
  else (List.range 32).map (fun n => byteAt s 32 (2 * (32 * p.g + n)) + 256 * byteAt s 32 (2 * (32 * p.g + n) + 1))

/-! Activation rows. -/

/-- Whether data line `r` of an activation slot is valid (R160). -/
def rowValid (w : Nat) (s : Slot) (r : Nat) : Bool := bitN s.mask r && (isF w || bitN s.mask 32)

/-- The row groups of a slot that the feeder does not skip (R160). -/
def groups (w : Nat) (s : Slot) : List Nat :=
  (List.range 8).filter (fun q => (List.range 4).any (fun x => rowValid w s (4 * q + x)))

/-- The wavefronts of one stationary tile over a slot, in issue order: (first row, rows, half). -/
def wavefronts (w : Nat) (s : Slot) : List (Nat × Nat × Nat) :=
  (groups w s).flatMap (fun q =>
    if isF w then (List.range 4).map (fun x => (4 * q + x, 1, 0))
    else if mode w == 2 then [(4 * q, 4, 0), (4 * q, 4, 1)]
    else [(4 * q, 4, 0)])

/-- Activation element of row `r` at column `k` (F19: the container). -/
def act (w : Nat) (s : Slot) (r k : Nat) : Int :=
  match mode w with
  | 0 => intOf 8 (asgn w) (byteAt s r k)
  | 2 => intOf 8 (asgn w) (byteAt s r k)
  | 1 => intOf 4 (asgn w) (nibAt s r k)
  | 3 => intOf 4 (asgn w) (nibAt s r k)
  | _ => ((slotLine s r).toNat / 2 ^ (32 * k) % 2 ^ 32 : Nat)

def stElem (elems : List Int) (kk n : Nat) : Int := elems.getD (32 * kk + n) 0

/-- ROWMASK of a wavefront of `rows` rows from `row` (R34, R36, R160). -/
def rowMask (w : Nat) (s : Slot) (row rows : Nat) : Nat :=
  sumN ((List.range rows).map (fun x => if rowValid w s (row + x) then 2 ^ x else 0))

def sumI (xs : List Int) : Int := xs.foldl (· + ·) 0

/-- K indices of a wavefront within the stationary tile: half h of INT8 × INT4 covers 8i + 4h .. 8i + 4h + 3. -/
def halfKs (w half : Nat) : List Nat :=
  if mode w == 2 then (List.range 8).flatMap (fun i => (List.range 4).map (fun x => 8 * i + 4 * half + x))
  else List.range (tileK w)

/-- Integer results in NORMAL: column group `j` holds columns 4j to 4j + 3. -/
def intNormal (w : Nat) (s : Slot) (st : List Int) (k0 row rows half j : Nat) : List Upd :=
  let ks := halfKs w half
  ((List.range rows).filter (fun x => rowValid w s (row + x))).flatMap (fun x =>
    (List.range 4).map (fun y =>
      ⟨accIx w, row + x, 4 * j + y, sumI (ks.map (fun kk => act w s (row + x) (k0 + kk) * stElem st kk (4 * j + y)))⟩))

/-- Outputs of cube row `i` in CROSS on an INT4 tile: a = 8i to 8i + 7, of which half h of INT8 × INT4 gives 8i + 4h to
8i + 4h + 3 (R32). -/
def crossOuts (w half i : Nat) : List Nat :=
  if mode w == 2 then (List.range 4).map (fun x => 8 * i + 4 * half + x) else (List.range 8).map (fun x => 8 * i + x)

/-- Integer results in CROSS on an INT4 tile (R31, R32). -/
def intCross (w : Nat) (s : Slot) (st : List Int) (k0 row rows half i : Nat) : List Upd :=
  let outs := crossOuts w half i
  ((List.range rows).filter (fun x => rowValid w s (row + x))).flatMap (fun x =>
    outs.map (fun a =>
      ⟨accIx w + a / 32, row + x, a % 32,
       sumI ((List.range 32).map (fun b => act w s (row + x) (k0 + b) * stElem st a b))⟩))

/-- One cube's step in F19 mode: four exact products added to the incoming partial sum and rounded once (R26,
R56, R57). Operands are F19 containers. -/
def cubeF19 (ps : List (W32 × W32)) (psum : W32) : Fp.FR :=
  let ops := ps.map (fun p => (Fp.classify p.1, Fp.classify p.2))
  let nanIn := ps.any (fun p => Fp.isNaN p.1 || Fp.isNaN p.2) || Fp.isNaN psum
  let term : Fp.Cls × Fp.Cls → Fp.Cls := fun p =>
    match p.1, p.2 with
    | .inf _, .zero _ => .nan Fp.qNaN
    | .zero _, .inf _ => .nan Fp.qNaN
    | .inf s, .inf t => .inf (s != t)
    | .inf s, .fin t _ _ => .inf (s != t)
    | .fin s _ _, .inf t => .inf (s != t)
    | .zero s, .zero t => .zero (s != t)
    | .zero s, .fin t _ _ => .zero (s != t)
    | .fin s _ _, .zero t => .zero (s != t)
    | .fin s m e, .fin t n g => .fin (s != t) (m * n) (e + g)
    | a, _ => a
  let terms := Fp.classify psum :: ops.map term
  let isNan : Fp.Cls → Bool := fun c => match c with
    | .nan _ => true
    | _ => false
  let pinf := terms.any (fun c => decide (c = .inf false))
  let ninf := terms.any (fun c => decide (c = .inf true))
  if nanIn then (Fp.qNaN, 0)
  else if terms.any isNan || (pinf && ninf) then Fp.invalid false
  else if pinf then (Fp.infBits false, 0)
  else if ninf then (Fp.infBits true, 0)
  else
    let val : Fp.Cls → Int := fun c => match c with
      | .fin s m e => Fp.signed s (m * 2 ^ (e + 300).toNat)
      | _ => 0
    let total := sumI (terms.map val)
    let allNeg := terms.all (fun c => decide (c = .zero true))
    if total = 0 then (Fp.zeroBits allNeg, 0)
    else Fp.round false 24 (decide (total < 0)) total.natAbs (-300)

/-- The partial sum over the eight cubes of a column, from +0. -/
def chainF19 (a s : Nat → W32) : Fp.FR :=
  (List.range 8).foldl (fun acc i =>
    let r := cubeF19 ((List.range 4).map (fun x => (a (4 * i + x), s (4 * i + x)))) acc.1
    (r.1, acc.2 ||| r.2)) (0, 0)

/-- F19 results with STRICT clear: one row; flags raised are returned beside. -/
def f19Col (w : Nat) (s : Slot) (st : List Int) (row j : Nat) : List Upd × W32 :=
  if !rowValid w s row then ([], 0)
  else
    let a (k : Nat) : Fp.FR := Fp.toF19 (cvtTrunc w) (BitVec.ofInt 32 (act w s row k))
    let b (k n : Nat) : Fp.FR := Fp.toF19 (cvtTrunc w) (BitVec.ofInt 32 (stElem st k n))
    let rs := (List.range 4).map (fun y => chainF19 (fun k => (a k).1) (fun k => (b k (4 * j + y)).1))
    let inF := (List.range 32).foldl (fun f k => f ||| (a k).2 |||
      (List.range 4).foldl (fun g y => g ||| (b k (4 * j + y)).2) 0) 0
    ((List.range 4).map (fun y => ⟨accIx w, row, 4 * j + y, ((rs.getD y (0, 0)).1.toNat : Int)⟩),
     rs.foldl (fun f r => f ||| r.2) inF)

/-- The strict F19 tile operation on one element (R61): FMAs in increasing k from the element, or from +0. -/
def strictElem (w : Nat) (s : Slot) (st : List Int) (row n : Nat) (acc0 : W32) : Fp.FR :=
  (List.range 32).foldl (fun acc k =>
    let r := Fp.fma true 24 (BitVec.ofInt 32 (act w s row k)) (BitVec.ofInt 32 (stElem st k n)) acc.1
    (r.1, acc.2 ||| r.2)) (acc0, 0)

/-- Row words a wavefront brings (R84). An F19 activation slot has no scale line: with ROW_SRC = ACT it brings no word
(DESIGN CHOICE, assumption 35). -/
def rowWords (w : Nat) (c6 : Bool) (s : Slot) (row rows : Nat) : List Word84 :=
  if isF w && !rowUnit w then []
  else ((List.range rows).filter (fun x => rowValid w s (row + x))).flatMap (fun x =>
    let word := if rowUnit w then Fp.unitWord c6
      else byteAt s 32 (2 * (row + x)) + 256 * byteAt s 32 (2 * (row + x) + 1)
    if cross w then [⟨accIx w, row + x, word⟩, ⟨accIx w + 1, row + x, word⟩] else [⟨accIx w, row + x, word⟩])

/-- Column words a wavefront brings for column group (or cube row) `j`: those of the outputs it gives, in CROSS with INT8
activations the outputs of its half (R32, R84). -/
def colWords (w : Nat) (words : List Nat) (half j : Nat) : List Word84 :=
  if isF w && !colUnit w then []
  else if cross w then (crossOuts w half j).map (fun a => ⟨accIx w + a / 32, a % 32, words.getD a 0⟩)
  else (List.range 4).map (fun y => ⟨accIx w, 4 * j + y, words.getD (4 * j + y) 0⟩)

end Sys2Proof.Machine.Tile
end

