-- ==== Sys2Proof/Machine/Quant.lean ====
section
/-! DEFINITION. Rotation, quantisation and requantisation (chapter "Rotation, Quantisation and
Requantisation", R73 to R88). -/

namespace Sys2Proof.Machine.Quant

open Fp

/-- Values with the flags raised while they were formed. -/
abbrev Row := List W32 × W32

/-- Apply an operation to every element, gathering flags. -/
def mapF (f : W32 → FR) (xs : List W32) : Row :=
  (xs.map (fun x => (f x).1), xs.foldl (fun a x => a ||| (f x).2) 0)

/-- The sign of element `k` is negative (R74). -/
def signNeg (seedLo seedHi k : Nat) : Bool :=
  bitN (philoxWord (philox seedLo seedHi (k / 128) 0 0 1) (k / 32 % 4)) (k % 32)

/-- One butterfly stage of span `h` on a block (R75). -/
def stage (strict : Bool) (h : Nat) (v : List W32) : Row :=
  let out := (List.range v.length).map (fun j =>
    if j / h % 2 = 0 then add strict 24 (v.getD j 0) (v.getD (j + h) 0)
    else sub strict 24 (v.getD (j - h) 0) (v.getD j 0))
  (out.map (·.1), out.foldl (fun a r => a ||| r.2) 0)

/-- The butterflies of a block in increasing span from `h`, `n` stages. -/
def butterflies (strict : Bool) : Nat → Nat → Row → Row
  | 0, _, r => r
  | n + 1, h, r =>
    let q := stage strict h r.1
    butterflies strict n (2 * h) (q.1, r.2 ||| q.2)

/-- The first `n` of a list, then the next `n`, and so on, `k` pieces. -/
def chunks (n : Nat) : Nat → List W32 → List (List W32)
  | 0, _ => []
  | k + 1, xs => xs.take n :: chunks n k (xs.drop n)

/-- Rotation of a row in blocks of 2^n elements (R73 to R75); the sign step only sets the sign bit, of a NaN too. -/
def rotate (strict : Bool) (n seedLo seedHi : Nat) (xs : List W32) : Row :=
  let u := (List.range xs.length).map (fun k =>
    let x := xs.getD k 0
    if signNeg seedLo seedHi k then x ^^^ 0x80000000 else x)
  let bs := (chunks (2 ^ n) (xs.length / 2 ^ n) u).map (fun b => butterflies strict n 1 (b, 0))
  ((bs.map (·.1)).flatten, bs.foldl (fun a b => a ||| b.2) 0)

/-- The pre-quantisation modes of R77. -/
def pre (strict : Bool) (pmode n seedLo seedHi : Nat) (cs xs : List W32) : Row :=
  let sm : Row := if pmode = 2 ∨ pmode = 3 then
      let out := (List.range xs.length).map (fun k => mul strict 24 (xs.getD k 0) (cs.getD k 0))
      (out.map (·.1), out.foldl (fun a r => a ||| r.2) 0)
    else (xs, 0)
  if pmode = 1 ∨ pmode = 3 then
    let r := rotate strict n seedLo seedHi sm.1
    (r.1, sm.2 ||| r.2)
  else sm

/-! The quantiser. -/

def isFinite (x : W32) : Bool := expOf x != 255

/-- The value of R80 step 1 in the order of container magnitudes: the largest |y| of the finite elements for a signed
destination, the largest y for an unsigned one; a subnormal counts as zero with STRICT clear. -/
def segMax (strict sgn : Bool) (ys : List W32) : Option Int :=
  ys.foldl (fun m y =>
    if !isFinite y then m
    else
      let k := if sgn then ((valKey strict y).natAbs : Int) else valKey strict y
      match m with
      | none => some k
      | some x => some (max x k)) none

/-- Q_max of R80 for QT 0 to 3. -/
def qmax (qt : Nat) : Int := match qt with
  | 0 => 127 | 1 => 255 | 2 => 7 | _ => 15

def qbits (qt : Nat) : Nat := if qt < 2 then 8 else 4
def qsgn (qt : Nat) : Bool := qt % 2 == 0

/-- The exact quotient y ÷ v rounded to the nearest integer, ties to even; v is the decoded scale word (R81). -/
def quotient (c6 : Bool) (word : Nat) (neg : Bool) (m : Nat) (e : Int) : Int :=
  let f := 1024 + bitsN word 9 0
  let k : Int := e - (bitsN word 15 10 : Nat) + (if c6 then 50 else 58)
  let num := if k ≥ 0 then m * 2 ^ k.toNat else m
  let den := if k ≥ 0 then f else f * 2 ^ (-k).toNat
  let q := num / den
  let r := num % den
  signed neg (if 2 * r > den then q + 1 else if 2 * r = den then q + q % 2 else q)

/-- One element (R81): the integer and the flags; whether it was NaN or infinite. -/
def quantElem (strict c6 : Bool) (qt word : Nat) (y : W32) : Int × W32 × Bool :=
  let lo := intLo (qbits qt) (qsgn qt)
  let hi := intHi (qbits qt) (qsgn qt)
  if !isFinite y then let r := toInt strict lo hi y; (r.1, r.2, true)
  else
    match (operand strict y).1 with
    | .fin s m e =>
      let c := satRange lo hi (quotient c6 word s m e)
      (c.1, if c.2 then (if strict then fNV else fINT) else 0, false)
    | _ => (0, (operand strict y).2, false)

/-- What a segment gives. -/
structure Seg where
  word : Nat
  data : Nat
  flags : W32
  nonfin : Bool
  zero : Bool
  deriving DecidableEq, Repr

/-- One segment (R80, R81). -/
def segment (strict c6 : Bool) (qt : Nat) (ys : List W32) : Seg :=
  let a := (segMax strict (qsgn qt) ys).getD 0
  if a = 0 then
    let es := ys.map (fun y =>
      if isFinite y then (0, (operand strict y).2, false) else quantElem strict c6 qt 0 y)
    ⟨0, packN (qbits qt) (es.map (fun e => ofInt (qbits qt) e.1)), es.foldl (fun f e => f ||| e.2.1) 0, es.any (·.2.2), true⟩
  else
    let top : W32 := BitVec.ofNat 32 (a.natAbs + (if a < 0 then 2 ^ 31 else 0))
    let t := div strict 24 top (ofIntF true 24 (qmax qt)).1
    let w := toSW16 c6 t.1
    let es := ys.map (quantElem strict c6 qt w.1)
    ⟨w.1, packN (qbits qt) (es.map (fun e => ofInt (qbits qt) e.1)),
     es.foldl (fun f e => f ||| e.2.1) (t.2 ||| (if w.2 then fSCALE else 0)), es.any (·.2.2), false⟩

/-- A row cut into segments of `g` elements (R79); a row of no element is one empty segment where G is the row. -/
def quantRow (strict c6 : Bool) (qt g : Nat) (ys : List W32) : List Seg :=
  if g = 0 then [segment strict c6 qt ys] else (chunks g (ys.length / g) ys).map (segment strict c6 qt)

/-! The requantiser. -/

/-- p of R85. -/
def reqP (acc : Int) (rw cw : Nat) : Int := acc * (1024 + bitsN rw 9 0 : Nat) * (1024 + bitsN cw 9 0 : Nat)

/-- The constant of R85. -/
def reqBias (c6 : Bool) : Int := if c6 then 100 else 116

/-- Integer output (R86): y before the clamp. -/
def reqInt (p s : Int) : Int :=
  if p = 0 then 0
  else if s ≤ 0 then p * 2 ^ (-s).toNat
  else if s > 53 then 0
  else
    let d : Int := 2 ^ s.toNat
    let q := p / d
    let r := p % d
    let half : Int := 2 ^ (s.toNat - 1)
    if r > half ∨ (r = half ∧ q % 2 ≠ 0) then q + 1 else q

/-- Shift S of R86. -/
def reqS (c6 : Bool) (rw cw : Nat) (osh : Int) : Int := reqBias c6 - bitsN rw 15 10 - bitsN cw 15 10 - osh

/-- Output formats of a DRAIN (R167). -/
def dbits (dfmt : Nat) : Nat := if dfmt < 2 then 8 else if dfmt < 4 then 4 else 32

/-- One drained element: the bits, the flags and whether the requantiser clamped. -/
def reqElem (strict c6 isF : Bool) (dfmt : Nat) (osh : Int) (acc : W32) (rw cw : Nat) : Nat × W32 × Bool :=
  let lo := intLo (dbits dfmt) (dfmt % 2 == 0)
  let hi := intHi (dbits dfmt) (dfmt % 2 == 0)
  if isF then
    let r : FR := if isNaN acc then nanOf strict [acc]
      else match (operand strict acc).1 with
        | .fin s m e => round strict 24 s m (e + osh)
        | _ => (if !strict && isSubnormal acc then zeroBits (signOf acc) else acc, (operand strict acc).2)
    if dfmt < 4 then
      let v := toInt strict lo hi r.1
      (ofInt (dbits dfmt) v.1, r.2 ||| v.2, false)
    else if dfmt = 4 then (r.1.toNat, r.2, false)
    else let f := readF19 strict false r.1; (f.1.toNat, r.2 ||| f.2, false)
  else
    let p := reqP acc.toInt rw cw
    if dfmt < 4 then
      let y := reqInt p (reqS c6 rw cw osh)
      let c := satRange lo hi y
      (ofInt (dbits dfmt) c.1, 0, c.2)
    else if p = 0 then (0, 0, false)
    else
      let r := round strict (if dfmt = 5 && !strict then 11 else 24) (decide (p < 0)) p.natAbs
        ((bitsN rw 15 10 : Nat) + (bitsN cw 15 10 : Nat) - reqBias c6 + osh)
      (r.1.toNat, r.2, false)

/-- The exponent field of the scale word that integer output carries (R86): 48 − OSH, or 40 − OSH. -/
def outExp (c6 : Bool) (osh : Int) : Int := (if c6 then 40 else 48) - osh

def outWord (c6 : Bool) (osh : Int) : Nat := (outExp c6 osh).toNat * 1024

end Sys2Proof.Machine.Quant
end

