-- ==== Sys2Proof/Machine/BoardTypes.lean ====
section
/-! DEFINITION. The plain data of the always-on domain and its neighbours: the power controller (chapter "Power, Clocks and
Thermal Control"), partitions, escalation and fault records (chapter "Faults, Recovery and Silent-Error Screening"), tenancy
(chapter "Tenancy, Attestation and Keys"), the hang snapshot (R421 to R424), bring-up, and the test port. -/

namespace Sys2Proof.Machine

/-! Power. -/

/-- An umbel as the power controller sees it (R335 to R343, R349, R356, R377). -/
structure PwUmb where
  /-- 0 POWER_GATED, 1 CLOCK_GATED, 2 RUNNING, 3 WAKING -/
  state : Nat
  /-- applied aclk, 25 MHz units; 0 with the PLL off -/
  freq : Nat
  fTherm : Nat
  /-- last sensor reading, quarter degrees; hot: at 105 °C or above since that time plus 1 -/
  temp : Nat
  hot : Nat
  /-- per V/F entry: trim in steps of -5 mV, samples, guard of R377 in mV -/
  trim : SMap Nat
  samples : SMap Nat
  guards : SMap Nat
  /-- consecutive samples above the high threshold -/
  high : Nat
  /-- PW_UMB_FMAX -/
  fmax : Nat
  /-- guard band of HEAVY_PREFILL; 1 HEAVY_PREFILL, 2 DECODE holds it; IDLE_SOON named it -/
  guard : Bool
  hold : Nat
  idleSoon : Bool
  /-- time of the last hint or launch end -/
  lastEnd : Nat
  /-- 0 no stretch, 1 × 1.5, 2 × 2 -/
  stretch : Nat
  alarm : Bool
  deriving DecidableEq, Repr

/-- A rail (R333, R334, R345, R352 to R355). Loop fields are used for rails 0 to 2. -/
structure PwRail where
  mv : Nat
  ma : Nat
  est : Bool
  /-- PW_RAIL_CFG: current limit in A, phases, healthy phases -/
  icl : Nat
  phases : Nat
  healthy : Nat
  /-- fault cap: 0 none, 1 half of ICL (R352 step 1), 2 + h by h healthy phases (step 3); time of the fall -/
  fault : Nat
  faultAt : Nat
  /-- phases found open (R354), and per phase the reads in a row that found it so -/
  opened : List Nat
  openCnt : SMap Nat
  duty : Nat
  fcur : Nat
  /-- sensed and estimated current of the last 64 samples, newest first (R344) -/
  gain : List (Nat × Nat)
  /-- consecutive samples: reply missing; out by more than 25%; good during fallback -/
  miss : Nat
  diff : Nat
  good : Nat
  failed : Bool
  /-- every phase healthy since, plus 1 -/
  healthyAt : Nat
  /-- voltage last written, voltage reached, time of a raise under way plus 1 -/
  set : Nat
  reached : Nat
  raiseAt : Nat
  deriving DecidableEq, Repr

/-- The power controller. -/
structure Power where
  umbs : SMap PwUmb
  rails : SMap PwRail
  fPwr : Nat
  /-- stack request rate of the power limit loop, sixteenths -/
  rate : Nat
  /-- PWRWARN_N (R350, R351): taken, pin low, k, time of the fall, time of the rise plus 1, time of the last step of k -/
  warn : Bool
  warnLow : Bool
  k : Nat
  fallAt : Nat
  riseAt : Nat
  stepAt : Nat
  fallback : Bool
  /-- VR_FAULT_N bit 3 halves the stacks' rates (R353) -/
  vr3 : Bool
  trip : Bool
  sensedW : Nat
  estW : Nat
  /-- samples of the link equalisation loop by link × 8 + lane (R342) -/
  eq : SMap Nat
  /-- test port: trace and debug domain awake (R335, R457) -/
  debugOn : Bool
  deriving DecidableEq, Repr

def PwUmb.reset : PwUmb :=
  { state := 0, freq := 0, fTherm := 60, temp := 0, hot := 0, trim := [], samples := [], guards := [], high := 0, fmax := 60
    guard := false, hold := 0, idleSoon := false, lastEnd := 0, stretch := 0, alarm := false }

/-- Current limits of R333, A: the reset values of ICL. -/
def iclReset (r : Nat) : Nat := if r = 2 then 250 else if r < 2 then 1100 else 0

def PwRail.reset : PwRail :=
  { mv := 0, ma := 0, est := false, icl := 0, phases := 0, healthy := 0, fault := 0, faultAt := 0, opened := [], openCnt := []
    duty := 16, fcur := 60, gain := [], miss := 0, diff := 0, good := 0, failed := false, healthyAt := 0, set := 0, reached := 0
    raiseAt := 0 }

/-- Rails 0 to 2 start with the limits of R333. -/
def railsReset : SMap PwRail := (List.range 3).map (fun r => (r, { PwRail.reset with icl := iclReset r }))

def Power.reset : Power :=
  { umbs := [], rails := railsReset, fPwr := 60, rate := 16, warn := false, warnLow := false, k := 16, fallAt := 0, riseAt := 0
    stepAt := 0, fallback := false, vr3 := false, trip := false, sensedW := 0, estW := 0, eq := [], debugOn := false }

/-! Faults. -/

/-- A partition (R363 to R369). -/
structure Part where
  /-- 0 DOWN, 1 LIVE, 2 RECOVERING, 3 RETIRED -/
  state : Nat
  /-- starts of the counted recoveries, newest first -/
  times : List Nat
  cause : Nat
  /-- 0 none, 1 quiesce, 2 reset, 3 scrub and preload -/
  step : Nat
  stepAt : Nat
  /-- retired when reset ends (R367) -/
  retire : Bool
  deriving DecidableEq, Repr

/-- A fault record (R378): its number, its 64 bytes, acknowledgement, time of the last export plus 1. -/
structure FRec where
  n : Nat
  bytes : Nat
  cls : Nat
  acked : Bool
  sentAt : Nat
  deriving DecidableEq, Repr

/-- A silent-error test of a pair (R374 to R376); `stage` 1 compares the pair, 2 reruns on `fail` and `c`. -/
structure SweepTest where
  a : Nat
  b : Nat
  cls : Nat
  seed : Nat
  stage : Nat
  fail : List Nat
  c : Nat
  dA : Nat
  dB : Nat
  dC : Nat
  deriving DecidableEq, Repr

structure Faults where
  parts : SMap Part
  /-- retirements counted toward R372; RETIRED umbels; umbels that passed BIST -/
  retired : Nat
  retUmb : Nat
  avail : Nat
  /-- counted device resets and die resets of each half, newest first -/
  devTimes : List Nat
  dieTimes : SMap (List Nat)
  dieCnt : SMap Nat
  oos : Bool
  /-- die resets under way, by half: time plus 1 -/
  dieRst : SMap Nat
  /-- resets that faults have called for: (half, slot of the launch that caused it plus 1, code); device reset -/
  dieReq : List (Nat × Nat × Nat)
  devReq : Bool
  /-- device reset: 0 none, 1 the 100 µs of ABORTED records, 2 reset; its start, whether counted, whether FAULT_N is held -/
  devRst : Nat
  devAt : Nat
  devCounted : Bool
  /-- the reset came from PERST_N (R449) -/
  flog : List FRec
  head : Nat
  drop : Nat
  /-- launches that hung and wait for their snapshot: (slot, partition) -/
  hangs : List (Nat × Nat)
  sweep : Option SweepTest
  /-- last confirmed failure by floret × 8 + class: time plus 1 -/
  swept : SMap Nat
  /-- last release or end on a floret, for IDLE_MIN -/
  idleAt : SMap Nat
  /-- spare die-to-die lanes used, per direction of half B to A (0) and A to B (1) -/
  d2dUsed : SMap Nat
  deriving DecidableEq, Repr

def Part.reset : Part := ⟨0, [], 0, 0, 0, false⟩
def Faults.reset : Faults :=
  { parts := [], retired := 0, retUmb := 0, avail := 0, devTimes := [], dieTimes := [], dieCnt := [], oos := false, dieRst := []
    dieReq := [], devReq := false, devRst := 0, devAt := 0, devCounted := false, flog := [], head := 0, drop := 0, hangs := [], sweep := none, swept := []
    idleAt := [], d2dUsed := [] }

/-! Tenancy. -/

/-- An SPDM session (R390): over DOE or MCTP, its secret, key updates, time of its last message. -/
structure Session where
  sid : Nat
  doe : Bool
  secret : Nat
  updates : Nat
  last : Nat
  deriving DecidableEq, Repr

/-- A content-key slot (R398). -/
structure CkSlot where
  wset : Nat
  key : Nat
  hdr : Nat
  ents : List Nat
  deriving DecidableEq, Repr

structure Sec where
  /-- 0 VACANT, 1 OWNED, 2 CHANGING -/
  state : Nat
  /-- 0 CONFIG_UNLOCKED, 1 CONFIG_LOCKED, 2 RUN, 3 ERROR -/
  tdi : Nat
  owner : Option Nat
  ownerSid : Option Nat
  sessions : List Session
  /-- IDE streams: 0 link, 1 and 2 selective, each with its key refreshes -/
  ide : SMap Nat
  cks : SMap (Option CkSlot)
  /-- rollback table: (WSET_ID, highest MF_SEQ) -/
  rollback : List (Nat × Nat)
  /-- a LOAD under way, for this slot -/
  ckCmd : Option Nat
  /-- tenant change: 0 none, 1 quiesce, 2 fill; its step's start; STOP_INTERFACE awaits the end -/
  change : Nat
  changeAt : Nat
  stop : Bool
  res : Nat
  done : Bool
  /-- draws from the generator; the key set by draw number, 0 for none; Peruldo ingress closed -/
  draws : Nat
  keySet : Nat
  shut : Bool
  deriving DecidableEq, Repr

def Sec.reset : Sec :=
  { state := 0, tdi := 0, owner := none, ownerSid := none, sessions := [], ide := [], cks := [], rollback := [], ckCmd := none
    change := 0, changeAt := 0, stop := false, res := 0, done := false, draws := 0, keySet := 0, shut := false }

/-! Snapshot, bring-up, management. -/

/-- The hang snapshot (R421 to R424). -/
structure Snap where
  busy : Bool
  trigger : Nat
  slot : Option Nat
  start : Nat
  trunc : Bool
  merged : Nat
  count : Nat
  /-- a HANG request of the front end that waits for a capture -/
  asks : List Nat
  /-- the always-on copy, 544 words -/
  copy : List Nat
  deriving DecidableEq, Repr

def Snap.reset : Snap := ⟨false, 0, none, 0, false, 0, 0, [], []⟩

/-- Bring-up (R429 to R446). -/
structure Boot where
  /-- GL_BOOT_STAT.STATE of R446 -/
  state : Nat
  warm : Bool
  fail : Nat
  topoWait : Bool
  /-- training data is held; it passed R437 at this start -/
  trained : Bool
  trainValid : Bool
  /-- the start's fabric time, and the nanoseconds before the first lock moved it; time at READY, ms; nanoseconds from the
  start to step 7 -/
  startAt : Nat
  base : Nat
  ms : Nat
  step7 : Nat
  /-- AON_RST_N is low; PERST_N is low; recovery mode -/
  aonLow : Bool
  perst : Bool
  recovery : Bool
  /-- board configuration -/
  maxRate : Nat
  topoTimeout : Nat
  standalone : Bool
  /-- expected-topology tables: held in the always-on domain, the one in force at this start -/
  ett : List Nat
  cur : List Nat
  /-- SVN floor raised by COMMIT_SVN; the image slot that runs, 1 A, 2 B -/
  svn : Nat
  image : Nat
  deriving DecidableEq, Repr

/-- Before AON_RST_N first rises. -/
def Boot.reset : Boot :=
  { state := 0, warm := false, fail := 0, topoWait := false, trained := false, trainValid := false, startAt := 0, base := 0, ms := 0
    step7 := 0, aonLow := true, perst := true, recovery := false, maxRate := 0, topoTimeout := 30, standalone := false
    ett := [], cur := [], svn := 0, image := 0 }

/-- A message of the UMC: SPDM answers (R390 to R395) and vendor messages (R379, R421, R443, R445). -/
inductive MgmtMsg where
  | spdmError (sid code : Nat)
  | certificate (slot : Nat)
  | challengeAuth (slot nonce sig : Nat)
  | measurements (idx nonce : Nat) (values : List Nat) (sig : Nat)
  | keyExchangeRsp (sid pub : Nat)
  | done (kind sid : Nat)
  /-- a CPER record (R379): endpoint, number, section type, severity, and the 64 bytes of its section -/
  | fault (eid n sectionType severity body : Nat)
  | bootStatus (stat ms : Nat) (fp : List Nat) (digest : Nat)
  | mismatch (link dev : Nat)
  | refused (kind code : Nat)
  | snapshot (header : List Nat)
  deriving DecidableEq, Repr

/-- The management side: I3C address, messages sent, the JTAG instruction. -/
structure Mgmt where
  addr : Option Nat
  out : List MgmtMsg
  /-- what the console has reported (R456): boot steps as (0, STATE), fault records as (1, number) -/
  console : List (Nat × Nat)
  ir : TapInstr
  tlr : Bool
  deriving DecidableEq, Repr

def Mgmt.reset : Mgmt := ⟨none, [], [], .bypass, true⟩

end Sys2Proof.Machine
end

