-- ==== Sys2Proof/Machine/FrontTypes.lean ====
section
/-! DEFINITION. The plain data of the front end (chapters "Rings, Graph Images and Launches", "Attention, the KV Store and
Sorrel Units") and of the trace ring (chapter "Determinism, Replay and Observation"). -/

namespace Sys2Proof.Machine

/-- A cached graph image (R260): its bytes as read, its length, a serial number of the read. -/
structure CImg where
  addr : Nat
  serial : Nat
  len : Nat
  bytes : Memory
  deriving DecidableEq, Repr

def CImg.empty : CImg := ⟨0, 0, 0, []⟩

/-- What the command at a ring's head has come to (R251). -/
inductive RingWait where
  | none
  /-- a LAUNCH that a swap sequence or a relocation holds after its checks (R269, R273, R274), with its command word, its
  constants and its image as read -/
  | swapHold (w c : Nat) (m : CImg)
  /-- a LAUNCH at the slot step (R258) -/
  | request (w c : Nat) (m : CImg)
  /-- a LAUNCH that holds this slot -/
  | granted (t : Nat)
  /-- a WAIT_TALLY that began to wait at this time -/
  | tally (start : Nat)
  deriving DecidableEq, Repr

/-- A completion record that waits for room (R257): the 64 bytes, IRQ, and the slot that its command keeps with the
state that the slot then takes and the end of its quarantine. -/
structure HeldRec where
  bytes : Nat
  irq : Bool
  slot : Option Nat
  quarantine : Bool
  deriving DecidableEq, Repr

/-- A SIGNAL that waits for earlier commands of its ring, or for its packet's ACK (R242): HEAD count, command, start. -/
structure PendSig where
  n : Nat
  w : Nat
  t0 : Nat
  sent : Bool
  deriving DecidableEq, Repr

/-- A ring (R248, R249): configuration read at ENABLE, counts and state. -/
structure Ring where
  state : Nat
  cmdBase : Nat
  cmdLog2 : Nat
  cls : Nat
  c6 : Bool
  maxSlots : Nat
  msix : Nat
  cplBase : Nat
  cplLog2 : Nat
  head : Nat
  tail : Nat
  cplTail : Nat
  cplHead : Nat
  stopCode : Nat
  stopHead : Nat
  disabling : Bool
  /-- HEAD counts of commands taken and not ended -/
  live : List Nat
  held : List HeldRec
  wait : RingWait
  sigs : List PendSig
  deriving DecidableEq, Repr

/-- A batch entry of a launch (R265) with A and the entry's LEN and NEXT_POS read at release. -/
structure Batch where
  slot : Nat
  a : Nat
  len : Nat
  pos : Nat
  deriving DecidableEq, Repr

/-- A hardware launch slot (R255 to R259, R269, R270). -/
structure LSlot where
  /-- 0 FREE, 1 PREPARING, 2 RUNNING, 3 QUARANTINE -/
  state : Nat
  gen : Nat
  ring : Nat
  /-- HEAD count of the command, its TAG, IRQ and STOP -/
  head : Nat
  cls : Nat
  tag : Nat
  irq : Bool
  stop : Bool
  part : Nat
  /-- the front end's copy of the command and of bytes 0x00 to 0xEF of its constants -/
  w : Nat
  cb : Nat
  image : Nat
  /-- the image as the checks read it (R269) -/
  img : CImg
  konst : Nat
  /-- the KV frames have been allocated and the umbels of the placement woken (R206, R269) -/
  kv : Bool
  florets : List Nat
  done : List Nat
  window : Nat
  tAdv : Nat
  nextSample : Nat
  samples : List Nat
  suspended : Bool
  /-- the launch has ended with this status and detail, and its record has still to be written -/
  ended : Option (Nat × Nat)
  tRel : Nat
  ws : Option Nat
  wsVer : Nat
  gateBase : Nat
  pack : Nat
  units : List Nat
  batch : List Batch
  det : Bool
  qEnd : Nat
  deriving DecidableEq, Repr

/-- A variant slot (R110). -/
structure Variant where
  addr : Nat
  pkId : Nat
  retiring : Bool
  deriving DecidableEq, Repr

/-- A weight-set slot (R272 to R275). -/
structure WSet where
  valid : Bool
  id : Nat
  nl : Nat
  gate : Nat
  nunits : Nat
  bytes : Nat
  /-- local address of its header -/
  base : Nat
  ver : Nat
  /-- gate count G, and its value at BEGIN -/
  g : Nat
  gb : Nat
  swapping : Bool
  next : Nat
  retiring : Bool
  /-- a RELOCATE waits: releases are held (R273) -/
  reloc : Bool
  /-- layer address table, and offset and lines of each entry -/
  lat : SMap Nat
  off : SMap Nat
  lines : SMap Nat
  packs : SMap (Option Variant)
  deriving DecidableEq, Repr

/-- A command on the copy engine, or one that waits to start there (R254, R272 to R275). -/
structure CopyCmd where
  id : Nat
  ring : Nat
  head : Nat
  /-- the command's 64 bytes -/
  w : Nat
  /-- 0 waits for launches (R112, R272, R275), 1 moves lines, 2 waits for a peer's tally -/
  phase : Nat
  t0 : Nat
  /-- value of the tally when the last count was seen, and when (R254) -/
  seen : W32
  seenAt : Nat
  /-- launches of the weight set that it waits for: (slot, generation) -/
  waits : List (Nat × Nat)
  /-- lines of a multicast tree reported complete before it began (R320) -/
  mc0 : Nat
  deriving DecidableEq, Repr

/-- A sequence slot's LEN update that awaits its summaries (R207). -/
structure LenUpd where
  slot : Nat
  a : Nat
  len : Nat
  pos : Nat
  deriving DecidableEq, Repr

/-- A command of FE_SEQ_CMD under way (R221 to R223, R225). -/
structure SeqOp where
  op : Nat
  slot : Nat
  /-- REBUILD: its argument, and the first block not yet sent for building -/
  arg : Nat
  started : Bool
  deriving DecidableEq, Repr

/-- The front end. -/
structure Front where
  rings : SMap Ring
  slots : SMap LSlot
  /-- image cache, most recently launched first -/
  images : List CImg
  serial : Nat
  wsets : SMap WSet
  copies : List CopyCmd
  copyEng : Eng
  /-- per class, the ring last granted plus 1 (R258) -/
  granted : SMap Nat
  lens : List LenUpd
  seqOp : Option SeqOp
  /-- sequence slots CLOSING or SWITCHING wait here; results of KV ports by stack (private ports: front end, UMC) -/
  kvRes : SMap Nat
  /-- address plus 1 of the image released last on each floret (R364) -/
  lastImg : SMap Nat
  /-- a stack that takes no request holds a posted write of the host, and with it all that the host sent after it (R239, R298) -/
  hostHeld : Bool
  /-- SRC of the front end or a sorrel unit, and address of a host line that a completion has brought it and that it has not used
  (R230, R240) -/
  fresh : List (Nat × Nat)
  deriving DecidableEq, Repr

/-- The trace writer (R415 to R420): queues by source (0 to 511 florets, 512 front end, 513 UMC), records of the line
being gathered, records written, the pending drop count with the times of its first and last drop, and the queue served
last. -/
structure Trace where
  qs : SMap (List Nat)
  gather : List Nat
  w : Nat
  d : Nat
  first : Nat
  last : Nat
  rr : Nat
  deriving DecidableEq, Repr

def Ring.reset : Ring :=
  { state := 0, cmdBase := 0, cmdLog2 := 0, cls := 0, c6 := false, maxSlots := 0, msix := 0, cplBase := 0, cplLog2 := 0,
    head := 0, tail := 0, cplTail := 0, cplHead := 0, stopCode := 0, stopHead := 0, disabling := false, live := [],
    held := [], wait := .none, sigs := [] }

def LSlot.reset : LSlot :=
  { state := 0, gen := 0, ring := 0, head := 0, cls := 0, tag := 0, irq := false, stop := false, part := 0, w := 0, cb := 0, image := 0,
    img := .empty, konst := 0, kv := false, florets := [], done := [], window := 0, tAdv := 0, nextSample := 0, samples := [], suspended := false,
    ended := none, tRel := 0, ws := none, wsVer := 0, gateBase := 0, pack := 0, units := [], batch := [], det := false,
    qEnd := 0 }

def WSet.empty : WSet :=
  { valid := false, id := 0, nl := 0, gate := 0, nunits := 0, bytes := 0, base := 0, ver := 0, g := 0, gb := 0, swapping := false,
    next := 0, retiring := false, reloc := false, lat := [], off := [], lines := [], packs := [] }

def Front.reset : Front :=
  { rings := [], slots := [], images := [], serial := 0, wsets := [], copies := [], copyEng := .reset, granted := [],
    lens := [], seqOp := none, kvRes := [], lastImg := [], hostHeld := false, fresh := [] }

def Trace.reset : Trace := ⟨[], [], 0, 0, 0, 0, 0⟩

/-- The launch ID of a slot (R255). -/
def LSlot.id (t : LSlot) : Nat := t.tag % 4096 + 4096 * (t.gen % 16)

end Sys2Proof.Machine
end

