-- ==== Sys2Proof/Machine/Regs.lean ====
section
/-! DEFINITION. The register pages (chapter "Register Pages and Address Map", R466 to R484): blocks, page indices,
register offsets, writable and W1C bits and reset values as the chapters' tables give them. -/

namespace Sys2Proof.Machine

/-- Blocks of R469. -/
inductive Blk where
  | gl | fe | umc | pw | sec | tr | ct | die | hc | pl | ub | fl
  deriving DecidableEq, Repr

/-- PAGE_ID.BLOCK (R469). -/
def Blk.code : Blk → Nat
  | .gl => 0x01 | .fe => 0x02 | .umc => 0x03 | .die => 0x04 | .ub => 0x05 | .fl => 0x06 | .hc => 0x07 | .pl => 0x08
  | .pw => 0x09 | .sec => 0x0A | .tr => 0x0B | .ct => 0x0C

/-- The block and instance of a register page index; none for unassigned indices and the MSI-X pages. -/
def pageOf (i : Nat) : Option (Blk × Nat) :=
  if i = 0 then some (.gl, 0) else if i = 1 then some (.fe, 0) else if i = 2 then some (.umc, 0)
  else if i = 3 then some (.pw, 0) else if i = 4 then some (.sec, 0) else if i = 5 then some (.tr, 0)
  else if i = 6 then some (.ct, 0)
  else if 8 ≤ i ∧ i ≤ 9 then some (.die, i - 8)
  else if 0x10 ≤ i ∧ i ≤ 0x17 then some (.hc, i - 0x10)
  else if 0x20 ≤ i ∧ i ≤ 0x2B then some (.pl, i - 0x20)
  else if 0x100 ≤ i ∧ i ≤ 0x11F then some (.ub, i - 0x100)
  else if 0x200 ≤ i ∧ i ≤ 0x3FF then some (.fl, i - 0x200)
  else none

/-- Page index of a block's instance. -/
def Blk.page : Blk → Nat → Nat
  | .gl, _ => 0 | .fe, _ => 1 | .umc, _ => 2 | .pw, _ => 3 | .sec, _ => 4 | .tr, _ => 5 | .ct, _ => 6
  | .die, n => 8 + n | .hc, n => 0x10 + n | .pl, n => 0x20 + n | .ub, n => 0x100 + n | .fl, n => 0x200 + n

/-- BAR0 offset of a register (R469, R472). -/
def regOff (b : Blk) (n off : Nat) : Nat := b.page n * 4096 + off

/-- What a register table fixes about one 32-bit register: bits software writes, bits it clears by writing 1, the reset
value. Bits in neither mask are read-only, write-only or reserved. -/
structure RegSpec where
  rw : Nat
  w1c : Nat
  reset : Nat
  deriving DecidableEq, Repr

/-- A register whose every bit is read-only or write-only. -/
def ro : RegSpec := ⟨0, 0, 0⟩
def rwM (m : Nat) : RegSpec := ⟨m, 0, 0⟩
def w1cM (m : Nat) : RegSpec := ⟨0, m, 0⟩

/-- The header registers (R476). COMPAT's reset value is the strap (read live). -/
def headSpec (off : Nat) : Option RegSpec :=
  match off with
  | 0x000 => some ro | 0x004 => some ro | 0x008 => some ro
  | 0x010 => some (rwM 0x07FF0101)
  | 0x014 => some (w1cM 0x100)
  | 0x020 => some (w1cM 0xFFFFFFFF)
  | 0x024 => some (rwM 0xFFFFFFFF)
  | 0x028 => some (w1cM 0xFFFFFFFF)
  | 0x030 => some (rwM 0xFFFFFFFF)
  | _ =>
    if 0x040 ≤ off ∧ off < 0x080 then some (if off % 16 = 0 then w1cM 0x80000000 else ro) else none

def glSpec (off : Nat) : Option RegSpec :=
  match off with
  | 0x100 => some ⟨0x3, 0x100, 0⟩
  | 0x104 => some ro
  | 0x110 => some (rwM 0xFFFFF000)
  | 0x114 => some (rwM 0xFFFFFFFF)
  | 0x118 => some (rwM 0x1FF)
  | 0x120 => some ro | 0x124 => some ro | 0x140 => some ro
  | 0x200 => some ro | 0x204 => some ro | 0x208 => some ro | 0x20C => some ro | 0x210 => some ro
  | 0x480 => some (w1cM 0x01000000)
  | 0x484 => some ro
  | _ =>
    if 0x220 ≤ off ∧ off ≤ 0x234 then some ro
    else if 0x240 ≤ off ∧ off ≤ 0x27C then some ro
    else if 0x400 ≤ off ∧ off < 0x480 then some (if off % 8 = 0 then rwM 0xFFFFFFFF else rwM 0x1)
    else none

def feSpec (off : Nat) : Option RegSpec :=
  match off with
  | 0x100 => some (rwM 0xFFFFFF80) | 0x104 => some (rwM 0x3FF)
  | 0x108 => some ro
  | 0x10C => some (w1cM 0x1)
  | 0x110 => some ⟨0xFFFFFFFF, 0, 200000⟩
  | 0x114 => some (rwM 0xFFFFFFFF)
  | 0x118 => some (rwM 0x3F) | 0x11C => some ro
  | 0x120 => some ro | 0x124 => some ro | 0x128 => some ro | 0x12C => some ro | 0x130 => some ro
  | 0x180 => some (rwM 0x03FF000F)
  | 0x184 => some ro | 0x188 => some ro | 0x18C => some ro | 0x190 => some ro | 0x194 => some ro
  | 0x198 => some ro | 0x19C => some ro
  | 0x700 => some (rwM 0xFFFFFF80) | 0x704 => some (rwM 0x3FF) | 0x708 => some (rwM 0x7FFF)
  | 0x710 => some ro
  | 0x714 => some (rwM 0x7FFFFF)
  | 0x718 => some (w1cM 0x300)
  | 0x740 => some (rwM 0xC3FFFF3F) | 0x748 => some (rwM 0xC3FFFF3F) | 0x750 => some (rwM 0xC3FFFF3F)
  | 0x758 => some (rwM 0xC3FFFF3F)
  | 0x744 => some (rwM 0xFFFFF) | 0x74C => some (rwM 0xFFFFF) | 0x754 => some (rwM 0xFFFFF) | 0x75C => some (rwM 0xFFFFF)
  | 0x780 => some (rwM 0xFFFFFF00) | 0x784 => some (rwM 0x3FF) | 0x788 => some ro
  | _ => none

def umcSpec (off : Nat) : Option RegSpec :=
  match off with
  | 0x100 => some ⟨0xFFFFFFF1, 0, 0x3C0641⟩
  | 0x104 => some ro | 0x110 => some ro
  | 0x114 => some (rwM 0xF03FF)
  | 0x118 => some ro | 0x11C => some ro | 0x120 => some ro | 0x124 => some ro
  | 0x140 => some (rwM 0xFFE00000) | 0x144 => some (rwM 0x3FF)
  | 0x148 => some ro | 0x14C => some ro
  | 0x150 => some (rwM 0x3FF) | 0x154 => some ro
  | _ => none

def pwSpec (off : Nat) : Option RegSpec :=
  match off with
  | 0x100 => some ⟨0x07FF07FF, 0, 1500 + 350 * 65536⟩
  | 0x104 => some ⟨0xFFFF, 0, 1000⟩
  | 0x108 => some ⟨0x1FFFF, 0, 50⟩
  | 0x110 => some (w1cM 0x700)
  | 0x114 => some ro | 0x118 => some ro
  | 0x120 => some (rwM 0xF) | 0x124 => some ro | 0x128 => some ro
  | 0x140 => some (rwM 0x1F) | 0x144 => some ro | 0x148 => some (rwM 0x3F) | 0x14C => some ro
  | 0x1C0 => some ro
  | _ =>
    if 0x180 ≤ off ∧ off ≤ 0x1BC then some ro else if 0x200 ≤ off ∧ off ≤ 0x24C then some ro else none

def secSpec (off : Nat) : Option RegSpec :=
  match off with
  | 0x100 => some ro | 0x104 => some ro | 0x108 => some ro | 0x10C => some ro | 0x110 => some ro
  | 0x114 => some (rwM 0xFFFFFF80) | 0x118 => some (rwM 0xFFFFF)
  | 0x11C => some (w1cM 0x30000)
  | 0x120 => some ro
  | _ => none

def trSpec (off : Nat) : Option RegSpec :=
  match off with
  | 0x100 => some (rwM 0xFF000000) | 0x104 => some (rwM 0x3FF)
  | 0x108 => some ⟨0x7FFF013F, 0, 24⟩
  | 0x10C => some ro | 0x110 => some (rwM 0xFFFFFFFF) | 0x114 => some ro
  | 0x118 => some (w1cM 0x2)
  | _ => none

def ctSpec (off : Nat) : Option RegSpec := if 0x100 ≤ off ∧ off ≤ 0x11C then some ro else none

def dieSpec (off : Nat) : Option RegSpec := if off = 0x100 ∨ off = 0x104 then some ro else none

def hcSpec (off : Nat) : Option RegSpec :=
  match off with
  | 0x100 => some ro
  | 0x110 => some (w1cM 0xFF)
  | 0x114 => some ro | 0x118 => some ro | 0x11C => some ro | 0x120 => some ro | 0x124 => some ro
  | 0x130 => some (rwM 0x1F) | 0x134 => some ro | 0x138 => some ro
  | 0x180 => some ⟨0xFF, 0, 20⟩
  | 0x184 => some ro | 0x188 => some ro | 0x18C => some ro | 0x190 => some ro
  | 0x1C0 => some ro
  | 0x200 => some (rwM 0x00013F3F) | 0x204 => some ro
  | 0x240 => some ro | 0x244 => some ro
  | 0x800 => some ro | 0x804 => some (rwM 0xFFFFF) | 0x808 => some ro
  | 0x80C => some (w1cM 0x7)
  | 0x810 => some ro | 0x814 => some ro | 0x818 => some ro | 0x81C => some ro
  | 0x820 => some ro
  | 0x840 => some (w1cM 0x7)
  | 0x844 => some ro | 0x848 => some ro | 0x84C => some ro | 0x850 => some ro
  | _ => if 0x300 ≤ off ∧ off ≤ 0x324 then some ro else none

def plSpec (off : Nat) : Option RegSpec :=
  match off with
  | 0x100 => some ro
  | 0x104 => some ⟨0x3, 0, 0x3⟩
  | 0x108 => some ro
  | 0x180 => some (rwM 0x10000)
  | 0x184 => some (rwM 0x13FF03FF)
  | 0x188 => some (w1cM 0x10000000)
  | 0x18C => some (rwM 0x1F) | 0x190 => some ro | 0x194 => some ro
  | 0x1A0 => some (rwM 0x3FF) | 0x1A4 => some (rwM 0xFFFFFF)
  | 0x1A8 => some (rwM 0x3F) | 0x1AC => some (rwM 0x1FFFF)
  | 0x1B0 => some (w1cM 0x4) | 0x1B4 => some ro | 0x1B8 => some ro
  | _ =>
    if 0x110 ≤ off ∧ off ≤ 0x12C then some ro else if 0x140 ≤ off ∧ off ≤ 0x154 then some ro else none

def ubSpec (off : Nat) : Option RegSpec :=
  match off with
  | 0x200 => some (w1cM 0x3)
  | 0x204 => some ⟨0, 0, 4096⟩
  | 0x208 => some ro | 0x20C => some ro
  | 0x210 => some (rwM 0xFFF)
  | 0x300 => some (w1cM 0x1FF)
  | 0x400 => some (w1cM 0x1)
  | 0x404 => some ro | 0x408 => some ro | 0x40C => some ro | 0x410 => some ro
  | 0x500 => some ro | 0x504 => some ro | 0x508 => some ro | 0x50C => some ro
  | _ =>
    if 0x280 ≤ off ∧ off < 0x300 then
      some (if off % 16 = 0 then rwM 0x1FFFFFFF else if off % 16 = 4 then rwM 0xFF else if off % 16 = 12 then w1cM 0x1 else ro)
    else if 0x800 ≤ off ∧ off ≤ 0xBFC then some ro
    else none

def flSpec (off : Nat) : Option RegSpec :=
  match off with
  | 0x300 => some (w1cM 0x1)
  | 0x304 => some ro | 0x308 => some ro | 0x30C => some ro | 0x310 => some ro
  | 0x320 => some (w1cM 0x1F1F)
  | 0x340 => some (w1cM 0xF)
  | 0x344 => some ro | 0x348 => some ro | 0x34C => some ro | 0x350 => some ro
  | 0x360 => some (w1cM 0x1)
  | 0x364 => some ro | 0x368 => some ro | 0x36C => some ro
  | 0x380 => some (w1cM 0xF)
  | 0x384 => some ro | 0x388 => some ro | 0x38C => some ro
  | 0x3A0 => some (w1cM 0x1F)
  | 0x3A4 => some ro | 0x3A8 => some ro | 0x3AC => some ro | 0x3B0 => some ro | 0x3B4 => some ro
  | 0x3C0 => some ro | 0x3C4 => some ro | 0x3D0 => some ro | 0x3D4 => some ro
  | 0x3E0 => some (w1cM 0x3)
  | 0x3E4 => some ro | 0x3E8 => some ro
  | 0x700 => some ro | 0x704 => some ro | 0x708 => some ro | 0x70C => some ro | 0x710 => some ro | 0x714 => some ro
  | 0x720 => some ro | 0x724 => some ro | 0x728 => some ro | 0x72C => some ro
  | _ =>
    if 0x400 ≤ off ∧ off < 0x500 then
      some (if off % 16 = 0 then rwM 0xFFFF7FFF else if off % 16 = 4 then rwM 0x17F else ro)
    else if 0x500 ≤ off ∧ off < 0x540 then some (rwM 0xBFFFFFFF)
    else if 0x600 ≤ off ∧ off < 0x700 then some ro
    else none

/-- The table entry of a register; none for an unlisted offset, which reads zero and ignores writes (R467). -/
def regSpec (b : Blk) (off : Nat) : Option RegSpec :=
  if off % 4 ≠ 0 then none
  else if off < 0x100 then headSpec off
  else match b with
    | .gl => glSpec off | .fe => feSpec off | .umc => umcSpec off
    | .pw => pwSpec off | .sec => secSpec off | .tr => trSpec off | .ct => ctSpec off | .die => dieSpec off
    | .hc => hcSpec off | .pl => plSpec off | .ub => ubSpec off | .fl => flSpec off

/-- Registers whose one value is shared by every page of the block (R301, R330): the page that holds it. -/
def sharedPage (b : Blk) (off : Nat) : Bool :=
  (b == .hc && decide (0x180 ≤ off) && decide (off ≤ 0x190)) || (b == .pl && decide (0x180 ≤ off) && decide (off ≤ 0x1BC))

/-- The word a stored register holds at reset: the tables' values; MSI-X vector-control words reset to 1 (masked,
PRESUMED from the PCIe Base Specification, assumption 5). -/
def regReset (key : Nat) : W32 :=
  if 0x3000000 ≤ key ∧ key < 0x3008000 then (if key % 16 = 12 then 1 else 0)
  else match pageOf (key / 4096) with
    | none => 0
    | some (b, _) =>
      match regSpec b (key % 4096) with
      | none => 0
      | some r => BitVec.ofNat 32 r.reset

/-! Offsets by name. -/
namespace Off
def pageCtrl := 0x010
def pageStat := 0x014
def evtRaw := 0x020
def evtMask := 0x024
def evtPend := 0x028
def errCnt := 0x030
def errLog := 0x040
def glCtrl := 0x100
def glHwinLo := 0x110
def glHwinHi := 0x114
def glBar4 := 0x118
def glEsc := 0x480
def mxStat := 0x300
def mxBubble := 0x304
def mxFreeze := 0x308
def mxHold := 0x30C
def mxOrient := 0x310
def fpStat := 0x320
def qxStat := 0x340
def rqSatCnt := 0x344
def scaleMmCnt := 0x348
def qzSegCnt := 0x34C
def qzZeroCnt := 0x350
def cbStat := 0x360
def patchSatCnt := 0x364
def patchGrpCnt := 0x368
def expTileCnt := 0x36C
def vxStat := 0x380
def vxIssue := 0x384
def vxBusy := 0x388
def vxSample := 0x38C
def sqStat := 0x3A0
def errInsnLo := 0x3A8
def errInsnHi := 0x3AC
def progress := 0x3B0
def issueCnt := 0x3B4
def leLines := 0x3C4
def seLines := 0x3D4
def ordStat := 0x3E0
def wrLossCnt := 0x3E4
def rdLossCnt := 0x3E8
def digLo := 0x704
def digHi := 0x708
def digId := 0x70C
def digInfo := 0x710
def digCnt := 0x714
def nbRd := 0x720
def nbWr := 0x728
def poolStat := 0x200
def poolFree := 0x204
def poolFail := 0x208
def poolBadFree := 0x20C
def poolPeek := 0x210
def dmaBase := 0x280
def dmaBell := 0x284
def dmaDone := 0x288
def dmaStat := 0x28C
def dmaLoss := 0x300
def ddStat := 0x400
def ddUnits := 0x404
def ddGroups := 0x408
def ddLines := 0x40C
def ddErrUnit := 0x410
def bufRd := 0x500
def bufWr := 0x508
def hcErr := 0x110
def hcCe := 0x114
def hcUe := 0x118
def hcTag := 0x11C
def hcPw := 0x120
def hcRetry := 0x124
def hcCeLast := 0x138
def hcRd := 0x300
def hcWr := 0x308
def hcIntRd := 0x310
def hcChRd := 0x318
def hcChWr := 0x320
def kvCmd := 0x800
def kvArg := 0x804
def kvResult := 0x808
def kvStat := 0x80C
def kvFree := 0x810
def kvBadFree := 0x820
def srStat := 0x840
def srReq := 0x844
def srScan := 0x848
def srBuild := 0x84C
def srPoison := 0x850
end Off

end Sys2Proof.Machine
end

