-- ==== Sys2Proof/Machine/State.lean ====
section
/-! DEFINITION. The state of the device as plain data, its reset value, and the reasons a step can stop. -/

namespace Sys2Proof.Machine

/-- A fault report on its way to the front end and the UMC (R360): the code of R361, the reporting unit in
the SRC encoding of R479, the address or value that R378 records, and the slot and generation of the launch that the unit then
worked for (R255). -/
structure Report where
  code : Nat
  src : Nat
  addr : Nat
  info : Nat
  launch : Option (Nat × Nat)
  deriving DecidableEq, Repr

/-- The status of a completion: Successful Completion, Request Retry Status (R444), Unsupported Request (R395). -/
inductive CplStatus where
  | sc | rrs | ur
  deriving DecidableEq, Repr

/-- A message that leaves the device toward the host, in order (R240). `t` is the T bit of the device's own requests (R395). -/
inductive HostMsg where
  | line (addr : Nat) (mask : Nat) (data : Line) (ep t : Bool)
  | read (addr : Nat) (agent : Agent) (d i : Nat) (t : Bool)
  | msix (addr : Nat) (data : W32) (t : Bool)
  | completion (data : Nat) (len : Nat) (ep : Bool) (st : CplStatus)
  deriving DecidableEq, Repr

/-- What the check storage of a written line holds besides its data (R286, R287): the poison marker, the local line
address its tag was formed over, and the key epoch it was written under. -/
structure LineMeta where
  poison : Bool
  addr : Nat
  epoch : Nat
  deriving DecidableEq, Repr

/-- Where a fill left a stack's unlisted lines (R290): the key epoch, the enabled carve-outs as (BASE8, PART) and the
retirement list in force, which give each line's local address. -/
structure FillRec where
  epoch : Nat
  pools : List (Nat × Nat)
  ret : List Nat
  deriving DecidableEq, Repr

/-- A sorrel header with the floret that wrote it (R215). -/
structure SrReq where
  h : Line
  src : Option Nat
  deriving DecidableEq, Repr

/-- A summary build: sequence slot, generation and block (R207, R221). -/
structure SrBuild where
  slot : Nat
  gen : Nat
  block : Nat
  deriving DecidableEq, Repr

/-- One HBM stack (R282, R291 to R301). -/
structure Stack where
  /-- 0 OFFLINE, 1 ACTIVE, 2 SELF_REFRESH, 3 HALTED -/
  state : Nat
  rate : Nat
  fill : Option FillRec
  filling : Bool
  /-- a sample has been taken since reset: HC_THERM shows it -/
  sampled : Bool
  temp : Nat
  ref2x : Bool
  half : Bool
  /-- aclk cap of the adjacent umbels, 25 MHz units -/
  cap : Nat
  /-- time of the last request (R299) -/
  lastReq : Nat
  /-- a margin measurement is under way (R300) -/
  marginOn : Bool
  /-- sorrel unit: headers queued, oldest first, and summaries to build (R207, R217) -/
  srq : List SrReq
  builds : List SrBuild
  deriving DecidableEq, Repr

/-- The HBM of the device (chapter "HBM Stacks"). Physical lines are numbered
((s × 32 + k) × 2^23 + t) × 2 + pc (R283, R284). -/
structure Hbm where
  data : Memory
  info : SMap (Option LineMeta)
  stk : SMap Stack
  /-- key epoch of the base dies; 0 before the first key set -/
  epoch : Nat
  /-- retirement list, always-on (R293, R302) -/
  ret : List Nat
  gen : Bool
  /-- channels that are FAILING, in the order in which they met the criterion -/
  failing : List Nat
  retiring : Option Nat
  /-- next granule of the migration (local address ÷ 256) -/
  migNext : Nat
  /-- per channel: times of its three most recent UEs, newest first; minute of each CE of the last hour -/
  ues : SMap (List Nat)
  ces : SMap (List Nat)
  deriving DecidableEq, Repr

def Stack.reset : Stack := ⟨0, 0, none, false, false, 0, false, false, 60, 0, false, [], []⟩
def Hbm.reset : Hbm := ⟨[], [], [], 0, [], false, [], none, 0, [], []⟩

/-- What a packet carries (R308). -/
inductive Body where
  | write (addr mask : Nat) (data : Line) (poison : Bool) (tally : Option W32) (cnt : Bool)
  | read (addr : Nat)
  | signal (tally v : W32)
  | endMark (addr feed : Nat)
  | mc (tree addr : Nat) (data : Line) (poison ct : Bool) (tally : W32)
  | data (data : Line) (poison : Bool)
  | ack (toks : List AckTok)
  | loss (tok : Nat) (why : LossWhy)
  | fence (src flow gen inj : Nat)
  | lsa (a : Lsa)
  | time (m : TimeMsg)
  | subtree (tree : Nat) (count : Option Nat)
  deriving DecidableEq, Repr

/-- A packet that leaves on a link, with its sub-channel (R305, R313). -/
structure OutPkt where
  link : Nat
  sub : Nat
  dst : Nat
  src : Nat
  flow : Nat
  gen : Nat
  inj : Nat
  tok : Nat
  body : Body
  deriving DecidableEq, Repr

/-- Why an agent awaits an answer from the fabric. -/
inductive AwaitKind where
  | line | tallyCount | sigDesc | endDesc | tsig | credit | front
  deriving DecidableEq, Repr

/-- A remote access of this device that has not been answered (R314). -/
structure Await where
  tok : Nat
  kind : AwaitKind
  agent : Agent
  d : Nat
  i : Nat
  addr : Nat
  dev : Nat
  link : Nat
  flow : Nat
  gen : Nat
  /-- of a written line, the count that its tally, on another device than the line, gets after the ACK (R235): reference and value -/
  cnt : Option (Nat × W32)
  /-- its agent has been reset (R243): the line still counts, and a loss stops nobody -/
  orphan : Bool
  deriving DecidableEq, Repr

/-- A packet in a link's retry buffer (R306): its sequence number, when it was last sent, the bytes sent. -/
structure Retry where
  seq : Nat
  at_ : Nat
  wire : Nat
  pkt : OutPkt
  deriving DecidableEq, Repr

/-- A Peruldo link (R304 to R307). -/
structure Link where
  /-- 0 DOWN, 1 TRAINING, 2 UP, 3 RETIRED -/
  state : Nat
  lanes : Nat
  coded : Bool
  peerDev : Nat
  peerLink : Nat
  faults : Nat
  /-- time it left UP, for the 10 ms of R307; 0 when it is UP or never was -/
  downAt : Nat
  wasUp : Bool
  /-- receive sequence number, and (sequence number, time) of the replays of the last millisecond, newest first (R306) -/
  rxSeq : Nat
  replays : List (Nat × Nat)
  /-- next sequence number to send, and the packets that the peer may lack, oldest first -/
  txSeq : Nat
  retry : List Retry
  /-- by lane, the times at which it lost lock within the last 60 s (R307) -/
  lockLoss : SMap (List Nat)
  deriving DecidableEq, Repr

/-- The fabric side of the device (chapter "The Peruldo Fabric"). -/
structure Fabric where
  links : SMap Link
  routes : SMap W32
  mct : SMap W32
  /-- source, flow, generation, expiry (R318) -/
  dead : List (Nat × Nat × Nat × Nat)
  /-- FENCE packets waiting for room -/
  deadQ : List (Nat × Nat × Nat × Nat)
  awaits : List Await
  nextTok : Nat
  out : List OutPkt
  /-- packets that wait for their link to be UP, oldest first (R311) -/
  held : List OutPkt
  /-- READ packets whose line the PCIe requester fetches, by the tag of the request (R314) -/
  hostRd : List (Nat × PktHdr)
  /-- in-service set S and the last LSA of each device: (sequence, arrival time, LSA) (R324) -/
  service : List Nat
  lsas : SMap (Option (Nat × Nat × Lsa))
  reach : List Nat
  /-- since when R has differed from S, plus 1 -/
  diffAt : Nat
  mstate : Nat
  lsaSeq : Nat
  lsaAt : Nat
  /-- fabric-time servo (R322, R323) -/
  ratePpm : Int
  ofs : Int
  locked : Bool
  hold : Bool
  master : Bool
  /-- the master that a split has chosen in place of TIME_MASTER (R323) -/
  newMaster : Option Nat
  timeAt : Nat
  /-- time of the last TIME packet sent to the parent -/
  timeSent : Nat
  firstLock : Bool
  /-- time of the last PPS edge taken plus 1; 0 since PPS_EN was set (R460) -/
  ppsAt : Nat
  /-- steering at the full rate after TIME_ERR -/
  fullRate : Bool
  /-- own completed lines and child counts of each multicast tree (R320), counts last reported -/
  mcOwn : SMap Nat
  mcChild : SMap Nat
  mcSent : SMap Nat
  mcSentAt : SMap Nat
  mcBroken : SMap Bool
  /-- the flows closed at this device's ports: (flow, generation) (R317) -/
  closedFlows : List (Nat × Nat)
  deriving DecidableEq, Repr

def Link.reset : Link := ⟨0, 0, false, 0, 0, 0, 0, false, 0, [], 0, [], []⟩
def Fabric.reset : Fabric :=
  { links := [], routes := [], mct := [], dead := [], deadQ := [], awaits := [], nextTok := 1, out := [], held := [], hostRd := [], service := [],
    lsas := [], reach := [], diffAt := 0, mstate := 0, lsaSeq := 0, lsaAt := 0, ratePpm := 0, ofs := 0, locked := false,
    hold := false, master := false, newMaster := none, timeAt := 0, timeSent := 0, firstLock := false, ppsAt := 0, fullRate := false, mcOwn := [], mcChild := [],
    mcSent := [], mcSentAt := [], mcBroken := [], closedFlows := [] }

/-- A read of the host window that has gone out (R240, R468): who asked, the host address, and the bytes of the line that the
device has written to the host since. -/
structure HostRead where
  agent : Agent
  d : Nat
  i : Nat
  addr : Nat
  wr : Nat
  deriving DecidableEq, Repr

/-- The device. -/
structure State where
  /-- commands waiting, first in, first out -/
  pending : List Instr
  /-- register words by BAR0 offset (R469, R472) -/
  regs : SMap W32
  /-- HI latches of 64-bit counters, by the offset of the HI register -/
  latch : SMap W32
  /-- 64-bit byte counters of R414, by the offset of the LO register -/
  cnt64 : SMap Nat
  fls : SMap Floret
  ums : SMap Umbel
  /-- near banks and umbel buffers by local address; poisoned lines by local line address -/
  sram : Memory
  sramBad : SMap Bool
  /-- lines of host memory as completions gave them to the front end, with what the device has written since, by host address -/
  hostMem : Memory
  /-- fabric time, ns (R15, R322) -/
  ftime : Nat
  reports : List Report
  hostOut : List HostMsg
  /-- the counter from which free values are drawn (assumption 6) -/
  freeCtr : Nat
  /-- the fused variant code of R9 (assumption 3) -/
  variant : Fin 4
  /-- COMPAT_SEL as sampled at the end of the last device reset -/
  strap : Bool
  hbm : Hbm
  fab : Fabric
  /-- next ERR_LOG entry of each page, by page index (R479) -/
  logPtr : SMap Nat
  /-- fabric time in millionths of a nanosecond beyond `ftime` -/
  timeAcc : Int
  /-- Bus Master Enable and Memory Space Enable of the function's configuration space -/
  bme : Bool
  fe : Front
  tr : Trace
  pw : Power
  flt : Faults
  sec : Sec
  snap : Snap
  boot : Boot
  mgmt : Mgmt
  /-- COMPAT of each page, by page index (R476, R477) -/
  compat : SMap Bool
  /-- Memory Space Enable and the size of BAR4 as a power of two -/
  mse : Bool
  bar4 : Nat
  /-- reads of the host window outstanding, oldest first -/
  hostReads : List HostRead
  deriving DecidableEq, Repr

/-- The device with its always-on domain in reset, before AON_RST_N first rises (R358, R382, R429): every register at its
reset value, every memory as nothing has written it, no command waiting. -/
def State.reset : State :=
  { pending := [], regs := [], latch := [], cnt64 := [], fls := [], ums := [], sram := [], sramBad := [], hostMem := []
    ftime := 0, reports := [], hostOut := [], freeCtr := 0, variant := 0, strap := false, hbm := .reset, fab := .reset
    logPtr := [], timeAcc := 0, bme := false, fe := .reset, tr := .reset, pw := .reset, flt := .reset, sec := .reset
    snap := .reset, boot := .reset, mgmt := .reset, compat := [], mse := false, bar4 := 30, hostReads := [] }

/-- Reasons to stop with a fault. None is raised: the manual gives every command an effect, so this type has no
constructor that a meaning uses. -/
inductive Fault where
  /-- Raised by nothing; safe. -/
  | unreachable
  deriving DecidableEq, Repr

/-- Reasons to refuse. -/
inductive Refusal where
  /-- The command's meaning is not written yet; safe. -/
  | notModelled (mnemonic : String)
  deriving DecidableEq, Repr

end Sys2Proof.Machine
end

