-- ==== Sys2Proof/Machine/Ops.lean ====
section
/-! DEFINITION. Named operations that every meaning shares: register words, events and messages (R478), error logs
(R479), fault reports, byte counters (R414), units present, florets and umbels by number. -/

namespace Sys2Proof.Machine

/-! Units of the variant (R9 to R12). -/

def perUmbel (v : Nat) : Nat := match v with
  | 0 => 16 | 1 => 16 | 2 => 14 | _ => 12
def capGiB (v : Nat) : Nat := match v with
  | 0 => 48 | 1 => 36 | 2 => 48 | _ => 32
def linkMask (v : Nat) : Nat := if v = 3 then 0x3CF else 0xFFF
def stackHeight (v : Nat) : Nat := if v = 1 then 12 else 16

namespace State

def flPresent (s : State) (n : Nat) : Bool := decide (n < 512) && decide (n % 16 < perUmbel s.variant.val)
def linkPresent (s : State) (l : Nat) : Bool := bitN (linkMask s.variant.val) l

/-! Florets and umbels. -/

def fl (s : State) (n : Nat) : Floret := SMap.get Floret.reset s.fls n
def setFl (s : State) (n : Nat) (x : Floret) : State := { s with fls := SMap.put Floret.reset s.fls n x }
def modFl (s : State) (n : Nat) (f : Floret → Floret) : State := s.setFl n (f (s.fl n))
def um (s : State) (u : Nat) : Umbel := SMap.get Umbel.reset s.ums u
def setUm (s : State) (u : Nat) (x : Umbel) : State := { s with ums := SMap.put Umbel.reset s.ums u x }
def modUm (s : State) (u : Nat) (f : Umbel → Umbel) : State := s.setUm u (f (s.um u))

/-- A reset of half `h` is under way (R370). -/
def dieDown (s : State) (h : Nat) : Bool := SMap.get 0 s.flt.dieRst h != 0

/-- The umbel holds a unit in reset, or its NoC ingress is closed (R244, R364). -/
def umShut (s : State) (u : Nat) : Bool := (s.um u).held || (s.um u).closed || s.dieDown (u / 16)

/-! Register words (R469). -/

/-- Key of a register: device-wide registers live in the first page of their block (R301, R330). -/
def regKey (b : Blk) (n off : Nat) : Nat := if sharedPage b off then regOff b 0 off else regOff b n off

def rawReg (s : State) (key : Nat) : W32 := SMap.get (regReset key) s.regs key
def setRaw (s : State) (key : Nat) (v : W32) : State := { s with regs := SMap.put (regReset key) s.regs key v }
def reg (s : State) (b : Blk) (n off : Nat) : W32 := s.rawReg (regKey b n off)
def regN (s : State) (b : Blk) (n off : Nat) : Nat := (s.reg b n off).toNat
def setReg (s : State) (b : Blk) (n off : Nat) (v : W32) : State := s.setRaw (regKey b n off) v
def orReg (s : State) (b : Blk) (n off : Nat) (v : W32) : State := s.setReg b n off (s.reg b n off ||| v)
/-- Add to a counter that wraps modulo 2^32. -/
def addReg (s : State) (b : Blk) (n off v : Nat) : State := s.setReg b n off (s.reg b n off + BitVec.ofNat 32 v)
/-- Replace bits `[hi:lo]`. -/
def setField (s : State) (b : Blk) (n off hi lo v : Nat) : State :=
  s.setReg b n off (BitVec.ofNat 32 (setBitsN (s.regN b n off) hi lo v))

/-- Add to a 64-bit byte counter (R414); `off` is its LO register. -/
def cnt (s : State) (b : Blk) (n off v : Nat) : State :=
  let k := regOff b n off
  { s with cnt64 := SMap.put 0 s.cnt64 k ((SMap.get 0 s.cnt64 k + v) % 2 ^ 64) }

/-! Messages and events. -/

/-- The TDI is in RUN: the device's own requests to the host carry the T bit (R395). -/
def tdiRuns (s : State) : Bool := s.sec.tdi == 2

/-- In RUN a request to BAR0, BAR2 or BAR4 is taken only with its T bit `t` set (R395). -/
def takesT (s : State) (t : Bool) : Bool := !s.tdiRuns || t

/-- A read that the device does not take is answered with Unsupported Request. -/
def refuseRead (s : State) (len : Nat) : State := { s with hostOut := s.hostOut ++ [.completion 0 len false .ur] }

/-- Send MSI-X message `vec`: through its table entry, or into the pending-bit array while it is masked (R475). With the TDI
in ERROR the device issues no request to the host (R395). -/
def msix (s : State) (vec : Nat) : State :=
  let e := 0x3000000 + 16 * (vec % 2048)
  if s.sec.tdi = 3 then s
  else if (s.rawReg (e + 12)).getLsbD 0 then
    let k := 0x3008000 + 4 * (vec % 2048 / 32)
    s.setRaw k (s.rawReg k ||| BitVec.ofNat 32 (2 ^ (vec % 32)))
  else
    { s with hostOut := s.hostOut ++ [.msix ((s.rawReg e).toNat + 2 ^ 32 * (s.rawReg (e + 4)).toNat) (s.rawReg (e + 8)) s.tdiRuns] }

/-- An event `e` of a page (R478): EVT_RAW is set; EVT_PEND when the mask bit is 0; the page's message goes out when
the pending bit read 0 and IRQ_EN is set. -/
def event (s : State) (b : Blk) (n e : Nat) : State :=
  let bit := BitVec.ofNat 32 (2 ^ e)
  let s := s.orReg b n Off.evtRaw bit
  if (s.reg b n Off.evtMask).getLsbD e then s
  else
    let was := (s.reg b n Off.evtPend).getLsbD e
    let s := s.orReg b n Off.evtPend bit
    let ctl := s.regN b n Off.pageCtrl
    if !was && bitN ctl 8 then s.msix (bitsN ctl 26 16) else s

/-- Set a sticky bit; its rise from 0 to 1 is event `e` of the page. -/
def sticky (s : State) (b : Blk) (n off bit : Nat) (e : Option Nat) : State :=
  let was := (s.reg b n off).getLsbD bit
  let s := s.orReg b n off (BitVec.ofNat 32 (2 ^ bit))
  match was, e with
  | false, some k => s.event b n k
  | _, _ => s

/-- Set several bits of a sticky register, each rise of a bit of `evs` being its event. -/
def stickies (s : State) (b : Blk) (n off : Nat) (bits : W32) (evs : List (Nat × Nat)) : State :=
  let old := s.reg b n off
  let s := s.orReg b n off bits
  evs.foldl (fun s x => if bits.getLsbD x.1 && !old.getLsbD x.1 then s.event b n x.2 else s) s

/-- FL_FP_STAT bits (R69); a rise of NV or FAST_NAN is event 5. -/
def fpFlags (s : State) (n : Nat) (f : W32) : State := s.stickies .fl n Off.fpStat f [(0, 5), (8, 5)]

/-- Count an error and log it (R479). -/
def logErr (s : State) (b : Blk) (n code addr src info : Nat) : State :=
  let c := s.regN b n Off.errCnt
  let c' := if c < 0xFFFFFFFF then c + 1 else c
  let s := s.setReg b n Off.errCnt (BitVec.ofNat 32 c')
  let pg := b.page n
  let e := SMap.get 0 s.logPtr pg % 4
  let o := Off.errLog + 16 * e
  let s := if (s.reg b n o).getLsbD 31 then s.orReg b n Off.pageStat 0x100 else s
  let s := s.setReg b n o (BitVec.ofNat 32 (c' % 2 ^ 16 + 2 ^ 16 * (code % 256) + 2 ^ 31))
  let s := s.setReg b n (o + 4) (BitVec.ofNat 32 addr)
  let s := s.setReg b n (o + 8) (BitVec.ofNat 32 (addr / 2 ^ 32 % 2 ^ 20 + 2 ^ 20 * (src % 4096)))
  let s := s.setReg b n (o + 12) (BitVec.ofNat 32 info)
  { s with logPtr := SMap.put 0 s.logPtr pg ((e + 1) % 4) }

/-- The slot and generation of the launch that the unit of a SRC code works for: a floret's own launch; for an umbel's unit
the first running launch that places a floret there. -/
def launchOf (s : State) (src : Nat) : Option (Nat × Nat) :=
  if src < 0x200 then
    let fl := s.fl src
    if fl.lslot = 0 then none else some (fl.lslot - 1, fl.lgen)
  else if src < 0x220 then
    (s.fe.slots.find? (fun t => t.2.state == 2 && t.2.ended.isNone && t.2.florets.any (fun f => f / 16 == src - 0x200))).map
      (fun t => (t.1, t.2.gen))
  else none

/-- A fault report leaves for the front end and the UMC (R255, R360). -/
def report (s : State) (code src addr info : Nat) : State :=
  { s with reports := s.reports ++ [⟨code, src, addr, info, s.launchOf src⟩] }

/-- A fresh free value (assumption 6). -/
def fresh (s : State) : W64 × State := (Config.free s.freeCtr, { s with freeCtr := s.freeCtr + 1 })

end State

/-! Fault codes of R361. -/
namespace Code
def sqIllegal := 0x01
def descErr := 0x02
def lineLoss := 0x03
def poisonUse := 0x04
def weightStream := 0x05
def sorrelReq := 0x06
def sramUe := 0x07
def unitParity := 0x08
def marchFail := 0x09
def hang := 0x0F
def nocUe := 0x10
def d2dFail := 0x11
def vrOff := 0x20
def hbmThermHalt := 0x21
def dieOvertemp := 0x22
def hbmRetFull := 0x30
def carveHit := 0x31
def meadowSplit := 0x32
def linkRetired := 0x33
def sweepFail := 0x34
def thermtrip := 0x40
end Code

/-- Who asks for an access: the page that records its address errors and its SRC code (R13, R479). -/
structure Req where
  blk : Blk
  n : Nat
  src : Nat
  deriving DecidableEq, Repr

def reqOf : Agent → Req
  | .load f => ⟨.fl, f.val, f.val⟩
  | .store f => ⟨.fl, f.val, f.val⟩
  | .seq f => ⟨.fl, f.val, f.val⟩
  | .dma u _ => ⟨.ub, u.val, 0x200 + u.val⟩
  | .dd u => ⟨.ub, u.val, 0x200 + u.val⟩
  | .sorrel k => ⟨.hc, k.val, 0x220 + k.val⟩
  | .copy => ⟨.fe, 0, 0xFF0⟩
  | .frontEnd => ⟨.fe, 0, 0xFF0⟩
  | .umc => ⟨.umc, 0, 0xFF1⟩
  | .host => ⟨.ct, 0, 0xFF2⟩

/-- The ingress link of a remote access (R314). -/
def reqLink (l : Nat) : Req := ⟨.pl, l, 0x230 + l⟩

/-- This device's ID (R330). -/
def State.devId (s : State) : Nat := bitsN (s.regN .pl 0 0x180) 9 0

/-- An address error (R13): the global address is logged (R480). -/
def State.addrErr (s : State) (q : Req) (addr : Nat) (write : Bool) : State :=
  s.logErr q.blk q.n 0x01 (2 ^ 42 * s.devId + addr % 2 ^ 42) q.src (b2n write)

/-- The signed comparison of R154: a wait for target `t` on a tally of value `v` is satisfied. -/
def waitOk (v t : W32) : Bool := decide (0 ≤ (v - t).toInt)

end Sys2Proof.Machine
end

