-- ==== Sys2Proof/Machine/Hbm.lean ====
section
/-! DEFINITION. HBM (chapter "HBM Stacks"): placement of addresses (R284, R285), channel retirement (R293), the checks of
a read (R287, R288), writes and partial writes (R286, R289), the fault windows of a channel (R291, R292, R294). -/

namespace Sys2Proof.Machine

/-- A KV pool's registers (R225). -/
structure KvPool where
  base8 : Nat
  part : Nat
  np : Nat
  c6 : Bool
  en : Bool
  frames : Nat
  deriving DecidableEq, Repr

def State.kvPool (s : State) (n : Nat) : KvPool :=
  let c := s.regN .fe 0 (0x740 + 8 * n)
  ⟨bitsN c 5 0, bitsN c 13 8, bitsN c 25 14, bitN c 30, bitN c 31, bitsN (s.regN .fe 0 (0x744 + 8 * n)) 19 0⟩

/-- Enabled carve-outs as (BASE8, PART). -/
def State.pools (s : State) : List (Nat × Nat) :=
  (List.range 4).filterMap (fun n => let p := s.kvPool n; if p.en then some (p.base8, p.part) else none)

/-! Addresses (R12, R283 to R285, R293, R294). -/

/-- Sets of a channel, from the capacity of a stack in GiB. -/
def setsPerChan (cap : Nat) : Nat := 2 ^ 17 * cap
/-- The retirement block. -/
def retBlock (cap : Nat) : Nat := setsPerChan cap / 256

def State.cap (s : State) : Nat := capGiB s.variant.val

/-- First address above the usable range when `r` channels are retired or retiring (R294). -/
def usableEnd (cap r : Nat) : Nat := 2 ^ 33 * cap * (256 - r) / 256

def State.hbmEnd (s : State) : Nat :=
  usableEnd s.cap (s.hbm.ret.length + (match s.hbm.retiring with | none => 0 | some _ => 1))

/-- The device-wide interleave (R284): channel number and set. -/
def interleave (a : Nat) : Nat × Nat :=
  let g := bitsN a 38 8
  let h := bitsN g 7 0 ^^^ bitsN g 15 8 ^^^ bitsN g 23 16 ^^^ bitsN g 30 24
  (32 * bitsN h 2 0 + bitsN h 7 3, g / 256)

/-- Placement inside a carve-out (R285). -/
def carve (base8 part a : Nat) : Nat × Nat :=
  let p := a - 2 ^ 33 * base8
  let st := p / (2 ^ 30 * part)
  let g := bitsN (p % (2 ^ 30 * part)) 35 8
  let k := bitsN g 4 0 ^^^ bitsN g 9 5 ^^^ bitsN g 14 10 ^^^ bitsN g 19 15 ^^^ bitsN g 24 20 ^^^ bitsN g 27 25
  (32 * st + k, 2 ^ 17 * base8 + g / 32)

/-- Whether an address lies in the carve-out. -/
def inCarve (pool : Nat × Nat) (a : Nat) : Bool :=
  decide (2 ^ 33 * pool.1 ≤ a) && decide (a < 2 ^ 33 * pool.1 + 2 ^ 30 * (8 * pool.2))

def place (pools : List (Nat × Nat)) (a : Nat) : Nat × Nat :=
  match pools.find? (fun p => inCarve p a) with
  | some p => carve p.1 p.2 a
  | none => interleave a

/-- Redirection by the retirement list (R293); `n` sets, block of `b`. -/
def redirect (n b : Nat) (ret : List Nat) (ct : Nat × Nat) : Nat × Nat :=
  if ret.contains ct.1 then
    let live := (List.range 256).filter (fun c => !ret.contains c)
    (live.getD (ct.2 / b) 0, n - b * (ret.idxOf ct.1 + 1) + ct.2 % b)
  else ct

/-- Number of the physical line that holds the line of address `a`. -/
def physLine (cap : Nat) (pools : List (Nat × Nat)) (ret : List Nat) (a : Nat) : Nat :=
  let ct := redirect (setsPerChan cap) (retBlock cap) ret (place pools a)
  2 * (2 ^ 23 * ct.1 + ct.2) + bitsN a 7 7

def physChan (p : Nat) : Nat := p / 2 ^ 24

def State.phys (s : State) (a : Nat) : Nat := physLine s.cap s.pools s.hbm.ret a

/-- The location under the shadow map (R296). -/
def State.shadow (s : State) (a : Nat) : Nat :=
  match s.hbm.retiring with
  | none => s.phys a
  | some c => physLine s.cap s.pools (s.hbm.ret ++ [c]) a

def State.stk (s : State) (k : Nat) : Stack := SMap.get Stack.reset s.hbm.stk k
def State.setStk (s : State) (k : Nat) (x : Stack) : State :=
  { s with hbm := { s.hbm with stk := SMap.put Stack.reset s.hbm.stk k x } }

/-- Stack `k` takes requests: it is ACTIVE, or in SELF_REFRESH, which the request ends (R298, R299, R482). -/
def State.stkTakes (s : State) (k : Nat) : Bool := (s.stk k).state == 1 || (s.stk k).state == 2

/-- Stack `k` takes requests and its die's controllers run (R332, R370). -/
def State.stkServes (s : State) (k : Nat) : Bool := s.stkTakes k && !s.dieDown (k / 4)

/-- The stack that holds the line takes requests. -/
def State.hbmReady (s : State) (a : Nat) : Bool := s.stkTakes (physChan (s.phys a) / 32)

/-- The controller of the line's stack is in a die reset (R332, R370). -/
def State.hbmDown (s : State) (a : Nat) : Bool := s.dieDown (physChan (s.phys a) / 128)

/-! Counters and faults of a channel. -/

/-- Stack `k` has a request: it leaves self-refresh (R299). -/
def State.stkTouch (s : State) (k : Nat) : State :=
  s.setStk k { s.stk k with lastReq := s.ftime, state := if (s.stk k).state = 2 then 1 else (s.stk k).state }

/-- Count 128 bytes over the interface of the line's stack (R414); the stack has had a request. -/
def State.hbmBytes (s : State) (p : Nat) (wr : Bool) : State :=
  let k := physChan p / 32
  let s := s.stkTouch k
  let s := s.cnt .hc k (if wr then Off.hcWr else Off.hcRd) 128
  let key := 0x4000000 + 2 * physChan p + b2n wr
  { s with cnt64 := SMap.put 0 s.cnt64 key ((SMap.get 0 s.cnt64 key + 128) % 2 ^ 64) }

/-- The usable end has come down to cut a carve-out (R294). -/
def State.carveHit (s : State) (k : Nat) : State :=
  if s.pools.any (fun p => decide (s.hbmEnd < 2 ^ 33 * p.1 + 2 ^ 30 * (8 * p.2))) then
    (s.sticky .hc k Off.hcErr 6 none).report Code.carveHit (0x220 + k) s.hbmEnd 0
  else s

/-- Channel `c` becomes RETIRING and its migration starts (R292, R294, R296). -/
def State.startRetire (s : State) (c : Nat) : State :=
  let k := c / 32
  let s := { s with hbm := { s.hbm with retiring := some c, migNext := 0, failing := s.hbm.failing.filter (· ≠ c) } }
  let s := s.setReg .hc 0 0x190 0
  (s.sticky .hc k Off.hcErr 4 (some 4)).carveHit k

/-- A channel meets the permanent-fault criterion (R292). -/
def State.chanFails (s : State) (c : Nat) : State :=
  if s.hbm.ret.contains c || s.hbm.retiring == some c || s.hbm.failing.contains c then s
  else if s.hbm.retiring.isNone && decide (s.hbm.ret.length < 8) then s.startRetire c
  else
    let s := { s with hbm := { s.hbm with failing := s.hbm.failing ++ [c] } }
    (s.sticky .hc (c / 32) Off.hcErr 5 (some 6)).report Code.hbmRetFull (0x220 + c / 32) c 0

/-- A UE of a channel (R291). -/
def State.chanUe (s : State) (c : Nat) : State :=
  let ts := s.ftime :: (SMap.get [] s.hbm.ues c).take 2
  let s := { s with hbm := { s.hbm with ues := SMap.put [] s.hbm.ues c ts } }
  if ts.length = 3 && decide (s.ftime - ts.getLast?.getD 0 < 86400000000000) then s.chanFails c else s

/-- CEs of the current minute's bucket and the 59 before it. -/
def ceHour (now : Nat) (ms : List Nat) : List Nat := ms.filter (fun m => decide (now / 60000000000 < m + 60))

/-- A CE of a channel (R291). -/
def State.chanCe (s : State) (c : Nat) : State :=
  let ms := s.ftime / 60000000000 :: ceHour s.ftime (SMap.get [] s.hbm.ces c)
  let s := { s with hbm := { s.hbm with ces := SMap.put [] s.hbm.ces c ms } }
  if 1000 < ms.length then s.chanFails c else s

def State.countCe (s : State) (a p : Nat) : State :=
  let k := physChan p / 32
  let s := s.addReg .hc k Off.hcCe 1
  let s := s.setReg .hc k Off.hcCeLast (BitVec.ofNat 32 (a / 128))
  (s.sticky .hc k Off.hcErr 0 (some 0)).chanCe (physChan p)

def State.countUe (s : State) (q : Req) (a p : Nat) : State :=
  let k := physChan p / 32
  let s := s.addReg .hc k Off.hcUe 1
  let s := s.logErr .hc k 0x09 a q.src (physChan p)
  (s.sticky .hc k Off.hcErr 1 (some 1)).chanUe (physChan p)

def State.countTag (s : State) (q : Req) (a p : Nat) : State :=
  let k := physChan p / 32
  let s := s.addReg .hc k Off.hcTag 1
  let s := s.logErr .hc k 0x0A a q.src (physChan p)
  s.sticky .hc k Off.hcErr 2 (some 2)

/-! Lines. -/

/-- What the check storage says of physical line `p` read at address `a`: poison marker, or none where the tag does not
match (R286, R287, R290). An unlisted line holds what the stack's last fill wrote. -/
def State.lineTag (s : State) (a p : Nat) : Option Bool :=
  match SMap.get none s.hbm.info p with
  | some m => if m.addr = a && m.epoch = s.hbm.epoch then some m.poison else none
  | none =>
    match (s.stk (physChan p / 32)).fill with
    | some f => if f.epoch = s.hbm.epoch && physLine s.cap f.pools f.ret a = p then some false else none
    | none => none

def State.physData (s : State) (p : Nat) : Line := Memory.readLine s.hbm.data (p * 128)

/-- Store a line at a physical position; a poisoned line holds zeros (R287). -/
def State.putPhys (s : State) (a p : Nat) (l : Line) (poison : Bool) : State :=
  { s with hbm := { s.hbm with
      data := Memory.writeLine s.hbm.data (p * 128) (if poison then 0 else l)
      info := SMap.put none s.hbm.info p (some ⟨poison, a, s.hbm.epoch⟩) } }

/-- The line of `a` is written poisoned, at `p` and at its other location of a migration (R288, R296). -/
def State.putPoison (s : State) (a p : Nat) : State :=
  let s := s.putPhys a p 0 true
  if s.shadow a = p then s else s.putPhys a (s.shadow a) 0 true

/-- Decode and check physical line `p` at address `a` (R288): the data and whether it is poisoned. A poison marker counts
nothing (R287); a wrong tag counts as TAG alone, beside the re-reads made. -/
def State.decodeLine (s : State) (q : Req) (a p : Nat) (e : Ecc) : (Line × Bool) × State :=
  let k := physChan p / 32
  let tag := s.lineTag a p
  if tag = some true then ((0, true), s)
  else
    let good := tag.isSome
    let out := (if good then (s.physData p, false) else (0, true))
    match e with
    | .clean => (out, if good then s else s.countTag q a p)
    | .corrected => (out, if good then s.countCe a p else s.countTag q a p)
    | .retried twice =>
      let s := s.addReg .hc k Off.hcRetry (if twice then 2 else 1)
      (out, if good then s.countCe a p else s.countTag q a p)
    | .uncorrectable => ((0, true), ((s.addReg .hc k Off.hcRetry 2).countUe q a p).putPoison a p)
    | .tagBad => ((0, true), s.countTag q a p)

/-- Reads made of a line: re-reads move over the interface too (R414), and a poison marker needs none. -/
def eccReads : Ecc → Nat
  | .retried false => 2
  | .retried true => 3
  | .uncorrectable => 3
  | _ => 1

def State.lineReads (s : State) (a p : Nat) (e : Ecc) : Nat := if s.lineTag a p = some true then 1 else eccReads e

/-- Read physical line `p` over the interface. -/
def State.physRead (s : State) (q : Req) (a p : Nat) (e : Ecc) : (Line × Bool) × State :=
  let t := (List.range (s.lineReads a p e)).foldl (fun s _ => s.hbmBytes p false) s
  t.decodeLine q a p e

/-- Read a line of HBM over the interface (R288). -/
def State.hbmRead (s : State) (q : Req) (a : Nat) (e : Ecc) : (Line × Bool) × State := s.physRead q a (s.phys a) e

/-- The sorrel unit of stack `k` as a requester. -/
def reqSorrel (k : Nat) : Req := ⟨.hc, k, 0x220 + k⟩

/-- Read a line for the sorrel unit of stack `k`: over the internal path, or over the interface where R293 has moved the
line out of the stack (R295). A line above the usable end is an address error, and reads as zeros (R13, R294). -/
def State.hbmReadInt (s : State) (k a : Nat) (e : Ecc) : (Line × Bool) × State :=
  let p := s.phys a
  if s.hbmEnd ≤ a then ((0, false), s.addrErr (reqSorrel k) a false)
  else if physChan p / 32 = k then ((s.stkTouch k).cnt .hc k Off.hcIntRd 128).decodeLine (reqSorrel k) a p e
  else s.physRead (reqSorrel k) a p e

/-- Write a whole line; during a migration both locations (R296). -/
def State.hbmWrite (s : State) (a : Nat) (l : Line) (poison : Bool) : State :=
  let p := s.phys a
  let p' := s.shadow a
  let s := (s.hbmBytes p true).putPhys a p l poison
  if p' = p then s else (s.hbmBytes p' true).putPhys a p' l poison

/-- Merge the masked bytes of `new` into `old`. -/
def mergeLine (old new : Line) (mask : Nat) : Line :=
  let m := (List.range 128).foldl (fun acc i => acc + (if bitN mask i then 255 * 2 ^ (8 * i) else 0)) 0
  (old &&& ~~~(BitVec.ofNat 1024 m)) ||| (new &&& BitVec.ofNat 1024 m)

/-- A partial-line write (R289). A poisoned write poisons the line (R362). -/
def State.hbmPartial (s : State) (q : Req) (a mask : Nat) (l : Line) (poison : Bool) (e : Ecc) : State :=
  let p := s.phys a
  let r := s.hbmRead q a e
  let s := r.2
  if r.1.2 then
    let k := physChan p / 32
    let s := s.hbmWrite a 0 true
    let s := s.addReg .hc k Off.hcPw 1
    let s := s.logErr .hc k 0x0B a q.src (physChan p)
    s.sticky .hc k Off.hcErr 3 (some 3)
  else s.hbmWrite a (mergeLine r.1.1 l mask) poison

/-- A line that the sorrel unit of stack `k` writes. -/
def State.hbmWriteInt (s : State) (k a : Nat) (l : Line) (poison : Bool) : State :=
  if s.hbmEnd ≤ a then s.addrErr (reqSorrel k) a true else s.hbmWrite a l poison

/-! Small accesses by the front end and the allocators, whose tables lie in HBM. -/

/-- What a table's reader finds in a line: zeros where the line is poisoned, fails its tag (R287, R288), or lies above the
usable end. -/
def State.hbmGet (s : State) (a : Nat) : Line :=
  let p := s.phys a
  match (if s.hbmEnd ≤ a then none else s.lineTag a p) with
  | some false => s.physData p
  | _ => 0

/-- `n` bytes at `a`, as a number. -/
def State.hbmGetN (s : State) (n a : Nat) : Nat :=
  match n with
  | 0 => 0
  | n + 1 => lineByte (s.hbmGet (a / 128 * 128)) (a % 128) + 256 * s.hbmGetN n (a + 1)

/-- Replace `n` bytes at `a`, within one line, for requester `q`: a partial write (R289). -/
def State.hbmPutN (s : State) (q : Req) (n a v : Nat) : State :=
  let o := a % 128
  if s.hbmEnd ≤ a then s.addrErr q (a / 128 * 128) true
  else s.hbmPartial q (a / 128 * 128) ((2 ^ n - 1) * 2 ^ o) (BitVec.ofNat 1024 (v % 2 ^ (8 * n) * 2 ^ (8 * o))) false .clean

end Sys2Proof.Machine
end

