-- ==== Sys2Proof/Machine/FabOps.lean ====
section
/-! DEFINITION. Sending packets (chapter "The Peruldo Fabric"): the choice of a link (R310, R311), injection by the
device's own agents (R312, R317), forwarding and answers. -/

namespace Sys2Proof.Machine

/-- Bits [51:42] of a global address. -/
def devOf (a : Nat) : Nat := bitsN a 51 42
/-- The local part of a global address. -/
def localOf (a : Nat) : Nat := a % 2 ^ 42
/-- A global address of this device (R165). -/
def State.isOwn (s : State) (a : Nat) : Bool := devOf a == s.devId

def State.link (s : State) (l : Nat) : Link := SMap.get Link.reset s.fab.links l
def State.setLink (s : State) (l : Nat) (x : Link) : State :=
  { s with fab := { s.fab with links := SMap.put Link.reset s.fab.links l x } }
def State.setFab (s : State) (f : Fabric) : State := { s with fab := f }

/-! Route choice. -/

/-- h of R311. -/
def routeHash (a : Nat) : Nat := (bitsN a 14 7 ^^^ bitsN a 22 15 ^^^ bitsN a 30 23 ^^^ bitsN a 38 31) % 4

/-- Link, valid bit and dateline bit of position `i` of a route entry (R330). -/
def routePos (e i : Nat) : Nat × Bool × Bool := (bitsN e (6 * i + 3) (6 * i), bitN e (6 * i + 4), bitN e (6 * i + 5))

def State.route (s : State) (dev : Nat) : Nat := (SMap.get (0 : W32) s.fab.routes dev).toNat

/-- A position that R311 may take: valid, and its link neither RETIRED nor disabled. -/
def State.posUsable (s : State) (e i : Nat) : Bool :=
  let p := routePos e i
  p.2.1 && decide (p.1 < 12) && s.linkPresent p.1 && (s.link p.1).state != 3 && (s.reg .pl p.1 0x104).getLsbD 0

/-- The candidate of steps 1 and 2 of R311 for an address: (link, dateline); none when the device holds no route. -/
def State.pickRoute (s : State) (dev a : Nat) : Option (Nat × Bool) :=
  let e := s.route dev
  let h := routeHash a
  match (List.range 4).find? (fun d => s.posUsable e ((h + d) % 4)) with
  | none => none
  | some d => let p := routePos e ((h + d) % 4); some (p.1, p.2.2)

/-- The first hop of one of this device's own packets (R311): with adaptive routing, the candidate of an outstanding
packet to the same line entry, while it may be taken; else whichever valid candidate has the most free credits (a free value,
assumption 12). -/
def State.pickFirst (s : State) (dev a : Nat) (adapt : Bool) : Option (Nat × Bool) × State :=
  if !adapt then (s.pickRoute dev a, s)
  else
    let e := s.route dev
    let us := (List.range 4).filter (s.posUsable e)
    let same := (s.fab.awaits.filter (fun w => w.dev = dev && Config.lineHash w.addr % 4096 = Config.lineHash a % 4096)).map (·.link)
    match (us.map (routePos e)).find? (fun p => same.contains p.1) with
    | some p => (some (p.1, p.2.2), s)
    | none =>
      match us with
      | [] => (none, s)
      | i :: _ =>
        let r := s.fresh
        let p := routePos e (us.getD (r.1.toNat % us.length) i)
        (some (p.1, p.2.2), r.2)

/-- The link of a control packet for device `dev`: the first candidate of its entry that may be taken, and without one the first
link that is UP, but the one it came on. The hash of R311 does not apply to it, and the manual states no other choice (DESIGN
CHOICE, assumption 12). -/
def State.ctlLink (s : State) (dev : Nat) (but : Option Nat) : Option Nat :=
  let e := s.route dev
  match (List.range 4).find? (s.posUsable e) with
  | some i => some (routePos e i).1
  | none => (List.range 12).find? (fun l => s.linkPresent l && (s.link l).state == 2 && but != some l)

/-! Packets. -/

def Body.kind : Body → Nat
  | .write .. => 0
  | .read .. => 1
  | .signal .. => 2
  | .endMark .. => 3
  | .mc .. => 4
  | .data .. => 5
  | .ack .. => 6
  | .loss .. => 7
  | .fence .. => 8
  | .lsa .. => 9
  | .time .. => 10
  | .subtree .. => 11

/-- The payload that R321 may code. -/
def Body.payload : Body → Option Line
  | .write _ _ d _ _ _ => some d
  | .mc _ _ d _ _ _ => some d
  | .data d _ => some d
  | _ => none

/-- Request packets, which carry an age (R308, R309). -/
def Body.isRequest : Body → Bool
  | .write .. => true
  | .read .. => true
  | .signal .. => true
  | .endMark .. => true
  | .mc .. => true
  | _ => false

/-- The newest packets of a retry buffer that fit 512 KiB: the peer has acknowledged every older one (R306). -/
def retryKeep (xs : List Retry) : List Retry :=
  (xs.foldr (fun r (acc : Nat × List Retry) =>
    let n := acc.1 + Config.packetBytes r.pkt.body.kind
    if 524288 < n then (524289, acc.2) else (n, r :: acc.2)) (0, [])).2

/-- Put a packet on a link that is UP, counting its bytes (R321, R414); the retry buffer keeps it (R306). -/
def State.sendPkt (s : State) (p : OutPkt) : State :=
  let raw := Config.packetBytes p.body.kind
  let coded := match p.body.payload with
    | some d => if (s.link p.link).coded && decide (Config.codedBytes d < 128) then some (Config.codedBytes d) else none
    | none => none
  let wire := match coded with
    | some c => raw - 128 + c
    | none => raw
  let s := (s.cnt .pl p.link 0x140 raw).cnt .pl p.link 0x150 wire
  let s := if coded.isSome then s.addReg .pl p.link 0x12C 1 else s
  let x := s.link p.link
  let s := s.setLink p.link { x with txSeq := x.txSeq + 1, retry := retryKeep (x.retry ++ [⟨x.txSeq, s.ftime, wire, p⟩]) }
  s.setFab { s.fab with out := s.fab.out ++ [p] }

/-- A packet leaves on a link: at once when it is UP; a DOWN or TRAINING link's packets wait (R311); a RETIRED one takes none. -/
def State.emit (s : State) (p : OutPkt) : State :=
  match (s.link p.link).state with
  | 2 => s.sendPkt p
  | 3 => s
  | _ => s.setFab { s.fab with held := s.fab.held ++ [p] }

/-- How an injection ends. -/
inductive Inj where
  /-- sent; the answer will come under this token -/
  | sent (tok : Nat)
  /-- no route: the agent has its loss at once (R312) -/
  | noRoute
  /-- the flow is closed: dropped at egress with no answer (R317) -/
  | closed
  deriving DecidableEq, Repr

/-- Inject a request of one of the device's own agents for device `dev`. -/
def State.inject (s : State) (g : Agent) (kind : AwaitKind) (d i flow gen dev a : Nat) (det : Bool) (b : Body) :
    Inj × State :=
  let adapt := (s.reg .pl 0 0x180).getLsbD 16 && !(s.reg .gl 0 Off.glCtrl).getLsbD 1 && !det
  let r := s.pickFirst dev a adapt
  let s := r.2
  match r.1 with
  | none => (.noRoute, (s.addReg .pl 0 0x1B8 1).event .pl 0 5)
  | some (l, dl) =>
    if s.fab.closedFlows.contains (flow, gen) then (.closed, (s.addReg .pl l 0x118 1).event .pl l 3)
    else
      let tok := s.fab.nextTok
      let s := s.emit ⟨l, b2n dl, dev, s.devId, flow, gen, s.ftime, tok, b⟩
      (.sent tok, s.setFab { s.fab with
        nextTok := tok + 1, awaits := s.fab.awaits ++ [⟨tok, kind, g, d, i, a, dev, l, flow, gen, none, false⟩] })

/-- Send an answer (DATA, ACK, LOSS) of flow `flow`, generation `gen`, for token `tok` to device `dev` by the route for address 0 of
that device, on sub-channel 0 (R313); an answer with no route is lost (R312). -/
def State.answer (s : State) (dev flow gen tok : Nat) (b : Body) : State :=
  match s.pickRoute dev 0 with
  | none => (s.addReg .pl 0 0x1B8 1).event .pl 0 5
  | some (l, dl) => s.emit ⟨l, b2n dl, dev, s.devId, flow, gen, s.ftime, tok, b⟩

/-- Remember what an awaited line's tally is to get. -/
def State.awaitCount (s : State) (tok ref : Nat) (v : W32) : State :=
  s.setFab { s.fab with awaits := s.fab.awaits.map (fun w => if w.tok = tok then { w with cnt := some (ref, v) } else w) }

/-- Take the await of a token off the list. -/
def State.takeAwait (s : State) (tok : Nat) : Option Await × State :=
  match s.fab.awaits.find? (fun w => w.tok = tok) with
  | none => (none, s)
  | some w => (some w, s.setFab { s.fab with awaits := s.fab.awaits.filter (fun w => w.tok ≠ tok) })

end Sys2Proof.Machine
end

