-- ==== Sys2Proof/Machine/Mem.lean ====
section
/-! DEFINITION. The local address space (R466 to R470) as every agent sees it: where an address leads, reads and writes of
lines there (R228 to R230, R244, R287, R289, R362), the arrival of lines in feeds (R157, R159), additions to tallies
(R151 to R153, R235). -/

namespace Sys2Proof.Machine

/-- Where a local address leads. -/
inductive Place where
  | hbm
  | nb (f : Nat)
  | ub (u : Nat)
  | reg (page : Nat)
  | host
  /-- address error (R13, R467, R468) -/
  | bad
  deriving DecidableEq, Repr

/-- The page of an assigned index belongs to a present unit (R467). -/
def State.pagePresent (s : State) (i : Nat) : Bool :=
  match pageOf i with
  | none => false
  | some (.fl, n) => s.flPresent n
  | some (.pl, l) => s.linkPresent l
  | some _ => true

def State.placeOf (s : State) (a : Nat) : Place :=
  if a < s.hbmEnd then .hbm
  else if 0x10000000000 ≤ a ∧ a < 0x10080000000 then
    (if s.flPresent (a / 0x400000 % 512) then .nb (a / 0x400000 % 512) else .bad)
  else if 0x10100000000 ≤ a ∧ a < 0x10110000000 then .ub (a / 0x800000 % 32)
  else if 0x18000000000 ≤ a ∧ a < 0x18004000000 then
    (if s.pagePresent (a / 4096 % 16384) then .reg (a / 4096 % 16384) else .bad)
  else if 0x20000000000 ≤ a ∧ a < 0x40000000000 then (if s.bme && s.sec.tdi != 3 then .host else .bad)
  else .bad

/-- Host address of a host-window address (R468). -/
def State.hostAddr (s : State) (a : Nat) : Nat :=
  (a % 0x20000000000 + s.regN .gl 0 Off.glHwinLo + 2 ^ 32 * s.regN .gl 0 Off.glHwinHi) % 2 ^ 64

/-- Register accesses as the pages define them: a read with its side effects, and a write by a requester. -/
structure RegIO where
  rd : State → Nat → W32 × State
  wr : State → Req → Nat → W32 → State

def fullMask : Nat := 2 ^ 128 - 1

/-- The half of the device on which a requester lies; none for the front end, the UMC and the host, which the manual
places on neither (assumption 13). -/
def Req.half (q : Req) : Option Nat :=
  if q.src < 0x200 then some (q.src / 256)
  else if q.src < 0x220 then some ((q.src - 0x200) / 16)
  else if q.src < 0x228 then some ((q.src - 0x220) / 4)
  else if 0x230 ≤ q.src ∧ q.src < 0x23C then some ((q.src - 0x230) / 6)
  else none

/-- The half on which a line lies. -/
def State.placeHalf (s : State) (p : Place) (a : Nat) : Option Nat :=
  match p with
  | .hbm => some (physChan (s.phys a) / 128)
  | .nb f => some (f / 256)
  | .ub u => some (u / 16)
  | _ => none

/-- Count a line that crosses the die-to-die link (R414). -/
def State.d2d (s : State) (ha hb : Option Nat) : State :=
  match ha, hb with
  | some 0, some 1 => s.cnt .ct 0 0x110 128
  | some 1, some 0 => s.cnt .ct 0 0x118 128
  | _, _ => s

/-! Power states of umbels. -/

def State.setPw (s : State) (x : Power) : State := { s with pw := x }
def State.pwUmb (s : State) (u : Nat) : PwUmb := SMap.get PwUmb.reset s.pw.umbs u
def State.setPwUmb (s : State) (u : Nat) (x : PwUmb) : State := { s with pw := { s.pw with umbs := SMap.put PwUmb.reset s.pw.umbs u x } }

/-- An access to a clock-gated umbel ungates it and loses nothing (R337). -/
def State.ungate (s : State) (u : Nat) : State :=
  if (s.pwUmb u).state = 1 then s.setPwUmb u { s.pwUmb u with state := 2 } else s

/-- A register access to a page of an umbel or of one of its florets. -/
def State.ungatePage (s : State) (b : Blk) (n : Nat) : State :=
  match b with
  | .fl => s.ungate (n / 16)
  | .ub => s.ungate n
  | _ => s

/-! Near banks and umbel buffers. -/

/-- The page that owns an SRAM line. -/
def sramBlk : Place → Blk × Nat
  | .nb f => (.fl, f)
  | .ub u => (.ub, u)
  | _ => (.ct, 0)

def sramShut (s : State) : Place → Bool
  | .nb f => s.umShut (f / 16)
  | .ub u => s.umShut u
  | _ => false

/-- An SRAM access: its umbel runs (R337), and its 128 bytes count (R414). -/
def State.sramBytes (s : State) (p : Place) (wr : Bool) : State :=
  match p with
  | .nb f => (s.ungate (f / 16)).cnt .fl f (if wr then Off.nbWr else Off.nbRd) 128
  | .ub u => (s.ungate u).cnt .ub u (if wr then Off.bufWr else Off.bufRd) 128
  | _ => s

def State.sramLine (s : State) (a : Nat) : Line × Bool := (Memory.readLine s.sram a, SMap.get false s.sramBad a)

/-- What the ECC of an SRAM line does at an access (R362). An uncorrectable line is poisoned, its content lost (a free
value); the agent raises SRAM_UE. -/
def State.sramEcc (s : State) (p : Place) (q : Req) (a : Nat) (e : Ecc) : State :=
  let b := sramBlk p
  match e with
  | .corrected => s.logErr b.1 b.2 0x07 a q.src 0
  | .retried _ => s.logErr b.1 b.2 0x07 a q.src 0
  | .uncorrectable =>
    let s := { s with
      sram := Memory.writeLine s.sram a (Config.freeLine s.freeCtr), freeCtr := s.freeCtr + 1
      sramBad := SMap.put false s.sramBad a true }
    (s.logErr b.1 b.2 0x08 a q.src 0).report Code.sramUe q.src a 0
  | _ => s

/-- Store bytes of an SRAM line: a whole line replaces data and poison; a part of a poisoned line is discarded (R362). -/
def State.sramPut (s : State) (a mask : Nat) (l : Line) (poison : Bool) : State :=
  if mask = fullMask then
    { s with sram := Memory.writeLine s.sram a l, sramBad := SMap.put false s.sramBad a poison }
  else if SMap.get false s.sramBad a then s
  else
    { s with sram := Memory.writeMasked s.sram 128 a l.toNat mask, sramBad := SMap.put false s.sramBad a poison }

/-! Feeds. -/

/-- The feeds that near-bank line `l` belongs to, with the slot and the line of the slot: several where their regions overlap
(R177). -/
def Floret.feedLines (fl : Floret) (l : Nat) : List (Nat × Nat × Nat) :=
  (List.range 16).filterMap (fun e =>
    let fd := fl.feed e
    if fd.slots ≠ 0 ∧ fd.base ≤ l ∧ l < fd.base + fd.slots * fd.bl then some (e, (l - fd.base) / fd.bl, (l - fd.base) % fd.bl)
    else none)

/-- A line that arrives at this place of a feed is to be discarded (R157, R159). -/
def Floret.feedFull (fl : Floret) (p : Nat × Nat × Nat) : Bool :=
  (fl.feed p.1).state != 1 || bitN (SMap.get 0 (fl.feed p.1).present p.2.1) p.2.2

/-- Set the presence bit of a place of a feed. -/
def Floret.setPresent (fl : Floret) (p : Nat × Nat × Nat) : Floret :=
  let fd := fl.feed p.1
  fl.setFeed p.1 { fd with present := SMap.put 0 fd.present p.2.1 (setBitN (SMap.get 0 fd.present p.2.1) p.2.2 true) }

/-- A line is discarded at a feed (R157, R159). -/
def State.feedOverrun (s : State) (f a e : Nat) (src : Nat) : State :=
  let s := s.sticky .fl f 0x3A0 2 none
  (s.event .fl f 14).logErr .fl f 0x05 a src e

/-- The line of address `a` in floret `f`'s near bank arrives: its presence bit is set, or, at a set bit or an ended feed,
the line is to be discarded (R157, R159). Lines outside every feed just arrive; one in several feeds arrives at each, and is
discarded where any of them would discard it (DEDUCED, assumption 32). -/
def State.feedArrive (s : State) (f a src : Nat) : Bool × State :=
  let fl := s.fl f
  let ps := fl.feedLines ((a / 128) % 32768)
  match ps.find? fl.feedFull with
  | some p => (false, s.feedOverrun f a p.1 src)
  | none => if ps = [] then (true, s) else (true, s.setFl f (ps.foldl Floret.setPresent fl))

/-! Lines anywhere in the local space. -/

/-- How a write ends: counted; discarded but complete for its writer (R229); lost (R244); held until the destination has
room or serves again. -/
inductive WOut where
  | done
  | discarded
  | lost
  | held
  deriving DecidableEq, Repr

/-- How a read ends. -/
inductive ROut where
  | line (l : Line) (poison : Bool)
  | lost
  | held
  deriving DecidableEq, Repr

/-- Registers of a line, in increasing offset (R470). -/
def State.readRegLine (io : RegIO) (s : State) (off : Nat) : Line × State :=
  let r := (List.range 32).foldl (fun (acc : Nat × State) i =>
    let x := io.rd acc.2 (off + 4 * i); (acc.1 + x.1.toNat * 2 ^ (32 * i), x.2)) (0, s)
  (BitVec.ofNat 1024 r.1, r.2)

/-- A partly enabled register (R470); in a page that is not there, an address error (R13, R467). -/
def State.regPartial (s : State) (q : Req) (off be : Nat) : State :=
  match pageOf (off / 4096) with
  | some (b, n) =>
    if s.pagePresent (off / 4096) then s.logErr b n 0x02 (0x18000000000 + off) q.src be else s.addrErr q (0x18000000000 + off) true
  | none => s.addrErr q (0x18000000000 + off) true

def State.writeRegLine (io : RegIO) (s : State) (q : Req) (off mask : Nat) (l : Line) : State :=
  (List.range 32).foldl (fun s i =>
    let be := bitsN mask (4 * i + 3) (4 * i)
    if be = 15 then io.wr s q (off + 4 * i) (lineW32 l i)
    else if be = 0 then s
    else s.regPartial q (off + 4 * i) be) s

/-- A line of the sorrel request window (R215): its stack. -/
def srWindow (a : Nat) : Option Nat :=
  if 0x18000010000 ≤ a ∧ a < 0x18000018000 ∧ a % 4096 = 0xF80 then some (a / 4096 % 8) else none

/-- Read the line at local address `a` (line-aligned). A host-window line comes by a split transaction first (HOST_WINDOW_ACCESS,
HOST_READ_COMPLETION, R240): until it has come for this requester it is held, and one read uses it up, for no cache keeps it
(R230). -/
def State.readLocal (io : RegIO) (s : State) (q : Req) (a : Nat) (e : Ecc) : ROut × State :=
  let p := s.placeOf a
  match p with
  | .bad => (.line 0 false, s.addrErr q a false)
  | .hbm =>
    if s.hbmDown a then (.lost, s)
    else if s.hbmReady a then
      let s := s.d2d (s.placeHalf p a) q.half
      let r := s.hbmRead q a e
      (.line r.1.1 r.1.2, r.2)
    else (.held, s)
  | .reg pg => let r := s.readRegLine io (pg * 4096 + a % 4096); (.line r.1 false, r.2)
  | .host =>
    let e := (q.src, s.hostAddr a)
    if s.fe.fresh.contains e then
      (.line (Memory.readLine s.hostMem (s.hostAddr a)) false, { s with fe := { s.fe with fresh := s.fe.fresh.erase e } })
    else (.held, s)
  | _ =>
    if sramShut s p then (.lost, s)
    else
      let s := ((s.d2d (s.placeHalf p a) q.half).sramBytes p false).sramEcc p q a e
      let l := s.sramLine a
      (.line l.1 l.2, s)

/-- Enqueue a sorrel header (R215, R217): the sender's floret, when it is one. -/
def State.srEnqueue (s : State) (k : Nat) (h : Line) (src : Option Nat) : Option State :=
  let st := s.stk k
  if 64 ≤ st.srq.length then none else some (s.setStk k { st with srq := st.srq ++ [⟨h, src⟩] })

/-- A posted write to the host: it goes out, and a read that is still outstanding, which it cannot overtake, will not undo it
(R240). -/
def State.hostPut (s : State) (ha mask : Nat) (l : Line) (poison : Bool) : State :=
  { s with
    hostMem := Memory.writeMasked s.hostMem 128 ha l.toNat mask, hostOut := s.hostOut ++ [HostMsg.line ha mask l poison s.tdiRuns]
    hostReads := s.hostReads.map (fun r => if r.addr = ha then { r with wr := r.wr ||| mask } else r) }

/-- Write a line or part of a line at local address `a`. -/
def State.writeLocal (io : RegIO) (s : State) (q : Req) (a mask : Nat) (l : Line) (poison : Bool) (e : Ecc) : WOut × State :=
  let p := s.placeOf a
  match p with
  | .bad => (.discarded, s.addrErr q a true)
  | .hbm =>
    if s.hbmDown a then (.lost, s)
    else if s.hbmReady a then
      let s := s.d2d q.half (s.placeHalf p a)
      (.done, if mask = fullMask then s.hbmWrite a l poison else s.hbmPartial q a mask l poison e)
    else (.held, s)
  | .reg pg =>
    match srWindow a with
    | some k =>
      if mask = fullMask then
        match s.srEnqueue k l (if q.src < 0x200 then some q.src else none) with
        | some s => (.done, s)
        | none => (.held, s)
      else (.done, s)
    | none => (.done, s.writeRegLine io q (pg * 4096 + a % 4096) mask l)
  | .host => (.done, (s.hostPut (s.hostAddr a) mask l poison).cnt .ct 0 0x108 (popN 128 mask))
  | _ =>
    if sramShut s p then (.lost, s)
    else
      let s := s.d2d q.half (s.placeHalf p a)
      let arr := match p with
        | .nb f => s.feedArrive f a q.src
        | _ => (true, s)
      if arr.1 then
        let s := if mask = fullMask then arr.2 else arr.2.sramEcc p q a e
        (.done, (s.sramBytes p true).sramPut a mask l poison)
      else (.discarded, arr.2)

/-! Tallies. -/

/-- A tally of this device. -/
inductive TRef where
  | fl (n i : Nat)
  | um (u i : Nat)
  | remote (dev : Nat)
  deriving DecidableEq, Repr

/-- Resolve a tally reference (R152) issued by floret `f` or umbel `u`; agents with neither use UNIT. -/
def State.tref (s : State) (f u : Option Nat) (r : Nat) : TRef :=
  let rem := bitN r 19 && bitsN r 29 20 != s.devId
  if rem then .remote (bitsN r 29 20)
  else if bitN r 17 then .um (match bitN r 18, u with | true, some v => v | _, _ => bitsN r 12 8) (bitsN r 7 0)
  else .fl (match bitN r 18, f with | true, some v => v | _, _ => bitsN r 16 8) (bitsN r 7 0)

/-- The reference as another device must read it: SELF resolved to the issuer's number (R152). -/
def refForRemote (f u : Option Nat) (r : Nat) : Nat :=
  if bitN r 18 then
    let n := if bitN r 17 then u else f
    match n with
    | some v => if bitN r 17 then setBitsN (setBitN r 18 false) 12 8 v else setBitsN (setBitN r 18 false) 16 8 v
    | none => setBitN r 18 false
  else r

/-- Floret tallies that only hardware writes (R151). -/
def hwTally (i : Nat) : Bool := i == 48 || i == 49 || (decide (56 ≤ i) && decide (i < 64))

/-- How an addition to a tally ends. -/
inductive TOut where
  | done
  | lost
  | remote (dev : Nat)
  deriving DecidableEq, Repr

/-- Add to a tally (R151 to R153, R244); address errors of R152 and R151 complete with nothing added. -/
def State.tallyAdd (s : State) (q : Req) (f u : Option Nat) (r : Nat) (v : W32) : TOut × State :=
  match s.tref f u r with
  | .remote d => (.remote d, s)
  | .um n i => if s.umShut n then (.lost, s) else (.done, (s.ungate n).modUm n (fun x => x.setTally i (x.tally i + v)))
  | .fl n i =>
    let addr := 0x18000000000 + regOff .fl n (0x600 + 4 * i)
    if 63 < i ∨ !s.flPresent n then (.done, s.addrErr q addr true)
    else if s.umShut (n / 16) then (.lost, s)
    else if hwTally i then (.done, s.addrErr ⟨.fl, n, q.src⟩ addr true)
    else (.done, (s.ungate (n / 16)).modFl n (fun x => x.setTally i (x.tally i + v)))

/-- The value of a tally of this device. -/
def State.tallyVal (s : State) : TRef → W32
  | .fl n i => (s.fl n).tally i
  | .um n i => (s.um n).tally i
  | .remote _ => 0

end Sys2Proof.Machine
end

