-- ==== Sys2Proof/Machine/Isa.lean ====
section
/-! DEFINITION. The instruction word (R141 to R146, R155, R163, R164, R412): fields, opcodes and the legality
of an encoding (R140), as far as the word and the scalar registers decide it. -/

namespace Sys2Proof.Machine.Isa

def opcode (w : Nat) : Nat := bitsN w 63 58
def predReg (w : Nat) : Nat := bitsN w 57 55

/-- Bits an opcode's fields use, below the opcode and predicate; every other bit is reserved. -/
def used (op : Nat) : Nat :=
  let f (hi lo : Nat) : Nat := 2 ^ (hi + 1) - 2 ^ lo
  match op with
  | 0x00 => 0
  | 0x01 => 0
  | 0x02 => f 50 46 + f 15 0
  | 0x03 => f 50 46 + f 15 0
  | 0x04 => f 54 35 + f 19 0
  | 0x05 => f 50 46 + f 31 0
  | 0x06 => f 54 48 + f 45 36
  | 0x10 => f 54 41
  | 0x11 => f 50 41
  | 0x12 => f 54 41
  | 0x13 => f 54 41
  | 0x14 => f 54 53
  | 0x18 => f 54 48
  | 0x19 => f 54 51 + f 45 36
  | 0x1C => f 54 54 + f 50 41 + f 39 32
  | 0x20 => f 54 18
  | 0x30 => f 54 22 + f 19 14
  | 0x38 => f 54 53 + f 50 46 + f 31 0
  | 0x2D => f 54 0
  | _ => if 0x28 ≤ op ∧ op ≤ 0x2F then f 54 17 + f 14 0 else 0

/-- Opcodes of R141. -/
def listed (op : Nat) : Bool :=
  decide (op ≤ 0x06) || (decide (0x10 ≤ op) && decide (op ≤ 0x14)) || op == 0x18 || op == 0x19 || op == 0x1C || op == 0x20
  || (decide (0x28 ≤ op) && decide (op ≤ 0x30)) || op == 0x38

/-! VX fields (R144). -/
def vop (w : Nat) : Nat := bitsN w 54 49
def vd (w : Nat) : Nat := bitsN w 48 44
def va (w : Nat) : Nat := bitsN w 43 39
def vb (w : Nat) : Nat := bitsN w 38 34
def vc (w : Nat) : Nat := bitsN w 33 29
def ts (w : Nat) : Nat := bitsN w 28 27
def td (w : Nat) : Nat := bitsN w 26 25
def vcvt (w : Nat) : Bool := bitN w 24
def vsgn (w : Nat) : Bool := bitN w 23
def ss (w : Nat) : Nat := bitsN w 22 18
def uses (w : Nat) : Bool := bitN w 17
def qoff (w : Nat) : Nat := bitsN w 16 15
def vline (w : Nat) : Nat := bitsN w 14 0

/-! QX fields (R144). -/
def pmode (w : Nat) : Nat := bitsN w 54 53
def lexp (w : Nat) : Nat := bitsN w 52 49
def gexp (w : Nat) : Nat := bitsN w 48 45
def qt (w : Nat) : Nat := bitsN w 44 43
def sx (w : Nat) : Nat := bitsN w 41 37
def sr (w : Nat) : Nat := bitsN w 36 32
def scv (w : Nat) : Nat := bitsN w 31 27
def sseed (w : Nat) : Nat := bitsN w 26 22
def qrows (w : Nat) : Nat := bitsN w 19 14

/-- VX legality that the word alone decides (R145). -/
def vxLegal (w : Nat) : Bool :=
  let o := opcode w
  let v := vop w
  let s := ts w
  let d := td w
  let fl (t : Nat) : Bool := t == 1 || t == 2
  match o with
  | 0x28 =>
    if v ≤ 4 ∨ (8 ≤ v ∧ v ≤ 10) then s == 0 && d == 0
    else if 5 ≤ v ∧ v ≤ 7 then s != 3 && d != 3
    else if 16 ≤ v ∧ v ≤ 21 then s == 0 && bitsN w 48 47 == 0
    else false
  | 0x29 =>
    if v ≤ 6 then fl s && fl d
    else if 16 ≤ v ∧ v ≤ 19 then fl s && bitsN w 48 47 == 0
    else false
  | 0x2A => if v = 0 then s != 3 && d != 3 else if v = 1 then s != 3 && d == 1 else false
  | 0x2B => (decide (v ≤ 2) || (decide (32 ≤ v) && decide (v ≤ 34))) && s == d && s != 3
  | 0x2C => decide (v ≤ 5) && fl s && fl d
  | 0x2D =>
    (if v = 0 ∨ v = 8 then qoff w == 0
     else if v = 1 ∨ v = 9 then qoff w == 0 || qoff w == 2
     else v == 2 || v == 10) && s != 3 && d != 3
  | 0x2E => decide (v ≤ 3) && s != 3 && d != 3 && decide (ss w + (if v ≤ 1 then 3 else if v = 2 then 4 else 1) ≤ 32)
  | 0x2F => decide (v ≤ 2) && decide (ss w + (if v = 2 then 9 else 2) ≤ 32) && s != 3 && d != 3
  | _ => false

/-- VX legality that scalar operands decide: R of a norm (R129), D and R of ROPE (R130), DIM of SMERGE (R131). -/
def vxLegalRegs (fl : Floret) (w : Nat) : Bool :=
  if opcode w = 0x2E then
    let s (i : Nat) := (fl.s (ss w + i)).toNat
    match vop w with
    | 2 =>
      let d := s 1
      let r := s 3
      decide (2 ≤ d) && decide (d ≤ 256) && d % 2 == 0 && decide (r ≤ 32768) && r % d == 0 && decide (s 2 ≤ 1)
    | 3 =>
      let dim := s 0
      decide (1 ≤ dim) && decide (dim ≤ 256)
    | _ => let r := s 0; r % 64 == 0 && decide (r ≤ 32768)
  else true

/-- QX legality (R73, R79, R144). -/
def qxLegal (fl : Floret) (w : Nat) : Bool :=
  let r := (fl.s (sr w)).toNat
  let g := gexp w
  decide (1 ≤ qrows w) && decide (qrows w ≤ 32)
  && (g == 0 || (decide (6 ≤ g) && decide (g ≤ 14) && r % 2 ^ g == 0))
  && decide (r ≤ 32768) && decide (sseed w ≤ 30)
  && (!(pmode w == 1 || pmode w == 3) || (decide (1 ≤ lexp w) && decide (lexp w ≤ 14) && r % 2 ^ lexp w == 0))

/-- Whether the encoding is legal for this floret now (R140). -/
def legal (fl : Floret) (w : Nat) : Bool :=
  let o := opcode w
  listed o && (w % 2 ^ 55 == (w % 2 ^ 55) &&& used o)
  && (match o with
      | 0x04 => decide (bitsN w 54 51 ≤ 8)
      | 0x06 => decide (bitsN w 54 51 ≤ 5)
      | 0x10 => bitN w 54 || decide (bitsN w 53 46 ≤ 63)
      | 0x13 => bitN w 54 || decide (bitsN w 53 46 ≤ 63)
      | 0x12 =>
        bitN w 54 || (decide (bitsN w 53 46 < 56) && bitsN w 53 46 != 48 && bitsN w 53 46 != 49)
      | 0x1C => (fl.s (bitsN w 50 46)).toNat % 32 == 0
      | 0x20 => Tile.legalWord w && Tile.legalFeeds fl w
      | 0x30 => qxLegal fl w
      | _ => if 0x28 ≤ o ∧ o ≤ 0x2F then vxLegal w && vxLegalRegs fl w else true)

end Sys2Proof.Machine.Isa
end

