-- ==== Sys2Proof/Machine/Vector.lean ====
section
/-! DEFINITION. The vector unit (chapter "The Vector Unit", R116 to R134, R485): the effect of one VX
instruction on the register file and the near bank, with the flags it raises. -/

namespace Sys2Proof.Machine.Vec

open Fp Isa

/-- FL_VX_STAT bits (R135). -/
def xVI : W32 := 1
def xNAN : W32 := 2
def xEMPTY : W32 := 4
def xPOS : W32 := 8

/-- The effect of a VX instruction: the floret, the near banks, FL_FP_STAT and FL_VX_STAT bits raised, the number of lines read
and the lines written, and whether a poisoned line reached the unit (R362). -/
structure Res where
  fl : Floret
  mem : Memory
  bad : SMap Bool
  fp : W32
  vx : W32
  rd : Nat
  /-- near-bank lines written, in order -/
  wr : List Nat
  poison : Bool

/-- Local address of near-bank line `l` of floret `n` (R175). -/
def nbLine (n l : Nat) : Nat := 0x10000000000 + 0x400000 * n + l % 32768 * 128

/-- Local address of byte `b` counted from near-bank line `l`, wrapping in the bank. -/
def nbByte (n l b : Nat) : Nat := 0x10000000000 + 0x400000 * n + (l * 128 + b) % 0x400000

/-- Whether any of `k` lines from line `l` is poisoned. -/
def anyBad (bad : SMap Bool) (n l k : Nat) : Bool := (List.range k).any (fun i => SMap.get false bad (nbLine n (l + i)))

/-- Whole-line writes clear the poison of the lines (R362). -/
def clean (bad : SMap Bool) (n l k : Nat) : SMap Bool :=
  (List.range k).foldl (fun b i => SMap.put false b (nbLine n (l + i)) false) bad

/-- Element `k` of a row of 4-byte elements at line `l`. -/
def elem (mem : Memory) (n l k : Nat) : W32 := Memory.read32 mem (nbByte n l (4 * k))

def Res.of (fl : Floret) (mem : Memory) (bad : SMap Bool) : Res := ⟨fl, mem, bad, 0, 0, 0, [], false⟩

/-- Write a register lane by lane where the predicate allows (R118): `f` gives the value, the FP flags and the VX
flags of a lane. -/
def lanes (r : Res) (pr : W64) (d : Nat) (f : Nat → W32 × W32 × W32) : Res :=
  (List.range 64).foldl (fun r i =>
    if pr.getLsbD i then
      let x := f i
      { r with fl := r.fl.setV d i x.1, fp := r.fp ||| x.2.1, vx := r.vx ||| x.2.2 }
    else r) r

/-- Write a predicate register from per-lane results; masked lanes keep their bits (R118). -/
def predLanes (r : Res) (pr : W64) (d : Nat) (f : Nat → Bool × W32) : Res :=
  let old := r.fl.pred d
  let bits := (List.range 64).foldl (fun acc i =>
    acc + (if (if pr.getLsbD i then (f i).1 else old.getLsbD i) then 2 ^ i else 0)) 0
  let fl := (List.range 64).foldl (fun acc i => if pr.getLsbD i then acc ||| (f i).2 else acc) (0 : W32)
  { r with fl := r.fl.setPred d (BitVec.ofNat 64 bits), fp := r.fp ||| fl }

/-- Operand B: the register lane, or the scalar register with USES set. -/
def opB (fl : Floret) (w i : Nat) : W32 := if uses w then fl.s (ss w) else fl.vreg (vb w) i

/-- A source element of lane type TS (R117): an F19 source is converted with STRICT clear. -/
def srcT (fl : Floret) (w : Nat) (x : W32) : FR := if ts w = 2 then readF19 fl.strict (vcvt w) x else (x, 0)

/-- Significand bits of a destination of type TD (R122). -/
def dp (fl : Floret) (w : Nat) : Nat := if td w = 2 && !fl.strict then 11 else 24

/-- Round a binary32 value to an F19 destination with STRICT clear. -/
def toDst (fl : Floret) (w : Nat) (x : FR) : FR :=
  if td w = 2 && !fl.strict then let y := toF19 false x.1; (y.1, x.2 ||| y.2) else x

/-- Signed value of a lane. -/
def si (x : W32) : Int := x.toInt

/-- INT32 lane arithmetic (R121): ADD, SUB, MUL, MIN, MAX, AND, OR, XOR, SHL, SRA.F, SRA.R. -/
def intOp (v : Nat) (a b : W32) : W32 × W32 :=
  let sat (z : Int) : W32 × W32 := let c := satI32 z; (BitVec.ofInt 32 c.1, if c.2 then xVI else 0)
  let sh := bitsN b.toNat 5 0
  match v with
  | 0 => sat (si a + si b)
  | 1 => sat (si a - si b)
  | 2 => sat (si a * si b)
  | 3 => (if si a ≤ si b then a else b, 0)
  | 4 => (if si a ≤ si b then b else a, 0)
  | 5 => (a &&& b, 0)
  | 6 => (a ||| b, 0)
  | 7 => (a ^^^ b, 0)
  | 8 => sat (si a * 2 ^ sh)
  | 9 => (BitVec.ofInt 32 (si a / 2 ^ sh), 0)
  | _ =>
    if sh ≥ 32 then (0, 0)
    else
      let d : Int := 2 ^ sh
      let q := si a / d
      let r := si a % d
      (BitVec.ofInt 32 (if 2 * r > d ∨ (2 * r = d ∧ q % 2 ≠ 0) then q + 1 else q), 0)

def intCmp (v : Nat) (a b : W32) : Bool :=
  match v with
  | 16 => a == b
  | 17 => a != b
  | 18 => decide (si a < si b)
  | 19 => decide (si b ≤ si a)
  | 20 => decide (a.toNat < b.toNat)
  | _ => decide (b.toNat ≤ a.toNat)

/-- VX_INT (opcode 0x28). -/
def doInt (r : Res) (pr : W64) (w : Nat) : Res :=
  let fl := r.fl
  if vop w < 16 then
    lanes r pr (vd w) (fun i => let x := intOp (vop w) (fl.vreg (va w) i) (opB fl w i); (x.1, 0, x.2))
  else predLanes r pr (vd w) (fun i => (intCmp (vop w) (fl.vreg (va w) i) (opB fl w i), 0))

/-- VX_FLOAT (opcode 0x29). SELECT rounds nothing (R145): its F19 sources are converted as every F19 source is (R117), and
an F19 destination takes the value with bits [12:0] discarded (R122; DEDUCED, assumption 32). With STRICT clear no compare
sets a flag, not even that of a source's conversion (R122). -/
def doFloat (r : Res) (pr : W64) (w : Nat) : Res :=
  let fl := r.fl
  let st := fl.strict
  let a (i : Nat) := srcT fl w (fl.vreg (va w) i)
  let b (i : Nat) := srcT fl w (opB fl w i)
  let c (i : Nat) := srcT fl w (fl.vreg (vc w) i)
  let p := dp fl w
  let bin (f : W32 → W32 → FR) (i : Nat) : W32 × W32 × W32 :=
    let x := f (a i).1 (b i).1; (x.1, x.2 ||| (a i).2 ||| (b i).2, 0)
  let cmp (k : Cmp) (i : Nat) : Bool × W32 :=
    let x := cmpF st k (a i).1 (b i).1; (x.1, if st then x.2 ||| (a i).2 ||| (b i).2 else 0)
  match vop w with
  | 0 => lanes r pr (vd w) (bin (add st p))
  | 1 => lanes r pr (vd w) (bin (sub st p))
  | 2 => lanes r pr (vd w) (bin (mul st p))
  | 3 => lanes r pr (vd w) (fun i =>
      let x := fma st p (a i).1 (b i).1 (c i).1; (x.1, x.2 ||| (a i).2 ||| (b i).2 ||| (c i).2, 0))
  | 4 => lanes r pr (vd w) (bin (fun x y => toDst fl w (minF st x y)))
  | 5 => lanes r pr (vd w) (bin (fun x y => toDst fl w (maxF st x y)))
  | 6 => lanes r pr (vd w) (fun i =>
      let x := if (fl.pred (vc w)).getLsbD i then a i else b i
      let y : FR := if td w = 2 && !st then toF19 true x.1 else (x.1, 0)
      (y.1, x.2 ||| y.2, 0))
  | 16 => predLanes r pr (vd w) (cmp .eq)
  | 17 => predLanes r pr (vd w) (cmp .ne)
  | 18 => predLanes r pr (vd w) (cmp .lt)
  | _ => predLanes r pr (vd w) (cmp .le)

/-- Conversion between lane types (R55, R62, R63). With STRICT set an integer that goes to F19 takes the full binary32 result
of R61, so that 2,049 stays exact and raises nothing, where the example of R63 has it round to 2,048 with NX (the spec's two
rules differ and no file rules between them: DESIGN CHOICE, assumption 35). A conversion of binary32 to binary32 passes the
bits as they are, with no flag, also with STRICT clear (DESIGN CHOICE, assumption 35). -/
def convert (fl : Floret) (w : Nat) (x : W32) : FR :=
  match ts w, td w with
  | 0, 0 => (x, 0)
  | 0, _ => ofIntF fl.strict (dp fl w) (si x)
  | s, 0 =>
    let y := if s = 2 then readF19 fl.strict (vcvt w) x else (x, 0)
    let z := toInt fl.strict (-2147483648) 2147483647 y.1
    (BitVec.ofInt 32 z.1, z.2 ||| y.2)
  | 1, 1 => (x, 0)
  | 2, 1 => readF19 fl.strict (vcvt w) x
  | _, _ => readF19 fl.strict (vcvt w) x

/-- VX_CVT (opcode 0x2A). -/
def doCvt (r : Res) (pr : W64) (w : Nat) : Res :=
  let fl := r.fl
  if vop w = 0 then lanes r pr (vd w) (fun i => let x := convert fl w (fl.vreg (va w) i); (x.1, x.2, 0))
  else lanes r pr (vd w) (fun i => (ofSW16 fl.c6 ((fl.vreg (va w) i).toNat % 65536), 0, 0))

/-- The reduction tree (R124): `h` halves from 32 down. -/
def tree (f : W32 → W32 → W32 × W32 × W32) : Nat → List W32 → W32 × W32 → W32 × W32 × W32
  | 0, xs, a => (xs.headD 0, a.1, a.2)
  | k + 1, xs, a =>
    let h := 2 ^ k
    let ys := (List.range h).map (fun i => f (xs.getD i 0) (xs.getD (i + h) 0))
    tree f k (ys.map (·.1)) (ys.foldl (fun m y => (m.1 ||| y.2.1, m.2 ||| y.2.2)) a)

/-- Binary32 sum of 64 lanes in the tree (the rsum of R129). -/
def rsum (st : Bool) (xs : List W32) : FR :=
  let r := tree (fun a b => let x := add st 24 a b; (x.1, x.2, 0)) 6 xs (0, 0)
  (r.1, r.2.1)

/-- VX_REDUCE (opcode 0x2B). The result is always written (R485). -/
def doReduce (r : Res) (pr : W64) (w : Nat) : Res :=
  let fl := r.fl
  let st := fl.strict
  let k := vop w % 32
  let isI := ts w == 0
  let ident : W32 := if isI then (if k = 0 then 0 else if k = 1 then 0x80000000 else 0x7FFFFFFF)
    else (if k = 0 then 0 else if k = 1 then infBits true else infBits false)
  let src := (List.range 64).map (fun i => if pr.getLsbD i then srcT fl w (fl.vreg (va w) i) else (ident, 0))
  let f (a b : W32) : W32 × W32 × W32 :=
    if isI then let x := intOp (if k = 0 then 0 else if k = 1 then 4 else 3) a b; (x.1, 0, x.2)
    else let x := (if k = 0 then add st (dp fl w) a b else if k = 1 then maxF st a b else minF st a b); (x.1, x.2, 0)
  let out := tree f 6 (src.map (·.1)) (src.foldl (fun m s => m ||| s.2) 0, 0)
  let fl' := if vop w < 32 then fl.setV (vd w) 0 out.1 else fl.setS (ss w) out.1
  { r with fl := fl', fp := r.fp ||| out.2.1, vx := r.vx ||| out.2.2 }

/-- VX_SPECIAL (opcode 0x2C): EXP2, LOG2, RCP, RSQ, SQRT, DIV (R125). -/
def doSpecial (r : Res) (pr : W64) (w : Nat) : Res :=
  let fl := r.fl
  let st := fl.strict
  lanes r pr (vd w) (fun i =>
    let a := srcT fl w (fl.vreg (va w) i)
    let b := srcT fl w (opB fl w i)
    let x : FR := match vop w with
      | 0 => toDst fl w (special st .exp2 a.1)
      | 1 => toDst fl w (special st .log2 a.1)
      | 2 => toDst fl w (special st .rcp a.1)
      | 3 => toDst fl w (special st .rsq a.1)
      | 4 => sqrt st (dp fl w) a.1
      | _ => let d := div st (dp fl w) a.1 b.1; (d.1, d.2 ||| b.2)
    (x.1, x.2 ||| a.2, 0))

/-- The near-bank line of VLD and VST (R145). -/
def memLine (fl : Floret) (w : Nat) : Nat := (vline w + (if uses w then (fl.s (ss w)).toNat else 0)) % 32768

/-- VLD (R127): .W, .B, .N. -/
def doVld (n : Nat) (r : Res) (pr : W64) (w : Nat) : Res :=
  let fl := r.fl
  let l := memLine fl w
  let k := if vop w = 0 then 2 else 1
  let val (i : Nat) : W32 × W32 × W32 :=
    if vop w = 0 then (elem r.mem n l i, 0, 0)
    else
      let v : Int :=
        if vop w = 1 then Tile.intOf 8 (vsgn w) (Memory.read r.mem (nbByte n l (32 * qoff w + i))).toNat
        else
          let b := (Memory.read r.mem (nbByte n l (32 * qoff w + i / 2))).toNat
          Tile.intOf 4 (vsgn w) (if i % 2 = 0 then b % 16 else b / 16)
      if td w = 0 then (BitVec.ofInt 32 v, 0, 0) else ((ofIntF fl.strict 24 v).1, 0, 0)
  let r' := lanes r pr (vd w) val
  { r' with rd := r.rd + k, poison := r.poison || anyBad r.bad n l k }

/-- The integer a narrow store writes (R127): by R62 from a float, by saturation from INT32. -/
def narrow (fl : Floret) (w bits : Nat) (x : W32) : Int × W32 × W32 :=
  let lo := intLo bits (vsgn w)
  let hi := intHi bits (vsgn w)
  if ts w = 0 then let c := satRange lo hi (si x); (c.1, 0, if c.2 then xVI else 0)
  else
    let y := srcT fl w x
    let z := toInt fl.strict lo hi y.1
    (z.1, z.2 ||| y.2, 0)

/-- VST (R127). A masked lane leaves its element unchanged; a poisoned line stays poisoned and takes nothing unless
both it is written whole (R362). -/
def doVst (n : Nat) (r : Res) (pr : W64) (w : Nat) : Res :=
  let fl := r.fl
  let l := memLine fl w
  let k := if vop w = 8 then 2 else 1
  let full (i : Nat) : Bool := vop w = 8 && (List.range 32).all (fun j => pr.getLsbD (32 * i + j))
  let dead (byte : Nat) : Bool :=
    let i := byte / 128
    SMap.get false r.bad (nbLine n (l + i)) && !full i
  let put (r : Res) (i : Nat) : Res :=
    if !pr.getLsbD i then r
    else if vop w = 8 then
      if dead (4 * i) then r
      else { r with mem := Memory.writeN r.mem 4 (nbByte n l (4 * i)) (fl.vreg (va w) i).toNat }
    else
      let bits := if vop w = 9 then 8 else 4
      let z := narrow fl w bits (fl.vreg (va w) i)
      let r := { r with fp := r.fp ||| z.2.1, vx := r.vx ||| z.2.2 }
      let b := 32 * qoff w + (if vop w = 9 then i else i / 2)
      if dead b then r
      else
        let a := nbByte n l b
        let old := (Memory.read r.mem a).toNat
        let v := ofInt bits z.1
        let new := if vop w = 9 then v else if i % 2 = 0 then setBitsN old 3 0 v else setBitsN old 7 4 v
        { r with mem := Memory.write r.mem a (BitVec.ofNat 8 new) }
  let r' := (List.range 64).foldl put r
  let bad' := (List.range k).foldl (fun b i => if full i then SMap.put false b (nbLine n (l + i)) false else b) r.bad
  let touched (i : Nat) : Bool := if vop w = 8 then (List.range 32).any (fun j => pr.getLsbD (32 * i + j)) else pr != 0
  { r' with bad := bad', wr := r.wr ++ ((List.range k).filter touched).map (fun i => l + i) }

/-- Lines that a row of `len` 4-byte elements takes. -/
def rowLines (len : Nat) : Nat := cdiv len 32

/-- Write a row of 4-byte elements from line `l`; whole lines clear poison. -/
def writeRow (r : Res) (n l : Nat) (ys : List W32) : Res :=
  let mem := (List.range ys.length).foldl (fun m k => Memory.writeN m 4 (nbByte n l (4 * k)) (ys.getD k 0).toNat) r.mem
  { r with mem := mem, bad := clean r.bad n l (ys.length / 32), wr := r.wr ++ (List.range (rowLines ys.length)).map (fun i => l + i) }

/-- Accumulate flags through a computation on values. -/
abbrev Acc := W32

/-- NORM.RMS (R129). -/
def normRms (st : Bool) (p : Nat) (x g : Nat → W32) (len : Nat) (invr eps : W32) : List W32 × W32 :=
  let accs := (List.range 64).map (fun i => (List.range (len / 64)).foldl (fun (a : FR) b =>
    let z := fma st 24 (x (64 * b + i)) (x (64 * b + i)) a.1; (z.1, a.2 ||| z.2)) (0, 0))
  let s := rsum st (accs.map (·.1))
  let m := mul st 24 s.1 invr
  let e := add st 24 m.1 eps
  let q := special st .rsq e.1
  let ys := (List.range len).map (fun k =>
    let u := mul st 24 (x k) q.1
    let v := mul st p u.1 (g k)
    (v.1, u.2 ||| v.2))
  (ys.map (·.1), ys.foldl (fun a y => a ||| y.2) (accs.foldl (fun a y => a ||| y.2) (s.2 ||| m.2 ||| e.2 ||| q.2)))

/-- NORM.LN (R129). -/
def normLn (st : Bool) (p : Nat) (x g b : Nat → W32) (len : Nat) (invr eps : W32) : List W32 × W32 :=
  let acc1 := (List.range 64).map (fun i => (List.range (len / 64)).foldl (fun (a : FR) j =>
    let z := add st 24 a.1 (x (64 * j + i)); (z.1, a.2 ||| z.2)) (0, 0))
  let s1 := rsum st (acc1.map (·.1))
  let mu := mul st 24 s1.1 invr
  let acc2 := (List.range 64).map (fun i => (List.range (len / 64)).foldl (fun (a : FR) j =>
    let c := sub st 24 (x (64 * j + i)) mu.1
    let z := fma st 24 c.1 c.1 a.1
    (z.1, a.2 ||| c.2 ||| z.2)) (0, 0))
  let s2 := rsum st (acc2.map (·.1))
  let m := mul st 24 s2.1 invr
  let e := add st 24 m.1 eps
  let q := special st .rsq e.1
  let ys := (List.range len).map (fun k =>
    let c := sub st 24 (x k) mu.1
    let u := mul st 24 c.1 q.1
    let v := fma st p u.1 (g k) (b k)
    (v.1, c.2 ||| u.2 ||| v.2))
  (ys.map (·.1), ys.foldl (fun a y => a ||| y.2) (acc2.foldl (fun a y => a ||| y.2) (acc1.foldl (fun a y => a ||| y.2)
    (s1.2 ||| mu.2 ||| s2.2 ||| m.2 ||| e.2 ||| q.2))))

/-- A row operation's source element with the flags of its conversion. -/
def rowSrc (r : Res) (n : Nat) (w l k : Nat) : FR := srcT r.fl w (elem r.mem n l k)

/-- NORM_RMS and NORM_LN. -/
def doNorm (n : Nat) (r : Res) (pr : W64) (w : Nat) : Res :=
  if !pr.getLsbD 0 then r
  else
    let fl := r.fl
    let len := (fl.s (ss w)).toNat
    let lx := (fl.s (va w)).toNat
    let lw := (fl.s (vb w)).toNat
    let lb := (fl.s (vc w)).toNat
    let ld := (fl.s (vd w)).toNat
    let k := rowLines len
    let ln := vop w == 1
    let cf := (List.range len).foldl (fun a i => a ||| (rowSrc r n w lx i).2 ||| (rowSrc r n w lw i).2 |||
      (if ln then (rowSrc r n w lb i).2 else 0)) 0
    let xs := (List.range len).map (fun i => (rowSrc r n w lx i).1)
    let out := if ln then
        normLn fl.strict (dp fl w) (fun i => xs.getD i 0) (fun i => (rowSrc r n w lw i).1) (fun i => (rowSrc r n w lb i).1) len
          (fl.s (ss w + 1)) (fl.s (ss w + 2))
      else normRms fl.strict (dp fl w) (fun i => xs.getD i 0) (fun i => (rowSrc r n w lw i).1) len (fl.s (ss w + 1)) (fl.s (ss w + 2))
    let r' := writeRow r n ld out.1
    { r' with fp := r.fp ||| out.2 ||| cf, rd := r.rd + (if ln then 3 else 2) * k,
              poison := r.poison || anyBad r.bad n lx k || anyBad r.bad n lw k || (ln && anyBad r.bad n lb k) }

/-- ROPE (R130): every pair of every head. -/
def doRope (n : Nat) (r : Res) (pr : W64) (w : Nat) : Res :=
  if !pr.getLsbD 0 then r
  else
    let fl := r.fl
    let st := fl.strict
    let pos := (fl.s (ss w)).toNat
    let d := (fl.s (ss w + 1)).toNat
    let split := (fl.s (ss w + 2)).toNat == 1
    let len := (fl.s (ss w + 3)).toNat
    let lx := (fl.s (va w)).toNat
    let lo := (fl.s (vb w)).toNat
    let ld := (fl.s (vd w)).toNat
    let cs (i : Nat) := ropeCS st ((pos % 2 ^ 23) * (elem r.mem n lo i).toNat % 2 ^ 32)
    let tab := (List.range (d / 2)).map cs
    let out := (List.range len).map (fun e =>
      let q := e % d
      let b := e - q
      let i := if split then q % (d / 2) else q / 2
      let first := if split then decide (q < d / 2) else q % 2 == 0
      let ia := if split then b + i else b + 2 * i
      let ib := if split then b + i + d / 2 else b + 2 * i + 1
      let xa := rowSrc r n w lx ia
      let xb := rowSrc r n w lx ib
      let c := (tab.getD i (0, 0)).1
      let s := (tab.getD i (0, 0)).2
      if first then
        let t := mul st 24 xb.1 s
        let y := fma st (dp fl w) xa.1 c (neg t.1)
        (y.1, xa.2 ||| xb.2 ||| t.2 ||| y.2)
      else
        let u := mul st 24 xb.1 c
        let y := fma st (dp fl w) xa.1 s u.1
        (y.1, xa.2 ||| xb.2 ||| u.2 ||| y.2))
    let r' := writeRow r n ld (out.map (·.1))
    { r' with fp := out.foldl (fun a y => a ||| y.2) r.fp, vx := r.vx ||| (if pos ≥ 2 ^ 23 then xPOS else 0),
              rd := r.rd + rowLines len + rowLines (d / 2),
              poison := r.poison || anyBad r.bad n lx (rowLines len) || anyBad r.bad n lo (rowLines (d / 2)) }

/-- SMERGE (R131). -/
def doSmerge (r : Res) (pr : W64) (w : Nat) : Res :=
  if !pr.getLsbD 0 then r
  else
    let fl := r.fl
    let st := fl.strict
    let g (reg lane : Nat) := srcT fl w (fl.vreg reg lane)
    let dim := (fl.s (ss w)).toNat
    let m1 := g (va w) 0
    let l1 := g (va w + 1) 0
    let m2 := g (vb w) 0
    let l2 := g (vb w + 1) 0
    let m := maxF st m1.1 m2.1
    let a (x : W32) : FR :=
      if x = infBits true then (0, 0)
      else let d := sub st 24 x m.1; let e := special st .exp2 d.1; (e.1, d.2 ||| e.2)
    let a1 := a m1.1
    let a2 := a m2.1
    let t := mul st 24 l1.1 a1.1
    let l := fma st (dp fl w) l2.1 a2.1 t.1
    let md := toDst fl w m
    let f0 := m1.2 ||| l1.2 ||| m2.2 ||| l2.2 ||| md.2 ||| a1.2 ||| a2.2 ||| t.2 ||| l.2
    let fl1 := (fl.setV (va w) 0 md.1).setV (va w + 1) 0 l.1
    let out := (List.range dim).foldl (fun (acc : Floret × W32) d =>
      let n1 := g (vc w + d / 64) (d % 64)
      let n2 := g (vd w + d / 64) (d % 64)
      let u := mul st 24 n1.1 a1.1
      let y := fma st (dp fl w) n2.1 a2.1 u.1
      (acc.1.setV (vc w + d / 64) (d % 64) y.1, acc.2 ||| n1.2 ||| n2.2 ||| u.2 ||| y.2)) (fl1, f0)
    { r with fl := out.1, fp := r.fp ||| out.2 }

/-! Sampling (R132 to R134). -/

/-- A candidate: logit bits and token ID. -/
abbrev Cand := W32 × W32

/-- The rank order of R132: the larger logit first, then the lower token ID; a subnormal counts as zero with STRICT
clear (R56). -/
def ranks (st : Bool) (a b : Cand) : Bool :=
  let x := valKey st a.1
  let y := valKey st b.1
  decide (y < x) || (x == y && decide (a.2.toNat ≤ b.2.toNat))

/-- Insert in rank order. -/
def insertCand (st : Bool) (c : Cand) : List Cand → List Cand
  | [] => [c]
  | d :: ds => if ranks st c d then c :: d :: ds else d :: insertCand st c ds

/-- Admission (R132): a NaN and −infinity are not admitted, +infinity is taken as the largest finite value. -/
def candIn (c : Cand) : Option Cand :=
  if isNaN c.1 || c.1 == infBits true then none
  else if c.1 == infBits false then some (0x7F7FFFFF, c.2) else some c

/-- The merged list of K entries: rank order, then padding. -/
def topk (st : Bool) (k : Nat) (cs : List Cand) : List Cand :=
  let sorted := (cs.filterMap candIn).foldl (fun acc c => insertCand st c acc) []
  let top := sorted.take k
  top ++ List.replicate (k - top.length) (infBits true, 0xFFFFFFFF)

def readList (mem : Memory) (n l k : Nat) : List Cand :=
  (List.range k).map (fun i => (elem mem n l (2 * i), elem mem n l (2 * i + 1)))

/-- Write a candidate list; each entry is 8 bytes. -/
def writeList (r : Res) (n l : Nat) (cs : List Cand) : Res :=
  let mem := (List.range cs.length).foldl (fun m i =>
    let c := cs.getD i (0, 0)
    Memory.writeN (Memory.writeN m 4 (nbByte n l (8 * i)) c.1.toNat) 4 (nbByte n l (8 * i + 4)) c.2.toNat) r.mem
  { r with mem := mem, bad := clean r.bad n l (cs.length / 16), wr := r.wr ++ (List.range (cdiv cs.length 16)).map (fun i => l + i) }

/-- TOPK.R and TOPK.L. A register of F19 logits is converted as every F19 source is (R117); the comparison raises no
flag with STRICT clear, as no compare does (R122). A NaN of either list is refused and sets SAMP_NAN (assumption 32). -/
def doTopk (n : Nat) (r : Res) (pr : W64) (w : Nat) : Res :=
  let fl := r.fl
  let isL := vop w == 1
  if isL && !pr.getLsbD 0 then r
  else
    let k := (fl.s (ss w)).toNat
    let base := fl.s (ss w + 1)
    let ld := (fl.s (va w)).toNat
    let lsrc := (fl.s (vb w)).toNat
    let old := readList r.mem n ld k
    let on := (List.range 64).filter (fun i => pr.getLsbD i)
    let src : List Cand := if isL then readList r.mem n lsrc k
      else on.map (fun i => ((srcT fl w (fl.vreg (vb w) i)).1, base + BitVec.ofNat 32 i))
    let fp := if isL then 0 else on.foldl (fun acc i => acc ||| (srcT fl w (fl.vreg (vb w) i)).2) 0
    let r' := writeList r n ld (topk fl.strict k (old ++ src))
    let nl := cdiv k 16
    { r' with fp := r.fp ||| fp, vx := r.vx ||| (if (old ++ src).any (fun c => isNaN c.1) then xNAN else 0),
              rd := r.rd + nl + (if isL then nl else 0),
              poison := r.poison || anyBad r.bad n ld nl || (isL && anyBad r.bad n lsrc nl) }

/-- Running sums of R133 with their flags. -/
def cumW (st : Bool) (c z0 : W32) : List Cand → Option W32 → List W32 × W32
  | [], _ => ([], 0)
  | x :: xs, prev =>
    let d := sub st 24 x.1 z0
    let m := mul st 24 d.1 c
    let e := special st .exp2 m.1
    let s : FR := match prev with
      | none => (e.1, 0)
      | some p => add st 24 p e.1
    let rest := cumW st c z0 xs (some s.1)
    (s.1 :: rest.1, d.2 ||| m.2 ||| e.2 ||| s.2 ||| rest.2)

/-- First index of a list whose element satisfies `f`. -/
def firstIx {α : Type} (f : α → Bool) : List α → Nat → Option Nat
  | [], _ => none
  | x :: xs, i => if f x then some i else firstIx f xs (i + 1)

/-- SAMPLE's draw from a list (R133): the token, FP flags and the VX flags. -/
def sample (st : Bool) (cs : List Cand) (c p u : W32) (greedy : Bool) : W32 × W32 × W32 :=
  match cs with
  | [] => (0xFFFFFFFF, 0, xEMPTY)
  | x :: _ =>
    if greedy then (x.2, 0, 0)
    else
      let s := cumW st c x.1 cs none
      let last := s.1.getLastD 0
      let thr := mul st 24 p last
      let cut := (firstIx (fun y => (cmpF st .le thr.1 y).1) s.1 0).getD (cs.length - 1)
      let t := mul st 24 u (s.1.getD cut 0)
      let ix := (firstIx (fun y => (cmpF st .lt t.1 y).1) (s.1.take (cut + 1)) 0).getD cut
      ((cs.getD ix (0, 0)).2, s.2 ||| thr.2 ||| t.2, 0)

/-- The uniform value of R134. -/
def uniform (seedLo seedHi j sid step : W32) : W32 :=
  let o := (philox seedLo.toNat seedHi.toNat j.toNat sid.toNat step.toNat 2).1
  let m := o / 256
  if m = 0 then 0 else (round true 24 false m (-24)).1

/-- SAMPLE. -/
def doSample (n : Nat) (r : Res) (pr : W64) (w : Nat) : Res :=
  if !pr.getLsbD 0 then r
  else
    let fl := r.fl
    let x (i : Nat) := fl.s (ss w + i)
    let l := (fl.s (va w)).toNat
    let cs := readList r.mem n l (x 0).toNat
    let u := uniform (x 7) (x 8) (x 4) (x 5) (x 6)
    let out := sample fl.strict cs (x 1) (x 2) u ((x 3).getLsbD 0)
    let nl := cdiv (x 0).toNat 16
    { r with fl := (fl.setS (vc w) out.1).setV (vd w) 0 out.1, fp := r.fp ||| out.2.1, vx := r.vx ||| out.2.2,
             rd := r.rd + nl, poison := r.poison || anyBad r.bad n l nl }

/-- Whether a VX instruction without a per-lane result (a row operation, SMERGE, TOPK.L, SAMPLE) is passed over because
predicate bit 0 is 0 (R142, R485). -/
def passedOver (fl : Floret) (w : Nat) : Bool :=
  (opcode w == 0x2E || (opcode w == 0x2F && vop w != 0)) && !(fl.pred (predReg w)).getLsbD 0

/-- Cycles a VX instruction occupies the unit (R120, R129, R130, R132, R133); one that is passed over takes the issue
cycle alone. ROPE's row length ÷ 64 is rounded up where R is no multiple of 64 (DESIGN CHOICE, assumption 35). -/
def occupancy (fl : Floret) (w : Nat) : Nat :=
  let s (i : Nat) := (fl.s (ss w + i)).toNat
  if passedOver fl w then 1
  else match opcode w, vop w with
  | 0x2C, _ => if fl.strict then 16 else 4
  | 0x2E, 0 => 2 * s 0 / 64 + 40
  | 0x2E, 1 => 3 * s 0 / 64 + 60
  | 0x2E, 2 => cdiv (s 3) 64 + 30
  | 0x2E, _ => 4 * cdiv (s 0) 64
  | 0x2F, 0 => 2
  | 0x2F, 1 => cdiv (s 0) 64 * 2
  | 0x2F, _ => if fl.strict then cdiv (s 0) 4 * 4 + 40 else cdiv (s 0) 16 * 4 + 24
  | _, _ => 1

/-- The effect of a legal VX instruction on floret `n`. -/
def exec (n : Nat) (r : Res) (w : Nat) : Res :=
  let pr := r.fl.pred (predReg w)
  match opcode w with
  | 0x28 => doInt r pr w
  | 0x29 => doFloat r pr w
  | 0x2A => doCvt r pr w
  | 0x2B => doReduce r pr w
  | 0x2C => doSpecial r pr w
  | 0x2D => if vop w < 8 then doVld n r pr w else doVst n r pr w
  | 0x2E => if vop w < 2 then doNorm n r pr w else if vop w = 2 then doRope n r pr w else doSmerge r pr w
  | _ => if vop w < 2 then doTopk n r pr w else doSample n r pr w

end Sys2Proof.Machine.Vec
end

