-- ==== Sys2Proof/Machine/Seq.lean ====
section
/-! DEFINITION. The sequencer (chapter "Stage Programs and Access Engines", R137 to R143, R151 to R155, R162 to R164, R172,
R412): fetching from the instruction store, the illegal path, and the scalar, tally, feed and descriptor instructions.
Each command names the floret; the word is the one at PC. A command whose instruction is not the one at PC, or which
issue holds, leaves the state as it is (assumption 2). -/

namespace Sys2Proof.Machine

/-- The fault report of a floret (R360, R361). -/
def State.flFault (s : State) (f code addr : Nat) : State := s.report code f addr 0

/-- A signal, credit or END of floret `f` was lost (R244): WR_LOSS and the fault. -/
def State.flLoss (s : State) (f addr : Nat) : State :=
  (s.sticky .fl f Off.ordStat 0 (some 18)).flFault f Code.lineLoss addr

/-- A tally addition by floret `f`'s sequencer or by a credit: remote ones leave as SIGNAL packets (R152, R235, R308). -/
def State.flSignal (s : State) (f : Nat) (fid : FloretId) (k : AwaitKind) (ref : Nat) (v : W32) : State :=
  let r := s.tallyAdd ⟨.fl, f, f⟩ (some f) (some (f / 16)) ref v
  match r.1 with
  | .done => r.2
  | .lost => r.2.flLoss f 0
  | .remote dev =>
    let s := r.2
    let fl := s.fl f
    let i := s.inject (.seq fid) k 0 0 (if fl.lslot = 0 then 66 else fl.lslot - 1) fl.lgen dev 0 fl.det
      (.signal (BitVec.ofNat 32 (refForRemote (some f) (some (f / 16)) ref)) v)
    match i.1 with
    | .noRoute => i.2.flLoss f 0
    | _ => i.2

/-! Issue. -/

/-- What the sequencer finds at PC. -/
inductive Issue where
  | off
  | illegal
  | skip
  | go (w : Nat)
  deriving DecidableEq, Repr

def Floret.word (fl : Floret) : Nat := (SMap.get (0 : W64) fl.istore fl.pc).toNat

/-- The floret runs and its units are out of reset. -/
def State.seqOn (s : State) (f : Nat) : Bool := s.flPresent f && !s.umShut (f / 16) && !s.pw.trip && (s.fl f).run

/-- Check the word at PC for a command of opcode `op` (R140, R142). A word of an unlisted opcode, and a PC outside the
store, meet every command. -/
def State.look (s : State) (f op : Nat) : Issue :=
  let fl := s.fl f
  let w := fl.word
  if !s.seqOn f then .off
  else if 8191 < fl.pc ∨ !Isa.listed (Isa.opcode w) then .illegal
  else if Isa.opcode w ≠ op then .off
  else if !Isa.legal fl w then .illegal
  else if (decide (0x28 ≤ op) && decide (op ≤ 0x2F)) || (fl.pred (Isa.predReg w)).getLsbD 0 then .go w
  else .skip

/-- The illegal path (R140). A PC outside the store has no instruction to copy (a free value, assumption 6). -/
def State.illegal (s : State) (f : Nat) : State :=
  let fl := s.fl f
  let r := if 8191 < fl.pc then (let x := s.fresh; (x.1.toNat, x.2)) else (fl.word, s)
  let w := r.1
  let s := r.2.setFl f { fl with run := false, halted := true, waiting := false, qfull := false }
  let s := s.setReg .fl f Off.errInsnLo (BitVec.ofNat 32 w)
  let s := s.setReg .fl f Off.errInsnHi (BitVec.ofNat 32 (w / 2 ^ 32))
  let s := (s.sticky .fl f Off.sqStat 0 none).event .fl f 11
  (s.logErr .fl f 0x03 fl.pc f (w % 2 ^ 32)).flFault f Code.sqIllegal fl.pc

/-- Count a progress event (R172). -/
def State.progress (s : State) (f : Nat) : State := s.addReg .fl f Off.progress 1

/-- Retire the instruction at PC: PC goes to `pc`, the issue count rises (R173), with a progress event if `p`. -/
def State.retireTo (s : State) (f pc : Nat) (p : Bool) : State :=
  let s := s.modFl f (fun fl => { fl with pc := pc, waiting := false, qfull := false })
  let s := s.addReg .fl f Off.issueCnt 1
  if p then s.progress f else s

def State.retire (s : State) (f : Nat) (p : Bool) : State := s.retireTo f ((s.fl f).pc + 1) p

/-- Instructions whose retirement is a progress event (R172), passed over by their predicate or not: MMA, VX, QX, DQ, TSIG,
TSET, MARK. -/
def progresses (op : Nat) : Bool :=
  op == 0x20 || (decide (0x28 ≤ op) && decide (op ≤ 0x30)) || op == 0x1C || op == 0x11 || op == 0x12 || op == 0x38

/-- Run the instruction of opcode `op` at PC, if it is there. One that its predicate passes over retires with no effect
(R142), and counts as progress where its retirement does (R172). -/
def State.issue (s : State) (f op : Nat) (k : Nat → State) : State :=
  match s.look f op with
  | .off => s
  | .illegal => s.illegal f
  | .skip => s.retire f (progresses op)
  | .go w => k w

abbrev Ans := Host.Outcome State Fault Refusal

/-! Loop and branch. -/

def execNop (f : FloretId) (s : State) : Ans := .next (s.issue f.val 0x00 (fun _ => s.retire f.val false))

/-- HALT (R139, R141): issue stops; the share is complete when the rest of R139 holds. -/
def execHalt (f : FloretId) (s : State) : Ans :=
  .next (s.issue f.val 0x01 (fun _ =>
    (s.retire f.val false).modFl f.val (fun fl => { fl with run := false, halted := true, ended := true })))

/-- Branch target (R143); a target outside the store is met as an illegal PC. -/
def branchTo (pc off : Nat) : Nat := ofInt 32 ((pc : Int) + sext 16 off)

def execBr (f : FloretId) (s : State) : Ans :=
  .next (s.issue f.val 0x02 (fun w => s.retireTo f.val (branchTo (s.fl f.val).pc (bitsN w 15 0)) false))

def execLoopInsn (f : FloretId) (s : State) : Ans :=
  .next (s.issue f.val 0x03 (fun w =>
    let sc := bitsN w 50 46
    let v := (s.fl f.val).s sc - 1
    let s := s.modFl f.val (fun fl => fl.setS sc v)
    if v = 0 then s.retire f.val false
    else s.retireTo f.val (branchTo (s.fl f.val).pc (bitsN w 15 0)) false))

/-- SALU operations (R143). -/
def salu (op : Nat) (a b : W32) : W32 :=
  let n := bitsN b.toNat 4 0
  match op with
  | 0 => a + b
  | 1 => a - b
  | 2 => a * b
  | 3 => a &&& b
  | 4 => a ||| b
  | 5 => a ^^^ b
  | 6 => a <<< n
  | 7 => a >>> n
  | _ => a.sshiftRight n

def execSalu (f : FloretId) (s : State) : Ans :=
  .next (s.issue f.val 0x04 (fun w =>
    let fl := s.fl f.val
    let b := if bitN w 35 then BitVec.ofInt 32 (sext 20 (bitsN w 19 0)) else fl.s (bitsN w 40 36)
    let v := salu (bitsN w 54 51) (fl.s (bitsN w 45 41)) b
    (s.setFl f.val (fl.setS (bitsN w 50 46) v)).retire f.val false))

def execSli (f : FloretId) (s : State) : Ans :=
  .next (s.issue f.val 0x05 (fun w =>
    (s.modFl f.val (fun fl => fl.setS (bitsN w 50 46) (BitVec.ofNat 32 w))).retire f.val false))

/-- SCMP conditions (R143). -/
def scmp (c : Nat) (a b : W32) : Bool :=
  match c with
  | 0 => a == b
  | 1 => a != b
  | 2 => decide (a.toInt < b.toInt)
  | 3 => decide (b.toInt ≤ a.toInt)
  | 4 => decide (a.toNat < b.toNat)
  | _ => decide (b.toNat ≤ a.toNat)

/-- All 64 bits of a predicate set to one value. -/
def allBits (b : Bool) : W64 := if b then BitVec.allOnes 64 else 0

def execScmp (f : FloretId) (s : State) : Ans :=
  .next (s.issue f.val 0x06 (fun w =>
    let fl := s.fl f.val
    let r := scmp (bitsN w 54 51) (fl.s (bitsN w 45 41)) (fl.s (bitsN w 40 36))
    (s.setFl f.val (fl.setPred (bitsN w 50 48) (allBits r))).retire f.val false))

/-! Tallies. -/

/-- The tally that TWAIT, TSET and TREAD name (R155). -/
def localTally (f w : Nat) : TRef := if bitN w 54 then .um (f / 16) (bitsN w 53 46) else .fl f (bitsN w 53 46)

def State.waitHolds (s : State) (f w : Nat) : Bool :=
  waitOk (s.tallyVal (localTally f w)) ((s.fl f).s (bitsN w 45 41))

/-- TWAIT: retires at once when satisfied, else holds issue with WAITING set. -/
def execTwait (f : FloretId) (s : State) : Ans :=
  .next (s.issue f.val 0x10 (fun w =>
    if s.waitHolds f.val w then s.retire f.val true
    else s.modFl f.val (fun fl => { fl with waiting := true })))

def execTwaitSatisfied (f : FloretId) (s : State) : Ans :=
  .next (match s.look f.val 0x10 with
    | .go w => if (s.fl f.val).waiting && s.waitHolds f.val w then s.retire f.val true else s
    | _ => s)

def execTsig (f : FloretId) (s : State) : Ans :=
  .next (s.issue f.val 0x11 (fun w =>
    let fl := s.fl f.val
    ((s.flSignal f.val f .tsig (fl.s (bitsN w 50 46)).toNat (fl.s (bitsN w 45 41))).retire f.val true)))

def execTset (f : FloretId) (s : State) : Ans :=
  .next (s.issue f.val 0x12 (fun w =>
    let v := (s.fl f.val).s (bitsN w 45 41)
    let s := match localTally f.val w with
      | .um u i => s.modUm u (fun x => x.setTally i v)
      | .fl n i => s.modFl n (fun x => x.setTally i v)
      | .remote _ => s
    s.retire f.val true))

def execTread (f : FloretId) (s : State) : Ans :=
  .next (s.issue f.val 0x13 (fun w =>
    let v := s.tallyVal (localTally f.val w)
    (s.modFl f.val (fun fl => fl.setS (bitsN w 45 41) v)).retire f.val false))

/-- DFENCE's condition (R155): tallies 48 and 49 have counted every descriptor enqueued before. -/
def Floret.fenceHolds (fl : Floret) (w : Nat) : Bool :=
  (!bitN w 54 || waitOk (fl.tally 48) (BitVec.ofNat 32 fl.le.enq))
  && (!bitN w 53 || waitOk (fl.tally 49) (BitVec.ofNat 32 fl.se.enq))

def execDfence (f : FloretId) (s : State) : Ans :=
  .next (s.issue f.val 0x14 (fun w =>
    if (s.fl f.val).fenceHolds w then s.retire f.val true
    else s.modFl f.val (fun fl => { fl with waiting := true })))

def execDfenceSatisfied (f : FloretId) (s : State) : Ans :=
  .next (match s.look f.val 0x14 with
    | .go w => if (s.fl f.val).waiting && (s.fl f.val).fenceHolds w then s.retire f.val true else s
    | _ => s)

/-! Feeds. -/

def execFtest (f : FloretId) (s : State) : Ans :=
  .next (s.issue f.val 0x18 (fun w =>
    let fl := s.fl f.val
    let d := (fl.feed (bitsN w 54 51)).state == 3
    (s.setFl f.val (fl.setPred (bitsN w 50 48) (allBits d))).retire f.val false))

/-- A configuration may change now (R162): DONE, LIVE with no presence bit, or disabled. -/
def Feed.idle (fd : Feed) : Bool := fd.state == 3 || (fd.state == 1 && fd.present == []) || fd.slots == 0

/-- The feed that a configuration makes (R156, R162); none when R156 refuses it. -/
def feedOf (c0 c1 : Nat) : Option Feed :=
  let slots := bitsN c0 31 16
  let bl := bitsN c1 6 0
  let base := bitsN c0 14 0
  if slots = 0 then some { Feed.off with base := base, bl := bl, patch := bitN c1 8 }
  else if bl = 0 ∨ 72 < bl ∨ 32768 < base + slots * bl then none
  else some { Feed.off with base := base, slots := slots, bl := bl, patch := bitN c1 8, state := 1 }

/-- Replace a feed by a new configuration, whose slots count from 0: an MMA that still waits for slots of the feed
reads the new feed's first slots (assumption 16). -/
def Floret.newFeed (fl : Floret) (e : Nat) (fd : Feed) : Floret :=
  let old := fl.feed e
  let k := old.deliv - old.held.length
  let shift : Mma → Mma := fun m =>
    { m with base := m.base.map (fun b =>
        (if Tile.afeed m.word = e then b.1 - k else b.1, if Tile.sfeed m.word = e then b.2.1 - k else b.2.1,
         if Tile.sfeed m.word + 1 = e then b.2.2 - k else b.2.2)) }
  ({ fl with mx := fl.mx.map shift }).setFeed e { fd with nextBase := old.nextBase - k }

/-- Configure a feed (R156, R162): a refused configuration sets DESC_ERR. -/
def State.cfgFeed (s : State) (f e c0 c1 : Nat) : State :=
  match feedOf c0 c1 with
  | some fd => s.modFl f (fun fl => fl.newFeed e fd)
  | none => s.sticky .fl f Off.sqStat 1 none

def execFcfg (f : FloretId) (s : State) : Ans :=
  .next (s.issue f.val 0x19 (fun w =>
    let fl := s.fl f.val
    let e := bitsN w 54 51
    if (fl.feed e).idle then
      (s.cfgFeed f.val e (fl.s (bitsN w 45 41)).toNat (fl.s (bitsN w 40 36)).toNat).retire f.val false
    else s))

/-! Descriptors. -/

/-- Bytes of a descriptor in floret `f`'s near bank. -/
def State.descAt (s : State) (f byte : Nat) : Nat := Memory.readN s.sram 32 (0x10000000000 + 0x400000 * f + byte % 0x400000)

/-- Add lines to ADDR_A, within its 52 bits. -/
def addLines (a n : Nat) : Nat := (a + n * 128) % 2 ^ 52

/-- The open digest interval. -/
def Floret.openIval (fl : Floret) : Interval := fl.ivals.getLastD Interval.empty

/-- Replace the open interval. -/
def Floret.setOpen (fl : Floret) (x : Interval) : Floret := { fl with ivals := fl.ivals.dropLast ++ [x] }

/-- Number of the open interval. -/
def Floret.openNo (fl : Floret) : Nat := fl.ival0 + (fl.ivals.length - 1)

/-- Enqueue one descriptor; SB × 128 goes to ADDR_A, kept apart as the line offset within a ring (R164, R167, R411). -/
def Floret.enqueue (fl : Floret) (q : Bool) (w src sb : Nat) : Floret :=
  if q then
    let o := fl.openIval
    let dg := bitN w 14
    let d : QDesc := ⟨w, src, sb, fl.openNo, o.descs⟩
    let fl := { fl with se := { fl.se with queue := fl.se.queue ++ [d], enq := fl.se.enq + 1 } }
    if dg then fl.setOpen { o with descs := o.descs + 1 } else fl
  else
    { fl with le := { fl.le with queue := fl.le.queue ++ [⟨w, src, sb, 0, 0⟩], enq := fl.le.enq + 1 } }

def execDq (f : FloretId) (s : State) : Ans :=
  .next (s.issue f.val 0x1C (fun w =>
    let fl := s.fl f.val
    let q := bitN w 54
    let n := bitsN w 39 32 + 1
    let a := (fl.s (bitsN w 50 46)).toNat
    let sb := (fl.s (bitsN w 45 41)).toNat
    if (if q then fl.se else fl.le).queue.length + n ≤ 256 then
      let fl' := (List.range n).foldl (fun fl i => fl.enqueue q (s.descAt f.val (a + 32 * i)) ((a + 32 * i) % 0x400000) sb) fl
      (s.setFl f.val fl').retire f.val true
    else s.setFl f.val { fl with qfull := true }))

/-! Matrix, vector, quantiser and marks. -/

/-- MMA instructions that the MX queue still holds (R137): one that has issued in all four arrays has left it. -/
def Floret.mxLen (fl : Floret) : Nat := (fl.mx.filter (fun m => m.issued != 15)).length

/-- MMA (R137, R146): enqueue when the MX queue has room; else hold. -/
def execMma (f : FloretId) (s : State) : Ans :=
  .next (s.issue f.val 0x20 (fun w =>
    let fl := s.fl f.val
    if 4 ≤ fl.mxLen then s
    else (s.setFl f.val { fl with mx := fl.mx ++ [⟨fl.nextJid, w, 0, 0, none, false⟩], nextJid := fl.nextJid + 1 }).retire f.val true))

/-- A line that the vector unit has written arrives (R157): at a set presence bit or an ended feed it is discarded, and the
line keeps what `old` held. -/
def State.vxArrive (old : State) (f : Nat) (s : State) (l : Nat) : State :=
  let a := Vec.nbLine f l
  let r := s.feedArrive f a f
  if r.1 then r.2.cnt .fl f Off.nbWr 128
  else { r.2 with
    sram := Memory.writeLine r.2.sram a (Memory.readLine old.sram a)
    sramBad := SMap.put false r.2.sramBad a (SMap.get false old.sramBad a) }

/-- Near-bank line `l` belongs to a row, or to the vector c, that a QX instruction in the queue has still to read. -/
def QxJob.reads (j : QxJob) (l : Nat) : Bool :=
  let k := cdiv j.r 32
  let off (b : Nat) : Nat := (l % 32768 + 32768 - b % 32768) % 32768
  decide (off (j.line + j.row * k) < (Isa.qrows j.w - j.row) * k)
  || ((Isa.pmode j.w == 2 || Isa.pmode j.w == 3) && decide (off j.cline < k))

/-- A VX instruction that would write a line which an earlier QX instruction has still to read is held (R128). -/
def Floret.vxHeld (fl : Floret) (wr : List Nat) : Bool := wr.any (fun l => fl.qxq.any (fun j => j.reads l))

/-- A VX instruction (R116 to R135, R485): registers, near bank, flags, counters; POISON_USE when a poisoned line
reached the unit (R362). One that R128 holds leaves the state as it is. -/
def State.vx (s : State) (f : Nat) (w : Nat) : State :=
  let r := Vec.exec f (Vec.Res.of (s.fl f) s.sram s.sramBad) w
  if (s.fl f).vxHeld r.wr then s else
  let occ := Vec.occupancy (s.fl f) w
  let old := s
  let s := { (s.setFl f r.fl) with sram := r.mem, sramBad := r.bad }
  let s := r.wr.foldl (State.vxArrive old f) (s.cnt .fl f Off.nbRd (128 * r.rd))
  let s := (s.fpFlags f r.fp).stickies .fl f Off.vxStat r.vx [(0, 9), (1, 10), (2, 10), (3, 10)]
  let s := (s.addReg .fl f Off.vxIssue 1).addReg .fl f Off.vxBusy occ
  let s := if Isa.opcode w = 0x2F ∧ Isa.vop w = 2 ∧ (r.fl.pred (Isa.predReg w)).getLsbD 0 then s.addReg .fl f Off.vxSample 1 else s
  let s := if r.poison then s.flFault f Code.poisonUse 0 else s
  s.retire f true

/-- A VX command of opcode `op` whose VOP satisfies `p`. -/
def State.vxIf (s : State) (f op : Nat) (p : Nat → Bool) : State :=
  s.issue f op (fun w => if p (Isa.vop w) then s.vx f w else s)

def execVxInt (f : FloretId) (s : State) : Ans := .next (s.vxIf f.val 0x28 (fun _ => true))
def execVxFloat (f : FloretId) (s : State) : Ans := .next (s.vxIf f.val 0x29 (fun _ => true))
def execVxCvt (f : FloretId) (s : State) : Ans := .next (s.vxIf f.val 0x2A (fun _ => true))
def execVxReduce (f : FloretId) (s : State) : Ans := .next (s.vxIf f.val 0x2B (fun _ => true))
def execVxSpecial (f : FloretId) (s : State) : Ans := .next (s.vxIf f.val 0x2C (fun _ => true))
def execVld (f : FloretId) (s : State) : Ans := .next (s.vxIf f.val 0x2D (fun v => decide (v < 8)))
def execVst (f : FloretId) (s : State) : Ans := .next (s.vxIf f.val 0x2D (fun v => decide (8 ≤ v)))
def execNormRms (f : FloretId) (s : State) : Ans := .next (s.vxIf f.val 0x2E (· == 0))
def execNormLn (f : FloretId) (s : State) : Ans := .next (s.vxIf f.val 0x2E (· == 1))
def execRope (f : FloretId) (s : State) : Ans := .next (s.vxIf f.val 0x2E (· == 2))
def execSmerge (f : FloretId) (s : State) : Ans := .next (s.vxIf f.val 0x2E (· == 3))
def execTopkR (f : FloretId) (s : State) : Ans := .next (s.vxIf f.val 0x2F (· == 0))
def execTopkL (f : FloretId) (s : State) : Ans := .next (s.vxIf f.val 0x2F (· == 1))
def execSample (f : FloretId) (s : State) : Ans := .next (s.vxIf f.val 0x2F (· == 2))

end Sys2Proof.Machine
end

