-- ==== Sys2Proof/Machine/Mx.lean ====
section
/-! DEFINITION. The arrays (chapter "Cubes and Arrays", R24 to R48; R84, R101, R146 to R150): starting an MMA, one cycle of
an array, the accumulator add stage, stationary loads, closing a tile. -/

namespace Sys2Proof.Machine

def Floret.job (fl : Floret) (j : Nat) : Option Mma := fl.mx.find? (fun m => m.jid = j)

def Floret.setJob (fl : Floret) (m : Mma) : Floret := { fl with mx := fl.mx.map (fun x => if x.jid = m.jid then m else x) }

def Floret.modArr (fl : Floret) (a : Nat) (g : Arr → Arr) : Floret := fl.setArr a (g (fl.arr a))

/-- Delivered slot number `n`, while it is held. -/
def Feed.slotAt (fd : Feed) (n : Nat) : Option Slot :=
  if fd.released ≤ n ∧ n < fd.deliv then fd.held[n - fd.released]? else none

/-! Bases of an MMA in its feeds (R148, R150). -/

/-- Fix the first slots of an MMA, in queue order. -/
def Floret.assign (fl : Floret) (m : Mma) : Floret :=
  match m.base with
  | some _ => fl
  | none =>
    let w := m.word
    let ea := Tile.afeed w
    let es := Tile.sfeed w
    let a := (fl.feed ea).nextBase
    let fl1 := if Tile.ahold w then fl else fl.setFeed ea { fl.feed ea with nextBase := a + Tile.ksteps w }
    let b := (fl1.feed es).nextBase
    let fl2 := fl1.setFeed es { fl1.feed es with nextBase := b + Tile.statSlots w }
    let p := (fl2.feed (es + 1)).nextBase
    let fl3 := if Tile.patched w then fl2.setFeed (es + 1) { fl2.feed (es + 1) with nextBase := p + Tile.statSlots w } else fl2
    fl3.setJob { m with base := some (a, b, p) }

/-- Every MMA ahead of `j` has its bases. -/
def Floret.aheadAssigned (fl : Floret) (j : Nat) : Bool := fl.mx.all (fun m => decide (j ≤ m.jid) || m.base.isSome)

/-- Take back the bases of an MMA that is skipped: it reads nothing. -/
def Floret.unassign (fl : Floret) (m : Mma) : Floret :=
  match m.base with
  | none => fl
  | some (a, b, p) =>
    let w := m.word
    let fl := fl.setFeed (Tile.afeed w) { fl.feed (Tile.afeed w) with nextBase := a }
    let fl := fl.setFeed (Tile.sfeed w) { fl.feed (Tile.sfeed w) with nextBase := b }
    if Tile.patched w then fl.setFeed (Tile.sfeed w + 1) { fl.feed (Tile.sfeed w + 1) with nextBase := p } else fl

/-- The MMA at the head of the MX queue meets a DONE activation feed before it has issued anything: it is skipped (R150). -/
def State.mxSkip (s : State) (f : Nat) : State :=
  let fl := s.fl f
  match fl.mx.find? (fun m => m.issued != 15) with
  | none => s
  | some m =>
    if m.any || (fl.feed (Tile.afeed m.word)).state != 3 then s
    else
      let fl := fl.unassign m
      let fl := { fl with mx := fl.mx.filter (fun x => x.jid ≠ m.jid), closings := fl.closings.filter (fun c => c.jid ≠ m.jid) }
      let fl := (List.range 4).foldl (fun fl a => fl.modArr a (fun r =>
        { r with iJob := if r.iJob = m.jid then m.jid + 1 else r.iJob, pJob := if r.pJob = m.jid then m.jid + 1 else r.pJob
                 iTile := if r.iJob = m.jid then 0 else r.iTile, pTile := if r.pJob = m.jid then 0 else r.pTile
                 iWave := if r.iJob = m.jid then 0 else r.iWave })) fl
      (s.setFl f fl).orReg .fl f Off.sqStat 0x10

/-- Units of the floret work: present and out of reset. -/
def State.flOn (s : State) (f : Nat) : Bool := s.flPresent f && !(s.um (f / 16)).held && !s.pw.trip

def execMmaStart (f : FloretId) (a : ArrayId) (s : State) : Ans :=
  .next (
    let fl := s.fl f.val
    if !s.flOn f.val then s
    else match fl.job (fl.arr a.val).iJob with
    | none => s
    | some m =>
      if bitN m.started a.val then s
      else
        let s' := s.mxSkip f.val
        if ((s'.fl f.val).job m.jid).isNone then s'
        else
          let fl := fl.assign m
          match fl.job m.jid with
          | none => s
          | some m =>
            let fl := fl.setJob { m with started := setBitN m.started a.val true }
            let fl := if Tile.closeBit m.word && m.started == 0 then
                { fl with closings := fl.closings ++ [⟨m.jid, Tile.accIx m.word, Tile.cross m.word, 15⟩] }
              else fl
            s.setFl f.val fl)

/-! Closing (R45, R84, R150). -/

/-- Copy a tile's working latch to its drain latch, with the tile's type: what its drain gives depends on nothing that
comes after the close (R84, R89). -/
def Arr.latch (r : Arr) (t : Nat) : Arr :=
  (List.range 32).foldl (fun r i =>
    { r with rowD := SMap.put 0 r.rowD (t * 32 + i) (SMap.get 0 r.rowW (t * 32 + i))
             colD := SMap.put 0 r.colD (t * 32 + i) (SMap.get 0 r.colW (t * 32 + i)) })
    { r with isFD := SMap.put false r.isFD t (SMap.get false r.isF t) }

/-- A close of tile `t` (R45). While an earlier close is still being read the new one waits behind it: until then no row of
the tile takes a result (R46), so that its latch, copied when its turn comes, is the one it closed with. -/
def Floret.openDrain (fl : Floret) (t : Nat) : Floret :=
  if SMap.get 0 fl.closed t ≠ 0 then { fl with again := SMap.put 0 fl.again t (SMap.get 0 fl.again t + 1) }
  else
    let fl := (List.range 4).foldl (fun fl a => fl.modArr a (fun r => r.latch t)) fl
    { fl with closed := SMap.put 0 fl.closed t 1 }

def Floret.closeTile (fl : Floret) (t : Nat) (pair : Bool) : Floret :=
  let fl := fl.openDrain t
  let fl := if pair then fl.openDrain (t + 1) else fl
  fl.setTally (56 + t) (fl.tally (56 + t) + 1)

/-- Note which arrays have written their last result of each closing pass; close the tiles that are complete. -/
def Floret.checkClose (fl : Floret) : Floret :=
  let upd : Closing → Closing := fun c =>
    { c with left := (List.range 4).foldl (fun l a =>
        let r := fl.arr a
        if decide (c.jid < r.iJob) && r.waves.all (fun w => !w.valid || w.jid ≠ c.jid) then setBitN l a false else l) c.left }
  let cs := fl.closings.map upd
  let fl := { fl with closings := cs.filter (fun c => c.left ≠ 0) }
  (cs.filter (fun c => c.left = 0)).foldl (fun fl c => fl.closeTile c.acc c.pair) fl

/-- MMAs that have issued everywhere, whose tiles every port has committed and whose stationary slots are released leave
the list. -/
def Floret.dropJobs (fl : Floret) : Floret :=
  { fl with mx := fl.mx.filter (fun m =>
      m.issued != 15 || (List.range 4).any (fun a => decide ((fl.arr a).pJob ≤ m.jid)) ||
      (match m.base with
        | some (_, sb, _) => decide ((fl.feed (Tile.sfeed m.word)).released < sb + Tile.statSlots m.word)
        | none => false)) }

/-! The add stage (R41 to R46, R84). -/

/-- A row of a tile that a drain has still to read (R46): the drain of the present close, or of one that waits behind. -/
def Floret.undrained (fl : Floret) (t row : Nat) : Bool :=
  let c := SMap.get 0 fl.closed t
  decide (c ≠ 0) && (decide (c ≤ row + 1) || decide (SMap.get 0 fl.again t ≠ 0))

/-- The result that the add stage holds in the present cycle for this wavefront, if any. -/
def Wave.due (w : Wave) (c : Nat) : Bool := w.valid && decide (w.next < 8) && decide (w.cyc + 9 + w.next ≤ c)

/-- By the end of the cycle before `c` all eight results are written: the last one at the end of the 17th cycle after the issue
(R28, R31). What a wavefront without VALID brings changes nothing (R35). -/
def Wave.written (w : Wave) (c : Nat) : Bool := (!w.valid || decide (8 ≤ w.next)) && decide (w.cyc + 18 ≤ c)

/-- It is for a row that the drain has not read. -/
def Wave.blocked (w : Wave) (fl : Floret) : Bool :=
  (w.res.headD []).any (fun u => fl.undrained u.tile u.row)

/-- The array is frozen in this cycle (R44, R46). -/
def Floret.frozen (fl : Floret) (a : Nat) : Bool :=
  let r := fl.arr a
  r.waves.any (fun w => w.due r.cyc && w.blocked fl)

/-- Add one result to its element (R42): the array, flags, and whether it clamped. The tile is 'in F19 mode' (R88) from the
last add that was made to any element of it (DESIGN CHOICE, assumption 35: by R41 a tile carries no type, and the spec names no
pass that decides where passes of both modes wrote it). -/
def addElem (r : Arr) (isF init : Bool) (u : Upd) : Arr × W32 × Bool :=
  let k := u.tile * 1024 + u.row * 32 + u.col
  let old := SMap.get (0 : W32) r.acc k
  let v : W32 × W32 × Bool :=
    if init then (BitVec.ofInt 32 u.val, 0, false)
    else if isF then let x := Fp.add false 24 old (BitVec.ofInt 32 u.val); (x.1, x.2, false)
    else let x := Fp.satI32 (old.toInt + u.val); (BitVec.ofInt 32 x.1, 0, x.2)
  ({ r with acc := SMap.put (0 : W32) r.acc k v.1, isF := SMap.put false r.isF u.tile isF }, v.2)

/-- Latch scale words with INIT, or compare them (R84); latched words are kept plus 1. Gives the differing words. -/
def latchWords (init : Bool) (unit : Nat) (tab : SMap Nat) (ws : List Word84) : SMap Nat × Nat :=
  ws.foldl (fun (acc : SMap Nat × Nat) x =>
    let k := x.tile * 32 + x.idx
    if init then (SMap.put 0 acc.1 k (x.word + 1), acc.2)
    else
      let have_ := match SMap.get 0 acc.1 k with
        | 0 => unit
        | n + 1 => n
      (acc.1, if have_ = x.word then acc.2 else acc.2 + 1)) (tab, 0)

/-- Words of a wavefront for result `j`: its rows with the first result, the columns of that result (keyed by result). -/
def Wave.wordsFor (w : Wave) (j : Nat) : List Word84 × List Word84 :=
  (if j = 0 then w.rows else [], (w.cols.drop (j * (w.cols.length / 8))).take (w.cols.length / 8))

/-- Count scale words that differ from the latched ones (R84). -/
def State.scaleMm (s : State) (f n : Nat) : State :=
  if n = 0 then s else (s.addReg .fl f Off.scaleMmCnt n).sticky .fl f Off.qxStat 1 (some 6)

def State.addResult (s : State) (f a : Nat) (w : Wave) : State :=
  let fl := s.fl f
  let r := fl.arr a
  let us := w.res.headD []
  let out := us.foldl (fun (acc : Arr × W32 × Bool) u =>
    let x := addElem acc.1 w.isF w.init u; (x.1, acc.2.1 ||| x.2.1, acc.2.2 || x.2.2)) (r, 0, false)
  let ws := w.wordsFor w.next
  let rl := latchWords w.init (Fp.unitWord fl.c6) out.1.rowW ws.1
  let cl := latchWords w.init (Fp.unitWord fl.c6) out.1.colW ws.2
  let w' := { w with next := w.next + 1, res := w.res.tail }
  let r := { out.1 with
    rowW := rl.1, colW := cl.1
    waves := out.1.waves.map (fun x => if x.cyc = w.cyc then w' else x) }
  let s := s.setFl f (fl.setArr a r)
  let s := s.fpFlags f out.2.1
  let s := if out.2.2 then s.sticky .fl f Off.mxStat 0 (some 4) else s
  s.scaleMm f (rl.2 + cl.2)

/-- ACCUMULATOR_ADD: the oldest wavefront's result `j` that is due, older wavefronts having passed `j` (R43). In a frozen
cycle no element of the array changes (R44). -/
def execAccumulatorAdd (f : FloretId) (a : ArrayId) (j : Fin8) (s : State) : Ans :=
  .next (
    let fl := s.fl f.val
    let r := fl.arr a.val
    if !s.flOn f.val then s
    else match r.waves.find? (fun w => w.valid && decide (w.next ≤ j.val)) with
    | none => s
    | some w =>
      if w.next = j.val && w.due r.cyc && !fl.frozen a.val then (s.addResult f.val a.val w).mxSkip f.val else s)

/-! The feeder (R27 to R36, R39, R46, R148, R150, R160). -/

/-- Column words of a whole wavefront, by result. -/
def allCols (w : Nat) (words : List Nat) (half : Nat) : List Word84 :=
  (List.range 8).flatMap (fun j => Tile.colWords w words half j)

/-- What the feeder finds for its next wavefront. -/
inductive Feeds where
  | notReady
  /-- every row group of the tile is invalid: it is passed over (R160) -/
  | empty
  | wave (slot : Slot) (st : List Int) (words : List Nat) (row rows half : Nat) (lastOfTile : Bool)
  deriving DecidableEq, Repr

/-- The stationary tile of number `n` (counted since floret reset), usable by a wavefront now (R39). -/
def Arr.tileFor (r : Arr) (n : Nat) (isF : Bool) : Option (List Int × List Nat) :=
  if r.loaded ≤ n then none
  else match r.load with
  | some l => if r.loaded = n + 1 then (if !isF && decide (1 ≤ l.next) then some (l.elems, l.words) else none)
      else let b := if n % 2 = 0 then r.buf0 else r.buf1; some (b.rows.flatten, b.words)
  | none => let b := if n % 2 = 0 then r.buf0 else r.buf1; some (b.rows.flatten, b.words)

/-- A pass that closes the job's tile is still in the arrays (R46). -/
def Floret.closingAhead (fl : Floret) (m : Mma) : Bool :=
  let t := Tile.accIx m.word
  let top := if Tile.cross m.word then t + 1 else t
  fl.closings.any (fun c => decide (c.jid < m.jid) && decide (c.acc ≤ top) && decide (t ≤ (if c.pair then c.acc + 1 else c.acc)))

def Floret.look (fl : Floret) (a : Nat) (m : Mma) : Feeds :=
  let r := fl.arr a
  let w := m.word
  match m.base with
  | none => .notReady
  | some (ab, _, _) =>
    let p := Tile.src w a r.iTile
    match (fl.feed (Tile.afeed w)).slotAt (ab + p.step), r.tileFor r.used (Tile.isF w) with
    | some sl, some (st, words) =>
      let ws := Tile.wavefronts w sl
      match ws[r.iWave]? with
      | none => .empty
      | some (row, rows, half) =>
        if fl.closingAhead m then .notReady
        else .wave sl st words row rows half (r.iWave + 1 == ws.length)
    | _, _ => .notReady

/-- Move the feeder past its tile; after the last tile of the MMA it has issued its last wavefront in the array. -/
def Floret.nextTile (fl : Floret) (a : Nat) (m : Mma) : Floret :=
  let r := fl.arr a
  if r.iTile + 1 = Tile.tilesOf m.word then
    let fl := fl.setArr a { r with used := r.used + 1, iTile := 0, iWave := 0, iJob := m.jid + 1 }
    (fl.setJob { m with issued := setBitN m.issued a true, any := true }).checkClose.dropJobs
  else fl.setArr a { r with used := r.used + 1, iTile := r.iTile + 1, iWave := 0 }

/-- The results of a wavefront by column group (NORMAL) or cube row (CROSS), with flags. -/
def waveRes (w : Nat) (sl : Slot) (st : List Int) (k0 row rows half : Nat) : List (List Upd) × W32 :=
  (List.range 8).foldl (fun (acc : List (List Upd) × W32) j =>
    if Tile.isF w then let x := Tile.f19Col w sl st row j; (acc.1 ++ [x.1], acc.2 ||| x.2)
    else if Tile.cross w then (acc.1 ++ [Tile.intCross w sl st k0 row rows half j], acc.2)
    else (acc.1 ++ [Tile.intNormal w sl st k0 row rows half j], acc.2)) ([], 0)

/-- Whether a wavefront carries INIT (R150). -/
def waveInit (w iTile half : Nat) : Bool := Tile.initBit w && iTile == 0 && (half == 0 || Tile.cross w)

/-- A cycle in which the array advances: a wavefront leaves with its last result written (R44). -/
def Arr.advance (r : Arr) : Arr := { r with cyc := r.cyc + 1, waves := r.waves.filter (fun w => !w.written (r.cyc + 1)) }

/-- The tag of what the feeder issues in the present cycle. -/
def Arr.tag (r : Arr) (valid : Bool) : Wave :=
  { cyc := r.cyc, valid := valid, epoch := r.used % 2, half := 0, rowMask := 0, isF := false, init := false, acc := 0, pair := false
    jid := 0, next := 0, res := [], rows := [], cols := [] }

/-- The feeder issues a wavefront whose blocks all have VALID clear: a bubble (R35), or one whose rows are all masked (R36).
It counts as a reference to no buffer, carries no orientation and changes no accumulator. -/
def Arr.issueEmpty (r : Arr) (w : Wave) : Arr := { r.advance with waves := r.advance.waves ++ [w] }

/-- The feeder has passed a wavefront of MMA `m` on in array `a`. -/
def Floret.passed (fl : Floret) (a : Nat) (m : Mma) (last : Bool) : Floret :=
  let fl := (fl.modArr a (fun r => { r with iWave := r.iWave + 1 })).setJob { m with any := true }
  if last then fl.nextTile a { m with any := true } else fl

/-- Issue a wavefront in the present cycle. A wavefront with no valid row has VALID = 0 (R36). -/
def State.issueWave (s : State) (f a : Nat) (m : Mma) (sl : Slot) (st : List Int) (words : List Nat) (row rows half : Nat)
    (last : Bool) : State :=
  let fl := s.fl f
  let r := fl.arr a
  let w := m.word
  let p := Tile.src w a r.iTile
  let mask := Tile.rowMask w sl row rows
  let tag : Wave :=
    { r.tag (mask != 0) with
      half := half, rowMask := mask, isF := Tile.isF w, init := waveInit w r.iTile half, acc := Tile.accIx w
      pair := Tile.cross w, jid := m.jid }
  if mask = 0 then s.setFl f ((fl.setArr a (r.issueEmpty tag)).passed a m last).checkClose.dropJobs
  else
    let res := waveRes w sl st p.k0 row rows half
    let ep := r.used % 2
    let wv : Wave := { tag with res := res.1, rows := Tile.rowWords w fl.c6 sl row rows, cols := allCols w words half }
    let ld := r.load.map (fun l => if l.epoch = ep ∧ r.used + 1 ≠ r.loaded then { l with old := r.cyc + 1 } else l)
    let r := { r.advance with
      cross := Tile.cross w, lastIssue := r.cyc + 1, waves := r.advance.waves ++ [wv], load := ld
      lastE0 := if ep = 0 then r.cyc + 1 else r.lastE0, lastE1 := if ep = 1 then r.cyc + 1 else r.lastE1 }
    (s.setFl f ((fl.setArr a r).passed a m last).checkClose.dropJobs).fpFlags f res.2

/-- One row of a strict F19 MMA in the vector unit (R61): a masked row changes nothing (R36, R160). The words of the row and
of its columns, where the MMA's sources are UNIT, are latched with INIT and compared without, as for a wavefront (R84). -/
def State.strictRow (s : State) (f a : Nat) (m : Mma) (sl : Slot) (st : List Int) (words : List Nat) (row : Nat) (last : Bool) : State :=
  let fl := s.fl f
  let r := fl.arr a
  let w := m.word
  let t := Tile.accIx w
  let init := waveInit w r.iTile 0
  if !Tile.rowValid w sl row then s.setFl f ((fl.setArr a { r with cyc := r.cyc + 1 }).passed a m last)
  else
    let out := (List.range 32).foldl (fun (acc : SMap W32 × W32) n =>
      let k := t * 1024 + row * 32 + n
      let x := Tile.strictElem w sl st row n (if init then 0 else SMap.get (0 : W32) acc.1 k)
      (SMap.put (0 : W32) acc.1 k x.1, acc.2 ||| x.2)) (r.acc, 0)
    let rl := latchWords init (Fp.unitWord fl.c6) r.rowW (Tile.rowWords w fl.c6 sl row 1)
    let cl := latchWords init (Fp.unitWord fl.c6) r.colW (allCols w words 0)
    let r := { r with cyc := r.cyc + 1, acc := out.1, isF := SMap.put false r.isF t true, rowW := rl.1, colW := cl.1 }
    ((s.setFl f ((fl.setArr a r).passed a m last)).fpFlags f out.2).scaleMm f (rl.2 + cl.2)

/-- A cycle with no issue. -/
def State.arrCycle (s : State) (f a : Nat) : State :=
  s.modFl f (fun fl => (fl.modArr a Arr.advance).checkClose.dropJobs)

/-- Valid wavefronts are in flight in the array. -/
def Arr.flowing (r : Arr) : Bool := r.waves.any (·.valid)

/-- The array holds valid wavefronts or a load. -/
def Arr.busy (r : Arr) : Bool := r.flowing || r.load.isSome

/-- A cycle in which the feeder has work and no wavefront ready: it issues a bubble (R35). -/
def State.bubble (s : State) (f a : Nat) : State :=
  (s.modFl f (fun fl => (fl.modArr a (fun r => r.issueEmpty (r.tag false))).checkClose.dropJobs)).addReg .fl f Off.mxBubble 1

/-- WAVEFRONT_ISSUE: one cycle of an array. It freezes on a result for a row not yet drained (R44, R46); adds of this cycle
come first; then the feeder issues a wavefront, waits for an orientation drain (R33), or issues a bubble (R35). A strict F19
row whose accumulator row a drain has still to read waits in the vector unit: the array is not frozen, and no counter rises
(DESIGN CHOICE, assumption 35: R48 counts frozen array-cycles, and no rule says how this wait counts). -/
def State.arrayStep (s : State) (f a : Nat) : State :=
  let fl := s.fl f
  let r := fl.arr a
  if fl.frozen a then s.addReg .fl f Off.mxFreeze 1
  else if r.waves.any (fun w => w.due r.cyc) then s
  else match (fl.job r.iJob).filter (fun m => bitN m.started a) with
  | none => if r.busy then s.arrCycle f a else s
  | some m =>
    let strict := Tile.isF m.word && fl.strict
    match fl.look a m with
    | .notReady =>
      if strict then (if r.busy then s.arrCycle f a else s) else s.bubble f a
    | .empty => s.setFl f (fl.nextTile a m)
    | .wave sl st words row rows half last =>
      if strict then
        if r.flowing then s.arrCycle f a
        else if fl.undrained (Tile.accIx m.word) row then s
        else s.strictRow f a m sl st words row last
      else if Tile.rowMask m.word sl row rows != 0 && Tile.cross m.word != r.cross && decide (r.lastIssue ≠ 0) && decide (r.cyc + 1 < r.lastIssue + 18) then
        (s.arrCycle f a).addReg .fl f Off.mxOrient 1
      else s.issueWave f a m sl st words row rows half last

def execWavefrontIssue (f : FloretId) (a : ArrayId) (s : State) : Ans :=
  .next (if s.flOn f.val then (s.arrayStep f.val a.val).mxSkip f.val else s)

/-! Stationary loads (R37 to R40, R101). -/

/-- What a load needs: the tile's slot and, where patched, its patch slot (R108, R161). The port starts an MMA's loads only
once the MMA's first activation slot has been delivered (DESIGN CHOICE, assumption 35: R37 names only the tile with its scale
line and patches; an MMA that meets a DONE activation feed must read nothing by R150, so the model lets the port wait until
that can no longer happen). -/
def Floret.loadSrc (fl : Floret) (a : Nat) (m : Mma) : Option (Tile.Src × Slot × Option Slot) :=
  match m.base with
  | none => none
  | some (ab, sb, pb) =>
    let w := m.word
    let p := Tile.src w a (fl.arr a).pTile
    if (fl.feed (Tile.afeed w)).deliv ≤ ab then none
    else match (fl.feed (Tile.sfeed w)).slotAt (sb + p.slot) with
    | none => none
    | some sl =>
      if Tile.patched w then ((fl.feed (Tile.sfeed w + 1)).slotAt (pb + p.slot)).map (fun q => (p, sl, some q))
      else some (p, sl, none)

/-- STATIONARY_LOAD_START: the port has its tile whole and begins (R37). A port loads at most one tile beyond those held
in its two buffers. -/
def execStationaryLoadStart (f : FloretId) (a : ArrayId) (s : State) : Ans :=
  .next (
    let fl := s.fl f.val
    let r := fl.arr a.val
    if !s.flOn f.val || r.load.isSome || decide (r.used + 2 < r.loaded) then s
    else match fl.job r.pJob with
    | none => s
    | some m =>
      if !fl.aheadAssigned m.jid then s
      else
        let fl := fl.assign m
        match (fl.job m.jid).bind (fl.loadSrc a.val) with
        | none => s
        | some (p, sl, q) =>
          let w := m.word
          let t := Tile.loadTile w p sl q
          let l : Load :=
            { epoch := r.loaded % 2, isF := Tile.isF w, next := 0, gather := 0, elems := t.1, sat := t.2.1, grp := t.2.2
              words := Tile.loadWords w fl.c6 p sl, old := if r.loaded % 2 = 0 then r.lastE0 else r.lastE1 }
          let s := s.setFl f.val (fl.setArr a.val { r with load := some l, loaded := r.loaded + 1 })
          if Tile.form w == 2 || Tile.form w == 3 then s.addReg .fl f.val Off.expTileCnt 1 else s)

/-- Whether R38 holds the next row of a load: wavefronts of the tile that it replaces have still to issue, or the last of
them has still to leave the row. -/
def Arr.rowHeld (r : Arr) (l : Load) : Bool :=
  decide (r.used + 2 < r.loaded) || (decide (l.old ≠ 0) && decide (r.cyc + 1 < l.old + 8 + l.next))

/-- Commit the next row of a load. -/
def Floret.commitRow (fl : Floret) (a : Nat) (l : Load) : Floret :=
  let r := fl.arr a
  let per := l.elems.length / 8
  let row := (l.elems.drop (per * l.next)).take per
  let put : Stat → Stat := fun b => { (b.setRow l.next row) with words := l.words }
  let r := if l.epoch = 0 then { r with buf0 := put r.buf0 } else { r with buf1 := put r.buf1 }
  if l.next = 7 then
    let fl := fl.setArr a { r with load := none }
    match fl.job r.pJob with
    | none => fl
    | some m =>
      let done := decide (r.pTile + 1 = Tile.tilesOf m.word)
      (fl.modArr a (fun r => { r with pJob := if done then r.pJob + 1 else r.pJob, pTile := if done then 0 else r.pTile + 1 })).dropJobs
  else fl.setArr a { r with load := some { l with next := l.next + 1, gather := 0 } }

/-- STATIONARY_ROW_COMMIT: in F19 mode a row is gathered over four cycles (R37); a row that R38 holds counts a hold. -/
def execStationaryRowCommit (f : FloretId) (a : ArrayId) (s : State) : Ans :=
  .next (
    let fl := s.fl f.val
    let r := fl.arr a.val
    if !s.flOn f.val then s
    else match r.load with
    | none => s
    | some l =>
      if l.isF && decide (l.gather < 3) then
        s.setFl f.val (fl.setArr a.val { r with load := some { l with gather := l.gather + 1 } })
      else if r.rowHeld l then s.addReg .fl f.val Off.mxHold 1
      else
        let s := s.setFl f.val (fl.commitRow a.val l)
        let n := l.sat.getD l.next 0
        let s := s.addReg .fl f.val Off.patchGrpCnt (l.grp.getD l.next 0)
        let s := if n = 0 then s else (s.addReg .fl f.val Off.patchSatCnt n).sticky .fl f.val Off.cbStat 0 (some 8)
        s.mxSkip f.val)

end Sys2Proof.Machine
end

