-- ==== Sys2Proof/Machine/Feeds.lean ====
section
/-! DEFINITION. Feeds (R156 to R161, R190): END markers, delivery of slots to their consumers, release of slots. -/

namespace Sys2Proof.Machine

/-- An ENDED feed whose head slot has no presence bit is DONE (R159). -/
def Feed.settle (fd : Feed) : Feed :=
  if fd.state = 2 ∧ fd.slots ≠ 0 ∧ SMap.get 0 fd.present (fd.index fd.released) = 0 then { fd with state := 3 } else fd

/-- An END marker reaches a feed (R159). -/
def Feed.ended (fd : Feed) : Feed := if fd.state = 1 then Feed.settle { fd with state := 2 } else fd

/-- An END reaches feed `e` of floret `f` (R159). -/
def State.endFeed (s : State) (f e : Nat) : State := s.modFl f (fun fl => fl.setFeed e (fl.feed e).ended)

/-- The slot to deliver next may go (R158, R159, R161): complete while LIVE, any line once ENDED; a patch slot when the
decoder has answered it. -/
def Feed.deliverable (fd : Feed) : Bool :=
  let i := fd.index fd.deliv
  let bits := SMap.get 0 fd.present i
  decide (fd.slots ≠ 0) && decide (fd.held.length < fd.slots) &&
  (if fd.patch then SMap.get 0 fd.answered i != 0
   else if fd.state = 1 then bits == 2 ^ fd.bl - 1
   else fd.state == 2 && bits != 0)

/-- FEED_SLOT_DELIVER: the consumer takes the slot's lines and its valid mask. A residue without its scale line is
reported (R160) and logged with the line's address (R480). -/
def execFeedSlotDeliver (f : FloretId) (e : FeedId) (s : State) : Ans :=
  .next (
    let fl := s.fl f.val
    let fd := fl.feed e.val
    if !s.flOn f.val || !fd.deliverable then s
    else
      let i := fd.index fd.deliv
      let bits := SMap.get 0 fd.present i
      let at_ (j : Nat) : Line × Bool := s.sramLine (Vec.nbLine f.val (fd.base + i * fd.bl + j))
      let ls := (List.range fd.bl).map (fun j => if bitN bits j then at_ j else (0, false))
      let poison := (List.range fd.bl).foldl (fun m j => if (ls.getD j (0, false)).2 then setBitN m j true else m) 0
      let s := s.setFl f.val (fl.setFeed e.val { fd with deliv := fd.deliv + 1, held := fd.held ++ [⟨bits, ls.map (·.1), poison⟩] })
      let s := (s.cnt .fl f.val Off.nbRd (128 * popN fd.bl bits)).progress f.val
      let s := if fd.bl = 33 ∧ !bitN bits 32 then
          ((s.orReg .fl f.val Off.sqStat 8).event .fl f.val 14).logErr .fl f.val 0x05
            (Vec.nbLine f.val (fd.base + i * fd.bl + 32)) f.val e.val
        else s
      if poison = 0 then s else s.flFault f.val Code.poisonUse 0)

/-- The first activation slot of feed `e` that array `a` still needs. -/
def Floret.needAct (fl : Floret) (e a : Nat) : Nat :=
  fl.mx.foldl (fun n m =>
    if Tile.afeed m.word ≠ e ∨ bitN m.issued a then n
    else match m.base with
    | none => n
    | some (ab, _, _) =>
      let r := fl.arr a
      min n (if r.iJob = m.jid && !Tile.ahold m.word then ab + (Tile.src m.word a r.iTile).step else ab)) (fl.feed e).nextBase

/-- The first stationary slot of feed `e` of which array `a` has still to commit row 7 of a tile. -/
def Floret.needStat (fl : Floret) (e a : Nat) : Nat :=
  fl.mx.foldl (fun n m =>
    let r := fl.arr a
    if Tile.sfeed m.word ≠ e ∨ m.jid < r.pJob then n
    else match m.base with
    | none => n
    | some (_, sb, _) => min n (sb + (Tile.src m.word a (if r.pJob = m.jid then r.pTile else 0)).slot)) (fl.feed e).nextBase

/-- The patch slot that goes with stationary slot `n` of feed `e`, where its MMA is patched (R150). -/
def Floret.patchOf (fl : Floret) (e n : Nat) : Option Nat :=
  fl.mx.findSome? (fun m =>
    match m.base with
    | some (_, sb, pb) =>
      if Tile.patched m.word && Tile.sfeed m.word == e && decide (sb ≤ n) && decide (n < sb + Tile.statSlots m.word) then
        some (pb + (n - sb))
      else none
    | none => none)

/-- The oldest held slot of feed `e` has served every consumer. A patch feed's slots go with their stationary slots. -/
def Floret.releasable (fl : Floret) (e : Nat) : Bool :=
  let fd := fl.feed e
  let n := fd.released
  !fd.held.isEmpty && !fd.patch && decide (n < fd.nextBase) &&
    (List.range 4).all (fun a => decide (n < fl.needAct e a) && decide (n < fl.needStat e a))

/-- Release the oldest held slot (R157): its presence bits clear, the head moves. -/
def Feed.release (fd : Feed) : Feed :=
  let i := fd.index fd.released
  Feed.settle { fd with
    head := (fd.head + 1) % 2 ^ 32, held := fd.held.tail, present := SMap.put 0 fd.present i 0
    answered := SMap.put 0 fd.answered i 0 }

/-- The credit signal of a release (R190). -/
def State.sendCredit (s : State) (f : FloretId) (e : Nat) : State :=
  let c := (SMap.get (0 : W32) (s.fl f.val).credit e).toNat
  if bitN c 31 then s.flSignal f.val f .credit (bitsN c 29 0) 1 else s

def execFeedSlotRelease (f : FloretId) (e : FeedId) (s : State) : Ans :=
  .next (
    let fl := s.fl f.val
    if !s.flOn f.val || !fl.releasable e.val then s
    else
      let pt := fl.patchOf e.val (fl.feed e.val).released
      let fl := fl.setFeed e.val (fl.feed e.val).release
      let fl := match pt with
        | some _ => fl.setFeed (e.val + 1) (fl.feed (e.val + 1)).release
        | none => fl
      let s := (s.setFl f.val fl.dropJobs).sendCredit f e.val
      let s := match pt with
        | some _ => s.sendCredit f (e.val + 1)
        | none => s
      s.mxSkip f.val)

end Sys2Proof.Machine
end

