-- ==== Sys2Proof/Machine/Trace.lean ====
section
/-! DEFINITION. The trace ring (R415 to R420, R426): queueing a record, the writer, the writes of TR_CFG and TR_TAIL. -/

namespace Sys2Proof.Machine

def State.lsl (s : State) (t : Nat) : LSlot := SMap.get LSlot.reset s.fe.slots t
def State.setLsl (s : State) (t : Nat) (x : LSlot) : State :=
  { s with fe := { s.fe with slots := SMap.put LSlot.reset s.fe.slots t x } }

def State.setTr (s : State) (x : Trace) : State := { s with tr := x }

/-- TR_CFG.EN. -/
def State.trOn (s : State) : Bool := (s.reg .tr 0 0x108).getLsbD 8

/-- TR_CFG.LOG2SZ in force: a value outside 24 to 32 is ignored when written. -/
def State.trN (s : State) : Nat := 2 ^ (bitsN (s.regN .tr 0 0x108) 5 0) / 32

def State.trBase (s : State) : Nat := s.regN .tr 0 0x100 + 2 ^ 32 * s.regN .tr 0 0x104

/-- Count a record dropped at `time` (R418, R419). -/
def State.trDrop (s : State) (time : Nat) : State :=
  let t := s.tr
  let s := s.setTr { t with d := t.d + 1, first := if t.d = 0 then time else t.first, last := time }
  let s := s.addReg .tr 0 0x114 1
  if t.d = 0 then s.event .tr 0 0 else s

/-- The 32 bytes of a record (R416). -/
def traceRec (time ty flags source lid slot payload : Nat) : Nat :=
  time % 2 ^ 64 + 2 ^ 64 * (ty % 256) + 2 ^ 72 * (flags % 256) + 2 ^ 80 * (source % 2 ^ 16) + 2 ^ 96 * (lid % 2 ^ 16)
    + 2 ^ 112 * (slot % 256) + 2 ^ 128 * (payload % 2 ^ 128)

/-- Queue a record of type `ty` from queue `q` (R417, R418): disabled types and a stopped trace record nothing; a full
queue drops. -/
def State.trace (s : State) (q ty flags source lid slot payload : Nat) : State :=
  if !s.trOn || !bitN (s.regN .tr 0 0x108) (15 + ty) then s
  else
    let xs := SMap.get [] s.tr.qs q
    if 16 ≤ xs.length then s.trDrop s.ftime
    else s.setTr { s.tr with qs := SMap.put [] s.tr.qs q (xs ++ [traceRec s.ftime ty flags source lid slot payload]) }

/-- A floret's record: its launch ID and slot, or 0 and 0xFF (R416). -/
def State.traceFl (s : State) (f ty flags payload : Nat) : State :=
  let fl := s.fl f
  if fl.lslot = 0 then s.trace f ty flags f 0 0xFF payload
  else s.trace f ty flags f (s.lsl (fl.lslot - 1)).id (fl.lslot - 1) payload

/-- A record of the front end, with the launch slot it concerns if any. -/
def State.traceFe (s : State) (t : Option Nat) (ty payload : Nat) : State :=
  match t with
  | some t => s.trace 512 ty 0 0x1000 (s.lsl t).id t payload
  | none => s.trace 512 ty 0 0x1000 0 0xFF payload

def State.traceUmc (s : State) (ty lid slot payload : Nat) : State := s.trace 513 ty 0 0x2000 lid slot payload

/-- Write a line of the ring; above the usable range it is an address error of the TR page (R13, R415). -/
def State.trLine (s : State) (a : Nat) (l : Line) : State :=
  if s.hbmEnd ≤ a then s.addrErr ⟨.tr, 0, 0xFFF⟩ a true else s.hbmWrite a l false

/-- Write a record at index W mod N: lines are gathered and written whole (R418, R420; assumption 14). -/
def State.trPut (s : State) (r : Nat) : State :=
  let t := s.tr
  let g := t.gather ++ [r]
  let s := s.setTr { t with w := (t.w + 1) % 2 ^ 32, gather := if g.length = 4 then [] else g }
  if g.length = 4 then s.trLine (s.trBase + (t.w / 4 * 4 % s.trN) * 32) (lineOf 256 g) else s

/-- F of R419. -/
def State.trFree (s : State) : Nat := s.trN - (s.tr.w + 2 ^ 32 - s.regN .tr 0 0x110) % 2 ^ 32

/-- The next queue that holds a record, in rotating order above the one served last. -/
def Trace.pick (t : Trace) : Option Nat :=
  let ks := SMap.keys t.qs
  match ks.find? (fun k => decide (t.rr < k + 1)) with
  | some k => some k
  | none => ks.head?

/-- TRACE_WRITE: the writer takes one record, or first the DROP record that is due (R418, R419), whose SOURCE no rule
gives (a free value, assumption 6). -/
def execTraceWrite (s : State) : Host.Outcome State Fault Refusal :=
  .next (
    if !s.trOn || !s.hbmReady s.trBase then s
    else if 0 < s.tr.d && decide (2 ≤ s.trFree) then
      let t := s.tr
      let r := s.fresh
      let s := r.2.trPut (traceRec t.first 0x0F 0 r.1.toNat 0 0xFF (t.d % 2 ^ 32 + 2 ^ 64 * t.last))
      s.setTr { s.tr with d := 0 }
    else
      match s.tr.pick with
      | none => s
      | some k =>
        let xs := SMap.get [] s.tr.qs k
        let s := s.setTr { s.tr with qs := SMap.put [] s.tr.qs k xs.tail, rr := k + 1 }
        match xs with
        | [] => s
        | r :: _ => if s.tr.d = 0 && decide (2 ≤ s.trFree) then s.trPut r else s.trDrop s.ftime)

/-- TR_HEAD (R420). -/
def State.trHead (s : State) : Nat := (s.tr.w + 2 ^ 32 - s.tr.gather.length) % 2 ^ 32

/-- A write of TR_CFG (R415, R426): LOG2SZ outside 24 to 32 is ignored, LOG2SZ changed while EN is 1 is ignored with
CFG_ERR; setting EN clears HEAD, TAIL and DROP. -/
def State.trCfgWrite (s : State) (v : Nat) : State :=
  let old := s.regN .tr 0 0x108
  let sz := bitsN v 5 0
  let en := bitN old 8
  let bad := en && decide (sz ≠ bitsN old 5 0)
  let sz' := if sz < 24 ∨ 32 < sz ∨ en then bitsN old 5 0 else sz
  let s := if bad then s.orReg .tr 0 0x118 2 else s
  let s := s.setReg .tr 0 0x108 (BitVec.ofNat 32 (setBitsN (2 ^ 16 * (v % 2 ^ 31 / 2 ^ 16) + v / 256 % 2 * 256) 5 0 sz'))
  if bitN v 8 && !en then
    ((s.setTr { s.tr with w := 0, gather := [], d := 0, first := 0, last := 0, qs := [] }).setReg .tr 0 0x110 0).setReg .tr 0 0x114 0
  else s

/-- A write of TR_TAIL (R415): one that would pass TR_HEAD is ignored and sets CFG_ERR. -/
def State.trTailWrite (s : State) (v : Nat) : State :=
  let old := s.regN .tr 0 0x110
  if (v + 2 ^ 32 - old) % 2 ^ 32 ≤ (s.trHead + 2 ^ 32 - old) % 2 ^ 32 then s.setReg .tr 0 0x110 (BitVec.ofNat 32 v)
  else s.orReg .tr 0 0x118 2

def execTrCfgWrite (v : W32) (s : State) : Host.Outcome State Fault Refusal := .next (s.trCfgWrite v.toNat)
def execTrTailWrite (v : W32) (s : State) : Host.Outcome State Fault Refusal := .next (s.trTailWrite v.toNat)

end Sys2Proof.Machine
end

