-- ==== Sys2Proof/Machine/Qx.lean ====
section
/-! DEFINITION. The QX and MARK instructions and the publishing of layer digests (chapters "Rotation, Quantisation and
Requantisation", R73 to R83, and "Determinism, Replay and Observation", R411, R412). -/

namespace Sys2Proof.Machine

/-- Lines of a row of 4-byte elements. -/
def rowLen (r : Nat) : Nat := cdiv r 32

/-- Source row `i` of a QX, in consecutive lines from the line that SX names (R144; assumption 15). -/
def qxRow (s : State) (f line r i : Nat) : List W32 :=
  (List.range r).map (fun k => Vec.elem s.sram f (line + i * rowLen r) k)

/-- The output rows of one quantised row: the whole row, or one per segment (R82). -/
def qRows (qt g : Nat) (segs : List Quant.Seg) : List QRow :=
  segs.map (fun x => ⟨x.data, g, Quant.qbits qt, x.word⟩)

/-- The instruction smooths: it reads the vector c (R77). -/
def QxJob.smooth (j : QxJob) : Bool := Isa.pmode j.w == 2 || Isa.pmode j.w == 3

/-- The QX instruction at issue, with its operands (R144). -/
def QxJob.of (fl : Floret) (w : Nat) : QxJob :=
  { w := w, r := (fl.s (Isa.sr w)).toNat, line := (fl.s (Isa.sx w)).toNat, cline := (fl.s (Isa.scv w)).toNat
    seedLo := (fl.s (Isa.sseed w)).toNat, seedHi := (fl.s (Isa.sseed w + 1)).toNat, row := 0 }

/-- Rotate and quantise the next row of an instruction (R73 to R81): its segments and the flags. -/
def QxJob.next (j : QxJob) (s : State) (f : Nat) : List Quant.Seg × W32 :=
  let fl := s.fl f
  let g := if Isa.gexp j.w = 0 then j.r else 2 ^ Isa.gexp j.w
  let cs := if j.smooth then qxRow s f j.cline j.r 0 else []
  let y := Quant.pre fl.strict (Isa.pmode j.w) (Isa.lexp j.w) j.seedLo j.seedHi cs (qxRow s f j.line j.r j.row)
  let segs := Quant.quantRow fl.strict fl.c6 (Isa.qt j.w) g y.1
  (segs, segs.foldl (fun a x => a ||| x.flags) y.2)

/-- A poisoned line reaches the unit with the next row (R362). -/
def QxJob.poisoned (j : QxJob) (s : State) (f : Nat) : Bool :=
  let k := rowLen j.r
  Vec.anyBad s.sramBad f (j.line + j.row * k) k || (j.smooth && Vec.anyBad s.sramBad f j.cline k)

/-- The row has been passed on; after its last row the instruction leaves the queue (R137). -/
def Floret.tookRow (fl : Floret) (j : QxJob) (rows : List QRow) : Floret :=
  { fl with
    qxq := if j.row + 1 < Isa.qrows j.w then { j with row := j.row + 1 } :: fl.qxq.tail else fl.qxq.tail
    qx := if rows.isEmpty then fl.qx else fl.qx ++ [rows] }

/-- The oldest QX instruction passes its next row into a free row buffer of the quantiser (R78, R79, R83): none is free while
two rows wait to be emitted. Flags, counters and bytes follow. -/
def State.qxTake (s : State) (f : Nat) : Option State :=
  let fl := s.fl f
  match fl.qxq with
  | [] => none
  | j :: _ =>
    if 2 ≤ fl.qx.length then none
    else
      let x := j.next s f
      let bad := j.poisoned s f
      let k := rowLen j.r
      let g := if Isa.gexp j.w = 0 then j.r else 2 ^ Isa.gexp j.w
      let s := s.setFl f (fl.tookRow j (qRows (Isa.qt j.w) g x.1))
      let s := s.cnt .fl f Off.nbRd (128 * (k + (if j.smooth && j.row == 0 then k else 0)))
      let s := s.fpFlags f x.2
      let s := if x.1.any (·.nonfin) then s.orReg .fl f Off.qxStat 4 else s
      let s := if x.1.any (·.zero) then s.orReg .fl f Off.qxStat 8 else s
      let s := (s.addReg .fl f Off.qzSegCnt x.1.length).addReg .fl f Off.qzZeroCnt (x.1.filter (·.zero)).length
      some (if bad then s.flFault f Code.poisonUse 0 else s)

/-- Close the open digest interval and open the next (R411). -/
def Floret.closeIval (fl : Floret) (id : W32) : Floret :=
  { fl with ivals := fl.ivals.dropLast ++ [{ fl.openIval with closed := true, markId := id }, Interval.empty] }

/-- MARK (R411, R412): with DIG set it holds while four closed intervals wait. -/
def execMark (f : FloretId) (s : State) : Ans :=
  .next (s.issue f.val 0x38 (fun w =>
    let fl := s.fl f.val
    if bitN w 54 && decide (5 ≤ fl.ivals.length) then s
    else
      let s := if bitN w 54 then s.setFl f.val (fl.closeIval (BitVec.ofNat 32 w)) else s
      let s := if bitN w 53 then
          s.traceFl f.val 0x04 0 (bitsN w 31 0 + 2 ^ 32 * (fl.s (bitsN w 50 46)).toNat)
        else s
      s.retire f.val true))

/-- DIGEST_PUBLISH: the oldest closed interval, once every line of its DIGEST descriptors has completed (R411, R425). -/
def execDigestPublish (f : FloretId) (s : State) : Ans :=
  .next (
    let fl := s.fl f.val
    match fl.ivals with
    | v :: rest =>
      if v.closed && v.done == v.descs then
        let s := s.setFl f.val { fl with ivals := rest, ival0 := fl.ival0 + 1 }
        let s := s.setReg .fl f.val Off.digLo (BitVec.ofNat 32 v.sum)
        let s := s.setReg .fl f.val Off.digHi (BitVec.ofNat 32 (v.sum / 2 ^ 32))
        let s := s.setReg .fl f.val Off.digId v.markId
        let s := s.setReg .fl f.val Off.digInfo (BitVec.ofNat 32 (min v.lines (2 ^ 31 - 1) + (if v.poison then 2 ^ 31 else 0)))
        let s := s.addReg .fl f.val Off.digCnt 1
        s.traceFl f.val 0x05 (b2n v.poison) (v.sum % 2 ^ 64 + 2 ^ 64 * v.markId.toNat + 2 ^ 96 * (v.lines % 2 ^ 32))
      else s
    | [] => s)

end Sys2Proof.Machine
end

