-- ==== Sys2Proof/Machine/Engines.lean ====
section
/-! DEFINITION. The access engines (chapters "Stage Programs and Access Engines", R164 to R171, R486; "Near Banks, Umbel
Buffers and Spatial Pipelines", R185 to R188; "Visibility and Ordering", R228 to R247): descriptor fields, where lines come
from and go to, completion, counting, loss. The copy engine of the front end moves its lines in the same way (R254). -/

namespace Sys2Proof.Machine

/-! Descriptor fields (R165, R167, R186, R409). -/
namespace D
def kind (w : Nat) : Nat := bitsN w 3 0
def feedDst (w : Nat) : Bool := bitN w 4
def feed (w : Nat) : Nat := bitsN w 8 5
def patch (w : Nat) : Bool := bitN w 9
def xpose (w : Nat) : Nat := bitsN w 11 10
def cntBytes (w : Nat) : Bool := bitN w 12
def tallyEn (w : Nat) : Bool := bitN w 13
def digest (w : Nat) : Bool := bitN w 14
def count (w : Nat) : Nat := bitsN w 31 16
def tally (w : Nat) : Nat := bitsN w 63 32
def addrA (w : Nat) : Nat := bitsN w 115 64
def stride (w : Nat) : Nat := bitsN w 159 128
def dstNb (w : Nat) : Nat := bitsN w 206 192
def nb (w : Nat) : Nat := bitsN w 142 128
def acc (w : Nat) : Nat := bitsN w 130 128
def pair (w : Nat) : Bool := bitN w 131
def osh (w : Nat) : Int := sext 7 (bitsN w 138 132)
def dfmt (w : Nat) : Nat := bitsN w 141 139
def hi (w : Nat) : Bool := bitN w 142
def scale (w : Nat) : Bool := bitN w 143
def kv (w : Nat) : Bool := bitN w 128
def slot (w : Nat) : Nat := bitsN w 141 136
def ring (w : Nat) : Nat := bitsN w 191 160
def value (w : Nat) : Nat := bitsN w 255 224
/-! Umbel DMA (R186). -/
def addrB (w : Nat) : Nat := bitsN w 169 128
/-- Multicast mask of a data kind; ALLOC and FREE hold the owner there. -/
def flmask (w : Nat) : Nat := if kind w = 9 ∨ kind w = 10 then 0 else bitsN w 191 176
def owner (w : Nat) : Nat := bitsN w 191 176
def dring (w : Nat) : Nat := bitsN w 207 192
def roff (w : Nat) : Nat := bitsN w 223 208
/-! Copy engine: destination and multicast tree of a command in this form. -/
def dst (w : Nat) : Nat := bitsN w 179 128
def tree (w : Nat) : Nat := bitsN w 198 192
end D

/-! Engines by agent. -/

def State.eng (s : State) : Agent → Eng
  | .load f => (s.fl f.val).le
  | .store f => (s.fl f.val).se
  | .dma u c => ((s.um u.val).chan c.val).eng
  | .copy => s.fe.copyEng
  | _ => Eng.reset

def State.setEng (s : State) (g : Agent) (x : Eng) : State :=
  match g with
  | .load f => s.modFl f.val (fun fl => { fl with le := x })
  | .store f => s.modFl f.val (fun fl => { fl with se := x })
  | .dma u c => s.modUm u.val (fun um => um.setChan c.val { um.chan c.val with eng := x })
  | .copy => { s with fe := { s.fe with copyEng := x } }
  | _ => s

def State.modEng (s : State) (g : Agent) (h : Eng → Eng) : State := s.setEng g (h (s.eng g))

/-- The engine's unit is present and out of reset. -/
def State.engOn (s : State) : Agent → Bool
  | .load f => s.flOn f.val
  | .store f => s.flOn f.val
  | .dma u _ => !(s.um u.val).held && !s.pw.trip
  | .copy => true
  | _ => false

/-- Floret and umbel for which SELF stands in the agent's tally references (R152). -/
def agentFl : Agent → Option Nat
  | .load f => some f.val
  | .store f => some f.val
  | .seq f => some f.val
  | _ => none

def agentUm : Agent → Option Nat
  | .load f => some (f.val / 16)
  | .store f => some (f.val / 16)
  | .seq f => some (f.val / 16)
  | .dma u _ => some u.val
  | .dd u => some u.val
  | _ => none

/-- Flow and generation of the packets of a unit's agents (R316): its launch's, and the front end's outside a launch
(assumption 17). -/
def State.flowAt (s : State) (src : Nat) : Nat × Nat := (s.launchOf src).getD (66, 0)

/-- Flow, generation and sampled DET of an agent's packets (R308, R316, R403; assumption 17). -/
def State.flowOf (s : State) (g : Agent) : Nat × Nat × Bool :=
  match g with
  | .copy => (64, 0, false)
  | .umc => (65, 0, false)
  | _ =>
    let fw := s.flowAt (reqOf g).src
    (fw.1, fw.2, match agentFl g with
      | some f => (s.fl f).det
      | none => false)

def isLoad : Agent → Bool
  | .load _ => true
  | _ => false

def Eng.desc (x : Eng) (d : Nat) : Option Desc := x.fly.find? (fun q => q.id = d)

def State.modDesc (s : State) (g : Agent) (d : Nat) (h : Desc → Desc) : State :=
  s.modEng g (fun x => { x with fly := x.fly.map (fun q => if q.id = d then h q else q) })

/-! Where lines come from. -/

/-- Lines of one tile of a descriptor's kind. -/
def tileLines (w : Nat) : Nat := if D.kind w = 1 ∨ D.kind w = 3 then 33 else 1

/-- A local address of this device as a global one. -/
def State.own (s : State) (a : Nat) : Nat := 2 ^ 42 * s.devId + a % 2 ^ 42

/-- Lines of the list that a DMA descriptor reads before its own: addresses of a GATHER, indices of a FREE (R182, R186). They
are numbered after the descriptor's lines. -/
def Desc.listLines (d : Desc) : Nat :=
  if D.kind d.w = 3 ∧ d.dest = [] then cdiv (D.count d.w) 16 else if D.kind d.w = 10 then cdiv (D.count d.w) 64 else 0

/-- The address that line `i` of a descriptor is read from; none while a GATHER's list line has not come. -/
def State.srcOf (s : State) (g : Agent) (d : Desc) (i : Nat) : Option Nat :=
  let w := d.w
  let n := tileLines w
  let strided (st : Nat) : Nat := addLines (D.addrA w) (d.off + i / n * (if st = 0 then n else st) + i % n)
  let gather : Option Nat :=
    if d.lines ≤ i then some (addLines (D.addrA w) (d.off + (i - d.lines)))
    else match SMap.get 0 d.dest (i / n) with
    | 0 =>
      if bitN d.ret (d.lines + i / n / 16) then
        (SMap.get none d.data (d.lines + i / n / 16)).map (fun h => addLines ((lineW64 h.line (i / n % 16)).toNat % 2 ^ 52) (i % n))
      else none
    | a + 1 => some (addLines (a % 2 ^ 52) (i % n))
  match g with
  | .load _ => if D.kind w = 3 then gather else some (strided (D.stride w))
  | .store f => some (s.own (Vec.nbLine f.val (D.nb w + i)))
  | .dma _ _ =>
    if D.kind w = 3 then gather
    else if D.kind w = 10 then some (addLines (D.addrA w) (d.off + i))
    else some (strided (D.value w))
  | .copy => some (addLines (D.addrA w) i)
  | _ => none

/-! Where lines go. -/

/-- Slots that one tile of a feed-destined load takes. -/
def slotsPerTile (bl : Nat) : Nat := cdiv 33 bl

/-- Slots that the whole load takes (R157; assumption 18). -/
def loadSlots (w bl : Nat) : Nat := if tileLines w = 1 then cdiv (D.count w) bl else D.count w * slotsPerTile bl

/-- Feed slot number and line within it of line `i` of a feed-destined load. -/
def feedPos (d : Desc) (bl i : Nat) : Nat × Nat :=
  if tileLines d.w = 1 then (d.slot0 + i / bl, i % bl)
  else (d.slot0 + i / 33 * slotsPerTile bl + i % 33 / bl, i % 33 % bl)

/-- Line `n` of a store destination (R164, R167): within the ring where RING is not zero (assumption 18). -/
def storeAddr (d : Desc) (n : Nat) : Nat :=
  let k := d.off + n
  addLines (D.addrA d.w) (if D.ring d.w = 0 then k else k % D.ring d.w)

/-- Destination addresses of line `i` (global); several only for a DMA multicast (R187). -/
def State.dstOf (s : State) (g : Agent) (d : Desc) (i : Nat) : List Nat :=
  let w := d.w
  match g with
  | .load f =>
    if D.feedDst w then
      let fd := (s.fl f.val).feed (D.feed w)
      let p := feedPos d fd.bl i
      [s.own (Vec.nbLine f.val (fd.base + fd.index p.1 * fd.bl + p.2))]
    else [s.own (Vec.nbLine f.val (D.dstNb w + i))]
  | .store _ =>
    [storeAddr d (if D.kind w = 8 then SMap.get 0 d.dest i else i)]
  | .dma u _ =>
    let n := if D.dring w = 0 then i else (D.roff w + i) % D.dring w
    let base := if D.dring w = 0 then D.addrB w else D.addrB w - D.roff w * 128
    let a := base + n * 128
    if D.flmask w = 0 then [s.own a]
    else (((List.range 16).filter (fun k => bitN (D.flmask w) k)).map (fun k =>
      s.own (0x10000000000 + 0x400000 * (16 * u.val + k) + a % 0x400000)))
  | .copy => [addLines (D.dst w) i]
  | _ => []

/-- A feed-destined line may be read: its slot is not occupied (R157, R168). -/
def State.slotFree (s : State) (g : Agent) (d : Desc) (i : Nat) : Bool :=
  match g with
  | .load f =>
    if D.feedDst d.w then
      let fd := (s.fl f.val).feed (D.feed d.w)
      decide (fd.slots ≠ 0) && decide ((feedPos d fd.bl i).1 < fd.released + fd.slots)
    else true
  | _ => true

/-! The data of a line. -/

/-- Lines of a transposed block and bits of an element (R170). -/
def xposeBlock (x : Nat) : Nat × Nat := if x = 1 then (32, 32) else if x = 2 then (128, 8) else (256, 4)

/-- The data that line `i` writes; none until it, or its whole transposed block, has come. -/
def Desc.lineData (d : Desc) (i : Nat) : Option Held :=
  let x := if D.kind d.w = 2 then D.xpose d.w else 0
  if x = 0 then
    (if bitN d.ret i then SMap.get none d.data i else none)
  else
    let b := xposeBlock x
    let r0 := i / b.1 * b.1
    let hs := (List.range b.1).map (fun r => if bitN d.ret (r0 + r) then SMap.get none d.data (r0 + r) else none)
    if hs.all (·.isSome) then
      some ⟨lineOf b.2 (hs.map (fun h => match h with
              | some y => bitsN y.line.toNat (b.2 * (i % b.1) + b.2 - 1) (b.2 * (i % b.1))
              | none => 0)),
            hs.any (fun h => match h with
              | some y => y.poison
              | none => false), fullMask⟩
    else none

/-- Lines of a descriptor whose reads have begun and that are not yet written, and list lines not yet come. -/
def Desc.reading (d : Desc) : Nat :=
  popN d.lines (d.rd &&& (d.rd ^^^ d.dn)) + popN d.listLines ((d.rd &&& (d.rd ^^^ d.ret)) / 2 ^ d.lines)

/-- Line reads outstanding, lines in flight (R168, R169): begun, wherever their data still is, and not yet written. -/
def Eng.outstanding (x : Eng) : Nat := sumN (x.fly.map Desc.reading)

/-! Completion. -/

/-- Add to the tally that counts an engine's completed descriptors (R151, R195). -/
def State.countDesc (s : State) (g : Agent) : State :=
  match g with
  | .load f => (s.modFl f.val (fun fl => fl.setTally 48 (fl.tally 48 + 1))).progress f.val
  | .store f => (s.modFl f.val (fun fl => fl.setTally 49 (fl.tally 49 + 1))).progress f.val
  | .dma u c => s.addReg .ub u.val (Off.dmaDone + 16 * c.val) 1
  | _ => s

/-- An interval of a floret by number. -/
def Floret.modIval (fl : Floret) (n : Nat) (h : Interval → Interval) : Floret :=
  let k := n - fl.ival0
  if n < fl.ival0 ∨ fl.ivals.length ≤ k then fl
  else { fl with ivals := fl.ivals.set k (h (fl.ivals.getD k Interval.empty)) }

/-- Every line of a descriptor has completed, and no row is still to come. -/
def Desc.finished (d : Desc) : Bool :=
  let k := D.kind d.w
  (if k = 7 then decide (d.rowsRead = 32) else if k = 8 then decide (d.rowsRead = D.count d.w) else true)
  && decide (popN d.lines d.dn = d.lines)

/-- The feed whose slots a load's patch requests name (R106, R161). -/
def D.patchFeed (w : Nat) : Nat := if D.feedDst w then D.feed w + 1 else D.feed w

/-- A load of weight tiles with patch requests still to send, to a patch feed (R106, R161). -/
def Floret.patchLeft (fl : Floret) (d : Desc) : Bool :=
  D.patch d.w && (D.kind d.w == 1 || D.kind d.w == 3) && decide (d.asked < D.count d.w) && (fl.feed (D.patchFeed d.w)).patch

/-- The descriptor has patch requests to send. -/
def State.patchLeft (s : State) (g : Agent) (d : Desc) : Bool :=
  match g with
  | .load f => (s.fl f.val).patchLeft d
  | _ => false

/-- The engine stops after a loss (R244): bits, event, fault. The copy engine only ends the command concerned (R315). -/
def State.engLoss (s : State) (g : Agent) (write : Bool) : State :=
  let s := match g with
    | .copy => s
    | _ => s.modEng g (fun x => { x with stopped := true, lossStop := true })
  match g with
  | .load f => (s.sticky .fl f.val Off.ordStat (if write then 0 else 1) (some 18)).flFault f.val Code.lineLoss 0
  | .store f => (s.sticky .fl f.val Off.ordStat 0 (some 18)).flFault f.val Code.lineLoss 0
  | .dma u c => (s.sticky .ub u.val Off.dmaLoss c.val (some 18)).report Code.lineLoss (0x200 + u.val) 0 0
  | _ => s

/-- Count a lost line in the writer's or reader's counter (R246, R247). -/
def State.countLoss (s : State) (g : Agent) (write : Bool) : State :=
  match g with
  | .load f => s.addReg .fl f.val (if write then Off.wrLossCnt else Off.rdLossCnt) 1
  | .store f => s.addReg .fl f.val Off.wrLossCnt 1
  | .dma u _ => s.setField .ub u.val Off.dmaLoss 31 16 (bitsN (s.regN .ub u.val Off.dmaLoss) 31 16 + 1)
  | .dd u => s.setField .ub u.val Off.dmaLoss 31 16 (bitsN (s.regN .ub u.val Off.dmaLoss) 31 16 + 1)
  | _ => s

/-- How a signal of a queue leaves. -/
inductive SigOut where
  | done
  | waits
  | lost
  deriving DecidableEq, Repr

/-- Perform a SIGNAL descriptor (R166, R235, R308). -/
def State.doSignal (s : State) (g : Agent) (d : Desc) : SigOut × State :=
  let v := BitVec.ofNat 32 (D.value d.w)
  let r := s.tallyAdd (reqOf g) (agentFl g) (agentUm g) (D.tally d.w) v
  match r.1 with
  | .done => (.done, r.2)
  | .lost => (.lost, r.2)
  | .remote dev =>
    let fw := s.flowOf g
    let i := r.2.inject g .sigDesc d.id 0 fw.1 fw.2.1 dev 0 fw.2.2
      (.signal (BitVec.ofNat 32 (refForRemote (agentFl g) (agentUm g) (D.tally d.w))) v)
    match i.1 with
    | .noRoute => (.lost, i.2)
    | _ => (.waits, i.2)

/-- An END that arrives at a near-bank address (R166): lost at a unit in reset (R244), an address error where it names no near
bank of a present floret. -/
def State.endTo (s : State) (q : Req) (a e : Nat) : SigOut × State :=
  match s.placeOf a with
  | .nb f => if s.umShut (f / 16) then (.lost, s) else (.done, (s.ungate (f / 16)).endFeed f e)
  | _ => (.done, s.addrErr q a true)

/-- FEED_END_MARKER: a marker sent by the floret's own load queue arrives; at a unit in reset it is lost to that queue (R244). -/
def execFeedEndMarker (f : FloretId) (e : FeedId) (s : State) : Ans :=
  .next (
    let fl := s.fl f.val
    if bitN fl.ends e.val then
      let s := s.setFl f.val { fl with ends := setBitN fl.ends e.val false }
      if s.umShut (f.val / 16) then s.engLoss (.load f) true else s.endFeed f.val e.val
    else s)

/-- Perform an END descriptor. -/
def State.doEnd (s : State) (g : Agent) (d : Desc) : SigOut × State :=
  let e := D.feed d.w
  match g with
  | .load f => (.done, s.modFl f.val (fun fl => { fl with ends := setBitN fl.ends e true }))
  | .dma u _ =>
    if D.flmask d.w ≠ 0 then
      (List.range 16).foldl (fun (acc : SigOut × State) k =>
        if bitN (D.flmask d.w) k then
          let r := acc.2.endTo (reqOf g) (0x10000000000 + 0x400000 * (16 * u.val + k)) e
          (if r.1 = .lost then .lost else acc.1, r.2)
        else acc) (.done, s)
    else
      let a := addLines (D.addrA d.w) d.off
      if s.isOwn a then s.endTo (reqOf g) (localOf a) e
      else
        let fw := s.flowOf g
        let i := s.inject g .endDesc d.id 0 fw.1 fw.2.1 (devOf a) (localOf a) fw.2.2 (.endMark (localOf a) e)
        (match i.1 with
          | .noRoute => .lost
          | _ => .waits, i.2)
  | _ =>
    let a := addLines (D.addrA d.w) d.off
    if s.isOwn a then s.endTo (reqOf g) (localOf a) e
    else
      let fw := s.flowOf g
      let i := s.inject g .endDesc d.id 0 fw.1 fw.2.1 (devOf a) (localOf a) fw.2.2 (.endMark (localOf a) e)
      (match i.1 with
        | .noRoute => .lost
        | _ => .waits, i.2)

/-- Remove a completed descriptor and count it; its digest interval counts it as well (R411). -/
def State.complete (s : State) (g : Agent) (d : Desc) : State :=
  let s := s.modEng g (fun x => { x with fly := x.fly.filter (fun q => q.id ≠ d.id) })
  let s := match g with
    | .store f => if D.digest d.w then s.modFl f.val (fun fl => fl.modIval d.dig (fun v => { v with done := v.done + 1 })) else s
    | _ => s
  s.countDesc g

/-- SIGNAL and END descriptors at the front of those started act in turn, when every earlier descriptor has completed
(R169); a stopped engine sends none (R244). `sent` marks one that awaits a remote answer. -/
def State.cascade : Nat → State → Agent → State
  | 0, s, _ => s
  | n + 1, s, g =>
    let x := s.eng g
    match x.fly with
    | d :: _ =>
      let k := D.kind d.w
      if x.stopped || d.sent != 0 || (k != 5 && k != 6) then s
      else
        let r := if k = 5 then s.doSignal g d else s.doEnd g d
        match r.1 with
        | .done => State.cascade n (r.2.complete g d) g
        | .waits => r.2.modDesc g d.id (fun q => { q with sent := 1 })
        | .lost => (r.2.complete g d).engLoss g true
    | [] => s

/-- Put formed lines into a descriptor; `n` is each line's distance from ADDR_A. -/
def Desc.form (d : Desc) (ls : List (Nat × Nat × Line × Nat)) : Desc :=
  ls.foldl (fun d x =>
    { d with data := SMap.put none d.data x.1 (some ⟨x.2.2.1, false, x.2.2.2⟩), dest := SMap.put 0 d.dest x.1 x.2.1
             rd := setBitN d.rd x.1 true, ret := setBitN d.ret x.1 true }) d

/-! QOUT (R82, R83, R167). -/

/-- The lines that quantiser row `k` of a QOUT gives, with the words of its row group: (distance from ADDR_A, line, mask). A
group ends early where COUNT ends: the descriptor's last row is the last that its producer gives (DEDUCED, assumption 32). In
the last tile of a row the data line is written as far as the row reaches: where R is no multiple of the tile's columns the
bytes beyond it keep what they held (DESIGN CHOICE, assumption 35). -/
def qoutOut (w k : Nat) (row : QRow) (words : List Nat) : List (Nat × Line × Nat) :=
  if D.kv w then
    let t := D.slot w + k
    [(t / 2, BitVec.ofNat 1024 (row.data % 2 ^ 512 * 2 ^ (512 * (t % 2))), (2 ^ 64 - 1) * 2 ^ (64 * (t % 2))),
     (32, BitVec.ofNat 1024 (row.word % 2 ^ 16 * 2 ^ (16 * t)), 3 * 2 ^ (2 * t))]
  else
    let bytes := cdiv (row.width * row.bits) 8
    let n := cdiv bytes 128
    let q := k / 32
    let r := k % 32
    let data := (List.range n).map (fun t =>
      ((q * n + t) * 33 + r, BitVec.ofNat 1024 (row.data / 2 ^ (1024 * t)), 2 ^ (min 128 (bytes - 128 * t)) - 1))
    if r = 31 ∨ k + 1 = D.count w then
      data ++ (List.range n).map (fun t => ((q * n + t) * 33 + 32, lineOf 16 words, fullMask))
    else data

/-- The oldest row of the quantiser's output. -/
def Floret.popRow (fl : Floret) : Option (QRow × Floret) :=
  match fl.qx with
  | [] => none
  | [] :: rest => match rest with
    | [] => none
    | rs :: more => match rs with
      | [] => none
      | r :: tl => some (r, { fl with qx := if tl.isEmpty then more else tl :: more })
  | (r :: tl) :: rest => some (r, { fl with qx := if tl.isEmpty then rest else tl :: rest })

/-- A QOUT descriptor takes the oldest row of the quantiser, while the store engine has room (R83). -/
def State.qoutTake (s : State) (f : FloretId) : Option State :=
  let fl := s.fl f.val
  match fl.se.fly.find? (fun d => D.kind d.w == 8 && decide (d.rowsRead < D.count d.w)), fl.popRow with
  | some d, some (row, fl') =>
    let k := d.rowsRead
    let words := (if k % 32 = 0 then [] else d.words) ++ [row.word]
    let out := qoutOut d.w k row words
    if 1024 < fl.se.outstanding + out.length ∧ fl.se.outstanding ≠ 0 then none
    else
      let ls := (List.range out.length).map (fun i =>
        let x := out.getD i (0, 0, 0); (d.lines + i, x.1, x.2.1, x.2.2))
      let s := s.setFl f.val fl'
      some (s.modDesc (.store f) d.id (fun q =>
        { (q.form ls) with rowsRead := k + 1, words := words, lines := d.lines + out.length }))
  | _, _ => none

/-- The quantiser runs until nothing moves: rows go out to QOUT descriptors, and the QX unit takes rows into the buffers that
this frees (R78, R79, R83). What it cannot pass on it holds, in order. -/
def State.qoutPull : Nat → State → FloretId → State
  | 0, s, _ => s
  | n + 1, s, f =>
    match s.qoutTake f with
    | some t => State.qoutPull n t f
    | none =>
      match s.qxTake f.val with
      | some t => State.qoutPull n t f
      | none => s

/-- Moves that the quantiser can make at most: segments held, rows to take and the segments they give. -/
def Floret.qxRows (fl : Floret) : Nat :=
  sumN (fl.qx.map (·.length)) + sumN (fl.qxq.map (fun j => Isa.qrows j.w * (j.r + 2)))

def State.pullQout (s : State) (f : FloretId) : State := State.qoutPull ((s.fl f.val).qxRows + 1) s f

/-- A line of a store has ended: the quantiser's output that waits for room goes on (R83). -/
def State.roomMade (s : State) (g : Agent) : State :=
  match g with
  | .store f => s.pullQout f
  | _ => s

/-- After a line or a patch request: a finished descriptor completes, and signals behind it act. -/
def State.settle (s : State) (g : Agent) (id : Nat) : State :=
  match g with
  | .copy => s
  | _ =>
    let s := s.roomMade g
    match (s.eng g).desc id with
    | some d =>
      if d.finished && !s.patchLeft g d && D.kind d.w != 5 && D.kind d.w != 6 && !(D.kind d.w == 10) then
        State.cascade ((s.eng g).fly.length + 1) (s.complete g d) g
      else s
    | none => s

/-! Counting a completed line. -/

/-- The line's count (R153): 1, or its bytes. -/
def lineCount (w mask : Nat) : W32 := if D.cntBytes w then BitVec.ofNat 32 (popN 128 mask) else 1

/-- Add the line to its digest interval (R409, R410). -/
def State.digestLine (s : State) (g : Agent) (d : Desc) (i : Nat) (h : Held) : State :=
  match g with
  | .store f =>
    if D.digest d.w then
      s.modFl f.val (fun fl => fl.modIval d.dig (fun v =>
        { v with sum := digestAdd v.sum (lineHash d.digK i (maskLine h.line h.mask) h.poison), lines := v.lines + 1
                 poison := v.poison || h.poison }))
    else s
  | _ => s

/-- Add `v` to tally reference `ref` for line `i` of `d` (R153, R235); a tally of another device gets a SIGNAL packet. Gives
whether the count was lost. -/
def State.countRef (s : State) (g : Agent) (d i ref : Nat) (f u : Option Nat) (v : W32) : Bool × State :=
  let r := s.tallyAdd (reqOf g) f u ref v
  match r.1 with
  | .done => (false, r.2)
  | .lost => (true, r.2)
  | .remote dev =>
    let fw := s.flowOf g
    let x := r.2.inject g .tallyCount d i fw.1 fw.2.1 dev 0 fw.2.2 (.signal (BitVec.ofNat 32 (refForRemote f u ref)) v)
    match x.1 with
    | .noRoute => (true, x.2)
    | _ => (false, x.2)

/-- Count a completed line on the descriptor's tally. -/
def State.countTally (s : State) (g : Agent) (d : Desc) (i mask : Nat) : Bool × State :=
  if !D.tallyEn d.w then (false, s)
  else s.countRef g d.id i (D.tally d.w) (agentFl g) (agentUm g) (lineCount d.w mask)

/-- A line has completed for its writer. -/
def State.lineDone (s : State) (g : Agent) (d : Desc) (i : Nat) : State :=
  let s := s.modDesc g d.id (fun q => { q with dn := setBitN q.dn i true, data := if D.xpose q.w = 0 then SMap.put none q.data i none else q.data })
  let s := match g with
    | .load f => s.addReg .fl f.val Off.leLines 1
    | .store f => s.addReg .fl f.val Off.seLines 1
    | _ => s
  s.settle g d.id

/-- A line has completed at its destination: digest and tally, then completion. Where the count is lost (R312) the engine
stops first, so that no SIGNAL behind the line leaves (R315). -/
def State.lineCounted (s : State) (g : Agent) (d : Desc) (i : Nat) (h : Held) (tally : Bool) : State :=
  let s := s.digestLine g d i h
  let r := if tally then s.countTally g d i h.mask else (false, s)
  let s := if r.1 then (r.2.modDesc g d.id (fun q => { q with lost := setBitN q.lost i true })).engLoss g true else r.2
  s.lineDone g d i

def State.markLost (s : State) (g : Agent) (d i : Nat) : State := s.modDesc g d (fun q => { q with lost := setBitN q.lost i true })

/-! Reads. -/

/-- The bytes of a line, in increasing address. -/
def lineBytes (l : Line) : List Byte := (List.range 128).map (fun i => BitVec.ofNat 8 (lineByte l i))

/-- A line that the copy engine has read for a command with CKEY not zero decrypts before it is written here (R399); its
multicast copies stay encrypted (R400). -/
def State.ckLine (s : State) (d i : Nat) (l : Line) : Line :=
  match s.fe.copies.find? (fun c => c.id = d) with
  | none => l
  | some c =>
    let k := bitsN c.w 387 384
    let base := if bitsN c.w 7 0 = 9 then
        SMap.get 0 (SMap.get WSet.empty s.fe.wsets (bitsN c.w 203 200)).off (bitsN c.w 217 208) / 128
      else 0
    match (if k = 0 then none else SMap.get none s.sec.cks (k - 1)) with
    | none => l
    | some ck => lineOf 8 ((Config.aesDec ck.key (base + i) (lineBytes l)).map (·.toNat))

/-- Put the data of a line where its engine holds it. -/
def State.holdLine (s : State) (g : Agent) (d i : Nat) (l : Line) (p : Bool) : State :=
  s.modDesc g d (fun q => { q with rd := setBitN q.rd i true, data := SMap.put none q.data i (some ⟨l, p, fullMask⟩) })

/-- Line `j` of `d` goes to one of the lines `as` and is neither lost nor among `took`. -/
def State.owes (s : State) (g : Agent) (as : List Nat) (took : Desc → Nat) (d : Desc) (j : Nat) : Bool :=
  !bitN (took d) j && !bitN d.lost j && (s.dstOf g d j).any as.contains

/-- Every earlier line that the engine writes to the destination of line `i` is among `took`: descriptors in the order in which
they started, their lines by number (R232; DEDUCED, assumption 19). -/
def State.inTurn (s : State) (g : Agent) (took : Desc → Nat) (d : Desc) (i : Nat) : Bool :=
  let as := s.dstOf g d i
  decide (d.lines ≤ i) ||
    (!((s.eng g).fly.takeWhile (fun q => q.id ≠ d.id)).any (fun q => (List.range q.lines).any (s.owes g as took q))
      && !(List.range i).any (s.owes g as took d))

/-- The line has still to be read. -/
def State.readable (s : State) (g : Agent) (d : Desc) (i : Nat) : Bool :=
  s.engOn g && !(s.eng g).stopped && decide (i < d.lines + d.listLines) && !bitN d.rd i && !bitN d.lost i
    && s.slotFree g d i && decide ((s.eng g).outstanding < 1024) && s.inTurn g Desc.rd d i
    && ((decide (1 ≤ D.kind d.w) && decide (D.kind d.w ≤ 3)) || D.kind d.w == 10)

/-- Read line `i` of a started descriptor (R168, R228, R230, R244): a local line now, a remote one by a READ packet. Host
lines are split transactions, taken by HOST_WINDOW_ACCESS. -/
def State.engRead (io : RegIO) (s : State) (g : Agent) (id i : Nat) (e : Ecc) : State :=
  match (s.eng g).desc id with
  | none => s
  | some d =>
    if !s.readable g d i then s
    else match s.srcOf g d i with
    | none => s
    | some a =>
      if s.isOwn a then
        if s.placeOf (localOf a) = .host then s
        else
          let r := s.readLocal io (reqOf g) (localOf a) e
          match r.1 with
          | .line l p => r.2.holdLine g id i l p
          | .lost => r.2.modDesc g id (fun q => { q with rd := setBitN q.rd i true, lost := setBitN q.lost i true })
          | .held => s
      else
        let fw := s.flowOf g
        let x := s.inject g .line id i fw.1 fw.2.1 (devOf a) (localOf a) fw.2.2 (.read (localOf a))
        match x.1 with
        | .noRoute => x.2.modDesc g id (fun q => { q with rd := setBitN q.rd i true, lost := setBitN q.lost i true })
        | _ => x.2.modDesc g id (fun q => { q with rd := setBitN q.rd i true })

/-- The data of line `i` reaches the engine (R168); a list line that comes poisoned is a use of poison (R362). -/
def State.engReturn (s : State) (g : Agent) (id i : Nat) : State :=
  match (s.eng g).desc id with
  | none => s
  | some d =>
    if s.engOn g && bitN d.rd i && (SMap.get none d.data i).isSome && !bitN d.ret i then
      let s := s.modDesc g id (fun q => { q with ret := setBitN q.ret i true })
      if decide (d.lines ≤ i) && (match SMap.get none d.data i with
          | some h => h.poison
          | none => false) then s.report Code.poisonUse (reqOf g).src 0 0
      else s
    else s

/-! Writes. -/

/-- Any destination of the line is a line of a feed. -/
def State.toFeed (s : State) (g : Agent) (d : Desc) (i : Nat) : Bool :=
  (s.dstOf g d i).any (fun a => s.isOwn a && (match s.placeOf (localOf a) with
    | .nb f => (s.fl f).feedLines ((localOf a / 128) % 32768) != []
    | _ => false))

/-- Whether the line's tally lies on device `dev`, so that its count travels with the line (R235). -/
def State.tallyOn (s : State) (g : Agent) (w dev : Nat) : Bool :=
  D.tallyEn w && (match s.tref (agentFl g) (agentUm g) (D.tally w) with
    | .remote x => x == dev
    | _ => dev == s.devId)

/-- The descriptor writes to several florets (R187). -/
def isCast (g : Agent) (w : Nat) : Bool :=
  match g with
  | .dma _ _ => D.flmask w != 0
  | _ => false

/-- Write one line of a multicast to one floret (R187): its own tally of the named index counts it. -/
def State.castLine (io : RegIO) (s : State) (g : Agent) (d : Desc) (h : Held) (a : Nat) (e : Ecc) : Bool × State :=
  let r := s.writeLocal io (reqOf g) (localOf a) h.mask h.line h.poison e
  match r.1 with
  | .done =>
    if D.tallyEn d.w then
      let n := localOf a / 0x400000 % 512
      let t := r.2.tallyAdd (reqOf g) none none (n * 256 + bitsN (D.tally d.w) 7 0) (lineCount d.w h.mask)
      (t.1 == .lost, t.2)
    else (false, r.2)
  | .discarded => (false, r.2)
  | .lost => (true, r.2)
  | .held => (false, s)

/-- Write line `i` of a started descriptor to its destination (R229, R232, R244). -/
def State.engWrite (io : RegIO) (s : State) (g : Agent) (id i : Nat) (e : Ecc) : State :=
  match (s.eng g).desc id with
  | none => s
  | some d =>
    if !s.engOn g || decide (d.lines ≤ i) || bitN d.dn i || bitN d.sent i || bitN d.lost i
      || !s.inTurn g (fun q => q.dn ||| q.sent) d i then s
    else match d.lineData i with
    | none => s
    | some h0 =>
      let h : Held := match g with
        | .copy => { h0 with line := s.ckLine id i h0.line }
        | _ => h0
      if isCast g d.w then
        let r := (s.dstOf g d i).foldl (fun (acc : Bool × State) a =>
          let x := acc.2.castLine io g d h a e; (acc.1 || x.1, x.2)) (false, s)
        if r.1 then r.2.markLost g id i else r.2.lineDone g d i
      else
        let a := (s.dstOf g d i).headD 0
        if s.isOwn a then
          let r := s.writeLocal io (reqOf g) (localOf a) h.mask h.line h.poison e
          match r.1 with
          | .done => r.2.lineCounted g d i h true
          | .discarded => r.2.lineDone g d i
          | .lost => r.2.markLost g id i
          | .held => s
        else
          let fw := s.flowOf g
          let here := s.tallyOn g d.w (devOf a)
          let tl : Option W32 := if here then some (BitVec.ofNat 32 (refForRemote (agentFl g) (agentUm g) (D.tally d.w))) else none
          let x := s.inject g .line id i fw.1 fw.2.1 (devOf a) (localOf a) fw.2.2
            (.write (localOf a) h.mask h.line h.poison tl (D.cntBytes d.w))
          match x.1 with
          | .noRoute => x.2.markLost g id i
          | .closed => x.2.modDesc g id (fun q => { q with sent := setBitN q.sent i true })
          | .sent tok =>
            let t := x.2.modDesc g id (fun q => { q with sent := setBitN q.sent i true })
            if D.tallyEn d.w && !here then
              t.awaitCount tok (refForRemote (agentFl g) (agentUm g) (D.tally d.w)) (lineCount d.w h.mask)
            else t

/-- A remote line is acknowledged (R314, R235); one that its destination discarded is counted on no tally (R229). -/
def State.engAcked (s : State) (g : Agent) (id i dev : Nat) (discarded : Bool) : State :=
  match (s.eng g).desc id with
  | none => s
  | some d =>
    match d.lineData i with
    | some h => if discarded then s.lineDone g d i else s.lineCounted g d i h (!s.tallyOn g d.w dev)
    | none => s

/-- What a lost line takes with it: a list line of a GATHER the tiles that it names, any other line itself. -/
def Desc.lostWith (d : Desc) (i : Nat) : Nat :=
  if i < d.lines then 2 ^ i
  else
    let lo := min d.lines (528 * (i - d.lines))
    2 ^ i + (2 ^ (min d.lines (lo + 528)) - 2 ^ lo)

/-- A lost line is reported to its engine (R244): the line completes uncounted and the engine stops. A FREE whose list is not
whole frees nothing. -/
def State.engDrop (s : State) (g : Agent) (id i : Nat) : State :=
  match (s.eng g).desc id with
  | none => s
  | some d =>
    if bitN d.lost i && !bitN d.dn i then
      let wr := decide (i < d.lines) && (bitN d.ret i || decide (7 ≤ D.kind d.w))
      let a := if wr then (s.dstOf g d i).headD 0 else (s.srcOf g d i).getD 0
      let q := reqOf g
      let s := match g with
        | .copy => s
        | _ => s.logErr q.blk q.n 0x0F a q.src (b2n (!wr))
      let s := (s.countLoss g wr).engLoss g wr
      let k := d.lostWith i
      let s := s.modDesc g id (fun q => { q with rd := q.rd ||| k, dn := q.dn ||| k, data := SMap.put none q.data i none })
      if D.kind d.w = 10 then s.complete g d else s.settle g id
    else s

end Sys2Proof.Machine
end

