-- ==== Sys2Proof/Machine/Start.lean ====
section
/-! DEFINITION. Starting descriptors (R166 to R171, R186 to R188, R409, R486), and the rows that DRAIN and QOUT descriptors
take (R45, R82 to R88, R167). -/

namespace Sys2Proof.Machine

/-! Descriptor errors. -/

/-- A WAIT names a tally that its queue may wait on (R486; for a DMA channel R186): none of an absent floret (R10). -/
def State.waitAllowed (s : State) (g : Agent) (r : Nat) : Bool :=
  !bitN r 19 && (match g with
    | .dma u _ =>
      if bitN r 17 then bitN r 18 || bitsN r 12 8 == u.val
      else !bitN r 18 && bitsN r 16 8 / 16 == u.val && decide (bitsN r 7 0 < 64) && s.flPresent (bitsN r 16 8)
    | _ =>
      let f := (agentFl g).getD 0
      (bitN r 18 || (if bitN r 17 then bitsN r 12 8 == f / 16 else bitsN r 16 8 == f)) && (bitN r 17 || decide (bitsN r 7 0 < 64)))

/-- XPOSE is forbidden (R170). -/
def xposeBad (w : Nat) : Bool :=
  D.xpose w != 0 && (D.kind w != 2 || D.count w % (xposeBlock (D.xpose w)).1 != 0)

/-- A descriptor error of a floret's queue (R171) or of a DMA channel (R188). -/
def State.descBad (s : State) (g : Agent) (w : Nat) : Bool :=
  let k := D.kind w
  let waitBad := k == 4 && !s.waitAllowed g (D.tally w)
  match g with
  | .load _ =>
    decide (6 < k) || D.count w == 0 || waitBad || D.digest w || xposeBad w
  | .store f =>
    !(k == 0 || k == 2 || (decide (4 ≤ k) && decide (k ≤ 8))) || D.count w == 0 || waitBad || xposeBad w
    || (D.digest w && !(k == 2 || k == 7 || k == 8))
    || (k == 7 && (D.count w != 1 || (D.pair w && D.acc w % 2 == 1) || decide (5 < D.dfmt w)
        || (decide (D.dfmt w < 4) && (decide (Quant.outExp (s.fl f.val).c6 (D.osh w) < 0) || decide (63 < Quant.outExp (s.fl f.val).c6 (D.osh w))))))
    || (k == 8 && D.kv w && decide (64 < D.slot w + D.count w))
  | _ =>
    let own := D.owner w
    !(decide (k ≤ 6) || k == 9 || k == 10) || D.count w == 0 || waitBad || D.feedDst w || D.patch w || xposeBad w || D.digest w
    || ((k == 9 || k == 10) && (decide (4096 < D.count w) || own == 0 || (decide (0xFFF0 ≤ own) && decide (own ≤ 0xFFFE))))

/-- Where a descriptor lies. -/
def State.descAddr (s : State) (g : Agent) (src : Nat) : Nat :=
  match g with
  | .dma u _ => s.own (0x10100000000 + 0x800000 * u.val + src)
  | _ => s.own (0x10000000000 + 0x400000 * (agentFl g).getD 0 + src)

/-- The engine stops at a bad descriptor (R171, R188). -/
def State.descFail (s : State) (g : Agent) (q : QDesc) : State :=
  let s := s.modEng g (fun x => { x with stopped := true, descStop := true })
  let rq := reqOf g
  match g with
  | .dma u c =>
    let s := (s.orReg .ub u.val (Off.dmaStat + 16 * c.val) 1).event .ub u.val 16
    (s.logErr .ub u.val 0x04 (s.descAddr g q.src) rq.src (D.kind q.w)).report Code.descErr rq.src 0 0
  | _ =>
    let f := (agentFl g).getD 0
    let s := (s.orReg .fl f Off.sqStat 2).event .fl f 13
    (s.logErr .fl f 0x04 (s.descAddr g q.src) rq.src (D.kind q.w)).flFault f Code.descErr 0

/-- Descriptors that an engine holds started and not completed, at most (R168, R186). -/
def flyLimit : Agent → Nat
  | .dma _ _ => 16
  | _ => 64

/-- A fresh descriptor of `n` lines for the queue entry. -/
def newDesc (x : Eng) (q : QDesc) (n : Nat) : Desc :=
  { id := x.nextId, w := q.w, src := q.src, off := q.off, lines := n, rd := 0, ret := 0, sent := 0, dn := 0, lost := 0, data := []
    slot0 := 0, asked := 0, rowsRead := 0, dig := q.dig, digK := q.digK, dest := [], words := [] }

/-- Take the queue's head and put a descriptor among those started. -/
def Eng.startDesc (x : Eng) (d : Desc) : Eng :=
  { x with queue := x.queue.tail, fly := x.fly ++ [d], nextId := x.nextId + 1, waiting := false }

/-- Meet the descriptor at the queue's head with a command of kind `k`: a bad descriptor stops the engine; one of this kind
goes on. -/
def State.startKind (s : State) (g : Agent) (k : Nat) (go : QDesc → State) : State :=
  let x := s.eng g
  if !s.engOn g || x.stopped || decide (flyLimit g ≤ x.fly.length) then s
  else match x.queue with
  | [] => s
  | q :: _ =>
    if s.descBad g q.w then s.descFail g q
    else if D.kind q.w = k then go q
    else s

/-- A descriptor without lines ends at once. -/
def State.endNow (s : State) (g : Agent) : State :=
  (s.modEng g (fun x => { x with queue := x.queue.tail, waiting := false })).countDesc g

/-! Loads, stores and copies of lines. -/

/-- Start a data descriptor of `n` lines; a feed-destined load takes its slots (R157). -/
def State.startLines (s : State) (g : Agent) (q : QDesc) (n : Nat) (dest : SMap Nat) : State :=
  let d := { newDesc (s.eng g) q n with dest := dest }
  match g with
  | .load f =>
    if D.feedDst q.w then
      let fl := s.fl f.val
      let e := D.feed q.w
      let fd := fl.feed e
      let s := s.setFl f.val (fl.setFeed e { fd with resv := fd.resv + loadSlots q.w fd.bl })
      s.modEng g (fun x => x.startDesc { d with slot0 := fd.resv })
    else s.modEng g (fun x => x.startDesc d)
  | _ => s.modEng g (fun x => x.startDesc d)

def execTilesDesc (g : Agent) (s : State) : Ans :=
  .next (s.startKind g 1 (fun q => s.startLines g q (33 * D.count q.w) []))

def execLinesDesc (g : Agent) (s : State) : Ans :=
  .next (s.startKind g 2 (fun q => s.startLines g q (D.count q.w) []))

/-- Addresses of a GATHER's tiles from its list lines, kept plus 1 by tile number. -/
def gatherList (n : Nat) (line : Nat → Line) : SMap Nat :=
  (List.range n).foldl (fun m t => SMap.put 0 m t ((lineW64 (line (t / 16)) (t % 16)).toNat + 1)) []

/-- GATHER (R166, R186): the list lies in the near bank; a DMA channel reads its own from ADDR_A, as lines numbered after the
descriptor's. A poisoned list line is a use of poison (R362). -/
def execGather (g : Agent) (s : State) : Ans :=
  .next (s.startKind g 3 (fun q =>
    let n := D.count q.w
    let k := cdiv n 16
    match g with
    | .load f =>
      let at_ (i : Nat) : Line × Bool := s.sramLine (Vec.nbLine f.val (D.nb q.w + i))
      let s := s.startLines g q (33 * n) (gatherList n (fun i => (at_ i).1))
      let s := s.cnt .fl f.val Off.nbRd (128 * k)
      if (List.range k).any (fun i => (at_ i).2) then s.flFault f.val Code.poisonUse 0 else s
    | _ => s.startLines g q (33 * n) []))

/-! Waits, signals, ends. -/

def execDescNop (g : Agent) (s : State) : Ans := .next (s.startKind g 0 (fun _ => s.endNow g))

/-- The tally that a WAIT descriptor watches has reached its target. -/
def State.descWaitOk (s : State) (g : Agent) (w : Nat) : Bool :=
  waitOk (s.tallyVal (s.tref (agentFl g) (agentUm g) (D.tally w))) (BitVec.ofNat 32 (D.value w))

def execDescWait (g : Agent) (s : State) : Ans :=
  .next (s.startKind g 4 (fun q =>
    if s.descWaitOk g q.w then s.endNow g else s.modEng g (fun x => { x with waiting := true })))

def execDescWaitSatisfied (g : Agent) (s : State) : Ans :=
  .next (s.startKind g 4 (fun q => if (s.eng g).waiting && s.descWaitOk g q.w then s.endNow g else s))

/-- SIGNAL and END join the descriptors started; they act when all before them have completed (R169). -/
def State.startSignal (s : State) (g : Agent) (q : QDesc) : State :=
  let s := s.modEng g (fun x => x.startDesc (newDesc x q 0))
  State.cascade ((s.eng g).fly.length + 1) s g

def execDescSignal (g : Agent) (s : State) : Ans := .next (s.startKind g 5 (s.startSignal g))
def execDescEnd (g : Agent) (s : State) : Ans := .next (s.startKind g 6 (s.startSignal g))

/-! DRAIN (R45, R84 to R88, R167, R169). -/

/-- Lines that one output row takes. -/
def rowLines (w : Nat) : Nat := (if D.dfmt w < 4 then 1 else 4) * (if D.pair w && !(decide (2 ≤ D.dfmt w) && decide (D.dfmt w < 4)) then 2 else 1)

/-- The drain writes half lines: INT4 without PAIR. -/
def halfRow (w : Nat) : Bool := decide (2 ≤ D.dfmt w) && decide (D.dfmt w < 4) && !D.pair w

def drainScale (w : Nat) : Bool := D.scale w && decide (D.dfmt w < 4)

/-- DRAIN: starts once its close tally exceeds the DRAINs of the tile that have started (R169). -/
def execDrain (f : FloretId) (s : State) : Ans :=
  .next (s.startKind (.store f) 7 (fun q =>
    let fl := s.fl f.val
    let t := D.acc q.w
    let n := SMap.get (0 : W32) fl.drains t
    if waitOk (fl.tally (56 + t)) (n + 1) then
      let s := s.setFl f.val { fl with drains := SMap.put (0 : W32) fl.drains t (n + 1) }
      s.modEng (.store f) (fun x => x.startDesc (newDesc x q (32 * rowLines q.w + b2n (drainScale q.w))))
    else s.modEng (.store f) (fun x => { x with waiting := true })))

/-- A latched word, kept plus 1; 0 stands for the unit word (R92). -/
def latched (c6 : Bool) (n : Nat) : Nat := if n = 0 then Fp.unitWord c6 else n - 1

/-- The tiles and columns of an output row: per array its 32 columns, with PAIR 64 (R167). -/
def drainCols (w : Nat) : List (Nat × Nat × Nat) :=
  (List.range 4).flatMap (fun a => (if D.pair w then [0, 1] else [0]).flatMap (fun p =>
    (List.range 32).map (fun c => (a, D.acc w + p, c))))

/-- Row `r` of the block through the requantiser: elements, flags, elements clamped. -/
def Floret.drainRow (fl : Floret) (w r : Nat) : List Nat × W32 × Nat :=
  (drainCols w).foldl (fun (acc : List Nat × W32 × Nat) x =>
    let ar := fl.arr x.1
    let e := Quant.reqElem fl.strict fl.c6 (SMap.get false ar.isFD x.2.1) (D.dfmt w) (D.osh w)
      (SMap.get (0 : W32) ar.acc (x.2.1 * 1024 + r * 32 + x.2.2))
      (latched fl.c6 (SMap.get 0 ar.rowD (x.2.1 * 32 + r))) (latched fl.c6 (SMap.get 0 ar.colD (x.2.1 * 32 + x.2.2)))
    (acc.1 ++ [e.1], acc.2.1 ||| e.2.1, acc.2.2 + b2n e.2.2)) ([], 0, 0)

/-- The lines of an output row: (index, line, mask). -/
def drainOut (w c6bit : Nat) (r : Nat) (es : List Nat) : List (Nat × Line × Nat) :=
  let v := packN (Quant.dbits (D.dfmt w)) es
  let n := rowLines w
  let body := (List.range n).map (fun k => (n * r + k, BitVec.ofNat 1024 (v / 2 ^ (1024 * k)), fullMask))
  let body := if halfRow w then
      (if D.hi w then [(r, BitVec.ofNat 1024 (v * 2 ^ 512), (2 ^ 64 - 1) * 2 ^ 64)] else [(r, BitVec.ofNat 1024 v, 2 ^ 64 - 1)])
    else body
  if drainScale w && r == 31 then
    body ++ [(32 * n, lineOf 16 (List.replicate 32 (Quant.outWord (c6bit == 1) (D.osh w))), fullMask)]
  else body

/-- The drain has read row `r` of tile `t`: after row 31 the tile is no longer closed, unless a later close waits (R45, R169),
whose drain then begins. -/
def Floret.rowDrained (fl : Floret) (t r : Nat) : Floret :=
  if r < 31 then { fl with closed := SMap.put 0 fl.closed t (r + 2) }
  else
    let n := SMap.get 0 fl.again t
    let fl := { fl with closed := SMap.put 0 fl.closed t 0 }
    if n = 0 then fl else { fl with again := SMap.put 0 fl.again t (n - 1) }.openDrain t

/-- The DRAIN that reads next: started, rows left, its tile closed and read so far by it alone. -/
def Floret.drainNext (fl : Floret) : Option Desc :=
  fl.se.fly.find? (fun d => D.kind d.w == 7 && decide (d.rowsRead < 32) && SMap.get 0 fl.closed (D.acc d.w) == d.rowsRead + 1
    && (!D.pair d.w || SMap.get 0 fl.closed (D.acc d.w + 1) == d.rowsRead + 1))

/-- DRAIN_ROW_READ: one row of all four arrays, when the store engine can take it (R45, R169). -/
def execDrainRowRead (f : FloretId) (s : State) : Ans :=
  .next (
    let fl := s.fl f.val
    match fl.drainNext with
    | none => s
    | some d =>
      if !s.flOn f.val || decide (1024 < fl.se.outstanding + rowLines d.w + 1) then s
      else
        let r := d.rowsRead
        let row := fl.drainRow d.w r
        let ls := (drainOut d.w (b2n fl.c6) r row.1).map (fun x => (x.1, x.1, x.2.1, x.2.2))
        let fl := fl.rowDrained (D.acc d.w) r
        let fl := if D.pair d.w then fl.rowDrained (D.acc d.w + 1) r else fl
        let s := s.setFl f.val fl
        let s := s.modDesc (.store f) d.id (fun q => { (q.form ls) with rowsRead := r + 1 })
        let s := s.fpFlags f.val row.2.1
        let s := if row.2.2 = 0 then s else (s.addReg .fl f.val Off.rqSatCnt row.2.2).sticky .fl f.val Off.qxStat 0 (some 7)
        s)

/-! QOUT (R82, R83, R167) and QX. -/

def execQout (f : FloretId) (s : State) : Ans :=
  .next (s.startKind (.store f) 8 (fun q =>
    (s.modEng (.store f) (fun x => x.startDesc (newDesc x q 0))).pullQout f))

/-- QX (R137, R144): enqueue when the QX queue has room, else hold; the unit takes rows while its buffers and the store
engine have room. -/
def execQx (f : FloretId) (s : State) : Ans :=
  .next (s.issue f.val 0x30 (fun w =>
    let fl := s.fl f.val
    if 4 ≤ fl.qxq.length then s
    else ((s.setFl f.val { fl with qxq := fl.qxq ++ [QxJob.of fl w] }).retire f.val true).pullQout f))

end Sys2Proof.Machine
end

