-- ==== Sys2Proof/Machine/Dma.lean ====
section
/-! DEFINITION. The umbel DMA's descriptor rings and the granule pool (chapter "Near Banks, Umbel Buffers and Spatial
Pipelines", R180 to R188, R194). -/

namespace Sys2Proof.Machine

/-- Byte of the umbel buffer at which a channel's descriptor `n` lies (R185). -/
def Chan.entry (c : Chan) (n : Nat) : Nat := ((c.line + n % c.size / 4) % 65536) * 128 + n % 4 * 32

/-- DMA_DESCRIPTOR_START: a channel fetches its next descriptor once the doorbell tally has passed it (R185); a bad one stops
the channel (R188). -/
def execDmaDescriptorStart (u : UmbelId) (c : ChannelId) (s : State) : Ans :=
  .next (
    let um := s.um u.val
    let ch := um.chan c.val
    let g : Agent := .dma u c
    if um.held || s.pw.trip || ch.size = 0 || ch.eng.stopped || !ch.eng.queue.isEmpty || decide (16 ≤ ch.eng.fly.length)
      || !waitOk (um.tally ch.bell) (ch.b + BitVec.ofNat 32 ch.next + 1) then s
    else
      let o := ch.entry ch.next
      let a := 0x10100000000 + 0x800000 * u.val + o
      let q : QDesc := ⟨Memory.readN s.sram 32 a, o, 0, 0, 0⟩
      let bad := SMap.get false s.sramBad (a / 128 * 128)
      let s := s.setUm u.val (um.setChan c.val { ch with next := ch.next + 1, eng := { ch.eng with queue := [q] } })
      let s := s.sramBytes (.ub u.val) false
      let s := if bad then s.report Code.poisonUse (0x200 + u.val) 0 0 else s
      if s.descBad g q.w then s.descFail g q else s)

/-! The granule pool. -/

/-- Free granules, in increasing order. -/
def Umbel.freeList (um : Umbel) : List Nat := (List.range 4096).filter (fun g => SMap.get 0 um.pool g = 0)

/-- ALLOC (R181): the granules taken, or none. -/
def Umbel.alloc (um : Umbel) (owner n : Nat) : Option (List Nat × Umbel) :=
  let fs := um.freeList
  if n ≤ fs.length then
    let gs := fs.take n
    some (gs, { um with pool := gs.foldl (fun p g => SMap.put 0 p g owner) um.pool })
  else none

/-- Result lines (R181): 64 words each, unused words 0xFFFF. -/
def allocLines (n : Nat) (gs : List Nat) : List Line :=
  (List.range (cdiv n 64)).map (fun i => lineOf 16 ((List.range 64).map (fun j => gs.getD (64 * i + j) 0xFFFF)))

/-- ALLOC: the pool carries it out whole (R183); its result lines are then written. -/
def execAllocGran (u : UmbelId) (c : ChannelId) (s : State) : Ans :=
  .next (s.startKind (.dma u c) 9 (fun q =>
    let n := D.count q.w
    let um := s.um u.val
    let r := um.alloc (D.owner q.w) n
    let gs := match r with
      | some x => x.1
      | none => []
    let s := match r with
      | some x => s.setUm u.val x.2
      | none => (s.sticky .ub u.val Off.poolStat 1 (some 17)).addReg .ub u.val Off.poolFail 1
    let ls := allocLines n gs
    s.modEng (.dma u c) (fun x =>
      x.startDesc ((newDesc x q ls.length).form ((List.range ls.length).map (fun i => (i, i, ls.getD i 0, fullMask)))))))

/-- What becomes of a FREE entry (R182): freed, or refused with the reason of R480. -/
def Umbel.freeOne (um : Umbel) (owner g : Nat) : Option Nat :=
  let h := SMap.get 0 um.pool g
  if 4095 < g then some 1 else if h = 0 then some 2 else if h ≠ owner then some 3 else none

/-- Take one entry of a FREE list. -/
def State.freeGranule (s : State) (u owner g : Nat) : State :=
  let um := s.um u
  match um.freeOne owner g with
  | none => s.setUm u { um with pool := SMap.put 0 um.pool g 0 }
  | some why =>
    let s := (s.orReg .ub u Off.poolStat 1).event .ub u 15
    let s := s.addReg .ub u Off.poolBadFree 1
    s.logErr .ub u 0x06 (g + 2 ^ 32 * (if 4095 < g then 0 else SMap.get 0 um.pool g)) (0x200 + u) (owner + 2 ^ 20 * why)

/-- The entries of a FREE list from its lines. -/
def freeEntries (n : Nat) (line : Nat → Line) : List Nat :=
  (List.range n).map (fun i => bitsN (line (i / 64)).toNat (16 * (i % 64) + 15) (16 * (i % 64)))

/-- Carry out a FREE whose list has been read, in list order, then count it on its tally (R182). -/
def State.doFree (s : State) (g : Agent) (u : Nat) (w : Nat) (d : Desc) (line : Nat → Line) : State :=
  let s := (freeEntries (D.count w) line).foldl (fun s e => s.freeGranule u (D.owner w) e) s
  let r := s.countTally g { d with w := setBitN w 12 false } 0 1
  if r.1 then r.2.engLoss g true else r.2

/-- FREE: the descriptor starts; once every line of its list has come, its entries are freed and it completes. -/
def execFreeGran (u : UmbelId) (c : ChannelId) (s : State) : Ans :=
  .next (
    let g : Agent := .dma u c
    match (s.eng g).fly.find? (fun d => D.kind d.w == 10 && (List.range d.listLines).all (fun i => bitN d.ret i)) with
    | some d =>
      let s := s.doFree g u.val d.w d (fun i => match SMap.get none d.data i with
        | some h => h.line
        | none => 0)
      State.cascade ((s.eng g).fly.length + 1) (s.complete g d) g
    | none => s.startKind g 10 (fun q => s.startLines g q 0 []))

end Sys2Proof.Machine
end

