-- ==== Sys2Proof/Machine/Delta.lean ====
section
/-! DEFINITION. Delta packs (chapter "Fixed Codebooks and Delta Packs", R102 to R109, R161): patch requests of the load
engine, the umbel's decoder, its record lines. -/

namespace Sys2Proof.Machine

def State.wset (s : State) (k : Nat) : WSet := SMap.get WSet.empty s.fe.wsets k
def State.setWset (s : State) (k : Nat) (x : WSet) : State :=
  { s with fe := { s.fe with wsets := SMap.put WSet.empty s.fe.wsets k x } }

/-- Byte offset within the weight set of global address `a`, by the layer address table (R262, R273). -/
def WSet.offsetOf (x : WSet) (a : Nat) : Option Nat :=
  ((List.range x.nl).find? (fun e =>
    let b := SMap.get 0 x.lat e
    decide (b ≤ a) && decide (a < b + SMap.get 0 x.lines e * 128))).map (fun e => SMap.get 0 x.off e + (a - SMap.get 0 x.lat e))

/-- Number of the unit that is half `h` of the tile at address `a`, by the image's unit table (R102, R262). -/
def State.unitOf (s : State) (fl : Floret) (a : Nat) (h : Bool) : Option Nat :=
  if fl.lslot = 0 then none
  else
    let t := s.lsl (fl.lslot - 1)
    match t.ws.bind (fun k => (s.wset k).offsetOf a) with
    | none => none
    | some o => t.units.findIdx? (fun u => u % 2 ^ 40 == o && bitN u 40 == h)

/-- The units of a tile; a tile that the unit table does not name has unstated units (free values, assumption 6). -/
def State.tileUnits (s : State) (fl : Floret) (a n : Nat) : List Nat × State :=
  (List.range n).foldl (fun (acc : List Nat × State) h =>
    match acc.2.unitOf fl a (h == 1) with
    | some u => (acc.1 ++ [u], acc.2)
    | none => let r := acc.2.fresh; (acc.1 ++ [r.1.toNat % 2 ^ 24], r.2)) ([], s)

/-- The load whose patch requests come next, its patch feed. -/
def Floret.patchNext (fl : Floret) : Option (Desc × Nat) :=
  (fl.le.fly.find? fl.patchLeft).map (fun d => (d, D.patchFeed d.w))

/-- Write `n` whole lines from near-bank line `l` of floret `f`, as arrivals in its feeds. -/
def State.putLines (s : State) (f l : Nat) (ls : List Line) : State :=
  (List.range ls.length).foldl (fun s i =>
    let a := Vec.nbLine f (l + i)
    let r := s.feedArrive f a f
    if r.1 then (r.2.sramBytes (.nb f) true).sramPut a fullMask (ls.getD i 0) false else r.2) s

/-- The decoder, or the load engine for the base model, has answered a patch slot (R161). -/
def State.answerSlot (s : State) (f e slot : Nat) : State :=
  s.modFl f (fun fl => let fd := fl.feed e; fl.setFeed e { fd with answered := SMap.put 0 fd.answered (fd.index slot) 1 })

/-- PATCH_REQUEST: the load engine names the next slot of the patch feed for the next tile (R106, R161); with no pack it
writes the empty records itself, and counts them on no tally (DESIGN CHOICE, assumption 35). -/
def execPatchRequest (f : FloretId) (s : State) : Ans :=
  .next (
    let fl := s.fl f.val
    match fl.patchNext with
    | none => s
    | some (d, e) =>
      let fd := fl.feed e
      if !s.flOn f.val || fl.le.stopped || !fd.patch || fd.slots = 0 || decide (fd.released + fd.slots ≤ fd.asked) then s
      else match s.srcOf (.load f) d (33 * d.asked) with
      | none => s
      | some a =>
        let code := decide (72 ≤ fd.bl)
        let line := fd.base + fd.index fd.asked * fd.bl
        let s := s.setFl f.val (fl.setFeed e { fd with asked := fd.asked + 1 })
        let s := s.modDesc (.load f) d.id (fun q => { q with asked := q.asked + 1 })
        if fl.pack = 0 then
          ((s.putLines f.val line (List.replicate (if code then 8 else 4) 0)).answerSlot f.val e fd.asked).settle (.load f) d.id
        else
          let us := s.tileUnits fl a (if code then 2 else 1)
          (us.2.modUm (f.val / 16) (fun um => { um with ddq := um.ddq ++
            [⟨f.val, e, fd.asked, line, us.1, fl.pack, BitVec.ofNat 32 (D.tally d.w), D.tallyEn d.w⟩] })).settle (.load f) d.id)

/-- The bytes `[a, a + n)` of HBM read by whole lines, the reads finding `es` in turn: bytes, poison, and how many lines. A
line above the usable end is an address error, and reads as zeros (R13, R294). -/
def State.readSpan (s : State) (q : Req) (a n : Nat) (es : List Ecc) : List Nat × Bool × Nat × State :=
  let l0 := a / 128
  let k := (a + n - 1) / 128 - l0 + 1
  let r := (List.range k).foldl (fun (acc : List Nat × Bool × State) i =>
    let la := (l0 + i) * 128
    let x := (if s.hbmEnd ≤ la then ((0, false), acc.2.2.addrErr q la false) else acc.2.2.hbmRead q la (es.getD i .clean))
    (acc.1 ++ bytesOf 128 x.1.1.toNat, acc.2.1 || x.1.2, x.2)) ([], false, s)
  ((r.1.drop (a % 128)).take n, r.2.1, k, r.2.2)

/-- A number from a list of bytes. -/
def ofBytes : List Nat → Nat
  | [] => 0
  | b :: bs => b % 256 + 256 * ofBytes bs

/-- The entry passes the checks of R106. CHECK covers the bytes that R104 names, as it writes them: 8 through
135 + 4 × N_OCC − 1 (DEDUCED, assumption 35). -/
def entryOk (unit : Nat) (bs : List Nat) : Bool :=
  let h := ofBytes (bs.take 8)
  let n := bitsN h 10 0
  let map := ofBytes ((bs.drop 8).take 128)
  n == popN 1024 map && bitsN h 39 16 == unit && bitsN h 47 40 == 1 && bitsN h 63 48 == crc16 ((bs.drop 8).take (127 + 4 * n))

/-- The patch record of one stationary tile of a unit (R105, R107): half `h` of the unit's K, column half `g`. -/
def recordOf (bs : List Nat) (h g : Nat) : List Line :=
  let map := ofBytes ((bs.drop 8).take 128)
  let bit (i c : Nat) : Nat := 64 * (8 * h + i) + 32 * g + c
  let ks := (List.range 8).flatMap (fun i => (List.range 32).map (fun c => (32 * i + c, bit i c)))
  let on := ks.filter (fun k => bitN map k.2)
  let mask := sumN (on.map (fun k => 2 ^ k.1))
  let words := on.map (fun k => ofBytes ((bs.drop (136 + 4 * popN k.2 (map % 2 ^ k.2))).take 4))
  let v := mask + 2 ^ 256 * packN 32 words
  (List.range (cdiv (32 + 4 * on.length) 128)).map (fun i => BitVec.ofNat 1024 (v / 2 ^ (1024 * i)))

/-- The decoder has ended with its first request: it takes the next from the florets of the umbel in round-robin order, and a
floret's own in the order in which they came (R106). -/
def ddTake (last : Nat) (q : List PatchReq) : List PatchReq :=
  match (List.range 16).findSome? (fun i => q.find? (fun r => r.floret % 16 == (last + 1 + i) % 16)) with
  | some r => r :: q.erase r
  | none => q

/-- The requests once the first has had a unit answered or failed, its records starting at line `line`. -/
def ddStep (q : List PatchReq) (r : PatchReq) (line : Nat) : List PatchReq :=
  if r.units.tail.isEmpty then ddTake (r.floret % 16) q.tail else { r with units := r.units.tail, line := line } :: q.tail

/-- Hand a unit's records to the decoder's output and move the request on. -/
def State.ddPush (s : State) (u : Nat) (r : PatchReq) (ls : List Line) : State :=
  s.modUm u (fun um => { um with
    ddq := ddStep um.ddq r (r.line + ls.length)
    ddout := um.ddout ++ [⟨um.ddId, r, ls, 0, 0, r.units.tail.isEmpty⟩], ddId := um.ddId + 1 })

/-- A unit that fails a check, or comes back poisoned (R109): no record; the pack's address is logged. The request's next unit
is still served, its records from the line where this unit's would have begun; the failed unit is not counted as answered
(DESIGN CHOICE, assumption 35). -/
def State.ddFail (s : State) (u : Nat) (r : PatchReq) (unit : Nat) : State :=
  let s := s.modUm u (fun um => { um with ddq := ddStep um.ddq r r.line })
  let s := s.sticky .ub u Off.ddStat 0 (some 12)
  let s := s.setReg .ub u Off.ddErrUnit (BitVec.ofNat 32 (unit % 2 ^ 24))
  (s.logErr .ub u 0x0C (s.own r.pack) (0x200 + u) unit).report Code.weightStream r.floret r.pack unit

/-- Every stack that holds a line of `[a, a + n)` serves requests. -/
def State.spanReady (s : State) (a n : Nat) : Bool :=
  (List.range ((a + n - 1) / 128 - a / 128 + 1)).all (fun i =>
    let la := (a / 128 + i) * 128
    decide (s.hbmEnd ≤ la) || (s.hbmReady la && !s.hbmDown la))

/-- Address of the index word of unit `unit` of a pack (R102, R103). -/
def State.indexAddr (s : State) (pack unit : Nat) : Nat := pack + 16 * s.hbmGetN 4 (pack + 0x20) + 4 * unit

/-- The decoder waits on HBM for the index word or the entry of its first request's next unit (R108). -/
def State.ddWaits (s : State) (u : Nat) : Bool :=
  match (s.um u).ddq with
  | [] => false
  | r :: _ => match r.units with
    | [] => false
    | unit :: _ =>
      let ia := s.indexAddr r.pack unit
      let ea := r.pack + 16 * s.hbmGetN 4 ia
      !s.spanReady ia 4 || !s.spanReady ea 8 || !s.spanReady ea (136 + 4 * bitsN (s.hbmGetN 2 ea) 10 0)

/-- PATCH_UNIT_ANSWER: the decoder reads the index word and the entry of its first request's next unit, checks them and
writes the unit's records (R106 to R109). Its read of PK_INDEX_OFF in the pack header is neither counted nor checked
(DESIGN CHOICE, assumption 35). `v.ecc` is what the reads find, in turn (R288). -/
def execPatchUnitAnswer (v : UmbelReads) (s : State) : Ans :=
  .next (
    let um := s.um v.unit.val
    let q : Req := ⟨.ub, v.unit.val, 0x200 + v.unit.val⟩
    match um.ddq with
    | [] => s
    | r :: _ =>
      match r.units with
      | [] => s.setUm v.unit.val { um with ddq := ddTake (r.floret % 16) um.ddq.tail }
      | unit :: _ =>
        if um.held || s.pw.trip || s.ddWaits v.unit.val then s
        else
          let x := s.readSpan q (s.indexAddr r.pack unit) 4 v.ecc
          let s := x.2.2.2.addReg .ub v.unit.val Off.ddLines x.2.2.1
          let w := ofBytes x.1
          if x.2.1 then s.ddFail v.unit.val r unit
          else if w = 0 then (s.addReg .ub v.unit.val Off.ddUnits 1).ddPush v.unit.val r (List.replicate 4 0)
          else
            let ea := r.pack + 16 * w
            let n := bitsN (s.hbmGetN 2 ea) 10 0
            let y := s.readSpan q ea (136 + 4 * n) (v.ecc.drop x.2.2.1)
            let s := y.2.2.2.addReg .ub v.unit.val Off.ddLines y.2.2.1
            if y.2.1 || !entryOk unit y.1 then s.ddFail v.unit.val r unit
            else
              let ls := (List.range 4).flatMap (fun k => recordOf y.1 (k / 2) (k % 2))
              ((s.addReg .ub v.unit.val Off.ddUnits 1).addReg .ub v.unit.val Off.ddGroups n).ddPush v.unit.val r ls)

/-- A record line of the decoder has completed or been given up: the output leaves when all have; the last unit's end
answers the slot (R161). -/
def State.ddDone (s : State) (u : Nat) (o : DdOut) (i : Nat) (lost : Bool) : State :=
  let o := { o with dn := setBitN o.dn i true, lost := if lost then setBitN o.lost i true else o.lost }
  let fin := popN o.lines.length o.dn = o.lines.length
  let s := s.modUm u (fun um => { um with
    ddout := if fin then um.ddout.filter (fun x => x.id ≠ o.id) else um.ddout.map (fun x => if x.id = o.id then o else x) })
  let more := (s.um u).ddout.any (fun x => x.req.floret = o.req.floret && x.req.feed = o.req.feed && x.req.slot = o.req.slot)
    || (s.um u).ddq.any (fun r => r.floret = o.req.floret && r.feed = o.req.feed && r.slot = o.req.slot)
  if fin && !more then s.answerSlot o.req.floret o.req.feed o.req.slot else s

/-- The umbel reports a loss of its decoder (R235, R247, R315). -/
def State.ddLoss (s : State) (u a : Nat) : State :=
  (s.sticky .ub u Off.dmaLoss 8 (some 18)).report Code.lineLoss (0x200 + u) a 0

/-- Count a completed record line on the request's tally; a lost count is a loss of the decoder (R235, R315). -/
def State.ddCount (s : State) (u : UmbelId) (o : DdOut) (i : Nat) : State :=
  if !o.req.tallyEn then s
  else
    let r := s.countRef (.dd u) o.id i o.req.tally.toNat (some o.req.floret) (some u.val) 1
    if r.1 then r.2.ddLoss u.val (s.own (Vec.nbLine o.req.floret (o.req.line + i))) else r.2

/-- Every line that the decoder formed earlier for the line that line `i` of output `o` goes to has been written (R232). -/
def Umbel.ddTurn (x : Umbel) (o : DdOut) (i : Nat) : Bool :=
  !(x.ddout.takeWhile (fun p => p.id ≠ o.id)).any (fun p => p.req.floret == o.req.floret && (List.range p.lines.length).any (fun j =>
    p.req.line + j == o.req.line + i && !bitN p.dn j && !bitN p.lost j))

/-- Write record line `i` of output `d` (R106, R107). -/
def State.ddWrite (io : RegIO) (s : State) (u : UmbelId) (d i : Nat) (e : Ecc) : State :=
  match (s.um u.val).ddout.find? (fun o => o.id = d) with
  | none => s
  | some o =>
    if (s.um u.val).held || s.pw.trip || decide (o.lines.length ≤ i) || bitN o.dn i || bitN o.lost i
      || !(s.um u.val).ddTurn o i then s
    else
      let r := s.writeLocal io (reqOf (.dd u)) (Vec.nbLine o.req.floret (o.req.line + i)) fullMask (o.lines.getD i 0) false e
      match r.1 with
      | .done => (r.2.ddCount u o i).ddDone u.val o i false
      | .discarded => r.2.ddDone u.val o i false
      | .lost => r.2.modUm u.val (fun um => { um with ddout := um.ddout.map (fun x => if x.id = d then { x with lost := setBitN x.lost i true } else x) })
      | .held => s

/-- A record line was dropped at its destination (R247). -/
def State.ddDrop (s : State) (u : UmbelId) (d i : Nat) : State :=
  match (s.um u.val).ddout.find? (fun o => o.id = d) with
  | none => s
  | some o =>
    if bitN o.lost i && !bitN o.dn i then
      let a := s.own (Vec.nbLine o.req.floret (o.req.line + i))
      let s := (s.countLoss (.dd u) true).logErr .ub u.val 0x0F a (0x200 + u.val) 0
      (s.ddLoss u.val a).ddDone u.val o i true
    else s

end Sys2Proof.Machine
end

