-- ==== Sys2Proof/Machine/Kv.lean ====
section
/-! DEFINITION. The KV store (chapter "Attention, the KV Store and Sorrel Units", R196 to R223): pool layouts, the frame
allocators, the sorrel units' scans and builds, the sequence table and its commands. -/

namespace Sys2Proof.Machine

/-! The front end's and the allocators' own accesses. -/

/-- The front end as a requester. -/
def reqFront : Req := ⟨.fe, 0, 0xFF0⟩

/-- `n` bytes at a local address, as the front end reads its tables: HBM, the host window, or an SRAM. -/
def State.memGetN (s : State) (n a : Nat) : Nat :=
  match s.placeOf a with
  | .hbm => s.hbmGetN n a
  | .host => Memory.readN s.hostMem n (s.hostAddr a)
  | .nb _ => Memory.readN s.sram n a
  | .ub _ => Memory.readN s.sram n a
  | _ => 0

/-- Write `n` bytes within one line at a local address. -/
def State.memPutN (s : State) (n a v : Nat) : State :=
  match s.placeOf a with
  | .hbm => s.hbmPutN reqFront n a v
  | .host =>
    let o := a % 128
    let ha := s.hostAddr (a / 128 * 128)
    let l := BitVec.ofNat 1024 (v % 2 ^ (8 * n) * 2 ^ (8 * o))
    (s.hostPut ha ((2 ^ n - 1) * 2 ^ o) l false).cnt .ct 0 0x108 n
  | .nb f => ({ s with sram := Memory.writeN s.sram n a v }).sramBytes (.nb f) true
  | .ub u => ({ s with sram := Memory.writeN s.sram n a v }).sramBytes (.ub u) true
  | _ => s.addrErr reqFront a true

/-- The host lines of the `n` bytes at host address `ha`. -/
def hostLines (ha n : Nat) : List Nat := (List.range ((ha + n - 1) / 128 - ha / 128 + 1)).map (fun i => (ha / 128 + i) * 128)

/-- The front end reads the `n` bytes at `a`: the lines of HBM move over their stacks' interfaces and are checked (R288, R414),
and the stacks have had a request (R299); what it read from the host is used up, for it keeps no cache (R230). -/
def State.memTouch (s : State) (n a : Nat) : State :=
  match s.placeOf a with
  | .hbm => (s.readSpan reqFront a n []).2.2.2
  | .host =>
    let ls := hostLines (s.hostAddr a) n
    { s with fe := { s.fe with fresh := s.fe.fresh.filter (fun e => e.1 != reqFront.src || !ls.contains e.2) } }
  | .bad => s.addrErr reqFront a false
  | _ => s

/-- The front end can read `[a, a + n)`: every stack that holds a byte of it serves (R298, R299, R332), or the host has answered
its reads of these lines (R240; HOST_WINDOW_ACCESS, HOST_READ_COMPLETION). -/
def State.memReady (s : State) (a n : Nat) : Bool :=
  match s.placeOf a with
  | .hbm => s.spanReady a n
  | .host => (hostLines (s.hostAddr a) n).all (fun l => s.fe.fresh.contains (reqFront.src, l))
  | _ => true

/-! Layout (R196 to R203). -/

def State.seqBase (s : State) : Nat := s.regN .fe 0 0x700 + 2 ^ 32 * s.regN .fe 0 0x704
def State.seqSlots (s : State) : Nat := s.regN .fe 0 0x708

def KvPool.partAt (p : KvPool) (k : Nat) : Nat := 2 ^ 33 * p.base8 + 2 ^ 30 * (k * p.part)
def KvPool.mapOff (p : KvPool) : Nat := p.frames * p.np * 8448
def KvPool.ownerOff (p : KvPool) (slots : Nat) : Nat := p.mapOff + slots * 2048
def KvPool.scaleOff (p : KvPool) (slots : Nat) : Nat := p.ownerOff slots + cdiv (4 * p.frames) 128 * 128
/-- End of the layout of a part. -/
def KvPool.endOff (p : KvPool) (slots : Nat) : Nat := p.scaleOff slots + cdiv (2 * p.np) 128 * 128
/-- Area of pair `pr` of frame `f` (R198). -/
def KvPool.area (p : KvPool) (k f pr : Nat) : Nat := p.partAt k + (f * p.np + pr) * 8448
/-- Map entry `e` of slot `q`, generation `g` (R203). -/
def KvPool.mapEntry (p : KvPool) (k q g e : Nat) : Nat := p.partAt k + p.mapOff + (2 * q + g) * 1024 + 4 * e

def ownerAddr (s : State) (p : KvPool) (k f : Nat) : Nat := p.partAt k + p.ownerOff s.seqSlots + 4 * f
def State.frameOwner (s : State) (p : KvPool) (k f : Nat) : Nat := s.hbmGetN 4 (ownerAddr s p k f)
def State.setFrameOwner (s : State) (p : KvPool) (k f o : Nat) : State := s.hbmPutN (reqSorrel k) 4 (ownerAddr s p k f) o

/-- A frame of the pool is owned in some stack. -/
def State.poolOwned (s : State) (p : KvPool) : Bool :=
  (List.range 8).any (fun k => (List.range p.frames).any (fun f => s.frameOwner p k f != 0))

/-- Free frames of a pool in a stack (R226). -/
def State.framesFree (s : State) (p : KvPool) (k : Nat) : Nat :=
  if p.en then ((List.range p.frames).filter (fun f => s.frameOwner p k f = 0)).length else 0

/-! The frame allocator (R204). -/

/-- SRC code of a port's master. -/
def kvSrc : KvPort → Nat
  | .page => 0xFF2
  | .frontEnd => 0xFF0
  | .umc => 0xFF1

/-- Result of a port: HC_KV_RESULT for the page port; private ports keep theirs in `kvRes`. FRAME is what the last ALLOC
gave, or 0xF_FFFF; a FREE leaves it, and BUSY falls (R226). -/
def State.kvResult (s : State) (k : Nat) (port : KvPort) (frame : Option Nat) (ok : Bool) : State :=
  let w (old : Nat) : Nat := frame.getD (old % 2 ^ 20) + (if ok then 2 ^ 31 else 0)
  match port with
  | .page => (s.setReg .hc k Off.kvResult (BitVec.ofNat 32 (w (s.regN .hc k Off.kvResult)))).setField .hc k Off.kvStat 8 8 0
  | .frontEnd => { s with fe := { s.fe with kvRes := SMap.upd 0 s.fe.kvRes (2 * k) w } }
  | .umc => { s with fe := { s.fe with kvRes := SMap.upd 0 s.fe.kvRes (2 * k + 1) w } }

/-- OP 3, or a pool that is not enabled. -/
def State.kvRefuse (s : State) (k : Nat) (port : KvPort) : State :=
  (s.kvResult k port (some 0xFFFFF) false).orReg .hc k Off.kvStat 4

/-- Stack `k` does not take the allocator's requests: the command runs on, BUSY on the page port (R226), until the stack does. -/
def State.kvHeld (s : State) (k : Nat) (port : KvPort) : State := if port = .page then s.orReg .hc k Off.kvStat 0x100 else s

/-- ALLOC: the lowest free frame, or none. -/
def State.kvAllocOp (s : State) (k : Nat) (port : KvPort) (n owner : Nat) : Option Nat × State :=
  let p := s.kvPool n
  if !p.en then (none, s.kvRefuse k port)
  else match (List.range p.frames).find? (fun f => s.frameOwner p k f = 0) with
  | some f => (some f, (s.setFrameOwner p k f owner).kvResult k port (some f) true)
  | none => (none, (s.kvResult k port (some 0xFFFFF) false).sticky .hc k Off.kvStat 1 (some 21))

/-- FREE, with the refusals of the table of R204. -/
def State.kvFreeOp (s : State) (k : Nat) (port : KvPort) (n owner frame : Nat) : State :=
  let p := s.kvPool n
  if !p.en then s.kvRefuse k port
  else
    let held := if frame < p.frames then s.frameOwner p k frame else 0
    let why := if p.frames ≤ frame then 1 else if held = 0 then 2 else if held ≠ owner then 3 else 0
    if why = 0 then (s.setFrameOwner p k frame 0).kvResult k port none true
    else
      let s := s.kvResult k port none false
      let s := (s.orReg .hc k Off.kvStat 1).event .hc k 20
      (s.addReg .hc k Off.kvBadFree 1).logErr .hc k 0x06 (frame + 2 ^ 32 * held) (kvSrc port) (owner + 2 ^ 20 * why)

def execKvAlloc (k : StackId) (port : KvPort) (pool : PoolId) (owner : W20) (s : State) : Ans :=
  .next (if s.stkServes k.val then (s.kvAllocOp k.val port pool.val owner.toNat).2 else s.kvHeld k.val port)

def execKvFree (k : StackId) (port : KvPort) (pool : PoolId) (owner : W20) (frame : W20) (s : State) : Ans :=
  .next (if s.stkServes k.val then s.kvFreeOp k.val port pool.val owner.toNat frame.toNat else s.kvHeld k.val port)

/-- OP 3, or a command for a pool that is not enabled; OP 0 starts nothing. -/
def execKvBadOp (k : StackId) (port : KvPort) (op : W2) (pool : PoolId) (s : State) : Ans :=
  .next (if op = 3 ∨ (op ≠ 0 ∧ !(s.kvPool pool.val).en) then s.kvRefuse k.val port else s)

/-! Sequence entries (R200). -/

def State.seqAddr (s : State) (q : Nat) : Nat := s.seqBase + 64 * q

structure SeqEntry where
  sid : Nat
  state : Nat
  pool : Nat
  gen : Nat
  len : Nat
  pos : Nat
  cap : Nat
  bt0 : Nat
  bt1 : Nat
  genLen : Nat
  deriving DecidableEq, Repr

def State.seqGet (s : State) (q : Nat) : SeqEntry :=
  let a := s.seqAddr q
  let w := s.memGetN 4 a
  { sid := bitsN w 19 0, state := bitsN w 23 20, pool := bitsN w 25 24, gen := bitsN w 26 26, len := s.memGetN 4 (a + 4)
    pos := s.memGetN 4 (a + 8), cap := s.memGetN 4 (a + 12), bt0 := s.memGetN 8 (a + 16), bt1 := s.memGetN 8 (a + 24)
    genLen := s.memGetN 4 (a + 32) }

/-- Write the first word's STATE and GEN. -/
def State.seqSet (s : State) (q st gen : Nat) : State :=
  let a := s.seqAddr q
  let w := s.memGetN 4 a
  s.memPutN 4 a (setBitsN (setBitsN w 23 20 st) 26 26 gen)

def SeqEntry.table (e : SeqEntry) (g : Nat) : Nat := if g = 0 then e.bt0 else e.bt1

/-- Stack of block `i` (R199). -/
def SeqEntry.stack (e : SeqEntry) (i : Nat) : Nat := (i + e.sid) % 8

/-- FRAME of a valid table or map entry (R202). -/
def frameOf (w : Nat) : Option Nat := if bitN w 31 then some (bitsN w 19 0) else none

/-! Summaries (R209). -/

/-- An integer quotient rounded to nearest, ties to even; `d` above 0. -/
def rneQuot (n : Int) (d : Nat) : Int :=
  let m := n.natAbs
  let q := m / d
  let r := m % d
  let q' := if 2 * r > d ∨ (2 * r = d ∧ q % 2 = 1) then q + 1 else q
  if n < 0 then -(q' : Int) else q'

/-- Numerator significand and exponent of an SW16 word: v = (1024 + f) × 2^(e - bias - 10); the bias cancels (R65, R67). -/
def sw16Sig (w : Nat) : Nat × Nat := (1024 + bitsN w 9 0, bitsN w 15 10)

/-- r[t, d] before the clamp. -/
def sumRatio (k : Int) (st sp : Nat) : Int :=
  let a := sw16Sig st
  let b := sw16Sig sp
  rneQuot (k * (a.1 * 2 ^ a.2 : Nat)) (b.1 * 2 ^ b.2)

/-- The INT4 element k[t, d] of a KV tile's lines (R71). -/
def kvElem (tile : Nat → Line) (t d : Nat) : Int :=
  let e := 128 * (t % 2) + d
  sext 4 (bitsN (tile (t / 2)).toNat (4 * e + 3) (4 * e))

/-- The token scale s_t of a KV tile. -/
def kvScale (tile : Nat → Line) (t : Nat) : Nat := bitsN (tile 32).toNat (16 * t + 15) (16 * t)

/-- hi and lo of dimension `d`, and whether a value was clamped. -/
def sumDim (tile : Nat → Line) (sp d : Nat) : Int × Int × Bool :=
  (List.range 64).foldl (fun (acc : Int × Int × Bool) t =>
    let x := sumRatio (kvElem tile t d) (kvScale tile t) sp
    let y := max (-128) (min 127 x)
    (max acc.1 y, min acc.2.1 y, acc.2.2 || decide (x ≠ y))) (-128, 127, false)

/-- The two lines of a pair's summary, and whether a value was clamped. -/
def sumLines (tile : Nat → Line) (sp : Nat) : Line × Line × Bool :=
  let ds := (List.range 128).map (fun d => sumDim tile sp d)
  (lineOf 8 (ds.map (fun x => ofInt 8 x.1)), lineOf 8 (ds.map (fun x => ofInt 8 x.2.1)), ds.any (fun x => x.2.2))

/-- SUMMARY_BUILD: the unit builds the summaries of its oldest waiting block (R207, R209, R221); `v.ecc` is what its line reads
find, pair by pair. In a die reset the build waits, and starts again after it (R227). -/
def execSummaryBuild (v : StackReads) (s : State) : Ans :=
  .next (
    let st := s.stk v.unit.val
    match st.builds with
    | [] => s
    | b :: rest =>
      if !s.stkServes v.unit.val then s
      else
        let e := s.seqGet b.slot
        let p := s.kvPool e.pool
        let j := b.block / 8
        let bf := frameOf (s.memGetN 4 (e.table b.gen + 4 * b.block))
        let sf := frameOf (s.hbmGetN 4 (p.mapEntry v.unit.val b.slot b.gen (j / 33)))
        let s := s.setStk v.unit.val { st with builds := rest }
        match bf, sf with
        | some bf, some sf =>
          (List.range p.np).foldl (fun s pr =>
            let r := (List.range 33).foldl (fun (acc : List Line × Bool × State) i =>
              let x := acc.2.2.hbmReadInt v.unit.val (p.area v.unit.val bf pr + 128 * i) (v.ecc.getD (33 * pr + i) .clean)
              (acc.1 ++ [x.1.1], acc.2.1 || x.1.2, x.2)) ([], false, s)
            let s := r.2.2
            let a := p.area v.unit.val sf pr + 256 * (j % 33)
            let s := if r.2.1 then
                let s := (s.hbmWriteInt v.unit.val a 0 true).hbmWriteInt v.unit.val (a + 128) 0 true
                (s.addReg .hc v.unit.val Off.srPoison 1).sticky .hc v.unit.val Off.srStat 1 (some 23)
              else
                let sp := s.hbmGetN 2 (p.partAt v.unit.val + p.scaleOff s.seqSlots + 2 * pr)
                let y := sumLines (fun i => r.1.getD i 0) sp
                let s := (s.hbmWriteInt v.unit.val a y.1 false).hbmWriteInt v.unit.val (a + 128) y.2.1 false
                if y.2.2 then s.orReg .hc v.unit.val Off.srStat 4 else s
            s.addReg .hc v.unit.val Off.srBuild 1) s
        | _, _ => s)

/-! Requests (R215 to R218). -/

structure SrHdr where
  sid : Nat
  pool : Nat
  gen : Nat
  fill : Bool
  slot : Nat
  pair : Nat
  len : Nat
  sink : Nat
  recent : Nat
  nhead : Nat
  ncand : Nat
  qaddr : Nat
  result : Nat
  rtally : Nat
  deriving DecidableEq, Repr

def SrHdr.of (l : Line) : SrHdr :=
  let w := l.toNat
  let f (o n : Nat) : Nat := bitsN w (8 * o + n - 1) (8 * o)
  { sid := f 0 20, pool := bitsN w 21 20, gen := bitsN w 22 22, fill := bitN w 23, slot := f 4 14, pair := f 6 12, len := f 8 23
    sink := f 12 4, recent := bitsN w 103 100, nhead := f 13 8, ncand := f 14 16, qaddr := f 16 42, result := f 24 52
    rtally := f 32 32 }

/-- A byte that the header's table lists as zero, one after QSCALE, is not (R215, R218). -/
def srReserved (l : Line) : Bool := bitsN l.toNat 1023 544 != 0

/-- Candidates of stack `k`: its blocks below NFULL that are not forced (R210, R211). -/
def SrHdr.cands (h : SrHdr) (k : Nat) : List Nat :=
  let nf := h.len / 64
  (List.range nf).filter (fun i =>
    (i + h.sid) % 8 == k && !(decide (i < h.sink)) && !(decide (nf ≤ i + h.recent)))

/-- B_h of R212. -/
def srDot (q hi lo : Line) : Int :=
  Tile.sumI ((List.range 128).map (fun d =>
    let v (l : Line) : Int := sext 8 (lineByte l d)
    max (v q * v hi) (v q * v lo)))

/-- score_h (R212): one rounding. -/
def srScore (c6 : Bool) (b : Int) (w : Nat) : W32 :=
  if b = 0 then 0
  else
    let g := sw16Sig w
    (Fp.round false 24 (decide (b < 0)) (b.natAbs * g.1) ((g.2 : Int) - (if c6 then 50 else 58))).1

/-- The larger of two scores. -/
def srMax (a b : W32) : W32 := if Fp.valKey false a < Fp.valKey false b then b else a

/-- Insert (score, block) in rank order (R213). -/
def srInsert (x : W32 × Nat) : List (W32 × Nat) → List (W32 × Nat)
  | [] => [x]
  | y :: ys =>
    let kx := Fp.valKey false x.1
    let ky := Fp.valKey false y.1
    if ky < kx ∨ (kx = ky ∧ x.2 < y.2) then x :: y :: ys else y :: srInsert x ys

/-- The result lines of ranked entries (R216). -/
def srLines (ncand : Nat) (xs : List (W32 × Nat)) : List Line :=
  (List.range (cdiv ncand 16)).map (fun i => lineOf 64 ((List.range 16).map (fun j =>
    match xs[16 * i + j]? with
    | some x => x.1.toNat + 2 ^ 32 * x.2
    | none => 0xFF800000 + 2 ^ 32 * 0xFFFFFFFF)))

/-- A result line or its count is lost (R235, R315): the sorrel unit reports the loss. -/
def State.srLoss (s : State) (k : Nat) : State := s.report Code.lineLoss (0x220 + k) 0 0

/-- Count a result line on RTALLY (R216, R235), under flow and generation `fw`. -/
def State.srCount (s : State) (k : StackId) (ref : Nat) (fw : Nat × Nat) : State :=
  let r := s.tallyAdd (reqSorrel k.val) none none ref 1
  match r.1 with
  | .done => r.2
  | .lost => r.2.srLoss k.val
  | .remote dev =>
    let x := r.2.inject (.sorrel k) .tallyCount 0 0 fw.1 fw.2 dev 0 false (.signal (BitVec.ofNat 32 (refForRemote none none ref)) 1)
    match x.1 with
    | .noRoute => x.2.srLoss k.val
    | _ => x.2

/-- Write one result line, under flow and generation `fw`; none while its destination holds it. -/
def State.srPut (io : RegIO) (s : State) (k : StackId) (h : SrHdr) (fw : Nat × Nat) (i : Nat) (l : Line) : Option State :=
  let a := (h.result + 128 * i) % 2 ^ 52
  if s.isOwn a then
    let r := s.writeLocal io (reqSorrel k.val) (localOf a) fullMask l false .clean
    match r.1 with
    | .done => some (r.2.srCount k h.rtally fw)
    | .held => none
    | .lost => some (r.2.srLoss k.val)
    | .discarded => some r.2
  else
    let dev := devOf a
    let here := match s.tref none none h.rtally with
      | .remote d => d == dev
      | _ => false
    let tl := if here then some (BitVec.ofNat 32 (refForRemote none none h.rtally)) else none
    let x := s.inject (.sorrel k) .line (b2n (!here)) h.rtally fw.1 fw.2 dev (localOf a) false
      (.write (localOf a) fullMask l false tl false)
    some (match x.1 with
      | .noRoute => x.2.srLoss k.val
      | _ => x.2)

/-- Send all result lines of a request, under its sender's flow (R316), or wait. -/
def State.srAnswer (io : RegIO) (s : State) (k : StackId) (r : SrReq) (xs : List (W32 × Nat)) : Option State :=
  let h := SrHdr.of r.h
  let fw := match r.src with
    | some f => s.flowAt f
    | none => (66, 0)
  let ls := srLines h.ncand xs
  (List.range ls.length).foldl (fun acc i => acc.bind (fun s => s.srPut io k h fw i (ls.getD i 0))) (some s)

/-- A query line: a line that comes poisoned, or is lost, has no stated content (a free value, assumption 6). -/
def State.srQuery (io : RegIO) (s : State) (k : Nat) (a : Nat) (e : Ecc) : Option (Line × State) :=
  let r := s.readLocal io (reqSorrel k) a e
  match r.1 with
  | .line l false => some (l, r.2)
  | .held => none
  | _ => some (Config.freeLine r.2.freeCtr, { r.2 with freeCtr := r.2.freeCtr + 1 })

def State.srQueries (io : RegIO) (k : Nat) : Nat → Nat → List Ecc → State → Option (List Line × State)
  | 0, _, _, s => some ([], s)
  | n + 1, a, es, s =>
    match s.srQuery io k a (es.headD .clean) with
    | none => none
    | some x => (State.srQueries io k n (a + 128) es.tail x.2).map (fun y => (x.1 :: y.1, y.2))

/-- The header is in error (R218). -/
def State.srBad (s : State) (k : Nat) (l : Line) : Bool :=
  let h := SrHdr.of l
  let p := s.kvPool h.pool
  h.nhead == 0 || decide (16 < h.nhead) || h.ncand == 0 || decide (256 < h.ncand) || decide (p.np ≤ h.pair) || !p.en
    || (!h.fill && h.len % 64 != 0) || srReserved l
    || (h.cands k).any (fun i => (frameOf (s.hbmGetN 4 (p.mapEntry k h.slot h.gen (i / 8 / 33)))).isNone)

/-- Score one candidate block (R212, R214); the reads of its two lines find `e` and `e'`. -/
def State.srBlock (s : State) (k : Nat) (l : Line) (qs : List Line) (i : Nat) (e e' : Ecc) : (W32 × Nat) × State :=
  let h := SrHdr.of l
  let p := s.kvPool h.pool
  let j := i / 8
  let f := (frameOf (s.hbmGetN 4 (p.mapEntry k h.slot h.gen (j / 33)))).getD 0
  let a := p.area k f h.pair + 256 * (j % 33)
  let x := s.hbmReadInt k a e
  let y := x.2.hbmReadInt k (a + 128) e'
  let s := y.2.addReg .hc k Off.srScan 1
  let bad := b2n x.1.2 + b2n y.1.2
  if bad ≠ 0 then ((0x7F7FFFFF, i), (s.addReg .hc k Off.srPoison bad).sticky .hc k Off.srStat 1 (some 23))
  else
    let sc := (List.range h.nhead).map (fun n => srScore p.c6 (srDot (qs.getD n 0) x.1.1 y.1.1) (bitsN l.toNat (16 * (18 + n) + 15) (16 * (18 + n))))
    ((match sc with
      | [] => 0
      | c :: cs => cs.foldl srMax c, i), s)

/-- Answer the oldest header of stack `k` (R216 to R218): `es` is what the reads of its query lines, then of its candidates'
two lines each, find. -/
def State.srScan (io : RegIO) (s : State) (k : StackId) (es : List Ecc) : State :=
  let st := s.stk k.val
  match st.srq with
  | [] => s
  | r :: rest =>
    if !s.stkServes k.val then s
    else
      let s0 := s.setStk k.val { st with srq := rest }
      let h := SrHdr.of r.h
      if s0.srBad k.val r.h then
        match s0.srAnswer io k r [] with
        | none => s
        | some t =>
          let src := r.src.getD (0x220 + k.val)
          let t := (t.orReg .hc k.val Off.srStat 1).event .hc k.val 22
          let t := t.logErr .hc k.val 0x0D (s.own (0x18000010F80 + k.val * 4096)) src (h.slot + 2 ^ 16 * h.pair)
          (t.addReg .hc k.val Off.srReq 1).report Code.sorrelReq src 0 0
      else
        match State.srQueries io k.val h.nhead h.qaddr es s0 with
        | none => s
        | some (qs, s1) =>
          let x := (h.cands k.val).zipIdx.foldl (fun (acc : List (W32 × Nat) × State) c =>
            let y := acc.2.srBlock k.val r.h qs c.1 (es.getD (h.nhead + 2 * c.2) .clean) (es.getD (h.nhead + 2 * c.2 + 1) .clean)
            (srInsert y.1 acc.1, y.2)) ([], s1)
          match x.2.srAnswer io k r (x.1.take h.ncand) with
          | none => s
          | some t => t.addReg .hc k.val Off.srReq 1

/-- SORREL_REQUEST: a header written to the stack's window enters its queue; a full queue holds it (R215, R217). -/
def execSorrelRequest (k : StackId) (h : Line) (src : OptFloret) (s : State) : Ans :=
  .next ((s.srEnqueue k.val h (src.map (·.val))).getD s)

/-! Sequence commands (R221 to R225). -/

/-- A launch released, or prepared for release (R206, R269), names sequence slot `q`, with A above 0 if `grow`. -/
def State.namesSeq (s : State) (q : Nat) (grow : Bool) : Bool :=
  s.fe.slots.any (fun t => (t.2.state == 2 || t.2.kv) && t.2.batch.any (fun b => b.slot == q && (!grow || b.a != 0)))

/-- Summaries of the slot wait to be built, of either generation. -/
def State.building (s : State) (q : Nat) : Bool :=
  (List.range 8).any (fun k => (s.stk k).builds.any (fun b => b.slot == q))

/-- Summaries of the slot's active generation wait to be built (R206, R207); those of a REBUILD hold no launch (R221). -/
def State.filling (s : State) (q : Nat) : Bool :=
  (List.range 8).any (fun k => (s.stk k).builds.any (fun b => b.slot == q && b.gen == (s.seqGet q).gen))

/-- FE_SEQ_STAT.RESULT, then the end of the command: BUSY falls and SEQ_DONE is raised. -/
def State.seqEnd (s : State) (res : Nat) : State :=
  let s := s.setField .fe 0 0x718 7 4 res
  ({ s with fe := { s.fe with seqOp := none } }).event .fe 0 24

/-- Every stack serves the front end and the allocators (R298, R332): tables and frames lie over all eight. -/
def State.kvServes (s : State) : Bool := (List.range 8).all (fun k => s.stkServes k)

/-- Take a command of FE_SEQ_CMD: `true` when it, or the one under way, is this one and the stacks serve it; another under way is
an overrun. -/
def State.seqTake (s : State) (op q arg : Nat) : Bool × State :=
  match s.fe.seqOp with
  | none =>
    let s := { s with fe := { s.fe with seqOp := some ⟨op, q, arg, false⟩ } }
    (s.kvServes, if s.kvServes && decide (q < s.seqSlots) then s.memTouch 64 (s.seqAddr q) else s)
  | some o => if o.op = op ∧ o.slot = q then (s.kvServes, s) else (false, s.orReg .fe 0 0x718 0x100)

def State.seqStarted (s : State) : Bool := match s.fe.seqOp with
  | some o => o.started
  | none => false

def State.seqStart (s : State) : State :=
  { s with fe := { s.fe with seqOp := s.fe.seqOp.map (fun o => { o with started := true }) } }

/-- An entry that OPEN refuses (R225). -/
def State.openBad (s : State) (q : Nat) (e : SeqEntry) : Bool :=
  e.sid == 0 || e.sid == 0xFFFFF || e.len != 0 || e.gen != 0 || e.cap == 0 || decide (65536 < e.cap) || e.bt0 % 128 != 0
    || e.bt1 % 128 != 0
    || (List.range s.seqSlots).any (fun r => r != q && (let x := s.seqGet r; x.state != 0 && x.sid == e.sid))

/-- OPEN (R201, R225). -/
def State.seqOpen (s : State) (q : Nat) : State :=
  let r := s.seqTake 1 q 0
  let s := r.2
  if !r.1 then s
  else if s.seqSlots ≤ q then s.seqEnd 1
  else
    let e := s.seqGet q
    if e.state ≠ 0 then s.seqEnd 2
    else if s.openBad q e then s.seqEnd 5
    else if !(s.kvPool e.pool).en then s.seqEnd 6
    else (s.seqSet q 1 e.gen).seqEnd 0

/-- Free the valid frames of the first `n` entries of a block table for which `keep` is false, and clear the entries. -/
def State.freeTable (s : State) (e : SeqEntry) (g : Nat) (keep : Nat → Nat → Bool) : State :=
  (List.range e.cap).foldl (fun s i =>
    let a := e.table g + 4 * i
    match frameOf (s.memGetN 4 a) with
    | none => s
    | some f =>
      let s := if keep i f then s else s.kvFreeOp (e.stack i) .frontEnd e.pool e.sid f
      s.memPutN 4 a 0) s

/-- Whether generation `n`'s table lists frame `f` of the stack of block `i`. -/
def SeqEntry.listed (e : SeqEntry) (s : State) (n i f : Nat) : Bool :=
  (List.range e.cap).any (fun j => e.stack j == e.stack i && frameOf (s.memGetN 4 (e.table n + 4 * j)) == some f)

/-- Free every summary frame of a generation's map records, and clear them. -/
def State.freeMaps (s : State) (q : Nat) (e : SeqEntry) (g : Nat) : State :=
  let p := s.kvPool e.pool
  (List.range 8).foldl (fun s k => (List.range 249).foldl (fun s j =>
    let a := p.mapEntry k q g j
    match frameOf (s.hbmGetN 4 a) with
    | none => s
    | some f => (s.kvFreeOp k .frontEnd e.pool e.sid f).hbmPutN reqFront 4 a 0) s) s

/-- CLOSE (R223, R327): OPEN and LOST slots. A frame that both tables list is freed once. -/
def State.seqClose (s : State) (q : Nat) : State :=
  let r := s.seqTake 2 q 0
  let s := r.2
  if !r.1 then s
  else if s.seqSlots ≤ q then s.seqEnd 1
  else
    let e := s.seqGet q
    if !s.seqStarted ∧ !(e.state = 1 ∨ e.state = 5) then s.seqEnd 2
    else
      let s := if s.seqStarted then s else (s.seqSet q 4 e.gen).seqStart
      if s.namesSeq q false || s.building q || s.fe.lens.any (fun l => l.slot == q) then s
      else
        let listed := e.listed s 0
        let s := (s.freeTable e 1 listed).freeTable e 0 (fun _ _ => false)
        let s := (s.freeMaps q e 0).freeMaps q e 1
        (s.seqSet q 0 e.gen).seqEnd 0

/-- Allocate and list the summary frames that blocks `lo` to `hi - 1` of generation `g` need; none when a stack has no
frame, with what was allocated already given back. -/
def State.sumFrames (q : Nat) (e : SeqEntry) (g : Nat) : Nat → Nat → State → Bool × State × List (Nat × Nat × Nat)
  | 0, _, s => (true, s, [])
  | n + 1, i, s =>
    let p := s.kvPool e.pool
    let k := e.stack i
    let a := p.mapEntry k q g (i / 8 / 33)
    match frameOf (s.hbmGetN 4 a) with
    | some _ => State.sumFrames q e g n (i + 1) s
    | none =>
      let r := s.kvAllocOp k .frontEnd e.pool e.sid
      match r.1 with
      | none => (false, r.2, [])
      | some f =>
        let y := State.sumFrames q e g n (i + 1) (r.2.hbmPutN reqFront 4 a (f + 2 ^ 31))
        (y.1, y.2.1, (k, f, a) :: y.2.2)

/-- Queue the builds of blocks `lo` to `hi - 1`, in increasing order (R207). -/
def State.queueBuilds (s : State) (q : Nat) (e : SeqEntry) (g lo hi : Nat) : State :=
  (List.range (hi - lo)).foldl (fun s i =>
    let k := e.stack (lo + i)
    let st := s.stk k
    s.setStk k { st with builds := st.builds ++ [⟨q, g, lo + i⟩] }) s

/-- REBUILD (R221). A slot that a split makes LOST meanwhile stays so, and the command ends (R327). -/
def State.seqRebuild (s : State) (q arg : Nat) : State :=
  let r := s.seqTake 3 q arg
  let s := r.2
  if !r.1 then s
  else if s.seqSlots ≤ q then s.seqEnd 1
  else
    let e := s.seqGet q
    let g := 1 - e.gen
    let arg := match s.fe.seqOp with
      | some o => o.arg
      | none => arg
    if s.seqStarted then
      if e.state = 5 then s.seqEnd 2
      else if (List.range 8).any (fun k => (s.stk k).builds.any (fun b => b.slot == q && b.gen == g)) then s
      else ((s.memPutN 4 (s.seqAddr q + 32) arg).seqSet q 1 e.gen).seqEnd 0
    else if e.state ≠ 1 then s.seqEnd 2
    else
      let lo := e.genLen / 64
      let hi := arg / 64
      let y := State.sumFrames q e g (hi - lo) lo s
      if y.1 then ((y.2.1.seqSet q 2 e.gen).queueBuilds q e g lo hi).seqStart
      else
        (y.2.2.foldl (fun s x => (s.kvFreeOp x.1 .frontEnd e.pool e.sid x.2.1).hbmPutN reqFront 4 x.2.2 0) y.2.1).seqEnd 4

/-- SWITCH (R222). GEN_LEN becomes 0: the generation that is now inactive has no summary left (R200, R221). A
slot that a split makes LOST meanwhile stays so, and the command ends (R327). -/
def State.seqSwitch (s : State) (q : Nat) : State :=
  let r := s.seqTake 4 q 0
  let s := r.2
  if !r.1 then s
  else if s.seqSlots ≤ q then s.seqEnd 1
  else
    let e := s.seqGet q
    if (!s.seqStarted ∧ e.state ≠ 1) ∨ e.state = 5 then s.seqEnd 2
    else if !s.seqStarted ∧ e.genLen ≠ e.len then s.seqEnd 3
    else
      let s := if s.seqStarted then s else (s.seqSet q 3 e.gen).seqStart
      if s.namesSeq q false || s.building q || s.fe.lens.any (fun l => l.slot == q) then s
      else if e.genLen ≠ e.len then (s.seqSet q 1 e.gen).seqEnd 3
      else
        let g := e.gen
        let n := 1 - g
        let s := s.seqSet q 3 n
        let listed := e.listed s n
        let s := (s.freeTable e g listed).freeMaps q e g
        ((s.memPutN 4 (s.seqAddr q + 32) 0).seqSet q 1 n).seqEnd 0

def execOpenSeq (q : SeqSlot) (s : State) : Ans := .next (s.seqOpen q.val)
def execCloseSeq (q : SeqSlot) (s : State) : Ans := .next (s.seqClose q.val)
def execRebuild (q : SeqSlot) (s : State) : Ans := .next (s.seqRebuild q.val (bitsN (s.regN .fe 0 0x714) 22 0))
def execSwitchSeq (q : SeqSlot) (s : State) : Ans := .next (s.seqSwitch q.val)

/-- OP 5 to 15 end at once with BAD_OP; OP 0 starts nothing (R225). -/
def State.seqBad (s : State) (op : Nat) : State :=
  if op < 5 then s else if s.fe.seqOp.isSome then s.orReg .fe 0 0x718 0x100 else s.seqEnd 7

def execSeqBadOp (op : W4) (_q : SeqSlot) (s : State) : Ans := .next (s.seqBad op.toNat)

/-- LEN_UPDATE (R207). -/
def execLenUpdate (q : SeqSlot) (s : State) : Ans :=
  .next (
    match s.fe.lens.find? (fun l => l.slot = q.val) with
    | none => s
    | some l =>
      if s.filling q.val || s.namesSeq q.val false || !s.kvServes then s
      else
        let a := s.seqAddr q.val
        let s := (s.memPutN 4 (a + 4) (l.len + l.a)).memPutN 4 (a + 8) (l.pos + l.a)
        { s with fe := { s.fe with lens := s.fe.lens.filter (fun x => x.slot ≠ q.val) } })

end Sys2Proof.Machine
end

