-- ==== Sys2Proof/Machine/PowerBase.lean ====
section
/-! DEFINITION. What other chapters ask of the power controller and of the resets: the reset of a floret and of an umbel
(R18, R47, R92, R115, R136, R174, R184, R188), power-gating (R335, R336), operating points (R339, R340), partitions (R363). -/

namespace Sys2Proof.Machine

def State.rail (s : State) (r : Nat) : PwRail := SMap.get PwRail.reset s.pw.rails r
def State.setRail (s : State) (r : Nat) (x : PwRail) : State := { s with pw := { s.pw with rails := SMap.put PwRail.reset s.pw.rails r x } }

/-! Partitions and launches of an umbel. -/

def State.partMask (s : State) (p : Nat) : W32 := s.reg .gl 0 (0x400 + 8 * p)
def State.part (s : State) (p : Nat) : Part := SMap.get Part.reset s.flt.parts p
def State.setPart (s : State) (p : Nat) (x : Part) : State := { s with flt := { s.flt with parts := SMap.put Part.reset s.flt.parts p x } }

/-- The umbel belongs to a live partition. -/
def State.umLive (s : State) (u : Nat) : Bool := (List.range 16).any (fun p => (s.part p).state == 1 && (s.partMask p).getLsbD u)

/-- A released launch that has not ended places a floret in the umbel. -/
def State.umUsed (s : State) (u : Nat) : Bool :=
  s.fe.slots.any (fun t => t.2.state == 2 && t.2.ended.isNone && t.2.florets.any (fun f => f / 16 == u))

/-! Resets of pages, florets and umbels. -/

/-- Reset the registers of a page; `keep` names offsets that lie outside the reset. -/
def State.pageReset (s : State) (pg : Nat) (keep : Nat → Bool) : State :=
  let mine (k : Nat) : Bool := k / 4096 == pg && !keep (k % 4096)
  { s with
    regs := SMap.eraseIf mine s.regs, cnt64 := SMap.eraseIf mine s.cnt64, latch := SMap.eraseIf mine s.latch
    logPtr := SMap.erase s.logPtr pg }

/-- The agents' accesses under way lose their agents: data that comes is discarded, and a written line still counts (R243). -/
def State.dropAgents (s : State) (p : Agent → Bool) : State :=
  { s with
    fab := { s.fab with awaits := s.fab.awaits.map (fun w => if p w.agent then { w with orphan := true } else w) }
    hostReads := s.hostReads.filter (fun x => !p x.agent) }

def agentOfFloret (f : Nat) : Agent → Bool
  | .load g => g.val == f
  | .store g => g.val == f
  | .seq g => g.val == f
  | _ => false

def agentOfUmbel (u : Nat) : Agent → Bool
  | .load g => g.val / 16 == u
  | .store g => g.val / 16 == u
  | .seq g => g.val / 16 == u
  | .dma v _ => v.val == u
  | .dd v => v.val == u
  | _ => false

/-- The delta decoder drops what it holds for a floret in reset: a partly written record keeps its completed lines (R115). -/
def Umbel.ddForget (x : Umbel) (f : Nat) : Umbel :=
  { x with ddq := x.ddq.filter (fun r => r.floret ≠ f), ddout := x.ddout.filter (fun o => o.req.floret ≠ f) }

/-- Floret reset (R18, R47, R92, R115, R136, R174): the near bank keeps its lines; lines in flight drop. -/
def State.floretReset (s : State) (f : Nat) : State :=
  ((({ s with fls := SMap.erase s.fls f }).modUm (f / 16) (fun x => x.ddForget f)).pageReset (Blk.page .fl f)
    (fun _ => false)).dropAgents (agentOfFloret f)

/-- Umbel reset (R115, R174, R184, R188): every floret of it too. The umbel stays held or closed as it was. -/
def State.umbelReset (s : State) (u : Nat) : State :=
  let x := s.um u
  let s := (List.range 16).foldl (fun s i => s.floretReset (16 * u + i)) s
  ((s.setUm u { Umbel.reset with held := x.held, closed := x.closed }).pageReset (Blk.page .ub u) (fun _ => false)).dropAgents (agentOfUmbel u)

/-! Gating and waking. -/

/-- Power-gate an umbel (R335, R336): near banks and the umbel buffer keep their contents; the rest leaves gating as an umbel
reset leaves it. -/
def State.gateUmbel (s : State) (u : Nat) : State :=
  let x := s.pwUmb u
  let s := s.umbelReset u
  (s.setUm u { s.um u with held := true, closed := false }).setPwUmb u
    { x with state := 0, freq := 0, guard := false, hold := 0, idleSoon := false, stretch := 0, alarm := false }

/-- A power-gated or clock-gated umbel starts to wake (R335, R337). -/
def State.startWake (s : State) (u : Nat) : State :=
  let x := s.pwUmb u
  if x.state ≤ 1 ∧ !s.pw.trip then s.setPwUmb u { x with state := 3 } else s

/-! Operating points (R339, R340). Voltages in mV. -/

/-- F of V/F entry `i` of umbel `u`, 25 MHz units: 16 for entry 0, 60 for entry 15, strictly rising; the fused choices between
are free (assumption 7). -/
def vfF (u i : Nat) : Nat :=
  if i = 0 then 16 else if 15 ≤ i then 60
  else 16 + i + (List.range (i + 1)).foldl (fun a j => max a (Config.vfFreq u j % 30)) 0

/-- V of an entry, within the range of rails 0 and 1, not falling as `i` rises (R333, R484). -/
def vfV (u i : Nat) : Nat := 550 + 5 * (List.range (i + 1)).foldl (fun a j => max a (Config.vfVolt u j % 61)) 0

/-- The lowest entry with F at or above `f`. -/
def vfEntry (u f : Nat) : Nat := ((List.range 16).find? (fun i => decide (f ≤ vfF u i))).getD 15

def ceil5 (v : Nat) : Nat := cdiv v 5 * 5

/-- What umbel `u` needs to run at `f` (R339, R341, R349, R377), within the range of rails 0 and 1 (R333; assumption 9). -/
def State.umNeed (s : State) (u f : Nat) : Nat :=
  let x := s.pwUmb u
  let i := vfEntry u f
  min 850 (vfV u i - 5 * SMap.get 0 x.trim i + SMap.get 0 x.guards i + (if x.guard then 20 else 0))

/-- The die fabric's fused minimum, at most 650 mV. -/
def dieMin (h : Nat) : Nat := 550 + 5 * (Config.dieMin h % 21)
/-- The fused SRAM voltage for a frequency; for 0, the retention voltage. -/
def sramVolt (f : Nat) : Nat := 600 + 5 * (Config.sramVolt f % 41)

/-- Umbels of half `h` that run or are clock-gated. -/
def State.powered (s : State) (h : Nat) : List Nat :=
  ((List.range 16).map (fun i => 16 * h + i)).filter (fun u => (s.pwUmb u).state == 1 || (s.pwUmb u).state == 2)

/-- The frequency in use of an umbel: the applied one, and at least that of entry 0 (0.4 GHz). -/
def State.umFreq (s : State) (u : Nat) : Nat := max 16 (s.pwUmb u).freq

/-- The voltage that rail 0 to 2 should have for the frequencies applied. -/
def State.railNeed (s : State) (r : Nat) : Nat :=
  if r < 2 then ceil5 ((s.powered r).foldl (fun v u => max v (s.umNeed u (s.umFreq u))) (dieMin r))
  else
    let us := s.powered 0 ++ s.powered 1
    if us.isEmpty then sramVolt 0 else sramVolt (us.foldl (fun f u => max f (s.umFreq u)) 16)

/-- Move a rail toward `v`: a raise waits for the reading (R340); a fall takes effect as it is written. -/
def State.setVolt (s : State) (r v : Nat) : State :=
  let x := s.rail r
  if v ≤ x.reached then s.setRail r { x with set := v, reached := v, raiseAt := 0 }
  else if x.set = v ∧ x.raiseAt ≠ 0 then s
  else s.setRail r { x with set := v, raiseAt := s.ftime + 1 }

/-- Set rails 0 to 2 as R339 says. PWRWARN changes no voltage (R351). -/
def State.retune (s : State) : State :=
  if s.pw.warn || s.pw.trip then s else (List.range 3).foldl (fun s r => s.setVolt r (s.railNeed r)) s

/-- IDLE_SOON has named the umbel, and no released launch uses it (R349). PWRWARN gates no domain (R351). -/
def State.idleGate (s : State) (u : Nat) : State :=
  if (s.pwUmb u).idleSoon && !s.umUsed u && !s.pw.warn then (s.gateUmbel u).retune else s

def State.idleGateAll (s : State) : State := (List.range 32).foldl (fun s u => s.idleGate u) s

/-- The umbel runs at its operating point (R337, R19). -/
def State.umAtPoint (s : State) (u : Nat) : Bool :=
  (s.pwUmb u).state == 2 && !(s.um u).held && !s.pw.trip && decide (s.umNeed u (s.umFreq u) ≤ (s.rail (u / 16)).reached)

end Sys2Proof.Machine
end

