-- ==== Sys2Proof/Machine/Rings.lean ====
section
/-! DEFINITION. Rings (chapter "Rings, Graph Images and Launches", R248 to R257, R278): ring operations, doorbells, the
commands that take no slot, completion records. -/

namespace Sys2Proof.Machine

/-- COMPAT of a page (R276, R476): a page that no write has changed reads the strap. -/
def State.compatOf (s : State) (page : Nat) : Bool := SMap.get s.strap s.compat page

def State.ring (s : State) (r : Nat) : Ring := SMap.get Ring.reset s.fe.rings r
def State.setRing (s : State) (r : Nat) (x : Ring) : State :=
  { s with fe := { s.fe with rings := SMap.put Ring.reset s.fe.rings r x } }
def State.modRing (s : State) (r : Nat) (h : Ring → Ring) : State := s.setRing r (h (s.ring r))

/-- Address of a ring's table entry (R248). -/
def State.ringAddr (s : State) (r : Nat) : Nat := s.regN .fe 0 0x100 + 2 ^ 32 * s.regN .fe 0 0x104 + 64 * r

/-- The front end brings bytes 0x20 to 0x37 of the entry up to date (R248). -/
def State.ringSync (s : State) (r : Nat) : State :=
  let x := s.ring r
  s.memPutN 24 (s.ringAddr r + 0x20)
    (x.head + 2 ^ 32 * x.tail + 2 ^ 64 * x.cplTail + 2 ^ 96 * x.cplHead + 2 ^ 128 * x.state + 2 ^ 136 * x.stopCode
      + 2 ^ 160 * x.stopHead)

/-- 32-byte commands and records (R278). -/
def State.ringC6 (s : State) (x : Ring) : Bool := x.c6 || s.compatOf (Blk.page .fe 0)
def State.ringUnit (s : State) (x : Ring) : Nat := if s.ringC6 x then 32 else 64

/-- A ring that STOPS (R250, R252, R254); one that is not ACTIVE stays as it is, with the code and HEAD of the command that
stopped it (R248, R280). -/
def State.ringStop (s : State) (r code : Nat) (n : Option Nat) : State :=
  if (s.ring r).state ≠ 1 then s
  else
  let s := s.modRing r (fun x => { x with state := 2, stopCode := code, stopHead := n.getD x.stopHead, wait := match x.wait with
    | .granted t => .granted t
    | _ => .none })
  (s.ringSync r).event .fe 0 27

/-- A disabled ring whose last command has ended becomes DISABLED (R249). -/
def State.ringIdle (s : State) (r : Nat) : State :=
  let x := s.ring r
  match x.wait with
  | .granted _ => s
  | _ =>
    if x.disabling && x.live.isEmpty && x.held.isEmpty then
      (s.setRing r { x with state := 0, disabling := false, wait := .none }).ringSync r
    else s

/-! Ring operations (R249). -/

/-- A ring operation or table write that is refused. -/
def State.ctlErr (s : State) : State := s.orReg .fe 0 0x10C 1

/-- Command buffers lie in the host window or in HBM. -/
def State.cmdPlace (s : State) (a : Nat) : Bool := decide (a < s.hbmEnd) || (decide (0x20000000000 ≤ a) && decide (a < 0x40000000000))

/-- ENABLE; refused before READY (R444). -/
def State.ringEnableOp (s : State) (r : Nat) : State :=
  let a := s.ringAddr r
  if !s.memReady a 64 then s
  else
  let s := s.memTouch 64 a
  let g (o n : Nat) : Nat := s.memGetN n (a + o)
  let x := s.ring r
  if s.boot.state ≠ 7 ∨ x.state ≠ 0 ∨ g 0 8 % 64 ≠ 0 ∨ !s.cmdPlace (g 0 8) ∨ g 8 1 < 4 ∨ 16 < g 8 1 ∨ g 0x0A 1 = 0 ∨ 64 < g 0x0A 1 ∨ 2047 < g 0x0C 2
      ∨ g 0x10 8 % 64 ≠ 0 ∨ 2 ^ 42 ≤ g 0x10 8 ∨ g 0x18 1 < 4 ∨ 16 < g 0x18 1 then s.ctlErr
  else
    (s.setRing r { x with
      state := 1, cmdBase := g 0 8, cmdLog2 := g 8 1, cls := bitsN (g 9 1) 1 0, c6 := bitN (g 9 1) 4, maxSlots := g 0x0A 1
      msix := g 0x0C 2, cplBase := g 0x10 8, cplLog2 := g 0x18 1, head := 0, tail := 0, cplTail := 0, cplHead := 0
      disabling := false, wait := .none }).ringSync r

/-- DISABLE: the ring takes no further command; a LAUNCH that holds a slot goes on. -/
def State.ringDisableOp (s : State) (r : Nat) : State :=
  let x := s.ring r
  if x.state = 0 then s
  else
    (s.setRing r { x with disabling := true, wait := match x.wait with
      | .granted t => .granted t
      | _ => .none }).ringIdle r

/-- RESUME; refused for a ring that is not STOPPED. -/
def State.ringResumeOp (s : State) (r : Nat) : State :=
  let x := s.ring r
  if x.state = 2 ∧ !x.disabling then (s.setRing r { x with state := 1 }).ringSync r else s.ctlErr

def execRingEnable (r : RingId) (s : State) : Ans := .next (s.ringEnableOp r.val)
def execRingDisable (r : RingId) (s : State) : Ans := .next (s.ringDisableOp r.val)
def execRingResume (r : RingId) (s : State) : Ans := .next (s.ringResumeOp r.val)

/-! Completion records (R256, R257). -/

/-- The bytes of a record. -/
def recBytes (lid op status head detail slot t0 t1 ver : Nat) : Nat :=
  lid % 2 ^ 16 + 2 ^ 16 * (op % 256) + 2 ^ 24 * (status % 256) + 2 ^ 32 * (head % 2 ^ 32) + 2 ^ 64 * (detail % 2 ^ 32)
    + 2 ^ 96 * (slot % 256) + 2 ^ 128 * (t0 % 2 ^ 64) + 2 ^ 192 * (t1 % 2 ^ 64) + 2 ^ 256 * (ver % 2 ^ 32)

/-- Free a slot after its record (R259). -/
def State.slotFree' (s : State) (t : Nat) (quarantine : Bool) : State :=
  let x := s.lsl t
  s.setLsl t (if quarantine then { x with state := 3, qEnd := s.ftime + 200000, ended := none, batch := [] }
    else { LSlot.reset with gen := x.gen })

/-- What follows the record of a launch that ended without error (R207): the summaries of the blocks it filled, and the
LEN updates. -/
def State.afterLaunch (s : State) (t : Nat) : State :=
  ((s.lsl t).batch.filter (fun b => b.a ≠ 0)).foldl (fun s b =>
    let e := s.seqGet b.slot
    let s := s.queueBuilds b.slot e e.gen (b.len / 64) ((b.len + b.a) / 64)
    { s with fe := { s.fe with lens := s.fe.lens ++ [⟨b.slot, b.a, b.len, b.pos⟩] } }) s

/-- Write one record: its bytes, the trace record, the message, then its slot (R240, R257, R417). -/
def State.writeRec (s : State) (r : Nat) (h : HeldRec) : State :=
  let x := s.ring r
  let n := s.ringUnit x
  let s := s.memPutN n (x.cplBase + n * (x.cplTail % 2 ^ x.cplLog2)) (h.bytes % 2 ^ (8 * n))
  let s := (s.setRing r { x with cplTail := (x.cplTail + 1) % 2 ^ 32, live := x.live.erase (bitsN h.bytes 63 32) }).ringSync r
  let s := s.trace 512 0x02 0 0x1000 (bitsN h.bytes 15 0) (bitsN h.bytes 103 96) (bitsN h.bytes 31 24 + 2 ^ 32 * bitsN h.bytes 95 64)
  let s := if h.irq then s.msix x.msix else s
  match h.slot with
  | none => s
  | some t => (if bitsN h.bytes 31 24 = 0 then s.afterLaunch t else s).slotFree' t h.quarantine

/-- The place of a ring's next record takes the front end's write: in HBM its stack must serve (R298). -/
def State.cplReady (s : State) (x : Ring) : Bool :=
  let a := x.cplBase + s.ringUnit x * (x.cplTail % 2 ^ x.cplLog2)
  match s.placeOf a with
  | .hbm => s.spanReady a (s.ringUnit x)
  | _ => true

/-- The completion buffer has room. -/
def Ring.cplRoom (x : Ring) : Bool := decide ((x.cplTail + 2 ^ 32 - x.cplHead) % 2 ^ 32 < 2 ^ x.cplLog2)

/-- Records that waited are written, oldest first. -/
def State.flushRecs : Nat → State → Nat → State
  | 0, s, _ => s
  | n + 1, s, r =>
    let x := s.ring r
    match x.held with
    | [] => s
    | h :: rest => if x.cplRoom && s.cplReady x then State.flushRecs n ((s.setRing r { x with held := rest }).writeRec r h) r else s

/-- A record that is never written: its command ends without it, and its slot is freed. -/
def State.dropRec (s : State) (r : Nat) (h : HeldRec) : State :=
  let s := s.modRing r (fun x => { x with live := x.live.erase (bitsN h.bytes 63 32) })
  match h.slot with
  | none => s
  | some t => s.slotFree' t h.quarantine

/-- Post a record behind those that wait, or hold it while the buffer is full or its stack takes no request (R298). In ERROR records are discarded (R395). -/
def State.postRec (s : State) (r : Nat) (h : HeldRec) : State :=
  if s.sec.tdi = 3 then s.dropRec r h
  else
    let s := State.flushRecs ((s.ring r).held.length + 1) s r
    let x := s.ring r
    if x.held.isEmpty && x.cplRoom && s.cplReady x then s.writeRec r h
    else s.setRing r { x with held := x.held ++ [h] }

/-- A SIGNAL acts (R242): its tally, or a packet for another device. Gives the status when it ends now. -/
def State.sigAct (s : State) (r : RingId) (p : PendSig) : Option Nat × State :=
  let ref := bitsN p.w 63 32
  let v := BitVec.ofNat 32 (bitsN p.w 95 64)
  let x := s.tallyAdd reqFront none none ref v
  match x.1 with
  | .done => (some 0, x.2)
  | .lost => (some 0x11, x.2)
  | .remote dev =>
    let y := x.2.inject .frontEnd .front r.val p.n 66 0 dev 0 false (.signal (BitVec.ofNat 32 (refForRemote none none ref)) v)
    match y.1 with
    | .noRoute => (some 0x11, y.2)
    | _ => (none, y.2)

/-- The record of a command other than a LAUNCH, when it needs one, and STOP (R252, R254). -/
def State.endRec (s : State) (r n w status detail t0 ver : Nat) : State :=
  let op := bitsN w 7 0
  let s := if status ≠ 0 ∨ bitN w 8 then
      s.postRec r ⟨recBytes (bitsN w 27 16) op status n detail 0xFF t0 s.ftime ver, bitN w 9, none, false⟩
    else s.modRing r (fun x => { x with live := x.live.erase n })
  if status ≠ 0 ∧ (bitN w 10 ∨ status = 0x13) then s.ringStop r status (some n) else s

/-- SIGNALs whose earlier commands have all completed act in turn (R242). -/
def State.runSigs : Nat → State → RingId → State
  | 0, s, _ => s
  | k + 1, s, r =>
    let x := s.ring r.val
    match x.sigs with
    | [] => s
    | p :: rest =>
      if p.sent || x.live.headD p.n != p.n then s
      else
        let y := s.sigAct r p
        match y.1 with
        | none => y.2.modRing r.val (fun x => { x with sigs := { p with sent := true } :: rest })
        | some st =>
          let s := y.2.modRing r.val (fun x => { x with sigs := rest })
          State.runSigs k (s.endRec r.val p.n p.w st (if st = 0 then 0 else Code.lineLoss) p.t0 0) r

/-- After a command has ended: SIGNALs that waited for it, then a DISABLE that waited for it. -/
def State.ringSettle (s : State) (r : RingId) : State := (State.runSigs ((s.ring r.val).sigs.length + 1) s r).ringIdle r.val

/-- A command other than a LAUNCH ends (R256). -/
def State.cmdEnd (s : State) (r : RingId) (n w status detail t0 ver : Nat) : State :=
  (s.endRec r.val n w status detail t0 ver).ringSettle r

/-! Taking commands (R251 to R253). -/

/-- The bits that a command's fields may set, by opcode; bits [31:30] of a tally reference are zero (R152). -/
def cmdMask (op : Nat) : Nat :=
  let f (byte width : Nat) : Nat := (2 ^ width - 1) * 2 ^ (8 * byte)
  0x0FFF1FFF + match op with
    | 1 => f 4 32 + f 8 64 + f 0x10 64 + f 0x18 4
    | 2 => f 4 32 + f 8 64 + f 0x10 64 + f 0x18 30
    | 3 => f 4 30 + f 8 32 + f 0x0C 32
    | 4 => f 4 30 + f 8 32
    | 6 => f 4 2 + f 8 32
    | 7 => f 4 32 + f 8 64
    | 8 => f 4 32 + f 8 64 + f 0x10 64 + f 0x18 3 + f 0x19 4 + f 0x1A 7 + f 0x1C 16 + f 0x20 64 + f 0x28 30 + f 0x2C 32 + f 0x30 4
    | 9 => f 4 32 + f 8 64 + f 0x18 5 + f 0x19 4 + f 0x1A 10 + f 0x1C 16 + f 0x20 64 + f 0x28 30 + f 0x2C 32 + f 0x30 4
    | _ => 0

/-- Byte offset of the lowest reserved bit that is set. -/
def reservedAt (op w : Nat) : Option Nat :=
  (List.range 512).findSome? (fun i => if bitN w i && !bitN (cmdMask op) i then some (i / 8) else none)

/-- A window in µs: 0, or 1,000 to 60,000,000. -/
def badWindow (t : Nat) : Bool := t != 0 && (decide (t < 1000) || decide (60000000 < t))

/-- Byte offsets of fields that lie outside their range, in increasing order. -/
def State.fieldsBad (s : State) (op w : Nat) : List Nat :=
  let g (o n : Nat) : Nat := bitsN w (8 * o + n - 1) (8 * o)
  let c (o : Nat) (b : Bool) : List Nat := if b then [o] else []
  let glob (a : Nat) : Bool := a % 128 != 0 || decide (2 ^ 52 ≤ a)
  match op with
  | 1 => c 4 (badWindow (g 4 32)) ++ c 8 (g 8 64 % 256 != 0 || decide (2 ^ 42 ≤ g 8 64))
      ++ c 0x10 (g 0x10 64 % 128 != 0 || decide (2 ^ 42 ≤ g 0x10 64))
  | 2 => c 4 (g 4 32 == 0) ++ c 8 (glob (g 8 64)) ++ c 0x10 (glob (g 0x10 64))
  | 3 => c 4 (bitN (g 4 32) 19 && bitsN (g 4 32) 29 20 != s.devId) ++ c 0x0C (badWindow (g 0x0C 32))
  | 6 => c 4 (g 4 2 == 3)
  | 8 => c 8 (glob (g 8 64)) ++ c 0x10 (g 0x10 64 % 128 != 0 || decide (s.hbmEnd ≤ g 0x10 64)) ++ c 0x18 (decide (1 < g 0x18 2))
      ++ c 0x1A (g 0x18 2 == 1 && (g 0x1A 7 == 0 || decide (64 < g 0x1A 7))) ++ c 0x1C (decide (64 < g 0x1C 16))
      ++ c 0x30 (decide (8 < g 0x30 4) || (g 0x30 4 != 0 && g 0x18 2 == 1))
  | 9 => c 8 (glob (g 8 64)) ++ c 0x1C (decide (64 < g 0x1C 16)) ++ c 0x30 (decide (8 < g 0x30 4))
  | _ => []

/-- The first bad field of a command. -/
def State.cmdBad (s : State) (w : Nat) : Option Nat :=
  let op := bitsN w 7 0
  if 9 < op then some 0
  else match reservedAt op w, (s.fieldsBad op w).head? with
  | some a, some b => some (min a b)
  | some a, none => some a
  | none, b => b

/-- The command at a ring's head, when there is one, it may be taken, and the front end can read it. -/
def State.headCmd (s : State) (r : Nat) : Option Nat :=
  let x := s.ring r
  if x.state = 1 ∧ !x.disabling ∧ x.head ≠ x.tail then
    let n := s.ringUnit x
    let a := x.cmdBase + n * (x.head % 2 ^ x.cmdLog2)
    if s.memReady a n then some (s.memGetN n a) else none
  else none

/-- The command at the head is read and taken: HEAD advances past it (R251). Gives its count. -/
def State.take (s : State) (r : Nat) : Nat × State :=
  let x := s.ring r
  let s := s.memTouch (s.ringUnit x) (x.cmdBase + s.ringUnit x * (x.head % 2 ^ x.cmdLog2))
  (x.head, (s.setRing r { x with head := (x.head + 1) % 2 ^ 32, live := x.live ++ [x.head], wait := .none }).ringSync r)

/-- The command at the head ends at once. -/
def State.headEnd (s : State) (r : RingId) (w status detail ver : Nat) : State :=
  let y := s.take r.val
  y.2.cmdEnd r y.1 w status detail s.ftime ver

/-- Run a ring's head command of opcode `op`: one that R252 and R253 do not allow ends with BAD_CMD. In a 32-byte ring
LOAD_WEIGHTS and SWAP_LAYER do too; the manual states no DETAIL for that (a free value, assumption 6). -/
def State.onHead (s : State) (r : RingId) (op : Nat) (k : Nat → State) : State :=
  match s.headCmd r.val with
  | none => s
  | some w =>
    match s.cmdBad w with
    | some o => s.headEnd r w 0x01 o 0
    | none =>
      if bitsN w 7 0 ≠ op then s
      else if s.ringC6 (s.ring r.val) && decide (8 ≤ op) then
        let x := s.fresh
        x.2.headEnd r w 0x01 x.1.toNat 0
      else k w

/-! Doorbells (R250, R474). -/

def State.dropBell (s : State) : State := s.addReg .fe 0 0x124 1

/-- BAD_TAIL has no value in the table of R256: STOP_CODE takes a free value (assumption 6). -/
def State.badTail (s : State) (r : Nat) : State :=
  let x := s.fresh
  x.2.ringStop r (x.1.toNat % 256) none

def State.bellTail (s : State) (r v : Nat) : State :=
  let x := s.ring r
  if 2 ^ x.cmdLog2 < (v + 2 ^ 32 - x.head) % 2 ^ 32 then s.badTail r
  else (s.setRing r { x with tail := v }).ringSync r

def State.bellCpl (s : State) (r : RingId) (v : Nat) : State :=
  let x := s.ring r.val
  if 2 ^ x.cplLog2 < (x.cplTail + 2 ^ 32 - v) % 2 ^ 32 then s.badTail r.val
  else
    let s := (s.setRing r.val { x with cplHead := v }).ringSync r.val
    (State.flushRecs (x.held.length + 1) s r.val).ringSettle r

/-- A read of the doorbell of ring `r` (R250). -/
def State.bellRead (s : State) (r : Nat) : Nat := (s.ring r).head % 2 ^ 32 + 2 ^ 32 * ((s.ring r).cplTail % 2 ^ 32)

/-- DOORBELL: a write of BAR2; its payload counts on CT_PCIE_RX (R414). It waits behind a posted write that a stack holds
(R239). -/
def execDoorbell (x : HostAt18) (size : Nat) (v : W64) (s : State) : Ans :=
  .next (
    let s := s.cnt .ct 0 0x100 size
    let o := x.off.toNat
    let r : RingId := ⟨o / 8 % 32768, Nat.mod_lt _ (by decide)⟩
    let lo := v.toNat % 2 ^ 32
    let hi := v.toNat / 2 ^ 32
    if s.fe.hostHeld || !s.takesT x.t then s
    else if !((size == 8 && o % 8 == 0) || (size == 4 && o % 4 == 0)) || (s.ring r.val).state != 1 then s.dropBell
    else if size = 8 then (s.bellTail r.val lo).bellCpl r hi
    else if o % 8 = 0 then s.bellTail r.val lo
    else s.bellCpl r lo)

/-! Commands that take no slot. -/

def execCmdNop (r : RingId) (s : State) : Ans := .next (s.onHead r 0 (fun w => s.headEnd r w 0 0 0))

/-- FENCE (R242): held until every earlier command of the ring has completed. -/
def execFenceCmd (r : RingId) (s : State) : Ans :=
  .next (s.onHead r 5 (fun w => if (s.ring r.val).live.isEmpty then s.headEnd r w 0 0 0 else s))

/-- SIGNAL (R242): taken at once; it acts when every earlier command has completed. -/
def execCmdSignal (r : RingId) (s : State) : Ans :=
  .next (s.onHead r 4 (fun w =>
    let y := s.take r.val
    (y.2.modRing r.val (fun x => { x with sigs := x.sigs ++ [⟨y.1, w, s.ftime, false⟩] })).ringSettle r))

/-- The tally of a WAIT_TALLY meets its target. -/
def State.ringWaitOk (s : State) (w : Nat) : Bool :=
  waitOk (s.tallyVal (s.tref none none (bitsN w 63 32))) (BitVec.ofNat 32 (bitsN w 95 64))

/-- WAIT_TALLY (R242, R251): it ends at once, or holds the ring from now on. -/
def execWaitTally (r : RingId) (s : State) : Ans :=
  .next (s.onHead r 3 (fun w =>
    if s.ringWaitOk w then s.headEnd r w 0 0 0
    else match (s.ring r.val).wait with
    | .tally _ => s
    | _ => s.modRing r.val (fun x => { x with wait := .tally s.ftime })))

/-- The end of a WAIT_TALLY that has held its ring since `t0`. -/
def State.waitEnd (s : State) (r : RingId) (w status t0 : Nat) : State :=
  let y := s.take r.val
  y.2.cmdEnd r y.1 w status 0 t0 0

def execWaitTallySatisfied (r : RingId) (s : State) : Ans :=
  .next (s.onHead r 3 (fun w => match (s.ring r.val).wait with
    | .tally t0 => if s.ringWaitOk w then s.waitEnd r w 0 t0 else s
    | _ => s))

/-- TIMEOUT stops the ring whatever STOP says (R254). -/
def execWaitTallyTimeout (r : RingId) (s : State) : Ans :=
  .next (s.onHead r 3 (fun w => match (s.ring r.val).wait with
    | .tally t0 =>
      let us := bitsN w 127 96
      if us ≠ 0 ∧ us * 1000 < s.ftime - t0 ∧ !s.ringWaitOk w then s.waitEnd r w 0x13 t0 else s
    | _ => s))

/-- MARK (R253, R417). -/
def execCmdMark (r : RingId) (s : State) : Ans :=
  .next (s.onHead r 7 (fun w =>
    (s.traceFe none 0x03 (bitsN w 63 32 + 2 ^ 64 * bitsN w 127 64)).headEnd r w 0 0 0))

/-! PHASE_HINT (R253, R349). -/

/-- A hint at one umbel. IDLE_SOON power-gates it once no released launch uses it. -/
def State.hint (s : State) (phase u : Nat) : State :=
  match phase with
  | 0 => (s.setPwUmb u { s.pwUmb u with guard := true, hold := 1, idleSoon := false, lastEnd := 0 }).startWake u |>.retune
  | 1 => (s.setPwUmb u { s.pwUmb u with guard := false, hold := 2, idleSoon := false, lastEnd := s.ftime }).startWake u |>.retune
  | _ => (s.setPwUmb u { s.pwUmb u with guard := false, hold := 0, idleSoon := true }).idleGate u

def execPhaseHint (r : RingId) (s : State) : Ans :=
  .next (s.onHead r 6 (fun w =>
    let ph := bitsN w 33 32
    let m := bitsN w 95 64
    let s := (List.range 32).foldl (fun s u => if bitN m u && s.umLive u then s.hint ph u else s) s
    (s.traceFe none 0x07 (ph + 2 ^ 32 * m)).headEnd r w 0 0 0))

end Sys2Proof.Machine
end

