-- ==== Sys2Proof/Machine/Launch.lean ====
section
/-! DEFINITION. Graph images, launches, slots and the watchdog (chapter "Rings, Graph Images and Launches", R254 to R271,
R279; "Attention, the KV Store and Sorrel Units", R206 to R208; "The Peruldo Fabric", R317). -/

namespace Sys2Proof.Machine

/-! Graph images (R260 to R263). -/

/-- `n` bytes at offset `o` of an image. -/
def CImg.get (m : CImg) (o n : Nat) : Nat := Memory.readN m.bytes n o

def CImg.version (m : CImg) : Nat := m.get 4 2
def CImg.nflo (m : CImg) : Nat := m.get 6 2
def CImg.wsetId (m : CImg) : Nat := m.get 8 8
def CImg.nprog (m : CImg) : Nat := m.get 0x20 2
def CImg.gated (m : CImg) : Bool := bitN (m.get 0x22 2) 0
def CImg.npatch (m : CImg) : Nat := m.get 0x28 4
def CImg.nunits (m : CImg) : Nat := m.get 0x30 4
def CImg.nlayer (m : CImg) : Nat := m.get 0x34 2
/-- Offset of placement record `i`, program entry `j`, patch entry `j`, unit `j`. -/
def CImg.recOff (m : CImg) (i : Nat) : Nat := m.get 0x18 4 + 64 * i
def CImg.progOff (m : CImg) (j : Nat) : Nat := m.get 0x1C 4 + 8 * j
def CImg.patchOff (m : CImg) (j : Nat) : Nat := m.get 0x24 4 + 8 * j
def CImg.unit (m : CImg) (j : Nat) : Nat := m.get (m.get 0x2C 4 + 8 * j) 8
def CImg.floret (m : CImg) (i : Nat) : Nat := m.get (m.recOff i) 2
def CImg.sdesc (m : CImg) (i : Nat) : Nat := m.get (m.recOff i + 8) 4
def CImg.nbLines (m : CImg) (i : Nat) : Nat := m.get (m.sdesc i + 0xC0) 4
def CImg.nbDst (m : CImg) (i : Nat) : Nat := m.get (m.sdesc i + 0xC4) 2
def CImg.florets (m : CImg) : List Nat := (List.range m.nflo).map m.floret

/-- First byte offset that a list of (offset, bad) names. -/
def firstBad (xs : List (Nat × Bool)) : Option Nat := (xs.find? (·.2)).map (·.1)

/-- A region of the image. -/
def CImg.regionBad (m : CImg) (o n : Nat) : Bool := o % 8 != 0 || decide (m.len < o + n)

/-- The header (R260, R279); a table is measured only where its count is legal (assumption 20). -/
def CImg.headBad (m : CImg) : Option Nat :=
  let v5 := m.version == 5
  firstBad [(0, m.get 0 4 != 0x36494744), (4, m.version != 6 && !v5), (6, m.nflo == 0 || decide (512 < m.nflo)),
    (8, v5 && m.wsetId != 0), (0x10, decide (m.len < 256)),
    (0x18, m.regionBad (m.get 0x18 4) (64 * m.nflo)), (0x1C, decide (m.nprog ≤ 512) && m.regionBad (m.get 0x1C 4) (8 * m.nprog)),
    (0x20, m.nprog == 0 || decide (512 < m.nprog)), (0x22, v5 && m.get 0x22 2 != 0),
    (0x24, m.regionBad (m.get 0x24 4) (8 * m.npatch)), (0x2C, m.regionBad (m.get 0x2C 4) (8 * m.nunits) || (v5 && m.get 0x2C 4 != 0)),
    (0x30, v5 && m.nunits != 0), (0x34, (m.wsetId == 0 && m.nlayer != 0) || decide (1024 < m.nlayer))]

/-- A placement record (R261, R262). -/
def CImg.recBad (m : CImg) (i : Nat) : Option Nat :=
  let o := m.recOff i
  firstBad [(o, decide (511 < m.floret i) || (i != 0 && decide (m.floret i ≤ m.floret (i - 1)))), (o + 2, decide (m.nprog ≤ m.get (o + 2) 2)),
    (o + 4, decide (8191 < m.get (o + 4) 2)),
    (o + 8, m.regionBad (m.sdesc i) 0x100 || decide (512 < m.nbLines i) || m.regionBad (m.sdesc i) (0x100 + 128 * m.nbLines i)
      || decide (32768 < m.nbDst i + m.nbLines i))]

def CImg.progBad (m : CImg) (j : Nat) : Option Nat :=
  let o := m.progOff j
  let n := m.get (o + 4) 2
  firstBad [(o, decide (n ≤ 8192) && m.regionBad (m.get o 4) (8 * n)), (o + 4, n == 0 || decide (8192 < n))]

/-- A patch entry (R263). -/
def CImg.patchBad (m : CImg) (j : Nat) : Option Nat :=
  let o := m.patchOff j
  let p := m.get o 8
  let n := 2 ^ bitsN p 17 16
  let tgt := bitsN p 47 32
  let recs := if tgt = 0xFFFF then List.range m.nflo else [tgt]
  let dend := bitsN p 63 48 + n
  firstBad [(o, if bitN p 20 then bitsN p 17 16 != 3 || decide (m.nlayer ≤ bitsN p 15 0) else decide (256 < bitsN p 15 0 + n)),
    (o + 4, tgt != 0xFFFF && decide (m.nflo ≤ tgt)),
    (o + 6, dend % n != 0 || (if bitN p 19 then recs.any (fun i => decide (128 * m.nbLines i < dend)) else decide (32 < dend)))]

/-- CRC-32C over the image with CHECK taken as zero. -/
def CImg.crcBad (m : CImg) : Bool :=
  crc32c ((List.range m.len).map (fun i => if 0x14 ≤ i ∧ i < 0x18 then 0 else m.get i 1)) != m.get 0x14 4

/-- The first failed check of an image. -/
def CImg.bad (m : CImg) : Option Nat :=
  match firstBad [(0, m.get 0 4 != 0x36494744), (4, m.version != 6 && m.version != 5), (0x10, decide (m.len < 256)), (0x14, m.crcBad)] with
  | some o => some o
  | none =>
    match m.headBad with
    | some o => some o
    | none =>
      match (List.range m.nflo).findSome? m.recBad with
      | some o => some o
      | none =>
        match (List.range m.nprog).findSome? m.progBad with
        | some o => some o
        | none => (List.range m.npatch).findSome? m.patchBad

/-- Read an image from HBM; one that would leave the usable range is cut to its header. -/
def State.readImage (s : State) (a : Nat) : CImg × State :=
  let n := s.memGetN 4 (a + 0x10)
  let n' := if a + n ≤ s.hbmEnd then n else 0
  let sn := s.fe.serial + 1
  let t := s.memTouch (max n' 256) a
  ({ addr := a, serial := sn, len := n', bytes := Memory.writeN [] (max n' 256) 0 (s.memGetN (max n' 256) a) },
    { t with fe := { t.fe with serial := sn } })

/-- Look an image up in the cache, reading and checking it on a miss or on RELOAD (R260). Gives the first failed check. -/
def State.image (s : State) (a : Nat) (reload : Bool) : Option Nat × CImg × State :=
  let others := s.fe.images.filter (fun m => m.addr ≠ a)
  match s.fe.images.find? (fun m => m.addr = a && !reload) with
  | some m => (none, m, { s with fe := { s.fe with images := m :: others } })
  | none =>
    let r := s.readImage a
    match r.1.bad with
    | some o => (some o, r.1, { r.2 with fe := { r.2.fe with images := others } })
    | none => (none, r.1, { r.2 with fe := { r.2.fe with images := (r.1 :: others).take 64 } })

/-! Launch constants (R264, R265, R267). -/

def kNseq (c : Nat) : Nat := bitsN c 255 248
def kPack (c : Nat) : Nat := bitsN c 191 128
def kEntry (c i : Nat) : Nat := bitsN c (8 * (0x40 + 4 * i) + 31) (8 * (0x40 + 4 * i))
def kSlot (c i : Nat) : Nat := bitsN (kEntry c i) 13 0
/-- A of batch entry `i`. -/
def kA (c i : Nat) : Nat :=
  match bitsN (kEntry c i) 15 14 with
  | 0 => 0
  | 1 => 1
  | _ => bitsN c 223 192

/-- The first of the cases of R267, as the byte offset of its field. -/
def State.constBad (s : State) (c : Nat) : Option Nat :=
  let es := List.range (kNseq c)
  let at_ (p : Nat → Bool) : Option Nat := (es.find? p).map (fun i => 0x40 + 4 * i)
  if 40 < kNseq c then some 0x1F
  else match at_ (fun i => bitsN (kEntry c i) 15 14 == 3) with
  | some o => some o
  | none =>
    match at_ (fun i => kA c i != 0 && bitN (kEntry c i) 16) with
    | some o => some o
    | none =>
      match at_ (fun i => decide (s.seqSlots ≤ kSlot c i)) with
      | some o => some o
      | none =>
        match at_ (fun i => (List.range i).any (fun j => kSlot c j == kSlot c i)) with
        | some o => some o
        | none =>
          if bitsN c 239 224 = 0 ∨ 512 < bitsN c 239 224 then some 0x1C
          else if kPack c % 128 ≠ 0 then some 0x10
          else none

/-- The group table (R326). -/
def State.grpAddr (s : State) (q : Nat) : Nat := s.regN .fe 0 0x780 + 2 ^ 32 * s.regN .fe 0 0x784 + 256 * q
def State.grpMembers (s : State) (q : Nat) : Nat := s.memGetN 1 (s.grpAddr q + 4)
def State.grpState (s : State) (q : Nat) : Nat := s.memGetN 1 (s.grpAddr q + 6)

/-- The slot is LOST, or belongs to a cut group (R327). -/
def State.seqCut (s : State) (q : Nat) : Bool := (s.seqGet q).state == 5 || (s.grpMembers q != 0 && s.grpState q != 0)

/-! The checks of R269. -/

inductive Chk where
  | reject (status detail : Nat)
  | hold
  | ok
  deriving DecidableEq, Repr

def State.findWset (s : State) (id : Nat) : Option Nat := (List.range 16).find? (fun k => (s.wset k).valid && (s.wset k).id == id)

/-- The variant slots that hold a pack pointer. -/
def WSet.variantsOf (x : WSet) (a : Nat) : List Variant := x.packs.filterMap (fun e => match e.2 with
  | some v => if v.addr = a then some v else none
  | none => none)

/-- The pointer matches no slot, or one that is RETIRING (R111). -/
def WSet.packBad (x : WSet) (a : Nat) : Bool := (x.variantsOf a).isEmpty || (x.variantsOf a).any (·.retiring)

/-- Checks of the weight set and the delta pack (R111, R272, R279), and the hold of a swap sequence (R274). -/
def State.wsetCheck (s : State) (m : CImg) (pack : Nat) : Chk :=
  if m.wsetId = 0 then (if pack = 0 then .ok else .reject 0x08 0)
  else match s.findWset m.wsetId with
  | none => .reject 0x06 0
  | some k =>
    let x := s.wset k
    if x.retiring then .reject 0x07 k
    else if pack != 0 && x.packBad pack then .reject 0x08 0
    else if (x.swapping && !m.gated) || x.reloc then .hold
    else .ok

/-- Checks of the placement and the partition (R189, R279, R363). -/
def State.placeCheck (s : State) (m : CImg) (p : Nat) : Chk :=
  match m.florets.find? (fun f => s.compatOf (Blk.page .fl f) != (m.version == 5)) with
  | some f => .reject 0x0D f
  | none =>
    match m.florets.find? (fun f => !s.flPresent f || !(s.partMask p).getLsbD (f / 16)) with
    | some f => .reject 0x03 f
    | none => if (s.part p).state = 1 then .ok else .reject 0x04 p

/-- NUNITS and NLAYER against the resident weight set. -/
def State.imageWset (s : State) (m : CImg) : Option Nat :=
  match (if m.wsetId = 0 then none else s.findWset m.wsetId) with
  | none => none
  | some k => firstBad [(0x30, m.nunits != (s.wset k).nunits), (0x34, m.nlayer != (s.wset k).nl)]

/-- All checks before the slot, for a LAUNCH word; the constants and the image as read, and the state with the image cache as
it then is. -/
def State.launchCheck (s : State) (w : Nat) : Chk × Nat × CImg × State :=
  let r := s.image (bitsN w 127 64) (bitN w 11)
  let m := r.2.1
  let s := r.2.2
  match r.1 with
  | some o => (.reject 0x02 o, 0, m, s)
  | none =>
    match s.imageWset m with
    | some o => (.reject 0x02 o, 0, m, s)
    | none =>
      match s.placeCheck m (bitsN w 195 192) with
      | .reject a b => (.reject a b, 0, m, s)
      | _ =>
        let c := s.memGetN 240 (bitsN w 191 128)
        let s := s.memTouch 240 (bitsN w 191 128)
        match s.constBad c with
        | some o => (.reject 0x05 o, 0, m, s)
        | none =>
          match (List.range (kNseq c)).find? (fun i =>
              bitsN (kEntry c i) 31 18 != (s.seqGet (kSlot c i)).sid % 2 ^ 14 || s.seqCut (kSlot c i)) with
          | some i => (.reject 0x0C i, 0, m, s)
          | none => (s.wsetCheck m (kPack c), c, m, s)

/-! Rejection and completion of a LAUNCH. -/

/-- Count a rejection (R280). -/
def State.countReject (s : State) : State := (s.addReg .fe 0 0x12C 1).event .fe 0 25

/-- The record of a LAUNCH and STOP. -/
def State.launchRec (s : State) (r n w lid status detail : Nat) (slot : Option Nat) (t0 ver : Nat) (q : Bool) : State :=
  let s := s.postRec r ⟨recBytes lid 1 status n detail (slot.getD 0xFF) t0 s.ftime ver, bitN w 9, slot, q⟩
  if status ≠ 0 ∧ bitN w 10 then s.ringStop r status (some n) else s

/-- Reject the LAUNCH at the head of ring `r`, which may hold a slot (R268). -/
def State.launchReject (s : State) (r : RingId) (w status detail : Nat) (slot : Option Nat) : State :=
  let y := s.countReject.take r.val
  let lid := match slot with
    | some t => (s.lsl t).id
    | none => bitsN w 27 16
  (y.2.launchRec r.val y.1 w lid status detail slot s.ftime 0 false).ringSettle r

/-- Slots that a ring holds. -/
def State.ringSlots (s : State) (r : Nat) : Nat := (s.fe.slots.filter (fun t => (t.2.state == 1 || t.2.state == 2) && t.2.ring == r)).length

/-- The stacks that hold the image's header and the constants of a LAUNCH word serve the front end (R298). -/
def State.launchReady (s : State) (w : Nat) : Bool := s.memReady (bitsN w 127 64) 256 && s.memReady (bitsN w 191 128) 240

/-- LAUNCH: the checks up to the slot; then the ring requests one, or waits while a swap sequence holds it (R258, R269). The
image and the constants are read once; a held LAUNCH looks at its weight set again. -/
def execLaunch (r : RingId) (s : State) : Ans :=
  .next (s.onHead r 1 (fun w => match (s.ring r.val).wait with
    | .none =>
      if !s.launchReady w then s
      else
      let y := s.launchCheck w
      match y.1 with
      | .reject st d => y.2.2.2.launchReject r w st d none
      | .hold => y.2.2.2.modRing r.val (fun x => { x with wait := .swapHold w y.2.1 y.2.2.1 })
      | .ok => y.2.2.2.modRing r.val (fun x => { x with wait := .request w y.2.1 y.2.2.1 })
    | .swapHold _ c m =>
      match s.wsetCheck m (kPack c) with
      | .reject st d => s.launchReject r w st d none
      | .hold => s
      | .ok => s.modRing r.val (fun x => { x with wait := .request w c m })
    | _ => s))

/-! Slot allocation (R255, R258). -/

def State.freeSlots (s : State) : List Nat := (List.range 64).filter (fun t => (s.lsl t).state = 0)

/-- Reserved slots that classes above `c` have not filled. -/
def State.reserved (s : State) (c : Nat) : Nat :=
  sumN ((List.range c).map (fun k =>
    bitsN (s.regN .fe 0 0x114) (8 * k + 7) (8 * k)
      - (s.fe.slots.filter (fun t => (t.2.state == 1 || t.2.state == 2) && t.2.cls == k)).length))

/-- Requesting rings of class `c`, by number; a ring that holds MAXSLOTS slots requests nothing. -/
def State.requests (s : State) (c : Nat) : List Nat :=
  (s.fe.rings.filter (fun e => e.2.cls == c && decide (s.ringSlots e.1 < e.2.maxSlots) && (match e.2.wait with
    | .request _ _ _ => true
    | _ => false))).map (·.1)

/-- The ring that wins the next slot, with its class. -/
def State.winner (s : State) : Option (Nat × Nat) :=
  (List.range 4).findSome? (fun c =>
    let rs := s.requests c
    let g := SMap.get 0 s.fe.granted c
    match rs.find? (fun r => decide (g ≤ r)) with
    | some r => some (r, c)
    | none => rs.head?.map (fun r => (r, c)))

/-- SLOT_GRANT: the winner takes the lowest free slot; its generation rises. -/
def execSlotGrant (s : State) : Ans :=
  .next (match s.winner, s.freeSlots with
    | some (r, c), t :: ts =>
      if ts.length + 1 ≤ s.reserved c then s
      else
        match (s.ring r).wait with
        | .request w cb m =>
          let g := ((s.lsl t).gen + 1) % 16
          let s := s.setLsl t { LSlot.reset with
            state := 1, gen := g, ring := r, head := (s.ring r).head, cls := c, tag := bitsN w 27 16, irq := bitN w 9
            stop := bitN w 10, part := bitsN w 195 192, w := w, cb := cb, image := bitsN w 127 64, img := m, konst := bitsN w 191 128 }
          let s := s.modRing r (fun x => { x with wait := .granted t })
          { s with
            fe := { s.fe with granted := SMap.put 0 s.fe.granted c (r + 1) }
            fab := { s.fab with closedFlows := s.fab.closedFlows.filter (· ≠ (t, g)) } }
        | _ => s
    | _, _ => s)

/-! KV frames for a launch (R206). -/

/-- A sequence slot holds a launch that adds `a` tokens to it back (R206): with `a` above 0 no other released launch may name
the slot. -/
def State.seqBusy (s : State) (q a : Nat) : Bool :=
  s.namesSeq q (a == 0) || s.filling q || s.fe.lens.any (fun l => l.slot == q) || (let st := (s.seqGet q).state; st == 3 || st == 4)

/-- Data frames for blocks `i` to `i + n - 1` of the active table. -/
def State.dataFrames (e : SeqEntry) : Nat → Nat → State → Bool × State × List (Nat × Nat × Nat)
  | 0, _, s => (true, s, [])
  | n + 1, i, s =>
    let a := e.table e.gen + 4 * i
    match frameOf (s.memGetN 4 a) with
    | some _ => State.dataFrames e n (i + 1) s
    | none =>
      let r := s.kvAllocOp (e.stack i) .frontEnd e.pool e.sid
      match r.1 with
      | none => (false, r.2, [])
      | some f =>
        let y := State.dataFrames e n (i + 1) (r.2.memPutN 4 a (f + 2 ^ 31))
        (y.1, y.2.1, (e.stack i, f, a) :: y.2.2)

/-- Give back frames allocated for a launch. -/
def State.undoFrames (s : State) (pool sid : Nat) (xs : List (Nat × Nat × Nat)) : State :=
  xs.foldl (fun s x => (s.kvFreeOp x.1 .frontEnd pool sid x.2.1).memPutN 4 x.2.2 0) s

/-- Frames for batch entries `i` onward: a rejection, or ok; with what has been allocated as (pool, SID, frames). -/
def State.allocKv (c : Nat) : Nat → Nat → List (Nat × Nat × List (Nat × Nat × Nat)) → State → Chk × State
  | 0, _, _, s => (.ok, s)
  | n + 1, i, got, s =>
    let q := kSlot c i
    let a := kA c i
    if a = 0 then State.allocKv c n (i + 1) got s
    else
      let e := s.seqGet q
      if !(e.state == 1 || e.state == 2) then (.reject 0x0C i, s)
      else if 4194304 < e.pos + a then (.reject 0x0B i, s)
      else if e.cap < cdiv (e.len + a) 64 then (.reject 0x0A i, s)
      else
        let lo := e.len / 64
        let d := State.dataFrames e ((e.len + a - 1) / 64 + 1 - lo) lo s
        let f := if d.1 then State.sumFrames q e e.gen ((e.len + a) / 64) 0 d.2.1 else (false, d.2.1, [])
        let got := got ++ [(e.pool, e.sid, d.2.2 ++ f.2.2)]
        if d.1 && f.1 then State.allocKv c n (i + 1) got f.2.1
        else (.reject 0x09 i, got.foldl (fun s g => s.undoFrames g.1 g.2.1 g.2.2) f.2.1)

/-! Release (R138, R262 to R264, R269). -/

/-- Copy a floret's program into its instruction store unless the store holds it already (R269). -/
def State.loadProg (s : State) (m : CImg) (i : Nat) : State :=
  let f := m.floret i
  let j := m.get (m.recOff i + 2) 2
  let tag := m.serial * 1024 + j + 1
  let fl := s.fl f
  if fl.prog = tag then s
  else
    let o := m.get (m.progOff j) 4
    let st := (List.range (m.get (m.progOff j + 4) 2)).foldl (fun st k =>
      SMap.put (0 : W64) st k (BitVec.ofNat 64 (m.get (o + 8 * k) 8))) fl.istore
    s.setFl f { fl with istore := st, prog := tag }

/-- PRESET and the near-bank bytes of a record, before patching. -/
def CImg.fixed (m : CImg) (i : Nat) : Nat × Nat := (m.get (m.recOff i + 0x10) 32, m.get (m.sdesc i + 0x100) (128 * m.nbLines i))

/-- Replace or add `n` bytes at offset `o` of a byte string. -/
def patchAt (v o n x : Nat) (add : Bool) : Nat :=
  let old := bitsN v (8 * (o + n) - 1) (8 * o)
  setBitsN v (8 * (o + n) - 1) (8 * o) ((if add then old + x else x) % 2 ^ (8 * n))

/-- Apply patch entry `p` (R263) to the records; `c` holds the 256 bytes of the constants. -/
def applyPatch (p c : Nat) (lat : Nat → Nat) (xs : List (Nat × Nat)) : List (Nat × Nat) :=
  let n := 2 ^ bitsN p 17 16
  let x := if bitN p 20 then lat (bitsN p 15 0) else bitsN c (8 * (bitsN p 15 0 + n) - 1) (8 * bitsN p 15 0)
  let o := bitsN p 63 48
  let one (r : Nat × Nat) : Nat × Nat :=
    if bitN p 19 then (r.1, patchAt r.2 o n x (bitN p 18)) else (patchAt r.1 o n x (bitN p 18), r.2)
  if bitsN p 47 32 = 0xFFFF then xs.map one
  else (List.range xs.length).map (fun i => let r := xs.getD i (0, 0); if i = bitsN p 47 32 then one r else r)

/-- Static lines of a record into the near bank. -/
def State.putStatic (s : State) (f l n v : Nat) : State :=
  (List.range n).foldl (fun s j =>
    let a := 0x10000000000 + 0x400000 * f + (l + j) % 32768 * 128
    (s.sramBytes (.nb f) true).sramPut a fullMask (BitVec.ofNat 1024 (v / 2 ^ (1024 * j))) false) s

/-- Release the sequencer of record `i` (R58, R138, R190, R402). -/
def State.startFloret (s : State) (m : CImg) (t i : Nat) (preset pack : Nat) : State :=
  let f := m.floret i
  let o := m.sdesc i
  let s := (List.range 16).foldl (fun s e =>
    (s.cfgFeed f e (m.get (o + 8 * e) 4) (m.get (o + 8 * e + 4) 4)).modFl f (fun fl =>
      { fl with credit := SMap.put (0 : W32) fl.credit e (BitVec.ofNat 32 (m.get (o + 0x80 + 4 * e) 4 % 2 ^ 30 + (if bitN (m.get (o + 0x80 + 4 * e) 4) 31 then 2 ^ 31 else 0))) })) s
  let g := s.reg .gl 0 Off.glCtrl
  let c6 := s.compatOf (Blk.page .fl f)
  s.modFl f (fun fl => { fl with
    pc := m.get (m.recOff i + 4) 2, run := true, halted := false, ended := false, waiting := false, qfull := false
    v := [], p := [], sr := (List.range 8).foldl (fun r k => SMap.put (0 : W32) r k (BitVec.ofNat 32 (preset / 2 ^ (32 * k)))) []
    strict := g.getLsbD 0, det := g.getLsbD 1, c6 := c6, lslot := t + 1, lgen := (s.lsl t).gen, pack := pack })

/-- GATE_BASE (R274). -/
def WSet.gateBase (x : WSet) : Nat := (if x.swapping then x.gb else x.g + 2 ^ 32 - x.nl) % 2 ^ 32

/-- Every umbel of the placement is out of reset and runs at its operating point (R19, R337). -/
def State.umbelsRun (s : State) (fs : List Nat) : Bool := fs.all (fun f => s.umAtPoint (f / 16))

/-- A silent-error test runs on one of the florets (R374): held time before release. -/
def State.sweepOn (s : State) (fs : List Nat) : Bool := match s.flt.sweep with
  | some w => fs.any (fun f => f == w.a || f == w.b || (w.stage == 2 && f == w.c))
  | none => false

/-- P of R270, ns. -/
def samplePeriod (win : Nat) : Nat := min (win / 16) 100000000

/-- The release itself, once every check has passed. -/
def State.release (s : State) (r : RingId) (t : Nat) (m : CImg) : State :=
  let x := s.lsl t
  let c := x.cb
  let k := if m.wsetId = 0 then none else s.findWset m.wsetId
  let ws := match k with
    | some k => s.wset k
    | none => WSet.empty
  let s := (List.range m.nflo).foldl (fun s i => s.loadProg m i) s
  let tail := x.id + 2 ^ 16 * t + 2 ^ 24 * x.part + 2 ^ 32 * (if k.isSome then ws.gateBase else 0)
  let s := s.memPutN 16 (x.konst + 0xF0) tail
  let full := c % 2 ^ 1920 + 2 ^ 1920 * tail
  let recs := (List.range m.npatch).foldl (fun xs j => applyPatch (m.get (m.patchOff j) 8) full (fun e => SMap.get 0 ws.lat e) xs)
    ((List.range m.nflo).map m.fixed)
  let s := (List.range m.nflo).foldl (fun s i => s.putStatic (m.floret i) (m.nbDst i) (m.nbLines i) (recs.getD i (0, 0)).2) s
  let pack := kPack c
  let s := (List.range m.nflo).foldl (fun s i => s.startFloret m t i (recs.getD i (0, 0)).1 pack) s
  let us := bitsN x.w 63 32
  let win := (if us = 0 then s.regN .fe 0 0x110 else us) * 1000
  let s := s.setLsl t { s.lsl t with
    state := 2, florets := m.florets, done := [], window := win, tAdv := s.ftime, nextSample := s.ftime + samplePeriod win
    samples := m.florets.map (fun f => s.regN .fl f Off.progress), suspended := ws.swapping, tRel := s.ftime, ws := k, wsVer := ws.ver
    gateBase := if k.isSome then ws.gateBase else 0, pack := pack, units := (List.range m.nunits).map m.unit
    det := (s.reg .gl 0 Off.glCtrl).getLsbD 1 }
  let s := s.addReg .fe 0 0x128 1
  let pk := ((ws.variantsOf pack).head?.map (·.pkId)).getD 0
  let s := s.traceFe (some t) 0x01 (bitsN c 127 64 + 2 ^ 64 * pk + 2 ^ 96 * r.val + 2 ^ 112 * x.part)
  let s := { s with flt := { s.flt with idleAt := m.florets.foldl (fun i f => SMap.put 0 i f s.ftime) s.flt.idleAt } }
  let s := { s with fe := { s.fe with lastImg := m.florets.foldl (fun i f => SMap.put 0 i f (m.addr + 1)) s.fe.lastImg } }
  (s.take r.val).2

/-- allocate_kv and wake_umbels of R269 for slot `t`: a rejection, or the launch with its frames, its batch entries as they
then are, and its umbels waking. -/
def State.prepare (s : State) (r : RingId) (t : Nat) : State :=
  let x := s.lsl t
  let c := x.cb
  match (List.range (kNseq c)).find? (fun i => s.seqCut (kSlot c i)) with
  | some i => s.launchReject r x.w 0x0C i (some t)
  | none =>
    let k := State.allocKv c (kNseq c) 0 [] s
    match k.1 with
    | .reject a b => k.2.launchReject r x.w a b (some t)
    | _ =>
      let s := k.2
      let bt := (List.range (kNseq c)).map (fun i => let e := s.seqGet (kSlot c i); (⟨kSlot c i, kA c i, e.len, e.pos⟩ : Batch))
      x.img.florets.foldl (fun s f => s.startWake (f / 16)) (s.setLsl t { s.lsl t with kv := true, batch := bt })

/-- LAUNCH_RELEASE: a launch that holds slot `t` goes on with the steps of R269: rejected, held, its frames allocated and its
umbels woken, and, once they run, released. The weight set and the partition are checked as they are now (assumption 20). -/
def execLaunchRelease (t : SlotId) (s : State) : Ans :=
  .next (
    let x := s.lsl t.val
    let r : RingId := ⟨x.ring % 32768, Nat.mod_lt _ (by decide)⟩
    if x.state ≠ 1 ∨ (s.ring r.val).wait ≠ .granted t.val then s
    else
      let m := x.img
      let c := x.cb
      match s.placeCheck m x.part, s.wsetCheck m (kPack c) with
      | .reject a b, _ => s.launchReject r x.w a b (some t.val)
      | _, .reject a b => s.launchReject r x.w a b (some t.val)
      | _, .hold => s
      | _, .ok =>
        if !x.kv && ((List.range (kNseq c)).any (fun i => s.seqBusy (kSlot c i) (kA c i)) || (kNseq c != 0 && !s.kvServes)) then s
        else
          let s := if x.kv then s else s.prepare r t.val
          if (s.lsl t.val).kv && s.umbelsRun m.florets && !s.sweepOn m.florets then s.release r t.val m else s)

/-! Completion (R23, R139, R255, R256). -/

/-- A floret's share of its launch is complete (R139). An engine that a loss has stopped has a line that nothing counts, so
the share never completes (R23, R244). -/
def Floret.shareDone (fl : Floret) : Bool :=
  fl.ended && !fl.le.stopped && !fl.se.stopped && fl.le.queue.isEmpty && fl.le.fly.isEmpty && fl.se.queue.isEmpty && fl.se.fly.isEmpty
    && fl.mx.isEmpty && fl.closings.isEmpty && fl.qx.isEmpty && fl.qxq.isEmpty
    && (List.range 4).all (fun a => !(fl.arr a).flowing && (fl.arr a).load.isNone)
    && (List.range 8).all (fun t => SMap.get 0 fl.closed t == 0)

/-- Nothing of floret `f` waits for an answer from the fabric (a count that travels as a SIGNAL packet, R235), and no fault
report of it is on its way. -/
def State.floretQuiet (s : State) (f : Nat) : Bool :=
  s.fab.awaits.all (fun w => w.orphan || agentFl w.agent != some f) && s.reports.all (fun r => r.src != f)

/-- FLORET_COMPLETION_REPORT: the report of floret `f` for slot `t`, generation `gen`. A report of an older generation is
dropped and counted (R255); the quarantine absorbs one of the present generation (R259). A floret reports once every line it
wrote has been counted (R23). -/
def execFloretCompletionReport (f : FloretId) (t : SlotId) (gen : W4) (s : State) : Ans :=
  .next (
    let x := s.lsl t.val
    if gen.toNat ≠ x.gen then (s.addReg .fe 0 0x120 1).event .fe 0 28
    else if x.state = 2 ∧ x.florets.contains f.val ∧ !x.done.contains f.val ∧ (s.fl f.val).lslot = t.val + 1 ∧ (s.fl f.val).shareDone
        ∧ s.floretQuiet f.val then
      s.setLsl t.val { x with done := x.done ++ [f.val] }
    else s)

/-- The florets of an ended launch belong to it no longer; the power controller and the idle sweep see its end. -/
def State.leaveFlorets (s : State) (t : Nat) : State :=
  let x := s.lsl t
  let s := x.florets.foldl (fun s f => s.setPwUmb (f / 16) { s.pwUmb (f / 16) with lastEnd := s.ftime }) s
  { s with flt := { s.flt with idleAt := x.florets.foldl (fun i f => SMap.put 0 i f s.ftime) s.flt.idleAt } }

/-- LAUNCH_COMPLETE: every floret's share is complete, so every line is counted; the record, the message, the slot. -/
def execLaunchComplete (t : SlotId) (s : State) : Ans :=
  .next (
    let x := s.lsl t.val
    if x.state = 2 ∧ x.ended = none ∧ x.florets.all (fun f => x.done.contains f) then
      let r : RingId := ⟨x.ring % 32768, Nat.mod_lt _ (by decide)⟩
      let s := s.leaveFlorets t.val
      let s := x.florets.foldl (fun s f => s.modFl f (fun fl => if fl.lslot = t.val + 1 then { fl with lslot := 0 } else fl)) s
      let s := s.setLsl t.val { x with ended := some (0, 0) }
      ((s.launchRec r.val x.head x.w x.id 0 0 (some t.val) x.tRel x.wsVer false).ringSettle r).idleGateAll
    else s)

/-- FENCE packets for an ended generation to every reachable device (R317). -/
def State.sendFences (s : State) (t gen : Nat) : State :=
  (s.fab.reach.filter (· ≠ s.devId)).foldl (fun s d =>
    match s.ctlLink d none with
    | none => s
    | some l => s.emit ⟨l, 0, d, s.devId, t, gen, s.ftime, 0, .fence s.devId t gen s.ftime⟩) s

/-- A released launch ends with HANG, FAULT, ABORTED or FENCED (R256, R259, R317). -/
def State.endLaunch (s : State) (t status detail : Nat) : State :=
  let x := s.lsl t
  if x.state = 2 ∧ x.ended = none then
    let r : RingId := ⟨x.ring % 32768, Nat.mod_lt _ (by decide)⟩
    let s := s.setFab { s.fab with closedFlows := s.fab.closedFlows ++ [(t, x.gen)] }
    let s := (s.sendFences t x.gen).leaveFlorets t
    let s := s.setLsl t { x with ended := some (status, detail) }
    ((s.launchRec r.val x.head x.w x.id status detail (some t) x.tRel x.wsVer true).ringSettle r).idleGateAll
  else s

def execSlotQuarantineEnd (t : SlotId) (s : State) : Ans :=
  .next (
    let x := s.lsl t.val
    if x.state = 3 ∧ x.qEnd ≤ s.ftime then s.setLsl t.val { LSlot.reset with gen := x.gen } else s)

/-! The watchdog (R270, R271). -/

/-- DETAIL of a HANG: florets with WAITING set, and the first of them; with none its number is unstated (a free value). -/
def State.hangDetail (s : State) (fs : List Nat) : Nat × State :=
  let ws := fs.filter (fun f => (s.fl f).waiting)
  match ws with
  | [] => let r := s.fresh; (r.1.toNat % 2 ^ 16 * 2 ^ 16, r.2)
  | f :: _ => (ws.length + 2 ^ 16 * f, s)

def execWatchdogSample (t : SlotId) (s : State) : Ans :=
  .next (
    let x := s.lsl t.val
    if x.state ≠ 2 ∨ x.ended ≠ none ∨ x.suspended ∨ s.ftime < x.nextSample then s
    else
      let now := x.florets.map (fun f => s.regN .fl f Off.progress)
      let s1 := s.setLsl t.val { x with samples := now, nextSample := x.nextSample + samplePeriod x.window }
      if now ≠ x.samples then s1.setLsl t.val { s1.lsl t.val with tAdv := s.ftime }
      else if x.window ≤ s.ftime - x.tAdv then
        let d := s1.hangDetail x.florets
        let s := ((d.2.addReg .fe 0 0x130 1).event .fe 0 26).endLaunch t.val 0x10 d.1
        { s with flt := { s.flt with hangs := s.flt.hangs ++ [(t.val, x.part)] } }
      else s1)

end Sys2Proof.Machine
end

