-- ==== Sys2Proof/Machine/Weights.lean ====
section
/-! DEFINITION. The copy engine and weight sets (chapter "Rings, Graph Images and Launches", R254, R272 to R275; "Fixed
Codebooks and Delta Packs", R110 to R112; "The Peruldo Fabric", R319, R320; "Tenancy, Attestation and Keys", R399). -/

namespace Sys2Proof.Machine

/-! Multicast trees (R319, R320). -/

/-- Entry of tree index `t` (tree ID minus 1). -/
def State.mcEntry (s : State) (t : Nat) : Nat := (SMap.get (0xF : W32) s.fab.mct t).toNat
def mcParent (e : Nat) : Nat := bitsN e 3 0
def mcChildren (e : Nat) : List Nat := (List.range 12).filter (fun l => bitN e (4 + l))
def mcLocal (e : Nat) : Bool := bitN e 16

/-- The subtree count: own completed lines, and what each child last reported. A device that receives nothing itself counts
its children only. -/
def State.mcCount (s : State) (t : Nat) (own : Bool) : Nat :=
  let cs := (mcChildren (s.mcEntry t)).map (fun l => SMap.get 0 s.fab.mcChild (16 * t + l))
  match (if own then [SMap.get 0 s.fab.mcOwn t] else []) ++ cs with
  | [] => 0
  | x :: xs => xs.foldl min x

/-! Fields of LOAD_WEIGHTS and SWAP_LAYER. -/
namespace C
def op (w : Nat) : Nat := bitsN w 7 0
def lines (w : Nat) : Nat := bitsN w 63 32
def src (w : Nat) : Nat := bitsN w 127 64
def dst (w : Nat) : Nat := bitsN w 191 128
/-- KIND PACK. -/
def pack (w : Nat) : Bool := bitN w 192
def begin (w : Nat) : Bool := bitN w 192
def fin (w : Nat) : Bool := bitN w 193
def peer (w : Nat) : Bool := bitN w 194
def keep (w : Nat) : Bool := bitN w 195
def reloc (w : Nat) : Bool := bitN w 196
def ws (w : Nat) : Nat := bitsN w 203 200
def vslot (w : Nat) : Nat := bitsN w 214 208
def entry (w : Nat) : Nat := bitsN w 217 208
def mcast (w : Nat) : Nat := bitsN w 239 224
def wsetId (w : Nat) : Nat := bitsN w 319 256
def tally (w : Nat) : Nat := bitsN w 351 320
def target (w : Nat) : Nat := bitsN w 383 352
def ckey (w : Nat) : Nat := bitsN w 387 384
end C

/-! Launches that a command waits for. -/

/-- Released launches of weight set `k`, or of its pack at `p`. -/
def State.users (s : State) (k : Nat) (p : Option Nat) : List (Nat × Nat) :=
  (s.fe.slots.filter (fun t => t.2.state == 2 && t.2.ended == none && t.2.ws == some k && (match p with
    | none => true
    | some a => t.2.pack == a))).map (fun t => (t.1, t.2.gen))

def State.waitsOver (s : State) (ws : List (Nat × Nat)) : Bool :=
  ws.all (fun x => let t := s.lsl x.1; !(t.state == 2 && t.ended == none && t.gen == x.2))

/-! Commands in the copy engine. -/

def State.copy (s : State) (id : Nat) : Option CopyCmd := s.fe.copies.find? (fun c => c.id = id)
def State.setCopy (s : State) (c : CopyCmd) : State :=
  { s with fe := { s.fe with copies := s.fe.copies.map (fun x => if x.id = c.id then c else x) } }

/-- Take the head command into the engine; the number that it has there. -/
def State.copyTake (s : State) (r : RingId) (w phase : Nat) (waits : List (Nat × Nat)) : CopyCmd × State :=
  let y := s.take r.val
  let e := y.2.fe.copyEng
  let c : CopyCmd := ⟨e.nextId, r.val, y.1, w, phase, s.ftime, 0, s.ftime, waits, 0⟩
  (c, { y.2 with fe := { y.2.fe with copyEng := { e with nextId := e.nextId + 1 }, copies := y.2.fe.copies ++ [c] } })

/-- The engine has room for another command (R254); one that names a weight-set slot waits for an earlier one that names
it (assumption 20). -/
def State.copyRoom (s : State) (w : Nat) : Bool :=
  decide (s.fe.copies.length < 8)
    && !(decide (8 ≤ C.op w) && s.fe.copies.any (fun c => decide (8 ≤ C.op c.w) && C.ws c.w == C.ws w))

/-- The moves of a command as a descriptor: LINES lines from `src` to `dst`; LOAD_WEIGHTS and SWAP_LAYER count at the
index, unit and kind of TALLY (R253, R320). -/
def copyWord (w src dst : Nat) : Nat :=
  let en := if C.op w = 2 then bitN w 12 else true
  let ref := if C.op w = 2 then bitsN w 223 192 else C.tally w % 2 ^ 18
  2 + 2 ^ 13 * b2n en + 2 ^ 32 * ref + 2 ^ 64 * src + 2 ^ 128 * dst + 2 ^ 192 * (if C.op w = 2 then 0 else C.mcast w)

/-- Start to move the lines of a command. -/
def State.copyMove (s : State) (c : CopyCmd) (src dst : Nat) : State :=
  let e := s.fe.copyEng
  let d := { newDesc e ⟨copyWord c.w src dst, 0, 0, 0, 0⟩ (C.lines c.w) with id := c.id }
  let mc := if C.op c.w = 2 ∨ C.mcast c.w = 0 then 0 else s.mcCount (C.mcast c.w - 1) true
  ({ s with fe := { s.fe with copyEng := { e with fly := e.fly ++ [d] } } }).setCopy { c with phase := 1, mc0 := mc }

/-- Wait for a multicast from a peer (PEER). -/
def State.copyPeer (s : State) (c : CopyCmd) : State :=
  s.setCopy { c with phase := 2, seen := s.tallyVal (s.tref none none (C.tally c.w % 2 ^ 18)), seenAt := s.ftime }

/-- A command ends: it leaves the engine with its lines. -/
def State.copyEnd (s : State) (c : CopyCmd) (status detail ver : Nat) : State :=
  let e := s.fe.copyEng
  let s := { s with fe := { s.fe with
    copies := s.fe.copies.filter (fun x => x.id ≠ c.id), copyEng := { e with fly := e.fly.filter (fun d => d.id ≠ c.id) } } }
  let s := s.setFab { s.fab with awaits := s.fab.awaits.map (fun w => if w.agent == .copy && w.d == c.id then { w with orphan := true } else w) }
  s.cmdEnd ⟨c.ring % 32768, Nat.mod_lt _ (by decide)⟩ c.head c.w status detail c.t0 ver

/-! COPY. -/

def execCopyCmd (r : RingId) (s : State) : Ans :=
  .next (s.onHead r 2 (fun w =>
    if s.copyRoom w then
      let y := s.copyTake r w 1 []
      y.2.copyMove y.1 (C.src w) (C.dst w)
    else s))

/-! LOAD_WEIGHTS (R110, R112, R272). -/

/-- The content key of CKEY may open weight set `id` (R399). -/
def State.ckOk (s : State) (k id : Nat) : Bool :=
  k == 0 || (match SMap.get none s.sec.cks (k - 1) with
    | some c => c.wset == id
    | none => false)

/-- End with WS_BAD for a content key that does not fit; its DETAIL is not stated (a free value, assumption 6). -/
def State.ckRefuse (s : State) (r : RingId) (w ver : Nat) : State :=
  let x := s.fresh
  x.2.headEnd r w 0x0E x.1.toNat ver

def State.retireAll (x : WSet) : SMap (Option Variant) :=
  x.packs.map (fun e => (e.1, e.2.map (fun v => { v with retiring := true })))

/-- LOAD_WEIGHTS with KIND BASE: step 1 of R272. -/
def execLoadWeightsBase (r : RingId) (s : State) : Ans :=
  .next (s.onHead r 8 (fun w =>
    if C.pack w || !s.copyRoom w then s
    else if !s.ckOk (C.ckey w) (C.wsetId w) then s.ckRefuse r w 0
    else
      let k := C.ws w
      (s.copyTake r w 0 (s.users k none)).2.setWset k { s.wset k with retiring := true }))

/-- LOAD_WEIGHTS with KIND PACK: step 1 of R112. A slot without the command's weight set ends it. -/
def execLoadWeightsPack (r : RingId) (s : State) : Ans :=
  .next (s.onHead r 8 (fun w =>
    if !C.pack w || !s.copyRoom w then s
    else
      let k := C.ws w
      let x := s.wset k
      if !x.valid || x.id != C.wsetId w then s.headEnd r w 0x06 0 0
      else match SMap.get none x.packs (C.vslot w) with
      | none => (s.copyTake r w 0 []).2
      | some v =>
        (s.copyTake r w 0 (s.users k (some v.addr))).2.setWset k
          { x with packs := SMap.put none x.packs (C.vslot w) (some { v with retiring := true }) }))

/-- RETIRING_WAIT_END: the launches of the weight set or pack have completed; the lines move, or the peer's are awaited. -/
def execRetiringWaitEnd (d : Nat) (s : State) : Ans :=
  .next (match s.copy d with
    | none => s
    | some c =>
      if c.phase ≠ 0 ∨ C.op c.w ≠ 8 ∨ !s.waitsOver c.waits then s
      else
        let k := C.ws c.w
        let s := if C.pack c.w then s else s.setWset k { s.wset k with packs := [] }
        if C.peer c.w then s.copyPeer c else s.copyMove c (C.src c.w) (s.own (C.dst c.w)))

/-- The header and layer table of a weight set at local address `a` (R272), for a slot whose gate count is `g0` (R274). -/
def State.readWset (s : State) (a id lines g0 : Nat) : Option Nat × WSet :=
  let nl := s.memGetN 2 (a + 4)
  let n := s.memGetN 8 (a + 0x18)
  let es := List.range nl
  let off (e : Nat) : Nat := s.memGetN 8 (a + 128 + 16 * e)
  let ln (e : Nat) : Nat := s.memGetN 4 (a + 128 + 16 * e + 8)
  let bad := match firstBad [(0, s.memGetN 4 a != 0x31535744), (4, nl == 0 || decide (1024 < nl)), (8, s.memGetN 8 (a + 8) != id || id == 0),
      (0x18, n != lines * 128)] with
    | some o => some o
    | none => (es.find? (fun e => off e % 128 != 0 || decide (n < off e + 128 * ln e))).map (fun e => 128 + 16 * e)
  (bad, { WSet.empty with
    g := g0, valid := true, id := id, nl := nl, gate := s.memGetN 1 (a + 6), nunits := s.memGetN 4 (a + 0x10), bytes := n, base := a
    lat := es.foldl (fun m e => SMap.put 0 m e (s.own (a + off e))) [], off := es.foldl (fun m e => SMap.put 0 m e (off e)) []
    lines := es.foldl (fun m e => SMap.put 0 m e (ln e)) [] })

/-- Bytes `[a, a + n)`. -/
def State.bytesAt (s : State) (a n : Nat) : List Byte := (List.range n).map (fun i => BitVec.ofNat 8 (s.memGetN 1 (a + i)))

/-- The first region whose digest differs (R399), as its offset in the weight set; entry `e` alone for a swap. -/
def State.digestBad (s : State) (x : WSet) (ck : Nat) (e : Option Nat) : Option Nat :=
  if ck = 0 then none
  else match SMap.get none s.sec.cks (ck - 1) with
  | none => some 0
  | some c =>
    let one (i : Nat) : Bool :=
      Config.sha384 (s.bytesAt (x.base + SMap.get 0 x.off i) (128 * SMap.get 0 x.lines i)) != c.ents.getD i 0
    match e with
    | some i => if one i then some (SMap.get 0 x.off i) else none
    | none =>
      if Config.sha384 (s.bytesAt x.base (128 + 16 * x.nl)) != c.hdr then some 0
      else ((List.range x.nl).find? one).map (fun i => SMap.get 0 x.off i)

/-- DIGEST_ERR. -/
def State.digestErr (s : State) : State := s.sticky .sec 0 0x11C 17 (some 2)

/-- Checks of a delta pack at local address `a` (R110): the first that fails. -/
def State.packBad (s : State) (x : WSet) (a : Nat) : Option Nat :=
  let n := s.memGetN 8 (a + 0x18)
  let ix := 16 * s.memGetN 4 (a + 0x20)
  match firstBad [(0, s.memGetN 4 a != 0x314B5044), (4, s.memGetN 2 (a + 4) != 1), (8, s.memGetN 8 (a + 8) != x.id),
      (0x10, s.memGetN 4 (a + 0x10) != x.nunits)] with
  | some o => some o
  | none => ((List.range x.nunits).find? (fun u =>
      let w := s.memGetN 4 (a + ix + 4 * u)
      w != 0 && decide (n < 16 * w + 136 + 4 * bitsN (s.memGetN 2 (a + 16 * w)) 10 0))).map (fun u => ix + 4 * u)

/-! Swap sequences (R274, R275). -/

/-- Add 1 to G and to umbel tally GATE of every umbel; the entry counts as replaced, and END closes the sequence. -/
def State.gateStep (s : State) (k w : Nat) : State :=
  let x := s.wset k
  let s := (List.range 32).foldl (fun s u => if (s.um u).held then s else s.modUm u (fun m => m.setTally x.gate (m.tally x.gate + 1))) s
  let s := s.setWset k { x with g := (x.g + 1) % 2 ^ 32, next := C.entry w + 1, swapping := !C.fin w }
  if C.fin w then
    { s with fe := { s.fe with slots := s.fe.slots.map (fun t =>
        if t.2.ws = some k ∧ t.2.suspended then (t.1, { t.2 with suspended := false, tAdv := s.ftime, nextSample := s.ftime + samplePeriod t.2.window })
        else t) } }
  else s

/-- Write every GATE tally of an umbel that leaves reset or power-gating (R274). -/
def State.gateWake (s : State) (u : Nat) : State :=
  (List.range 16).foldl (fun s k =>
    let x := s.wset k
    if x.valid then s.modUm u (fun m => m.setTally x.gate (BitVec.ofNat 32 x.g)) else s) s

/-- What a SWAP_LAYER may not do: status and DETAIL. -/
def State.swapBad (s : State) (w : Nat) : Option (Nat × Nat) :=
  let x := s.wset (C.ws w)
  let e := C.entry w
  if !x.valid || x.id != C.wsetId w then some (0x06, 0)
  else if x.retiring then some (0x07, C.ws w)
  else
    (firstBad [(4, decide (e < x.nl) && C.lines w != 0 && C.lines w != SMap.get 0 x.lines e),
      (0x18, (C.reloc w || C.begin w) && x.swapping),
      (0x1A, decide (x.nl ≤ e) || (!C.reloc w && ((C.begin w && e != 0) || (!C.begin w && (!x.swapping || e != x.next))
        || (C.fin w && e + 1 != x.nl))))]).map (fun o => (1, o))

/-- Move an entry's lines into its region, or wait for the peer's. -/
def State.swapMove (s : State) (c : CopyCmd) : State :=
  let x := s.wset (C.ws c.w)
  if C.peer c.w then s.copyPeer c else s.copyMove c (C.src c.w) (s.own (x.base + SMap.get 0 x.off (C.entry c.w)))

def execSwapLayer (r : RingId) (s : State) : Ans :=
  .next (s.onHead r 9 (fun w =>
    let k := C.ws w
    let x := s.wset k
    if C.reloc w || !s.copyRoom w then s
    else match s.swapBad w with
    | some e => s.headEnd r w e.1 e.2 x.ver
    | none =>
      if !s.ckOk (C.ckey w) (C.wsetId w) then s.ckRefuse r w x.ver
      else if C.begin w then
        let packs := if C.keep w then x.packs else State.retireAll x
        (s.copyTake r w 0 (s.users k none)).2.setWset k
          { x with swapping := true, ver := (x.ver + 1) % 2 ^ 32, gb := x.g, next := 0, packs := packs }
      else
        let y := s.copyTake r w 1 []
        y.2.swapMove y.1))

/-- SWAP_BEGIN_WAIT_END: launches released before BEGIN have completed. -/
def execSwapBeginWaitEnd (d : Nat) (s : State) : Ans :=
  .next (match s.copy d with
    | none => s
    | some c =>
      if c.phase ≠ 0 ∨ C.op c.w ≠ 9 ∨ C.reloc c.w ∨ !s.waitsOver c.waits then s
      else
        let x := s.wset (C.ws c.w)
        (s.setWset (C.ws c.w) { x with packs := if C.keep c.w then x.packs else [] }).swapMove c)

/-- A relocation of ring `r` whose launches have all completed. -/
def State.relocDue (s : State) (r : Nat) : Option CopyCmd :=
  s.fe.copies.find? (fun c => c.ring == r && c.phase == 0 && C.op c.w == 9 && C.reloc c.w && s.waitsOver c.waits)

/-- Steps 3 and 4 of R273: the entry is written and the held launches go on. -/
def State.relocEnd (s : State) (c : CopyCmd) : State :=
  let k := C.ws c.w
  let x := s.wset k
  (s.setWset k { x with reloc := false, lat := SMap.put 0 x.lat (C.entry c.w) (C.src c.w) }).copyEnd c 0 0 x.ver

/-- SWAP_LAYER with RELOCATE (R251, R273): taken from its ring, it holds releases of the weight set; once every released launch
of it has completed, it writes the entry and lets them go on. A relocation of the ring that has waited for its launches ends
first. -/
def execSwapRelocate (r : RingId) (s : State) : Ans :=
  .next (match s.relocDue r.val with
    | some c => s.relocEnd c
    | none => s.onHead r 9 (fun w =>
      let k := C.ws w
      let x := s.wset k
      if !C.reloc w || !s.copyRoom w then s
      else match s.swapBad w with
      | some e => s.headEnd r w e.1 e.2 x.ver
      | none =>
        let y := s.copyTake r w 0 (s.users k none)
        let s := y.2.setWset k { x with reloc := true }
        if s.waitsOver y.1.waits then s.relocEnd y.1 else s))

/-! Ends. -/

/-- What a failed command leaves of its slot: an empty weight set (R272), the pack it had (R110), an entry not replaced. -/
def State.copyUndo (s : State) (c : CopyCmd) : State :=
  let k := C.ws c.w
  let x := s.wset k
  if C.op c.w ≠ 8 then s
  else if C.pack c.w then
    let v := (SMap.get none x.packs (C.vslot c.w)).map (fun v => { v with retiring := false })
    s.setWset k { x with packs := SMap.put none x.packs (C.vslot c.w) v }
  else s.setWset k { WSet.empty with g := x.g }

def State.copyFail (s : State) (c : CopyCmd) (status detail : Nat) : State :=
  (s.copyUndo c).copyEnd c status detail (if C.op c.w = 9 then (s.wset (C.ws c.w)).ver else 0)

/-- The lines are in place: the checks and what follows them. -/
def State.copyFinish (s : State) (c : CopyCmd) : State :=
  let k := C.ws c.w
  match C.op c.w with
  | 2 => s.copyEnd c 0 0 0
  | 8 =>
    if C.pack c.w then
      match s.packBad (s.wset k) (C.dst c.w) with
      | some o => s.copyFail c 0x0E o
      | none =>
        let x := s.wset k
        let v : Variant := ⟨C.dst c.w, s.memGetN 4 (C.dst c.w + 0x14), false⟩
        (s.setWset k { x with packs := SMap.put none x.packs (C.vslot c.w) (some v) }).copyEnd c 0 0 x.ver
    else
      let y := s.readWset (C.dst c.w) (C.wsetId c.w) (C.lines c.w) (s.wset k).g
      match y.1 with
      | some o => s.copyFail c 0x0E o
      | none =>
        match s.digestBad y.2 (C.ckey c.w) none with
        | some o => s.digestErr.copyFail c 0x0E o
        | none => (s.setWset k y.2).copyEnd c 0 0 0
  | _ =>
    let x := s.wset k
    match s.digestBad x (C.ckey c.w) (some (C.entry c.w)) with
    | some o => s.digestErr.copyFail c 0x0E o
    | none => (s.gateStep k c.w).copyEnd c 0 0 x.ver

/-- Every line is complete at every destination (R254, R320). -/
def State.copyDone (s : State) (c : CopyCmd) (d : Desc) : Bool :=
  popN d.lines d.dn == d.lines
    && (C.op c.w == 2 || C.mcast c.w == 0 || decide (c.mc0 + C.lines c.w ≤ s.mcCount (C.mcast c.w - 1) true))

/-- COPY_ENGINE_COMPLETE; a lost line, or a broken tree, ends the command with FAULT (R315, R320). -/
def execCopyEngineComplete (d : Nat) (s : State) : Ans :=
  .next (match s.copy d, s.fe.copyEng.desc d with
    | some c, some q =>
      if c.phase ≠ 1 then s
      else if q.lost ≠ 0 ∨ (C.op c.w ≠ 2 ∧ C.mcast c.w ≠ 0 ∧ SMap.get false s.fab.mcBroken (C.mcast c.w - 1)) then
        s.copyFail c 0x11 Code.lineLoss
      else if s.copyDone c q then s.copyFinish c
      else s
    | _, _ => s)

/-- PEER_TALLY_REACHED. -/
def execPeerTallyReached (d : Nat) (s : State) : Ans :=
  .next (match s.copy d with
    | none => s
    | some c =>
      if c.phase = 2 ∧ waitOk (s.tallyVal (s.tref none none (C.tally c.w % 2 ^ 18))) (BitVec.ofNat 32 (C.target c.w)) then s.copyFinish c
      else s)

/-- PEER_TIMEOUT: the tally has not risen within FE_WD_DEFAULT; one that has risen since the last look starts the time
again. -/
def execPeerTimeout (d : Nat) (s : State) : Ans :=
  .next (match s.copy d with
    | none => s
    | some c =>
      let v := s.tallyVal (s.tref none none (C.tally c.w % 2 ^ 18))
      if c.phase ≠ 2 ∨ waitOk v (BitVec.ofNat 32 (C.target c.w)) then s
      else if v ≠ c.seen then s.setCopy { c with seen := v, seenAt := s.ftime }
      else if s.regN .fe 0 0x110 * 1000 ≤ s.ftime - c.seenAt then s.copyFail c 0x13 0
      else s)

end Sys2Proof.Machine
end

