-- ==== Sys2Proof/Machine/Fabric.lean ====
section
/-! DEFINITION. The Peruldo fabric at this device (chapter "The Peruldo Fabric", R303 to R320): arriving packets, forwarding,
answers, the dead list, multicast, links and lanes. -/

namespace Sys2Proof.Machine

/-! Ingress. -/

def State.linkUp (s : State) (l : Nat) : Bool := s.linkPresent l && (s.link l).state == 2

/-- Count a packet of kind `k` that link `l` has accepted (R306, R414). -/
def State.rx (s : State) (l k : Nat) : State :=
  if s.linkUp l then (s.setLink l { s.link l with rxSeq := (s.link l).rxSeq + 1 }).cnt .pl l 0x148 (Config.packetBytes k) else s

def State.plCount (s : State) (l off ev : Nat) : State := (s.addReg .pl l off 1).event .pl l ev

/-- A packet from outside the in-service set, or any packet while a tenant change has closed ingress (R324, R387). -/
def State.outside (s : State) (src : Nat) : Bool := s.sec.shut || !s.fab.service.contains src

def State.isoDrop (s : State) (l : Nat) : State := s.addReg .pl l 0x124 1

/-- An answer to a packet. -/
def State.answerTo (s : State) (h : PktHdr) (tok : Nat) (b : Body) : State := s.answer h.src.toNat h.flow.toNat h.gen.toNat tok b

/-- LOSS back to a packet's source. -/
def State.lossTo (s : State) (h : PktHdr) (why : LossWhy) : State := s.answerTo h h.token (.loss h.token why)

/-- The dead list names the packet (R318). -/
def State.isDead (s : State) (h : PktHdr) : Bool :=
  s.fab.dead.any (fun e => e.1 == h.src.toNat && e.2.1 == h.flow.toNat && e.2.2.1 == h.gen.toNat && decide (s.ftime < e.2.2.2))

/-- Older than 150 µs (R309). -/
def State.tooOld (s : State) (inj : Nat) : Bool := decide (150000 < s.ftime - inj)

/-- An age drop: counted, logged with source and flow, LOSS. -/
def State.ageDrop (s : State) (l : Nat) (h : PktHdr) : State :=
  ((s.plCount l 0x11C 4).logErr .pl l 0x0E 0 (0x230 + l) (h.src.toNat + 2 ^ 16 * h.flow.toNat)).lossTo h .age

/-- Forward a packet by the route for (`dst`, `a`); with no route it is dropped and LOSS returns (R310 to R313). -/
def State.forward (s : State) (l : Nat) (h : PktHdr) (dst a : Nat) (b : Body) : State :=
  match s.pickRoute dst a with
  | none => (s.plCount l 0x120 5).lossTo h .noRoute
  | some (o, dl) => s.emit ⟨o, b2n (dl || h.sub), dst, h.src.toNat, h.flow.toNat, h.gen.toNat, h.inj, h.token, b⟩

/-- A request packet arrives on link `l` for address `a` of device `dst`: the checks of R318, R309, R324, then forwarding or
its effect here. -/
def State.request (s : State) (l : Nat) (h : PktHdr) (dst a : Nat) (b : Body) (here : State → State) : State :=
  let s := s.rx l b.kind
  if !s.linkUp l then s
  else if s.outside h.src.toNat then s.isoDrop l
  else if s.isDead h then s.plCount l 0x118 3
  else if s.tooOld h.inj then s.ageDrop l h
  else if dst ≠ s.devId then s.forward l h dst a b
  else here s

def State.ackTo (s : State) (h : PktHdr) (discarded : Bool) : State := s.answerTo h 0 (.ack [⟨h.token, discarded⟩])

/-! Request packets (R314). -/

/-- PKT_WRITE. -/
def State.pktWrite (io : RegIO) (s0 : State) (l : Nat) (h : PktHdr) (a mask : Nat) (data : Line) (psn : Bool) (tally : Option W32)
    (cnt : Bool) : State :=
  s0.request l h (devOf a) (localOf a) (.write (localOf a) mask data psn tally cnt) (fun s =>
    let q := reqLink l
    let r := s.writeLocal io q (localOf a) mask data psn .clean
    match r.1 with
    | .held => s0
    | .lost => r.2.lossTo h .unitReset
    | .discarded => r.2.ackTo h true
    | .done =>
      match tally with
      | none => r.2.ackTo h false
      | some t =>
        let x := r.2.tallyAdd q none none t.toNat (if cnt then BitVec.ofNat 32 (popN 128 mask) else 1)
        (match x.1 with
          | .lost => x.2.lossTo h .unitReset
          | _ => x.2.ackTo h false))

/-- PKT_READ: the answer carries the line; one of the host window comes through the PCIe requester first (R240, R314). -/
def State.pktRead (io : RegIO) (s0 : State) (l : Nat) (h : PktHdr) (a : Nat) : State :=
  s0.request l h (devOf a) (localOf a) (.read (localOf a)) (fun s =>
    if s.placeOf (localOf a) = .host then
      let tag := s.fab.nextTok
      let ha := s.hostAddr (localOf a)
      let s := s.setFab { s.fab with nextTok := tag + 1, hostRd := s.fab.hostRd ++ [(tag, h)] }
      { s with hostOut := s.hostOut ++ [.read ha .host tag 0 s.tdiRuns], hostReads := s.hostReads ++ [⟨.host, tag, 0, ha, 0⟩] }
    else
      let r := s.readLocal io (reqLink l) (localOf a) .clean
      match r.1 with
      | .held => s0
      | .lost => r.2.lossTo h .unitReset
      | .line d p => r.2.answerTo h h.token (.data d p))

/-- PKT_SIGNAL: the tally reference's REMOTE and DEVICE name the destination. -/
def State.pktSignal (s : State) (l : Nat) (h : PktHdr) (tally v : W32) : State :=
  let dst := if bitN tally.toNat 19 then bitsN tally.toNat 29 20 else s.devId
  s.request l h dst 0 (.signal tally v) (fun s =>
    let x := s.tallyAdd (reqLink l) none none tally.toNat v
    match x.1 with
    | .lost => x.2.lossTo h .unitReset
    | _ => x.2.ackTo h false)

/-- PKT_END. -/
def State.pktEnd (s : State) (l : Nat) (h : PktHdr) (a e : Nat) : State :=
  s.request l h (devOf a) (localOf a) (.endMark (localOf a) e) (fun s =>
    let x := s.endTo (reqLink l) (localOf a) e
    match x.1 with
    | .lost => x.2.lossTo h .unitReset
    | _ => x.2.ackTo h false)

/-! Multicast (R319, R320). -/

/-- A tree's count stops; MC_LOSS on the link's page. -/
def State.mcBreak (s : State) (t l : Nat) : State :=
  (s.setFab { s.fab with mcBroken := SMap.put false s.fab.mcBroken t true }).event .pl l 8

/-- Copies of a multicast line to the children of tree index `t`; one for a child whose link is not UP waits for it (R311, R320). -/
def State.mcSend (s : State) (t src flow gen inj tok : Nat) (sub : Bool) (b : Body) : State :=
  (mcChildren (s.mcEntry t)).foldl (fun s c => s.emit ⟨c, b2n sub, 0, src, flow, gen, inj, tok, b⟩) s

/-- Count one own completed line of a tree. -/
def State.mcOne (s : State) (t : Nat) : State :=
  s.setFab { s.fab with mcOwn := SMap.put 0 s.fab.mcOwn t (SMap.get 0 s.fab.mcOwn t + 1) }

/-- The PEER command that binds tree index `t` while it runs (R400). -/
def State.mcBinding (s : State) (t : Nat) : Option CopyCmd :=
  s.fe.copies.find? (fun c => C.op c.w != 2 && C.peer c.w && C.mcast c.w == t + 1 && C.ckey c.w != 0)

/-- Decrypt a multicast line under the bound slot: the tweak is the line's offset within the weight set (R399). -/
def State.mcDecrypt (s : State) (c : CopyCmd) (a : Nat) (l : Line) : Line :=
  let base := if C.op c.w = 9 then (s.wset (C.ws c.w)).base else C.dst c.w
  match SMap.get none s.sec.cks (C.ckey c.w - 1) with
  | none => l
  | some ck => lineOf 8 ((Config.aesDec ck.key ((a - base) / 128) (lineBytes l)).map (·.toNat))

/-- MC_WRITE: written here with LOCAL set, decrypted first when CT is set (R400), then passed on to the children. -/
def State.mcWrite (io : RegIO) (s0 : State) (l : Nat) (h : PktHdr) (t a : Nat) (data : Line) (psn ct : Bool) (tally : Option W32) : State :=
  let s := s0.rx l 4
  let e := s.mcEntry t
  let b : Body := .mc (t + 1) a data psn ct (tally.getD 0)
  let pass (s : State) : State := s.mcSend t h.src.toNat h.flow.toNat h.gen.toNat h.inj h.token h.sub b
  let bound := s.mcBinding t
  if !s.linkUp l then s
  else if s.outside h.src.toNat then s.isoDrop l
  else if s.isDead h then (s.plCount l 0x118 3).mcBreak t l
  else if s.tooOld h.inj then (s.ageDrop l h).mcBreak t l
  else if !mcLocal e then pass s
  else if ct && bound.isNone then pass ((s.sticky .sec 0 0x11C 16 (some 2)).mcBreak t l)
  else
    let line := match bound with
      | some c => if ct then s.mcDecrypt c a data else data
      | none => data
    let r := s.writeLocal io (reqLink l) a fullMask line psn .clean
    match r.1 with
    | .held => s0
    | .lost => pass (r.2.mcBreak t l)
    | .discarded => pass (r.2.mcOne t)
    | .done =>
      let x := match tally with
        | none => (TOut.done, r.2)
        | some x => r.2.tallyAdd (reqLink l) none none (x.toNat % 2 ^ 18) 1
      pass (if x.1 = .lost then x.2.mcBreak t l else x.2.mcOne t)

/-- SUBTREE_REPORT: a child's count arrives, or this device reports its own to its parent: every 256 lines, and every 10 µs
while the count has changed; or, once, that the count has stopped (assumption 28). -/
def execSubtreeReport (tree : TreeId) (child : OptChild) (s : State) : Ans :=
  .next (
    let t := tree.val
    let e := s.mcEntry t
    match child with
    | some (l, n) =>
      let s := s.rx l.val 11
      if s.linkUp l.val && (mcChildren e).contains l.val then
        if s.outside (s.link l.val).peerDev then s.isoDrop l.val
        else match n with
        | some n => s.setFab { s.fab with mcChild := SMap.put 0 s.fab.mcChild (16 * t + l.val) n }
        | none => s.setFab { s.fab with mcBroken := SMap.put false s.fab.mcBroken t true }
      else s
    | none =>
      let n := s.mcCount t (mcLocal e)
      let was := SMap.get 0 s.fab.mcSent t
      let stop := SMap.get false s.fab.mcBroken t
      if !s.linkUp (mcParent e) then s
      else if stop then
        if was = 2 ^ 64 then s
        else
          let s := s.setFab { s.fab with mcSent := SMap.put 0 s.fab.mcSent t (2 ^ 64) }
          s.emit ⟨mcParent e, 0, 0, s.devId, 64, 0, s.ftime, 0, .subtree (t + 1) none⟩
      else if n = was ∨ (n < was + 256 ∧ s.ftime < SMap.get 0 s.fab.mcSentAt t + 10000) then s
      else
        let s := s.setFab { s.fab with
          mcSent := SMap.put 0 s.fab.mcSent t n, mcSentAt := SMap.put 0 s.fab.mcSentAt t s.ftime }
        s.emit ⟨mcParent e, 0, 0, s.devId, 64, 0, s.ftime, 0, .subtree (t + 1) (some n)⟩)

/-! Answers (R314, R315, R318). -/

/-- The launch that a flow stands for runs in this generation. -/
def State.flowLive (s : State) (flow gen : Nat) : Bool :=
  decide (63 < flow) || ((s.lsl flow).gen == gen && (s.lsl flow).state == 2 && (s.lsl flow).ended == none)

/-- A descriptor that awaited a remote answer completes; those behind it act. -/
def State.sigDone (s : State) (g : Agent) (d : Nat) : State :=
  match (s.eng g).desc d with
  | none => s
  | some q => State.cascade ((s.eng g).fly.length + 1) (s.complete g q) g

/-- A SIGNAL command ends (R242). -/
def State.sigCmdEnd (s : State) (r n status : Nat) : State :=
  let r' : RingId := ⟨r % 32768, Nat.mod_lt _ (by decide)⟩
  match (s.ring r).sigs.find? (fun p => p.n = n) with
  | none => s
  | some p =>
    let s := s.modRing r (fun x => { x with sigs := x.sigs.filter (fun p => p.n ≠ n) })
    s.cmdEnd r' n p.w status (if status = 0 then 0 else Code.lineLoss) p.t0 0

/-- A line written before its agent was reset has completed (R235, R243): its tally on a third device, or on this one, still
counts it. Nobody is left whom a lost count could stop. -/
def State.countOrphan (s : State) (w : Await) : State :=
  match w.cnt with
  | none => s
  | some (ref, v) =>
    let r := s.tallyAdd (reqOf w.agent) none none ref v
    match r.1 with
    | .remote dev => (r.2.inject .umc .tallyCount 0 0 w.flow w.gen dev 0 false (.signal (BitVec.ofNat 32 ref) v)).2
    | _ => r.2

/-- One acknowledged packet. -/
def State.acked (s : State) (w : Await) (discarded : Bool) : State :=
  if w.orphan then (if discarded then s else s.countOrphan w)
  else match w.kind with
  | .line => match w.agent with
    | .sorrel k => if w.d = 1 && !discarded then s.srCount k w.i (w.flow, w.gen) else s
    | g => s.engAcked g w.d w.i w.dev discarded
  | .sigDesc => s.sigDone w.agent w.d
  | .endDesc => s.sigDone w.agent w.d
  | .front => s.sigCmdEnd w.d w.i 0
  | _ => s

/-- One lost packet (R244, R315). -/
def State.lossOf (s : State) (w : Await) : State :=
  if w.orphan then s
  else match w.kind with
  | .line => match w.agent with
    | .sorrel k => s.srLoss k
    | g => s.markLost g w.d w.i
  | .tallyCount => match w.agent with
    | .sorrel k => s.srLoss k
    | .dd u => s.ddLoss u.val 0
    | g => (s.markLost g w.d w.i).engLoss g true
  | .sigDesc => match (s.eng w.agent).desc w.d with
    | some q => (s.complete w.agent q).engLoss w.agent true
    | none => s
  | .endDesc => match (s.eng w.agent).desc w.d with
    | some q => (s.complete w.agent q).engLoss w.agent true
    | none => s
  | .tsig => match agentFl w.agent with
    | some f => s.flLoss f 0
    | none => s
  | .credit => match agentFl w.agent with
    | some f => s.flLoss f 0
    | none => s
  | .front => s.sigCmdEnd w.d w.i 0x11

/-- A response arrives on link `l`: dropped (R318, R324), forwarded on its sub-channel (R313), or taken here. -/
def State.response (s : State) (l : Nat) (h : RspHdr) (toks : List Nat) (b : Body) (here : State → State) : State :=
  let s := s.rx l b.kind
  if !s.linkUp l then s
  else if s.outside h.src.toNat then s.isoDrop l
  else if h.dst.toNat ≠ s.devId then
    match s.pickRoute h.dst.toNat 0 with
    | none => s.plCount l 0x120 5
    | some (o, dl) => s.emit ⟨o, b2n (dl || h.sub), h.dst.toNat, h.src.toNat, h.flow.toNat, h.gen.toNat, s.ftime, toks.headD 0, b⟩
  else if h.flow.toNat < 64 ∧ (s.lsl h.flow.toNat).gen ≠ h.gen.toNat then
    (s.setFab { s.fab with awaits := s.fab.awaits.filter (fun w => !toks.contains w.tok) }).plCount l 0x118 3
  else here s

/-- Give a response to what awaits it. -/
def State.awaited (s : State) (tok : Nat) (k : State → Await → State) : State :=
  let r := s.takeAwait tok
  match r.1 with
  | none => s
  | some w => k r.2 w

/-- PKT_DATA: the line reaches the engine that read it. -/
def execPktData (l : LinkId) (h : RspHdr) (tok : Token) (data : Line) (psn : Bool) (s : State) : Ans :=
  .next (s.response l.val h [tok] (.data data psn) (fun s =>
    s.awaited tok (fun s w => if w.orphan then s else s.holdLine w.agent w.d w.i data psn)))

/-- ACK of up to 16 packets. -/
def execAck (l : LinkId) (h : RspHdr) (toks : ListAckTok) (s : State) : Ans :=
  .next (
    let ts := toks.take 16
    s.response l.val h (ts.map (·.tok)) (.ack ts) (fun s => ts.foldl (fun s t => s.awaited t.tok (fun s w => s.acked w t.discarded)) s))

/-- LOSS; one for a flow whose launch has ended is discarded. -/
def execLossPkt (l : LinkId) (h : RspHdr) (x : Loss) (s : State) : Ans :=
  .next (s.response l.val h [x.tok] (.loss x.tok x.why) (fun s =>
    s.awaited x.tok (fun s w => if s.flowLive w.flow w.gen then s.lossOf w else s)))

/-! Packets that wait for a link, and what becomes of them (R309, R311, R312, R317). -/

/-- A packet leaves nowhere: LOSS to its source, which for an own packet is the loss itself; a multicast's count stops. -/
def State.lossBack (s : State) (p : OutPkt) (why : LossWhy) : State :=
  let s := match p.body with
    | .mc t _ _ _ _ _ => s.mcBreak (t - 1) p.link
    | _ => s
  if !p.body.isRequest then s
  else if p.src ≠ s.devId then s.answer p.src p.flow p.gen p.tok (.loss p.tok why)
  else s.awaited p.tok (fun s w => if s.flowLive w.flow w.gen then s.lossOf w else s)

/-- A request packet older than 150 µs does not leave (R309). -/
def State.ageOut (s : State) (p : OutPkt) : State :=
  ((s.plCount p.link 0x11C 4).logErr .pl p.link 0x0E 0 (0x230 + p.link) (p.src + 2 ^ 16 * p.flow)).lossBack p .age

/-- A packet that has waited leaves on its link: one of a closed flow is dropped with no answer (R317), an old one by R309. -/
def State.leave (s : State) (p : OutPkt) : State :=
  if p.body.isRequest && p.src == s.devId && s.fab.closedFlows.contains (p.flow, p.gen) then s.plCount p.link 0x118 3
  else if p.body.isRequest && s.tooOld p.inj then s.ageOut p
  else s.emit p

/-- The packets that wait for link `l` leave, in order: it is UP. -/
def State.flushLink (s : State) (l : Nat) : State :=
  let ps := s.fab.held.filter (fun p => p.link = l)
  ps.foldl State.leave (s.setFab { s.fab with held := s.fab.held.filter (fun p => p.link ≠ l) })

/-- Packets that wait and have grown too old are dropped (R309, R311). -/
def State.ageHeld (s : State) : State :=
  let old (p : OutPkt) : Bool := p.body.isRequest && s.tooOld p.inj
  (s.fab.held.filter old).foldl State.ageOut (s.setFab { s.fab with held := s.fab.held.filter (fun p => !old p) })

/-! Fences (R317, R318). -/

/-- Entries that have expired leave the dead list; FENCE packets that waited enter it. -/
def State.expireDead (s : State) : State :=
  let d := s.fab.dead.filter (fun e => decide (s.ftime < e.2.2.2))
  let n := 256 - d.length
  s.setFab { s.fab with dead := d ++ s.fab.deadQ.take n, deadQ := s.fab.deadQ.drop n }

def execDeadListExpiry (s : State) : Ans := .next s.expireDead

/-- PKT_FENCE. -/
def execPktFence (l : LinkId) (dst : DevId) (src : DevId) (flow : W7) (gen : W4) (inj : Nat) (s : State) : Ans :=
  .next (
    let b : Body := .fence src.toNat flow.toNat gen.toNat inj
    let s := s.rx l.val 8
    if !s.linkUp l.val then s
    else if s.outside src.toNat then s.isoDrop l.val
    else if dst.toNat ≠ s.devId then
      match s.ctlLink dst.toNat (some l.val) with
      | none => s.plCount l.val 0x120 5
      | some o => s.emit ⟨o, 0, dst.toNat, src.toNat, flow.toNat, gen.toNat, inj, 0, b⟩
    else
      let e := (src.toNat, flow.toNat, gen.toNat, inj + 150000)
      if s.fab.dead.length < 256 then s.setFab { s.fab with dead := s.fab.dead ++ [e] }
      else s.setFab { s.fab with deadQ := s.fab.deadQ ++ [e] })

/-! Link state, membership announcements (R304 to R307, R324). -/

/-- ETT_DIGEST: the first 8 bytes of SHA-384 over the table; 0 with no table (R439). -/
def ettDigest (t : List Nat) : Nat := if t.isEmpty then 0 else Config.sha384 (t.map (BitVec.ofNat 8)) % 2 ^ 64

/-- Flood this device's LSA (R324, R441): JOIN is sent in step 7. -/
def State.floodLsa (s : State) : State :=
  let a : Lsa :=
    { origin := BitVec.ofNat 10 s.devId, seq := s.fab.lsaSeq + 1
      links := (List.range 12).map (fun l => let x := s.link l; (x.state, x.peerDev, x.peerLink))
      mstate := s.fab.mstate, join := s.boot.state == 6, digest := ettDigest s.boot.cur }
  let s := s.setFab { s.fab with lsaSeq := s.fab.lsaSeq + 1, lsaAt := s.ftime }
  (List.range 12).foldl (fun s l => if s.linkUp l then s.emit ⟨l, 0, 0, s.devId, 0, 0, s.ftime, 0, .lsa a⟩ else s) s

/-- The packets in the queues of link `l` and in its retry buffer are lost (R307, R312). Of the retry buffer that holds for those
the peer had not acknowledged, which no command shows: for each a free value decides (assumption 38). -/
def State.dropLink (s : State) (l : Nat) : State :=
  let x := s.link l
  let s := s.setLink l { x with retry := [] }
  let s := x.retry.foldl (fun s r =>
    let v := s.fresh
    if v.1.getLsbD 0 then v.2.lossBack r.pkt .linkRetired else v.2) s
  let ps := s.fab.held.filter (fun p => p.link = l)
  ps.foldl (fun s p => s.lossBack p .linkRetired) (s.setFab { s.fab with held := s.fab.held.filter (fun p => p.link ≠ l) })

/-- A link becomes RETIRED (R307, R361). -/
def State.retireLink (s : State) (l : Nat) : State :=
  let s := (s.setLink l { s.link l with state := 3 }).event .pl l 2
  let s := (s.dropLink l).report Code.linkRetired (0x230 + l) 0 0
  let s := (List.range 64).foldl (fun s t => if (mcChildren (s.mcEntry t)).contains l then s.mcBreak t l else s) s
  s.floodLsa

/-- A link goes DOWN; the 10 ms of R307 run from the moment it left UP. -/
def State.downLink (s : State) (l : Nat) : State :=
  let x := s.link l
  let s := s.setLink l { x with state := 0, downAt := if x.state = 2 then s.ftime else x.downAt, wasUp := x.wasUp || x.state == 2 }
  ((if x.state = 2 then s.event .pl l 1 else s)).floodLsa

/-- LINK_DOWN: every lane has lost lock. -/
def execLinkDown (l : LinkId) (s : State) : Ans :=
  .next (if (s.link l.val).state = 2 then s.downLink l.val else s)

def linkEn (s : State) (l : Nat) : Bool := (s.reg .pl l 0x104).getLsbD 0

/-- Lanes of a mask. -/
def laneCount (m : Nat) : Nat := popN 8 m

/-- LINK_TRAINED: training of an enabled link ends with the good lanes `mask`; fewer than six retire it (R303, R304, R307). -/
def State.linkTrain (s : State) (l mask peerDev peerLink : Nat) (peerCode : Bool) : State :=
  let x := s.link l
  if !s.linkPresent l || !linkEn s l || decide (1 < x.state) then s
  else
    let bad := (List.range 8).foldl (fun b i => if bitN x.faults i || !bitN mask i then b + 2 ^ i else b) 0
    let x' := { x with
      lanes := 255 - bad, faults := bad, peerDev := peerDev, peerLink := peerLink, downAt := 0, wasUp := true
      coded := peerCode && (s.reg .pl l 0x104).getLsbD 1 }
    let s := if bad = x.faults then s else s.event .pl l 0
    if laneCount (255 - bad) < 6 then (s.setLink l x').retireLink l
    else ((s.setLink l { x' with state := 2 }).floodLsa).flushLink l

def execLinkTrained (l : LinkId) (mask : W8) (peerDev : DevId) (peerLink : W4) (peerCode : Bool) (s : State) : Ans :=
  .next (s.linkTrain l.val mask.toNat peerDev.toNat peerLink.toNat peerCode)

/-- A lane is faulty (R307): the link stays UP with one lane fewer; a third faulty lane retires it. -/
def State.laneOut (s : State) (l lane : Nat) : State :=
  let x := s.link l
  let x := { x with lanes := setBitN x.lanes lane false, faults := setBitN x.faults lane true }
  let s := (s.setLink l x).event .pl l 0
  if 3 ≤ laneCount x.faults then s.retireLink l else s

/-- LANE_FAULT: what an active lane shows. It is faulty above 1,000,000 symbols corrected within one second, and when it loses
lock for the third time within 60 s (R307); the symbols count on PL_FEC_CNT (R329). -/
def execLaneFault (l : LinkId) (y : LaneReport) (s : State) : Ans :=
  .next (
    let x := s.link l.val
    if !s.linkUp l.val || !bitN x.lanes y.lane.val then s
    else match y.sign with
    | .fec n =>
      let s := s.addReg .pl l.val 0x128 n
      if 1000000 < n then s.laneOut l.val y.lane.val else s
    | .lockLost =>
      let ts := s.ftime :: (SMap.get [] x.lockLoss y.lane.val).filter (fun t => decide (s.ftime < t + 60000000000))
      let s := s.setLink l.val { x with lockLoss := SMap.put [] x.lockLoss y.lane.val ts }
      if 3 ≤ ts.length then s.laneOut l.val y.lane.val else s)

/-- LINK_RETIRE_TIMEOUT: more than 10 ms DOWN or TRAINING after it was UP. -/
def execLinkRetireTimeout (l : LinkId) (s : State) : Ans :=
  .next (
    let x := s.link l.val
    if x.state ≤ 1 ∧ x.wasUp ∧ 10000000 < s.ftime - x.downAt then s.retireLink l.val else s)

/-- RETRAIN. -/
def State.retrainLink (s : State) (l : Nat) : State :=
  let x := s.link l
  if s.linkPresent l && linkEn s l && x.state != 3 then
    let s := s.setLink l { x with state := 1, downAt := if x.state = 2 then s.ftime else x.downAt, wasUp := x.wasUp || x.state == 2 }
    if x.state = 1 then s else s.floodLsa
  else s

def execRetrain (l : LinkId) (s : State) : Ans := .next (s.retrainLink l.val)

/-- A replay from the packet with sequence number `seq` (R306): the peer has every earlier one; it and those behind it go out again,
in order, with their bytes (R414). Counted; more than 16 replays of one packet within 1 ms take the link DOWN, and it
retrains. -/
def State.replay (s : State) (l seq : Nat) : State :=
  let x := s.link l
  let again := x.retry.filter (fun r => decide (seq ≤ r.seq))
  let rs := (again.map (fun r => (r.seq, s.ftime))) ++ x.replays.filter (fun r => decide (s.ftime - r.2 ≤ 1000000))
  let s := (s.addReg .pl l 0x114 1).setLink l { x with replays := rs, retry := again.map (fun r => { r with at_ := s.ftime }) }
  let s := s.cnt .pl l 0x150 (sumN (again.map (·.wire)))
  if again.any (fun r => decide (16 < (rs.filter (fun y => y.1 = r.seq)).length)) then (s.downLink l).retrainLink l else s

/-- REPLAY_REQUEST: as sender, the peer asks for a replay from packet `seq`, the first it lacks; as receiver, this end asks after
a CRC failure (`crc`) or a gap. -/
def execReplayRequest (l : LinkId) (crc : Bool) (asSender : Bool) (seq : Nat) (s : State) : Ans :=
  .next (
    if !s.linkUp l.val then s
    else if asSender then s.replay l.val seq
    else if crc then s.addReg .pl l.val 0x110 1
    else s)

/-- REPLAY_TIMEOUT: packet `x`, the oldest that the peer has not acknowledged, has waited 4 µs since it was last sent. -/
def execReplayTimeout (x : SentPkt) (s : State) : Ans :=
  .next (
    let l := x.link.val
    if s.linkUp l && (s.link l).retry.any (fun r => r.seq == x.seq && decide (r.at_ + 4000 ≤ s.ftime)) then s.replay l x.seq else s)

/-- A write of PL_LINK_CTRL (R329). -/
def State.linkCtrl (s : State) (l v : Nat) : State :=
  let was := linkEn s l
  let s := s.setReg .pl l 0x104 (BitVec.ofNat 32 (v % 4))
  let x := s.link l
  if !bitN v 0 then (if x.state = 1 ∨ x.state = 2 then s.downLink l else s)
  else if !was ∧ x.state = 0 then (s.setLink l { x with state := 1 }).floodLsa
  else if bitN v 8 then s.retrainLink l
  else s

def execLinkCtrlWrite (l : LinkId) (v : W32) (s : State) : Ans :=
  .next (if s.linkPresent l.val then s.linkCtrl l.val v.toNat else s.addrErr (reqOf .host) (0x18000000000 + regOff .pl l.val 0x104) true)

end Sys2Proof.Machine
end

