-- ==== Sys2Proof/Machine/Power.lean ====
section
/-! DEFINITION. The power controller's commands (chapter "Power, Clocks and Thermal Control", R333 to R359). Currents are in
mA, powers in mW, voltages in mV, frequencies in steps of 25 MHz, temperatures in quarter degrees (assumption 9). -/

namespace Sys2Proof.Machine

/-! Limits (R333, R345, R346). -/

/-- Current limit of a rail, mA: PW_RAIL_CFG.ICL of rails 0 to 2, R333 for the others. -/
def State.icl (s : State) (r : Nat) : Nat :=
  if r < 3 then (s.rail r).icl * 1000
  else 1000 * match r with
    | 3 => 8 | 4 => 15 | 5 => 130 | 6 => 30 | 7 => 12 | 8 => 4 | 9 => 180 | 10 => 150 | 11 => 130 | _ => 20

/-- The terms of cap_i of a rail, each with its reason: ICL, the fault cap, the phase cap. -/
def State.capTerms (s : State) (r : Nat) : List (Nat × Nat) :=
  let x := s.rail r
  [(1, 1000 * x.icl)]
    ++ (if x.fault = 0 then [] else if x.fault = 1 then [(6, 500 * x.icl)] else [(6, 900 * (x.fault - 2) * x.icl / max 1 x.phases)])
    ++ (if x.opened.isEmpty then [] else [(7, 900 * (x.phases - x.opened.length) * x.icl / max 1 x.phases)])

def State.capI (s : State) (r : Nat) : Nat := (s.capTerms r).foldl (fun a t => min a t.2) (1000 * (s.rail r).icl)
/-- The reasons of the lowest terms. -/
def State.capWhy (s : State) (r : Nat) : List Nat := ((s.capTerms r).filter (fun t => t.2 == s.capI r)).map (·.1)

/-- g_r as a ratio (R342, R344): 1.25 until the rail has 64 samples, then the mean of their ratios of sensed to estimated
current. -/
def PwRail.g (x : PwRail) : Nat × Nat :=
  if x.gain.length < 64 then (5, 4)
  else
    let r := x.gain.foldl (fun (a : Nat × Nat) e => (a.1 * max 1 e.2 + e.1 * a.2, a.2 * max 1 e.2)) (0, 1)
    (r.1, r.2 * x.gain.length)

/-- The stack beside an umbel (R298). -/
def adjStack (u : Nat) : Option Nat :=
  let h := u / 16 * 4
  match u % 16 with
  | 0 => some h | 4 => some h | 8 => some (h + 1) | 12 => some (h + 1)
  | 3 => some (h + 2) | 7 => some (h + 2) | 11 => some (h + 3) | 15 => some (h + 3)
  | _ => none

/-- Caps of an umbel's aclk with their reasons (R346). -/
def State.umCaps (s : State) (u : Nat) : List (Nat × Nat) :=
  let x := s.pwUmb u
  [(if s.pw.fallback then 9 else 0, s.pw.fPwr), (2, x.fTherm), (8, x.fmax)]
    ++ (s.capWhy (u / 16)).map (fun n => (n, (s.rail (u / 16)).fcur)) ++ (s.capWhy 2).map (fun n => (n, (s.rail 2).fcur))
    ++ (match adjStack u with
      | some k => [(3, (s.stk k).cap)]
      | none => [])

/-- The lowest cap (R346). -/
def State.umCap (s : State) (u : Nat) : Nat := (s.umCaps u).foldl (fun a t => min a t.2) 60

/-- Duties that reasons set for an umbel. -/
def State.umDuties (s : State) (u : Nat) : List (Nat × Nat) :=
  (s.capWhy (u / 16)).map (fun n => (n, (s.rail (u / 16)).duty)) ++ (s.capWhy 2).map (fun n => (n, (s.rail 2).duty))
    ++ (if (s.pwUmb u).hot ≠ 0 then [(2, 8)] else []) ++ (if s.pw.warn then [(5, s.pw.k)] else [])

def State.umDuty (s : State) (u : Nat) : Nat := (s.umDuties u).foldl (fun a t => min a t.2) 16

/-- Request rates that reasons set for a stack. -/
def State.stkRates (s : State) (k : Nat) : List (Nat × Nat) :=
  [(if s.pw.fallback then 9 else 0, s.pw.rate)] ++ (if (s.stk k).half then [(3, 8)] else []) ++ (if s.pw.warn then [(5, s.pw.k)] else [])
    ++ (if s.pw.vr3 then [(6, 8)] else [])

def State.stkRate (s : State) (k : Nat) : Nat := (s.stkRates k).foldl (fun a t => min a t.2) 16

/-- Reason `n` limits a running umbel (R347). -/
def State.umLimits (s : State) (u n : Nat) : Bool :=
  let x := s.pwUmb u
  x.state == 2 &&
    ((s.umCaps u).any (fun t => t.1 == n && t.2 == x.freq && decide (t.2 < 60))
      || (s.umDuties u).any (fun t => t.1 == n && t.2 == s.umDuty u && decide (t.2 < 16)) || (n == 4 && x.stretch != 0))

/-- Reason `n` limits a stack. -/
def State.stkLimits (s : State) (k n : Nat) : Bool :=
  (s.stk k).state == 1 && (s.stkRates k).any (fun t => t.1 == n && t.2 == s.stkRate k && decide (t.2 < 16))

/-- Reason `n` limits at least one unit. -/
def State.limits (s : State) (n : Nat) : Bool :=
  (List.range 32).any (fun u => s.umLimits u n) || (List.range 8).any (fun k => s.stkLimits k n)

/-! The current-limit loop (R345). -/

/-- The fast path of one rail; i_hat is the ratio `n / d`. -/
def dutyStep (cap n d duty : Nat) : Nat :=
  if cap * d < n then max 1 (16 * cap * d / n)
  else if duty < 16 ∧ n * (duty + 1) ≤ cap * d * duty then duty + 1
  else duty

/-- CURRENT_FAST_TICK: the estimates of rails 0 to 2. -/
def execCurrentFastTick (est : ListNat) (s : State) : Host.Outcome State Fault Refusal :=
  .next ((List.range 3).foldl (fun s r =>
    match est[r]? with
    | none => s
    | some e =>
      let x := s.rail r
      s.setRail r { x with duty := dutyStep (s.capI r) (x.g.1 * e) x.g.2 x.duty }) s)

/-- The slow path of one rail: current `n / d`, dynamic current at full duty, the highest applied frequency (in steps). -/
def fcurStep (cap n d duty dyn ftop fcur : Nat) : Nat :=
  let n' := if duty < 16 then n * 16 else n
  let d' := if duty < 16 then d * max 1 duty else d
  if cap * d' < n' then max 16 (fcur - max 1 (cdiv ((n' - cap * d') * ftop) (d' * max 1 dyn)))
  else if 100 * n' < 95 * cap * d' then min 60 (fcur + 1)
  else fcur

/-- The highest aclk on a rail. -/
def State.fTop (s : State) (r : Nat) : Nat :=
  let us := if r < 2 then s.powered r else s.powered 0 ++ s.powered 1
  us.foldl (fun f u => max f (s.umFreq u)) 16

/-! AVSBus (R334, R344, R345, R350, R355). -/

/-- Sense checks of R355 and the gain of R344 for one reading. -/
def State.senseRail (s : State) (rd : RailReading) : State :=
  let r := rd.rail.val
  let x := s.rail r
  let g := x.g
  let est := g.1 * rd.estMa
  let ma := rd.ma.toNat
  let range := rd.ok && (decide (rd.ma < 0) || decide (3 * s.icl r < 2 * ma))
  let gap := if ma * g.2 < est then est - ma * g.2 else ma * g.2 - est
  let miss := if rd.ok then 0 else x.miss + 1
  let diff := if rd.ok && decide (est < 4 * gap) then x.diff + 1 else 0
  let failed := x.failed || range || decide (5 ≤ miss) || decide (5 ≤ diff)
  let good := if x.failed && rd.ok && !range && decide (10 * gap ≤ est) then x.good + 1 else 0
  let use := rd.ok && !failed
  s.setRail r { x with
    mv := if rd.ok then rd.mv else x.mv, ma := if use then ma else est / g.2, est := !use, miss := miss, diff := diff
    failed := failed, good := good, gain := if use then ((ma, rd.estMa) :: x.gain).take 64 else x.gain }

/-- The slow path of rail 0, 1 or 2. -/
def State.slowRail (s : State) (rd : RailReading) : State :=
  let r := rd.rail.val
  if 2 < r then s
  else
    let x := s.rail r
    let i := if rd.ok && !x.failed then (rd.ma.toNat, 1) else (x.g.1 * rd.estMa, x.g.2)
    s.setRail r { x with fcur := fcurStep (s.capI r) i.1 i.2 x.duty rd.dynMa (s.fTop r) x.fcur }

/-- A reading of a rail that is being raised: within 5 mV of the target it has been reached; after 50 µs the raise is too slow
(R340). -/
def State.raiseRead (s : State) (r : Nat) (near : Bool) : State :=
  let x := s.rail r
  if x.raiseAt = 0 then s
  else if 50000 < s.ftime + 1 - x.raiseAt then ((s.setRail r { x with raiseAt := 0 }).orReg .pw 0 0x110 0x400).event .pw 0 6
  else if near then s.setRail r { x with reached := x.set, raiseAt := 0 }
  else s

/-- Fallback begins or ends (R355). -/
def State.fallbackStep (s : State) : State :=
  let bad := (List.range 13).filter (fun r => (s.rail r).failed)
  if s.pw.fallback then
    if bad.all (fun r => decide (64 ≤ (s.rail r).good)) then
      let s := bad.foldl (fun s r => s.setRail r { s.rail r with failed := false, good := 0, miss := 0, diff := 0 }) s
      s.setPw { s.pw with fallback := false }
    else s
  else if bad.isEmpty then s
  else (s.setPw { s.pw with fallback := true }).event .pw 0 3

/-- Package power from the readings, µW to mW. -/
def State.sensedMw (s : State) : Nat := (sumN ((List.range 13).map (fun r => (s.rail r).mv * (s.rail r).ma))) / 1000

/-- lim of R345, mW. -/
def State.powerLim (s : State) : Nat :=
  let l := bitsN (s.regN .pw 0 0x100) 10 0
  if s.pw.fallback then 800 * l else 1000 * l

/-- The power limit loop. -/
def powerStep (p lim step : Nat) (f rate : Nat) : Nat × Nat :=
  if lim < p then
    (if 16 < f then (max 16 (f - max 1 (cdiv (p - lim) (max 1 step))), rate) else (f, max 1 (rate - 1)))
  else if 100 * p < 98 * lim then (if rate < 16 then (f, rate + 1) else (min 60 (f + 1), rate))
  else (f, rate)

/-- k follows sensed power from 20 µs after the edge until FLOOR is met (R350); `stepAt` is 0 until then. -/
def State.warnStep (s : State) (p : Nat) : State :=
  if !s.pw.warn || s.pw.stepAt != 0 || decide (s.ftime < s.pw.fallAt + 20000) then s
  else if p ≤ 1000 * bitsN (s.regN .pw 0 0x100) 26 16 then s.setPw { s.pw with stepAt := s.ftime }
  else if 1 < s.pw.k then s.setPw { s.pw with k := s.pw.k - 1 }
  else (s.orReg .pw 0 0x110 0x100).event .pw 0 5

/-- AVS_SAMPLE: every 20 µs; AVSBus serves every rail but 3 and 4. -/
def execAvsSample (rd : AvsReading) (s : State) : Host.Outcome State Fault Refusal :=
  .next (
    let rails := rd.rails.filter (fun x => x.rail.val != 3 && x.rail.val != 4)
    let s := rails.foldl (fun s x => s.senseRail x) s
    let s := rails.foldl (fun s x =>
      let v := (s.rail x.rail.val).set
      s.raiseRead x.rail.val (x.ok && decide (x.mv ≤ v + 5) && decide (v ≤ x.mv + 5))) s
    let s := s.fallbackStep
    let s := rails.foldl (fun s x => s.slowRail x) s
    let p := s.sensedMw
    let q := powerStep (if s.pw.fallback then rd.estMw else p) s.powerLim rd.stepMw s.pw.fPwr s.pw.rate
    let s := s.setPw { s.pw with sensedW := p / 1000, estW := rd.estMw / 1000, fPwr := q.1, rate := q.2 }
    s.warnStep p)

/-! PMBus (R334, R352 to R354). -/

/-- Phase `j` reads as open (R354). -/
def phaseLow (icl : Nat) (ps : List Nat) (j : Nat) : Bool :=
  let t := sumN ps
  decide (ps.getD j 0 * 10 * (ps.length - 1) < t - ps.getD j 0) && decide (icl < 5 * t)

/-- One read of the phase currents of a rail. -/
def State.phaseRead (s : State) (r : Nat) (all : List Nat) : State :=
  let x := s.rail r
  let ps := all.take x.phases
  let cnt := (List.range x.phases).foldl (fun c j =>
    SMap.put 0 c j (if phaseLow (1000 * x.icl) ps j then min 2 (SMap.get 0 x.openCnt j + 1) else 0)) ([] : SMap Nat)
  let new := (List.range x.phases).filter (fun j => SMap.get 0 cnt j == 2 && !x.opened.contains j)
  let opened := x.opened ++ new
  let s := s.setRail r { x with openCnt := cnt, opened := opened, healthy := min x.healthy (x.phases - opened.length) }
  new.foldl (fun s _ => s.event .pw 0 2) s

/-- The regulator statuses of one round of reads: since when every phase of rails 0 to 2 has been healthy (R352), and whether
the fault of rails 9 to 12 has cleared (R353). -/
def State.statusRead (s : State) (sts : List VrStatus) : State :=
  let s := (List.range 3).foldl (fun s r =>
    match sts[r]? with
    | none => s
    | some st =>
      let x := s.rail r
      let well := st.ok && !st.fault && decide (x.phases ≤ st.healthy) && (List.range x.phases).all (fun j => SMap.get 0 x.openCnt j == 0)
      s.setRail r { x with healthyAt := if well then (if x.healthyAt = 0 then s.ftime + 1 else x.healthyAt) else 0 }) s
  let clear := ((List.range 4).all (fun i => match sts[9 + i]? with
    | some st => st.ok && !st.fault
    | none => false))
  if clear then s.setPw { s.pw with vr3 := false } else s

/-- PMBUS_SAMPLE: every 1 ms. -/
def execPmbusSample (rd : PmbReading) (s : State) : Host.Outcome State Fault Refusal :=
  .next (
    let s := (List.range 3).foldl (fun s r => match rd.phases[r]? with
      | some ps => s.phaseRead r ps
      | none => s) s
    let s := s.statusRead rd.status
    (List.range 2).foldl (fun s i => match rd.aux[i]? with
      | some (mv, ma) => s.setRail (3 + i) { s.rail (3 + i) with mv := mv, ma := ma }
      | none => s) s)

/-- PMB_ALERT_FALL (R454): every STATUS_WORD is read; it adds nothing to R352 to R354. -/
def execPmbAlertFall (sts : ListVr) (s : State) : Host.Outcome State Fault Refusal := .next (s.statusRead sts)

/-- VR_FAULT_FALL of rail 0, 1 or 2 (R352 step 1). -/
def execVrFaultFall (rail : Fin3) (s : State) : Host.Outcome State Fault Refusal :=
  .next ((s.setRail rail.val { s.rail rail.val with fault := 1, faultAt := s.ftime, healthyAt := 0 }).event .pw 0 1)

/-- SRC code of a rail's fault reports: none of R479's units; the controller's reports carry the UMC's. -/
def pwSrc : Nat := 0xFF1

/-- VR_STATUS_READ: the read that follows (R352 steps 2 to 6). -/
def execVrStatusRead (rail : Fin3) (st : VrStatus) (s : State) : Host.Outcome State Fault Refusal :=
  .next (
    let x := s.rail rail.val
    if x.fault ≠ 1 ∨ !st.ok then s
    else
      let s := if st.fault then
          let h := min st.healthy x.phases
          s.setRail rail.val { x with fault := 2 + h, healthy := h }
        else s.setRail rail.val { x with fault := 0 }
      if st.off then s.report Code.vrOff pwSrc rail.val 0 else s)

/-- VR_FAULT3_FALL: bit 3 falls and the regulators name the rail (R353). -/
def execVrFault3Fall (rail : RailId) (st : VrStatus) (s : State) : Host.Outcome State Fault Refusal :=
  .next (
    if rail.val < 3 then s
    else
      let s := s.event .pw 0 1
      let s := if st.ok && decide (9 ≤ rail.val) then s.setPw { s.pw with vr3 := true } else s
      if st.ok && st.off then s.report Code.vrOff pwSrc rail.val 0 else s)

/-- PHASE_HEALTHY_EXPIRY: every phase has reported healthy for 1 s (R352, R354). -/
def execPhaseHealthyExpiry (rail : Fin3) (s : State) : Host.Outcome State Fault Refusal :=
  .next (
    let x := s.rail rail.val
    if x.healthyAt ≠ 0 ∧ 1000000000 ≤ s.ftime + 1 - x.healthyAt then
      s.setRail rail.val { x with fault := if 2 ≤ x.fault then 0 else x.fault, opened := [], openCnt := [], healthy := x.phases }
    else s)

/-! Margin, droop, equalisation (R341 to R343). -/

/-- MARGIN_LOOP_TICK: the trim of the current entry, which holds until the entry has 64 samples. -/
def execMarginLoopTick (u : UmbelId) (slack : Slack) (s : State) : Host.Outcome State Fault Refusal :=
  .next (
    let x := s.pwUmb u.val
    if x.state ≠ 2 ∨ s.pw.trip then s
    else
      let i := vfEntry u.val x.freq
      let n := min 64 (SMap.get 0 x.samples i + 1)
      let t := SMap.get 0 x.trim i
      let hi := if slack = .high then x.high + 1 else 0
      let y := { x with samples := SMap.put 0 x.samples i n }
      if n < 64 then s.setPwUmb u.val { y with high := hi }
      else if slack = .low then (s.setPwUmb u.val { y with trim := SMap.put 0 x.trim i (t - 1), high := 0 }).retune
      else if 8 ≤ hi then (s.setPwUmb u.val { y with trim := SMap.put 0 x.trim i (min 12 (t + 1)), high := 0 }).retune
      else s.setPwUmb u.val { y with high := hi })

/-- CPM_ALARM: the alarm rises or has lasted 32 cycles (`alarm`), or clears. -/
def execCpmAlarm (u : UmbelId) (alarm : Bool) (s : State) : Host.Outcome State Fault Refusal :=
  .next (
    let x := s.pwUmb u.val
    if x.state ≠ 2 then s
    else if alarm then s.setPwUmb u.val { x with alarm := true, stretch := if x.alarm then 2 else max 1 x.stretch }
    else s.setPwUmb u.val { x with alarm := false })

def execStretchEnd (u : UmbelId) (s : State) : Host.Outcome State Fault Refusal :=
  .next (
    let x := s.pwUmb u.val
    if x.alarm then s else s.setPwUmb u.val { x with stretch := 0 })

/-- LINK_EQ_TICK: a lane's loop has one more sample (R342). -/
def execLinkEqTick (l : LinkId) (lane : Fin8) (s : State) : Host.Outcome State Fault Refusal :=
  .next (
    if s.linkPresent l.val && (s.link l.val).state == 2 then
      let k := l.val * 8 + lane.val
      s.setPw { s.pw with eq := SMap.put 0 s.pw.eq k (min 64 (SMap.get 0 s.pw.eq k + 1)) }
    else s)

/-- PW_STAT.HIST (R342): every loop of every powered unit has its 64 samples. -/
def State.hist (s : State) : Bool :=
  ((s.powered 0 ++ s.powered 1).all (fun u => SMap.get 0 (s.pwUmb u).samples (vfEntry u (s.umFreq u)) == 64))
    && (List.range 3).all (fun r => (s.rail r).gain.length == 64)
    && (List.range 12).all (fun l => !(s.linkPresent l && (s.link l).state == 2)
      || (List.range 8).all (fun j => !bitN (s.link l).lanes j || SMap.get 0 s.pw.eq (l * 8 + j) == 64))

/-! Thermal (R356, R357). -/

/-- F_therm after a reading `q`, quarter degrees. -/
def thermStep (q f : Nat) : Nat :=
  if q < 372 then min 60 (f + 1) else if q < 380 then f else if q < 420 then max 16 (f - 1) else 16

/-- THERMTRIP (R8, R357): every aclk and nclk stops, rails 0 to 2 go to their minimum. -/
def State.tripNow (s : State) (u : Nat) : State :=
  if s.pw.trip then s
  else
    let s := s.setPw { s.pw with trip := true }
    let s := (List.range 32).foldl (fun s v => s.setPwUmb v { s.pwUmb v with freq := 0 }) s
    let s := (List.range 3).foldl (fun s r => let v := if r = 2 then 600 else 550; s.setRail r { s.rail r with set := v, reached := v, raiseAt := 0 }) s
    (s.event .pw 0 7).report Code.thermtrip (0x200 + u) 0 0

/-- THERMAL_TICK: a reading of a junction, which at 115 °C trips (R8, R356, R357). -/
def execThermalTick (u : UmbelId) (quarterDeg : Nat) (s : State) : Host.Outcome State Fault Refusal :=
  .next (
    let x := s.pwUmb u.val
    let hot := decide (420 ≤ quarterDeg)
    let s := s.setPwUmb u.val { x with
      temp := quarterDeg, fTherm := thermStep quarterDeg x.fTherm, hot := if hot then (if x.hot = 0 then s.ftime + 1 else x.hot) else 0 }
    let s := if hot then (s.orReg .pw 0 0x110 0x200).event .pw 0 4 else s
    if 460 ≤ quarterDeg then s.tripNow u.val else s)

/-- DIE_OVERTEMP: 10 ms at 105 °C or above (R356). -/
def execDieOvertemp (u : UmbelId) (s : State) : Host.Outcome State Fault Refusal :=
  .next (
    let x := s.pwUmb u.val
    if x.hot ≠ 0 ∧ 10000000 ≤ s.ftime + 1 - x.hot then s.report Code.dieOvertemp (0x200 + u.val) 0 x.temp else s)

/-- THERMTRIP: the analog comparator of a junction sensor finds 115 °C, whatever the last reading was (R8, R357). -/
def execThermtrip (u : UmbelId) (s : State) : Host.Outcome State Fault Refusal :=
  .next (s.tripNow u.val)

/-! Clocks and voltages (R338 to R340). -/

/-- ACLK_STEP: one step toward the lowest cap. A fall comes before the rail's; a rise waits for the rail. -/
def execAclkStep (u : UmbelId) (s : State) : Host.Outcome State Fault Refusal :=
  .next (
    let x := s.pwUmb u.val
    let cap := max 16 (s.umCap u.val)
    let r := u.val / 16
    if s.pw.trip ∨ x.state = 0 ∨ x.state = 3 then s
    else if cap < x.freq then (s.setPwUmb u.val { x with freq := x.freq - 1 }).retune
    else if x.freq < cap then
      let f := x.freq + 1
      let rails := [(r, ceil5 (s.umNeed u.val f)), (2, sramVolt f)]
      if rails.all (fun v => decide (v.2 ≤ (s.rail v.1).reached)) then s.setPwUmb u.val { x with freq := f }
      else if s.pw.warn then s
      else rails.foldl (fun s v => s.setVolt v.1 (max v.2 (s.railNeed v.1))) s
    else s)

/-- VOLTAGE_REACHED: the reading lies within 5 mV of the target, within 50 µs of the raise or too late. -/
def execVoltageReached (rail : Fin3) (s : State) : Host.Outcome State Fault Refusal := .next (s.raiseRead rail.val true)

/-! PWRWARN_N (R350, R351). -/

/-- The largest k that meets FLOOR, or 1. -/
def warnK (pf pu ph floor : Nat) : Nat :=
  ((List.range 16).map (fun i => 16 - i)).find? (fun k => decide (16 * pf + (pu + ph) * k ≤ 16 * floor)) |>.getD 1

def execPwrwarnFall (pf pu ph : Nat) (s : State) : Host.Outcome State Fault Refusal :=
  .next (
    if s.pw.warnLow || s.pw.trip || s.boot.aonLow then s
    else
      let floor := 1000 * bitsN (s.regN .pw 0 0x100) 26 16
      (s.setPw { s.pw with warn := true, warnLow := true, k := warnK pf pu ph floor, fallAt := s.ftime, riseAt := 0, stepAt := 0 }).event .pw 0 0)

def execPwrwarnRise (s : State) : Host.Outcome State Fault Refusal :=
  .next (if s.pw.warnLow then s.setPw { s.pw with warnLow := false, riseAt := s.ftime + 1 } else s)

/-- PWRWARN_RELEASE_TICK: k rises when HOLD has passed, and then every 20 µs. -/
def execPwrwarnReleaseTick (s : State) : Host.Outcome State Fault Refusal :=
  .next (
    let w := s.pw
    if !w.warn || w.warnLow || w.riseAt = 0 then s
    else
      let holdEnd := w.riseAt - 1 + 1000 * bitsN (s.regN .pw 0 0x104) 15 0
      let due := if w.stepAt < holdEnd then holdEnd else w.stepAt + 20000
      if s.ftime < due then s
      else if 16 ≤ w.k + 1 then s.setPw { w with warn := false, k := 16, riseAt := 0, stepAt := 0 } |>.retune
      else s.setPw { w with k := w.k + 1, stepAt := s.ftime })

/-! Waking and gating (R335 to R337, R349). -/

/-- UMBEL_WAKE: an umbel of a live partition starts to wake (R5). -/
def execUmbelWake (u : UmbelId) (s : State) : Host.Outcome State Fault Refusal :=
  .next (if s.umLive u.val then s.startWake u.val else s)

/-- The highest frequency up to `cap` whose voltage the rail has reached; 0.4 GHz at least. -/
def State.freqFor (s : State) (u cap : Nat) : Nat :=
  ((List.range (cap - 15)).map (fun i => cap - i)).find? (fun f =>
    decide (ceil5 (s.umNeed u f) ≤ (s.rail (u / 16)).reached) && decide (sramVolt f ≤ (s.rail 2).reached)) |>.getD 16

/-- UMBEL_WAKE_DONE: the PLL is locked; an umbel that was power-gated leaves it with its GATE tallies set (R274, R336). -/
def execUmbelWakeDone (u : UmbelId) (s : State) : Host.Outcome State Fault Refusal :=
  .next (
    let x := s.pwUmb u.val
    if x.state ≠ 3 ∨ !s.umLive u.val ∨ s.pw.trip then s
    else
      let was := (s.um u.val).held
      let s := s.setPwUmb u.val { x with
        state := 2, freq := s.freqFor u.val (max 16 (s.umCap u.val)), lastEnd := if x.hold = 0 then s.ftime else x.lastEnd }
      let s := if was then (s.modUm u.val (fun m => { m with held := false })).gateWake u.val else s
      s.retune)

/-- The 48 switched domains that are power-gated now (R335): umbels, die fabrics, HBM stacks, link PHY groups of three links
each, the front end, trace and debug. -/
def State.domainGated (s : State) (d : Nat) : Bool :=
  let hbm (k : Nat) : Bool := (s.stk k).state == 2 && (s.reg .pw 0 0x108).getLsbD 16
  let phy (g : Nat) : Bool := (List.range 3).all (fun j =>
    let l := 3 * g + j
    !s.linkPresent l || (s.link l).state == 3 || !(s.reg .pl l 0x104).getLsbD 0)
  let um (u : Nat) : Bool := (s.pwUmb u).state == 0
  if d < 32 then um d
  else if d < 34 then
    (List.range 16).all (fun i => um (16 * (d - 32) + i)) && (List.range 4).all (fun i => hbm (4 * (d - 32) + i))
      && (List.range 2).all (fun i => phy (2 * (d - 32) + i))
  else if d < 42 then hbm (d - 34)
  else if d < 46 then phy (d - 42)
  else if d = 46 then s.boot.perst
  else d == 47 && !s.trOn && s.mgmt.tlr && !s.snap.busy

/-- A DMA channel of the umbel has a descriptor outstanding. -/
def Umbel.dmaBusy (x : Umbel) : Bool := x.chans.any (fun c => !c.2.eng.queue.isEmpty || !c.2.eng.fly.isEmpty)

/-- CLOCK_GATE (R337): nothing has used the umbel for CG_DELAY. PWRWARN gates no domain (R351). -/
def execClockGate (u : UmbelId) (s : State) : Host.Outcome State Fault Refusal :=
  .next (
    let x := s.pwUmb u.val
    if x.state = 2 ∧ s.umLive u.val ∧ !s.umUsed u.val ∧ !(s.um u.val).dmaBusy ∧ x.hold = 0 ∧ !s.pw.warn
        ∧ 1000 * bitsN (s.regN .pw 0 0x108) 15 0 ≤ s.ftime - x.lastEnd then
      s.setPwUmb u.val { x with state := 1 }
    else s)

/-- PHASE_HOLD_EXPIRY (R349): the guard ends 100 µs after the last launch's end; DECODE's hold after 10 ms with no launch. -/
def execPhaseHoldExpiry (u : UmbelId) (s : State) : Host.Outcome State Fault Refusal :=
  .next (
    let x := s.pwUmb u.val
    if s.umUsed u.val then s
    else if x.hold = 1 ∧ x.lastEnd ≠ 0 ∧ 100000 ≤ s.ftime - x.lastEnd then (s.setPwUmb u.val { x with guard := false, hold := 0 }).retune
    else if x.hold = 2 ∧ 10000000 ≤ s.ftime - x.lastEnd then s.setPwUmb u.val { x with hold := 0 }
    else s)

end Sys2Proof.Machine
end

