-- ==== Sys2Proof/Machine/Clock.lean ====
section
/-! DEFINITION. What passes with time when no command waits: fabric time (R15, R322) and the throttling counters (R347).
The table has no row for a tick; one tick is one nanosecond of the device's own counter before steering (DESIGN CHOICE,
assumption 29). -/

namespace Sys2Proof.Machine

/-- Fabric time in millionths of a nanosecond after one tick: the steered rate is 1 + `ratePpm` × 10^-6 (R322). -/
def State.tickTotal (s : State) : Int := s.timeAcc + 1000000 + s.fab.ratePpm

/-- Nanoseconds by which a tick moves fabric time; the counter never runs backward (R322). -/
def State.tickNs (s : State) : Nat := (s.tickTotal / 1000000).toNat

/-- PW_THR_n of every reason that limits at least one unit accumulates the nanoseconds (R347). -/
def State.throttleCount (s : State) (ns : Nat) : State :=
  (List.range 10).foldl (fun s n => if s.limits n then s.cnt .pw 0 (0x200 + 8 * n) ns else s) s

/-- One tick: fabric time is a 64-bit counter (R15), and packets that wait for a link grow too old (R309). With the always-on
domain in reset nothing runs (R429). -/
def State.tick (s : State) : State :=
  if s.boot.aonLow then s
  else
    let ns := s.tickNs
    let s := s.throttleCount ns
    ({ s with ftime := (s.ftime + ns) % 2 ^ 64, timeAcc := s.tickTotal % 1000000 }).ageHeld

end Sys2Proof.Machine
end

