-- ==== Sys2Proof/Machine/Meadow.lean ====
section
/-! DEFINITION. The meadow (chapter "The Peruldo Fabric", R322 to R328; "Bring-Up and Configuration", R439, R442):
expected-topology tables, LSAs, reachability, splits, admission, probes, fabric time. -/

namespace Sys2Proof.Machine

/-! The expected-topology table (R439). -/

/-- `n` bytes at `o` of a table. -/
def ettN (t : List Nat) (o n : Nat) : Nat := ofBytes ((t.drop o).take n)
def ettDevs (t : List Nat) : Nat := ettN t 6 2
def ettLinks (t : List Nat) : Nat := ettN t 8 4
/-- Device entry `i`: DEV_ID and DEV_FP. -/
def ettDev (t : List Nat) (i : Nat) : Nat × Nat := (ettN t (0x40 + 24 * i) 2, ettN t (0x48 + 24 * i) 16)

structure EttLink where
  devA : Nat
  linkA : Nat
  devB : Nat
  linkB : Nat
  minLanes : Nat
  deriving DecidableEq, Repr

def ettLink (t : List Nat) (i : Nat) : EttLink :=
  let o := 0x40 + 24 * ettDevs t + 8 * i
  ⟨ettN t o 2, ettN t (o + 2) 1, ettN t (o + 3) 2, ettN t (o + 5) 1, ettN t (o + 6) 1⟩

def ettDevices (t : List Nat) : List Nat := (List.range (ettDevs t)).map (fun i => (ettDev t i).1)

/-- Links of a device: (own link, peer device, peer link, MIN_LANES). -/
def ettOf (t : List Nat) (dev : Nat) : List (Nat × Nat × Nat × Nat) :=
  (List.range (ettLinks t)).flatMap (fun i =>
    let e := ettLink t i
    (if e.devA = dev then [(e.linkA, e.devB, e.linkB, e.minLanes)] else [])
      ++ (if e.devB = dev then [(e.linkB, e.devA, e.linkA, e.minLanes)] else []))

/-! LSAs and the reachable set (R324). -/

def State.lsaOf (s : State) (v : Nat) : Option (Nat × Nat × Lsa) := SMap.get none s.fab.lsas v

/-- An LSA from `v` arrived within the last 3 ms. -/
def State.lsaFresh (s : State) (v : Nat) : Bool :=
  match s.lsaOf v with
  | some x => decide (s.ftime - x.2.1 ≤ 3000000)
  | none => false

/-- Bring R up to date, and the time since which it has differed from S. -/
def State.setReach (s : State) : State :=
  let r := s.fab.service.filter (fun v => v == s.devId || s.lsaFresh v)
  s.setFab { s.fab with reach := r, diffAt := if r = s.fab.service then 0 else if s.fab.diffAt = 0 then s.ftime + 1 else s.fab.diffAt }

/-- LSA: a new one is kept and goes out on every other UP link. -/
def execLsa (l : LinkId) (a : Lsa) (s : State) : Ans :=
  .next (
    let v := a.origin.toNat
    let s := s.rx l.val 9
    let old := match s.lsaOf v with
      | some x => decide (a.seq ≤ x.1)
      | none => false
    if !s.linkUp l.val || v == s.devId || old then s
    else
      let s := s.setFab { s.fab with lsas := SMap.put none s.fab.lsas v (some (a.seq, s.ftime, a)) }
      let s := (List.range 12).foldl (fun s o =>
        if o ≠ l.val ∧ s.linkUp o then s.emit ⟨o, 0, 0, v, 0, 0, s.ftime, 0, .lsa a⟩ else s) s
      s.setReach)

/-- LSA_TIMER: 1 ms without an LSA. -/
def execLsaTimer (s : State) : Ans := .next (if 1000000 ≤ s.ftime - s.fab.lsaAt then s.floodLsa else s)

/-- REACH_EXPIRY: the latest LSA of `v` is older than 3 ms. -/
def execReachExpiry (v : DevId) (s : State) : Ans := .next (if s.lsaFresh v.toNat then s else s.setReach)

/-! Splits (R325, R327). -/

/-- Devices that hold the stretches of slot `q`'s group. -/
def State.groupOf (s : State) (q : Nat) : List Nat :=
  (List.range (s.grpMembers q)).map (fun i => s.memGetN 2 (s.grpAddr q + 0x40 + 2 * i))

def State.setGroup (s : State) (q st : Nat) : State := s.memPutN 1 (s.grpAddr q + 6) st

/-- Treat one slot at a split: a cut group is SUSPENDED or FENCED, its launches end with FENCED. -/
def State.cutGroup (s : State) (c : List Nat) (iso : Bool) (q : Nat) : State :=
  let e := s.seqGet q
  let out := (s.groupOf q).filter (fun m => !c.contains m)
  match (if e.state = 0 then [] else out) with
  | [] => s
  | m :: ms =>
    let lost := ms.foldl min m
    let s := (s.setGroup q (if iso then 2 else 1)).memPutN 2 (s.grpAddr q + 8) lost
    let s := if iso then s.seqSet q 5 e.gen else s
    (List.range 64).foldl (fun s t =>
      if (s.lsl t).state = 2 ∧ (s.lsl t).batch.any (fun b => b.slot == q) then s.endLaunch t 0x14 lost else s) s

/-- The master in force. -/
def State.masterId (s : State) : Nat := s.fab.newMaster.getD (bitsN (s.regN .pl 0 0x184) 25 16)

/-- SPLIT_DECLARE: R has differed from S for 5 ms. -/
def execSplitDeclare (s : State) : Ans :=
  .next (
    if s.fab.diffAt = 0 ∨ s.ftime + 1 < s.fab.diffAt + 5000000 then s
    else
      let c := s.fab.reach
      let n := s.fab.service.length
      let tie := bitsN (s.regN .pl 0 0x184) 9 0
      let on := s.fab.mstate ≠ 2 ∧ (n < 2 * c.length ∨ (2 * c.length = n ∧ c.contains tie))
      let low := match c with
        | [] => s.devId
        | x :: xs => xs.foldl min x
      let lost := !c.contains s.masterId
      let fab := { s.fab with service := c, diffAt := 0, mstate := if on then s.fab.mstate else 2 }
      let fab := if on ∧ lost then { fab with newMaster := some low, master := low == s.devId }
        else if on then fab
        else { fab with master := false, hold := true }
      let s := (s.setFab fab).orReg .pl 0 0x188 0x10000000
      let s := (s.event .pl 0 7).report Code.meadowSplit 0xFF1 0 0
      (List.range s.seqSlots).foldl (fun s q => if s.grpMembers q = 0 then s else s.cutGroup c (decide (¬on)) q) s)

/-! Admission (R327, R442). -/

/-- A link of device `v` is UP by its LSA, with the peer that the table gives. -/
def State.lsaLinkUp (s : State) (v : Nat) (e : Nat × Nat × Nat × Nat) : Bool :=
  match s.lsaOf v with
  | some x => (match x.2.2.links[e.1]? with
    | some k => k.1 == 2 && k.2.1 == e.2.1 && k.2.2 == e.2.2.1
    | none => false)
  | none => false

/-- What this device requires of a device that asks to join. -/
def State.mayJoin (s : State) (v : Nat) : Bool :=
  s.fab.mstate == 1 && (ettDevices s.boot.cur).contains v && s.lsaFresh v
    && (match s.lsaOf v with
      | some x => x.2.2.join && x.2.2.digest == ettDigest s.boot.cur
      | none => false)
    && (ettOf s.boot.cur v).all (fun e => !s.fab.service.contains e.2.1 || s.lsaLinkUp v e)

/-- JOIN_ADMIT: the device enters S; a SUSPENDED group whose members are all in S is ACTIVE again. -/
def execJoinAdmit (v : DevId) (s : State) : Ans :=
  .next (
    if s.mayJoin v.toNat && !s.fab.service.contains v.toNat then
      let s := (s.setFab { s.fab with service := s.fab.service ++ [v.toNat] }).setReach
      (List.range s.seqSlots).foldl (fun s q =>
        if s.grpState q = 1 ∧ s.grpMembers q ≠ 0 ∧ (s.groupOf q).all (fun m => s.fab.service.contains m) then s.setGroup q 0 else s) s
    else s)

/-- LINK_PROBE: a training attempt on a listed link that the 10 ms limit has RETIRED, against the peer that the table
names; it settles payload coding as any training does (R304). -/
def execLinkProbe (l : LinkId) (ok : Bool) (peerDev : DevId) (peer : PeerEnd) (s : State) : Ans :=
  .next (
    let x := s.link l.val
    if ok && s.fab.mstate == 1 && linkEn s l.val && x.state == 3 && decide (laneCount x.faults < 3)
        && (ettOf s.boot.cur s.devId).any (fun e => e.1 == l.val && e.2.1 == peerDev.toNat && e.2.2.1 == peer.link.toNat) then
      ((s.setLink l.val { x with
        state := 2, lanes := 255 - x.faults, peerDev := peerDev.toNat, peerLink := peer.link.toNat, downAt := 0
        coded := peer.code && (s.reg .pl l.val 0x104).getLsbD 1 }).floodLsa).flushLink l.val
    else s)

/-! Fabric time (R322, R323). -/

/-- Link to the time parent: the first valid, UP candidate of the entry for the master. -/
def State.parentLink (s : State) : Option Nat :=
  let e := s.route s.masterId
  ((List.range 4).find? (fun i => (routePos e i).2.1 && s.linkUp (routePos e i).1)).map (fun i => (routePos e i).1)

/-- Steering toward an offset of 0: at most ±200 ppm; how much is not stated (a free value, assumption 6). -/
def State.steer (s : State) (ofs : Int) (full : Bool) : State :=
  let r := s.fresh
  let k : Int := if full then 200 else (r.1.toNat % 201 : Nat)
  r.2.setFab { r.2.fab with ratePpm := if 0 < ofs then -k else if ofs < 0 then k else 0 }

/-- This device's time in ps. -/
def State.nowPs (s : State) : Nat := 1000 * s.ftime + (s.timeAcc / 1000).toNat

/-- A TIME packet for the neighbour on link `l`. -/
def State.sendTime (s : State) (l : Nat) (m : TimeMsg) : State := s.emit ⟨l, 0, 0, s.devId, 0, 0, s.ftime, 0, .time m⟩

/-- The offset of an exchange, own time less the parent's, and the link delay, in ps. -/
def timeOffset (t1 t2 t3 t4 : Nat) : Int := ((t1 : Int) + t4 - t2 - t3) / 2
def timeDelay (t1 t2 t3 t4 : Nat) : Int := ((t4 : Int) - t1 - (t3 - t2)) / 2

/-- The parent has answered. The first lock before READY takes its time directly; from then on the device steers. -/
def State.timeReply (s : State) (t1 t2 t3 : Nat) : State :=
  let ofs := timeOffset t1 t2 t3 s.nowPs
  if !s.fab.firstLock && s.boot.state != 7 then
    let now := ((t3 + timeDelay t1 t2 t3 s.nowPs) / 1000).toNat % 2 ^ 64
    { s.setFab { s.fab with firstLock := true, ofs := 0, locked := true, hold := false, timeAt := now, timeSent := now } with
      ftime := now, timeAcc := 0
      boot := { s.boot with startAt := now, base := s.boot.base + (s.ftime - s.boot.startAt) } }
  else
    let near := decide (ofs.natAbs ≤ 4000)
    let far := decide (16000 < ofs.natAbs)
    let full := far || (s.fab.fullRate && !near)
    let s := s.setFab { s.fab with ofs := ofs, locked := near, hold := false, timeAt := s.ftime, fullRate := full }
    let s := if far then s.sticky .pl 0 0x1B0 2 (some 6) else s
    s.steer ofs full

/-- PKT_TIME: this device asks its parent every 10 µs; it answers a neighbour that asks; the parent's answer locks or steers it.
The devices of an ISOLATED component stay in holdover (R323). -/
def execPktTime (l : LinkId) (k : TimeKind) (x : TimeStamps) (s : State) : Ans :=
  .next (
    let mine := !s.fab.master && s.fab.mstate != 2 && s.parentLink == some l.val
    match k with
    | .due =>
      if mine && decide (s.fab.timeSent + 10000 ≤ s.ftime) then
        (s.setFab { s.fab with timeSent := s.ftime }).sendTime l.val (.ask s.nowPs)
      else s
    | .ask =>
      let s := s.rx l.val 10
      if s.linkUp l.val then s.sendTime l.val (.reply x.t1 s.nowPs s.nowPs) else s
    | .reply =>
      let s := s.rx l.val 10
      if s.linkUp l.val && mine then s.timeReply x.t1 x.t2 x.t3 else s)

/-- TIME_HOLDOVER: no parent for more than 100 µs. -/
def execTimeHoldover (s : State) : Ans :=
  .next (if !s.fab.master ∧ 100000 < s.ftime - s.fab.timeAt then s.setFab { s.fab with hold := true } else s)

/-- PPS_EDGE: with PPS_EN the master steers toward a whole multiple of 10^9. The first edge is always taken; later ones
within 1 ms of one already taken, or more than 1 ms from a whole second, are ignored (R460). -/
def execPpsEdge (s : State) : Ans :=
  .next (
    if s.fab.master && (s.reg .pl 0 0x184).getLsbD 28 then
      let r := s.ftime % 1000000000
      let ofs : Int := if r < 500000000 then (r : Int) else (r : Int) - 1000000000
      let first := s.fab.ppsAt == 0
      if !first && (decide (s.ftime + 1 - s.fab.ppsAt ≤ 1000000) || decide (1000000 < ofs.natAbs)) then s
      else (s.setFab { s.fab with ppsAt := s.ftime + 1 }).steer ofs false
    else s)

end Sys2Proof.Machine
end

