-- ==== Sys2Proof/Machine/HbmCmds.lean ====
section
/-! DEFINITION. Commands of the HBM stacks (chapter "HBM Stacks", R286 to R302). -/

namespace Sys2Proof.Machine

/-! Lines. -/

/-- The requester of a bare HBM access: the controller of the line's stack (DESIGN CHOICE, assumption 35: the commands
name no requester). -/
def State.hbmReq (s : State) (a : Nat) : Req := let k := physChan (s.phys a) / 32; ⟨.hc, k, 0x220 + k⟩

/-- Run an access to the line of `a`: an address error above the usable end, which stack 0's page records with SRC 0x220
(R13; DESIGN CHOICE, assumption 35); dropped in a die reset (R244); held while the stack takes no request (R298). -/
def State.onHbm (s : State) (a : Nat) (wr : Bool) (k : Nat → State) : State :=
  let a := a / 128 * 128
  if s.hbmEnd ≤ a then s.addrErr ⟨.hc, 0, 0x220⟩ a wr else if s.hbmReady a && !s.hbmDown a then k a else s

def execHbmRead (a : W42) (e : Ecc) (s : State) : Ans :=
  .next (s.onHbm a.toNat false (fun a => (s.hbmRead (s.hbmReq a) a e).2))

def execHbmWrite (a : W42) (data : Line) (psn : Bool) (s : State) : Ans :=
  .next (s.onHbm a.toNat true (fun a => s.hbmWrite a data psn))

def execHbmPartialWrite (a : W42) (mask : W128) (data : Line) (e : Ecc) (s : State) : Ans :=
  .next (s.onHbm a.toNat true (fun a => s.hbmPartial (s.hbmReq a) a mask.toNat data false e))

/-! Migration (R296, R297). -/

/-- The next granule, among `n` from `g`, whose two locations differ. -/
def State.migFind (s : State) : Nat → Nat → Nat × Bool
  | 0, g => (g, false)
  | n + 1, g => if s.phys (256 * g) = s.shadow (256 * g) then State.migFind s n (g + 1) else (g, true)

/-- Write a line at physical position `p` with a tag that no read will match. -/
def State.putBadTag (s : State) (p : Nat) (l : Line) : State :=
  { s with hbm := { s.hbm with data := Memory.writeLine s.hbm.data (p * 128) l, info := SMap.put none s.hbm.info p none } }

/-- Copy one line to its location under the shadow map: the check of R288, then the same content and tag; a line that reads
UE is written poisoned, and one whose tag failed fails it there too. -/
def State.migLine (s : State) (a : Nat) (e : Ecc) : State :=
  let p := s.phys a
  let p' := s.shadow a
  let tag := s.lineTag a p
  let s := (s.physRead (s.hbmReq a) a p e).2
  let s := s.hbmBytes p' true
  match tag, e with
  | some true, _ => s.putPhys a p' 0 true
  | _, .uncorrectable => s.putPhys a p' 0 true
  | some false, .tagBad => s.putBadTag p' (s.physData p)
  | some false, _ => s.putPhys a p' (s.physData p) false
  | none, _ => s.putBadTag p' (s.physData p)

/-- MIGRATION_COPY: skip granules that stay where they are, up to 512 at a time, and copy the next that moves; `e`
is what the reads of its two lines find. -/
def execMigrationCopy (e : GranuleEcc) (s : State) : Ans :=
  .next (match s.hbm.retiring with
    | none => s
    | some _ =>
      let n := min 512 ((s.hbmEnd + 255) / 256 - s.hbm.migNext)
      let f := s.migFind n s.hbm.migNext
      let a := 256 * f.1
      if !s.flt.dieRst.isEmpty then s
      else if !f.2 then { s with hbm := { s.hbm with migNext := f.1 } }
      else if !s.hbmReady a || !s.stkTakes (physChan (s.shadow a) / 32) then s
      else
        let s := ((s.migLine a e.first).migLine (a + 128) e.second).addReg .hc 0 0x190 1
        { s with hbm := { s.hbm with migNext := f.1 + 1 } })

/-- MAP_SWITCH: the last granule has been copied; the channel is RETIRED, and the next FAILING one follows (R292). -/
def execMapSwitch (s : State) : Ans :=
  .next (match s.hbm.retiring with
    | none => s
    | some c =>
      if 256 * s.hbm.migNext < s.hbmEnd then s
      else
        let s := { s with hbm := { s.hbm with ret := s.hbm.ret ++ [c], retiring := none, gen := !s.hbm.gen } }
        let s := (List.range 8).foldl (fun s k => s.event .hc k 5) s
        match s.hbm.failing with
        | f :: _ => if s.hbm.ret.length < 8 then s.startRetire f else s
        | [] => s)

/-! Heat and self-refresh (R298, R299). -/

/-- HBM_THERM_SAMPLE at `temp` °C. -/
def execHbmThermSample (k : StackId) (temp : Nat) (s : State) : Ans :=
  .next (
    let x := s.stk k.val
    if x.state = 0 then s
    else
      let cap := if temp < 83 then min 60 (x.cap + 1) else if temp < 85 then x.cap else max 16 (x.cap - 2)
      let half := decide (95 ≤ temp) || (x.half && decide (93 ≤ temp))
      let s := s.setStk k.val { x with
        sampled := true, temp := temp, cap := cap, ref2x := decide (85 ≤ temp), half := half, state := if 105 ≤ temp then 3 else x.state }
      let s := if half && !x.half then s.event .hc k.val 7 else s
      if 105 ≤ temp ∧ x.state ≠ 3 then
        (s.sticky .hc k.val Off.hcErr 7 (some 7)).report Code.hbmThermHalt (0x220 + k.val) 0 temp
      else s)

/-- SELF_REFRESH_ENTRY. -/
def execSelfRefreshEntry (k : StackId) (s : State) : Ans :=
  .next (
    let x := s.stk k.val
    let gated := (List.range 16).all (fun u => (s.pwUmb (16 * (k.val / 4) + u)).state == 0)
    if x.state = 1 ∧ gated ∧ 100000 ≤ s.ftime - x.lastReq ∧ !x.filling ∧ s.hbm.retiring = none ∧ x.builds = [] then
      s.setStk k.val { x with state := 2 }
    else s)

/-- SELF_REFRESH_EXIT: a request has come. -/
def execSelfRefreshExit (k : StackId) (s : State) : Ans :=
  .next (
    let x := s.stk k.val
    if x.state = 2 then s.setStk k.val { x with state := 1, lastReq := s.ftime } else s)

/-! FILL (R290). -/

/-- A physical line lies in stack `k`. -/
def inStack (k p : Nat) : Bool := physChan p / 32 == k

/-- FILL starts, and takes the stack out of self-refresh (R299, R301): the lines of the stack hold zeros under the current key
from now on, except where an access that comes before FILL_END is not overwritten. In a stack that takes no request the FILL
stays BUSY until the stack does. -/
def State.fillStart (s : State) (k : Nat) : State :=
  let x := s.stk k
  if x.filling then s
  else
    let s := (s.setStk k { x with filling := true, fill := some ⟨s.hbm.epoch, s.pools, s.hbm.ret⟩ }).stkTouch k
    let s := s.setReg .hc k 0x244 0
    { s with hbm := { s.hbm with
        data := SMap.eraseIf (fun b => inStack k (b / 128)) s.hbm.data, info := SMap.eraseIf (inStack k) s.hbm.info, migNext := 0 } }

/-- Live channels of a stack. -/
def State.liveChans (s : State) (k : Nat) : List Nat := ((List.range 32).map (fun c => 32 * k + c)).filter (fun c => !s.hbm.ret.contains c)

/-- FILL ends; a stack that takes no request cannot end it (R298). A line written meanwhile was or was not overwritten, as a free value says (assumption 6). -/
def State.fillDone (s : State) (k : Nat) : State :=
  let x := s.stk k
  if !x.filling || !s.stkTakes k then s
  else
    let ps := (SMap.keys s.hbm.info).filter (inStack k)
    let s := ps.foldl (fun s p =>
      let r := s.fresh
      let s := r.2
      if r.1.getLsbD 0 then
        { s with hbm := { s.hbm with data := Memory.writeLine s.hbm.data (p * 128) 0, info := SMap.put none s.hbm.info p none } }
      else s) s
    let n := 2 * setsPerChan s.cap
    let cs := s.liveChans k
    let s := cs.foldl (fun s c =>
      let key := 0x4000000 + 2 * c + 1
      { s with cnt64 := SMap.put 0 s.cnt64 key ((SMap.get 0 s.cnt64 key + 128 * n) % 2 ^ 64) }) s
    let s := s.cnt .hc k Off.hcWr (128 * n * cs.length)
    let s := s.setReg .hc k 0x244 (BitVec.ofNat 32 (n * cs.length))
    s.setStk k { s.stk k with filling := false, lastReq := s.ftime }

def execFillStack (k : StackId) (s : State) : Ans := .next (s.fillStart k.val)
def execFillEnd (k : StackId) (s : State) : Ans := .next (s.fillDone k.val)

/-! Margining (R300). -/

/-- A write of HC_MRG_CTL. -/
def State.mrgWrite (s : State) (k v : Nat) : State :=
  let s := s.setReg .hc k 0x200 (BitVec.ofNat 32 (v &&& 0x00013F3F))
  if !bitN v 31 then s
  else
    let x := s.stk k
    if !x.marginOn && (x.state == 0 || s.hbm.ret.contains (32 * k + bitsN v 4 0)) then
      (s.setStk k { x with marginOn := true }).setReg .hc k 0x204 0
    else s.orReg .hc k 0x204 0x20000

def execMarginStart (k : StackId) (v : W32) (s : State) : Ans := .next (s.mrgWrite k.val (v ||| 0x80000000).toNat)

def execMarginDone (k : StackId) (lo : W8) (hi : W8) (s : State) : Ans :=
  .next (
    let x := s.stk k.val
    if x.marginOn then
      (s.setStk k.val { x with marginOn := false }).setReg .hc k.val 0x204 (BitVec.ofNat 32 (lo.toNat + 256 * hi.toNat + 2 ^ 16))
    else s)

end Sys2Proof.Machine
end

