-- ==== Sys2Proof/Machine/Faults.lean ====
section
/-! DEFINITION. Faults, recovery, escalation, resets of a die, the silent-error sweep, fault records (chapter "Faults, Recovery
and Silent-Error Screening", R360 to R382). -/

namespace Sys2Proof.Machine

def State.setFlt (s : State) (x : Faults) : State := { s with flt := x }

/-! Classes (R361). -/

/-- Class of a fault code: 0 PARTITION, 1 DIE, 2 DEVICE, 3 ALERT, 4 TRIP. -/
def faultClass (c : Nat) : Nat :=
  if c < 0x10 then 0 else if c < 0x20 then 1 else if c < 0x30 then 2 else if c < 0x40 then 3 else 4

/-- Causes that count toward escalation. -/
def faultCounts (c : Nat) : Bool := c == 0x07 || c == 0x08 || c == 0x0F || (decide (0x10 ≤ c) && decide (c < 0x30))

/-! Records (R378, R379). -/

/-- The unit of a record: (floret?, number); none for units that are neither floret nor umbel. -/
abbrev FUnit := Option (Bool × Nat)

def FUnit.umbel : FUnit → Option Nat
  | some (true, f) => some (f / 16)
  | some (false, u) => some u
  | none => none

def FUnit.code : FUnit → Nat
  | some (true, f) => f
  | some (false, u) => 2 ^ 15 + 256 * u
  | none => 0

/-- PHYS (R484). -/
def FUnit.phys : FUnit → Nat
  | some (true, f) => (if Config.spareFor (f / 16) = f % 16 then 16 else f % 16) + 256 * (f / 16)
  | some (false, u) => 256 * u
  | none => 0

/-- The unit that a report's SRC code names; for a line of SRAM that some other agent read, the line's owner. -/
def reportUnit (r : Report) : FUnit :=
  if r.src < 0x200 then some (true, r.src)
  else if r.src < 0x220 then some (false, r.src - 0x200)
  else if r.code = Code.sramUe ∧ 0x10000000000 ≤ r.addr ∧ r.addr < 0x10080000000 then some (true, r.addr / 0x400000 % 512)
  else if r.code = Code.sramUe ∧ 0x10100000000 ≤ r.addr then some (false, r.addr / 0x800000 % 32)
  else none

/-- The partition, not DOWN, that holds an umbel. -/
def State.partOf (s : State) (u : Nat) : Option Nat :=
  (List.range 16).find? (fun p => (s.part p).state != 0 && (s.partMask p).getLsbD u)

/-- The 64 bytes of a record. `x` holds OPCLASS, BIT_POS, SEED and the digests of a SWEEP_FAIL. -/
def State.recordOf (s : State) (code part : Nat) (un : FUnit) (x : Nat) : Nat :=
  let env := match un.umbel with
    | some u =>
      let w := s.pwUmb u
      let i := vfEntry u w.freq
      25 * w.freq + 2 ^ 16 * ((s.rail (u / 16)).reached % 2 ^ 16) + 2 ^ 32 * ofInt 8 (-((SMap.get 0 w.trim i : Nat) : Int))
        + 2 ^ 40 * (w.temp / 4 % 256) + 2 ^ 48 * i
    | none => 0
  code + 2 ^ 16 * faultClass code + 2 ^ 24 * part + 2 ^ 32 * s.devId + 2 ^ 48 * un.code + 2 ^ 64 * un.phys + 2 ^ 80 * bitsN x 7 0
    + 2 ^ 96 * bitsN x 39 8 + 2 ^ 128 * bitsN x 103 40 + 2 ^ 192 * (s.ftime % 2 ^ 64) + 2 ^ 256 * env
    + 2 ^ 320 * bitsN x 167 104 + 2 ^ 384 * bitsN x 231 168 + 2 ^ 448 * bitsN x 295 232

/-- Send a message to the management endpoint. -/
def State.send (s : State) (m : MgmtMsg) : State := { s with mgmt := { s.mgmt with out := s.mgmt.out ++ [m] } }

/-- The section type of an exported record (R379). -/
def cperType : Nat := 0x5B0F2C7193D44E6AA1C87E2D40B9F613

/-- The severity of an exported record (R379): 0 Recoverable for PARTITION and SWEEP_FAIL, else 1 Fatal. -/
def cperSeverity (code cls : Nat) : Nat := if cls = 0 ∨ code = Code.sweepFail then 0 else 1

/-- Export a record, once a controller has assigned an address (R379, R453). -/
def State.exportRec (s : State) (n : Nat) : State :=
  match s.mgmt.addr, s.flt.flog.find? (fun r => r.n = n) with
  | some _, some r =>
    let s := s.setFlt { s.flt with flog := s.flt.flog.map (fun x => if x.n = n then { x with sentAt := s.ftime + 1 } else x) }
    s.send (.fault (s.regN .umc 0 0x124 % 256) n cperType (cperSeverity (r.bytes % 2 ^ 16) r.cls) r.bytes)
  | _, _ => s

/-- Put a record in the log: in a full one it replaces the oldest acknowledged record, or is dropped. -/
def State.logRec (s : State) (bytes cls : Nat) : State :=
  let f := s.flt
  let r : FRec := ⟨f.head, bytes, cls, false, 0⟩
  let put (l : List FRec) : State :=
    ((s.setFlt { f with flog := l, head := f.head + 1 }).exportRec f.head
      |> fun s => { s with mgmt := { s.mgmt with console := s.mgmt.console ++ [(1, f.head)] } })
  if f.flog.length < 1024 then put (f.flog ++ [r])
  else
    match f.flog.find? (·.acked) with
    | none => s.setFlt { f with drop := f.drop + 1 }
    | some x =>
      let old := (f.flog.filter (·.acked)).foldl (fun m y => min m y.n) x.n
      put (f.flog.map (fun y => if y.n = old then r else y))

/-- Record a fault, with its trace record (R378, R379, R417, R456). `t` is the launch's slot. -/
def State.recordFault (s : State) (code part : Nat) (un : FUnit) (x : Nat) (t : Option Nat) : State :=
  let s := s.logRec (s.recordOf code part un x) (faultClass code)
  let pay := code + 2 ^ 16 * faultClass code + 2 ^ 24 * part + 2 ^ 32 * un.code
  match t with
  | some t => s.traceUmc 0x06 (s.lsl t).id t pay
  | none => s.traceUmc 0x06 0 0xFF pay

/-- Acknowledge records. -/
def State.ackRecs (s : State) (p : Nat → Bool) : State :=
  s.setFlt { s.flt with flog := s.flt.flog.map (fun r => if p r.n then { r with acked := true } else r) }

def execUmcFaultAck (upto : W32) (s : State) : Ans := .next (s.ackRecs (fun n => decide (n < upto.toNat)))
def execManagementReplyAck (n : Nat) (s : State) : Ans := .next (s.ackRecs (fun m => m == n))

/-- FAULT_RECORD_RESEND: an unacknowledged record goes out again after 1 s, or for the first time once an address is assigned. -/
def execFaultRecordResend (n : Nat) (s : State) : Ans :=
  .next (match s.flt.flog.find? (fun r => r.n = n) with
    | some r => if !r.acked && (r.sentAt = 0 || decide (1000000000 ≤ s.ftime + 1 - r.sentAt)) then s.exportRec n else s
    | none => s)

/-- FAULT_N is driven low (R373, R444). -/
def State.faultN (s : State) : Bool :=
  s.flt.oos || (s.flt.devCounted && s.boot.state != 7) || s.boot.state == 8 || s.flt.flog.any (fun r => decide (3 ≤ r.cls) && !r.acked)

/-! Partitions (R363 to R367). -/

def State.partUmbels (s : State) (p : Nat) : List Nat := (List.range 32).filter (fun u => (s.partMask p).getLsbD u)

/-- A hardware slot holds a launch of the partition. -/
def State.partHeld (s : State) (p : Nat) : Bool := s.fe.slots.any (fun t => (t.2.state == 1 || t.2.state == 2) && t.2.part == p)

def State.partErr (s : State) : State := s.orReg .gl 0 Off.glEsc 0x01000000

/-- The mask may belong to a LIVE partition `p`. -/
def State.maskOk (s : State) (p : Nat) (m : W32) : Bool :=
  m != 0 && (List.range 32).all (fun u => !m.getLsbD u ||
    (!bitN s.flt.retUmb u && bitN s.flt.avail u
      && (List.range 16).all (fun q => q == p || (s.part q).state == 0 || !(s.partMask q).getLsbD u)))

/-- LIVE written as 1: refused before READY (R444), in OUT_OF_SERVICE (R372) and where R363 says; the umbels wake (R5). -/
def State.partUp (s : State) (p : Nat) : State :=
  let x := s.part p
  if x.state = 1 then s
  else if x.state ≠ 0 ∨ s.boot.state ≠ 7 ∨ s.flt.oos ∨ !s.maskOk p (s.partMask p) then s.partErr
  else (s.partUmbels p).foldl (fun s u => s.startWake u) (s.setPart p { x with state := 1 })

/-- LIVE written as 0: the umbels are power-gated. -/
def State.partDown (s : State) (p : Nat) : State :=
  let x := s.part p
  if 1 < x.state ∨ s.partHeld p then s.partErr
  else if x.state = 0 then s
  else ((s.partUmbels p).foldl (fun s u => s.gateUmbel u) (s.setPart p { x with state := 0 })).retune

/-- A write of GL_PART_UMASK_p. A LIVE partition's new mask must meet the conditions of LIVE; umbels that leave it are
power-gated, umbels that join it wake. -/
def State.partMaskWrite (s : State) (p : Nat) (m : W32) : State :=
  let x := s.part p
  if 1 < x.state ∨ s.partHeld p ∨ (x.state = 1 ∧ !s.maskOk p m) then s.partErr
  else
    let old := s.partMask p
    let s := s.setReg .gl 0 (0x400 + 8 * p) m
    if x.state = 0 then s
    else ((List.range 32).foldl (fun s u =>
      if m.getLsbD u && !old.getLsbD u then s.startWake u else if old.getLsbD u && !m.getLsbD u then s.gateUmbel u else s) s).retune

def execPartLiveWrite (p : PartId) (live : Bool) (s : State) : Ans := .next (if live then s.partUp p.val else s.partDown p.val)

/-- Stop an umbel's work (R364, quiesce): sequencers halt, engines and channels start no descriptor, ingress closes. -/
def State.haltUmbel (s : State) (u : Nat) : State :=
  let s := (List.range 16).foldl (fun s i => s.modFl (16 * u + i) (fun fl =>
    if fl = Floret.reset then fl
    else { fl with run := false, halted := true, le := { fl.le with stopped := true }, se := { fl.se with stopped := true } })) s
  s.modUm u (fun x => { x with closed := true, chans := x.chans.map (fun c => (c.1, { c.2 with eng := { c.2.eng with stopped := true } })) })

/-- End the launches of a partition: the one that caused the fault with FAULT, the others with ABORTED. -/
def State.endPart (s : State) (p : Nat) (why : Option (Nat × Nat)) : State :=
  (List.range 64).foldl (fun s t =>
    let x := s.lsl t
    if x.state = 2 ∧ x.part = p then
      match why with
      | some (t', code) => if t' = t then s.endLaunch t 0x11 code else s.endLaunch t 0x12 0
      | none => s.endLaunch t 0x12 0
    else s) s

/-- A sweep test on a floret of the umbels is aborted (R367). -/
def State.dropSweep (s : State) (us : List Nat) : State :=
  match s.flt.sweep with
  | some w => if us.any (fun u => w.a / 16 == u || w.b / 16 == u || (w.stage == 2 && w.c / 16 == u)) then s.setFlt { s.flt with sweep := none } else s
  | none => s

/-- The quiesce step of a partition. -/
def State.quiescePart (s : State) (p : Nat) (why : Option (Nat × Nat)) : State :=
  let us := s.partUmbels p
  us.foldl (fun s u => s.haltUmbel u) ((s.endPart p why).dropSweep us)

/-- Starts of counted recoveries of the last 60 s. -/
def recent (now span : Nat) (ts : List Nat) : List Nat := ts.filter (fun t => decide (now < t + span))

/-- A recovery starts (R364, R369); a die reset starts that of a RECOVERING partition anew, with no rise of RECOVERING (R380). -/
def State.startRecovery (s : State) (p code : Nat) (counted : Bool) (why : Option (Nat × Nat)) : State :=
  let x := s.part p
  let ts := recent s.ftime 60000000000 x.times
  let ts := if counted then s.ftime :: ts else ts
  let s := s.setPart p { x with state := 2, times := ts, cause := code, step := 1, stepAt := s.ftime, retire := counted && decide (4 ≤ ts.length) }
  let s := if x.state = 2 then s else s.event .gl 0 0
  s.quiescePart p why

/-- Retire a partition (R369): its umbels are RETIRED and power-gated. The fourth retirement puts the device
OUT_OF_SERVICE (R372). -/
def State.retirePart (s : State) (p : Nat) : State :=
  let us := s.partUmbels p
  let s := s.setPart p { s.part p with state := 3, step := 0, retire := false }
  let n := s.flt.retired + 1
  let s := s.setFlt { s.flt with retired := n, retUmb := us.foldl (fun m u => setBitN m u true) s.flt.retUmb }
  let s := (us.foldl (fun s u => s.gateUmbel u) s).retune
  let s := s.event .gl 0 1
  if 4 ≤ n ∧ !s.flt.oos then
    ({ s with flt := { s.flt with oos := true }, boot := { s.boot with state := 9 } }).event .gl 0 2
  else s

/-- PART_RESET: a write of 1 to RESET: cause 0, uncounted. -/
def execPartReset (p : PartId) (s : State) : Ans :=
  .next (if (s.part p.val).state = 1 then s.startRecovery p.val 0 false none else s.partErr)

/-- No line of the umbels is outstanding: none awaits an answer, and the engines, the channels and the decoder hold none that
is still to be written. -/
def State.umQuiet (s : State) (us : List Nat) : Bool :=
  s.fab.awaits.all (fun w => us.all (fun u => !agentOfUmbel u w.agent)) &&
  us.all (fun u => (s.um u).ddout.isEmpty && (s.um u).chans.all (fun c => c.2.eng.outstanding == 0) &&
    (List.range 16).all (fun i => (s.fl (16 * u + i)).le.outstanding == 0 && (s.fl (16 * u + i)).se.outstanding == 0))

/-- QUIESCE_END: every accepted line has completed, or 300 µs have passed; the umbels are reset (R364). -/
def execQuiesceEnd (p : PartId) (s : State) : Ans :=
  .next (
    let x := s.part p.val
    let us := s.partUmbels p.val
    if x.state = 2 ∧ x.step = 1 ∧ (s.umQuiet us ∨ 300000 ≤ s.ftime - x.stepAt) then
      let s := us.foldl (fun s u => (s.umbelReset u).modUm u (fun m => { m with held := true })) s
      s.setPart p.val { x with step := 2, stepAt := s.ftime }
    else s)

/-- RECOVERY_RESET_END: the umbels leave reset with their GATE tallies set (R274, R366), but for one that IDLE_SOON has
power-gated; a partition at its limit becomes RETIRED here (R367). -/
def execRecoveryResetEnd (p : PartId) (s : State) : Ans :=
  .next (
    let x := s.part p.val
    if x.state = 2 ∧ x.step = 2 then
      if x.retire then s.retirePart p.val
      else
        let s := (s.partUmbels p.val).foldl (fun s u =>
          if (s.pwUmb u).state = 0 ∨ (s.pwUmb u).state = 3 then s else (s.modUm u (fun m => { m with held := false })).gateWake u) s
        s.setPart p.val { x with step := 3, stepAt := s.ftime }
    else s)

/-- Every line of an umbel's near banks and buffer reads zero (R364). -/
def State.scrubUmbel (s : State) (u : Nat) : State :=
  let mine (a : Nat) : Bool :=
    (decide (0x10000000000 + 0x400000 * (u * 16) ≤ a) && decide (a < 0x10000000000 + 0x400000 * ((u + 1) * 16)))
      || (decide (0x10100000000 + 0x800000 * u ≤ a) && decide (a < 0x10100000000 + 0x800000 * (u + 1)))
  { s with sram := SMap.eraseIf mine s.sram, sramBad := SMap.eraseIf mine s.sramBad }

/-- Preload one floret from the image released last on it: program, feed configuration, static lines unpatched (R138, R174). -/
def State.preload (s : State) (f : Nat) : State :=
  match SMap.get 0 s.fe.lastImg f with
  | 0 => s
  | a + 1 =>
    let y := s.image a false
    match y.1, (List.range y.2.1.nflo).find? (fun i => y.2.1.floret i == f) with
    | none, some i =>
      let m := y.2.1
      let s := y.2.2.loadProg m i
      let o := m.sdesc i
      let s := (List.range 16).foldl (fun s e =>
        (s.cfgFeed f e (m.get (o + 8 * e) 4) (m.get (o + 8 * e + 4) 4)).modFl f (fun fl =>
          { fl with credit := SMap.put (0 : W32) fl.credit e (BitVec.ofNat 32 (m.get (o + 0x80 + 4 * e) 4)) })) s
      s.putStatic f (m.nbDst i) (m.nbLines i) (m.fixed i).2
    | _, _ => s

/-- SCRUB_PRELOAD_END: the March test passed, or an umbel of the partition failed it (MARCH_FAIL retires the partition). -/
def execScrubPreloadEnd (p : PartId) (failed : OptUmbel) (s : State) : Ans :=
  .next (
    let x := s.part p.val
    let us := s.partUmbels p.val
    if x.state = 2 ∧ x.step = 3 then
      match failed with
      | none =>
        let s := us.foldl (fun s u => s.scrubUmbel u) s
        let s := us.foldl (fun s u => (List.range 16).foldl (fun s i => s.preload (16 * u + i)) s) s
        let s := us.foldl (fun s u => s.modUm u (fun m => { m with closed := false })) s
        s.setPart p.val { x with state := 1, step := 0 }
      | some u =>
        if us.contains u.val then
          let s := s.setPart p.val { x with cause := Code.marchFail }
          (s.recordFault Code.marchFail p.val (some (false, u.val)) 0 none).retirePart p.val
        else s
    else s)

/-! Fault reports (R255, R360, R367). -/

/-- The launch that a report belongs to, and whether the report is stale (R255, R259): its slot has a later generation, or the
launch has ended. -/
def State.culprit (s : State) (r : Report) : Option Nat × Bool :=
  match r.launch with
  | none => (none, false)
  | some (t, g) =>
    let x := s.lsl t
    if x.gen ≠ g ∨ x.state = 3 ∨ x.ended.isSome then (some t, true)
    else if x.state = 2 then (some t, false)
    else (none, false)

/-- The half of the device on which a reporting unit lies. -/
def reportHalf (r : Report) : Nat := ((⟨.fl, 0, r.src⟩ : Req).half).getD 0

/-- What hardware checks found becomes a report; NOC_UE shows in the die's page (R483). -/
def State.hwReport (s : State) : HwFault → Report × State
  | .floretParity f => (⟨Code.unitParity, f.val, 0, 0, s.launchOf f.val⟩, s)
  | .umbelParity u => (⟨Code.unitParity, 0x200 + u.val, 0, 0, s.launchOf (0x200 + u.val)⟩, s)
  | .nocUe u => (⟨Code.nocUe, 0x200 + u.val, 0, 0, s.launchOf (0x200 + u.val)⟩, s.event .die (u.val / 16) 0)

/-- One fault takes effect by its class. -/
def State.takeFault (s : State) (r : Report) : State :=
  let un := reportUnit r
  let p := un.umbel.bind s.partOf
  let c := s.culprit r
  let x := if r.code = Code.sweepFail then r.info else 0
  let s := s.recordFault r.code (p.getD 0xFF) un x (if c.2 then none else c.1)
  match faultClass r.code with
  | 0 =>
    match p with
    | some p =>
      if c.2 then (s.addReg .fe 0 0x120 1).event .fe 0 28
      else if (s.part p).state = 1 then s.startRecovery p r.code (faultCounts r.code) (c.1.map (fun t => (t, r.code)))
      else s
    | none => s
  | 1 => s.setFlt { s.flt with dieReq := s.flt.dieReq ++ [(reportHalf r, (c.1.map (· + 1)).getD 0, r.code)] }
  | 2 => s.setFlt { s.flt with devReq := true }
  | _ => s

/-- FAULT_REPORT: a fault that hardware checks find now, or the oldest report on its way. -/
def execFaultReport (hw : OptFault) (s : State) : Ans :=
  .next (match hw with
    | some h => let r := s.hwReport h; r.2.takeFault r.1
    | none =>
      match s.reports with
      | [] => s
      | r :: rest => ({ s with reports := rest }).takeFault r)

/-! Die and device resets (R370 to R372). -/

/-- A device reset starts: 100 µs in which records are written (R371). -/
def State.devStart (s : State) (counted : Bool) : State :=
  if s.flt.devRst ≠ 0 ∨ s.boot.aonLow then s
  else
    let ts := recent s.ftime 600000000000 s.flt.devTimes
    let s := s.setFlt { s.flt with
      devRst := 1, devAt := s.ftime, devReq := false, devCounted := counted, devTimes := if counted then s.ftime :: ts else ts }
    (List.range 64).foldl (fun s t => s.endLaunch t 0x12 0) s

def execDeviceReset (s : State) : Ans := .next (if s.flt.devReq then s.devStart true else s)
def execGlResetDevice (s : State) : Ans := .next (s.devStart false)
def execMgmtDeviceReset (s : State) : Ans := .next (s.devStart false)

/-- OOS_CLEAR: management clears the counts and resets the device. -/
def execOosClear (s : State) : Ans :=
  .next ((s.setFlt { s.flt with oos := false, retired := 0, devTimes := [], dieTimes := [] }).devStart false)

/-- A register of a shared page's device-wide part (R301, R330). -/
def keepShared (b : Blk) (off : Nat) : Bool := sharedPage b off

/-- What a die reset leaves of stack `k` (R18, R227, R301): its queue and its registers are gone, CE and UE windows among them;
summaries to be built wait. -/
def State.stkDieReset (s : State) (k : Nat) : State :=
  let s := s.setStk k { s.stk k with
    srq := [], filling := false, sampled := false, temp := 0, ref2x := false, half := false, cap := 60, marginOn := false }
  { s with hbm := { s.hbm with
      ues := SMap.eraseIf (fun c => c / 32 == k) s.hbm.ues, ces := SMap.eraseIf (fun c => c / 32 == k) s.hbm.ces } }

/-- The reset of one die (R227, R302, R332, R370, R428). A FILL under way has written its stack's lines (DESIGN CHOICE,
assumption 35). -/
def State.resetDie (s : State) (h t code : Nat) : State :=
  let ks := (List.range 4).map (fun i => 4 * h + i)
  let senders := (ks.flatMap (fun k => (s.stk k).srq.filterMap (·.src))).filterMap (fun f =>
    let fl := s.fl f
    if fl.lslot = 0 then none else some (fl.lslot - 1))
  let s := ks.foldl (fun s k => (s.fillDone k).stkDieReset k) s
  let s := ((List.range 6).map (fun i => 6 * h + i)).foldl (fun s l => if s.linkUp l then s.downLink l else s) s
  let s := s.setFlt { s.flt with dieRst := SMap.put 0 s.flt.dieRst h (s.ftime + 1), dieCnt := SMap.upd 0 s.flt.dieCnt h (fun n => (n + 1) % 2 ^ 32) }
  let s := senders.foldl (fun s t => s.endLaunch t 0x11 code) s
  let ps := (List.range 16).filter (fun p => (s.part p).state != 0 && (s.part p).state != 3 && (s.partUmbels p).any (fun u => u / 16 == h))
  let s := ps.foldl (fun s p => s.startRecovery p code false (if t = 0 then none else some (t - 1, code))) s
  let s := ks.foldl (fun s k => s.pageReset (Blk.page .hc k) (keepShared .hc)) s
  let s := ((List.range 6).map (fun i => 6 * h + i)).foldl (fun s l => s.pageReset (Blk.page .pl l) (keepShared .pl)) s
  let s := { s with cnt64 := SMap.eraseIf (fun k => decide (0x4000000 + 256 * h ≤ k) && decide (k < 0x4000000 + 256 * (h + 1))) s.cnt64 }
  (s.pageReset (Blk.page .die h) (fun _ => false)).event .die h 2

/-- DIE_RESET: a reset that a DIE-class fault has called for. The third of one die within 10 minutes is a device reset. -/
def execDieReset (half : Bool) (s : State) : Ans :=
  .next (
    let h := b2n half
    match s.flt.dieReq.find? (fun r => r.1 = h) with
    | none => s
    | some r =>
      let ts := s.ftime :: recent s.ftime 600000000000 (SMap.get [] s.flt.dieTimes h)
      let s := s.setFlt { s.flt with dieReq := s.flt.dieReq.filter (fun r => r.1 ≠ h), dieTimes := SMap.put [] s.flt.dieTimes h ts }
      if 3 ≤ ts.length then s.devStart true else s.resetDie h r.2.1 r.2.2)

def execDieResetEnd (half : Bool) (s : State) : Ans :=
  .next (s.setFlt { s.flt with dieRst := SMap.put 0 s.flt.dieRst (b2n half) 0 })

/-- D2D_LANE_REPAIR: a lane fault takes a spare; with none left, D2D_FAIL (R484). -/
def execD2dLaneRepair (half : Bool) (_lane : Nat) (s : State) : Ans :=
  .next (
    let h := b2n half
    let n := SMap.get 0 s.flt.d2dUsed h
    if n < 16 then s.setFlt { s.flt with d2dUsed := SMap.put 0 s.flt.d2dUsed h (n + 1) }
    else (s.event .die h 1).report Code.d2dFail (0x200 + 16 * h) 0 0)

/-! The silent-error sweep (R374 to R377). -/

/-- A floret may be tested: present, in a LIVE partition, without a released launch for IDLE_MIN. -/
def State.sweepable (s : State) (f : Nat) : Bool :=
  s.flPresent f && s.umLive (f / 16) && !s.umShut (f / 16)
    && !s.fe.slots.any (fun t => t.2.state == 2 && t.2.ended.isNone && t.2.florets.contains f)
    && decide (1000 * bitsN (s.regN .umc 0 0x100) 15 4 ≤ s.ftime - SMap.get 0 s.flt.idleAt f)

def execSweepTestStart (a b : FloretId) (cls : Fin8) (seed : W64) (s : State) : Ans :=
  .next (
    if bitN (s.regN .umc 0 0x100) 0 ∧ s.flt.sweep = none ∧ a.val / 16 ≠ b.val / 16 ∧ s.sweepable a.val ∧ s.sweepable b.val ∧ !s.pw.warn then
      s.setFlt { s.flt with sweep := some ⟨a.val, b.val, cls.val, seed.toNat, 1, [], 0, 0, 0, 0⟩ }
    else s)

/-- Add to a field of UMC_SWEEP_STAT. -/
def State.sweepCount (s : State) (hi lo : Nat) (sat : Bool) : State :=
  let v := bitsN (s.regN .umc 0 0x104) hi lo
  let m := 2 ^ (hi + 1 - lo)
  s.setField .umc 0 0x104 hi lo (if sat then min (m - 1) (v + 1) else (v + 1) % m)

/-- SWEEP_TEST_END: the pair's digests; when they differ, those of a third floret `c` say who fails (R376). -/
def execSweepTestEnd (dA dB : W64) (c : FloretId) (dC : W64) (s : State) : Ans :=
  .next (match s.flt.sweep with
    | none => s
    | some w =>
      if w.stage ≠ 1 then s
      else if dA = dB then (s.setFlt { s.flt with sweep := none }).sweepCount 15 0 false
      else
        let others := (List.range 32).any (fun u => s.umLive u && u != w.a / 16 && u != w.b / 16)
        if !s.flPresent c.val || !s.umLive (c.val / 16) || c.val = w.a || c.val = w.b
            || (others && (c.val / 16 = w.a / 16 || c.val / 16 = w.b / 16)) then s
        else
          let fail := if dC = dA then [w.b] else if dC = dB then [w.a] else [w.a, w.b, c.val]
          (s.setFlt { s.flt with sweep := some { w with
            stage := 2, fail := fail, c := c.val, dA := dA.toNat, dB := dB.toNat, dC := dC.toNat } }).sweepCount 15 0 false)

/-- A confirmed failure of one floret (R377): the report, and 10 mV of guard when it failed the same class within 24 h. -/
def State.sweepConfirm (s : State) (w : SweepTest) (f bit : Nat) : State :=
  let info := w.cls + 2 ^ 8 * (bit % 2 ^ 32) + 2 ^ 40 * w.seed + 2 ^ 104 * w.dA + 2 ^ 168 * w.dB + 2 ^ 232 * w.dC
  let k := f * 8 + w.cls
  let last := SMap.get 0 s.flt.swept k
  let s := (s.report Code.sweepFail f 0 info).setFlt { s.flt with swept := SMap.put 0 s.flt.swept k (s.ftime + 1) }
  if last ≠ 0 ∧ s.ftime + 1 - last < 86400000000000 then
    let u := f / 16
    let x := s.pwUmb u
    (s.setPwUmb u { x with guards := SMap.upd 0 x.guards (vfEntry u x.freq) (· + 10) }).retune
  else s

/-- SWEEP_RERUN_END: the first differing element and its lowest differing bit, or none. -/
def execSweepRerunEnd (diff : OptDiff) (s : State) : Ans :=
  .next (match s.flt.sweep with
    | none => s
    | some w =>
      if w.stage ≠ 2 then s
      else
        let s := s.setFlt { s.flt with sweep := none }
        match diff with
        | none => s.sweepCount 31 24 true
        | some (e, b) => w.fail.foldl (fun s f => s.sweepConfirm w f (32 * e + b)) (s.sweepCount 23 16 true))

/-- SWEEP_ABORT: the release of slot `t` needs a floret under test; both florets are reset, the result is discarded. -/
def execSweepAbort (t : SlotId) (s : State) : Ans :=
  .next (match s.flt.sweep with
    | none => s
    | some w =>
      let x := s.lsl t.val
      if x.state ≠ 1 then s
      else
        if s.sweepOn x.img.florets then
          ((s.floretReset w.a).floretReset w.b).setFlt { s.flt with sweep := none }
        else s)

end Sys2Proof.Machine
end

