-- ==== Sys2Proof/Machine/Boot.lean ====
section
/-! DEFINITION. Device reset and always-on reset, and the bring-up sequence (chapter "Bring-Up and Configuration", R429 to
R446; R227, R281, R302, R332, R359, R371, R382, R388, R424, R428). -/

namespace Sys2Proof.Machine

/-! Resets of the whole device. -/

/-- Device reset (R371 step 3). The PW and UMC pages and what the always-on domain holds stay; HBM keeps its lines, near
banks keep theirs until BIST; links, tables, rings and pools are gone; the tenancy is VACANT under the same key set. -/
def State.deviceReset (s : State) : State :=
  let s := (List.range s.seqSlots).foldl (fun s q => let e := s.seqGet q; if e.state = 0 then s else s.seqSet q 0 e.gen) s
  let aon (k : Nat) : Bool := k / 4096 == 2 || k / 4096 == 3
  let gone (k : Nat) : Bool := !aon k
  let umbs := s.pw.umbs.map (fun x => (x.1, { x.2 with
    state := 0, freq := 0, guard := false, hold := 0, idleSoon := false, stretch := 0, alarm := false }))
  let f := s.flt
  { s with
    regs := SMap.eraseIf gone s.regs, cnt64 := SMap.eraseIf gone s.cnt64, latch := SMap.eraseIf gone s.latch
    logPtr := SMap.eraseIf (fun g => g != 2 && g != 3) s.logPtr
    fls := [], ums := [], hostReads := [], compat := []
    hbm := { s.hbm with
      stk := s.hbm.stk.map (fun x => (x.1, { Stack.reset with fill := x.2.fill })), migNext := 0, ues := [], ces := [] }
    fab := { Fabric.reset with nextTok := s.fab.nextTok, out := s.fab.out, lsaSeq := s.fab.lsaSeq }
    fe := .reset, tr := .reset
    pw := { s.pw with umbs := umbs.filter (fun x => x.2 ≠ PwUmb.reset) }
    flt := { Faults.reset with
      retired := f.retired, devTimes := f.devTimes, dieTimes := f.dieTimes, oos := f.oos, devCounted := f.devCounted, flog := f.flog
      head := f.head, drop := f.drop, swept := f.swept }
    sec := { Sec.reset with draws := s.sec.draws, keySet := s.sec.keySet }
    snap := { s.snap with busy := false, asks := [], slot := none }
    timeAcc := 0 }

/-- The time since this start, ns. -/
def State.elapsed (s : State) : Nat := s.boot.base + (s.ftime - s.boot.startAt)

/-- A boot step begins (R456). -/
def State.bootTo (s : State) (st : Nat) : State :=
  { s with boot := { s.boot with state := st }, mgmt := { s.mgmt with console := s.mgmt.console ++ [(0, st)] } }

/-- A start ends with a failure code (R446). -/
def State.bootFail (s : State) (code : Nat) : State := ({ s with boot := { s.boot with fail := code } }).bootTo 8

/-- DEVICE_RESET_RUN: the 100 µs are over. The third counted reset within 10 minutes leaves the device OUT_OF_SERVICE
(R372); otherwise it restarts warm at step 3. -/
def execDeviceResetRun (s : State) : Ans :=
  .next (
    if s.flt.devRst ≠ 1 ∨ s.ftime - s.flt.devAt < 100000 then s
    else
      let out := s.flt.oos || (s.flt.devCounted && decide (3 ≤ s.flt.devTimes.length))
      let s := s.deviceReset
      let s := { s with boot := { s.boot with
        warm := true, fail := 0, topoWait := false, trainValid := false, startAt := s.ftime, base := 0, ms := 0, step7 := 0, cur := []
        recovery := false } }
      if out then
        let s := (s.setFlt { s.flt with oos := true }).bootTo 9
        s.event .gl 0 2
      else s.bootTo 2)

/-- Always-on reset (R382, R388, R424): the flash and the fuses keep the retirement list, the topology table, the training
data and the SVN floor; everything else takes its reset value. Lines of HBM are unreadable without the key set. -/
def State.aonReset (s : State) : State :=
  { State.reset with
    pending := s.pending, hostMem := s.hostMem, hostOut := s.hostOut, freeCtr := s.freeCtr, variant := s.variant
    hbm := { Hbm.reset with ret := s.hbm.ret, gen := s.hbm.gen, failing := s.hbm.failing, retiring := s.hbm.retiring }
    fab := { Fabric.reset with nextTok := s.fab.nextTok, out := s.fab.out }
    sec := { Sec.reset with draws := s.sec.draws }
    boot := { Boot.reset with perst := s.boot.perst, trained := s.boot.trained, ett := s.boot.ett, svn := s.boot.svn }
    mgmt := { Mgmt.reset with out := s.mgmt.out, console := s.mgmt.console } }

def execAonRstNFall (s : State) : Ans := .next s.aonReset
def execVddAonLoss (s : State) : Ans := .next s.aonReset

/-- AON_RST_N_RISE: step 1 begins (R429 to R431). -/
def execAonRstNRise (s : State) : Ans :=
  .next (
    if s.boot.aonLow then
      ({ s with boot := { s.boot with aonLow := false, warm := s.boot.trained, startAt := s.ftime, base := 0 } }).bootTo 0
    else s)

/-- ALWAYS_ON_LOCK: the always-on PLL locks and the boot ROM starts. Rails 0 to 2 take the voltages of R339. -/
def execAlwaysOnLock (s : State) : Ans :=
  .next (
    if !s.boot.aonLow ∧ s.boot.state = 0 then
      let s := (List.range 3).foldl (fun s r =>
        let v := s.railNeed r
        s.setRail r { s.rail r with set := v, reached := v, raiseAt := 0 }) s
      s.bootTo 1
    else s)

/-- RAIL_WAIT_TIMEOUT: 200 ms without every rail in tolerance (R430). -/
def execRailWaitTimeout (_rail : RailId) (s : State) : Ans :=
  .next (if !s.boot.aonLow ∧ s.boot.state ≤ 2 ∧ 200000000 ≤ s.elapsed then s.bootFail 2 else s)

/-- UMC_BOOT: slot A, then slot B; with neither, recovery mode (R433). -/
def execUmcBoot (okA okB : Bool) (s : State) : Ans :=
  .next (
    if s.boot.aonLow ∨ s.boot.state ≠ 1 then s
    else if okA ∨ okB then ({ s with boot := { s.boot with image := if okA then 1 else 2 } }).bootTo 2
    else ({ s with boot := { s.boot with recovery := true } }).bootFail 1)

/-- RECOVERY_IMAGE_LOAD: a new image for slot A restarts step 2. -/
def execRecoveryImageLoad (s : State) : Ans :=
  .next (if s.boot.recovery then ({ s with boot := { s.boot with recovery := false, fail := 0 } }).bootTo 1 else s)

/-! The expected-topology table (R439, R440). -/

/-- DEV_FP (R396, R484): 16 bytes as four words. -/
def devFp : Nat := packN 32 ((List.range 4).map (fun w => (Config.devId w).toNat))

/-- The links of a table. -/
def ettLinkList (t : List Nat) : List EttLink := (List.range (ettLinks t)).map (ettLink t)

/-- Values that appear twice. -/
def hasDup : List Nat → Bool
  | [] => false
  | x :: xs => xs.contains x || hasDup xs

/-- A table that is refused with BAD_FORMAT. -/
def ettBad (t : List Nat) : Bool :=
  let n := ettDevs t
  let m := ettLinks t
  let ids := ettDevices t
  let ls := ettLinkList t
  !t.all (fun b => decide (b < 256)) || ettN t 0 4 != 0x31545444 || ettN t 4 2 != 1 || n == 0 || decide (1024 < n) || decide (6144 < m)
    || t.length != 0x40 + 24 * n + 8 * m || decide (1023 < ettN t 0x10 2) || decide (1023 < ettN t 0x12 2) || decide (1 < ettN t 0x14 1)
    || ids.any (fun d => decide (1023 < d)) || hasDup ids || hasDup ((List.range n).map (fun i => (ettDev t i).2))
    || ls.any (fun e => decide (11 < e.linkA) || decide (11 < e.linkB) || decide (e.minLanes < 6) || decide (8 < e.minLanes)
        || !ids.contains e.devA || !ids.contains e.devB)
    || hasDup (ls.flatMap (fun e => [e.devA * 16 + e.linkA, e.devB * 16 + e.linkB]))

/-- Put a table in force: DEV_ID and PL_MEADOW_CFG; none when no entry is this device's. -/
def State.applyEtt (s : State) (t : List Nat) : Option State :=
  match (List.range (ettDevs t)).find? (fun i => (ettDev t i).2 == devFp) with
  | none => none
  | some i =>
    let id := (ettDev t i).1
    let s := s.setField .pl 0 0x180 9 0 id
    let s := s.setReg .pl 0 0x184 (BitVec.ofNat 32 (ettN t 0x10 2 % 1024 + 2 ^ 16 * (ettN t 0x12 2 % 1024) + 2 ^ 28 * (ettN t 0x14 1 % 2)))
    some { s with
      boot := { s.boot with cur := t }, fab := { s.fab with master := id == ettN t 0x12 2, newMaster := none, ppsAt := 0 } }

/-- SET_ETT: refused, stored, or in force at once (R440, R445). -/
def execSetEtt (t : ListNat) (s : State) : Ans :=
  .next (
    if s.boot.aonLow ∨ s.boot.recovery then s
    else if ettBad t then s.send (.refused 1 0)
    else
      let s := { s with boot := { s.boot with ett := t } }
      if s.boot.state = 7 ∨ s.boot.state < 3 then s
      else match s.applyEtt t with
      | none => if 7 < s.boot.state then s else s.bootFail 6
      | some s => if s.boot.state = 5 then { s with boot := { s.boot with topoWait := false } } else s)

/-! Steps 3 to 6. -/

/-- CONFIGURATION (R434): device reset ends here. -/
def execConfiguration (c : ConfigInput) (s : State) : Ans :=
  .next (
    if s.boot.aonLow ∨ s.boot.state ≠ 2 then s
    else if !c.crcOk ∨ !c.quadOk then s.bootFail 3
    else
      let s : State := { s with strap := c.strap, flt := { s.flt with devRst := 0 } }
      let s := (List.range 3).foldl (fun s r =>
        let n := c.phases.getD r 0 % 32
        s.setRail r { s.rail r with icl := c.icl.getD r 0 % 4096, phases := n, healthy := n }) s
      let s : State := { s with boot := { s.boot with
        maxRate := min 3 c.maxRate, topoTimeout := if 1 ≤ c.topoTimeout ∧ c.topoTimeout ≤ 3600 then c.topoTimeout else 30
        standalone := c.standalone } }
      let s : State := if s.sec.keySet = 0 then
          { s with
            sec := { s.sec with draws := s.sec.draws + 1, keySet := s.sec.draws + 1 }, hbm := { s.hbm with epoch := (s.hbm.epoch + 1) % 2 ^ 32 } }
        else s
      if s.boot.ett.isEmpty then s.bootTo 3
      else match s.applyEtt s.boot.ett with
      | none => s.bootFail 6
      | some s => s.bootTo 3)

/-- SRAM_BIST: bit u of `fail` for an umbel with a failing line (R435). The restart has waited for PERST_N (R449). -/
def execSramBist (fail : W32) (dieFail : Bool) (s : State) : Ans :=
  .next (
    if s.boot.aonLow ∨ s.boot.state ≠ 3 ∨ s.boot.perst then s
    else if dieFail then s.bootFail 4
    else
      let s := { s with sram := [], sramBad := [], fls := [], ums := [] }
      let s := s.setFlt { s.flt with retUmb := fail.toNat, avail := 2 ^ 32 - 1 - fail.toNat }
      let s := (List.range 32).foldl (fun s u => if fail.getLsbD u then s.recordFault Code.marchFail 0xFF (some (false, u)) 0 none else s) s
      s.bootTo 4)

/-- No posted write of the host is held any longer. -/
def State.hostGo (s : State) : State := { s with fe := { s.fe with hostHeld := false } }

/-- HBM_TRAINING (R436, R437): channels that fail are retired before use; FILL with a new key set or at a cold start. A hold
of the host's writes ends (assumption 37). -/
def execHbmTraining (t : TrainInput) (s : State) : Ans :=
  .next (
    if s.boot.aonLow ∨ s.boot.state ≠ 4 then s
    else
      let known (c : Nat) : Bool := s.hbm.ret.contains c || s.hbm.retiring == some c
      let new := (t.fail.filter (fun c => decide (c < 256) && !known c)).eraseDups
      let cold := !s.boot.warm || !t.valid
      if 8 < s.hbm.ret.length + new.length + (if s.hbm.retiring.isSome then 1 else 0) then s.bootFail 5
      else
        let s := { s with hbm := { s.hbm with
          ret := s.hbm.ret ++ new, gen := s.hbm.gen != (new.length % 2 == 1), failing := s.hbm.failing.filter (fun c => !new.contains c) } }
        let s := (List.range 8).foldl (fun s k => s.setStk k { s.stk k with state := 1, rate := min s.boot.maxRate (t.rates.getD k 0) }) s
        let new := (List.range 8).any (fun k => match (s.stk k).fill with
          | some f => f.epoch != s.hbm.epoch
          | none => true)
        let s := if cold || new then (List.range 8).foldl (fun s k => (s.fillStart k).fillDone k) s else s
        (({ s with boot := { s.boot with warm := s.boot.warm && t.valid, trainValid := t.valid, trained := true } }).bootTo 5).hostGo)

/-- Step 7 begins: this device's LSAs carry JOIN = 1. -/
def State.toTopo (s : State) : State := (({ s with boot := { s.boot with topoWait := false, step7 := s.elapsed } }).bootTo 6).floodLsa

def State.topoWait (s : State) : State :=
  if s.boot.topoWait then s else ({ s with boot := { s.boot with topoWait := true } }).event .gl 0 4

/-- LINK_TRAINING (R438): without a table the device waits for SET_ETT; with STANDALONE every link is turned off. -/
def execLinkTraining (masks : ListLinkTrain) (s : State) : Ans :=
  .next (
    if s.boot.aonLow ∨ s.boot.state ≠ 5 then s
    else if s.boot.standalone then
      let s := (List.range 12).foldl (fun s l => s.setReg .pl l 0x104 (s.reg .pl l 0x104 &&& 0xFFFFFFFE)) s
      ({ s with fab := { s.fab with master := true } }).toTopo
    else if s.boot.cur.isEmpty then s.topoWait
    else (masks.foldl (fun s m => s.linkTrain m.link.val m.mask.toNat m.peerDev.toNat m.peerLink.toNat m.peerCode) s).toTopo)

/-! Step 7: agreement (R441, R443). -/

/-- A listed link of this device is UP as the table wants it. -/
def State.ettLinkOk (s : State) (e : Nat × Nat × Nat × Nat) : Bool :=
  let x := s.link e.1
  s.linkUp e.1 && x.peerDev == e.2.1 && x.peerLink == e.2.2.1 && decide (e.2.2.2 ≤ laneCount x.lanes)

/-- UP links that the table does not list. -/
def State.strayLinks (s : State) : List Nat :=
  (List.range 12).filter (fun l => s.linkUp l && !(ettOf s.boot.cur s.devId).any (fun e => e.1 == l))

/-- A listed device that this one needs while forming. -/
def State.ettDevOk (s : State) (v : Nat) : Bool :=
  v == s.devId || (s.lsaFresh v && (match s.lsaOf v with
    | some x => x.2.2.digest == ettDigest s.boot.cur
    | none => false) && (ettOf s.boot.cur v).all (s.lsaLinkUp v))

/-- Devices whose fresh LSAs report IN_SERVICE. -/
def State.inService (s : State) : List Nat :=
  (SMap.keys s.fab.lsas).filter (fun v => s.lsaFresh v && (match s.lsaOf v with
    | some x => x.2.2.mstate == 1
    | none => false))

/-- The IN_SERVICE devices have admitted this one (R442): it is in their table, the digests are equal, and every link listed
to one of them is UP. -/
def State.admitted (s : State) (c : List Nat) : Bool :=
  c.all (fun v => match s.lsaOf v with
    | some x => x.2.2.digest == ettDigest s.boot.cur && (ettOf s.boot.cur v).all (fun e => e.2.1 != s.devId || s.lsaLinkUp v e)
    | none => false)

/-- S after agreement; none while the device does not agree. -/
def State.agree (s : State) : Option (List Nat) :=
  if s.boot.standalone then some [s.devId]
  else if !(ettOf s.boot.cur s.devId).all s.ettLinkOk || !s.strayLinks.isEmpty || !(s.fab.locked || s.fab.master) then none
  else
    match s.inService with
    | [] => if (ettDevices s.boot.cur).all s.ettDevOk then some (ettDevices s.boot.cur) else none
    | c => if s.admitted c then some (c ++ [s.devId]) else none

/-- TOPO_AGREE_TEST: on agreement the device is IN_SERVICE and READY. -/
def execTopoAgreeTest (s : State) : Ans :=
  .next (
    if s.boot.aonLow ∨ s.boot.state ≠ 6 then s
    else match s.agree with
    | none => s
    | some c =>
      let s := (s.setFab { s.fab with service := c, mstate := 1 }).setReach
      let s := { s with boot := { s.boot with ms := s.elapsed / 1000000, topoWait := false }, flt := { s.flt with devCounted := false } }
      ((s.bootTo 7).event .gl 0 3).floodLsa)

/-- TOPO_TIMEOUT: no agreement within TOPO_TIMEOUT of step 7: one message per mismatching link or device (link 12). -/
def execTopoTimeout (s : State) : Ans :=
  .next (
    if s.boot.aonLow ∨ s.boot.state ≠ 6 ∨ s.boot.topoWait ∨ s.elapsed - s.boot.step7 < 1000000000 * s.boot.topoTimeout
        ∨ s.agree.isSome then s
    else
      let links := ((ettOf s.boot.cur s.devId).filter (fun e => !s.ettLinkOk e)).map (fun e => (e.1, e.2.1))
      let stray := s.strayLinks.map (fun l => (l, (s.link l).peerDev))
      let devs := ((ettDevices s.boot.cur).filter (fun v => !s.ettDevOk v)).map (fun v => (12, v))
      (links ++ stray ++ devs).foldl (fun s m => s.send (.mismatch m.1 m.2)) s.topoWait)

/-! Management (R445, R446). -/

/-- GL_BOOT_STAT. -/
def State.bootStat (s : State) : Nat :=
  s.boot.state + 16 * b2n s.boot.warm + 256 * s.boot.fail + 4096 * b2n s.boot.topoWait + 8192 * b2n (!s.boot.ett.isEmpty)
    + 16384 * b2n s.boot.trainValid

def fpWords : List Nat := (List.range 4).map (fun w => (Config.devId w).toNat)

def execGetBootStatus (s : State) : Ans :=
  .next (if s.boot.aonLow ∨ (s.boot.image = 0 ∧ !s.boot.recovery) then s else s.send (.bootStatus s.bootStat s.boot.ms fpWords (ettDigest s.boot.cur)))

/-- COMMIT_SVN: the fused floor becomes the running image's SVN, which the image slot stands for (assumption 7). -/
def execCommitSvn (s : State) : Ans :=
  .next (if s.boot.image = 0 then s else { s with boot := { s.boot with svn := s.boot.image } })

end Sys2Proof.Machine
end

