-- ==== Sys2Proof/Machine/RegRead.lean ====
section
/-! DEFINITION. What a read of a register returns (R16, R17, R467, R470, R471, R476 and the register tables of every chapter).
Fields that show state held elsewhere are formed here from that state. -/

namespace Sys2Proof.Machine

/-- Fields from low to high: (value, low bit, width). -/
def fieldsN (xs : List (Nat × Nat × Nat)) : Nat := xs.foldl (fun a x => a + x.1 % 2 ^ x.2.2 * 2 ^ x.2.1) 0

/-- Sum of set bits of a list of flags. -/
def flagsN (xs : List (Bool × Nat)) : Nat := xs.foldl (fun a x => if x.1 then a + 2 ^ x.2 else a) 0

/-! Pages. -/

/-- The umbel of a page's unit. -/
def pageUmbel (b : Blk) (n : Nat) : Option Nat :=
  match b with
  | .fl => some (n / 16)
  | .ub => some n
  | _ => none

/-- PAGE_STAT.HELD. -/
def State.pageHeld (s : State) (b : Blk) (n : Nat) : Bool :=
  match pageUmbel b n with
  | some u => (s.um u).held || s.dieDown (u / 16)
  | none => false

/-- Every page with its block and instance. -/
def allPages : List (Nat × Blk × Nat) := (List.range 0x400).filterMap (fun i => (pageOf i).map (fun p => (i, p)))

def State.presentPages (s : State) : List (Nat × Blk × Nat) := allPages.filter (fun p => s.pagePresent p.1)

def State.pagePend (s : State) (b : Blk) (n : Nat) : Bool := !s.pageHeld b n && s.reg b n Off.evtPend != 0

/-- PAGE_CAP.INSTANCES. -/
def State.instances (s : State) : Blk → Nat
  | .fl => 32 * perUmbel s.variant.val
  | .ub => 32
  | .hc => 8
  | .pl => popN 12 (linkMask s.variant.val)
  | .die => 2
  | _ => 1

/-- PAGE_ID to PAGE_STAT and the other header registers. -/
def State.readHead (s : State) (b : Blk) (n off : Nat) : Nat :=
  match off with
  | 0x000 => b.code + 2 ^ 16 * n
  | 0x004 => 0x100 + 2 ^ 16 * Config.step.toNat
  | 0x008 => flagsN [(b == .fe || b == .fl, 0), (b == .umc || b == .pw, 1), (b == .hc || b == .pl, 2)] + 0x40 + 2 ^ 16 * s.instances b
  | 0x010 => s.regN b n 0x010 / 2 * 2 + b2n (s.compatOf (b.page n))
  | 0x014 => bitsN (s.regN b n 0x014) 8 8 * 256 + flagsN [(s.pageHeld b n, 0), (s.pagePend b n, 1)]
  | _ => s.regN b n off

/-! GL. -/

def State.readPartCtl (s : State) (p : Nat) : Nat :=
  let x := s.part p
  fieldsN [(b2n (x.state == 1 || x.state == 2), 0, 1), (x.state, 8, 2), (min 7 (recent s.ftime 60000000000 x.times).length, 12, 3), (x.cause, 16, 8)]

def State.readGl (s : State) (off : Nat) : Nat :=
  let v := s.variant.val
  if 0x220 ≤ off ∧ off < 0x230 then (Config.devId ((off - 0x220) / 4)).toNat
  else if 0x240 ≤ off ∧ off < 0x280 then (2 ^ perUmbel v - 1) * 0x10001
  else if 0x400 ≤ off ∧ off < 0x480 then (if off % 8 = 4 then s.readPartCtl ((off - 0x400) / 8) else s.regN .gl 0 off)
  else match off with
  | 0x104 =>
    let fs := (List.range 512).filter s.flPresent
    let c (f : Nat) : Bool := s.compatOf (Blk.page .fl f)
    flagsN [(s.strap, 0), (fs.any c && !fs.all c, 16), (fs.any c || s.compatOf (Blk.page .fe 0), 17)]
  | 0x120 => s.ftime % 2 ^ 32
  | 0x140 => flagsN ((List.range 13).map (fun b => (decide (b ≠ 0) && s.presentPages.any (fun p => p.2.1.code == b && s.pagePend p.2.1 p.2.2), b)))
  | 0x200 => fieldsN [(v, 0, 2), (perUmbel v, 4, 5), (stackHeight v, 16, 5), (capGiB v, 24, 8)]
  | 0x204 => linkMask v
  | 0x208 => (List.range 32).foldl (fun m u => if bitN s.flt.avail u && !bitN s.flt.retUmb u then m + 2 ^ u else m) 0
  | 0x20C => s.bootStat
  | 0x210 => s.boot.ms
  | 0x230 => ettDigest s.boot.cur % 2 ^ 32
  | 0x234 => ettDigest s.boot.cur / 2 ^ 32
  | 0x480 => fieldsN [(min 31 s.flt.retired, 0, 5), (min 3 (recent s.ftime 600000000000 s.flt.devTimes).length, 8, 2), (b2n s.flt.oos, 12, 1)]
      + 2 ^ 24 * bitsN (s.regN .gl 0 0x480) 24 24
  | 0x484 => 0
  | _ => s.regN .gl 0 off

/-! FE. -/

def State.readFe (s : State) (off : Nat) : Nat :=
  let k := bitsN (s.regN .fe 0 0x180) 3 0
  let ws := s.wset k
  let e := bitsN (s.regN .fe 0 0x180) 25 16
  match off with
  | 0x108 => 0
  | 0x10C => bitsN (s.regN .fe 0 off) 0 0 + 256 * b2n (s.fe.rings.any (fun r => r.2.disabling))
  | 0x11C =>
    let t := s.lsl (bitsN (s.regN .fe 0 0x118) 5 0)
    fieldsN [(t.state, 0, 2), (t.gen, 4, 4), (t.cls, 8, 2), (t.ring, 16, 15)]
  | 0x184 => fieldsN [(b2n ws.valid, 0, 1), (b2n ws.swapping, 1, 1), (b2n ws.retiring, 2, 1), (ws.gate, 8, 8), (ws.nl, 16, 11)]
  | 0x188 => ws.id % 2 ^ 32
  | 0x18C => ws.id / 2 ^ 32
  | 0x190 => ws.ver
  | 0x194 => ws.g
  | 0x198 => SMap.get 0 ws.lat e % 2 ^ 32
  | 0x19C => SMap.get 0 ws.lat e / 2 ^ 32 % 2 ^ 20
  | 0x710 => 0
  | 0x718 => s.regN .fe 0 off / 2 * 2 + b2n s.fe.seqOp.isSome
  | 0x788 =>
    let n (st : Nat) : Nat := ((List.range s.seqSlots).filter (fun q => s.grpMembers q != 0 && s.grpState q == st)).length
    fieldsN [(n 1, 0, 14), (n 2, 16, 14)]
  | _ => s.regN .fe 0 off

/-! UMC, PW, SEC, TR, DIE. -/

def State.readUmc (s : State) (off : Nat) : Nat :=
  match off with
  | 0x110 => s.flt.head % 2 ^ 32
  | 0x118 =>
    let sel := s.regN .umc 0 0x114
    match s.flt.flog[bitsN sel 9 0]? with
    | some r => bitsN r.bytes (32 * bitsN sel 19 16 + 31) (32 * bitsN sel 19 16)
    | none => 0
  | 0x11C => 0
  | 0x120 => s.flt.drop % 2 ^ 32
  | 0x148 => 0
  | 0x14C => fieldsN [(b2n s.snap.busy, 0, 1), (s.snap.trigger, 1, 3), (b2n s.snap.trunc, 4, 1), (min 255 s.snap.merged, 8, 8), (s.snap.count, 16, 16)]
  | 0x154 => s.snap.copy.getD (bitsN (s.regN .umc 0 0x150) 9 0) 0 % 2 ^ 32
  | _ => s.regN .umc 0 off

def State.hottest (s : State) (h : Nat) : Nat := (List.range 16).foldl (fun t i => max t (s.pwUmb (16 * h + i)).temp) 0 / 4

def State.readPw (s : State) (off : Nat) : Nat :=
  let r := bitsN (s.regN .pw 0 0x120) 3 0
  let u := bitsN (s.regN .pw 0 0x140) 4 0
  let x := s.pwUmb u
  let i := vfEntry u x.freq
  if 0x180 ≤ off ∧ off < 0x1C0 then fieldsN [(vfF u ((off - 0x180) / 4), 0, 6), (vfV u ((off - 0x180) / 4), 8, 10)]
  else match off with
  | 0x110 => bitsN (s.regN .pw 0 off) 10 8 * 256 + flagsN [(s.pw.warn, 0), (s.pw.fallback, 1), (s.hist, 2), (s.pw.trip, 3)]
  | 0x114 => fieldsN [(s.pw.sensedW, 0, 12), (s.pw.estW, 16, 12)]
  | 0x118 => fieldsN [(s.hottest 0, 0, 8), (s.hottest 1, 8, 8)]
  | 0x124 => if 12 < r then 0 else fieldsN [((s.rail r).mv, 0, 12), ((s.rail r).ma / 1000, 16, 12), (b2n (s.rail r).est, 28, 1)]
  | 0x128 => if 2 < r then 0 else fieldsN [((s.rail r).icl, 0, 12), ((s.rail r).phases, 16, 5), ((s.rail r).healthy, 24, 5)]
  | 0x144 =>
    if x.state = 0 then 0
    else fieldsN [(x.freq, 0, 6), (i, 8, 4), (x.state, 12, 2), (s.umDuty u, 16, 5), (flagsN ((List.range 10).map (fun n => (s.umLimits u n, n))), 22, 10)]
  | 0x148 => x.fmax
  | 0x14C => fieldsN [(ofInt 8 (-((SMap.get 0 x.trim i : Nat) : Int)), 0, 8), (x.temp / 4, 8, 8), (SMap.get 0 x.samples i, 16, 7)]
  | 0x1C0 => fieldsN ((List.range 8).map (fun k => (s.stkRate k - 1, 4 * k, 4)))
  | _ => s.regN .pw 0 off

def State.readSec (s : State) (off : Nat) : Nat :=
  match off with
  | 0x100 => fieldsN [(s.sec.state, 0, 2), (s.sec.tdi, 4, 2), (s.sec.sessions.length, 8, 3),
      (b2n (SMap.get 0 s.sec.ide 1 != 0) + b2n (SMap.get 0 s.sec.ide 2 != 0), 16, 2), (b2n (SMap.get 0 s.sec.ide 0 != 0), 18, 1)]
  | 0x104 => 0
  | 0x108 => fieldsN [(s.sec.res, 0, 4), (b2n s.sec.done, 8, 1)]
  | 0x10C => if s.sec.change = 2 then s.hbm.epoch - 1 else s.hbm.epoch
  | 0x110 => 0
  | 0x11C => 2 ^ 16 * bitsN (s.regN .sec 0 off) 17 16 + bitsN (s.regN .sec 0 off) 7 4 * 16 + b2n s.sec.ckCmd.isSome
      + flagsN ((List.range 8).map (fun n => ((SMap.get none s.sec.cks n).isSome, 8 + n)))
  | _ => s.regN .sec 0 off

def State.readTr (s : State) (off : Nat) : Nat :=
  match off with
  | 0x10C => s.trHead
  | 0x118 => bitsN (s.regN .tr 0 off) 1 1 * 2 + b2n (decide (0 < s.tr.d))
  | _ => s.regN .tr 0 off

def State.readDie (s : State) (n off : Nat) : Nat :=
  match off with
  | 0x100 =>
    let used := max (SMap.get 0 s.flt.d2dUsed 0) (SMap.get 0 s.flt.d2dUsed 1)
    fieldsN [(1000, 0, 10), (b2n (used != 0), 16, 1), (16 - used, 17, 5)]
  | 0x104 => SMap.get 0 s.flt.dieCnt n
  | _ => s.regN .die n off

/-! HC. -/

/-- STATE of HC_CH_INFO. -/
def State.chanState (s : State) (c : Nat) : Nat :=
  if s.hbm.retiring = some c then 1 else if s.hbm.ret.contains c then 2 else if s.hbm.failing.contains c then 3 else 0

def State.readHc (s : State) (k off : Nat) : Nat :=
  let x := s.stk k
  let c := 32 * k + bitsN (s.regN .hc k 0x130) 4 0
  match off with
  | 0x100 => if x.state = 0 then 0 else fieldsN [(stackHeight s.variant.val, 0, 5), (x.rate, 8, 2), (x.state, 16, 2), (s.cap, 24, 8)]
  | 0x134 =>
    let ues := (SMap.get [] s.hbm.ues c).filter (fun t => decide (s.ftime < t + 86400000000000))
    fieldsN [(s.chanState c, 0, 2), (min 2047 (ceHour s.ftime (SMap.get [] s.hbm.ces c)).length, 4, 11), (min 3 ues.length, 16, 2)]
  | 0x184 => fieldsN [(s.hbm.ret.length, 0, 4), (b2n s.hbm.gen, 4, 1), (b2n s.hbm.retiring.isSome, 8, 1)]
  | 0x188 => packN 8 (s.hbm.ret.take 4)
  | 0x18C => packN 8 ((s.hbm.ret.drop 4).take 4)
  | 0x1C0 => if x.state = 0 || !x.sampled then 0 else fieldsN [(x.temp, 0, 8), (b2n x.ref2x, 8, 1), (b2n x.half, 9, 1), (25 * x.cap, 16, 16)]
  | 0x240 => 256 * b2n x.filling
  | 0x800 => 0
  | 0x840 => bitsN (s.regN .hc k off) 2 0 + fieldsN [(x.srq.length, 8, 7), (b2n (!x.srq.isEmpty || !x.builds.isEmpty), 16, 1)]
  | _ =>
    if 0x810 ≤ off ∧ off < 0x820 then
      let p := s.kvPool ((off - 0x810) / 4)
      if p.en then s.framesFree p k else 0
    else s.regN .hc k off

/-! PL. -/

def State.readPl (s : State) (l off : Nat) : Nat :=
  let x := s.link l
  let vec (ds : List Nat) : Nat :=
    let w := bitsN (s.regN .pl 0 0x18C) 4 0
    (List.range 32).foldl (fun a i => if ds.contains (32 * w + i) then a + 2 ^ i else a) 0
  match off with
  | 0x100 => fieldsN [(x.state, 0, 3), (laneCount x.lanes, 4, 4), (x.lanes, 8, 8), (b2n x.coded, 16, 1),
      (b2n (x.state == 2 && !s.fab.service.contains x.peerDev), 17, 1), (x.peerLink, 18, 4), (x.peerDev, 22, 10)]
  | 0x104 => bitsN (s.regN .pl l off) 1 0
  | 0x108 => x.faults
  | 0x188 => fieldsN [(s.fab.service.length, 0, 11), (s.fab.reach.length, 12, 11), (s.fab.mstate, 24, 2)] + 2 ^ 28 * bitsN (s.regN .pl 0 off) 28 28
  | 0x190 => vec s.fab.service
  | 0x194 => vec s.fab.reach
  | 0x1A4 => s.route (bitsN (s.regN .pl 0 0x1A0) 9 0)
  | 0x1AC => s.mcEntry (bitsN (s.regN .pl 0 0x1A8) 5 0)
  | 0x1B0 => flagsN [(s.fab.locked, 0), (s.fab.hold, 1), (s.fab.master, 3)] + bitsN (s.regN .pl 0 off) 2 2 * 4
      + fieldsN [(s.parentLink.getD 0, 4, 4), (if s.fab.master then 0 else Config.timeDepth (s.parentLink.getD 0), 8, 4)]
  | 0x1B4 => ofInt 32 s.fab.ofs
  | _ => s.regN .pl l off

/-! UB. -/

def State.readUb (s : State) (u off : Nat) : Nat :=
  let x := s.um u
  if 0x800 ≤ off ∧ off < 0xC00 then (x.tally ((off - 0x800) / 4)).toNat
  else if 0x280 ≤ off ∧ off < 0x300 then
    let e := (x.chan ((off - 0x280) / 16)).eng
    if off % 16 = 12 then bitsN (s.regN .ub u off) 0 0 + fieldsN [(e.fly.length, 8, 5), (b2n e.waiting, 16, 1), (b2n e.descStop, 17, 1)]
    else s.regN .ub u off
  else match off with
  | 0x200 => bitsN (s.regN .ub u off) 1 0
  | 0x204 => x.freeList.length
  | 0x210 => let g := bitsN (s.regN .ub u off) 11 0; g + 2 ^ 16 * (SMap.get 0 x.pool g % 2 ^ 16)
  | 0x400 => bitsN (s.regN .ub u off) 0 0 + flagsN [(!x.ddq.isEmpty || !x.ddout.isEmpty, 8), (s.ddWaits u, 9)]
  | _ => s.regN .ub u off

/-! FL. -/

/-- ORIENT_MIX: an array drains for an orientation change when its next job is of the other orientation. -/
def Floret.orientMix (fl : Floret) : Nat :=
  let turning := (List.range 4).any (fun a =>
    let r := fl.arr a
    !r.waves.isEmpty && (match fl.job r.iJob with
      | some m => Tile.cross m.word != r.cross
      | none => false))
  let cs := (List.range 4).map (fun a => (fl.arr a).cross)
  if turning then 3 else if cs.all (!·) then 0 else if cs.all id then 1 else 2

def State.readEng (e : Eng) : Nat :=
  fieldsN [(e.fly.length, 0, 7), (e.queue.length, 8, 9), (b2n e.waiting, 24, 1), (b2n e.blocked, 25, 1)]

/-- A stationary port waits for patch records of its next tile. -/
def Floret.patchWait (fl : Floret) : Bool :=
  (List.range 4).any (fun a =>
    let r := fl.arr a
    match fl.job r.pJob with
    | some m =>
      if Tile.patched m.word && r.load.isNone then
        match m.base with
        | some b => (fl.feed (Tile.sfeed m.word + 1)).deliv ≤ b.2.2 + (Tile.src m.word a r.pTile).slot
        | none => false
      else false
    | none => false)

def Feed.presentHead (fd : Feed) : Nat := if fd.slots = 0 then 0 else popN 72 (SMap.get 0 fd.present (fd.head % fd.slots))
def Feed.fullSlots (fd : Feed) : Nat := (fd.present.filter (fun e => popN 72 e.2 == fd.bl)).length

def State.readFl (s : State) (f off : Nat) : Nat :=
  let fl := s.fl f
  if 0x600 ≤ off ∧ off < 0x700 then (fl.tally ((off - 0x600) / 4)).toNat
  else if 0x500 ≤ off ∧ off < 0x540 then (SMap.get (0 : W32) fl.credit ((off - 0x500) / 4)).toNat % 2 ^ 32
  else if 0x400 ≤ off ∧ off < 0x500 then
    let fd := fl.feed ((off - 0x400) / 16)
    match off % 16 with
    | 0 => fieldsN [(fd.base, 0, 15), (fd.slots, 16, 16)]
    | 4 => fieldsN [(fd.bl, 0, 7), (b2n fd.patch, 8, 1)]
    | 8 => fieldsN [(fd.state, 0, 2), (fd.presentHead, 8, 7), (fd.fullSlots, 16, 16)]
    | _ => fd.head
  else match off with
  | 0x300 =>
    let held := (List.range 4).any (fun a => match (fl.arr a).load with
      | some l => (!l.isF || decide (3 ≤ l.gather)) && (fl.arr a).rowHeld l
      | none => false)
    bitsN (s.regN .fl f off) 0 0 + flagsN [((List.range 4).any fl.frozen, 1), (held, 2), (fl.closed.any (fun c => c.2 != 0), 3)]
      + 16 * fl.orientMix
  | 0x320 => bitsN (s.regN .fl f off) 12 0 + flagsN [(fl.strict && fl.lslot != 0, 16), (fl.c6, 17)]
  | 0x340 => bitsN (s.regN .fl f off) 3 0 + flagsN [(!fl.qx.isEmpty, 9), (!fl.qx.isEmpty, 10)]
  | 0x360 =>
    let exp := (List.range 4).any (fun a => (fl.arr a).load.isSome && (match fl.job (fl.arr a).pJob with
      | some m => Tile.form m.word == 2 || Tile.form m.word == 3
      | none => false))
    bitsN (s.regN .fl f off) 0 0 + flagsN [(exp, 8), (fl.patchWait, 9)]
  | 0x380 => bitsN (s.regN .fl f off) 3 0
  | 0x3A0 => bitsN (s.regN .fl f off) 4 0 + flagsN [(fl.run, 8), (fl.halted, 9), (fl.waiting, 10), (fl.qfull, 11)]
  | 0x3A4 => fl.pc % 2 ^ 13
  | 0x3C0 => State.readEng fl.le
  | 0x3D0 => State.readEng fl.se
  | 0x3E0 => bitsN (s.regN .fl f off) 1 0 + flagsN [(fl.se.lossStop, 8), (fl.le.lossStop, 9)]
  | 0x700 => b2n fl.det + 256 * min 4 (fl.ivals.filter (·.closed)).length
  | _ => s.regN .fl f off

/-! Reads. -/

/-- The key of the 64-bit counter whose LO register this is (R414, R358). -/
def State.loKey (s : State) (b : Blk) (n off : Nat) : Option Nat :=
  let at_ (o : Nat) : Option Nat := some (regOff b n o)
  match b with
  | .pw => if 0x200 ≤ off ∧ off < 0x250 ∧ off % 8 = 0 then at_ off else none
  | .ct => if 0x100 ≤ off ∧ off < 0x120 ∧ off % 8 = 0 then at_ off else none
  | .ub => if off = 0x500 ∨ off = 0x508 then at_ off else none
  | .fl => if off = 0x720 ∨ off = 0x728 then at_ off else none
  | .pl => if off = 0x140 ∨ off = 0x148 ∨ off = 0x150 then at_ off else none
  | .hc =>
    let c := 32 * n + bitsN (s.regN .hc n 0x130) 4 0
    if off = 0x300 ∨ off = 0x308 ∨ off = 0x310 then at_ off
    else if off = 0x318 then some (0x4000000 + 2 * c) else if off = 0x320 then some (0x4000000 + 2 * c + 1) else none
  | _ => none

/-- The 64-bit value behind a LO register. -/
def State.loValue (s : State) (b : Blk) (n off : Nat) : Option Nat :=
  if b = .gl ∧ off = 0x120 then some (s.ftime % 2 ^ 64) else (s.loKey b n off).map (SMap.get 0 s.cnt64)

/-- A HI register of a pair: it reads what the last read of LO latched. -/
def State.isHi (s : State) (b : Blk) (n off : Nat) : Bool := decide (4 ≤ off) && (s.loValue b n (off - 4)).isSome

/-- The value of a register with no side effect. -/
def State.peek (s : State) (b : Blk) (n off : Nat) : Nat :=
  if (regSpec b off).isNone then 0
  else if off < 0x018 then s.readHead b n off
  else if s.pageHeld b n then (regReset (regOff b n off)).toNat
  else if off < 0x100 then s.readHead b n off
  else if s.isHi b n off then (SMap.get (0 : W32) s.latch (regOff b n off)).toNat
  else match s.loValue b n off with
  | some v => v % 2 ^ 32
  | none =>
    match b with
    | .gl => s.readGl off | .fe => s.readFe off | .umc => s.readUmc off | .pw => s.readPw off | .sec => s.readSec off
    | .tr => s.readTr off | .ct => s.regN .ct 0 off | .die => s.readDie n off | .hc => s.readHc n off | .pl => s.readPl n off
    | .ub => s.readUb n off | .fl => s.readFl n off

/-- Read the register at BAR0 offset `a`: MSI-X words as they stand, unassigned and absent pages as zero; a read of LO latches HI. -/
def State.regRead (s : State) (a : Nat) : W32 × State :=
  if 0x3000000 ≤ a ∧ a < 0x3008100 then (s.rawReg a, s)
  else match pageOf (a / 4096) with
  | none => (0, s)
  | some (b, n) =>
    let off := a % 4096
    let v := BitVec.ofNat 32 (s.peek b n off)
    if !s.pagePresent (a / 4096) then (0, s)
    else if s.pageHeld b n then (v, s)
    else
      let t := s.ungatePage b n
      match s.loValue b n off with
      | some x => (v, { t with latch := SMap.put (0 : W32) t.latch (a + 4) (BitVec.ofNat 32 (x / 2 ^ 32)) })
      | none => (v, t)

/-- The host as a requester: its errors go to the CT page (R467). -/
def reqHost : Req := ⟨.ct, 0, 0xFF2⟩

/-- The register at BAR0 offset `a` exists: an MSI-X word or a register of a present page (R467, R469). -/
def State.regPresent (s : State) (a : Nat) : Bool :=
  (decide (0x3000000 ≤ a) && decide (a < 0x3008100)) || ((pageOf (a / 4096)).isSome && s.pagePresent (a / 4096))

/-- The words of `n` registers from BAR0 offset `a` on, read in increasing offset (R470). -/
def State.regReads (s : State) : Nat → Nat → Nat × State
  | 0, _ => (0, s)
  | n + 1, a =>
    let r := if s.regPresent a then s.regRead a else (0, s)
    let x := r.2.regReads n (a + 4)
    (r.1.toNat + 2 ^ 32 * x.1, x.2)

/-- The first register of a read that is not there, as its one address error (R467). -/
def State.readAbsent (s : State) (n a : Nat) : State :=
  match (List.range n).find? (fun i => !s.regPresent (a + 4 * i)) with
  | some i => s.addrErr reqHost (0x18000000000 + a + 4 * i) false
  | none => s

/-- COUNTER_LO_READ: a host read of `len` bytes of BAR0 (R414, R470): each register that it touches is read, a LO latches its
pair's HI, and a page that is not there is an address error (R467). It waits behind a posted write that a stack holds (R239);
without the T bit it is an Unsupported Request while the TDI runs (R395). -/
def execCounterLoRead (x : HostSpan) (s : State) : Ans :=
  .next (
    let o := x.off.toNat
    let a := o / 4 * 4
    let n := cdiv (o % 4 + x.len) 4
    if x.len = 0 ∨ 4096 < x.len ∨ 2 ^ 26 < o + x.len ∨ s.fe.hostHeld then s
    else if !s.takesT x.t then s.refuseRead x.len
    else
      let s := (s.cnt .ct 0 0x108 x.len).readAbsent n a
      let r := s.regReads n a
      { r.2 with hostOut := r.2.hostOut ++ [.completion (r.1 / 2 ^ (8 * (o % 4)) % 2 ^ (8 * x.len)) x.len false .sc] })

end Sys2Proof.Machine
end

