-- ==== Sys2Proof/Machine/Snapshot.lean ====
section
/-! DEFINITION. The hang snapshot (chapter "Determinism, Replay and Observation", R421 to R424, R427). A record's fields are
those that R422 names; how they lie in the record's bytes is free (assumption 26). -/

namespace Sys2Proof.Machine

def State.setSnap (s : State) (x : Snap) : State := { s with snap := x }

/-! Records (R422). -/

/-- A record of `n` bytes as 32-byte pieces. -/
def pieces (section_ n : Nat) (fields : List Nat) : List Nat :=
  let v := Config.snapRecord section_ fields
  (List.range (n / 32)).map (fun i => v / 2 ^ (256 * i) % 2 ^ 256)

/-- The fields of a ring: numbers, state, the command at its head and how that command waits. -/
def State.snapRing (s : State) (r : Nat) : List Nat :=
  let x := s.ring r
  let w := (s.headCmd r).getD 0
  let hold := match x.wait with
    | .none => 0
    | .swapHold _ _ _ => 1
    | .request _ _ _ => 2
    | .granted t => 3 + t
    | .tally _ => 1
  [s.ftime, r, x.head, x.tail, x.cplTail, x.cplHead, x.state, w, hold]

def State.snapSlot (s : State) (t : Nat) : List Nat :=
  let x := s.lsl t
  [s.ftime, x.state, x.gen, x.cls, x.ring, x.id, x.tRel, x.tAdv]

/-- The WAIT descriptor at a queue's head, with the value of its tally; zeros when the engine does not wait. -/
def State.snapWait (s : State) (g : Agent) : List Nat :=
  let e := s.eng g
  match e.waiting, e.queue.head? with
  | true, some q => [q.w, (s.tallyVal (s.tref (agentFl g) (agentUm g) (D.tally q.w))).toNat]
  | _, _ => [0, 0]

def State.snapFloret (s : State) (f : FloretId) : List Nat :=
  let fl := s.fl f.val
  let rd (off : Nat) : Nat := s.peek .fl f.val off
  let held := if fl.waiting then
      let w := (SMap.get (0 : W64) fl.istore fl.pc).toNat
      [w, (s.tallyVal (localTally f.val w)).toNat, (fl.s (bitsN w 45 41)).toNat]
    else [0, 0, 0]
  [s.ftime, rd 0x3A0, rd 0x3A4] ++ held ++ [rd 0x3C0, rd 0x3D0] ++ s.snapWait (.load f) ++ s.snapWait (.store f)
    ++ (List.range 16).flatMap (fun e => [rd (0x408 + 16 * e), rd (0x40C + 16 * e)])
    ++ [s.regN .fl f.val Off.progress] ++ (List.range 64).map (fun i => rd (0x600 + 4 * i))

def State.snapUmbel (s : State) (u : UmbelId) : List Nat :=
  let rd (off : Nat) : Nat := s.peek .ub u.val off
  s.ftime :: (List.range 256).map (fun i => rd (0x800 + 4 * i))
    ++ (List.range 8).flatMap (fun c => [rd (0x28C + 16 * c), rd (0x288 + 16 * c)]
      ++ s.snapWait (.dma u ⟨c % 8, Nat.mod_lt _ (by decide)⟩)) ++ [rd 0x204, rd 0x400]

/-- Credits, and how much of the retry buffer the peer has not acknowledged, have no place in the model's state: free values
(assumption 26). -/
def State.snapLink (s : State) (l : Nat) : List Nat := [s.ftime, s.peek .pl l 0x100, (Config.free (s.freeCtr + 32 + l)).toNat]

/-- Rings that are not DISABLED. -/
def State.snapRings (s : State) : List Nat := (s.fe.rings.filter (fun e => e.2.state != 0)).map (·.1)

/-- The six sections after the header, in 32-byte pieces. -/
def State.snapSections (s : State) : List (List Nat) :=
  let fls := (List.range 512).filter s.flPresent
  [(s.snapRings).flatMap (fun r => pieces 1 32 (s.snapRing r)),
   (List.range 64).flatMap (fun t => pieces 2 32 (s.snapSlot t)),
   fls.flatMap (fun f => pieces 3 512 (s.snapFloret ⟨f % 512, Nat.mod_lt _ (by decide)⟩)),
   (List.range 32).flatMap (fun u => pieces 4 2048 (s.snapUmbel ⟨u % 32, Nat.mod_lt _ (by decide)⟩)),
   (List.range 32).flatMap (fun r => pieces 5 64 [s.ftime, r, (Config.free (s.freeCtr + r)).toNat]),
   (List.range 12).flatMap (fun l => pieces 6 32 (s.snapLink l))]

/-- Counts of records by section, and offsets: the sections follow one another (R422 gives the whole size so). -/
def State.snapHeader (s : State) (trunc : Bool) : List Nat :=
  let n := s.snapRings.length
  let nf := ((List.range 512).filter s.flPresent).length
  let counts := [(n, 32), (64, 32), (nf, 512), (32, 2048), (32, 64), (12, 32)]
  let offs := (List.range 6).map (fun i => 128 + sumN ((counts.take i).map (fun c => c.1 * c.2)))
  [s.snap.trigger, s.snap.start, s.ftime, s.snap.slot.getD 0xFF, (match s.snap.slot with
    | some t => (s.lsl t).id
    | none => 0)] ++ counts.map (·.1) ++ offs ++ [b2n trunc]

/-- 32-byte pieces as lines; the last may be part of a line. -/
def toLines : List Nat → List (Nat × Nat)
  | a :: b :: c :: d :: rest => (fullMask, a + 2 ^ 256 * b + 2 ^ 512 * c + 2 ^ 768 * d) :: toLines rest
  | [] => []
  | xs => [(2 ^ (32 * xs.length) - 1, packN 256 xs)]

/-! Triggers (R421). -/

def State.snapBase (s : State) : Nat := s.regN .umc 0 0x140 + 2 ^ 32 * s.regN .umc 0 0x144

/-- A trigger: a capture starts, or a capture under way takes it in. -/
def State.snapTrigger (s : State) (trig : Nat) (slot : Option Nat) : State :=
  if s.boot.aonLow || s.boot.recovery then s
  else
    let x := s.snap
    let asks := match slot with
      | some t => x.asks ++ [t]
      | none => x.asks
    if x.busy then s.setSnap { x with merged := x.merged + 1, asks := asks }
    else s.setSnap { x with busy := true, trigger := trig, slot := slot, start := s.ftime, trunc := false, asks := asks }

/-- SNAPSHOT_HANG_REQUEST: a launch that has hung and has not asked yet (R270). -/
def execSnapshotHangRequest (t : SlotId) (s : State) : Ans :=
  .next (if s.flt.hangs.any (fun h => h.1 == t.val) && !s.snap.asks.contains t.val then s.snapTrigger 1 (some t.val) else s)

def execUmcSnapStart (s : State) : Ans := .next (s.snapTrigger 2 none)
def execSnapshotMctp (s : State) : Ans := .next (s.snapTrigger 3 none)

/-- CORE_HEARTBEAT_TIMEOUT: a control core's heartbeat has not advanced for 100 ms; the core has no state of its own here. -/
def execCoreHeartbeatTimeout (_core : Fin4) (s : State) : Ans := .next (s.snapTrigger 4 none)

/-! The end of a capture (R421 to R424, R270). -/

/-- Write one line of the region. A capture cut at 5 ms may not have come so far: a free bit says (assumption 26). -/
def State.snapLine (s : State) (trunc : Bool) (a : Nat) (x : Nat × Nat) : State :=
  if trunc then
    let r := s.fresh
    if r.1.getLsbD 0 then r.2.hbmPartial ⟨.umc, 0, 0xFF1⟩ a x.1 (BitVec.ofNat 1024 x.2) false .clean else r.2
  else if x.1 = fullMask then s.hbmWrite a (BitVec.ofNat 1024 x.2) false
  else s.hbmPartial ⟨.umc, 0, 0xFF1⟩ a x.1 (BitVec.ofNat 1024 x.2) false .clean

def State.snapStore (s : State) (trunc : Bool) (a : Nat) : List (Nat × Nat) → State
  | [] => s
  | x :: xs => (s.snapLine trunc a x).snapStore trunc (a + 128) xs

/-- A region can be written: a base is set, and its stack is neither HALTED nor OFFLINE (R423). -/
def State.snapRegion (s : State) : Bool :=
  let b := s.snapBase
  let st := (s.stk (physChan (s.phys b) / 32)).state
  b != 0 && decide (b + 2 ^ 21 ≤ s.hbmEnd) && st != 0 && st != 3

/-- SNAPSHOT_CAPTURE_END: the region, the always-on copy, the SNAPSHOT record and message; recoveries that waited for the
capture start. -/
def execSnapshotCaptureEnd (trunc : Bool) (s : State) : Ans :=
  .next (
    if !s.snap.busy then s
    else
      let hd := s.snapHeader trunc
      let head := pieces 0 128 hd
      let secs := s.snapSections
      let s : State := { s with freeCtr := s.freeCtr + 44 }
      let s := if s.snapRegion then s.snapStore trunc s.snapBase (toLines (head ++ secs.flatten)) else s
      let copy := (head ++ secs.getD 1 []).flatMap (fun v => (List.range 8).map (fun i => v / 2 ^ (32 * i) % 2 ^ 32))
      let asks := s.snap.asks
      let trig := s.snap.trigger
      let s := s.setSnap { s.snap with busy := false, trunc := trunc, count := (s.snap.count + 1) % 2 ^ 16, asks := [], copy := copy, slot := none }
      let s := (s.traceUmc 0x0E 0 0xFF (trig + 2 ^ 64 * s.snapBase)).send (.snapshot hd)
      asks.foldl (fun s t =>
        match s.flt.hangs.find? (fun h => h.1 = t) with
        | none => s
        | some h =>
          let s := s.setFlt { s.flt with hangs := s.flt.hangs.filter (fun y => y.1 ≠ t) }
          let un : FUnit := (s.lsl t).florets.head?.map (fun f => (true, f))
          let s := s.recordFault Code.hang h.2 un 0 (some t)
          if (s.part h.2).state = 1 then s.startRecovery h.2 Code.hang true none else s) s)

end Sys2Proof.Machine
end

