-- ==== Sys2Proof/Machine/Tenancy.lean ====
section
/-! DEFINITION. Tenancy, attestation and keys (chapter "Tenancy, Attestation and Keys", R383 to R401). -/

namespace Sys2Proof.Machine

def State.setSec (s : State) (x : Sec) : State := { s with sec := x }

/-- The UMC's firmware runs and answers (R390, R433). -/
def State.umcUp (s : State) : Bool := !s.boot.aonLow && s.boot.image != 0 && !s.boot.recovery

/-! Rings and the copy engine ended from outside. -/

/-- A ring becomes DISABLED at once: held records are dropped, a slot that its head holds is freed. -/
def State.ringKill (s : State) (r : Nat) : State :=
  let x := s.ring r
  let s := x.held.foldl (fun s h => s.dropRec r h) s
  let s := match x.wait with
    | .granted t => s.slotFree' t false
    | _ => s
  (s.modRing r (fun x => { x with state := 0, disabling := false, wait := .none, sigs := [], live := [], held := [] })).ringSync r

/-- Every ring that is not DISABLED. -/
def State.ringsKill (s : State) : State := ((s.fe.rings.filter (fun e => e.2.state != 0)).map (·.1)).foldl (fun s r => s.ringKill r) s

/-- The copy engine ends its commands with ABORTED. -/
def State.copiesKill (s : State) : State := s.fe.copies.foldl (fun s c => s.copyFail c 0x12 0) s

/-! Tenant change (R385, R386). -/

def State.workRuns (s : State) : Bool :=
  (List.range 16).any (fun p => (s.part p).state == 1 || (s.part p).state == 2) || s.fe.rings.any (fun e => e.2.state != 0)
    || !s.fe.copies.isEmpty || s.flt.sweep.isSome

/-- The quiesce step of a tenant change. -/
def State.changeStart (s : State) (stop : Bool) : State :=
  if s.sec.change ≠ 0 then s.setSec { s.sec with stop := s.sec.stop || stop }
  else
    let s := s.setSec { s.sec with state := 2, change := 1, changeAt := s.ftime, stop := stop, done := false }
    let s := ((List.range 16).filter (fun p => (s.part p).state == 1 || (s.part p).state == 2)).foldl (fun s p => s.quiescePart p none) s
    let s := (List.range 64).foldl (fun s t => s.endLaunch t 0x12 0) s
    let s := (s.copiesKill.ringsKill).setFlt { (s.copiesKill.ringsKill).flt with sweep := none }
    s.setSec { s.sec with shut := true }

/-- A host write of CHANGE (R385): LOCKED, BUSY, or the change starts. -/
def State.changeCmd (s : State) : State :=
  if s.sec.tdi ≠ 0 then s.setSec { s.sec with res := 2, done := true }
  else if s.workRuns ∨ s.sec.change ≠ 0 then s.setSec { s.sec with res := 1, done := true }
  else (s.setSec { s.sec with res := 0 }).changeStart false

def execTenantChangeCmd (s : State) : Ans := .next s.changeCmd
def execTenantChange (s : State) : Ans := .next (if s.umcUp then s.changeStart false else s)

/-- Drop: sessions, streams, keys, caches, tables. -/
def State.tenantDrop (s : State) : State :=
  let s := s.setSec { s.sec with sessions := [], ide := [], owner := none, ownerSid := none, cks := [], rollback := [], ckCmd := none }
  let s := { s with
    fe := { Front.reset with slots := s.fe.slots, serial := s.fe.serial, copyEng := { Eng.reset with nextId := s.fe.copyEng.nextId } }
    tr := .reset }
  let s := s.pageReset (Blk.page .tr 0) (fun o => decide (o < 0x100))
  (s.pageReset (Blk.page .sec 0) (fun o => decide (o < 0x100))).setSnap { s.snap with copy := [] }

/-- Rotate: a new key set in all eight base dies; lines under the old one read as TAG (R288). -/
def State.tenantRotate (s : State) : State :=
  { s with
    sec := { s.sec with draws := s.sec.draws + 1, keySet := s.sec.draws + 1 }
    hbm := { s.hbm with epoch := (s.hbm.epoch + 1) % 2 ^ 32 } }

/-- Scrub: SRAMs and instruction stores read zero, tallies are zero, the FE, FL and UB pages take their reset values but for
COMPAT; every partition is DOWN and every umbel gated again. -/
def State.tenantScrub (s : State) : State :=
  let s := (List.range 16).foldl (fun s p =>
    let x := s.part p
    if x.state = 3 then s else s.setPart p { x with state := 0, step := 0, retire := false }) s
  let s := (List.range 32).foldl (fun s u => s.gateUmbel u) s
  let s := s.pageReset (Blk.page .fe 0) (fun _ => false)
  { s with fls := [], sram := [], sramBad := [] }

/-- Fill: FILL on all eight stacks at once (R290). -/
def State.tenantFill (s : State) : State :=
  (List.range 8).foldl (fun s k =>
    let x := s.stk k
    (s.setStk k { x with filling := false, state := if x.state = 2 then 1 else x.state }).fillStart k) s

/-- Nothing awaits an answer. -/
def State.allQuiet (s : State) : Bool := s.umQuiet (List.range 32)

/-- TENANT_QUIESCE_END: the accepted lines have completed, or 300 µs have passed; drop, rotate, scrub, and the fill starts. -/
def execTenantQuiesceEnd (s : State) : Ans :=
  .next (
    if s.sec.change = 1 ∧ (s.allQuiet ∨ 300000 ≤ s.ftime - s.sec.changeAt) then
      let s := ((s.tenantDrop).tenantRotate).tenantScrub.tenantFill.retune
      s.setSec { s.sec with change := 2, changeAt := s.ftime }
    else s)

/-- TENANT_FILL_END: Return (R386); a STOP_INTERFACE gets its answer (R395). -/
def execTenantFillEnd (s : State) : Ans :=
  .next (
    if s.sec.change ≠ 2 then s
    else
      let s := (List.range 8).foldl (fun s k => s.fillDone k) s
      if (List.range 8).any (fun k => (s.stk k).filling) then s
      else
      let stop := s.sec.stop
      let s := s.setSec { s.sec with state := 0, tdi := 0, change := 0, stop := false, res := 0, done := true, shut := false }
      let s := s.event .sec 0 0
      if stop then s.send (.done 7 0) else s)

/-! SPDM (R390 to R393). Messages: ERROR codes of SPDM 1.2, InvalidRequest 1 and Busy 3. -/

def State.session (s : State) (sid : Nat) : Option Session := s.sec.sessions.find? (fun x => x.sid = sid)

/-- A message of session `sid` has come. -/
def State.touch (s : State) (sid : Nat) : State :=
  s.setSec { s.sec with sessions := s.sec.sessions.map (fun x => if x.sid = sid then { x with last := s.ftime } else x) }

/-- A request inside a session: an unknown session is answered with ERROR. -/
def State.inSession (s : State) (sid : Nat) (k : Session → State → State) : State :=
  if !s.umcUp then s
  else match s.session sid with
  | none => s.send (.spdmError sid 1)
  | some x => k x (s.touch sid)

/-- A session ends and its secrets are erased (R392). -/
def State.endSess (s : State) (sid : Nat) : State :=
  s.setSec { s.sec with
    sessions := s.sec.sessions.filter (fun x => x.sid ≠ sid), ownerSid := if s.sec.ownerSid = some sid then none else s.sec.ownerSid }

/-- Bytes of a number, least significant first. -/
def keyBytes (n v : Nat) : List Byte := (List.range n).map (fun i => BitVec.ofNat 8 (v / 2 ^ (8 * i)))

/-- Certificate slot 0 holds the chain; slots 1 to 7 are empty (R391). -/
def execGetCertificate (slot : W4) (s : State) : Ans :=
  .next (if !s.umcUp then s else if slot = 0 then s.send (.certificate 0) else s.send (.spdmError 0 1))

def execChallenge (slot : W4) (nonce : Nat) (s : State) : Ans :=
  .next (
    if !s.umcUp then s
    else if slot = 0 then s.send (.challengeAuth 0 nonce (Config.ecdsaSign 0 (keyBytes 32 nonce)))
    else s.send (.spdmError 0 1))

/-- Measurement `i`: what it measures is kept to the part for 1 to 7 (assumption 7); 8 is the tenancy. -/
def State.measurement (s : State) (i : Nat) : Nat :=
  if i = 8 then
    let own := match s.sec.owner with
      | some k => keyBytes 48 (Config.sha384 (keyBytes 96 k))
      | none => keyBytes 48 0
    Config.sha384 (keyBytes 1 s.sec.state ++ keyBytes 4 (s.peek .sec 0 0x10C) ++ own ++ keyBytes 1 s.sec.tdi)
  else Config.measured i s.boot.image s.boot.svn

/-- GET_MEASUREMENTS: index 0 asks for how many there are, 0xFF for all. -/
def execGetMeasurements (idx nonce : Nat) (s : State) : Ans :=
  .next (
    if !s.umcUp then s
    else
      let vals : Option (List Nat) :=
        if idx = 0 then some [8] else if idx = 0xFF then some ((List.range 8).map (fun i => s.measurement (i + 1)))
        else if idx ≤ 8 then some [s.measurement idx] else none
      match vals with
      | none => s.send (.spdmError 0 1)
      | some v => s.send (.measurements idx nonce v (Config.ecdsaSign 0 (keyBytes 32 nonce ++ v.flatMap (keyBytes 48)))))

/-- KEY_EXCHANGE: up to four sessions over both transports. -/
def execKeyExchange (sid : Nat) (doe : Bool) (pub : Nat) (s : State) : Ans :=
  .next (
    if !s.umcUp then s
    else if 4 ≤ s.sec.sessions.length then s.send (.spdmError sid 3)
    else if (s.session sid).isSome then s.send (.spdmError sid 1)
    else
      let n := s.sec.draws + 1
      let s := s.setSec { s.sec with
        draws := n, sessions := s.sec.sessions ++ [⟨sid, doe, Config.ecdh n pub, 0, s.ftime⟩] }
      s.send (.keyExchangeRsp sid (Config.random n)))

def execEndSession (sid : Nat) (s : State) : Ans :=
  .next (s.inSession sid (fun _ s => (s.endSess sid).send (.done 1 sid)))

def execHeartbeat (sid : Nat) (s : State) : Ans := .next (s.inSession sid (fun _ s => s.send (.done 2 sid)))

def execKeyUpdate (sid : Nat) (s : State) : Ans :=
  .next (s.inSession sid (fun _ s =>
    (s.setSec { s.sec with sessions := s.sec.sessions.map (fun x =>
      if x.sid = sid then { x with updates := x.updates + 1, secret := Config.hkdf x.secret [] } else x) }).send (.done 3 sid)))

/-- SESSION_EXPIRY: no message for 60 s. -/
def execSessionExpiry (sid : Nat) (s : State) : Ans :=
  .next (match s.session sid with
    | some x => if 60000000000 ≤ s.ftime - x.last then s.endSess sid else s
    | none => s)

/-- SET_OWNER (R393). -/
def execSetOwner (sid key : Nat) (s : State) : Ans :=
  .next (s.inSession sid (fun _ s =>
    if s.sec.state = 0 then
      (s.setSec { s.sec with state := 1, owner := some (key % 2 ^ 768), ownerSid := some sid }).send (.done 4 sid)
    else s.send (.spdmError sid 1)))

/-! IDE and TDISP (R394, R395). -/

/-- IDE_KM programs or refreshes a stream's keys over a session on DOE. -/
def execIdeKm (sid : Nat) (stream : Fin3) (s : State) : Ans :=
  .next (s.inSession sid (fun x s =>
    if x.doe then
      (s.setSec { s.sec with ide := SMap.upd 0 s.sec.ide stream.val (· + 1) }).send (.done 5 sid)
    else s.send (.spdmError sid 1)))

/-- The TDI enters ERROR: launches end with ABORTED, their records are discarded, every ring becomes DISABLED. -/
def State.tdiFail (s : State) : State :=
  if s.sec.tdi = 3 then s
  else
    let s := s.setSec { s.sec with tdi := 3 }
    ((List.range 64).foldl (fun s t => s.endLaunch t 0x12 0) s).copiesKill.ringsKill

/-- IDE_INTEGRITY_FAILURE: a received TLP of an active stream fails. -/
def execIdeIntegrityFailure (s : State) : Ans := .next (if s.sec.ide.isEmpty then s else s.tdiFail)

/-- TDI_ERROR: frozen configuration has changed. -/
def execTdiError (s : State) : Ans := .next (if s.sec.tdi = 1 ∨ s.sec.tdi = 2 then s.tdiFail else s)

/-- LOCK_INTERFACE: only while OWNED, and only from the owner session. -/
def execLockInterface (sid : Nat) (s : State) : Ans :=
  .next (s.inSession sid (fun _ s =>
    if s.sec.state = 1 ∧ s.sec.ownerSid = some sid ∧ s.sec.tdi = 0 then (s.setSec { s.sec with tdi := 1 }).send (.done 6 sid)
    else s.send (.spdmError sid 1)))

/-- TDI_RUN: from CONFIG_LOCKED. -/
def execTdiRun (sid : Nat) (s : State) : Ans :=
  .next (s.inSession sid (fun _ s =>
    if s.sec.tdi = 1 then (s.setSec { s.sec with tdi := 2 }).send (.done 8 sid) else s.send (.spdmError sid 1)))

/-- STOP_INTERFACE runs a tenant change and is answered at its end. -/
def execStopInterface (s : State) : Ans := .next (if s.umcUp then s.changeStart true else s)

/-! Content keys (R396 to R398). -/

def State.ckAddr (s : State) : Nat := s.regN .sec 0 0x114 + 2 ^ 32 * s.regN .sec 0 0x118

/-- LOAD of slot `n` begins; a command that comes while one runs does nothing. -/
def State.ckStart (s : State) (n : Nat) : State := if s.sec.ckCmd.isSome then s else s.setSec { s.sec with ckCmd := some n }
def execCkLoad (n : Fin8) (s : State) : Ans := .next (s.ckStart n.val)

/-- A command in the copy engine names slot `n`. -/
def State.ckNamed (s : State) (n : Nat) : Bool := s.fe.copies.any (fun c => C.op c.w != 2 && C.ckey c.w == n + 1)

/-- The manifest as a byte source: this device's memory, or, from another device, free bytes (assumption 6). -/
def State.mfByte (s : State) (i : Nat) : Nat :=
  let a := s.ckAddr
  if s.isOwn a then s.memGetN 1 (localOf a + i) else lineByte (Config.freeLine (s.freeCtr + i / 128)) (i % 128)

def mfN (f : Nat → Nat) (o : Nat) : Nat → Nat
  | 0 => 0
  | n + 1 => f o + 256 * mfN f (o + 1) n

/-- The bytes of a manifest that a LOAD reads: its header, and then as many as the header says. -/
def State.ckLen (s : State) : Nat :=
  let f := s.mfByte
  let len := 0xB0 + 48 * mfN f 0x14 2 + 96 * mfN f 0x06 2 + 96
  if 65536 < len then 0xB0 else len

/-- A manifest in this device's memory can be read. -/
def State.ckReady (s : State) : Bool :=
  !s.isOwn s.ckAddr || (s.memReady (localOf s.ckAddr) 0xB0 && s.memReady (localOf s.ckAddr) s.ckLen)

/-- The result of a LOAD: the RESULT code of the first failing check, or the slot's new content with MF_SEQ. -/
inductive CkRes where
  | fail (code : Nat)
  | ok (x : CkSlot) (seq : Nat)
  deriving DecidableEq, Repr

def State.ckCheck (s : State) (n : Nat) : CkRes :=
  let f := s.mfByte
  let nl := mfN f 0x14 2
  let nd := mfN f 0x06 2
  let wset := mfN f 0x08 8
  let seq := mfN f 0x10 4
  let dev := 0xB0 + 48 * nl
  let len := dev + 96 * nd + 96
  match s.sec.state == 1, s.sec.owner with
  | true, some key =>
    if s.ckNamed n then .fail 7
    else if mfN f 0 4 ≠ 0x31464D44 ∨ mfN f 4 2 ≠ 1 ∨ nd = 0 ∨ 1024 < nd ∨ nl = 0 ∨ 1024 < nl ∨ 65536 < len then .fail 2
    else if !Config.ecdsaVerify key ((List.range (len - 96)).map (fun i => BitVec.ofNat 8 (f i))) (mfN f (len - 96) 96) then .fail 3
    else match (List.range nd).find? (fun i => mfN f (dev + 96 * i) 2 == s.devId && mfN f (dev + 96 * i + 8) 16 == devFp) with
    | none => .fail 4
    | some i =>
      let known := s.sec.rollback.find? (fun r => r.1 = wset)
      let old := match known with
        | some r => decide (seq < r.2)
        | none => decide (16 ≤ s.sec.rollback.length)
      if old then .fail 5
      else
        let z := Config.ecdh 0 (mfN f 0x20 96)
        let kek := Config.hkdf z (keyBytes 8 wset ++ keyBytes 16 devFp)
        match Config.keyUnwrap kek (mfN f (dev + 96 * i + 24) 72) with
        | none => .fail 6
        | some k => .ok ⟨wset, k, mfN f 0x80 48, (List.range nl).map (fun e => mfN f (0xB0 + 48 * e) 48)⟩ seq
  | _, _ => .fail 1

/-- RESULT of SEC_CK_STAT. -/
def State.ckResult (s : State) (code : Nat) : State := s.setField .sec 0 0x11C 7 4 code

/-- CK_LOAD_END, once the manifest can be read. -/
def execCkLoadEnd (s : State) : Ans :=
  .next (match s.sec.ckCmd with
    | none => s
    | some n =>
      if 8 ≤ n ∨ !s.ckReady then s
      else
      let r := s.ckCheck n
      let s := if s.isOwn s.ckAddr then s.memTouch s.ckLen (localOf s.ckAddr) else { s with freeCtr := s.freeCtr + 512 }
      let s := s.setSec { s.sec with ckCmd := none }
      match r with
      | .fail c => ((s.ckResult c).addReg .sec 0 0x120 1).event .sec 0 1
      | .ok x seq =>
        (s.setSec { s.sec with
          cks := SMap.put none s.sec.cks n (some x)
          rollback := s.sec.rollback.filter (fun r => r.1 ≠ x.wset) ++ [(x.wset, seq)] }).ckResult 0)

/-- DROP erases a slot once no command names it; until then it stays under way (slot number plus 8), and the command is given
again. -/
def State.ckDropOp (s : State) (n : Nat) : State :=
  if s.sec.ckCmd.isSome ∧ s.sec.ckCmd ≠ some (n + 8) then s
  else if s.ckNamed n then s.setSec { s.sec with ckCmd := some (n + 8) }
  else (s.setSec { s.sec with cks := SMap.put none s.sec.cks n none, ckCmd := none }).ckResult 0

def execCkDrop (n : Fin8) (s : State) : Ans := .next (s.ckDropOp n.val)

/-- A write of SEC_CK_CMD: an operation other than LOAD and DROP does nothing. -/
def State.ckCmdWrite (s : State) (v : Nat) : State :=
  match bitsN v 1 0 with
  | 1 => s.ckStart (bitsN v 6 4)
  | 2 => s.ckDropOp (bitsN v 6 4)
  | _ => s

end Sys2Proof.Machine
end

