-- ==== Sys2Proof/Machine/RegWrite.lean ====
section
/-! DEFINITION. What a write of a register does (R16, R17, R467, R470, R471, R473 to R478, R481, R482 and the register tables
of every chapter). -/

namespace Sys2Proof.Machine

/-- A write by the access codes of R16: RW bits take the value, W1C bits clear where it is 1. -/
def State.plainWrite (s : State) (b : Blk) (n off : Nat) (v : W32) : State :=
  match regSpec b off with
  | none => s
  | some r =>
    let rw := BitVec.ofNat 32 r.rw
    s.setReg b n off (((s.reg b n off &&& ~~~rw) ||| (v &&& rw)) &&& ~~~(v &&& BitVec.ofNat 32 r.w1c))

/-! Header registers (R476 to R478). -/

def State.anyRing (s : State) : Bool := s.fe.rings.any (fun e => e.2.state != 0)

/-- COMPAT of a page. -/
def State.setCompat (s : State) (pg : Nat) (c : Bool) : State := { s with compat := SMap.put s.strap s.compat pg c }

/-- A write of PAGE_CTRL; one that changes COMPAT of the FE page while a ring is enabled is ignored (R477). -/
def State.pageCtrlWrite (s : State) (b : Blk) (n : Nat) (v : W32) : State :=
  let c := v.getLsbD 0
  if b = .fe ∧ c ≠ s.compatOf (b.page n) ∧ s.anyRing then s.ctlErr
  else (s.setReg b n Off.pageCtrl (v &&& 0x07FF0100)).setCompat (b.page n) c

/-- A write of EVT_PEND with the events `ev` of the same cycle (R478): one message when an event sets a bit that read 0, or
that the write clears. -/
def State.evtClear (s : State) (b : Blk) (n : Nat) (v ev : W32) : State :=
  let old := s.reg b n Off.evtPend
  let new := ev &&& ~~~(s.reg b n Off.evtMask)
  let s := s.orReg b n Off.evtRaw ev
  let s := s.setReg b n Off.evtPend ((old &&& ~~~v) ||| new)
  let ctl := s.regN b n Off.pageCtrl
  if (new &&& (~~~old ||| v)) != 0 && bitN ctl 8 then s.msix (bitsN ctl 26 16) else s

/-- GL_COMPAT.ALL (R481, R482). -/
def State.compatAll (s : State) (c : Bool) : State :=
  let s := (s.presentPages.filter (fun p => p.2.1 != .fe)).foldl (fun s p => s.setCompat p.1 c) s
  if s.anyRing then s.orReg .gl 0 Off.glCtrl 0x100 else s.setCompat (Blk.page .fe 0) c

/-! GL. -/

/-- GL_HWIN_BASE and GL_BAR4_BASE while the TDI is locked or runs (R473). -/
def State.winWrite (s : State) (off : Nat) (v : W32) : State :=
  if s.sec.tdi = 1 ∨ s.sec.tdi = 2 then s.orReg .gl 0 Off.glCtrl 0x100
  else if off = 0x118 ∧ 383 < v.toNat % 512 then s
  else s.plainWrite .gl 0 off v

/-- GL_PART_CTL: RESET, else LIVE. -/
def State.partCtlWrite (s : State) (p : Nat) (v : W32) : State :=
  if v.getLsbD 1 then (if (s.part p).state = 1 then s.startRecovery p 0 false none else s.partErr)
  else if v.getLsbD 0 then s.partUp p else s.partDown p

/-! FE. -/

def State.seqCfgErr (s : State) : State := s.orReg .fe 0 0x718 0x200

/-- FE_RING_TBL_LO and HI (R280). -/
def State.ringTblWrite (s : State) (hi : Bool) (v : W32) : State :=
  if s.anyRing then s.ctlErr else s.plainWrite .fe 0 (if hi then 0x104 else 0x100) v

/-- FE_RING_CTL (R249). -/
def State.ringCtlWrite (s : State) (v : Nat) : State :=
  let r := bitsN v 14 0
  match bitsN v 18 16 with
  | 1 => s.ringEnableOp r
  | 2 => s.ringDisableOp r
  | 3 => s.ringResumeOp r
  | _ => s

/-- FE_SEQ_BASE_LO, FE_SEQ_BASE_HI, FE_SEQ_CFG (R225). -/
def State.seqTblWrite (s : State) (off : Nat) (v : W32) : State :=
  if !s.pools.isEmpty then s.seqCfgErr
  else if off = 0x708 ∧ 16384 < v.toNat % 2 ^ 15 then s
  else s.plainWrite .fe 0 off v

/-- FE_SEQ_CMD. -/
def State.seqCmdWrite (s : State) (v : Nat) : State :=
  let q := bitsN v 17 4
  if s.fe.seqOp.isSome then s.orReg .fe 0 0x718 0x100
  else match bitsN v 3 0 with
  | 0 => s
  | 1 => s.seqOpen q
  | 2 => s.seqClose q
  | 3 => s.seqRebuild q (bitsN (s.regN .fe 0 0x714) 22 0)
  | 4 => s.seqSwitch q
  | op => s.seqBad op

/-- Two carve-outs overlap. -/
def poolsMeet (a b : KvPool) : Bool :=
  decide (a.base8 * 8 < b.base8 * 8 + 8 * b.part) && decide (b.base8 * 8 < a.base8 * 8 + 8 * a.part)

/-- What a write may leave in a pool's configuration (R197): the ranges bind where it leaves EN set, the other cases always. -/
def State.kvpOk (s : State) (n : Nat) (p : KvPool) : Bool :=
  (!p.en || (p.part != 0 && decide (p.part ≤ 48) && p.np != 0 && p.frames != 0))
    && decide (2 ^ 33 * p.base8 + 2 ^ 30 * (8 * p.part) ≤ s.hbmEnd)
    && (List.range 4).all (fun m => m == n || !(s.kvPool m).en || !poolsMeet p (s.kvPool m))
    && decide (p.endOff s.seqSlots ≤ 2 ^ 30 * p.part)

/-- Write the owner table of every part with zeros. -/
def State.zeroOwners (s : State) (p : KvPool) : State :=
  (List.range 8).foldl (fun s k =>
    (List.range (cdiv (4 * p.frames) 128)).foldl (fun s i => s.hbmWrite (p.partAt k + p.ownerOff s.seqSlots + 128 * i) 0 false) s) s

/-- FE_KVP_CFG_n and FE_KVP_FRAMES_n (R197). -/
def State.kvpWrite (s : State) (n : Nat) (frames : Bool) (v : W32) : State :=
  let old := s.kvPool n
  let t := s.plainWrite .fe 0 (0x740 + 8 * n + (if frames then 4 else 0)) v
  let p := t.kvPool n
  if (old.en && s.poolOwned old) || !s.kvpOk n p then s.seqCfgErr
  else if p.en && (!old.en || p.base8 != old.base8 || p.part != old.part || p.np != old.np || p.frames != old.frames) then t.zeroOwners p
  else t

/-- FE_GRP_BASE_LO and HI (R331). -/
def State.grpWrite (s : State) (hi : Bool) (v : W32) : State :=
  if (List.range s.seqSlots).any (fun q => (s.seqGet q).state != 0) then s.seqCfgErr
  else s.plainWrite .fe 0 (if hi then 0x784 else 0x780) v

def State.feWrite (s : State) (off : Nat) (v : W32) : State :=
  let x := v.toNat
  match off with
  | 0x100 => s.ringTblWrite false v
  | 0x104 => s.ringTblWrite true v
  | 0x108 => s.ringCtlWrite x
  | 0x110 => if x < 1000 ∨ 60000000 < x then s else s.plainWrite .fe 0 off v
  | 0x114 => if 64 < bitsN x 7 0 + bitsN x 15 8 + bitsN x 23 16 + bitsN x 31 24 then s else s.plainWrite .fe 0 off v
  | 0x700 => s.seqTblWrite off v
  | 0x704 => s.seqTblWrite off v
  | 0x708 => s.seqTblWrite off v
  | 0x710 => s.seqCmdWrite x
  | 0x780 => s.grpWrite false v
  | 0x784 => s.grpWrite true v
  | _ => if 0x740 ≤ off ∧ off < 0x760 then s.kvpWrite ((off - 0x740) / 8) (off % 8 == 4) v else s.plainWrite .fe 0 off v

/-! PW (R358): a field out of its range keeps its value. -/

def State.pwWrite (s : State) (off : Nat) (v : W32) : State :=
  let x := v.toNat
  match off with
  | 0x100 =>
    let lim := bitsN x 10 0
    let flo := bitsN x 26 16
    let s := if 300 ≤ lim ∧ lim ≤ 1500 then s.setField .pw 0 off 10 0 lim else s
    if 150 ≤ flo ∧ flo ≤ 1500 then s.setField .pw 0 off 26 16 flo else s
  | 0x104 => if x % 2 ^ 16 < 100 then s else s.plainWrite .pw 0 off v
  | 0x148 =>
    let u := bitsN (s.regN .pw 0 0x140) 4 0
    let f := x % 64
    if 16 ≤ f ∧ f ≤ 60 then s.setPwUmb u { s.pwUmb u with fmax := f } else s
  | _ => s.plainWrite .pw 0 off v

/-! PL (R329, R330). -/

/-- PL_MEADOW_CFG: a new TIME_MASTER ends what a split chose; setting PPS_EN starts the edges anew (R323, R460). -/
def State.meadowWrite (s : State) (v : W32) : State :=
  let was := s.regN .pl 0 0x184
  let s := s.plainWrite .pl 0 0x184 v
  let x := s.regN .pl 0 0x184
  let s := if bitsN x 25 16 ≠ bitsN was 25 16 then
      s.setFab { s.fab with master := s.devId == bitsN x 25 16 && s.fab.mstate != 2, newMaster := none }
    else s
  if bitN x 28 && !bitN was 28 then s.setFab { s.fab with ppsAt := 0 } else s

/-- PL_MCT_ENTRY: a rewritten tree counts afresh (assumption 28). -/
def State.mctWrite (s : State) (v : W32) : State :=
  let t := bitsN (s.regN .pl 0 0x1A8) 5 0
  let f := s.fab
  s.setFab { f with
    mct := SMap.put 0xF f.mct t (v &&& 0x1FFFF), mcOwn := SMap.put 0 f.mcOwn t 0, mcSent := SMap.put 0 f.mcSent t 0
    mcChild := SMap.eraseIf (fun k => k / 16 == t) f.mcChild, mcSentAt := SMap.put 0 f.mcSentAt t 0
    mcBroken := SMap.put false f.mcBroken t false }

def State.plWrite (s : State) (l off : Nat) (v : W32) : State :=
  match off with
  | 0x104 => s.linkCtrl l v.toNat
  | 0x184 => s.meadowWrite v
  | 0x1A4 => s.setFab { s.fab with routes := SMap.put 0 s.fab.routes (bitsN (s.regN .pl 0 0x1A0) 9 0) (v &&& 0xFFFFFF) }
  | 0x1AC => s.mctWrite v
  | _ => s.plainWrite .pl l off v

/-! HC (R226, R290, R300, R301). -/

/-- HC_KV_CMD (R204). -/
def State.kvCmdWrite (s : State) (k v : Nat) : State :=
  let n := bitsN v 3 2
  let own := bitsN v 23 4
  if bitsN v 1 0 = 0 then s
  else if !s.stkServes k then s.kvHeld k .page
  else match bitsN v 1 0 with
  | 1 => (s.kvAllocOp k .page n own).2
  | 2 => s.kvFreeOp k .page n own (bitsN (s.regN .hc k 0x804) 19 0)
  | _ => s.kvRefuse k .page

def State.hcWrite (s : State) (k off : Nat) (v : W32) : State :=
  match off with
  | 0x180 => if v.toNat % 256 = 0 ∨ 64 < v.toNat % 256 then s else s.plainWrite .hc k off v
  | 0x200 => s.mrgWrite k v.toNat
  | 0x240 => if v.getLsbD 0 then s.fillStart k else s
  | 0x800 => s.kvCmdWrite k v.toNat
  | _ => s.plainWrite .hc k off v

/-! UB (R185, R195). -/

/-- Every descriptor signalled to the channel has completed; a stopped channel takes a new configuration too. -/
def State.chanIdle (s : State) (u c : Nat) : Bool :=
  let um := s.um u
  let ch := um.chan c
  ch.eng.stopped || ch.size == 0
    || (ch.eng.queue.isEmpty && ch.eng.fly.isEmpty && !waitOk (um.tally ch.bell) (ch.b + BitVec.ofNat 32 ch.next + 1))

/-- UB_DMA_BASE_c or, with `bell`, UB_DMA_BELL_c. A SIZE that R195 does not allow is ignored. -/
def State.dmaCfg (s : State) (u c : Nat) (bell : Bool) (v : W32) : State :=
  let sz := bitsN v.toNat 28 16
  if !s.chanIdle u c ∨ (!bell ∧ (sz % 4 ≠ 0 ∨ 4096 < sz)) then s
  else
    let s := s.plainWrite .ub u (0x280 + 16 * c + (if bell then 4 else 0)) v
    let um := s.um u
    let ch := um.chan c
    let i := if bell then v.toNat % 256 else ch.bell
    let ch' : Chan := { ch with
      line := if bell then ch.line else bitsN v.toNat 15 0, size := if bell then ch.size else sz, bell := i
      b := um.tally i, next := 0, eng := { Eng.reset with nextId := ch.eng.nextId } }
    (s.setUm u (um.setChan c ch')).setReg .ub u (Off.dmaDone + 16 * c) 0

def State.ubWrite (s : State) (u off : Nat) (v : W32) : State :=
  if 0x280 ≤ off ∧ off < 0x300 ∧ off % 16 < 8 then s.dmaCfg u ((off - 0x280) / 16) (off % 16 == 4) v
  else s.plainWrite .ub u off v

/-! FL (R162, R173, R193). -/

/-- FL_FEED_CFG0 or, with `hi`, FL_FEED_CFG1: combined with the other word as it is held. -/
def State.feedCfgWrite (s : State) (f e : Nat) (hi : Bool) (v : W32) : State :=
  let fd := (s.fl f).feed e
  if !fd.idle then s
  else
    let o0 := fd.base + 2 ^ 16 * fd.slots
    let o1 := fd.bl + 2 ^ 8 * b2n fd.patch
    if hi then s.cfgFeed f e o0 (v &&& 0x17F).toNat else s.cfgFeed f e (v &&& 0xFFFF7FFF).toNat o1

def State.flWrite (s : State) (f off : Nat) (v : W32) : State :=
  if 0x400 ≤ off ∧ off < 0x500 then
    (if off % 16 < 8 then s.feedCfgWrite f ((off - 0x400) / 16) (off % 16 == 4) v else s)
  else if 0x500 ≤ off ∧ off < 0x540 then
    s.modFl f (fun fl => { fl with credit := SMap.put (0 : W32) fl.credit ((off - 0x500) / 4) (v &&& 0xBFFFFFFF) })
  else s.plainWrite .fl f off v

/-! The whole map. -/

def State.umcWrite (s : State) (off : Nat) (v : W32) : State :=
  match off with
  | 0x11C => s.ackRecs (fun n => decide (n < v.toNat))
  | 0x148 => if v.getLsbD 0 then s.snapTrigger 2 none else s
  | _ => s.plainWrite .umc 0 off v

def State.glWrite (s : State) (off : Nat) (v : W32) : State :=
  if 0x400 ≤ off ∧ off < 0x480 then
    (if off % 8 = 0 then s.partMaskWrite ((off - 0x400) / 8) v else s.partCtlWrite ((off - 0x400) / 8) v)
  else match off with
  | 0x104 => if v.getLsbD 8 then s.compatAll (v.getLsbD 9) else s
  | 0x110 => s.winWrite off v
  | 0x114 => s.winWrite off v
  | 0x118 => s.winWrite off v
  | 0x484 => if v.getLsbD 0 then s.devStart false else s
  | _ => s.plainWrite .gl 0 off v

def State.secWrite (s : State) (off : Nat) (v : W32) : State :=
  match off with
  | 0x104 => if v.getLsbD 0 then s.changeCmd else s
  | 0x110 => s.ckCmdWrite v.toNat
  | _ => s.plainWrite .sec 0 off v

/-- TR_BASE while trace runs is ignored and sets CFG_ERR (R415). -/
def State.trWrite (s : State) (off : Nat) (v : W32) : State :=
  match off with
  | 0x100 => if s.trOn then s.orReg .tr 0 0x118 2 else s.plainWrite .tr 0 off v
  | 0x104 => if s.trOn then s.orReg .tr 0 0x118 2 else s.plainWrite .tr 0 off v
  | 0x108 => s.trCfgWrite v.toNat
  | 0x110 => s.trTailWrite v.toNat
  | _ => s.plainWrite .tr 0 off v

/-- MSI-X table and pending bits (R475): unmasking a vector sends its pending message; a change while the TDI is locked
moves it to ERROR (R395). -/
def State.msixWrite (s : State) (a : Nat) (v : W32) : State :=
  if 0x3008000 ≤ a then s
  else if s.sec.tdi = 1 ∨ s.sec.tdi = 2 then (if s.rawReg a = v then s else s.tdiFail)
  else if a % 16 ≠ 12 then s.setRaw a v
  else
    let vec := a / 16 % 2048
    let k := 0x3008000 + 4 * (vec / 32)
    let s := s.setRaw a (v &&& 1)
    if (s.rawReg k).getLsbD (vec % 32) && !v.getLsbD 0 then
      (s.setRaw k (s.rawReg k &&& ~~~(BitVec.ofNat 32 (2 ^ (vec % 32))))).msix vec
    else s

/-- Write a register of a present page. -/
def State.pageWrite (s : State) (b : Blk) (n off : Nat) (v : W32) : State :=
  if (regSpec b off).isNone ∨ (s.pageHeld b n ∧ 0x018 ≤ off) then s
  else if off = Off.pageCtrl then s.pageCtrlWrite b n v
  else if off = Off.evtPend then s.evtClear b n v 0
  else if off < 0x100 then s.plainWrite b n off v
  else match b with
  | .gl => s.glWrite off v
  | .fe => s.feWrite off v
  | .umc => s.umcWrite off v
  | .pw => s.pwWrite off v
  | .sec => s.secWrite off v
  | .tr => s.trWrite off v
  | .ct => s
  | .die => s
  | .hc => s.hcWrite n off v
  | .pl => s.plWrite n off v
  | .ub => s.ubWrite n off v
  | .fl => s.flWrite n off v

/-- Write the register at BAR0 offset `a` on behalf of requester `q` (R467). -/
def State.regWrite (s : State) (q : Req) (a : Nat) (v : W32) : State :=
  if 0x3000000 ≤ a ∧ a < 0x3008100 then s.msixWrite a v
  else match pageOf (a / 4096) with
  | none => s.addrErr q (0x18000000000 + a) true
  | some (b, n) => if s.pagePresent (a / 4096) then (s.ungatePage b n).pageWrite b n (a % 4096) v else s.addrErr q (0x18000000000 + a) true

/-- Register accesses of the pages above. -/
def regIO : RegIO := ⟨fun s a => s.regRead a, fun s q a v => s.regWrite q a v⟩

/-- Before READY the host may write the PL, TR and SEC pages and configure rings; LIVE is refused (R444). -/
def State.hostWriteOk (s : State) (a : Nat) : Bool :=
  s.boot.state == 7 || (match pageOf (a / 4096) with
    | some (.pl, _) => true
    | some (.tr, _) => true
    | some (.sec, _) => true
    | some (.fe, _) => a % 4096 == 0x100 || a % 4096 == 0x104 || a % 4096 == 0x108
    | some (.gl, _) => decide (0x400 ≤ a % 4096) && decide (a % 4096 < 0x480) && decide (a % 8 = 4)
    | _ => false)

/-! Commands. -/

/-- REGISTER_WRITE: a host write through BAR0 with its byte enables; its payload counts on CT_PCIE_RX (R414). It waits behind a
posted write that a stack holds (R239); it needs the T bit while the TDI runs (R395). -/
def execRegisterWrite (x : HostAt26) (be : W4) (v : W32) (s : State) : Ans :=
  .next (
    let a := x.off.toNat / 4 * 4
    let s := s.cnt .ct 0 0x100 (popN 4 be.toNat)
    if be = 0 ∨ !s.hostWriteOk a ∨ s.fe.hostHeld ∨ !s.takesT x.t then s
    else if be = 15 then s.regWrite reqHost a v
    else s.regPartial reqHost a be.toNat)

/-- REG_WRITE: a management message writes a register of a PL page, or TR_CFG (R445). -/
def execRegWrite (off : W26) (v : W32) (s : State) : Ans :=
  .next (
    let a := off.toNat / 4 * 4
    if !s.umcUp then s
    else match pageOf (a / 4096) with
    | some (.pl, _) => s.regWrite ⟨.umc, 0, 0xFF1⟩ a v
    | _ => if a = 0x5108 then s.regWrite ⟨.umc, 0, 0xFF1⟩ a v else s.send (.refused 2 0))

/-- A host write of register `off` of page `b`, `n` does `k` where the unit is there, whose umbel runs from then on (R337), is an
address error where it is not (R13, R467), and is ignored while the page is held. -/
def State.onPage (s : State) (b : Blk) (n off : Nat) (k : State → State) : State :=
  if !s.pagePresent (b.page n) then s.addrErr reqHost (0x18000000000 + regOff b n off) true
  else if s.pageHeld b n then s
  else k (s.ungatePage b n)

def execFeedCfgWrite (f : FloretId) (e : FeedId) (hi : Bool) (v : W32) (s : State) : Ans :=
  .next (s.onPage .fl f.val (0x400 + 16 * e.val + 4 * b2n hi) (fun s => s.feedCfgWrite f.val e.val hi v))

def execDmaCfgWrite (u : UmbelId) (c : ChannelId) (bell : Bool) (v : W32) (s : State) : Ans :=
  .next (s.onPage .ub u.val (0x280 + 16 * c.val + 4 * b2n bell) (fun s => s.dmaCfg u.val c.val bell v))

def execKvpCfgWrite (n : PoolId) (frames : Bool) (v : W32) (s : State) : Ans := .next (s.kvpWrite n.val frames v)

def execSeqTableCfgWrite (which : Fin3) (v : W32) (s : State) : Ans := .next (s.seqTblWrite (0x700 + 4 * which.val) v)

def execRingTblWrite (hi : Bool) (v : W32) (s : State) : Ans := .next (s.ringTblWrite hi v)

def execGrpBaseWrite (hi : Bool) (v : W32) (s : State) : Ans := .next (s.grpWrite hi v)

def execCompatWrite (page : PageIx) (v : W32) (s : State) : Ans :=
  .next (match pageOf page.val with
    | some (b, n) => if s.pagePresent page.val then (s.ungatePage b n).pageCtrlWrite b n v else s.addrErr reqHost (0x18000000000 + regOff b n Off.pageCtrl) true
    | none => s.addrErr reqHost (0x18000000000 + 4096 * page.val + Off.pageCtrl) true)

def execGlCompatAll (v : Bool) (s : State) : Ans := .next (s.compatAll v)

def execEvtPendClear (page : PageIx) (v : W32) (coincident : W32) (s : State) : Ans :=
  .next (match pageOf page.val with
    | some (b, n) => s.onPage b n Off.evtPend (fun s => s.evtClear b n v coincident)
    | none => s.addrErr reqHost (0x18000000000 + 4096 * page.val + Off.evtPend) true)

end Sys2Proof.Machine
end

