-- ==== Sys2Proof/Machine/LineCmds.lean ====
section
/-! DEFINITION. Lines and packets as commands (chapter "Visibility and Ordering", R228 to R247; R157, R168, R216, R314, R319,
R400, R468): each access here meets the registers through `regIO`. -/

namespace Sys2Proof.Machine

/-! The copy engine's lines under a multicast tree (R319, R320, R400). -/

/-- Copies of line `i` of copy command `d` to the children of its tree, as it was read: still encrypted under a content key. -/
def State.copyCast (s : State) (w : Nat) (d : Nat) (a : Nat) (raw : Held) : State :=
  let t := D.tree w - 1
  let ct := match s.copy d with
    | some c => C.op c.w != 2 && C.ckey c.w != 0
    | none => false
  let b : Body := .mc (t + 1) (localOf a) raw.line raw.poison ct (BitVec.ofNat 32 (D.tally w % 2 ^ 18))
  (s.mcOne t).mcSend t s.devId 64 0 s.ftime 0 false b

/-- Write a line of the copy engine: the own line, then its copies. -/
def State.copyLine (s : State) (d i : Nat) (e : Ecc) : State :=
  match s.fe.copyEng.desc d with
  | none => s
  | some q =>
    match (if bitN q.dn i then none else q.lineData i) with
    | none => s
    | some raw =>
      let t := s.engWrite regIO .copy d i e
      let done := match t.fe.copyEng.desc d with
        | some q' => bitN q'.dn i
        | none => false
      if done && D.tree q.w != 0 then t.copyCast q.w d ((t.dstOf .copy q i).headD 0) raw else t

/-- A line of any writer. -/
def State.lineOut (s : State) (g : Agent) (d i : Nat) (e : Ecc) : State :=
  match g with
  | .copy => s.copyLine d i e
  | .dd u => s.ddWrite regIO u d i e
  | _ => s.engWrite regIO g d i e

/-! Lines. -/

def execLineWrite (g : Agent) (d i : Nat) (e : Ecc) (s : State) : Ans := .next (s.lineOut g d i e)
def execLineRead (g : Agent) (d i : Nat) (e : Ecc) (s : State) : Ans := .next (s.engRead regIO g d i e)
def execLineReadReturn (g : Agent) (d i : Nat) (s : State) : Ans := .next (s.engReturn g d i)

def execLineDropReport (g : Agent) (d i : Nat) (s : State) : Ans :=
  .next (match g with
    | .dd u => s.ddDrop u d i
    | _ => s.engDrop g d i)

/-- A line of the delta decoder goes to a patch feed's slot; any other line, where its destination says. -/
def State.lineToFeed (s : State) (g : Agent) (d i : Nat) : Bool :=
  match g with
  | .dd _ => true
  | _ => match (s.eng g).desc d with
    | some q => s.toFeed g q i
    | none => false

/-- FEED_LINE_ARRIVE: a line whose destination is a feed slot arrives there. -/
def execFeedLineArrive (g : Agent) (d i : Nat) (s : State) : Ans :=
  .next (if s.lineToFeed g d i then s.lineOut g d i .clean else s)

def execSorrelScanEnd (x : StackReads) (s : State) : Ans := .next (s.srScan regIO x.unit x.ecc)

/-! Host window (R240, R468). -/

/-- The address lies in the host window. -/
def inWindow (a : Nat) : Bool := decide (0x20000000000 ≤ a) && decide (a < 0x40000000000)

/-- A read of the line at host address `ha` goes out. -/
def State.hostAsk (s : State) (g : Agent) (d i ha : Nat) : State :=
  { s with hostOut := s.hostOut ++ [.read ha g d i s.tdiRuns], hostReads := s.hostReads ++ [⟨g, d, i, ha, 0⟩] }

/-- A read of line number `d` of the local address space by an agent that reads its tables or queries there. -/
def State.hostLook (s : State) (g : Agent) (d i : Nat) : State :=
  let a := 128 * d
  if !inWindow a then s
  else if s.placeOf a = .host then s.hostAsk g d i (s.hostAddr a)
  else s.addrErr (reqOf g) a false

/-- HOST_WINDOW_ACCESS: a read of line `i` of a descriptor, or of line number `d` of the local address space for the front
end or a sorrel unit, goes out as a request; a write as a posted request. Without Bus Master Enable it is an address error. -/
def execHostWindowAccess (g : Agent) (d i : Nat) (s : State) : Ans :=
  .next (match g with
    | .frontEnd => s.hostLook g d i
    | .sorrel _ => s.hostLook g d i
    | _ =>
      match (s.eng g).desc d with
      | none => s
      | some q =>
        match (if s.readable g q i then s.srcOf g q i else none) with
        | some a =>
          if !s.isOwn a || !inWindow (localOf a) then s
          else if s.placeOf (localOf a) = .host then
            (s.hostAsk g d i (s.hostAddr (localOf a))).modDesc g d (fun q => { q with rd := setBitN q.rd i true })
          else s.engRead regIO g d i .clean
        | none =>
          let a := (s.dstOf g q i).headD 0
          if s.isOwn a && inWindow (localOf a) then s.lineOut g d i .clean else s)

/-- The data of a host line reach the front end, for its tables there, or a sorrel unit, for its query lines. Bytes that the device
has written since the read went out stay as written (R240). -/
def State.hostTake (s : State) (r : HostRead) (data : Line) : State :=
  { s with
    hostMem := Memory.writeMasked s.hostMem 128 r.addr data.toNat (fullMask ^^^ r.wr)
    fe := { s.fe with fresh :=
      let e := ((reqOf r.agent).src, r.addr)
      if s.fe.fresh.contains e then s.fe.fresh else s.fe.fresh ++ [e] } }

/-- HOST_READ_COMPLETION: the data of an outstanding read reach the agent that asked: the front end, another device whose READ
came here (R314), or an engine; EP marks the line poisoned. -/
def execHostReadCompletion (g : Agent) (d i : Nat) (data : Line) (ep : Bool) (s : State) : Ans :=
  .next (match s.hostReads.find? (fun r => r.agent == g && r.d == d && r.i == i) with
    | none => s
    | some r =>
      let s : State := { s with hostReads := s.hostReads.erase r }
      let s := s.cnt .ct 0 0x100 128
      match g with
      | .frontEnd => s.hostTake r data
      | .sorrel _ => s.hostTake r data
      | .host => match s.fab.hostRd.find? (fun e => e.1 = d) with
        | some e =>
          let s := s.setFab { s.fab with hostRd := s.fab.hostRd.filter (fun e => e.1 ≠ d) }
          s.answerTo e.2 e.2.token (.data data ep)
        | none => s
      | _ => s.holdLine g d i data ep)

/-! Request packets (R314, R319). -/

def execPktWrite (l : LinkId) (h : PktHdr) (a : W52) (mask : W128) (data : Line) (psn : Bool) (tally : OptW32) (cnt : Bool) (s : State) : Ans :=
  .next (s.pktWrite regIO l.val h a.toNat mask.toNat data psn tally cnt)

def execPktRead (l : LinkId) (h : PktHdr) (a : W52) (s : State) : Ans := .next (s.pktRead regIO l.val h a.toNat)

def execPktSignal (l : LinkId) (h : PktHdr) (tally v : W32) (s : State) : Ans := .next (s.pktSignal l.val h tally v)

def execPktEnd (l : LinkId) (h : PktHdr) (a : W52) (e : FeedId) (s : State) : Ans := .next (s.pktEnd l.val h a.toNat e.val)

def execMcWrite (l : LinkId) (h : PktHdr) (tree : TreeId) (a : W42) (data : Line) (psn ct : Bool) (tally : OptW32) (s : State) : Ans :=
  .next (s.mcWrite regIO l.val h tree.val a.toNat data psn ct tally)

end Sys2Proof.Machine
end

