-- ==== Sys2Proof/Machine/Pins.lean ====
section
/-! DEFINITION. Pins and the host's port (chapter "Signals, Interfaces and Package", R447 to R458; R362, R385, R444, R472,
R473): PERST_N, FLR, configuration requests, BAR4, I3C address assignment, the test port. -/

namespace Sys2Proof.Machine

/-- PERST_N has been low for 1 µs (R449): a running device takes an uncounted device reset. -/
def execPerstNFall (s : State) : Ans :=
  .next (
    let run := decide (3 ≤ s.boot.state) && decide (s.boot.state ≤ 7)
    let s : State := { s with boot := { s.boot with perst := true }, bme := false, mse := false }
    if run && !s.boot.aonLow then s.devStart false else s)

def execPerstNRise (s : State) : Ans := .next { s with boot := { s.boot with perst := false } }

/-- FLR: a tenant change unless the TDI is CONFIG_UNLOCKED (R385), else an uncounted device reset (R450). -/
def execFlr (s : State) : Ans :=
  .next (
    let t := s.sec.tdi
    let s : State := { s with bme := false, mse := false }
    if t ≠ 0 then s.changeStart false else s.devStart false)

/-- CONFIG_REQUEST: Request Retry Status until step 3 ends (R444, R450). What a read returns is the PCIe specification's
matter (a free value, assumption 6). A change of what LOCK_INTERFACE froze moves the TDI to ERROR (R395). -/
def execConfigRequest (q : ConfigReq) (s : State) : Ans :=
  .next (
    let locked := s.sec.tdi == 1 || s.sec.tdi == 2
    let out (s : State) (m : HostMsg) : State := { s with hostOut := s.hostOut ++ [m] }
    if s.boot.perst || s.boot.aonLow then s
    else if s.boot.state < 3 ∨ s.flt.devRst ≠ 0 then out s (.completion 0 4 false .rrs)
    else match q with
    | .read =>
      let r := s.fresh
      out r.2 (.completion (r.1.toNat % 2 ^ 32) 4 false .sc)
    | .command bme mse =>
      if locked && (bme != s.bme || mse != s.mse) then s.tdiFail
      else out { s with bme := bme, mse := mse } (.completion 0 0 false .sc)
    | .bar4Size n =>
      if n < 30 ∨ 39 < n then s
      else if locked && n != s.bar4 then s.tdiFail
      else out { s with bar4 := n } (.completion 0 0 false .sc))

/-! BAR4 (R362, R473). -/

/-- Local address of BAR4 offset `x`. -/
def State.bar4Addr (s : State) (x : Nat) : Nat := 2 ^ 30 * s.regN .gl 0 Off.glBar4 + x

/-- Lines of a read, with their poison; none while a stack holds a line back. -/
def State.bar4Lines (s : State) (e : Ecc) : Nat → Nat → Option (List Line × Bool × State)
  | 0, _ => some ([], false, s)
  | n + 1, a =>
    if s.hbmEnd ≤ a then
      ((s.addrErr reqHost a false).bar4Lines .clean n (a + 128)).map (fun y => (0 :: y.1, y.2.1, y.2.2))
    else if s.hbmReady a && !s.hbmDown a then
      let r := s.hbmRead reqHost a e
      (r.2.bar4Lines .clean n (a + 128)).map (fun y => (r.1.1 :: y.1, r.1.2 || y.2.1, y.2.2))
    else none

/-- BAR4_READ of `len` bytes, at most 4,096: poison sets EP; above the usable range it is an address error. It waits behind a
posted write that a stack holds (R239), and a read dropped at a stack in a die reset gets no answer (R244). -/
def execBar4Read (x : HostAtBar4) (len : Nat) (e : Ecc) (s : State) : Ans :=
  .next (
    if len = 0 ∨ 4096 < len ∨ 2 ^ s.bar4 < x.off + len ∨ s.fe.hostHeld then s
    else if !s.takesT x.t then s.refuseRead len
    else
      let a := s.bar4Addr x.off
      match s.bar4Lines e (cdiv (a % 128 + len) 128) (a / 128 * 128) with
      | none => s
      | some r =>
        let d := packN 1024 (r.1.map (·.toNat)) / 2 ^ (8 * (a % 128)) % 2 ^ (8 * len)
        let s := r.2.2.cnt .ct 0 0x108 len
        { s with hostOut := s.hostOut ++ [.completion d len r.2.1 .sc] })

/-- BAR4_WRITE of the enabled bytes of the line at offset `x`; a poisoned request poisons it. A stack in a die reset drops it
(R244); one that takes no request holds it, and with it what the host sends after it (R239), until a device reset, which alone
brings a HALTED stack back, or, before READY, until the stacks are trained (R298, R371; assumption 37). -/
def execBar4Write (x : HostAtBar4) (mask : W128) (data : Line) (psn : Bool) (e : Ecc) (s : State) : Ans :=
  .next (
    let a := s.bar4Addr x.off / 128 * 128
    if 2 ^ s.bar4 ≤ x.off ∨ s.fe.hostHeld ∨ !s.takesT x.t then s
    else if s.hbmEnd ≤ a then s.addrErr reqHost a true
    else
      let s := s.cnt .ct 0 0x100 (popN 128 mask.toNat)
      if s.hbmDown a then s
      else if !s.hbmReady a then { s with fe := { s.fe with hostHeld := true } }
      else if mask.toNat = fullMask then s.hbmWrite a data psn
      else s.hbmPartial reqHost a mask.toNat data psn e)

/-! Management and test. -/

/-- ENTDAA: the UMC takes a dynamic address, once (R453). -/
def execEntdaa (addr : W7) (s : State) : Ans :=
  .next (if s.umcUp && s.mgmt.addr.isNone then { s with mgmt := { s.mgmt with addr := some addr.toNat } } else s)

/-- Instructions that take the lands from the device (R458). -/
def TapInstr.boundary : TapInstr → Bool
  | .extest => true
  | .extestPulse => true
  | .extestTrain => true
  | .highz => true
  | .clamp => true
  | _ => false

/-- TAP_INSTRUCTION_LOAD: boundary instructions need READY low and no partition LIVE, debug instructions a tenancy that is not
OWNED; BYPASS takes their place. Leaving Test-Logic-Reset wakes the trace and debug domain (R457); in it the domain is gated
when trace is off (R335), and the instruction is IDCODE, as IEEE 1149.1 has it. -/
def execTapInstructionLoad (i : TapInstr) (s : State) : Ans :=
  .next (
    let live := (List.range 16).any (fun p => (s.part p).state == 1)
    if i = .testLogicReset then
      { s with mgmt := { s.mgmt with ir := .idcode, tlr := true }, pw := { s.pw with debugOn := s.trOn } }
    else
      let bad := (TapInstr.boundary i && (s.boot.state == 7 || live)) || (i == .debug && s.sec.state == 1)
      { s with mgmt := { s.mgmt with ir := if bad then .bypass else i, tlr := false }, pw := { s.pw with debugOn := true } })

end Sys2Proof.Machine
end

