-- ==== Sys2Proof/Machine/Dispatch.lean ====
section
/-! DEFINITION. The meaning of every command, one arm per constructor. -/

namespace Sys2Proof.Machine

def exec (i : Instr) (s : State) : Host.Outcome State Fault Refusal :=
  match i with
  | .nop f => Sys2Proof.Machine.execNop f s
  | .halt f => Sys2Proof.Machine.execHalt f s
  | .br f => Sys2Proof.Machine.execBr f s
  | .loopInsn f => Sys2Proof.Machine.execLoopInsn f s
  | .salu f => Sys2Proof.Machine.execSalu f s
  | .sli f => Sys2Proof.Machine.execSli f s
  | .scmp f => Sys2Proof.Machine.execScmp f s
  | .twait f => Sys2Proof.Machine.execTwait f s
  | .twaitSatisfied f => Sys2Proof.Machine.execTwaitSatisfied f s
  | .tsig f => Sys2Proof.Machine.execTsig f s
  | .tset f => Sys2Proof.Machine.execTset f s
  | .tread f => Sys2Proof.Machine.execTread f s
  | .dfence f => Sys2Proof.Machine.execDfence f s
  | .dfenceSatisfied f => Sys2Proof.Machine.execDfenceSatisfied f s
  | .ftest f => Sys2Proof.Machine.execFtest f s
  | .fcfg f => Sys2Proof.Machine.execFcfg f s
  | .dq f => Sys2Proof.Machine.execDq f s
  | .mma f => Sys2Proof.Machine.execMma f s
  | .mmaStart f a => Sys2Proof.Machine.execMmaStart f a s
  | .wavefrontIssue f a => Sys2Proof.Machine.execWavefrontIssue f a s
  | .accumulatorAdd f a j => Sys2Proof.Machine.execAccumulatorAdd f a j s
  | .stationaryLoadStart f a => Sys2Proof.Machine.execStationaryLoadStart f a s
  | .stationaryRowCommit f a => Sys2Proof.Machine.execStationaryRowCommit f a s
  | .drainRowRead f => Sys2Proof.Machine.execDrainRowRead f s
  | .vxInt f => Sys2Proof.Machine.execVxInt f s
  | .vxFloat f => Sys2Proof.Machine.execVxFloat f s
  | .vxCvt f => Sys2Proof.Machine.execVxCvt f s
  | .vxReduce f => Sys2Proof.Machine.execVxReduce f s
  | .vxSpecial f => Sys2Proof.Machine.execVxSpecial f s
  | .vld f => Sys2Proof.Machine.execVld f s
  | .vst f => Sys2Proof.Machine.execVst f s
  | .normRms f => Sys2Proof.Machine.execNormRms f s
  | .normLn f => Sys2Proof.Machine.execNormLn f s
  | .rope f => Sys2Proof.Machine.execRope f s
  | .smerge f => Sys2Proof.Machine.execSmerge f s
  | .topkR f => Sys2Proof.Machine.execTopkR f s
  | .topkL f => Sys2Proof.Machine.execTopkL f s
  | .sample f => Sys2Proof.Machine.execSample f s
  | .qx f => Sys2Proof.Machine.execQx f s
  | .mark f => Sys2Proof.Machine.execMark f s
  | .digestPublish f => Sys2Proof.Machine.execDigestPublish f s
  | .tilesDesc g => Sys2Proof.Machine.execTilesDesc g s
  | .linesDesc g => Sys2Proof.Machine.execLinesDesc g s
  | .gather g => Sys2Proof.Machine.execGather g s
  | .descNop g => Sys2Proof.Machine.execDescNop g s
  | .descWait g => Sys2Proof.Machine.execDescWait g s
  | .descWaitSatisfied g => Sys2Proof.Machine.execDescWaitSatisfied g s
  | .descSignal g => Sys2Proof.Machine.execDescSignal g s
  | .descEnd g => Sys2Proof.Machine.execDescEnd g s
  | .drain f => Sys2Proof.Machine.execDrain f s
  | .qout f => Sys2Proof.Machine.execQout f s
  | .lineWrite g d n e => Sys2Proof.Machine.execLineWrite g d n e s
  | .lineRead g d n e => Sys2Proof.Machine.execLineRead g d n e s
  | .lineReadReturn g d n => Sys2Proof.Machine.execLineReadReturn g d n s
  | .lineDropReport g d n => Sys2Proof.Machine.execLineDropReport g d n s
  | .feedLineArrive g d n => Sys2Proof.Machine.execFeedLineArrive g d n s
  | .feedEndMarker f e => Sys2Proof.Machine.execFeedEndMarker f e s
  | .feedSlotDeliver f e => Sys2Proof.Machine.execFeedSlotDeliver f e s
  | .feedSlotRelease f e => Sys2Proof.Machine.execFeedSlotRelease f e s
  | .patchRequest f => Sys2Proof.Machine.execPatchRequest f s
  | .patchUnitAnswer x => Sys2Proof.Machine.execPatchUnitAnswer x s
  | .dmaDescriptorStart u c => Sys2Proof.Machine.execDmaDescriptorStart u c s
  | .allocGran u c => Sys2Proof.Machine.execAllocGran u c s
  | .freeGran u c => Sys2Proof.Machine.execFreeGran u c s
  | .kvAlloc k port pool owner => Sys2Proof.Machine.execKvAlloc k port pool owner s
  | .kvFree k port pool owner frame => Sys2Proof.Machine.execKvFree k port pool owner frame s
  | .kvBadOp k port op pool => Sys2Proof.Machine.execKvBadOp k port op pool s
  | .sorrelRequest k h src => Sys2Proof.Machine.execSorrelRequest k h src s
  | .sorrelScanEnd x => Sys2Proof.Machine.execSorrelScanEnd x s
  | .summaryBuild x => Sys2Proof.Machine.execSummaryBuild x s
  | .lenUpdate q => Sys2Proof.Machine.execLenUpdate q s
  | .openSeq q => Sys2Proof.Machine.execOpenSeq q s
  | .closeSeq q => Sys2Proof.Machine.execCloseSeq q s
  | .rebuild q => Sys2Proof.Machine.execRebuild q s
  | .switchSeq q => Sys2Proof.Machine.execSwitchSeq q s
  | .seqBadOp op q => Sys2Proof.Machine.execSeqBadOp op q s
  | .doorbell x size v => Sys2Proof.Machine.execDoorbell x size v s
  | .ringEnable r => Sys2Proof.Machine.execRingEnable r s
  | .ringDisable r => Sys2Proof.Machine.execRingDisable r s
  | .ringResume r => Sys2Proof.Machine.execRingResume r s
  | .cmdNop r => Sys2Proof.Machine.execCmdNop r s
  | .launch r => Sys2Proof.Machine.execLaunch r s
  | .launchRelease t => Sys2Proof.Machine.execLaunchRelease t s
  | .floretCompletionReport f t gen => Sys2Proof.Machine.execFloretCompletionReport f t gen s
  | .launchComplete t => Sys2Proof.Machine.execLaunchComplete t s
  | .slotQuarantineEnd t => Sys2Proof.Machine.execSlotQuarantineEnd t s
  | .watchdogSample t => Sys2Proof.Machine.execWatchdogSample t s
  | .copyCmd r => Sys2Proof.Machine.execCopyCmd r s
  | .copyEngineComplete d => Sys2Proof.Machine.execCopyEngineComplete d s
  | .waitTally r => Sys2Proof.Machine.execWaitTally r s
  | .waitTallySatisfied r => Sys2Proof.Machine.execWaitTallySatisfied r s
  | .waitTallyTimeout r => Sys2Proof.Machine.execWaitTallyTimeout r s
  | .cmdSignal r => Sys2Proof.Machine.execCmdSignal r s
  | .fenceCmd r => Sys2Proof.Machine.execFenceCmd r s
  | .phaseHint r => Sys2Proof.Machine.execPhaseHint r s
  | .phaseHoldExpiry u => Sys2Proof.Machine.execPhaseHoldExpiry u s
  | .cmdMark r => Sys2Proof.Machine.execCmdMark r s
  | .loadWeightsBase r => Sys2Proof.Machine.execLoadWeightsBase r s
  | .loadWeightsPack r => Sys2Proof.Machine.execLoadWeightsPack r s
  | .retiringWaitEnd d => Sys2Proof.Machine.execRetiringWaitEnd d s
  | .peerTallyReached d => Sys2Proof.Machine.execPeerTallyReached d s
  | .peerTimeout d => Sys2Proof.Machine.execPeerTimeout d s
  | .swapLayer r => Sys2Proof.Machine.execSwapLayer r s
  | .swapBeginWaitEnd d => Sys2Proof.Machine.execSwapBeginWaitEnd d s
  | .swapRelocate r => Sys2Proof.Machine.execSwapRelocate r s
  | .pktWrite l h a mask data psn tally cnt => Sys2Proof.Machine.execPktWrite l h a mask data psn tally cnt s
  | .pktRead l h a => Sys2Proof.Machine.execPktRead l h a s
  | .pktSignal l h tally v => Sys2Proof.Machine.execPktSignal l h tally v s
  | .pktEnd l h a e => Sys2Proof.Machine.execPktEnd l h a e s
  | .mcWrite l h tree a data psn ct tally => Sys2Proof.Machine.execMcWrite l h tree a data psn ct tally s
  | .pktData l h tok data psn => Sys2Proof.Machine.execPktData l h tok data psn s
  | .ack l h toks => Sys2Proof.Machine.execAck l h toks s
  | .lossPkt l h x => Sys2Proof.Machine.execLossPkt l h x s
  | .pktFence l dst src flow gen inj => Sys2Proof.Machine.execPktFence l dst src flow gen inj s
  | .lsa l a => Sys2Proof.Machine.execLsa l a s
  | .reachExpiry v => Sys2Proof.Machine.execReachExpiry v s
  | .pktTime l k x => Sys2Proof.Machine.execPktTime l k x s
  | .subtreeReport tree child => Sys2Proof.Machine.execSubtreeReport tree child s
  | .replayRequest l crc asSender seq => Sys2Proof.Machine.execReplayRequest l crc asSender seq s
  | .replayTimeout x => Sys2Proof.Machine.execReplayTimeout x s
  | .laneFault l x => Sys2Proof.Machine.execLaneFault l x s
  | .linkDown l => Sys2Proof.Machine.execLinkDown l s
  | .linkTrained l mask peerDev peerLink peerCode => Sys2Proof.Machine.execLinkTrained l mask peerDev peerLink peerCode s
  | .linkRetireTimeout l => Sys2Proof.Machine.execLinkRetireTimeout l s
  | .linkProbe l ok peerDev peer => Sys2Proof.Machine.execLinkProbe l ok peerDev peer s
  | .linkEqTick l lane => Sys2Proof.Machine.execLinkEqTick l lane s
  | .retrain l => Sys2Proof.Machine.execRetrain l s
  | .hbmRead a e => Sys2Proof.Machine.execHbmRead a e s
  | .hbmWrite a data psn => Sys2Proof.Machine.execHbmWrite a data psn s
  | .hbmPartialWrite a mask data e => Sys2Proof.Machine.execHbmPartialWrite a mask data e s
  | .migrationCopy e => Sys2Proof.Machine.execMigrationCopy e s
  | .hbmThermSample k temp => Sys2Proof.Machine.execHbmThermSample k temp s
  | .selfRefreshEntry k => Sys2Proof.Machine.execSelfRefreshEntry k s
  | .selfRefreshExit k => Sys2Proof.Machine.execSelfRefreshExit k s
  | .fillStack k => Sys2Proof.Machine.execFillStack k s
  | .fillEnd k => Sys2Proof.Machine.execFillEnd k s
  | .marginStart k v => Sys2Proof.Machine.execMarginStart k v s
  | .marginDone k lo hi => Sys2Proof.Machine.execMarginDone k lo hi s
  | .avsSample rd => Sys2Proof.Machine.execAvsSample rd s
  | .pmbusSample rd => Sys2Proof.Machine.execPmbusSample rd s
  | .currentFastTick est => Sys2Proof.Machine.execCurrentFastTick est s
  | .marginLoopTick u slack => Sys2Proof.Machine.execMarginLoopTick u slack s
  | .cpmAlarm u alarm => Sys2Proof.Machine.execCpmAlarm u alarm s
  | .stretchEnd u => Sys2Proof.Machine.execStretchEnd u s
  | .thermalTick u quarterDeg => Sys2Proof.Machine.execThermalTick u quarterDeg s
  | .dieOvertemp u => Sys2Proof.Machine.execDieOvertemp u s
  | .aclkStep u => Sys2Proof.Machine.execAclkStep u s
  | .voltageReached rail => Sys2Proof.Machine.execVoltageReached rail s
  | .pwrwarnFall pf pu ph => Sys2Proof.Machine.execPwrwarnFall pf pu ph s
  | .vrFaultFall rail => Sys2Proof.Machine.execVrFaultFall rail s
  | .vrStatusRead rail st => Sys2Proof.Machine.execVrStatusRead rail st s
  | .vrFault3Fall rail st => Sys2Proof.Machine.execVrFault3Fall rail st s
  | .phaseHealthyExpiry rail => Sys2Proof.Machine.execPhaseHealthyExpiry rail s
  | .pmbAlertFall sts => Sys2Proof.Machine.execPmbAlertFall sts s
  | .thermtrip u => Sys2Proof.Machine.execThermtrip u s
  | .umbelWake u => Sys2Proof.Machine.execUmbelWake u s
  | .umbelWakeDone u => Sys2Proof.Machine.execUmbelWakeDone u s
  | .clockGate u => Sys2Proof.Machine.execClockGate u s
  | .faultReport hw => Sys2Proof.Machine.execFaultReport hw s
  | .faultRecordResend n => Sys2Proof.Machine.execFaultRecordResend n s
  | .quiesceEnd p => Sys2Proof.Machine.execQuiesceEnd p s
  | .recoveryResetEnd p => Sys2Proof.Machine.execRecoveryResetEnd p s
  | .scrubPreloadEnd p failed => Sys2Proof.Machine.execScrubPreloadEnd p failed s
  | .partLiveWrite p live => Sys2Proof.Machine.execPartLiveWrite p live s
  | .partReset p => Sys2Proof.Machine.execPartReset p s
  | .dieReset half => Sys2Proof.Machine.execDieReset half s
  | .dieResetEnd half => Sys2Proof.Machine.execDieResetEnd half s
  | .sweepTestStart a b cls seed => Sys2Proof.Machine.execSweepTestStart a b cls seed s
  | .sweepTestEnd dA dB c dC => Sys2Proof.Machine.execSweepTestEnd dA dB c dC s
  | .sweepAbort t => Sys2Proof.Machine.execSweepAbort t s
  | .sweepRerunEnd diff => Sys2Proof.Machine.execSweepRerunEnd diff s
  | .umcFaultAck upto => Sys2Proof.Machine.execUmcFaultAck upto s
  | .getCertificate slot => Sys2Proof.Machine.execGetCertificate slot s
  | .challenge slot nonce => Sys2Proof.Machine.execChallenge slot nonce s
  | .getMeasurements idx nonce => Sys2Proof.Machine.execGetMeasurements idx nonce s
  | .keyExchange sid doe pub => Sys2Proof.Machine.execKeyExchange sid doe pub s
  | .endSession sid => Sys2Proof.Machine.execEndSession sid s
  | .heartbeat sid => Sys2Proof.Machine.execHeartbeat sid s
  | .keyUpdate sid => Sys2Proof.Machine.execKeyUpdate sid s
  | .sessionExpiry sid => Sys2Proof.Machine.execSessionExpiry sid s
  | .setOwner sid key => Sys2Proof.Machine.execSetOwner sid key s
  | .ideKm sid stream => Sys2Proof.Machine.execIdeKm sid stream s
  | .lockInterface sid => Sys2Proof.Machine.execLockInterface sid s
  | .tdiRun sid => Sys2Proof.Machine.execTdiRun sid s
  | .ckLoad n => Sys2Proof.Machine.execCkLoad n s
  | .ckDrop n => Sys2Proof.Machine.execCkDrop n s
  | .trCfgWrite v => Sys2Proof.Machine.execTrCfgWrite v s
  | .trTailWrite v => Sys2Proof.Machine.execTrTailWrite v s
  | .snapshotHangRequest t => Sys2Proof.Machine.execSnapshotHangRequest t s
  | .coreHeartbeatTimeout core => Sys2Proof.Machine.execCoreHeartbeatTimeout core s
  | .snapshotCaptureEnd trunc => Sys2Proof.Machine.execSnapshotCaptureEnd trunc s
  | .railWaitTimeout rail => Sys2Proof.Machine.execRailWaitTimeout rail s
  | .umcBoot okA okB => Sys2Proof.Machine.execUmcBoot okA okB s
  | .configuration c => Sys2Proof.Machine.execConfiguration c s
  | .sramBist fail dieFail => Sys2Proof.Machine.execSramBist fail dieFail s
  | .hbmTraining t => Sys2Proof.Machine.execHbmTraining t s
  | .linkTraining masks => Sys2Proof.Machine.execLinkTraining masks s
  | .joinAdmit v => Sys2Proof.Machine.execJoinAdmit v s
  | .setEtt t => Sys2Proof.Machine.execSetEtt t s
  | .regWrite off v => Sys2Proof.Machine.execRegWrite off v s
  | .configRequest q => Sys2Proof.Machine.execConfigRequest q s
  | .bar4Read x len e => Sys2Proof.Machine.execBar4Read x len e s
  | .bar4Write x mask data psn e => Sys2Proof.Machine.execBar4Write x mask data psn e s
  | .hostWindowAccess g d n => Sys2Proof.Machine.execHostWindowAccess g d n s
  | .hostReadCompletion g d n data ep => Sys2Proof.Machine.execHostReadCompletion g d n data ep s
  | .feedCfgWrite f e hi v => Sys2Proof.Machine.execFeedCfgWrite f e hi v s
  | .dmaCfgWrite u c bell v => Sys2Proof.Machine.execDmaCfgWrite u c bell v s
  | .kvpCfgWrite n frames v => Sys2Proof.Machine.execKvpCfgWrite n frames v s
  | .seqTableCfgWrite which v => Sys2Proof.Machine.execSeqTableCfgWrite which v s
  | .ringTblWrite hi v => Sys2Proof.Machine.execRingTblWrite hi v s
  | .grpBaseWrite hi v => Sys2Proof.Machine.execGrpBaseWrite hi v s
  | .compatWrite page v => Sys2Proof.Machine.execCompatWrite page v s
  | .glCompatAll v => Sys2Proof.Machine.execGlCompatAll v s
  | .evtPendClear page v coincident => Sys2Proof.Machine.execEvtPendClear page v coincident s
  | .linkCtrlWrite l v => Sys2Proof.Machine.execLinkCtrlWrite l v s
  | .counterLoRead x => Sys2Proof.Machine.execCounterLoRead x s
  | .registerWrite x be v => Sys2Proof.Machine.execRegisterWrite x be v s
  | .entdaa addr => Sys2Proof.Machine.execEntdaa addr s
  | .managementReplyAck n => Sys2Proof.Machine.execManagementReplyAck n s
  | .tapInstructionLoad n => Sys2Proof.Machine.execTapInstructionLoad n s
  | .d2dLaneRepair half lane => Sys2Proof.Machine.execD2dLaneRepair half lane s
  | .slotGrant => Sys2Proof.Machine.execSlotGrant s
  | .deadListExpiry => Sys2Proof.Machine.execDeadListExpiry s
  | .lsaTimer => Sys2Proof.Machine.execLsaTimer s
  | .splitDeclare => Sys2Proof.Machine.execSplitDeclare s
  | .timeHoldover => Sys2Proof.Machine.execTimeHoldover s
  | .ppsEdge => Sys2Proof.Machine.execPpsEdge s
  | .mapSwitch => Sys2Proof.Machine.execMapSwitch s
  | .pwrwarnRise => Sys2Proof.Machine.execPwrwarnRise s
  | .pwrwarnReleaseTick => Sys2Proof.Machine.execPwrwarnReleaseTick s
  | .deviceReset => Sys2Proof.Machine.execDeviceReset s
  | .deviceResetRun => Sys2Proof.Machine.execDeviceResetRun s
  | .glResetDevice => Sys2Proof.Machine.execGlResetDevice s
  | .oosClear => Sys2Proof.Machine.execOosClear s
  | .mgmtDeviceReset => Sys2Proof.Machine.execMgmtDeviceReset s
  | .tenantChangeCmd => Sys2Proof.Machine.execTenantChangeCmd s
  | .tenantChange => Sys2Proof.Machine.execTenantChange s
  | .tenantQuiesceEnd => Sys2Proof.Machine.execTenantQuiesceEnd s
  | .tenantFillEnd => Sys2Proof.Machine.execTenantFillEnd s
  | .ideIntegrityFailure => Sys2Proof.Machine.execIdeIntegrityFailure s
  | .stopInterface => Sys2Proof.Machine.execStopInterface s
  | .tdiError => Sys2Proof.Machine.execTdiError s
  | .ckLoadEnd => Sys2Proof.Machine.execCkLoadEnd s
  | .traceWrite => Sys2Proof.Machine.execTraceWrite s
  | .umcSnapStart => Sys2Proof.Machine.execUmcSnapStart s
  | .snapshotMctp => Sys2Proof.Machine.execSnapshotMctp s
  | .aonRstNFall => Sys2Proof.Machine.execAonRstNFall s
  | .aonRstNRise => Sys2Proof.Machine.execAonRstNRise s
  | .alwaysOnLock => Sys2Proof.Machine.execAlwaysOnLock s
  | .topoAgreeTest => Sys2Proof.Machine.execTopoAgreeTest s
  | .topoTimeout => Sys2Proof.Machine.execTopoTimeout s
  | .getBootStatus => Sys2Proof.Machine.execGetBootStatus s
  | .commitSvn => Sys2Proof.Machine.execCommitSvn s
  | .recoveryImageLoad => Sys2Proof.Machine.execRecoveryImageLoad s
  | .perstNFall => Sys2Proof.Machine.execPerstNFall s
  | .perstNRise => Sys2Proof.Machine.execPerstNRise s
  | .flr => Sys2Proof.Machine.execFlr s
  | .vddAonLoss => Sys2Proof.Machine.execVddAonLoss s

end Sys2Proof.Machine
end

