-- ==== Sys2Proof/Safety.lean ====
section
/-! DEFINITION. What counts as safe for this block, in the terms that claims use: which pieces of the device a change may
touch, the canonical form of its memories, completion. -/

namespace Sys2Proof.Machine

/-- The pieces of the device's state, one for each field of `State`. -/
inductive Piece where
  | pending | regs | latch | cnt64 | fls | ums | sram | sramBad | hostMem | ftime | reports | hostOut | freeCtr | variant
  | strap | hbm | fab | logPtr | timeAcc | bme | fe | tr | pw | flt | sec | snap | boot | mgmt | compat | mse | bar4
  | hostReads
  deriving DecidableEq, Repr

/-- A piece is the same in two states. -/
def Piece.same (s t : State) : Piece → Prop
  | .pending => t.pending = s.pending
  | .regs => t.regs = s.regs
  | .latch => t.latch = s.latch
  | .cnt64 => t.cnt64 = s.cnt64
  | .fls => t.fls = s.fls
  | .ums => t.ums = s.ums
  | .sram => t.sram = s.sram
  | .sramBad => t.sramBad = s.sramBad
  | .hostMem => t.hostMem = s.hostMem
  | .ftime => t.ftime = s.ftime
  | .reports => t.reports = s.reports
  | .hostOut => t.hostOut = s.hostOut
  | .freeCtr => t.freeCtr = s.freeCtr
  | .variant => t.variant = s.variant
  | .strap => t.strap = s.strap
  | .hbm => t.hbm = s.hbm
  | .fab => t.fab = s.fab
  | .logPtr => t.logPtr = s.logPtr
  | .timeAcc => t.timeAcc = s.timeAcc
  | .bme => t.bme = s.bme
  | .fe => t.fe = s.fe
  | .tr => t.tr = s.tr
  | .pw => t.pw = s.pw
  | .flt => t.flt = s.flt
  | .sec => t.sec = s.sec
  | .snap => t.snap = s.snap
  | .boot => t.boot = s.boot
  | .mgmt => t.mgmt = s.mgmt
  | .compat => t.compat = s.compat
  | .mse => t.mse = s.mse
  | .bar4 => t.bar4 = s.bar4
  | .hostReads => t.hostReads = s.hostReads

/-- Every piece of the list lies among the pieces of the other. -/
def Piece.within (ps qs : List Piece) : Bool := ps.all (fun p => qs.contains p)

/-- From `s` to `t` nothing changes outside the pieces listed. -/
def Frame (ps : List Piece) (s t : State) : Prop := ∀ p, ps.contains p = false → p.same s t

/-- Every byte memory of the device is in its one canonical form: near banks and umbel buffers, HBM, host memory. -/
def State.memWf (s : State) : Bool := s.sram.wf && s.hbm.data.wf && s.hostMem.wf

/-- The outcome is a next state. -/
def Completes (o : Host.Outcome State Fault Refusal) : Prop := ∃ t, o = .next t

/-- A state is safe when its next step completes: no stop of the block is a behaviour of the manual (every command has an
effect or leaves the state as it is). -/
def State.safe (s : State) : Prop := Completes (step s)

end Sys2Proof.Machine
end

