-- ==== Sys2Proof/Certificates/Slice0/Obligations.lean ====
section
/-! DEFINITION. The statements for the provers. Each `Obligations.<Name>` formalises a rule of spec/ or a property of the
model derived from it. Hypotheses are about the state and the operands alone; a result statement concludes that `exec`
answers a next state and says what that state holds and what it leaves as it was. The operands of the commands, and that a
command whose event cannot happen leaves the state as it is, are the model's choice (log entries 1 and 2). -/

namespace Sys2Proof.Claims
open Sys2Proof.Machine

/-- No floret but `f` changes. -/
def OnlyFl (f : Nat) (s t : State) : Prop := ∀ n, n ≠ f → t.fl n = s.fl n

/-- No umbel but `u` changes. -/
def OnlyUm (u : Nat) (s t : State) : Prop := ∀ n, n ≠ u → t.um n = s.um n

/-- No register word outside the listed addresses changes. -/
def OnlyRegs (ks : List Nat) (s t : State) : Prop := ∀ k, ks.contains k = false → t.rawReg k = s.rawReg k

/-- FL_SQ_ISSUE_CNT and FL_PROGRESS of floret `f`, as register addresses. -/
def issueRegs (f : Nat) : List Nat := [State.regKey .fl f Off.issueCnt, State.regKey .fl f Off.progress]

/-- Floret `f` retires the instruction at its PC (R172, R173): of the floret only what `fl` says, the PC and the holds
change, FL_SQ_ISSUE_CNT rises by 1 and so does FL_PROGRESS where `p` says that the instruction is progress. -/
def RetiresTo (f pc : Nat) (p : Bool) (fl : Floret) (s t : State) : Prop :=
  t.fl f = { fl with pc := pc, waiting := false, qfull := false } ∧ OnlyFl f s t ∧
  t.reg .fl f Off.issueCnt = s.reg .fl f Off.issueCnt + 1 ∧
  t.reg .fl f Off.progress = (if p then s.reg .fl f Off.progress + 1 else s.reg .fl f Off.progress)

/-- The instruction retires, and nothing but the floret and its two counters changes. -/
def Retires (f pc : Nat) (p : Bool) (fl : Floret) (s t : State) : Prop :=
  RetiresTo f pc p fl s t ∧ OnlyRegs (issueRegs f) s t ∧ Frame [.fls, .regs] s t

/-- A packet leaves on link `l`: at once while it is UP, behind those that wait while it is DOWN or TRAINING (R311). -/
def GoesOut (s t : State) (l : Nat) (p : OutPkt) : Prop :=
  p.link = l ∧ ((s.link l).state = 2 → t.fab.out = s.fab.out ++ [p]) ∧
    ((s.link l).state < 2 → t.fab.held = s.fab.held ++ [p])

/-- The first hop that an agent's packet for device `dev`, line address `a`, takes (R311), `det` being the agent's sampled DET. -/
def hop (s : State) (dev a : Nat) (det : Bool) : Option (Nat × Bool) :=
  (s.pickFirst dev a ((s.reg .pl 0 0x180).getLsbD 16 && !(s.reg .gl 0 Off.glCtrl).getLsbD 1 && !det)).1

/-- The target of BR and LOOP: OFFSET is signed, counted in instructions from this one (R143). -/
def target (pc w : Nat) : Nat := (((pc : Int) + (BitVec.ofNat 16 w).toInt) % 2 ^ 32).toNat

/-- The SALU table of R143; shifts use bits [4:0] of the amount, SRA rounds toward minus infinity. -/
def alu (op : Nat) (a b : W32) : W32 :=
  let n := b.toNat % 32
  match op with
  | 0 => BitVec.ofNat 32 (a.toNat + b.toNat)
  | 1 => BitVec.ofInt 32 (a.toInt - b.toInt)
  | 2 => BitVec.ofNat 32 (a.toNat * b.toNat)
  | 3 => a &&& b
  | 4 => a ||| b
  | 5 => a ^^^ b
  | 6 => BitVec.ofNat 32 (a.toNat * 2 ^ n)
  | 7 => BitVec.ofNat 32 (a.toNat / 2 ^ n)
  | _ => BitVec.ofInt 32 (a.toInt / 2 ^ n)

/-- The SCMP table of R143. -/
def condHolds (c : Nat) (a b : W32) : Prop :=
  match c with
  | 0 => a = b
  | 1 => a ≠ b
  | 2 => a.toInt < b.toInt
  | 3 => b.toInt ≤ a.toInt
  | 4 => a.toNat < b.toNat
  | _ => b.toNat ≤ a.toNat

/-- Second source of SALU: the signed IMM20 where IMM is set, else register SB. -/
def aluB (fl : Floret) (w : Nat) : W32 :=
  if bitN w 35 then BitVec.ofInt 32 (BitVec.ofNat 20 w).toInt else fl.s (bitsN w 40 36)

/-- The tally that TWAIT, TSET and TREAD of floret `f` name (R155): bit UMB, INDEX. -/
def namedTally (s : State) (f w : Nat) : W32 :=
  if bitN w 54 then (s.um (f / 16)).tally (bitsN w 53 46) else (s.fl f).tally (bitsN w 53 46)

/-- A wait for target `x` on a tally of value `v` is satisfied (R154). -/
def Met (v x : W32) : Prop := 0 ≤ (BitVec.ofInt 32 ((v.toNat : Int) - x.toNat)).toInt

/-- DFENCE's condition (R155): the fenced queues' tallies have counted every descriptor enqueued. -/
def FenceMet (fl : Floret) (w : Nat) : Prop :=
  (bitN w 54 = true → Met (fl.tally 48) (BitVec.ofNat 32 fl.le.enq)) ∧
  (bitN w 53 = true → Met (fl.tally 49) (BitVec.ofNat 32 fl.se.enq))

end Sys2Proof.Claims

open Sys2Proof Sys2Proof.Machine Sys2Proof.Claims

/-- A command at the front of the queue runs with the queue's rest in place. The queue is the model's own state
(assumptions 29 and 30). -/
def Obligations.StepRunsTheFrontCommand : Prop :=
  ∀ (c : Instr) (s : State) (rest : List Instr),
    step { s with pending := c :: rest } = exec c { s with pending := rest }

/-- With no command waiting, time passes: fabric time, a 64-bit counter, moves by the steered rate, the throttling counters of the
reasons that limit a unit count, and, where no packet waits for a link, nothing else changes; with the always-on domain in reset
nothing does. The tick on an empty queue is the model's choice (assumption 29). -/
def Obligations.EmptyQueuePassesTime : Prop :=
  ∀ s : State, s.pending = [] →
    ∃ t, step s = .next t ∧ (s.boot.aonLow = true → t = s) ∧
      (s.boot.aonLow = false →
        t.ftime = (s.ftime + ((s.timeAcc + 1000000 + s.fab.ratePpm) / 1000000).toNat) % 2 ^ 64 ∧
        t.timeAcc = (s.timeAcc + 1000000 + s.fab.ratePpm) % 1000000 ∧
        (s.fab.held = [] → Frame [.cnt64, .ftime, .timeAcc] s t))

/-- Every command answers a next state, and no command touches the queue or the fused variant. -/
def Obligations.EveryCommandCompletesAndKeepsTheVariant : Prop :=
  ∀ (c : Instr) (s : State), ∃ t, exec c s = .next t ∧ t.pending = s.pending ∧ t.variant = s.variant

/-- The canonical form of the byte memories is an invariant of every step. -/
def Obligations.EveryStepKeepsTheMemoriesCanonical : Prop :=
  ∀ s t : State, s.memWf = true → step s = .next t → t.memWf = true

/-- The memories' canonical form holds at reset. -/
def Obligations.ResetMemoriesAreCanonical : Prop := State.reset.memWf = true

/-- R154: the wait's comparison is that of the signed difference, and within 2^31 counts it is correct across the wrap: with
`v` counts behind or ahead of the target as a whole number, the wait is satisfied exactly when the target is reached. -/
def Obligations.WaitComparisonIsCorrectAcrossTheWrap : Prop :=
  (∀ v x : W32, waitOk v x = true ↔ Met v x) ∧
  (∀ n k : Nat, (n ≤ k → k - n < 2 ^ 31 → waitOk (BitVec.ofNat 32 k) (BitVec.ofNat 32 n) = true) ∧
    (k < n → n - k < 2 ^ 31 → waitOk (BitVec.ofNat 32 k) (BitVec.ofNat 32 n) = false))

/-- Scalar and control instructions at PC, their predicate on: NOP, HALT, BR, LOOP, SALU, SLI, SCMP (R143, R172, R173).
HALT leaves the sequencer halted. -/
def Obligations.ScalarInstructionsTakeEffect : Prop :=
  ∀ (f : FloretId) (s : State) (w : Nat),
    let fl := s.fl f.val
    let sd := bitsN w 50 46
    let sa := fl.s (bitsN w 45 41)
    (s.look f.val 0x00 = .go w → ∃ t, exec (.nop f) s = .next t ∧ Retires f.val (fl.pc + 1) false fl s t) ∧
    (s.look f.val 0x01 = .go w →
      ∃ t, exec (.halt f) s = .next t ∧
        Retires f.val (fl.pc + 1) false { fl with run := false, halted := true, ended := true } s t) ∧
    (s.look f.val 0x02 = .go w → ∃ t, exec (.br f) s = .next t ∧ Retires f.val (target fl.pc w) false fl s t) ∧
    (s.look f.val 0x03 = .go w → ∃ t, exec (.loopInsn f) s = .next t ∧
      Retires f.val (if fl.s sd = 1 then fl.pc + 1 else target fl.pc w) false (fl.setS sd (fl.s sd - 1)) s t) ∧
    (s.look f.val 0x04 = .go w → ∃ t, exec (.salu f) s = .next t ∧
      Retires f.val (fl.pc + 1) false (fl.setS sd (alu (bitsN w 54 51) sa (aluB fl w))) s t) ∧
    (s.look f.val 0x05 = .go w → ∃ t, exec (.sli f) s = .next t ∧
      Retires f.val (fl.pc + 1) false (fl.setS sd (BitVec.ofNat 32 (w % 2 ^ 32))) s t) ∧
    (s.look f.val 0x06 = .go w → ∃ t, exec (.scmp f) s = .next t ∧ ∃ x : W64,
      (condHolds (bitsN w 54 51) sa (fl.s (bitsN w 40 36)) → x = BitVec.allOnes 64) ∧
      (¬ condHolds (bitsN w 54 51) sa (fl.s (bitsN w 40 36)) → x = 0) ∧
      Retires f.val (fl.pc + 1) false (fl.setPred (bitsN w 50 48) x) s t)

namespace Sys2Proof.Claims
open Sys2Proof.Machine

/-- The floret and the opcode of a command that runs a predicated instruction of the sequencer (R141, R142). -/
def seqInsn : Instr → Option (FloretId × Nat)
  | .nop f => some (f, 0x00)
  | .halt f => some (f, 0x01)
  | .br f => some (f, 0x02)
  | .loopInsn f => some (f, 0x03)
  | .salu f => some (f, 0x04)
  | .sli f => some (f, 0x05)
  | .scmp f => some (f, 0x06)
  | .twait f => some (f, 0x10)
  | .tsig f => some (f, 0x11)
  | .tset f => some (f, 0x12)
  | .tread f => some (f, 0x13)
  | .dfence f => some (f, 0x14)
  | .ftest f => some (f, 0x18)
  | .fcfg f => some (f, 0x19)
  | .dq f => some (f, 0x1C)
  | .mma f => some (f, 0x20)
  | .qx f => some (f, 0x30)
  | .mark f => some (f, 0x38)
  | _ => none

/-- Opcodes of `seqInsn` whose retirement is a progress event, passed over or not (R142, R172): TSIG, TSET, DQ, MMA, QX, MARK. -/
def progressOps : List Nat := [0x11, 0x12, 0x1C, 0x20, 0x30, 0x38]

/-- The launch that runs on floret `f`, as a fault report names it (R255). -/
def flLaunch (s : State) (f : Nat) : Option (Nat × Nat) :=
  if (s.fl f).lslot = 0 then none else some ((s.fl f).lslot - 1, (s.fl f).lgen)

end Sys2Proof.Claims

/-- Predicate register p0 reads as all ones and a write to it is ignored; the others hold what was written (R116, R143).

What the sequencer finds at PC (R140, R142): an instruction of another opcode is not this command's; a legal one whose
predicate bit 0 is 1, and every VX instruction, executes; any other legal one is skipped.

R142: with bit 0 of its predicate register 0, an instruction other than a VX instruction retires with no effect; it is
counted, and it is progress where its retirement is a progress event.

R140: an illegal encoding stops issue with the PC at it, copies the instruction to FL_SQ_ERR_INSN, logs it and raises
the stage-program fault; the floret's registers, queues and tallies stay, and so does every memory. -/
def Obligations.PredicatesAndIllegalWordsDecideWhatExecutes : Prop :=
  (∀ (fl : Floret) (r q : Nat) (x : W64), r < 8 → q < 8 →
    fl.pred 0 = BitVec.allOnes 64 ∧ fl.setPred 0 x = fl ∧ (r ≠ 0 → (fl.setPred r x).pred r = x) ∧
    (q ≠ r → (fl.setPred r x).pred q = fl.pred q)) ∧
  (∀ (s : State) (f op w : Nat),
    let fl := s.fl f
    s.seqOn f = true → fl.pc < 8192 → fl.word = w → Isa.listed op = true → Isa.opcode w = op → Isa.legal fl w = true →
      s.look f op = (if (0x28 ≤ op ∧ op ≤ 0x2F) ∨ (fl.pred (Isa.predReg w)).getLsbD 0 = true then .go w else .skip)) ∧
  (∀ (c : Instr) (f : FloretId) (op : Nat) (s : State), seqInsn c = some (f, op) → s.look f.val op = .skip →
    ∃ t, exec c s = .next t ∧ Retires f.val ((s.fl f.val).pc + 1) (progressOps.contains op) (s.fl f.val) s t) ∧
  (∀ (c : Instr) (f : FloretId) (op : Nat) (s : State), seqInsn c = some (f, op) → s.look f.val op = .illegal →
    (s.fl f.val).pc < 8192 →
    ∃ t, exec c s = .next t ∧
      t.fl f.val = { s.fl f.val with run := false, halted := true, waiting := false, qfull := false } ∧ OnlyFl f.val s t ∧
      t.reg .fl f.val Off.errInsnLo = BitVec.ofNat 32 (s.fl f.val).word ∧
      t.reg .fl f.val Off.errInsnHi = BitVec.ofNat 32 ((s.fl f.val).word / 2 ^ 32) ∧
      (t.reg .fl f.val Off.sqStat).getLsbD 0 = true ∧
      t.reports = s.reports ++ [⟨Code.sqIllegal, f.val, (s.fl f.val).pc, 0, flLaunch s f.val⟩] ∧
      Frame [.fls, .regs, .logPtr, .reports, .hostOut] s t)

/-- Tally instructions (R154, R155, R172): TWAIT and DFENCE retire when their wait is satisfied, at issue or later; until
then they hold issue with WAITING set and the PC on them. TREAD reads, TSET writes the tally they name. -/
def Obligations.TallyInstructionsTakeEffect : Prop :=
  ∀ (f : FloretId) (s : State) (w : Nat),
    let fl := s.fl f.val
    let pc := fl.pc + 1
    let v := fl.s (bitsN w 45 41)
    let held := { fl with waiting := true }
    (s.look f.val 0x10 = .go w → Met (namedTally s f.val w) v →
      ∃ t, exec (.twait f) s = .next t ∧ Retires f.val pc true fl s t) ∧
    (s.look f.val 0x10 = .go w → ¬ Met (namedTally s f.val w) v →
      ∃ t, exec (.twait f) s = .next t ∧ t.fl f.val = held ∧ OnlyFl f.val s t ∧ Frame [.fls] s t) ∧
    (s.look f.val 0x10 = .go w → fl.waiting = true → Met (namedTally s f.val w) v →
      ∃ t, exec (.twaitSatisfied f) s = .next t ∧ Retires f.val pc true fl s t) ∧
    (s.look f.val 0x14 = .go w → FenceMet fl w → ∃ t, exec (.dfence f) s = .next t ∧ Retires f.val pc true fl s t) ∧
    (s.look f.val 0x14 = .go w → ¬ FenceMet fl w →
      ∃ t, exec (.dfence f) s = .next t ∧ t.fl f.val = held ∧ OnlyFl f.val s t ∧ Frame [.fls] s t) ∧
    (s.look f.val 0x14 = .go w → fl.waiting = true → FenceMet fl w →
      ∃ t, exec (.dfenceSatisfied f) s = .next t ∧ Retires f.val pc true fl s t) ∧
    (s.look f.val 0x13 = .go w → ∃ t, exec (.tread f) s = .next t ∧
      Retires f.val pc false (fl.setS (bitsN w 45 41) (namedTally s f.val w)) s t) ∧
    (s.look f.val 0x12 = .go w → bitN w 54 = false →
      ∃ t, exec (.tset f) s = .next t ∧ Retires f.val pc true (fl.setTally (bitsN w 53 46) v) s t) ∧
    (s.look f.val 0x12 = .go w → bitN w 54 = true →
      ∃ t, exec (.tset f) s = .next t ∧ RetiresTo f.val pc true fl s t ∧
        t.um (f.val / 16) = (s.um (f.val / 16)).setTally (bitsN w 53 46) v ∧ OnlyUm (f.val / 16) s t ∧
        Frame [.fls, .ums, .regs] s t)

/-- A tally of a unit in service rises by the value, modulo 2^32; an addition to a tally that only hardware writes, to an
absent index or an absent floret adds nothing and is an address error; with the umbel's units held it is lost
(R151, R152, R153, R244).

TSIG makes the addition of R153 at the tally that its reference names, and retires as progress: an umbel's or a floret's
tally of this device rises; for another device a SIGNAL packet leaves on the route's link, or waits for that link while it is not
UP; an address error adds nothing; an addition that is lost sets WR_LOSS and raises LINE_LOSS (R152, R155, R308, R311). Where
the spec leaves a corner open the model follows log entry 12. -/
def Obligations.TallyAdditionsEndAsTheirReferenceSays : Prop :=
  (∀ (s : State) (q : Req) (f u : Option Nat) (r n i : Nat) (v : W32),
    (s.tref f u r = .um n i → s.umShut n = false →
      let t := (s.tallyAdd q f u r v).2
      (s.tallyAdd q f u r v).1 = .done ∧ (t.um n).tally i = (s.um n).tally i + v ∧ OnlyUm n s t ∧
        (∀ j, j ≠ i → (t.um n).tally j = (s.um n).tally j) ∧ Frame [.ums, .pw] s t) ∧
    (s.tref f u r = .um n i → s.umShut n = true → s.tallyAdd q f u r v = (.lost, s)) ∧
    (s.tref f u r = .fl n i → i < 64 → s.flPresent n = true → s.umShut (n / 16) = false → hwTally i = false →
      let t := (s.tallyAdd q f u r v).2
      (s.tallyAdd q f u r v).1 = .done ∧ t.fl n = (s.fl n).setTally i ((s.fl n).tally i + v) ∧ OnlyFl n s t ∧
        Frame [.fls, .pw] s t) ∧
    (s.tref f u r = .fl n i → (63 < i ∨ s.flPresent n = false ∨ (s.umShut (n / 16) = false ∧ hwTally i = true)) →
      (s.tallyAdd q f u r v).1 = .done ∧ Frame [.regs, .logPtr] s (s.tallyAdd q f u r v).2) ∧
    (s.tref f u r = .fl n i → i < 64 → s.flPresent n = true → s.umShut (n / 16) = true →
      s.tallyAdd q f u r v = (.lost, s))) ∧
  (∀ (f : FloretId) (s : State) (w : Nat),
    let fl := s.fl f.val
    let pc := fl.pc + 1
    let v := fl.s (bitsN w 45 41)
    let r := (fl.s (bitsN w 50 46)).toNat
    let ref := s.tref (some f.val) (some (f.val / 16)) r
    s.look f.val 0x11 = .go w →
    (∀ n i, ref = .um n i → s.umShut n = false →
      ∃ t, exec (.tsig f) s = .next t ∧ RetiresTo f.val pc true fl s t ∧ OnlyRegs (issueRegs f.val) s t ∧
        (t.um n).tally i = (s.um n).tally i + v ∧ (∀ j, j ≠ i → (t.um n).tally j = (s.um n).tally j) ∧ OnlyUm n s t ∧
        Frame [.fls, .ums, .regs, .pw] s t) ∧
    (∀ n i, ref = .fl n i → i < 64 → s.flPresent n = true → s.umShut (n / 16) = false → hwTally i = false →
      ∃ t, exec (.tsig f) s = .next t ∧
        (let x := if n = f.val then fl.setTally i (fl.tally i + v) else fl
         t.fl f.val = { x with pc := pc, waiting := false, qfull := false }) ∧
        (t.fl n).tally i = (s.fl n).tally i + v ∧ (∀ j, j ≠ i → (t.fl n).tally j = (s.fl n).tally j) ∧
        (∀ m, m ≠ n → m ≠ f.val → t.fl m = s.fl m) ∧
        t.reg .fl f.val Off.issueCnt = s.reg .fl f.val Off.issueCnt + 1 ∧
        t.reg .fl f.val Off.progress = s.reg .fl f.val Off.progress + 1 ∧ OnlyRegs (issueRegs f.val) s t ∧
        Frame [.fls, .regs, .pw] s t) ∧
    (∀ n i, ref = .fl n i → (63 < i ∨ s.flPresent n = false ∨ (s.umShut (n / 16) = false ∧ hwTally i = true)) →
      ∃ t, exec (.tsig f) s = .next t ∧ RetiresTo f.val pc true fl s t ∧ Frame [.fls, .regs, .logPtr] s t) ∧
    ((∃ n i, (ref = .um n i ∧ s.umShut n = true) ∨
        (ref = .fl n i ∧ i < 64 ∧ s.flPresent n = true ∧ s.umShut (n / 16) = true)) →
      ∃ t, exec (.tsig f) s = .next t ∧ RetiresTo f.val pc true fl s t ∧ (t.reg .fl f.val Off.ordStat).getLsbD 0 = true ∧
        t.reports = s.reports ++ [⟨Code.lineLoss, f.val, 0, 0, flLaunch s f.val⟩] ∧
        Frame [.fls, .regs, .hostOut, .reports] s t) ∧
    (∀ dev l dl, ref = .remote dev →
      hop s dev 0 fl.det = some (l, dl) →
      s.fab.closedFlows.contains (if fl.lslot = 0 then 66 else fl.lslot - 1, fl.lgen) = false →
      ∃ t p, exec (.tsig f) s = .next t ∧ RetiresTo f.val pc true fl s t ∧ GoesOut s t l p ∧ p.dst = dev ∧
        p.body = .signal (BitVec.ofNat 32 (refForRemote (some f.val) (some (f.val / 16)) r)) v ∧
        Frame [.fls, .fab, .cnt64, .regs, .freeCtr] s t))

/-- FTEST writes all 64 bits of its predicate with whether the feed is DONE; FCFG on an idle feed with a legal
configuration makes the feed LIVE with no slot present and FL_FEED_HEAD 0, or disabled where SLOTS is 0; a refused one sets
DESC_ERR and leaves the feed, and FCFG of a feed that is not idle holds issue (R156, R162). Where the spec leaves a corner open the model follows log entry 16. -/
def Obligations.FeedInstructionsTakeEffect : Prop :=
  ∀ (f : FloretId) (s : State) (w : Nat),
    let fl := s.fl f.val
    let pc := fl.pc + 1
    let e := bitsN w 54 51
    let c0 := (fl.s (bitsN w 45 41)).toNat
    let c1 := (fl.s (bitsN w 40 36)).toNat
    let slots := bitsN c0 31 16
    let bl := bitsN c1 6 0
    let base := bitsN c0 14 0
    (s.look f.val 0x18 = .go w → ∃ t, exec (.ftest f) s = .next t ∧
      Retires f.val pc false
        (fl.setPred (bitsN w 50 48) (if (fl.feed e).state = 3 then BitVec.allOnes 64 else 0)) s t) ∧
    (s.look f.val 0x19 = .go w → (fl.feed e).idle = true → slots ≠ 0 → 1 ≤ bl → bl ≤ 72 → base + slots * bl ≤ 32768 →
      ∃ t, exec (.fcfg f) s = .next t ∧
        (let x := (t.fl f.val).feed e
         x.base = base ∧ x.slots = slots ∧ x.bl = bl ∧ x.patch = bitN c1 8 ∧ x.state = 1 ∧ x.head = 0 ∧ x.present = []) ∧
        (∀ d, d ≠ e → (t.fl f.val).feed d = fl.feed d) ∧ (t.fl f.val).pc = pc ∧ OnlyFl f.val s t ∧
        OnlyRegs (issueRegs f.val) s t ∧ Frame [.fls, .regs] s t) ∧
    (s.look f.val 0x19 = .go w → (fl.feed e).idle = true → slots = 0 →
      ∃ t, exec (.fcfg f) s = .next t ∧ ((t.fl f.val).feed e).state = 0 ∧ ((t.fl f.val).feed e).slots = 0 ∧
        (t.fl f.val).pc = pc ∧ OnlyFl f.val s t ∧ OnlyRegs (issueRegs f.val) s t ∧ Frame [.fls, .regs] s t) ∧
    (s.look f.val 0x19 = .go w → (fl.feed e).idle = true → slots ≠ 0 → (bl = 0 ∨ 72 < bl ∨ 32768 < base + slots * bl) →
      ∃ t, exec (.fcfg f) s = .next t ∧ RetiresTo f.val pc false fl s t ∧ (t.reg .fl f.val Off.sqStat).getLsbD 1 = true ∧
        Frame [.fls, .regs, .hostOut] s t) ∧
    (s.look f.val 0x19 = .go w → (fl.feed e).idle = false → exec (.fcfg f) s = .next s)

/-- DQ with room for all its descriptors enqueues them, in the order of their 32-byte images in the near bank, and retires
as progress; without room it holds issue with QFULL set and enqueues none (R164).

MMA with fewer than four MMA instructions waiting enters the MX queue behind them and retires as progress (R137,
R146). Where the spec leaves a corner open the model follows log entry 16. -/
def Obligations.DqAndMmaEnterTheirQueues : Prop :=
  (∀ (f : FloretId) (s : State) (w : Nat),
    let fl := s.fl f.val
    let n := bitsN w 39 32 + 1
    let a := (fl.s (bitsN w 50 46)).toNat
    let q (x : Floret) := if bitN w 54 then x.se else x.le
    let r (x : Floret) := if bitN w 54 then x.le else x.se
    s.look f.val 0x1C = .go w →
    ((q fl).queue.length + n ≤ 256 →
      ∃ t, exec (.dq f) s = .next t ∧ (q (t.fl f.val)).queue.take (q fl).queue.length = (q fl).queue ∧
        ((q (t.fl f.val)).queue.drop (q fl).queue.length).map (·.w)
          = (List.range n).map (fun i => s.descAt f.val (a + 32 * i)) ∧
        (q (t.fl f.val)).enq = (q fl).enq + n ∧ r (t.fl f.val) = r fl ∧ (t.fl f.val).pc = fl.pc + 1 ∧
        (t.fl f.val).qfull = false ∧ t.reg .fl f.val Off.progress = s.reg .fl f.val Off.progress + 1 ∧
        OnlyFl f.val s t ∧ OnlyRegs (issueRegs f.val) s t ∧ Frame [.fls, .regs] s t) ∧
    (256 < (q fl).queue.length + n →
      ∃ t, exec (.dq f) s = .next t ∧ t.fl f.val = { fl with qfull := true } ∧ OnlyFl f.val s t ∧ Frame [.fls] s t)) ∧
  (∀ (f : FloretId) (s : State) (w : Nat),
    let fl := s.fl f.val
    s.look f.val 0x20 = .go w → (fl.mx.filter (fun m => m.issued != 15)).length < 4 →
    ∃ t, exec (.mma f) s = .next t ∧
      Retires f.val (fl.pc + 1) true
        { fl with mx := fl.mx ++ [⟨fl.nextJid, w, 0, 0, none, false⟩], nextJid := fl.nextJid + 1 } s t)

namespace Sys2Proof.Claims
open Sys2Proof.Machine

/-- The vector unit's result for the instruction word `w` on floret `n`'s registers and near bank. -/
def vxOut (n : Nat) (fl : Floret) (s : State) (w : Nat) : Vec.Res := Vec.exec n (Vec.Res.of fl s.sram s.sramBad) w

/-- What a VX instruction leaves (R157, R172, R173): the registers and the near bank that the vector unit computes, the PC past the
instruction, one more progress event; nothing of another floret, of an umbel, of HBM or of host memory changes. Lines outside
every feed are just written; a line written into LIVE feeds that have room for it sets its presence bits; any other line of a
feed is discarded, with FEED_OVR. -/
def VxDone (f : FloretId) (w : Nat) (s t : State) : Prop :=
  let r := vxOut f.val (s.fl f.val) s w
  let ps (l : Nat) := r.fl.feedLines (l % 32768)
  OnlyFl f.val s t ∧ (t.fl f.val).pc = r.fl.pc + 1 ∧
    t.reg .fl f.val Off.progress = s.reg .fl f.val Off.progress + 1 ∧
    Frame [.fls, .sram, .sramBad, .cnt64, .regs, .hostOut, .reports, .logPtr] s t ∧
    ((∀ l ∈ r.wr, ps l = []) →
      t.fl f.val = { r.fl with pc := r.fl.pc + 1, waiting := false, qfull := false } ∧ t.sram = r.mem ∧ t.sramBad = r.bad) ∧
    (∀ l, r.wr = [l] → ps l ≠ [] → (∀ p ∈ ps l, r.fl.feedFull p = false) →
      t.sram = r.mem ∧ t.sramBad = r.bad ∧
        ∀ p ∈ ps l, bitN (SMap.get 0 ((t.fl f.val).feed p.1).present p.2.1) p.2.2 = true) ∧
    (∀ l, r.wr = [l] → (∃ p ∈ ps l, r.fl.feedFull p = true) →
      Memory.readLine t.sram (Vec.nbLine f.val l) = Memory.readLine s.sram (Vec.nbLine f.val l) ∧
        t.fl f.val = { r.fl with pc := r.fl.pc + 1, waiting := false, qfull := false } ∧
        (t.reg .fl f.val 0x3A0).getLsbD 2 = true)

/-- The word `w` of opcode `op` goes ahead on floret `f`, and no QX instruction has still to read a line that it writes (R128). -/
def VxGoes (f : FloretId) (op w : Nat) (s : State) : Prop :=
  s.look f.val op = .go w ∧ (s.fl f.val).vxHeld (vxOut f.val (s.fl f.val) s w).wr = false

end Sys2Proof.Claims

/-- Every VX instruction at PC, its operation of the command's kind, takes the effect that the vector unit computes from
the floret's registers and its near bank; one that would write a line which a QX instruction has still to read is held
(R116 to R135, R485). Where the spec leaves a corner open the model follows log entries 10, 11 and 32. -/
def Obligations.VxInstructionsTakeEffect : Prop :=
  ∀ (f : FloretId) (s : State) (w : Nat),
    let v := Isa.vop w
    (VxGoes f 0x28 w s → ∃ t, exec (.vxInt f) s = .next t ∧ VxDone f w s t) ∧
    (VxGoes f 0x29 w s → ∃ t, exec (.vxFloat f) s = .next t ∧ VxDone f w s t) ∧
    (VxGoes f 0x2A w s → ∃ t, exec (.vxCvt f) s = .next t ∧ VxDone f w s t) ∧
    (VxGoes f 0x2B w s → ∃ t, exec (.vxReduce f) s = .next t ∧ VxDone f w s t) ∧
    (VxGoes f 0x2C w s → ∃ t, exec (.vxSpecial f) s = .next t ∧ VxDone f w s t) ∧
    (VxGoes f 0x2D w s → v < 8 → ∃ t, exec (.vld f) s = .next t ∧ VxDone f w s t) ∧
    (VxGoes f 0x2D w s → 8 ≤ v → ∃ t, exec (.vst f) s = .next t ∧ VxDone f w s t) ∧
    (VxGoes f 0x2E w s → v = 0 → ∃ t, exec (.normRms f) s = .next t ∧ VxDone f w s t) ∧
    (VxGoes f 0x2E w s → v = 1 → ∃ t, exec (.normLn f) s = .next t ∧ VxDone f w s t) ∧
    (VxGoes f 0x2E w s → v = 2 → ∃ t, exec (.rope f) s = .next t ∧ VxDone f w s t) ∧
    (VxGoes f 0x2E w s → v = 3 → ∃ t, exec (.smerge f) s = .next t ∧ VxDone f w s t) ∧
    (VxGoes f 0x2F w s → v = 0 → ∃ t, exec (.topkR f) s = .next t ∧ VxDone f w s t) ∧
    (VxGoes f 0x2F w s → v = 1 → ∃ t, exec (.topkL f) s = .next t ∧ VxDone f w s t) ∧
    (VxGoes f 0x2F w s → v = 2 → ∃ t, exec (.sample f) s = .next t ∧ VxDone f w s t) ∧
    (s.look f.val 0x2D = .go w → 8 ≤ v → (s.fl f.val).vxHeld (vxOut f.val (s.fl f.val) s w).wr = true →
      exec (.vst f) s = .next s)

namespace Sys2Proof.Claims
open Sys2Proof.Machine

/-- Clamp to the INT32 range. -/
def clamp32 (z : Int) : W32 := BitVec.ofInt 32 (max (-2147483648) (min 2147483647 z))

/-- Round `a` ÷ 2^n to the nearest integer, ties to even (R54). -/
def nearest (a : Int) (n : Nat) : Int :=
  let q := a / 2 ^ n
  let r := 2 * (a % 2 ^ n)
  if r > 2 ^ n ∨ (r = 2 ^ n ∧ q % 2 = 1) then q + 1 else q

/-- The exact result of an INT32 lane operation, before saturation (R121). -/
def intExact (v : Nat) (a b : W32) : Int :=
  let n := b.toNat % 64
  match v with
  | 0 => a.toInt + b.toInt
  | 1 => a.toInt - b.toInt
  | 2 => a.toInt * b.toInt
  | 3 => min a.toInt b.toInt
  | 4 => max a.toInt b.toInt
  | 5 => (a &&& b).toInt
  | 6 => (a ||| b).toInt
  | 7 => (a ^^^ b).toInt
  | 8 => a.toInt * 2 ^ n
  | 9 => a.toInt / 2 ^ n
  | _ => nearest a.toInt n

/-- Second operand of a lane: scalar SS with USES set, else register VB. -/
def laneB (fl : Floret) (w i : Nat) : W32 := if Isa.uses w then fl.s (Isa.ss w) else fl.vreg (Isa.vb w) i

/-- The VX operations with a per-lane result. -/
def perLane (op : Nat) : Prop := op = 0x28 ∨ op = 0x29 ∨ op = 0x2A ∨ op = 0x2C ∨ op = 0x2D

end Sys2Proof.Claims

/-- INT32 lane arithmetic (R118, R121): every unmasked lane of VD takes the exact result clamped to the INT32 range, every
masked lane keeps its value, VI_SAT is raised exactly when the clamp changed an unmasked lane, no bit of FL_FP_STAT is. -/
def Obligations.Int32LanesSaturateExactly : Prop :=
  ∀ (n : Nat) (fl : Floret) (s : State) (w : Nat), Isa.opcode w = 0x28 → Isa.vxLegal w = true → Isa.vop w < 16 →
    let r := vxOut n fl s w
    let pr := fl.pred (Isa.predReg w)
    let z (i : Nat) := intExact (Isa.vop w) (fl.vreg (Isa.va w) i) (laneB fl w i)
    (∀ i, i < 64 → r.fl.vreg (Isa.vd w) i = if pr.getLsbD i then clamp32 (z i) else fl.vreg (Isa.vd w) i) ∧
    (∀ d i, d < 32 → i < 64 → d ≠ Isa.vd w → r.fl.vreg d i = fl.vreg d i) ∧
    (r.vx = Vec.xVI ↔ ∃ i, i < 64 ∧ pr.getLsbD i = true ∧ (clamp32 (z i)).toInt ≠ z i) ∧
    r.fp = 0 ∧ r.mem = s.sram ∧ r.bad = s.sramBad

/-- R118, R485: an operation with a per-lane result leaves a masked lane of every vector and predicate register, and every
scalar register, as they were.

R485: reductions keep lanes 1 to 63 of every register; row operations, SMERGE, TOPK.L and SAMPLE with predicate bit 0
clear leave registers, near bank and flags as they were. -/
def Obligations.MaskedLanesAndReductionsFollowTheirPredicate : Prop :=
  (∀ (n : Nat) (fl : Floret) (s : State) (w i : Nat), perLane (Isa.opcode w) → i < 64 →
    (fl.pred (Isa.predReg w)).getLsbD i = false →
    let r := vxOut n fl s w
    (∀ d, d < 32 → r.fl.vreg d i = fl.vreg d i) ∧ (∀ q, q < 8 → (r.fl.pred q).getLsbD i = (fl.pred q).getLsbD i) ∧
      ∀ k, r.fl.s k = fl.s k) ∧
  (∀ (n : Nat) (fl : Floret) (s : State) (w : Nat),
    let r := vxOut n fl s w
    (Isa.opcode w = 0x2B → ∀ d i, d < 32 → 1 ≤ i → i < 64 → r.fl.vreg d i = fl.vreg d i) ∧
    ((Isa.opcode w = 0x2E ∨ (Isa.opcode w = 0x2F ∧ 1 ≤ Isa.vop w)) → (fl.pred (Isa.predReg w)).getLsbD 0 = false →
      r.fl = fl ∧ r.mem = s.sram ∧ r.bad = s.sramBad ∧ r.fp = 0 ∧ r.vx = 0))

/-- R132: the merged candidate list does not depend on the order in which the candidates arrive, nor on whether they are
merged at once or list by list; it always has K entries. Token IDs are distinct, as a vocabulary's are. -/
def Obligations.TopkMergeIsIndependentOfOrder : Prop :=
  ∀ (st : Bool) (k : Nat) (xs ys : List Vec.Cand), (xs.map (·.2)).Nodup →
    (xs.Perm ys → Vec.topk st k xs = Vec.topk st k ys) ∧ (Vec.topk st k xs).length = k ∧
    (∀ zs, ((xs ++ zs).map (·.2)).Nodup → Vec.topk st k (Vec.topk st k xs ++ zs) = Vec.topk st k (xs ++ zs))

/-- QX with room in the QX queue enters it with the operands it read at issue, and retires as progress; the quantiser takes its
rows one by one while a row buffer is free. With both buffers taken and no QOUT to empty them the instruction waits whole; with
both free, and no QOUT, one of a single row is quantised at once: its segments stand in a row buffer and are counted. With four
instructions in the queue it holds issue (R78 to R83, R137, R144, R172). Where the spec leaves a corner open the model follows
log entries 15 and 32. -/
def Obligations.QxQuantisesOrHolds : Prop :=
  ∀ (f : FloretId) (s : State) (w : Nat),
    let fl := s.fl f.val
    let j := QxJob.of fl w
    let noQout := ∀ d ∈ fl.se.fly, D.kind d.w ≠ 8
    let segs := (j.next s f.val).1
    let rows := qRows (Isa.qt w) (if Isa.gexp w = 0 then j.r else 2 ^ Isa.gexp w) segs
    s.look f.val 0x30 = .go w →
    (fl.qxq.length < 4 →
      ∃ t, exec (.qx f) s = .next t ∧ (t.fl f.val).pc = fl.pc + 1 ∧
        t.reg .fl f.val Off.issueCnt = s.reg .fl f.val Off.issueCnt + 1 ∧
        t.reg .fl f.val Off.progress = s.reg .fl f.val Off.progress + 1 ∧ OnlyFl f.val s t ∧
        Frame [.fls, .regs, .cnt64, .hostOut, .reports] s t ∧
        (2 ≤ fl.qx.length → noQout → Retires f.val (fl.pc + 1) true { fl with qxq := fl.qxq ++ [j] } s t) ∧
        (fl.qxq = [] → fl.qx = [] → noQout → Isa.qrows w = 1 →
          (t.fl f.val).qxq = [] ∧ (t.fl f.val).qx = (if rows = [] then [] else [rows]) ∧ (t.fl f.val).se = fl.se ∧
          t.reg .fl f.val Off.qzSegCnt = s.reg .fl f.val Off.qzSegCnt + BitVec.ofNat 32 segs.length)) ∧
    (4 ≤ fl.qxq.length → exec (.qx f) s = .next s)

/-- MARK (R411, R412): with DIG set and fewer than four closed intervals waiting it closes the open digest interval under
its mark ID and opens an empty one; with four waiting it holds. With TRACE set, the trace on and its type enabled, it queues a record of its
mark. It retires as progress.

DIGEST_PUBLISH (R411, R425): the oldest interval, closed and with every DIGEST descriptor of it complete, is published
in the digest registers, counted, and leaves the floret. -/
def Obligations.DigestIntervalsCloseAndAreShown : Prop :=
  (∀ (f : FloretId) (s : State) (w : Nat),
    let fl := s.fl f.val
    s.look f.val 0x38 = .go w →
    (bitN w 54 = true → fl.ivals.length < 5 →
      ∃ t, exec (.mark f) s = .next t ∧ (t.fl f.val).pc = fl.pc + 1 ∧
        (t.fl f.val).ivals = fl.ivals.dropLast ++
          [{ fl.openIval with closed := true, markId := BitVec.ofNat 32 w }, Interval.empty] ∧
        t.reg .fl f.val Off.progress = s.reg .fl f.val Off.progress + 1 ∧ OnlyFl f.val s t) ∧
    (bitN w 54 = true → 5 ≤ fl.ivals.length → exec (.mark f) s = .next s) ∧
    (bitN w 54 = false → bitN w 53 = false → ∃ t, exec (.mark f) s = .next t ∧ Retires f.val (fl.pc + 1) true fl s t) ∧
    (bitN w 54 = false → bitN w 53 = true →
      ∃ t, exec (.mark f) s = .next t ∧ RetiresTo f.val (fl.pc + 1) true fl s t ∧ Frame [.fls, .regs, .tr, .hostOut] s t ∧
        (s.trOn = true → bitN (s.regN .tr 0 0x108) 19 = true → (SMap.get [] s.tr.qs f.val).length < 16 →
          ∃ r, SMap.get [] t.tr.qs f.val = SMap.get [] s.tr.qs f.val ++ [r] ∧ bitsN r 71 64 = 0x04 ∧
            bitsN r 159 128 = bitsN w 31 0 ∧ bitsN r 191 160 = (fl.s (bitsN w 50 46)).toNat ∧ bitsN r 95 80 = f.val))) ∧
  (∀ (f : FloretId) (s : State) (v : Interval) (rest : List Interval),
    (s.fl f.val).ivals = v :: rest → v.closed = true → v.done = v.descs →
    ∃ t, exec (.digestPublish f) s = .next t ∧ (t.fl f.val).ivals = rest ∧
      t.reg .fl f.val Off.digLo = BitVec.ofNat 32 v.sum ∧ t.reg .fl f.val Off.digHi = BitVec.ofNat 32 (v.sum / 2 ^ 32) ∧
      t.reg .fl f.val Off.digId = v.markId ∧ (t.reg .fl f.val Off.digInfo).getLsbD 31 = v.poison ∧
      t.reg .fl f.val Off.digCnt = s.reg .fl f.val Off.digCnt + 1 ∧ OnlyFl f.val s t)

namespace Sys2Proof.Claims
open Sys2Proof.Machine

/-- The MMA at the head of the MX queue is not one that its DONE activation feed skips (R150). -/
def NoSkip (fl : Floret) : Prop :=
  ∀ m, fl.mx.find? (fun m => m.issued != 15) = some m → m.any = true ∨ (fl.feed (Tile.afeed m.word)).state ≠ 3

/-- The MMA that array `a` works on, once started there. -/
def working (fl : Floret) (a : Nat) (m : Mma) : Prop := fl.job (fl.arr a).iJob = some m ∧ bitN m.started a = true

/-- The array can advance: its add stage is not frozen and no result of it is due (R44, R46). -/
def canAdvance (fl : Floret) (a : Nat) : Prop :=
  fl.frozen a = false ∧ ((fl.arr a).waves.any (fun w => w.due (fl.arr a).cyc)) = false

/-- The wavefronts that stay in the array when it advances: all but those whose last result is then written, 18 cycles after
they issued (R28, R31). -/
def stillIn (r : Arr) : List Wave :=
  r.waves.filter (fun w => !((!w.valid || decide (8 ≤ w.next)) && decide (w.cyc + 18 ≤ r.cyc + 1)))

/-- The integer dot product of activation row `r` with column `c` of the stationary tile, over the tile's K, in half `half` of it
where the activations are INT8 on an INT4 tile (R24, R25, R30). -/
def dot (w : Nat) (sl : Slot) (st : List Int) (k0 half r c : Nat) : Int :=
  (((List.range (Tile.tileK w)).filter (fun k => Tile.mode w ≠ 2 || k % 8 / 4 = half)).map
    (fun k => Tile.act w sl r (k0 + k) * st.getD (32 * k + c) 0)).sum

/-- The value that an accumulator element takes (R42). -/
def added (isF init : Bool) (old : W32) (v : Int) : W32 :=
  if init then BitVec.ofInt 32 v
  else if isF then (Fp.add false 24 old (BitVec.ofInt 32 v)).1
  else clamp32 (old.toInt + v)

/-- Place of an element in the accumulators of an array. -/
def accKey (u : Upd) : Nat := u.tile * 1024 + u.row * 32 + u.col

/-- A value clamped to the INT32 range, as an integer. -/
def clampZ (z : Int) : Int := max (-2147483648) (min 2147483647 z)

end Sys2Proof.Claims

/-- R42: with INIT an accumulator add writes the incoming result; without it an integer add writes the old value plus the
result, clamped to the INT32 range, and an F19 add the binary32 sum rounded to nearest, ties to even. Each starts from the
stored value. A clamped add, and no other, is due to set FL_MX_STAT.ACC_SAT, and sets it where the stage adds its result; no
other element changes. -/
def Obligations.AccumulatorAddSaturatesAndRounds : Prop :=
  (∀ (r : Arr) (u : Upd) (isF init : Bool),
    let k (t i j : Nat) := t * 1024 + i * 32 + j
    let old := SMap.get (0 : W32) r.acc (k u.tile u.row u.col)
    let out := addElem r isF init u
    let new := SMap.get (0 : W32) out.1.acc (k u.tile u.row u.col)
    (init = true → new = BitVec.ofInt 32 u.val ∧ out.2.2 = false) ∧
    (init = false → isF = false → -2147483648 ≤ u.val → u.val ≤ 2147483647 →
      new.toInt = clampZ (old.toInt + u.val) ∧ (out.2.2 = true ↔ clampZ (old.toInt + u.val) ≠ old.toInt + u.val) ∧ out.2.1 = 0) ∧
    (init = false → isF = true → new = (Fp.add false 24 old (BitVec.ofInt 32 u.val)).1 ∧ out.2.2 = false) ∧
    (∀ n, n ≠ k u.tile u.row u.col → SMap.get (0 : W32) out.1.acc n = SMap.get (0 : W32) r.acc n)) ∧
  (∀ (s : State) (f a : Nat) (w : Wave) (us : List Upd) (u : Upd) (rest : List (List Upd)),
    let old := (SMap.get (0 : W32) ((s.fl f).arr a).acc (u.tile * 1024 + u.row * 32 + u.col)).toInt
    w.res = (u :: us) :: rest → w.isF = false → w.init = false → clampZ (old + u.val) ≠ old + u.val →
    ((s.addResult f a w).reg .fl f Off.mxStat).getLsbD 0 = true)

/-- WAVEFRONT_ISSUE (R27, R33 to R36, R44, R46): a frozen array counts a frozen cycle and stays; one with work but no wavefront
ready advances by a bubble; a change of orientation waits for 18 cycles after the last valid wavefront; a wavefront that is ready
goes in flight with its tag, carrying in an integer mode of NORMAL the dot products of its valid rows with the columns of each
group; one whose rows are all masked goes without VALID; a tile with no valid row group is passed over. With STRICT set an F19
row is computed by itself in the vector unit, in an array with nothing valid in flight, and a masked row changes nothing (R61).

ACCUMULATOR_ADD (R40, R42, R44): result `j` of the oldest valid wavefront that has not passed it, due in an array that is not
frozen, is added: every element it names takes its new value, no other element changes, and the wavefront goes on to its next
result. -/
def Obligations.WavefrontsIssueAndAccumulate : Prop :=
  (∀ (f : FloretId) (a : ArrayId) (s : State),
    let fl := s.fl f.val
    let r := fl.arr a.val
    let r' (t : State) := (t.fl f.val).arr a.val
    s.flOn f.val = true →
    (fl.frozen a.val = true →
      ∃ t, exec (.wavefrontIssue f a) s = .next t ∧ t.reg .fl f.val Off.mxFreeze = s.reg .fl f.val Off.mxFreeze + 1 ∧
        (r' t).cyc = r.cyc ∧ (r' t).waves = r.waves ∧ (r' t).acc = r.acc ∧ OnlyFl f.val s t ∧
        (NoSkip fl → t.fl f.val = fl)) ∧
    (∀ m, canAdvance fl a.val → working fl a.val m → (Tile.isF m.word && fl.strict) = false → fl.look a.val m = .notReady →
      ∃ t, exec (.wavefrontIssue f a) s = .next t ∧ t.reg .fl f.val Off.mxBubble = s.reg .fl f.val Off.mxBubble + 1 ∧
        (r' t).cyc = r.cyc + 1 ∧ (∃ w, (r' t).waves = stillIn r ++ [w] ∧ w.valid = false ∧ w.cyc = r.cyc) ∧
        (r' t).acc = r.acc ∧ OnlyFl f.val s t) ∧
    (∀ m, canAdvance fl a.val → working fl a.val m → fl.look a.val m = .empty →
      ∃ t, exec (.wavefrontIssue f a) s = .next t ∧ (r' t).cyc = r.cyc ∧ (r' t).waves = r.waves ∧ (r' t).used = r.used + 1 ∧
        (r' t).acc = r.acc ∧ OnlyFl f.val s t) ∧
    (∀ m sl st words row rows half last, canAdvance fl a.val → working fl a.val m →
      fl.look a.val m = .wave sl st words row rows half last →
      let mask := Tile.rowMask m.word sl row rows
      let k0 := (Tile.src m.word a.val r.iTile).k0
      let turns := Tile.cross m.word ≠ r.cross ∧ r.lastIssue ≠ 0 ∧ r.cyc + 1 < r.lastIssue + 18
      ((Tile.isF m.word && fl.strict) = false → mask ≠ 0 → turns →
        ∃ t, exec (.wavefrontIssue f a) s = .next t ∧ t.reg .fl f.val Off.mxOrient = s.reg .fl f.val Off.mxOrient + 1 ∧
          (r' t).cyc = r.cyc + 1 ∧ (r' t).waves = stillIn r ∧ (r' t).acc = r.acc ∧ OnlyFl f.val s t) ∧
      ((Tile.isF m.word && fl.strict) = false → mask ≠ 0 → ¬ turns →
        ∃ t w, exec (.wavefrontIssue f a) s = .next t ∧ (r' t).cyc = r.cyc + 1 ∧ (r' t).lastIssue = r.cyc + 1 ∧
          (r' t).cross = Tile.cross m.word ∧ (r' t).waves = stillIn r ++ [w] ∧ (r' t).acc = r.acc ∧ w.cyc = r.cyc ∧
          w.valid = true ∧ w.jid = m.jid ∧ w.next = 0 ∧ w.acc = Tile.accIx m.word ∧ w.epoch = r.used % 2 ∧ w.half = half ∧
          w.rowMask = mask ∧ w.isF = Tile.isF m.word ∧
          w.init = (Tile.initBit m.word && decide (r.iTile = 0) && (decide (half = 0) || Tile.cross m.word)) ∧
          w.res = (waveRes m.word sl st k0 row rows half).1 ∧
          (Tile.isF m.word = false → Tile.cross m.word = false → ∀ j u, j < 8 → (u ∈ w.res.getD j [] ↔
            ∃ x y, x < rows ∧ y < 4 ∧ Tile.rowValid m.word sl (row + x) = true ∧
              u = ⟨Tile.accIx m.word, row + x, 4 * j + y, dot m.word sl st k0 half (row + x) (4 * j + y)⟩)) ∧
          OnlyFl f.val s t) ∧
      ((Tile.isF m.word && fl.strict) = false → mask = 0 →
        ∃ t w, exec (.wavefrontIssue f a) s = .next t ∧ (r' t).cyc = r.cyc + 1 ∧ (r' t).lastIssue = r.lastIssue ∧
          (r' t).waves = stillIn r ++ [w] ∧ w.valid = false ∧ w.cyc = r.cyc ∧ (r' t).acc = r.acc ∧ OnlyFl f.val s t) ∧
      ((Tile.isF m.word && fl.strict) = true → r.waves.any (·.valid) = false → fl.undrained (Tile.accIx m.word) row = false →
        let k (n : Nat) := Tile.accIx m.word * 1024 + row * 32 + n
        let from0 := Tile.initBit m.word && decide (r.iTile = 0)
        ∃ t, exec (.wavefrontIssue f a) s = .next t ∧ (r' t).cyc = r.cyc + 1 ∧ (r' t).waves = r.waves ∧ OnlyFl f.val s t ∧
          (Tile.rowValid m.word sl row = true →
            (∀ n, n < 32 → SMap.get (0 : W32) (r' t).acc (k n) =
              (Tile.strictElem m.word sl st row n (if from0 then 0 else SMap.get (0 : W32) r.acc (k n))).1) ∧
            ∀ i, (∀ n, n < 32 → i ≠ k n) → SMap.get (0 : W32) (r' t).acc i = SMap.get (0 : W32) r.acc i) ∧
          (Tile.rowValid m.word sl row = false → (r' t).acc = r.acc)))) ∧
  (∀ (f : FloretId) (a : ArrayId) (j : Fin8) (s : State) (w : Wave),
    let fl := s.fl f.val
    let r := fl.arr a.val
    let us := w.res.headD []
    s.flOn f.val = true → r.waves.find? (fun x => x.valid && decide (x.next ≤ j.val)) = some w → w.next = j.val →
    w.due r.cyc = true → fl.frozen a.val = false → (us.map accKey).Nodup →
    ∃ t, exec (.accumulatorAdd f a j) s = .next t ∧
      (∀ u ∈ us, SMap.get (0 : W32) ((t.fl f.val).arr a.val).acc (accKey u) =
        added w.isF w.init (SMap.get (0 : W32) r.acc (accKey u)) u.val) ∧
      (∀ k, k ∉ us.map accKey → SMap.get (0 : W32) ((t.fl f.val).arr a.val).acc k = SMap.get (0 : W32) r.acc k) ∧
      ((t.fl f.val).arr a.val).waves
        = r.waves.map (fun x => if x.cyc = w.cyc then { w with next := w.next + 1, res := w.res.tail } else x) ∧
      ((t.fl f.val).arr a.val).cyc = r.cyc ∧ OnlyFl f.val s t ∧ Frame [.fls, .regs, .hostOut] s t)

/-- MMA_START (R148, R150): the MMA that an array comes to next starts there: its bit for the array is set, its first
slots in its feeds are fixed, in its activation feed the first that no earlier MMA takes, and a closing pass is noted when its
first array starts; its word and what it has issued stay.

Stationary loads (R37, R38, R101): a load starts into the epoch of its number once its slot is there, with the tile's expanded
and patched elements and its column words; F19 rows gather for three cycles before they commit; a row whose hold has not passed
counts a held cycle; a committed row stands in the buffer of the load's epoch and moves the load to the next row, and row 7 ends
it. -/
def Obligations.ArraysStartAndLoadTheirStationaryRows : Prop :=
  (∀ (f : FloretId) (a : ArrayId) (s : State) (m : Mma),
    let fl := s.fl f.val
    s.flOn f.val = true → fl.job (fl.arr a.val).iJob = some m → bitN m.started a.val = false → NoSkip fl →
    ∃ t, exec (.mmaStart f a) s = .next t ∧
      (∃ m', (t.fl f.val).job m.jid = some m' ∧ m'.started = setBitN m.started a.val true ∧ m'.base.isSome = true ∧
        (m.base.isSome = true → m'.base = m.base) ∧
        (m.base = none → m'.base.map (·.1) = some (fl.feed (Tile.afeed m.word)).nextBase) ∧
        m'.word = m.word ∧ m'.issued = m.issued) ∧
      (t.fl f.val).closings = fl.closings ++ (if Tile.closeBit m.word = true ∧ m.started = 0 then
        [⟨m.jid, Tile.accIx m.word, Tile.cross m.word, 15⟩] else []) ∧ OnlyFl f.val s t ∧ Frame [.fls] s t) ∧
  (∀ (f : FloretId) (a : ArrayId) (s : State),
    let fl := s.fl f.val
    let r := fl.arr a.val
    s.flOn f.val = true →
    (∀ m x, r.load = none → r.loaded ≤ r.used + 2 → fl.job r.pJob = some m → fl.aheadAssigned m.jid = true →
      ((fl.assign m).job m.jid).bind ((fl.assign m).loadSrc a.val) = some x →
      ∃ t, exec (.stationaryLoadStart f a) s = .next t ∧ ((t.fl f.val).arr a.val).loaded = r.loaded + 1 ∧
        (∃ l, ((t.fl f.val).arr a.val).load = some l ∧ l.next = 0 ∧ l.gather = 0 ∧ l.epoch = r.loaded % 2 ∧
          l.isF = Tile.isF m.word ∧ l.elems = (Tile.loadTile m.word x.1 x.2.1 x.2.2).1 ∧
          l.words = Tile.loadWords m.word fl.c6 x.1 x.2.1) ∧ OnlyFl f.val s t ∧ Frame [.fls, .regs] s t) ∧
    (∀ l, r.load = some l → l.isF = true → l.gather < 3 →
      ∃ t, exec (.stationaryRowCommit f a) s = .next t ∧
        ((t.fl f.val).arr a.val).load = some { l with gather := l.gather + 1 } ∧ OnlyFl f.val s t ∧ Frame [.fls] s t) ∧
    (∀ l, r.load = some l → (l.isF = false ∨ 3 ≤ l.gather) → r.rowHeld l = true →
      ∃ t, exec (.stationaryRowCommit f a) s = .next t ∧ t.reg .fl f.val Off.mxHold = s.reg .fl f.val Off.mxHold + 1 ∧
        t.fl f.val = fl ∧ OnlyFl f.val s t ∧ Frame [.regs] s t) ∧
    (∀ l, r.load = some l → (l.isF = false ∨ 3 ≤ l.gather) → r.rowHeld l = false →
      ∃ t, exec (.stationaryRowCommit f a) s = .next t ∧
        (let x := (t.fl f.val).arr a.val
         let per := l.elems.length / 8
         x.load = (if l.next = 7 then none else some { l with next := l.next + 1, gather := 0 }) ∧
         (l.next < 8 → (if l.epoch = 0 then x.buf0 else x.buf1).rows.getD l.next [] = (l.elems.drop (per * l.next)).take per)) ∧
        OnlyFl f.val s t ∧ Frame [.fls, .regs, .hostOut] s t))

namespace Sys2Proof.Claims
open Sys2Proof.Machine

/-- The feed after an END: a LIVE feed is ENDED, or DONE where its head slot holds no line; another keeps its state (R159). -/
def endedFeed (fd : Feed) : Feed :=
  if fd.state = 1 then { fd with state := if fd.slots ≠ 0 ∧ SMap.get 0 fd.present (fd.index fd.released) = 0 then 3 else 2 }
  else fd

end Sys2Proof.Claims

/-- Feeds (R157 to R161, R190, R244): an END marker that arrives leaves the markers under way and ends a LIVE feed, which is DONE
where its head slot holds no line; at a unit held in reset it is lost to its load queue, which stops; a delivery hands the
slot's lines to the consumer with the mask of those present; a release frees the oldest slot held, moves FL_FEED_HEAD and sends
the feed's credit. -/
def Obligations.FeedSlotsAreDeliveredAndReleasedInOrder : Prop :=
  ∀ (f : FloretId) (e : FeedId) (s : State),
    let fl := s.fl f.val
    let fd := fl.feed e.val
    let i := fd.index fd.deliv
    (bitN fl.ends e.val = true → s.umShut (f.val / 16) = false →
      ∃ t, exec (.feedEndMarker f e) s = .next t ∧ bitN (t.fl f.val).ends e.val = false ∧
        (t.fl f.val).feed e.val = endedFeed fd ∧
        (∀ d, d ≠ e.val → (t.fl f.val).feed d = fl.feed d) ∧ OnlyFl f.val s t ∧ Frame [.fls] s t) ∧
    (bitN fl.ends e.val = true → s.umShut (f.val / 16) = true →
      ∃ t, exec (.feedEndMarker f e) s = .next t ∧ bitN (t.fl f.val).ends e.val = false ∧
        (t.fl f.val).feed e.val = fd ∧ (t.fl f.val).le.stopped = true ∧ (t.reg .fl f.val Off.ordStat).getLsbD 0 = true ∧
        t.reports = s.reports ++ [⟨Code.lineLoss, f.val, 0, 0, flLaunch s f.val⟩] ∧ OnlyFl f.val s t) ∧
    (s.flOn f.val = true → fd.deliverable = true →
      ∃ t, exec (.feedSlotDeliver f e) s = .next t ∧
        (let x := (t.fl f.val).feed e.val
         x.deliv = fd.deliv + 1 ∧ x.head = fd.head ∧ x.present = fd.present ∧
           ∃ sl, x.held = fd.held ++ [sl] ∧ sl.mask = SMap.get 0 fd.present i ∧ sl.lines.length = fd.bl ∧
             ∀ j, j < fd.bl → sl.lines.getD j 0 = (if bitN sl.mask j then
               Memory.readLine s.sram (Vec.nbLine f.val (fd.base + i * fd.bl + j)) else 0)) ∧
        (∀ d, d ≠ e.val → (t.fl f.val).feed d = fl.feed d) ∧ OnlyFl f.val s t ∧ t.sram = s.sram ∧
        t.reg .fl f.val Off.progress = s.reg .fl f.val Off.progress + 1) ∧
    (s.flOn f.val = true → fl.releasable e.val = true →
      ∃ t, exec (.feedSlotRelease f e) s = .next t ∧
        (let x := (t.fl f.val).feed e.val
         x.head = (fd.head + 1) % 2 ^ 32 ∧ x.held = fd.held.tail ∧ x.deliv = fd.deliv ∧
           SMap.get 0 x.present (fd.index fd.released) = 0) ∧
        (let c := (SMap.get (0 : W32) fl.credit e.val).toNat
         ∀ n k, bitN c 31 = true → fl.patchOf e.val fd.released = none →
           s.tref (some f.val) (some (f.val / 16)) (bitsN c 29 0) = .um n k → s.umShut n = false →
           (t.um n).tally k = (s.um n).tally k + 1))

namespace Sys2Proof.Claims
open Sys2Proof.Machine

/-- Engine `g` meets a good descriptor `q` of kind `k` at the head of its queue and has room to start it. -/
def Meets (s : State) (g : Agent) (k : Nat) (q : QDesc) (rest : List QDesc) : Prop :=
  s.engOn g = true ∧ (s.eng g).stopped = false ∧ (s.eng g).fly.length < flyLimit g ∧ (s.eng g).queue = q :: rest ∧
    s.descBad g q.w = false ∧ D.kind q.w = k

/-- The descriptor leaves the queue and joins those started, with `n` lines to move. -/
def Starts (s t : State) (g : Agent) (q : QDesc) (rest : List QDesc) (n : Nat) : Prop :=
  (t.eng g).queue = rest ∧ (t.eng g).nextId = (s.eng g).nextId + 1 ∧ (t.eng g).waiting = false ∧
    ∃ d, (t.eng g).fly = (s.eng g).fly ++ [d] ∧ d.id = (s.eng g).nextId ∧ d.w = q.w ∧ d.lines = n ∧ d.dn = 0

/-- The engine has counted one more completed descriptor: on floret tally 48 or 49, or in the channel's DONE register (R151,
R195). -/
def Counts (s t : State) : Agent → Prop
  | .load f => (t.fl f.val).tally 48 = (s.fl f.val).tally 48 + 1
  | .store f => (t.fl f.val).tally 49 = (s.fl f.val).tally 49 + 1
  | .dma u c => t.reg .ub u.val (Off.dmaDone + 16 * c.val) = s.reg .ub u.val (Off.dmaDone + 16 * c.val) + 1
  | _ => True

/-- The descriptor leaves the queue complete, and counts; nothing else of the engine's lists changes. -/
def Ends (s t : State) (g : Agent) (rest : List QDesc) : Prop :=
  (t.eng g).queue = rest ∧ (t.eng g).fly = (s.eng g).fly ∧ (t.eng g).stopped = false ∧ (t.eng g).waiting = false ∧ Counts s t g

/-- The address that an END of a store queue or of a channel names (R166). -/
def endAddr (q : QDesc) : Nat := addLines (D.addrA q.w) q.off

/-- The entry of a GATHER list in a near bank for tile `k` (R166). -/
def gatherEntry (s : State) (f : FloretId) (w k : Nat) : Nat :=
  (lineW64 (Memory.readLine s.sram (Vec.nbLine f.val (D.nb w + k / 16))) (k % 16)).toNat

/-- The agent moves lines of its own: a load queue, a store queue or a channel of the umbel DMA. -/
def Mover (g : Agent) : Prop := (∃ f, g = .load f) ∨ (∃ f, g = .store f) ∨ ∃ u c, g = .dma u c

end Sys2Proof.Claims

/-- Data descriptors (R157, R166, R168, R186): TILES starts with 33 lines a tile, LINES with its count, a load into a feed taking
its slots; GATHER of a load queue with 33 lines a tile, read from the addresses of its near-bank list, GATHER of a DMA channel
with as many, its list still to be read; QOUT with nothing quantised waits for rows, and takes one that stands there; DRAIN
starts once its close tally exceeds the DRAINs started of its tile, and holds its queue until then.

DRAIN_ROW_READ (R45, R84, R86, R167): the drain that is to take a closed tile's next row takes it, when the store engine holds
room for its lines: the row's requantised lines stand in the descriptor, and after row 31 the tile is closed no more. Where
the spec leaves a corner open the model follows log entries 18, 19 and 32. -/
def Obligations.DataDescriptorsStartAndDrainRows : Prop :=
  (∀ (g : Agent) (f : FloretId) (u : UmbelId) (c : ChannelId) (s : State) (q : QDesc) (rest : List QDesc),
    (Meets s g 1 q rest → ∃ t, exec (.tilesDesc g) s = .next t ∧ Starts s t g q rest (33 * D.count q.w)) ∧
    (Meets s g 2 q rest → ∃ t, exec (.linesDesc g) s = .next t ∧ Starts s t g q rest (D.count q.w)) ∧
    (D.feedDst q.w = true →
      let fd := (s.fl f.val).feed (D.feed q.w)
      (Meets s (.load f) 1 q rest → ∃ t, exec (.tilesDesc (.load f)) s = .next t ∧
        (t.fl f.val).feed (D.feed q.w) = { fd with resv := fd.resv + loadSlots q.w fd.bl }) ∧
      (Meets s (.load f) 2 q rest → ∃ t, exec (.linesDesc (.load f)) s = .next t ∧
        (t.fl f.val).feed (D.feed q.w) = { fd with resv := fd.resv + loadSlots q.w fd.bl })) ∧
    (Meets s (.load f) 3 q rest →
      ∃ t, exec (.gather (.load f)) s = .next t ∧ Starts s t (.load f) q rest (33 * D.count q.w) ∧
        ∃ d ∈ (t.eng (.load f)).fly, d.id = (s.eng (.load f)).nextId ∧ ∀ i, i < 33 * D.count q.w →
          t.srcOf (.load f) d i = some (addLines (gatherEntry s f q.w (i / 33) % 2 ^ 52) (i % 33))) ∧
    (Meets s (.dma u c) 3 q rest →
      ∃ t, exec (.gather (.dma u c)) s = .next t ∧ Starts s t (.dma u c) q rest (33 * D.count q.w) ∧
        ∃ d ∈ (t.eng (.dma u c)).fly, d.id = (s.eng (.dma u c)).nextId ∧ d.rd = 0 ∧
          d.listLines = cdiv (D.count q.w) 16) ∧
    (Meets s (.store f) 8 q rest → (s.fl f.val).qx = [] → (s.fl f.val).qxq = [] →
      ∃ t, exec (.qout f) s = .next t ∧ Starts s t (.store f) q rest 0) ∧
    (∀ row, Meets s (.store f) 8 q rest → (s.fl f.val).qx = [[row]] → (s.fl f.val).qxq = [] →
      (∀ d ∈ (s.fl f.val).se.fly, D.kind d.w ≠ 8) →
      (s.fl f.val).se.outstanding + (qoutOut q.w 0 row [row.word]).length ≤ 1024 →
      ∃ t, exec (.qout f) s = .next t ∧ (t.fl f.val).qx = [] ∧ (t.fl f.val).se.queue = rest ∧
        ∃ d ∈ (t.fl f.val).se.fly, d.id = (s.fl f.val).se.nextId ∧ d.w = q.w ∧ d.rowsRead = 1 ∧
          d.lines = (qoutOut q.w 0 row [row.word]).length) ∧
    (Meets s (.store f) 7 q rest →
      let n := SMap.get (0 : W32) (s.fl f.val).drains (D.acc q.w) + 1
      (Met ((s.fl f.val).tally (56 + D.acc q.w)) n →
        ∃ t, exec (.drain f) s = .next t ∧ Starts s t (.store f) q rest (32 * rowLines q.w + b2n (drainScale q.w)) ∧
          SMap.get (0 : W32) (t.fl f.val).drains (D.acc q.w) = n ∧ OnlyFl f.val s t) ∧
      (¬ Met ((s.fl f.val).tally (56 + D.acc q.w)) n →
        ∃ t, exec (.drain f) s = .next t ∧ t.fl f.val = { s.fl f.val with se := { (s.fl f.val).se with waiting := true } } ∧
          OnlyFl f.val s t ∧ Frame [.fls] s t))) ∧
  (∀ (f : FloretId) (s : State) (d : Desc),
    let fl := s.fl f.val
    let r := d.rowsRead
    fl.drainNext = some d → s.flOn f.val = true → fl.se.outstanding + rowLines d.w + 1 ≤ 1024 →
    ∃ t, exec (.drainRowRead f) s = .next t ∧
      (∃ d', (t.fl f.val).se.desc d.id = some d' ∧ d'.rowsRead = r + 1 ∧
        ∀ x ∈ drainOut d.w (b2n fl.c6) r (fl.drainRow d.w r).1,
          SMap.get none d'.data x.1 = some ⟨x.2.1, false, x.2.2⟩ ∧ bitN d'.ret x.1 = true) ∧
      (r < 31 → SMap.get 0 (t.fl f.val).closed (D.acc d.w) = r + 2) ∧
      (r = 31 → SMap.get 0 fl.again (D.acc d.w) = 0 → SMap.get 0 (t.fl f.val).closed (D.acc d.w) = 0) ∧
      OnlyFl f.val s t ∧ t.sram = s.sram)

/-- Descriptors without lines (R151, R166, R169, R186): NOP ends; WAIT ends when its tally has reached its target, and otherwise
holds the queue; a held WAIT ends when the tally reaches it. Each counts as completed, and a queue's WAITs hold only its own
queue.

R166, R169, R308: a SIGNAL or END with nothing started before it acts at once: the signal adds its value to the tally of this
device that it names, or leaves as a packet for another device, whose answer ends it; a lost one stops its engine; the END of a
load queue sends its marker to the feed, that of a store queue or a channel ends the feed of the near bank it names, or of each
floret of its mask; behind another descriptor's lines either waits its turn. -/
def Obligations.WaitAndSignalDescriptorsActInTurn : Prop :=
  (∀ (g : Agent) (s : State) (q : QDesc) (rest : List QDesc),
    let met := Met (s.tallyVal (s.tref (agentFl g) (agentUm g) (D.tally q.w))) (BitVec.ofNat 32 (D.value q.w))
    (Meets s g 0 q rest → ∃ t, exec (.descNop g) s = .next t ∧ Ends s t g rest ∧ Frame [.fls, .ums, .regs, .fe] s t) ∧
    (Meets s g 4 q rest → met → ∃ t, exec (.descWait g) s = .next t ∧ Ends s t g rest ∧ Frame [.fls, .ums, .regs, .fe] s t) ∧
    (Meets s g 4 q rest → ¬ met →
      ∃ t, exec (.descWait g) s = .next t ∧ t.eng g = { s.eng g with waiting := true } ∧ Frame [.fls, .ums, .fe] s t) ∧
    (Meets s g 4 q rest → (s.eng g).waiting = true → met →
      ∃ t, exec (.descWaitSatisfied g) s = .next t ∧ Ends s t g rest ∧ Frame [.fls, .ums, .regs, .fe] s t)) ∧
  (∀ (g : Agent) (s : State) (q : QDesc) (rest : List QDesc),
    let r := s.tref (agentFl g) (agentUm g) (D.tally q.w)
    let v := BitVec.ofNat 32 (D.value q.w)
    let fw := s.flowOf g
    let e := D.feed q.w
    let a := endAddr q
    (Meets s g 5 q rest → (s.eng g).fly = [] →
      (∀ n i, r = .um n i → s.umShut n = false →
        ∃ t, exec (.descSignal g) s = .next t ∧ Ends s t g rest ∧ (t.um n).tally i = (s.um n).tally i + v) ∧
      (∀ n i, r = .fl n i → i < 64 → s.flPresent n = true → s.umShut (n / 16) = false → hwTally i = false →
        ∃ t, exec (.descSignal g) s = .next t ∧ Ends s t g rest ∧ (t.fl n).tally i = (s.fl n).tally i + v) ∧
      (∀ n i, r = .um n i → s.umShut n = true → g ≠ .copy →
        ∃ t, exec (.descSignal g) s = .next t ∧ (t.eng g).queue = rest ∧ (t.eng g).fly = [] ∧ (t.eng g).stopped = true ∧
          (t.eng g).lossStop = true) ∧
      (∀ dev l dl, r = .remote dev → hop s dev 0 fw.2.2 = some (l, dl) → s.fab.closedFlows.contains (fw.1, fw.2.1) = false →
        ∃ t p d, exec (.descSignal g) s = .next t ∧ GoesOut s t l p ∧ p.dst = dev ∧
          p.body = .signal (BitVec.ofNat 32 (refForRemote (agentFl g) (agentUm g) (D.tally q.w))) v ∧
          (t.eng g).queue = rest ∧ (t.eng g).fly = [d] ∧ d.sent = 1)) ∧
    (∀ f, g = .load f → Meets s g 6 q rest → (s.eng g).fly = [] →
      ∃ t, exec (.descEnd g) s = .next t ∧ Ends s t g rest ∧ bitN (t.fl f.val).ends e = true) ∧
    (((∃ f, g = .store f) ∨ ∃ u c, g = .dma u c ∧ D.flmask q.w = 0) → Meets s g 6 q rest → (s.eng g).fly = [] →
      (∀ n, s.isOwn a = true → s.placeOf (localOf a) = .nb n → s.umShut (n / 16) = false →
        ∃ t, exec (.descEnd g) s = .next t ∧ Ends s t g rest ∧ (t.fl n).feed e = endedFeed ((s.fl n).feed e)) ∧
      (∀ l dl, s.isOwn a = false → hop s (devOf a) (localOf a) fw.2.2 = some (l, dl) →
        s.fab.closedFlows.contains (fw.1, fw.2.1) = false →
        ∃ t p d, exec (.descEnd g) s = .next t ∧ GoesOut s t l p ∧ p.dst = devOf a ∧ p.body = .endMark (localOf a) e ∧
          (t.eng g).queue = rest ∧ (t.eng g).fly = [d] ∧ d.sent = 1)) ∧
    (∀ u c, g = .dma u c → D.flmask q.w ≠ 0 → Meets s g 6 q rest → (s.eng g).fly = [] → s.umShut u.val = false →
      ∃ t, exec (.descEnd g) s = .next t ∧ Ends s t g rest ∧
        ∀ k, k < 16 → bitN (D.flmask q.w) k = true → s.flPresent (16 * u.val + k) = true →
          (t.fl (16 * u.val + k)).feed e = endedFeed ((s.fl (16 * u.val + k)).feed e)) ∧
    (∀ d ds, (s.eng g).fly = d :: ds → D.kind d.w ≠ 5 → D.kind d.w ≠ 6 →
      (Meets s g 5 q rest → ∃ t, exec (.descSignal g) s = .next t ∧ Starts s t g q rest 0) ∧
      (Meets s g 6 q rest → ∃ t, exec (.descEnd g) s = .next t ∧ Starts s t g q rest 0)))

namespace Sys2Proof.Claims
open Sys2Proof.Machine

/-- The local address `a` is a line of a near bank or an umbel buffer whose units serve. -/
def SramServes (s : State) (a : Nat) : Prop :=
  (∃ n, s.placeOf a = .nb n ∧ s.umShut (n / 16) = false) ∨ (∃ u, s.placeOf a = .ub u ∧ s.umShut u = false)

/-- The line may arrive at near-bank address `a`: every feed that it lies in is LIVE and the presence bit of its line is clear
(R157, R177). -/
def MayArrive (s : State) (a : Nat) : Prop :=
  ∀ n, s.placeOf a = .nb n → ∀ p ∈ (s.fl n).feedLines (a / 128 % 32768), (s.fl n).feedFull p = false

/-- Line `i` of started descriptor `d` of a mover has its data, whole, for the one global address `x`, and nothing that the engine
writes there before it is left (R232). -/
def ReadyToWrite (s : State) (g : Agent) (d : Desc) (i x : Nat) (h : Held) : Prop :=
  Mover g ∧ isCast g d.w = false ∧ (s.eng g).desc d.id = some d ∧ s.engOn g = true ∧ i < d.lines ∧ bitN d.dn i = false ∧
    bitN d.sent i = false ∧ bitN d.lost i = false ∧ d.lineData i = some h ∧ h.mask = fullMask ∧ s.dstOf g d i = [x] ∧
    s.inTurn g (fun q => q.dn ||| q.sent) d i = true

/-- The line at `a` holds `l`, and no other byte of the near banks and umbel buffers, and no other memory, changed. -/
def LineStored (s t : State) (a : Nat) (l : Line) : Prop :=
  Memory.readLine t.sram a = l ∧ (∀ b, (b < a ∨ a + 128 ≤ b) → Memory.read t.sram b = Memory.read s.sram b) ∧
    t.hbm = s.hbm ∧ t.hostMem = s.hostMem

/-- Physical line `p` of HBM holds line address `a` with this marker and content. -/
def HoldsLine (s : State) (a p : Nat) (poison : Bool) (l : Line) : Prop := s.lineTag a p = some poison ∧ s.physData p = l

/-- Local address `a` lies in the usable HBM, in a stack that takes requests on a die that runs. -/
def HbmServes (s : State) (a : Nat) : Prop := a < s.hbmEnd ∧ s.hbmDown a = false ∧ s.hbmReady a = true

/-- The line that a mover has written counts: its bit is set while lines of its descriptor are still to come, a tally of a
serving umbel of this device has its count (R153), and the last line of the engine's only descriptor completes it (R151). -/
def LineCounts (s t : State) (g : Agent) (d : Desc) (i : Nat) : Prop :=
  (popN d.lines (setBitN d.dn i true) < d.lines →
    (∃ d', (t.eng g).desc d.id = some d' ∧ bitN d'.dn i = true) ∧
    (∀ n k, D.tallyEn d.w = true → s.tref (agentFl g) (agentUm g) (D.tally d.w) = .um n k → s.umShut n = false →
      (t.um n).tally k = (s.um n).tally k + (if D.cntBytes d.w then 128 else 1))) ∧
  (popN d.lines (setBitN d.dn i true) = d.lines → (s.eng g).fly = [d] → 1 ≤ D.kind d.w → D.kind d.w ≤ 3 →
    s.patchLeft g d = false → (t.eng g).fly = [] ∧ Counts s t g)

end Sys2Proof.Claims

/-- LINE_WRITE and FEED_LINE_ARRIVE (R153, R157, R229, R232, R308): a whole line of a load or store engine or of a channel, for a
serving near bank or umbel buffer of this device, for which its slot is free if it is a feed's, is stored at its destination's
address and nowhere else, and counts; at a feed slot its presence bit is set. One for HBM stands there with its poison, and one
for another device leaves as a WRITE packet on the route, when there is one and the flow is open.

LINE_READ of such an engine (R168, R228, R230): a line of a serving near bank or umbel buffer, or of HBM, of this device, its ECC
clean, comes into the engine as the memory holds it, with its poison; a line of another device leaves as a READ packet on the
route. LINE_READ_RETURN: the data reaches the engine. Where the spec leaves a corner open the model follows log entries 13, 18, 19
and 32. -/
def Obligations.LinesAreReadAndWrittenWhole : Prop :=
  (∀ (g : Agent) (d : Desc) (i x : Nat) (h : Held) (e : Ecc) (s : State), ReadyToWrite s g d i x h →
    let a := localOf x
    (s.isOwn x = true → SramServes s a → MayArrive s a →
      (∃ t, exec (.lineWrite g d.id i e) s = .next t ∧ LineStored s t a h.line ∧ LineCounts s t g d i) ∧
      (s.toFeed g d i = true → ∃ t, exec (.feedLineArrive g d.id i) s = .next t ∧ LineStored s t a h.line ∧
        ∀ n, s.placeOf a = .nb n → ∀ p ∈ (s.fl n).feedLines (a / 128 % 32768),
          bitN (SMap.get 0 ((t.fl n).feed p.1).present p.2.1) p.2.2 = true)) ∧
    (s.isOwn x = true → HbmServes s a →
      ∃ t, exec (.lineWrite g d.id i e) s = .next t ∧ HoldsLine t a (s.phys a) h.poison (if h.poison then 0 else h.line) ∧
        LineCounts s t g d i ∧ t.sram = s.sram ∧ t.hostMem = s.hostMem) ∧
    (∀ l dl, s.isOwn x = false → D.tallyEn d.w = false → hop s (devOf x) a (s.flowOf g).2.2 = some (l, dl) →
      s.fab.closedFlows.contains ((s.flowOf g).1, (s.flowOf g).2.1) = false →
      ∃ t p, exec (.lineWrite g d.id i e) s = .next t ∧ GoesOut s t l p ∧ p.sub = b2n dl ∧ p.dst = devOf x ∧
        p.body = .write a fullMask h.line h.poison none (D.cntBytes d.w) ∧ p.tok = s.fab.nextTok ∧
        (∃ d', (t.eng g).desc d.id = some d' ∧ bitN d'.sent i = true) ∧ t.sram = s.sram ∧ t.hbm = s.hbm)) ∧
  (∀ (g : Agent) (d : Desc) (i x : Nat) (s : State), Mover g → (s.eng g).desc d.id = some d →
    let a := localOf x
    (s.readable g d i = true → s.srcOf g d i = some x →
      (s.isOwn x = true → SramServes s a →
        ∃ t, exec (.lineRead g d.id i .clean) s = .next t ∧
          (∃ d', (t.eng g).desc d.id = some d' ∧ bitN d'.rd i = true ∧
            SMap.get none d'.data i = some ⟨Memory.readLine s.sram a, SMap.get false s.sramBad a, fullMask⟩) ∧
          t.sram = s.sram ∧ t.hbm = s.hbm ∧ t.hostMem = s.hostMem) ∧
      (∀ ln, s.isOwn x = true → HbmServes s a → HoldsLine s a (s.phys a) false ln →
        ∃ t, exec (.lineRead g d.id i .clean) s = .next t ∧
          (∃ d', (t.eng g).desc d.id = some d' ∧ bitN d'.rd i = true ∧ SMap.get none d'.data i = some ⟨ln, false, fullMask⟩) ∧
          t.sram = s.sram ∧ t.hbm.data = s.hbm.data ∧ t.hbm.info = s.hbm.info ∧ t.hostMem = s.hostMem) ∧
      (∀ l dl, s.isOwn x = false → hop s (devOf x) a (s.flowOf g).2.2 = some (l, dl) →
        s.fab.closedFlows.contains ((s.flowOf g).1, (s.flowOf g).2.1) = false →
        ∃ t p, exec (.lineRead g d.id i .clean) s = .next t ∧ GoesOut s t l p ∧ p.sub = b2n dl ∧ p.dst = devOf x ∧
          p.body = .read a ∧ p.tok = s.fab.nextTok ∧ (∃ d', (t.eng g).desc d.id = some d' ∧ bitN d'.rd i = true) ∧
          ∃ w ∈ t.fab.awaits, w.tok = s.fab.nextTok ∧ w.kind = .line ∧ w.agent = g ∧ w.d = d.id ∧ w.i = i)) ∧
    (s.engOn g = true → bitN d.rd i = true → (SMap.get none d.data i).isSome = true → bitN d.ret i = false →
      ∃ t, exec (.lineReadReturn g d.id i) s = .next t ∧
        (∃ d', (t.eng g).desc d.id = some d' ∧ bitN d'.ret i = true ∧ d'.data = d.data) ∧ Frame [.fls, .ums, .reports] s t))

/-- R171, R188: a bad descriptor at the head of a queue stops its engine, with the fault DESC_ERR, and leaves the queue as it is;
no memory changes.

LINE_DROP_REPORT (R244 to R247): a lost line, reported, is counted as a write or a read lost, sets WR_LOSS or RD_LOSS, for a
channel its loss bit, and stops the engine with the fault LINE_LOSS. -/
def Obligations.BadDescriptorsAndLostLinesStopTheirEngine : Prop :=
  (∀ (g : Agent) (s : State) (q : QDesc) (rest : List QDesc),
    s.engOn g = true → (s.eng g).stopped = false → (s.eng g).fly.length < flyLimit g → (s.eng g).queue = q :: rest →
    s.descBad g q.w = true →
    ∃ t r, exec (.tilesDesc g) s = .next t ∧ exec (.linesDesc g) s = .next t ∧ exec (.gather g) s = .next t ∧
      exec (.descNop g) s = .next t ∧ exec (.descWait g) s = .next t ∧ exec (.descWaitSatisfied g) s = .next t ∧
      exec (.descSignal g) s = .next t ∧ exec (.descEnd g) s = .next t ∧
      (∀ f, g = .store f → exec (.drain f) s = .next t ∧ exec (.qout f) s = .next t) ∧
      (∀ u c, g = .dma u c → exec (.allocGran u c) s = .next t) ∧
      t.eng g = { s.eng g with stopped := true, descStop := true } ∧ t.reports = s.reports ++ [r] ∧ r.code = Code.descErr ∧
      t.sram = s.sram ∧ t.hbm = s.hbm ∧ t.hostMem = s.hostMem) ∧
  (∀ (f : FloretId) (d : Desc) (i : Nat) (s : State), i < d.lines → bitN d.lost i = true → bitN d.dn i = false →
    ((s.fl f.val).se.desc d.id = some d → bitN d.ret i = true →
      ∃ t rs, exec (.lineDropReport (.store f) d.id i) s = .next t ∧ (t.fl f.val).se.stopped = true ∧
        (t.fl f.val).se.lossStop = true ∧ t.reg .fl f.val Off.wrLossCnt = s.reg .fl f.val Off.wrLossCnt + 1 ∧
        (t.reg .fl f.val Off.ordStat).getLsbD 0 = true ∧
        t.reports = s.reports ++ ⟨Code.lineLoss, f.val, 0, 0, flLaunch s f.val⟩ :: rs ∧
        t.sram = s.sram ∧ t.hbm = s.hbm ∧ t.hostMem = s.hostMem) ∧
    ((s.fl f.val).le.desc d.id = some d → bitN d.ret i = false → D.kind d.w < 7 →
      ∃ t, exec (.lineDropReport (.load f) d.id i) s = .next t ∧ (t.fl f.val).le.stopped = true ∧
        (t.fl f.val).le.lossStop = true ∧ t.reg .fl f.val Off.rdLossCnt = s.reg .fl f.val Off.rdLossCnt + 1 ∧
        (t.reg .fl f.val Off.ordStat).getLsbD 1 = true ∧
        t.reports = s.reports ++ [⟨Code.lineLoss, f.val, 0, 0, flLaunch s f.val⟩] ∧
        t.sram = s.sram ∧ t.hbm = s.hbm ∧ t.hostMem = s.hostMem)) ∧
  (∀ (u : UmbelId) (c : ChannelId) (d : Desc) (i : Nat) (s : State), i < d.lines → bitN d.lost i = true →
    bitN d.dn i = false → ((s.um u.val).chan c.val).eng.desc d.id = some d →
    ∃ t, exec (.lineDropReport (.dma u c) d.id i) s = .next t ∧ ((t.um u.val).chan c.val).eng.stopped = true ∧
      ((t.um u.val).chan c.val).eng.lossStop = true ∧ (t.reg .ub u.val Off.dmaLoss).getLsbD c.val = true ∧
      t.sram = s.sram ∧ t.hbm = s.hbm ∧ t.hostMem = s.hostMem)

/-- Patches (R105 to R109, R161): a request names the patch feed's next slot and the units of its tile, for which zero records are
written at once, and the slot answered, where the launch has no delta pack; the umbel's decoder reads the index word of its
first request's next unit: a zero word gives the unit's empty records, an entry that passes its checks the records of its four
stationary tiles, counted; one that comes poisoned or fails its checks gives none, sets DD_CHECK_ERR and raises the weight-stream
fault at the pack's address. A record line is stored at its slot. Where the spec leaves a corner open the model follows log
entries 32 and 35. -/
def Obligations.PatchUnitsAnswerTheirRequests : Prop :=
  ∀ (f : FloretId) (u : UmbelId) (s : State),
    (∀ d e a, (s.fl f.val).patchNext = some (d, e) → s.flOn f.val = true → (s.fl f.val).le.stopped = false →
      ((s.fl f.val).feed e).patch = true → ((s.fl f.val).feed e).slots ≠ 0 →
      ((s.fl f.val).feed e).asked < ((s.fl f.val).feed e).released + ((s.fl f.val).feed e).slots →
      s.srcOf (.load f) d (33 * d.asked) = some a →
      let fl := s.fl f.val
      let fd := fl.feed e
      let line := fd.base + fd.index fd.asked * fd.bl
      let n := if 72 ≤ fd.bl then 8 else 4
      ∃ t : State, exec (.patchRequest f) s = .next t ∧ ((t.fl f.val).feed e).asked = fd.asked + 1 ∧
        (fl.pack ≠ 0 → ∃ r, (t.um (f.val / 16)).ddq = (s.um (f.val / 16)).ddq ++ [r] ∧ r.floret = f.val ∧
          r.feed = e ∧ r.slot = fd.asked ∧ r.pack = fl.pack ∧ r.line = line ∧
          ∀ k, s.unitOf fl a false = some k → fd.bl < 72 → r.units = [k]) ∧
        (fl.pack = 0 → SMap.get 0 ((t.fl f.val).feed e).answered (fd.index fd.asked) = 1 ∧
          ((∀ j, j < n → ∀ p ∈ fl.feedLines ((line + j) % 32768), fl.feedFull p = false) →
            ∀ j, j < n → Memory.readLine t.sram (Vec.nbLine f.val (line + j)) = 0))) ∧
    (∀ r rs unit us (es : List Ecc), (s.um u.val).ddq = r :: rs → r.units = unit :: us → (s.um u.val).held = false →
      s.pw.trip = false → s.ddWaits u.val = false →
      let q : Req := ⟨.ub, u.val, 0x200 + u.val⟩
      let x := s.readSpan q (r.pack + 16 * s.hbmGetN 4 (r.pack + 0x20) + 4 * unit) 4 es
      let s1 := x.2.2.2.addReg .ub u.val Off.ddLines x.2.2.1
      let ea := r.pack + 16 * ofBytes x.1
      let n := bitsN (s1.hbmGetN 2 ea) 10 0
      let y := s1.readSpan q ea (136 + 4 * n) (es.drop x.2.2.1)
      let gives (t : State) (ls : List Line) := (∃ o, (t.um u.val).ddout = (s.um u.val).ddout ++ [o] ∧ o.lines = ls ∧
        o.req = r ∧ o.dn = 0) ∧ t.reg .ub u.val Off.ddUnits = s.reg .ub u.val Off.ddUnits + 1 ∧ OnlyUm u.val s t
      let fails (t : State) := (t.um u.val).ddout = (s.um u.val).ddout ∧ (t.reg .ub u.val Off.ddStat).getLsbD 0 = true ∧
        OnlyUm u.val s t ∧ ∃ rep, rep ∈ t.reports ∧ rep.code = Code.weightStream ∧ rep.src = r.floret ∧ rep.addr = r.pack ∧
          rep.info = unit
      (x.2.1 = false → ofBytes x.1 = 0 →
        ∃ t, exec (.patchUnitAnswer ⟨u, es⟩) s = .next t ∧ gives t (List.replicate 4 0)) ∧
      (x.2.1 = false → ofBytes x.1 ≠ 0 → y.2.1 = false → entryOk unit y.1 = true →
        ∃ t, exec (.patchUnitAnswer ⟨u, es⟩) s = .next t ∧
          gives t (recordOf y.1 0 0 ++ recordOf y.1 0 1 ++ recordOf y.1 1 0 ++ recordOf y.1 1 1) ∧
          t.reg .ub u.val Off.ddGroups = s.reg .ub u.val Off.ddGroups + BitVec.ofNat 32 n) ∧
      ((x.2.1 = true ∨ (ofBytes x.1 ≠ 0 ∧ (y.2.1 = true ∨ entryOk unit y.1 = false))) →
        ∃ t, exec (.patchUnitAnswer ⟨u, es⟩) s = .next t ∧ fails t)) ∧
    (∀ o i, (s.um u.val).ddout.find? (fun x => x.id = o.id) = some o → (s.um u.val).held = false → s.pw.trip = false →
      i < o.lines.length → bitN o.dn i = false → bitN o.lost i = false → (s.um u.val).ddTurn o i = true →
      let a := Vec.nbLine o.req.floret (o.req.line + i)
      s.placeOf a = .nb o.req.floret → s.umShut (o.req.floret / 16) = false → MayArrive s a →
      ∃ t, exec (.feedLineArrive (.dd u) o.id i) s = .next t ∧ exec (.lineWrite (.dd u) o.id i .clean) s = .next t ∧
        LineStored s t a (o.lines.getD i 0))

/-- DMA_DESCRIPTOR_START (R185): once the doorbell tally has passed its next descriptor, an idle channel takes it from its
ring in the umbel buffer; a good one waits at the head of the channel's queue, a bad one stops the channel.

R181, R182: ALLOC takes the lowest free granules for its owner, all or none, and its descriptor starts with the lines of
its result, each word a granule or 0xFFFF; FREE starts with the lines of its list to read, and, its list read, frees exactly the
granules listed that its owner holds, leaves every other, and completes. Where the spec leaves a corner open the model follows
log entry 19. -/
def Obligations.UmbelChannelsFetchAndGranulesAreOwned : Prop :=
  (∀ (u : UmbelId) (c : ChannelId) (s : State),
    let ch := (s.um u.val).chan c.val
    let a := 0x10100000000 + 0x800000 * u.val + ch.entry ch.next
    let w := Memory.readN s.sram 32 a
    (s.um u.val).held = false → s.pw.trip = false → ch.size ≠ 0 → ch.eng.stopped = false → ch.eng.queue = [] →
    ch.eng.fly.length < 16 → Met ((s.um u.val).tally ch.bell) (ch.b + BitVec.ofNat 32 ch.next + 1) →
    ∃ t, exec (.dmaDescriptorStart u c) s = .next t ∧ ((t.um u.val).chan c.val).next = ch.next + 1 ∧
      ((t.um u.val).chan c.val).eng.queue.map (·.w) = [w] ∧ t.sram = s.sram ∧ OnlyUm u.val s t ∧
      ((t.um u.val).chan c.val).eng.stopped = s.descBad (.dma u c) w) ∧
  (∀ (u : UmbelId) (c : ChannelId) (s : State),
    let g : Agent := .dma u c
    let um := s.um u.val
    let own (t : State) (x : Nat) := SMap.get 0 (t.um u.val).pool x
    let result (t : State) (q : QDesc) (gs : List Nat) := ∃ d ∈ (t.eng g).fly, d.id = (s.eng g).nextId ∧
      ∀ j, j < D.count q.w → ∃ h, SMap.get none d.data (j / 64) = some h ∧
        bitsN h.line.toNat (16 * (j % 64) + 15) (16 * (j % 64)) = gs.getD j 0xFFFF
    (∀ q rest, Meets s g 9 q rest → D.count q.w ≤ um.freeList.length →
      ∃ t, exec (.allocGran u c) s = .next t ∧
        (∀ x, x ∈ um.freeList.take (D.count q.w) → own t x = D.owner q.w) ∧
        (∀ x, x ∉ um.freeList.take (D.count q.w) → own t x = own s x) ∧
        Starts s t g q rest (cdiv (D.count q.w) 64) ∧ result t q (um.freeList.take (D.count q.w)) ∧ OnlyUm u.val s t) ∧
    (∀ q rest, Meets s g 9 q rest → um.freeList.length < D.count q.w →
      ∃ t, exec (.allocGran u c) s = .next t ∧ (∀ x, own t x = own s x) ∧
        Starts s t g q rest (cdiv (D.count q.w) 64) ∧ result t q [] ∧
        (t.reg .ub u.val Off.poolStat).getLsbD 1 = true ∧
        t.reg .ub u.val Off.poolFail = s.reg .ub u.val Off.poolFail + 1 ∧ OnlyUm u.val s t) ∧
    (let ready := (um.chan c.val).eng.fly.find?
        (fun d => D.kind d.w == 10 && (List.range d.listLines).all (fun i => bitN d.ret i))
     (∀ q rest, ready = none → Meets s g 10 q rest →
        ∃ t, exec (.freeGran u c) s = .next t ∧ Starts s t g q rest 0 ∧ (∀ x, own t x = own s x)) ∧
     (∀ d, ready = some d →
        let line (i : Nat) := match SMap.get none d.data i with
          | some h => h.line
          | none => 0
        let listed := freeEntries (D.count d.w) line
        ∃ t, exec (.freeGran u c) s = .next t ∧
          (∀ x, x ∈ listed → x < 4096 → own s x = D.owner d.w → own t x = 0) ∧
          (∀ x, (x ∉ listed ∨ 4096 ≤ x ∨ own s x ≠ D.owner d.w) → own t x = own s x) ∧
          ((s.eng g).fly = [d] → (t.eng g).fly = [] ∧ Counts s t g))))

namespace Sys2Proof.Claims
open Sys2Proof.Machine

/-- The result word of an allocator's port (R204): HC_KV_RESULT for the page port, the masters' own for the others. -/
def kvWord (t : State) (k : Nat) : KvPort → Nat
  | .page => t.regN .hc k Off.kvResult
  | .frontEnd => SMap.get 0 t.fe.kvRes (2 * k)
  | .umc => SMap.get 0 t.fe.kvRes (2 * k + 1)

/-- A sequence command ends (R225): FE_SEQ_STAT.RESULT holds `res`, BUSY falls and SEQ_DONE is raised. -/
def SeqEnds (t : State) (res : Nat) : Prop :=
  t.fe.seqOp = none ∧ bitsN (t.regN .fe 0 0x718) 7 4 = res ∧ (t.reg .fe 0 Off.evtRaw).getLsbD 24 = true

/-- Nothing holds back a CLOSE or SWITCH of the slot (R222, R223): no released launch names it, no summary of it is being
built, no length update of it waits. -/
def SeqQuiet (s : State) (q : Nat) : Prop :=
  s.namesSeq q false = false ∧ s.building q = false ∧ (∀ l ∈ s.fe.lens, l.slot ≠ q)

/-- The byte memories of the two states are the same. -/
def SameMemories (s t : State) : Prop := t.sram = s.sram ∧ t.hbm = s.hbm ∧ t.hostMem = s.hostMem

/-- The line that holds byte `a` of HBM is in the usable range and good. -/
def GoodLine (s : State) (a : Nat) : Prop :=
  a < s.hbmEnd ∧ ∃ l, HoldsLine s (a / 128 * 128) (s.phys (a / 128 * 128)) false l

/-- The lines of a sorrel header's result (R216). -/
def resultAt (h : SrHdr) (i : Nat) : Nat := (h.result + 128 * i) % 2 ^ 52

/-- Every result line of a sorrel header goes to a near bank or umbel buffer of this device that takes it, and its count to a
tally of a serving umbel of this device. -/
def ResultsServe (s : State) (h : SrHdr) : Prop :=
  (∀ i, i < cdiv h.ncand 16 →
    s.isOwn (resultAt h i) = true ∧ SramServes s (localOf (resultAt h i)) ∧ MayArrive s (localOf (resultAt h i))) ∧
  ∃ n k, s.tref none none h.rtally = .um n k ∧ s.umShut n = false

/-- The result lines of the ranked entries `xs` stand at the header's RESULT, and each has counted on RTALLY (R216). -/
def SrAnswered (s t : State) (h : SrHdr) (xs : List (W32 × Nat)) : Prop :=
  (∀ i, i < cdiv h.ncand 16 → Memory.readLine t.sram (localOf (resultAt h i)) = (srLines h.ncand xs).getD i 0) ∧
  ∀ n k, s.tref none none h.rtally = .um n k → (t.um n).tally k = (s.um n).tally k + BitVec.ofNat 32 (cdiv h.ncand 16)

/-- A block ranks before another (R213): at a higher score, or at the same score with the lower number. -/
def RanksBefore (x y : W32 × Nat) : Prop :=
  Fp.valKey false y.1 < Fp.valKey false x.1 ∨ (Fp.valKey false x.1 = Fp.valKey false y.1 ∧ x.2 < y.2)

/-- The score of a block with summary lines `hi` and `lo` against the query lines `q` of header line `l` (R212). -/
def blockScore (c6 : Bool) (l : Line) (q : Nat → Line) (hi lo : Line) : W32 :=
  let sc := (List.range (SrHdr.of l).nhead).map
    (fun n => srScore c6 (srDot (q n) hi lo) (bitsN l.toNat (16 * (18 + n) + 15) (16 * (18 + n))))
  sc.tail.foldl srMax (sc.headD 0)

/-- The summary of block `i` for a header: its first line's address in stack `k` (R198, R211). -/
def summaryAt (s : State) (k : Nat) (h : SrHdr) (i : Nat) : Nat :=
  let p := s.kvPool h.pool
  p.area k ((frameOf (s.hbmGetN 4 (p.mapEntry k h.slot h.gen (i / 8 / 33)))).getD 0) h.pair + 256 * (i / 8 % 33)

/-- Different lines of `A` have different places in HBM, under a migration's map too (R293, R296). -/
def Apart (s : State) (A : Nat → Prop) : Prop := ∀ x y, A x → A y → x ≠ y → s.phys x ≠ s.phys y ∧ s.shadow x ≠ s.phys y

/-- The state in which the front end has taken a sequence command and read the slot's entry (R224). -/
def taken (s : State) (op q arg : Nat) : State :=
  ({ s with fe := { s.fe with seqOp := some ⟨op, q, arg, false⟩ } } : State).memTouch 64 (s.seqAddr q)

/-- CLOSE of entry `e` (R223): CLOSING, then each frame that its block tables and map records list freed and its entry
cleared, a frame of both tables once; then FREE. -/
def closed (s : State) (q : Nat) (e : SeqEntry) : State :=
  let u := (s.seqSet q 4 e.gen).seqStart
  let v := (u.freeTable e 1 (e.listed u 0)).freeTable e 0 (fun _ _ => false)
  ((v.freeMaps q e 0).freeMaps q e 1).seqSet q 0 e.gen

/-- SWITCH of entry `e` (R222): the other generation is active; the frames that the old one alone lists are freed and its
entries cleared; no block of the now inactive generation has a summary. -/
def switched (s : State) (q : Nat) (e : SeqEntry) : State :=
  let n := 1 - e.gen
  let u := ((s.seqSet q 3 e.gen).seqStart).seqSet q 3 n
  let v := (u.freeTable e e.gen (e.listed u n)).freeMaps q e e.gen
  (v.memPutN 4 (s.seqAddr q + 32) 0).seqSet q 1 n

end Sys2Proof.Claims

/-- The frame allocator (R204): ALLOC gives the lowest free frame of the pool in the stack to the owner and answers it;
without one it answers none. FREE of a frame that the owner holds frees it; any other FREE changes no frame, is counted and
flagged. A command for a pool that is not enabled, and operation 3, set CMD_ERR and change no frame; operation 0 starts nothing.
A stack that does not serve holds the command (log entry 32). -/
def Obligations.FrameAllocatorServesItsPorts : Prop :=
  ∀ (k : StackId) (port : KvPort) (pool : PoolId) (owner frame : W20) (op : W2) (s : State),
    let p := s.kvPool pool.val
    let old := kvWord s k.val port % 2 ^ 20
    let free (f : Nat) : Bool := s.frameOwner p k.val f = 0
    let refused (t : State) : Prop :=
      SameMemories s t ∧ kvWord t k.val port = 0xFFFFF ∧ (t.reg .hc k.val Off.kvStat).getLsbD 2 = true
    (s.stkServes k.val = true →
      (∀ f, p.en = true → (List.range p.frames).find? free = some f →
        ∃ t, exec (.kvAlloc k port pool owner) s = .next t ∧ t.hbm = (s.setFrameOwner p k.val f owner.toNat).hbm ∧
          kvWord t k.val port = f + 2 ^ 31 ∧ t.sram = s.sram ∧ t.hostMem = s.hostMem ∧
          (GoodLine s (ownerAddr s p k.val f) → t.frameOwner p k.val f = owner.toNat)) ∧
      (p.en = true → (∀ f, f < p.frames → free f = false) →
        ∃ t, exec (.kvAlloc k port pool owner) s = .next t ∧ SameMemories s t ∧ kvWord t k.val port = 0xFFFFF ∧
          (t.reg .hc k.val Off.kvStat).getLsbD 1 = true) ∧
      (p.en = true → frame.toNat < p.frames → s.frameOwner p k.val frame.toNat = owner.toNat → owner ≠ 0 →
        ∃ t, exec (.kvFree k port pool owner frame) s = .next t ∧ t.hbm = (s.setFrameOwner p k.val frame.toNat 0).hbm ∧
          kvWord t k.val port = old + 2 ^ 31 ∧ t.sram = s.sram ∧ t.hostMem = s.hostMem ∧
          t.frameOwner p k.val frame.toNat = 0) ∧
      (p.en = true → (p.frames ≤ frame.toNat ∨ s.frameOwner p k.val frame.toNat = 0 ∨
          s.frameOwner p k.val frame.toNat ≠ owner.toNat) →
        ∃ t, exec (.kvFree k port pool owner frame) s = .next t ∧ SameMemories s t ∧ kvWord t k.val port = old ∧
          (t.reg .hc k.val Off.kvStat).getLsbD 0 = true ∧
          t.reg .hc k.val Off.kvBadFree = s.reg .hc k.val Off.kvBadFree + 1) ∧
      (p.en = false → ∃ a b, exec (.kvAlloc k port pool owner) s = .next a ∧ refused a ∧
        exec (.kvFree k port pool owner frame) s = .next b ∧ refused b)) ∧
    (s.stkServes k.val = false → ∃ t, exec (.kvAlloc k port pool owner) s = .next t ∧
      exec (.kvFree k port pool owner frame) s = .next t ∧ Frame [.regs] s t ∧ kvWord t k.val port = kvWord s k.val port ∧
      (port = .page → (t.reg .hc k.val Off.kvStat).getLsbD 8 = true)) ∧
    ((op = 3 ∨ (op ≠ 0 ∧ p.en = false)) → ∃ t, exec (.kvBadOp k port op pool) s = .next t ∧ refused t) ∧
    exec (.kvBadOp k port 0 pool) s = .next s

/-- Sorrel requests (R212 to R218): a header enters its stack's queue of 64, or waits outside it. A stack that serves answers the
oldest: a header in error with no entry, counted, flagged and reported as a corrupt request; else every candidate block is scored
from its summary and the query lines, and the best NCAND entries stand at RESULT in rank order, empty entries after them, each
line counted on RTALLY. -/
def Obligations.SorrelUnitsAnswerHeadersInOrder : Prop :=
  ∀ (k : StackId) (h : Line) (src : OptFloret) (es : List Ecc) (s : State), (∀ e ∈ es, e = .clean) →
    let st := s.stk k.val
    (st.srq.length < 64 →
      ∃ t, exec (.sorrelRequest k h src) s = .next t ∧ (t.stk k.val).srq = st.srq ++ [⟨h, src.map (·.val)⟩] ∧
        (∀ j, j ≠ k.val → t.stk j = s.stk j) ∧ Frame [.hbm] s t) ∧
    (64 ≤ st.srq.length → exec (.sorrelRequest k h src) s = .next s) ∧
    ((st.srq = [] ∨ s.stkServes k.val = false) → exec (.sorrelScanEnd ⟨k, es⟩) s = .next s) ∧
    (∀ r rest, st.srq = r :: rest → s.stkServes k.val = true → ResultsServe s (SrHdr.of r.h) →
      let g := SrHdr.of r.h
      let from_ := r.src.getD (0x220 + k.val)
      (s.srBad k.val r.h = true →
        ∃ t, exec (.sorrelScanEnd ⟨k, es⟩) s = .next t ∧ (t.stk k.val).srq = rest ∧ SrAnswered s t g [] ∧
          t.reg .hc k.val Off.srReq = s.reg .hc k.val Off.srReq + 1 ∧ (t.reg .hc k.val Off.srStat).getLsbD 0 = true ∧
          t.reports = s.reports ++ [⟨Code.sorrelReq, from_, 0, 0, s.launchOf from_⟩]) ∧
      (∀ (hi lo : Nat → Line) (xs : List (W32 × Nat)), s.srBad k.val r.h = false →
        (∀ n, n < g.nhead → SramServes s (g.qaddr + 128 * n) ∧ SMap.get false s.sramBad (g.qaddr + 128 * n) = false) →
        (∀ i ∈ g.cands k.val, let a := summaryAt s k.val g i
          a + 128 < s.hbmEnd ∧ HoldsLine s a (s.phys a) false (hi i) ∧ HoldsLine s (a + 128) (s.phys (a + 128)) false (lo i)) →
        xs.Perm ((g.cands k.val).map (fun i =>
          (blockScore (s.kvPool g.pool).c6 r.h (fun n => Memory.readLine s.sram (g.qaddr + 128 * n)) (hi i) (lo i), i))) →
        xs.Pairwise RanksBefore →
        ∃ t, exec (.sorrelScanEnd ⟨k, es⟩) s = .next t ∧ (t.stk k.val).srq = rest ∧ SrAnswered s t g (xs.take g.ncand) ∧
          t.reg .hc k.val Off.srReq = s.reg .hc k.val Off.srReq + 1 ∧
          t.reg .hc k.val Off.srScan = s.reg .hc k.val Off.srScan + BitVec.ofNat 32 (g.cands k.val).length))

/-- SUMMARY_BUILD (R207, R209): a serving stack takes its oldest waiting block and, where the block and its summary have frames,
writes for each pair the two lines of the summary of its tile, poisoned where a line of the tile is, and counts.
LEN_UPDATE (R207): once no summary of the slot's active generation waits and no released launch names it, LEN and NEXT_POS of its
entry rise by A and the update is done. Where the spec leaves a corner open the model follows log entries 32 and 37. -/
def Obligations.SummariesAndLengthsFollowALaunch : Prop :=
  ∀ (k : StackId) (q : SeqSlot) (es : List Ecc) (s : State), (∀ e ∈ es, e = .clean) →
    (∀ (b : SrBuild) (rest : List SrBuild) (bf sf : Nat) (tile : Nat → Nat → Line) (bad : Nat → Nat → Bool),
      (s.stk k.val).builds = b :: rest → s.stkServes k.val = true →
      let e := s.seqGet b.slot
      let p := s.kvPool e.pool
      let tileAt (pr i : Nat) : Nat := p.area k.val bf pr + 128 * i
      let sumAt (pr : Nat) : Nat := p.area k.val sf pr + 256 * (b.block / 8 % 33)
      let scaleAt (pr : Nat) : Nat := p.partAt k.val + p.scaleOff s.seqSlots + 2 * pr
      let poisoned (pr : Nat) : Bool := (List.range 33).any (bad pr)
      frameOf (s.memGetN 4 (e.table b.gen + 4 * b.block)) = some bf →
      frameOf (s.hbmGetN 4 (p.mapEntry k.val b.slot b.gen (b.block / 8 / 33))) = some sf →
      (∀ pr, pr < p.np → sumAt pr + 128 < s.hbmEnd ∧ ∀ i, i < 33 → tileAt pr i < s.hbmEnd ∧
        HoldsLine s (tileAt pr i) (s.phys (tileAt pr i)) (bad pr i) (tile pr i)) →
      Apart s (fun a => ∃ pr, pr < p.np ∧ (a = sumAt pr ∨ a = sumAt pr + 128 ∨ a = scaleAt pr / 128 * 128 ∨
        ∃ i, i < 33 ∧ a = tileAt pr i)) →
      (∀ pr pr', pr < p.np → pr' < p.np → scaleAt pr / 128 * 128 ≠ sumAt pr' ∧ scaleAt pr / 128 * 128 ≠ sumAt pr' + 128) →
      ∃ t, exec (.summaryBuild ⟨k, es⟩) s = .next t ∧ (t.stk k.val).builds = rest ∧
        t.reg .hc k.val Off.srBuild = s.reg .hc k.val Off.srBuild + BitVec.ofNat 32 p.np ∧
        t.reg .hc k.val Off.srPoison
          = s.reg .hc k.val Off.srPoison + BitVec.ofNat 32 ((List.range p.np).filter poisoned).length ∧
        (∀ pr, pr < p.np →
          let y := sumLines (tile pr) (s.hbmGetN 2 (scaleAt pr))
          (poisoned pr = true → HoldsLine t (sumAt pr) (s.phys (sumAt pr)) true 0 ∧
            HoldsLine t (sumAt pr + 128) (s.phys (sumAt pr + 128)) true 0 ∧ (t.reg .hc k.val Off.srStat).getLsbD 1 = true) ∧
          (poisoned pr = false → HoldsLine t (sumAt pr) (s.phys (sumAt pr)) false y.1 ∧
            HoldsLine t (sumAt pr + 128) (s.phys (sumAt pr + 128)) false y.2.1 ∧
            (y.2.2 = true → (t.reg .hc k.val Off.srStat).getLsbD 2 = true))) ∧
        t.sram = s.sram ∧ t.hostMem = s.hostMem) ∧
    (∀ l, s.fe.lens.find? (fun l => l.slot = q.val) = some l → s.filling q.val = false → s.namesSeq q.val false = false →
      s.kvServes = true →
      ∃ t, exec (.lenUpdate q) s = .next t ∧ t.fe.lens = s.fe.lens.filter (fun x => x.slot ≠ q.val) ∧
        (let u := (s.memPutN 4 (s.seqAddr q.val + 4) (l.len + l.a)).memPutN 4 (s.seqAddr q.val + 8) (l.pos + l.a)
         SameMemories u t) ∧
        (GoodLine s (s.seqAddr q.val) → s.seqAddr q.val % 64 = 0 →
          (t.seqGet q.val).len = (l.len + l.a) % 2 ^ 32 ∧ (t.seqGet q.val).pos = (l.pos + l.a) % 2 ^ 32))

/-- Sequence commands, all stacks serving and none under way (R201, R221 to R225): OPEN of a FREE slot with a good entry opens it;
CLOSE and SWITCH of a slot that nothing holds free the frames they free, clear their entries and end with RESULT 0; REBUILD with a
frame for every summary queues its builds in block order, and ends, GEN_LEN at its argument, when none of them is left; a slot
beyond the table gives RESULT 1, a state that the command does not take 2, a SWITCH before the rebuild 3, a frame that is missing
4, an entry in error 5, a pool that is not enabled 6, an unlisted operation 7. A command while another runs is flagged and starts
nothing. Where the spec leaves a corner open the model follows log entry 32. -/
def Obligations.SequenceCommandsRunToTheirResult : Prop :=
  ∀ (q : SeqSlot) (op : W4) (s : State),
    let arg := bitsN (s.regN .fe 0 0x714) 22 0
    let u (o a : Nat) : State := taken s o q.val a
    let e (o a : Nat) : SeqEntry := (u o a).seqGet q.val
    (s.fe.seqOp = none → s.kvServes = true →
      (s.seqSlots ≤ q.val → ∃ a b c d, exec (.openSeq q) s = .next a ∧ exec (.closeSeq q) s = .next b ∧
        exec (.rebuild q) s = .next c ∧ exec (.switchSeq q) s = .next d ∧ SeqEnds a 1 ∧ SeqEnds b 1 ∧ SeqEnds c 1 ∧
        SeqEnds d 1 ∧ SameMemories s a ∧ SameMemories s b ∧ SameMemories s c ∧ SameMemories s d) ∧
      (q.val < s.seqSlots →
        ((e 1 0).state = 0 → (u 1 0).openBad q.val (e 1 0) = false → ((u 1 0).kvPool (e 1 0).pool).en = true →
          ∃ t, exec (.openSeq q) s = .next t ∧ SeqEnds t 0 ∧ SameMemories ((u 1 0).seqSet q.val 1 (e 1 0).gen) t ∧
            (GoodLine s (s.seqAddr q.val) → s.seqAddr q.val % 64 = 0 →
              t.seqGet q.val = { s.seqGet q.val with state := 1 })) ∧
        ((e 1 0).state ≠ 0 → ∃ t, exec (.openSeq q) s = .next t ∧ SeqEnds t 2 ∧ SameMemories (u 1 0) t) ∧
        ((e 1 0).state = 0 → (u 1 0).openBad q.val (e 1 0) = true →
          ∃ t, exec (.openSeq q) s = .next t ∧ SeqEnds t 5 ∧ SameMemories (u 1 0) t) ∧
        ((e 1 0).state = 0 → (u 1 0).openBad q.val (e 1 0) = false → ((u 1 0).kvPool (e 1 0).pool).en = false →
          ∃ t, exec (.openSeq q) s = .next t ∧ SeqEnds t 6 ∧ SameMemories (u 1 0) t) ∧
        (((e 2 0).state = 1 ∨ (e 2 0).state = 5) → SeqQuiet s q.val →
          ∃ t, exec (.closeSeq q) s = .next t ∧ SeqEnds t 0 ∧ SameMemories (closed (u 2 0) q.val (e 2 0)) t) ∧
        ((e 2 0).state ≠ 1 → (e 2 0).state ≠ 5 →
          ∃ t, exec (.closeSeq q) s = .next t ∧ SeqEnds t 2 ∧ SameMemories (u 2 0) t) ∧
        ((e 4 0).state = 1 → (e 4 0).genLen = (e 4 0).len → SeqQuiet s q.val →
          ∃ t, exec (.switchSeq q) s = .next t ∧ SeqEnds t 0 ∧ SameMemories (switched (u 4 0) q.val (e 4 0)) t) ∧
        ((e 4 0).state = 1 → (e 4 0).genLen ≠ (e 4 0).len →
          ∃ t, exec (.switchSeq q) s = .next t ∧ SeqEnds t 3 ∧ SameMemories (u 4 0) t) ∧
        ((e 4 0).state ≠ 1 → ∃ t, exec (.switchSeq q) s = .next t ∧ SeqEnds t 2 ∧ SameMemories (u 4 0) t) ∧
        ((e 3 arg).state ≠ 1 → ∃ t, exec (.rebuild q) s = .next t ∧ SeqEnds t 2 ∧ SameMemories (u 3 arg) t) ∧
        ((e 3 arg).state = 1 →
          let x := e 3 arg
          let g := 1 - x.gen
          let lo := x.genLen / 64
          let n := arg / 64 - lo
          let y := State.sumFrames q.val x g n lo (u 3 arg)
          (y.1 = true → ∃ t, exec (.rebuild q) s = .next t ∧ t.fe.seqOp = some ⟨3, q.val, arg, true⟩ ∧
            t.sram = (y.2.1.seqSet q.val 2 x.gen).sram ∧ t.hostMem = (y.2.1.seqSet q.val 2 x.gen).hostMem ∧
            t.hbm.data = (y.2.1.seqSet q.val 2 x.gen).hbm.data ∧ t.hbm.info = (y.2.1.seqSet q.val 2 x.gen).hbm.info ∧
            ∀ k, (t.stk k).builds = (s.stk k).builds ++
              ((List.range n).filter (fun i => x.stack (lo + i) = k)).map (fun i => ⟨q.val, g, lo + i⟩)) ∧
          (y.1 = false → ∃ t, exec (.rebuild q) s = .next t ∧ SeqEnds t 4)))) ∧
    (∀ a, s.fe.seqOp = some ⟨3, q.val, a, true⟩ → s.kvServes = true → q.val < s.seqSlots → (s.seqGet q.val).state ≠ 5 →
      (∀ k, k < 8 → ∀ b ∈ (s.stk k).builds, b.slot = q.val → b.gen ≠ 1 - (s.seqGet q.val).gen) →
      ∃ t, exec (.rebuild q) s = .next t ∧ SeqEnds t 0 ∧
        SameMemories ((s.memPutN 4 (s.seqAddr q.val + 32) a).seqSet q.val 1 (s.seqGet q.val).gen) t) ∧
    (∀ o, s.fe.seqOp = some o →
      let flagged (c : Instr) : Prop := ∃ t, exec c s = .next t ∧ (t.reg .fe 0 0x718).getLsbD 8 = true ∧ Frame [.regs] s t
      (o.slot ≠ q.val → flagged (.openSeq q) ∧ flagged (.closeSeq q) ∧ flagged (.rebuild q) ∧ flagged (.switchSeq q)) ∧
      (5 ≤ op.toNat → flagged (.seqBadOp op q))) ∧
    (s.fe.seqOp = none → 5 ≤ op.toNat → ∃ t, exec (.seqBadOp op q) s = .next t ∧ SeqEnds t 7 ∧ SameMemories s t)

namespace Sys2Proof.Claims
open Sys2Proof.Machine

/-- Ring `r` has the good command `w` of opcode `op` at its head (R251 to R253). -/
def AtHead (s : State) (r op w : Nat) : Prop :=
  s.headCmd r = some w ∧ s.cmdBad w = none ∧ bitsN w 7 0 = op ∧ (s.ringC6 (s.ring r) = false ∨ op < 8)

/-- Nothing of the ring is under way, and its completion buffer has room in a place that takes it (R257). -/
def RingIdle (s : State) (r : Nat) : Prop :=
  (s.ring r).live = [] ∧ (s.ring r).held = [] ∧ (s.ring r).sigs = [] ∧ (s.ring r).cplRoom = true ∧
    s.cplReady (s.ring r) = true ∧ s.sec.tdi ≠ 3 ∧ (s.ring r).head < 2 ^ 32

/-- The head command has ended: HEAD moved by one, a record went out where one was due, the ring has the state given and
nothing under way. -/
def HeadEnds (s t : State) (r state : Nat) (record : Bool) : Prop :=
  (t.ring r).head = ((s.ring r).head + 1) % 2 ^ 32 ∧ (t.ring r).state = state ∧ (t.ring r).live = [] ∧
    (t.ring r).cplTail = (if record then ((s.ring r).cplTail + 1) % 2 ^ 32 else (s.ring r).cplTail) ∧
    (t.ring r).tail = (s.ring r).tail

/-- The ring's next record, of bytes `v`, has gone to the host, when the completion buffer lies in the host window (R256, R257). -/
def Posts (s t : State) (r v : Nat) : Prop :=
  let n := s.ringUnit (s.ring r)
  let a := (s.ring r).cplBase + n * ((s.ring r).cplTail % 2 ^ (s.ring r).cplLog2)
  s.placeOf a = .host → HostMsg.line (s.hostAddr (a / 128 * 128)) ((2 ^ n - 1) * 2 ^ (a % 128))
    (BitVec.ofNat 1024 (v % 2 ^ (8 * n) * 2 ^ (8 * (a % 128)))) false s.tdiRuns ∈ t.hostOut

/-- Command `w` of opcode `op`, begun at `t0`, ends at the head of its ring without error, with its record where it asks for one
(R254, R256). -/
def EndsWell (s t : State) (r w op t0 : Nat) : Prop :=
  HeadEnds s t r 1 (bitN w 8) ∧
    (bitN w 8 = true → Posts s t r (recBytes (bitsN w 27 16) op 0 (s.ring r).head 0 0xFF t0 s.ftime 0))

/-- The front-end commands that a ring carries, with their opcodes (R253). -/
def ringInsn : Instr → Option (RingId × Nat)
  | .cmdNop r => some (r, 0)
  | .launch r => some (r, 1)
  | .copyCmd r => some (r, 2)
  | .waitTally r => some (r, 3)
  | .cmdSignal r => some (r, 4)
  | .fenceCmd r => some (r, 5)
  | .phaseHint r => some (r, 6)
  | .cmdMark r => some (r, 7)
  | _ => none

end Sys2Proof.Claims

/-- Ring operations (R249): ENABLE of a DISABLED ring whose table entry is good, once the device is READY, makes it ENABLED
with all its counts at 0; DISABLE with nothing under way makes it DISABLED, and leaves a LAUNCH that holds a slot; RESUME takes a
STOPPED ring back to ENABLED; a refused operation sets FE_RING_STAT.CTL_ERR and changes no ring.

DOORBELL (R250, R395, R474): a 4-byte write at an even doorbell word sets the TAIL of its enabled ring when no more commands
than its buffer holds lie between HEAD and it, and stops the ring otherwise; one at an odd word sets the completion HEAD; an 8-byte
write sets both; a write that is no aligned 4-byte or 8-byte access, or for a ring that is not enabled, is dropped and counted. One
behind a posted write that a stack holds, or without the T bit that RUN asks for, changes no ring (log entries 27 and 37). -/
def Obligations.RingOperationsAndDoorbells : Prop :=
  (∀ (r : RingId) (s : State),
    let x := s.ring r.val
    let g (o n : Nat) := s.memGetN n (s.ringAddr r.val + o)
    let good := s.boot.state = 7 ∧ x.state = 0 ∧ g 0 8 % 64 = 0 ∧ s.cmdPlace (g 0 8) = true ∧ (4 ≤ g 8 1 ∧ g 8 1 ≤ 16) ∧
      (1 ≤ g 0x0A 1 ∧ g 0x0A 1 ≤ 64) ∧ g 0x0C 2 ≤ 2047 ∧ g 0x10 8 % 64 = 0 ∧ g 0x10 8 < 2 ^ 42 ∧ (4 ≤ g 0x18 1 ∧ g 0x18 1 ≤ 16)
    (s.memReady (s.ringAddr r.val) 64 = true →
      (good → ∃ t, exec (.ringEnable r) s = .next t ∧
        (let y := t.ring r.val
         y.state = 1 ∧ y.head = 0 ∧ y.tail = 0 ∧ y.cplTail = 0 ∧ y.cplHead = 0 ∧ y.cmdBase = g 0 8 ∧ y.cmdLog2 = g 8 1 ∧
           y.cplBase = g 0x10 8 ∧ y.cplLog2 = g 0x18 1 ∧ y.maxSlots = g 0x0A 1 ∧ y.cls = bitsN (g 9 1) 1 0 ∧
           y.c6 = bitN (g 9 1) 4 ∧ y.msix = g 0x0C 2 ∧ y.wait = .none ∧ y.disabling = false) ∧
        ∀ n, n ≠ r.val → t.ring n = s.ring n) ∧
      (¬ good → ∃ t, exec (.ringEnable r) s = .next t ∧ (t.reg .fe 0 0x10C).getLsbD 0 = true ∧ ∀ n, t.ring n = s.ring n)) ∧
    (s.memReady (s.ringAddr r.val) 64 = false → exec (.ringEnable r) s = .next s) ∧
    (x.state ≠ 0 → x.live = [] → x.held = [] → (∀ n, x.wait ≠ .granted n) →
      ∃ t, exec (.ringDisable r) s = .next t ∧ (t.ring r.val).state = 0 ∧ (t.ring r.val).disabling = false ∧
        ∀ n, n ≠ r.val → t.ring n = s.ring n) ∧
    (∀ n, x.state ≠ 0 → x.wait = .granted n →
      ∃ t, exec (.ringDisable r) s = .next t ∧ t.ring r.val = { x with disabling := true } ∧ ∀ n, n ≠ r.val → t.ring n = s.ring n) ∧
    (x.state = 0 → exec (.ringDisable r) s = .next s) ∧
    (x.state = 2 → x.disabling = false →
      ∃ t, exec (.ringResume r) s = .next t ∧ t.ring r.val = { x with state := 1 } ∧ ∀ n, n ≠ r.val → t.ring n = s.ring n) ∧
    ((x.state ≠ 2 ∨ x.disabling = true) →
      ∃ t, exec (.ringResume r) s = .next t ∧ (t.reg .fe 0 0x10C).getLsbD 0 = true ∧ Frame [.regs] s t)) ∧
  (∀ (off : W18) (size : Nat) (v : W64) (b : Bool) (s : State),
    let o := off.toNat
    let r := o / 8 % 32768
    let x := s.ring r
    let lo := v.toNat % 2 ^ 32
    let hi := v.toNat / 2 ^ 32
    let fits (tail : Nat) : Prop := (tail + 2 ^ 32 - x.head) % 2 ^ 32 ≤ 2 ^ x.cmdLog2
    let takes (head : Nat) : Prop := (x.cplTail + 2 ^ 32 - head) % 2 ^ 32 ≤ 2 ^ x.cplLog2
    (s.fe.hostHeld = false → s.takesT b = true →
      (size = 4 → o % 8 = 0 → x.state = 1 → fits lo →
        ∃ t, exec (.doorbell ⟨off, b⟩ size v) s = .next t ∧ t.ring r = { x with tail := lo } ∧ ∀ n, n ≠ r → t.ring n = s.ring n) ∧
      (size = 4 → o % 8 = 0 → x.state = 1 → ¬ fits lo →
        ∃ t, exec (.doorbell ⟨off, b⟩ size v) s = .next t ∧ (t.ring r).tail = x.tail ∧ (t.ring r).state = 2 ∧
          ∀ n, n ≠ r → t.ring n = s.ring n) ∧
      (x.state = 1 → x.held = [] → x.sigs = [] → x.disabling = false →
        (size = 4 → o % 8 = 4 → takes lo →
          ∃ t, exec (.doorbell ⟨off, b⟩ size v) s = .next t ∧ t.ring r = { x with cplHead := lo } ∧ ∀ n, n ≠ r → t.ring n = s.ring n) ∧
        (size = 8 → o % 8 = 0 → fits lo → takes hi →
          ∃ t, exec (.doorbell ⟨off, b⟩ size v) s = .next t ∧ t.ring r = { x with tail := lo, cplHead := hi } ∧
            ∀ n, n ≠ r → t.ring n = s.ring n)) ∧
      (size = 4 → o % 8 = 4 → x.state = 1 → ¬ takes lo →
        ∃ t, exec (.doorbell ⟨off, b⟩ size v) s = .next t ∧ (t.ring r).cplHead = x.cplHead ∧ (t.ring r).state = 2 ∧
          ∀ n, n ≠ r → t.ring n = s.ring n) ∧
      (((¬ (size = 8 ∧ o % 8 = 0) ∧ ¬ (size = 4 ∧ o % 4 = 0)) ∨ x.state ≠ 1) →
        ∃ t, exec (.doorbell ⟨off, b⟩ size v) s = .next t ∧ t.reg .fe 0 0x124 = s.reg .fe 0 0x124 + 1 ∧
          Frame [.regs, .cnt64] s t)) ∧
    ((s.fe.hostHeld = true ∨ s.takesT b = false) →
      ∃ t, exec (.doorbell ⟨off, b⟩ size v) s = .next t ∧ Frame [.cnt64] s t))

/-- Ring commands that take no slot, at the head of a ring with nothing under way (R242, R251 to R256): NOP and FENCE end at
once; MARK with its trace record queued; PHASE_HINT with its hint at every live umbel of the mask (R349); WAIT_TALLY when its tally
has reached the target; SIGNAL with its tally raised; each moves HEAD and posts its record where it asks for one. WAIT_TALLY that
must wait holds the ring with HEAD unmoved; a timeout ends it, with a record, and stops the ring.

FENCE (R242) holds its ring, unmoved, while an earlier command of it has not ended.

R253, R254: a command with a reserved bit set or a field out of its range ends with BAD_CMD: HEAD moves, a record goes
out, and the ring stops where the command's STOP bit says so. Where the spec leaves a corner open the model follows log entries 6 and 20. -/
def Obligations.RingCommandsEndInOrder : Prop :=
  (∀ (r : RingId) (s : State) (w : Nat),
    let x := s.ring r.val
    RingIdle s r.val →
    (AtHead s r.val 0 w → ∃ t, exec (.cmdNop r) s = .next t ∧ EndsWell s t r.val w 0 s.ftime) ∧
    (AtHead s r.val 5 w → ∃ t, exec (.fenceCmd r) s = .next t ∧ EndsWell s t r.val w 5 s.ftime) ∧
    (AtHead s r.val 7 w → ∃ t, exec (.cmdMark r) s = .next t ∧ EndsWell s t r.val w 7 s.ftime ∧
      (s.trOn = true → bitN (s.regN .tr 0 0x108) 18 = true → (SMap.get [] s.tr.qs 512).length < 16 →
        ∃ ys, SMap.get [] t.tr.qs 512 = SMap.get [] s.tr.qs 512 ++
          traceRec s.ftime 0x03 0 0x1000 0 0xFF (bitsN w 63 32 + 2 ^ 64 * bitsN w 127 64) :: ys)) ∧
    (AtHead s r.val 6 w → ∃ t, exec (.phaseHint r) s = .next t ∧ EndsWell s t r.val w 6 s.ftime ∧
      ∀ u, u < 32 → bitN (bitsN w 95 64) u = true → s.umLive u = true →
        (bitsN w 33 32 = 0 → (t.pwUmb u).guard = true ∧ (t.pwUmb u).hold = 1 ∧ (t.pwUmb u).idleSoon = false) ∧
        (bitsN w 33 32 = 1 → (t.pwUmb u).guard = false ∧ (t.pwUmb u).hold = 2 ∧ (t.pwUmb u).idleSoon = false ∧
          (t.pwUmb u).lastEnd = s.ftime) ∧
        (bitsN w 33 32 = 2 → (t.pwUmb u).guard = false ∧ (t.pwUmb u).hold = 0 ∧
          ((s.umUsed u = true ∨ s.pw.warn = true) → (t.pwUmb u).idleSoon = true) ∧
          (s.umUsed u = false → s.pw.warn = false → (t.pwUmb u).state = 0 ∧ (t.um u).held = true))) ∧
    (∀ n i, AtHead s r.val 4 w → s.tref none none (bitsN w 63 32) = .um n i → s.umShut n = false →
      ∃ t, exec (.cmdSignal r) s = .next t ∧ EndsWell s t r.val w 4 s.ftime ∧
        (t.um n).tally i = (s.um n).tally i + BitVec.ofNat 32 (bitsN w 95 64)) ∧
    (AtHead s r.val 3 w → s.ringWaitOk w = true → ∃ t, exec (.waitTally r) s = .next t ∧ EndsWell s t r.val w 3 s.ftime) ∧
    (AtHead s r.val 3 w → s.ringWaitOk w = false → (∀ n, x.wait ≠ .tally n) →
      ∃ t, exec (.waitTally r) s = .next t ∧ t.ring r.val = { x with wait := .tally s.ftime } ∧ Frame [.fe] s t) ∧
    (∀ t0, AtHead s r.val 3 w → x.wait = .tally t0 → s.ringWaitOk w = true →
      ∃ t, exec (.waitTallySatisfied r) s = .next t ∧ EndsWell s t r.val w 3 t0) ∧
    (∀ t0, AtHead s r.val 3 w → x.wait = .tally t0 → bitsN w 127 96 ≠ 0 → bitsN w 127 96 * 1000 < s.ftime - t0 →
      s.ringWaitOk w = false →
      ∃ t, exec (.waitTallyTimeout r) s = .next t ∧ HeadEnds s t r.val 2 true ∧ (t.ring r.val).stopCode = 0x13 ∧
        (t.ring r.val).stopHead = x.head ∧
        Posts s t r.val (recBytes (bitsN w 27 16) 3 0x13 x.head 0 0xFF t0 s.ftime 0))) ∧
  (∀ (r : RingId) (s : State) (w : Nat), AtHead s r.val 5 w → (s.ring r.val).live ≠ [] → exec (.fenceCmd r) s = .next s) ∧
  (∀ (c : Instr) (r : RingId) (op : Nat) (s : State) (w o : Nat), ringInsn c = some (r, op) → s.headCmd r.val = some w →
    s.cmdBad w = some o → RingIdle s r.val →
    ∃ t, exec c s = .next t ∧ HeadEnds s t r.val (if bitN w 10 then 2 else 1) true ∧
      Posts s t r.val (recBytes (bitsN w 27 16) (bitsN w 7 0) 1 (s.ring r.val).head o 0xFF s.ftime s.ftime 0))

namespace Sys2Proof.Claims
open Sys2Proof.Machine

/-- No record that waits has a slot of its own, and no ring holds a grant of a slot whose launch runs. -/
def Tidy (s : State) : Prop :=
  (∀ r, ∀ h ∈ (s.ring r).held, h.slot = none) ∧ ∀ r n, (s.ring r).wait = .granted n → (s.lsl n).state ≠ 2

/-- The launch of slot `k` has ended with an error: its flow is closed, and its slot is quarantined or its record still waits
(R256, R259, R317). -/
def Ended (s t : State) (k : Nat) : Prop :=
  (k, (s.lsl k).gen) ∈ t.fab.closedFlows ∧ ((t.lsl k).state = 3 ∨ (t.lsl k).ended.isSome = true)

/-- The launch of slot `k` runs. -/
def Running (s : State) (k : Nat) : Prop := k < 64 ∧ (s.lsl k).state = 2 ∧ (s.lsl k).ended = none

end Sys2Proof.Claims

/-- LAUNCH and the slot (R258 to R260, R268, R269): a LAUNCH whose checks pass asks for a slot, HEAD unmoved; one that a swap
sequence holds waits, its image and constants read, and asks once the weight set lets it; one that fails a check is rejected, with a
record; the winner of the grant takes the lowest free slot, its generation raised by 1.

LAUNCH_RELEASE (R206, R269): the slot's launch gets its KV frames and wakes its umbels; once they run, it is released: it runs on
the image's florets, each at its entry with its program, the command leaves the ring and the launch is counted.

R23, R139, R256, R259, R265, R270, R317: a floret's completion counts once for the launch of its slot's generation, and a stale
one is dropped and counted; when every floret has completed, the launch's record goes out, the LEN updates wait and its slot is free
again; a quarantined slot is free once its time has passed; a watchdog sample that finds progress restarts the window, and one that
finds none for the window ends the launch as hung and closes its flow. Where the spec leaves a corner open the model follows log
entry 20. -/
def Obligations.LaunchesTakeASlotAndComplete : Prop :=
  (∀ (s : State),
    (∀ (r : RingId) (w cb : Nat) (m : CImg) (s1 : State), AtHead s r.val 1 w → (s.ring r.val).wait = .none →
      s.launchReady w = true →
      (s.launchCheck w = (.ok, cb, m, s1) →
        ∃ t, exec (.launch r) s = .next t ∧ t.ring r.val = { s.ring r.val with wait := .request w cb m } ∧
          ∀ n, n ≠ r.val → t.ring n = s.ring n) ∧
      (s.launchCheck w = (.hold, cb, m, s1) →
        ∃ t, exec (.launch r) s = .next t ∧ t.ring r.val = { s.ring r.val with wait := .swapHold w cb m } ∧
          ∀ n, n ≠ r.val → t.ring n = s.ring n) ∧
      (∀ st d, s.launchCheck w = (.reject st d, cb, m, s1) → st ≠ 0 → RingIdle s r.val →
        ∃ t, exec (.launch r) s = .next t ∧ HeadEnds s t r.val (if bitN w 10 then 2 else 1) true ∧
          t.reg .fe 0 0x12C = s.reg .fe 0 0x12C + 1 ∧
          Posts s t r.val (recBytes (bitsN w 27 16) 1 st (s.ring r.val).head d 0xFF s.ftime s.ftime 0))) ∧
    (∀ (r : RingId) (w w' cb : Nat) (m : CImg), AtHead s r.val 1 w → (s.ring r.val).wait = .swapHold w' cb m →
      (s.wsetCheck m (kPack cb) = .ok →
        ∃ t, exec (.launch r) s = .next t ∧ t.ring r.val = { s.ring r.val with wait := .request w cb m } ∧ Frame [.fe] s t) ∧
      (s.wsetCheck m (kPack cb) = .hold → exec (.launch r) s = .next s)) ∧
    (∀ r c n ns w cb m, s.winner = some (r, c) → s.freeSlots = n :: ns → s.reserved c < ns.length + 1 →
      (s.ring r).wait = .request w cb m →
      ∃ t, exec .slotGrant s = .next t ∧ (t.ring r).wait = .granted n ∧ (t.lsl n).state = 1 ∧
        (t.lsl n).gen = ((s.lsl n).gen + 1) % 16 ∧ (t.lsl n).ring = r ∧ (t.lsl n).w = w ∧ (t.lsl n).cb = cb ∧ (t.lsl n).img = m ∧
        (t.lsl n).head = (s.ring r).head ∧ (t.lsl n).kv = false ∧ (∀ m, m ≠ n → t.lsl m = s.lsl m) ∧ Frame [.fe, .fab] s t) ∧
    (∀ (n : SlotId) (r : RingId), (s.lsl n.val).state = 1 → (s.lsl n.val).ring = r.val →
      (s.ring r.val).wait = .granted n.val →
      let x := s.lsl n.val
      let m := x.img
      let c := x.cb
      let alloc := (∀ i, i < kNseq c → s.seqBusy (kSlot c i) (kA c i) = false ∧ s.seqCut (kSlot c i) = false) ∧
        (kNseq c = 0 ∨ s.kvServes = true) ∧ (State.allocKv c (kNseq c) 0 [] s).1 = .ok
      s.placeCheck m x.part = .ok → s.wsetCheck m (kPack c) = .ok →
      (x.kv = false → alloc → (∃ f ∈ m.florets, (s.pwUmb (f / 16)).state ≠ 1 ∧ (s.pwUmb (f / 16)).state ≠ 2) →
        ∃ t, exec (.launchRelease n) s = .next t ∧ (t.lsl n.val).state = 1 ∧ (t.lsl n.val).kv = true ∧
          (t.ring r.val) = s.ring r.val ∧ SameMemories (State.allocKv c (kNseq c) 0 [] s).2 t ∧
          ∀ f ∈ m.florets, (s.pwUmb (f / 16)).state = 0 → s.pw.trip = false → (t.pwUmb (f / 16)).state = 3) ∧
      ((x.kv = true ∨ alloc) → s.umbelsRun m.florets = true → s.sweepOn m.florets = false →
        ∃ t, exec (.launchRelease n) s = .next t ∧ (t.lsl n.val).state = 2 ∧ (t.lsl n.val).florets = m.florets ∧
          (t.lsl n.val).done = [] ∧ (t.lsl n.val).tRel = s.ftime ∧ (t.lsl n.val).gen = x.gen ∧
          (t.ring r.val).head = ((s.ring r.val).head + 1) % 2 ^ 32 ∧ (t.ring r.val).wait = .none ∧
          t.reg .fe 0 0x128 = s.reg .fe 0 0x128 + 1 ∧
          (m.florets.Nodup → ∀ i, i < m.nflo →
            let y := t.fl (m.floret i)
            let j := m.get (m.recOff i + 2) 2
            y.run = true ∧ y.halted = false ∧ y.pc = m.get (m.recOff i + 4) 2 ∧ y.lslot = n.val + 1 ∧ y.lgen = x.gen ∧
              y.pack = kPack c ∧
              ((s.fl (m.floret i)).prog ≠ m.serial * 1024 + j + 1 → ∀ k, k < m.get (m.progOff j + 4) 2 →
                SMap.get (0 : W64) y.istore k = BitVec.ofNat 64 (m.get (m.get (m.progOff j) 4 + 8 * k) 8)))))) ∧
  (∀ (n : SlotId) (s : State),
    let x := s.lsl n.val
    (∀ (f : FloretId) (g : W4), g.toNat = x.gen → x.state = 2 → x.florets.contains f.val = true →
      x.done.contains f.val = false → (s.fl f.val).lslot = n.val + 1 → (s.fl f.val).shareDone = true →
      s.floretQuiet f.val = true →
      ∃ t, exec (.floretCompletionReport f n g) s = .next t ∧ t.lsl n.val = { x with done := x.done ++ [f.val] } ∧
        (∀ m, m ≠ n.val → t.lsl m = s.lsl m) ∧ Frame [.fe] s t) ∧
    (∀ (f : FloretId) (g : W4), g.toNat ≠ x.gen →
      ∃ t, exec (.floretCompletionReport f n g) s = .next t ∧ t.reg .fe 0 0x120 = s.reg .fe 0 0x120 + 1 ∧
        (∀ m, t.lsl m = s.lsl m) ∧ Frame [.regs, .hostOut] s t) ∧
    (∀ r : RingId, x.state = 2 → x.ended = none → (∀ f ∈ x.florets, f ∈ x.done) → x.ring = r.val →
      (s.ring r.val).held = [] → (s.ring r.val).sigs = [] → (s.ring r.val).cplRoom = true → s.cplReady (s.ring r.val) = true →
      s.sec.tdi ≠ 3 →
      ∃ t, exec (.launchComplete n) s = .next t ∧ (t.lsl n.val).state = 0 ∧ (t.lsl n.val).gen = x.gen ∧
        (t.ring r.val).cplTail = ((s.ring r.val).cplTail + 1) % 2 ^ 32 ∧
        Posts s t r.val (recBytes x.id 1 0 x.head 0 n.val x.tRel s.ftime x.wsVer) ∧
        t.fe.lens = s.fe.lens ++ (x.batch.filter (fun b => b.a ≠ 0)).map (fun b => ⟨b.slot, b.a, b.len, b.pos⟩) ∧
        ∀ f ∈ x.florets, (s.fl f).lslot = n.val + 1 → (t.fl f).lslot = 0) ∧
    (x.state = 3 → x.qEnd ≤ s.ftime →
      ∃ t, exec (.slotQuarantineEnd n) s = .next t ∧ (t.lsl n.val).state = 0 ∧ (t.lsl n.val).gen = x.gen ∧
        (∀ m, m ≠ n.val → t.lsl m = s.lsl m) ∧ Frame [.fe] s t) ∧
    (x.state = 2 → x.ended = none → x.suspended = false → x.nextSample ≤ s.ftime →
      let now := x.florets.map (fun f => s.regN .fl f Off.progress)
      let y := { x with samples := now, nextSample := x.nextSample + samplePeriod x.window }
      (now ≠ x.samples → ∃ t, exec (.watchdogSample n) s = .next t ∧ t.lsl n.val = { y with tAdv := s.ftime } ∧ Frame [.fe] s t) ∧
      (now = x.samples → s.ftime - x.tAdv < x.window →
        ∃ t, exec (.watchdogSample n) s = .next t ∧ t.lsl n.val = y ∧ Frame [.fe] s t) ∧
      (now = x.samples → x.window ≤ s.ftime - x.tAdv →
        ∃ t, exec (.watchdogSample n) s = .next t ∧ t.reg .fe 0 0x130 = s.reg .fe 0 0x130 + 1 ∧
          t.flt.hangs = s.flt.hangs ++ [(n.val, x.part)] ∧ (Tidy s → Ended s t n.val))))

namespace Sys2Proof.Claims
open Sys2Proof.Machine

/-- HEAD moves past the head command, which is from now on under way; no other ring changes. -/
def Takes (s t : State) (r : Nat) : Prop :=
  (t.ring r).head = ((s.ring r).head + 1) % 2 ^ 32 ∧ (t.ring r).live = (s.ring r).live ++ [(s.ring r).head] ∧
    (t.ring r).wait = .none ∧ ∀ n, n ≠ r → t.ring n = s.ring n

/-- The copy engine holds command `w` of ring `r`, in this phase, waiting for these launches. -/
def Enters (s t : State) (r w phase : Nat) (ws : List (Nat × Nat)) : Prop :=
  ∃ c ∈ t.fe.copies, c.id = s.fe.copyEng.nextId ∧ c.ring = r ∧ c.w = w ∧ c.phase = phase ∧ c.waits = ws

/-- The engine has begun to move LINES lines for the command numbered `d`, from `src` to `dst`. -/
def Moves (s t : State) (d w src dst : Nat) : Prop :=
  ∃ x : Desc, t.fe.copyEng.fly = s.fe.copyEng.fly ++ [x] ∧ x.id = d ∧ x.w = copyWord w src dst ∧ x.lines = C.lines w ∧ x.dn = 0 ∧
    x.lost = 0

/-- The ring of a command in the engine can take its record: nothing else of it waits. -/
def RingOpen (s : State) (r : Nat) : Prop :=
  (s.ring r).held = [] ∧ (s.ring r).sigs = [] ∧ (s.ring r).cplRoom = true ∧ s.cplReady (s.ring r) = true ∧
    (s.ring r).disabling = false ∧ s.sec.tdi ≠ 3

/-- Command `c` has left the engine, its ring holds it under way no more, and its record has gone out where one was due (R254,
R256). -/
def Leaves (s t : State) (c : CopyCmd) (status detail ver : Nat) : Prop :=
  let r := c.ring % 32768
  t.fe.copies = s.fe.copies.filter (fun x => x.id ≠ c.id) ∧ (t.ring r).live = (s.ring r).live.erase c.head ∧
    ((status ≠ 0 ∨ bitN c.w 8 = true) → (t.ring r).cplTail = ((s.ring r).cplTail + 1) % 2 ^ 32 ∧
      Posts s t r (recBytes (bitsN c.w 27 16) (C.op c.w) status c.head detail 0xFF c.t0 s.ftime ver))

/-- No weight-set slot but `k` changes. -/
def OnlyWset (k : Nat) (s t : State) : Prop := ∀ n, n ≠ k → t.wset n = s.wset n

/-- The version that the record of a command names (R256, R275). -/
def verOf (s : State) (c : CopyCmd) : Nat :=
  if C.op c.w = 9 ∨ (C.op c.w = 8 ∧ C.pack c.w = true) then (s.wset (C.ws c.w)).ver else 0

/-- What a command that has ended without error leaves: a COPY no weight set changed; LOAD_WEIGHTS the weight set or the pack
in its slot; SWAP_LAYER the entry counted as replaced, in G and in the GATE tally of every umbel out of reset (R272 to R274,
R110). No content key is named. -/
def Finished (s t : State) (c : CopyCmd) : Prop :=
  let k := C.ws c.w
  let x := s.wset k
  let y := t.wset k
  let a := C.dst c.w
  (C.op c.w = 2 → ∀ n, t.wset n = s.wset n) ∧
  (C.op c.w = 8 → C.pack c.w = false → y.valid = true ∧ y.id = C.wsetId c.w ∧ y.nl = s.memGetN 2 (a + 4) ∧
    y.gate = s.memGetN 1 (a + 6) ∧ y.nunits = s.memGetN 4 (a + 0x10) ∧ y.base = a ∧ y.g = x.g ∧ y.swapping = false ∧
    y.retiring = false ∧ y.reloc = false ∧ y.packs = [] ∧ y.ver = 0 ∧ OnlyWset k s t ∧
    ∀ e, e < s.memGetN 2 (a + 4) → SMap.get 0 y.off e = s.memGetN 8 (a + 128 + 16 * e) ∧
      SMap.get 0 y.lat e = s.own (a + s.memGetN 8 (a + 128 + 16 * e)) ∧
      SMap.get 0 y.lines e = s.memGetN 4 (a + 128 + 16 * e + 8)) ∧
  (C.op c.w = 8 → C.pack c.w = true →
    (let p : Variant := ⟨a, s.memGetN 4 (a + 0x14), false⟩
     y = { x with packs := SMap.put none x.packs (C.vslot c.w) (some p) }) ∧ OnlyWset k s t) ∧
  (C.op c.w = 9 → y = { x with g := (x.g + 1) % 2 ^ 32, next := C.entry c.w + 1, swapping := !C.fin c.w } ∧
    OnlyWset k s t ∧
    ∀ u, u < 32 → (t.um u).tally x.gate = (if (s.um u).held then (s.um u).tally x.gate else (s.um u).tally x.gate + 1))

/-- What a command that has failed leaves of its slot (R110, R272): no weight set but its gate count; the pack it had, in use
again; an entry not replaced. -/
def Failed (s t : State) (c : CopyCmd) : Prop :=
  let k := C.ws c.w
  let x := s.wset k
  let v := (SMap.get none x.packs (C.vslot c.w)).map (fun v => { v with retiring := false })
  OnlyWset k s t ∧ t.wset k = (if C.op c.w = 8 then
    (if C.pack c.w then { x with packs := SMap.put none x.packs (C.vslot c.w) v } else { WSet.empty with g := x.g }) else x)

/-- The command meets the checks that its end makes. -/
def GoodEnd (s : State) (c : CopyCmd) : Prop :=
  (C.op c.w = 2 ∨ C.op c.w = 8 ∨ C.op c.w = 9) ∧ C.ckey c.w = 0 ∧
  (C.op c.w = 8 → C.pack c.w = false → (s.readWset (C.dst c.w) (C.wsetId c.w) (C.lines c.w) (s.wset (C.ws c.w)).g).1 = none) ∧
  (C.op c.w = 8 → C.pack c.w = true → s.packBad (s.wset (C.ws c.w)) (C.dst c.w) = none)

/-- Every line of the command is complete, at every member of its tree if it has one (R254, R320). -/
def AllLines (s : State) (c : CopyCmd) (q : Desc) : Prop :=
  c.phase = 1 ∧ q.lost = 0 ∧ popN q.lines q.dn = q.lines ∧
    (C.op c.w = 2 ∨ C.mcast c.w = 0 ∨ (SMap.get false s.fab.mcBroken (C.mcast c.w - 1) = false ∧
      c.mc0 + C.lines c.w ≤ s.mcCount (C.mcast c.w - 1) true))

end Sys2Proof.Claims

/-- COPY, LOAD_WEIGHTS and SWAP_LAYER at the head of a ring (R110, R112, R254, R272 to R275), the engine having room: each is
taken into the engine. COPY, and a later SWAP_LAYER of a sequence, moves its lines at once; LOAD_WEIGHTS marks its slot
retiring and waits for the launches that use it; SWAP_LAYER with BEGIN opens the sequence, raising the version. RELOCATE holds
releases and waits for the weight set's launches; with none, or when they have completed, it writes its entry and ends. A
LOAD_WEIGHTS or SWAP_LAYER that its weight set does not allow ends with its status. Where the spec leaves a corner open the model
follows log entry 20. -/
def Obligations.CopyAndWeightCommandsAreTaken : Prop :=
  (∀ (r : RingId) (s : State) (w : Nat),
    let k := C.ws w
    let x := s.wset k
    let d := s.fe.copyEng.nextId
    let head := (s.ring r.val).head
    let refused (t : State) (st detail ver : Nat) : Prop := HeadEnds s t r (if bitN w 10 then 2 else 1) true ∧
      (∀ n, t.wset n = s.wset n) ∧ Posts s t r (recBytes (bitsN w 27 16) (bitsN w 7 0) st head detail 0xFF s.ftime s.ftime ver)
    s.copyRoom w = true →
    (AtHead s r 2 w → ∃ t, exec (.copyCmd r) s = .next t ∧ Takes s t r ∧ Enters s t r w 1 [] ∧ Moves s t d w (C.src w) (C.dst w) ∧
      ∀ n, t.wset n = s.wset n) ∧
    (AtHead s r 8 w → C.pack w = false → C.ckey w = 0 →
      ∃ t, exec (.loadWeightsBase r) s = .next t ∧ Takes s t r ∧ Enters s t r w 0 (s.users k none) ∧
        t.wset k = { x with retiring := true } ∧ OnlyWset k s t) ∧
    (AtHead s r 8 w → C.pack w = true → x.valid = true → x.id = C.wsetId w →
      (SMap.get none x.packs (C.vslot w) = none →
        ∃ t, exec (.loadWeightsPack r) s = .next t ∧ Takes s t r ∧ Enters s t r w 0 [] ∧ ∀ n, t.wset n = s.wset n) ∧
      (∀ v, SMap.get none x.packs (C.vslot w) = some v →
        ∃ t, exec (.loadWeightsPack r) s = .next t ∧ Takes s t r ∧ Enters s t r w 0 (s.users k (some v.addr)) ∧
          t.wset k = { x with packs := SMap.put none x.packs (C.vslot w) (some { v with retiring := true }) } ∧
          OnlyWset k s t)) ∧
    (AtHead s r 8 w → C.pack w = true → (x.valid = false ∨ x.id ≠ C.wsetId w) → RingIdle s r →
      ∃ t, exec (.loadWeightsPack r) s = .next t ∧ refused t 6 0 0) ∧
    (AtHead s r 9 w → C.reloc w = false → s.swapBad w = none → C.ckey w = 0 →
      (C.begin w = true → ∃ t, exec (.swapLayer r) s = .next t ∧ Takes s t r ∧ Enters s t r w 0 (s.users k none) ∧
        (t.wset k).swapping = true ∧ (t.wset k).ver = (x.ver + 1) % 2 ^ 32 ∧ (t.wset k).gb = x.g ∧ (t.wset k).next = 0 ∧
        (t.wset k).lat = x.lat ∧ OnlyWset k s t) ∧
      (C.begin w = false → C.peer w = false → ∃ t, exec (.swapLayer r) s = .next t ∧ Takes s t r ∧ Enters s t r w 1 [] ∧
        Moves s t d w (C.src w) (s.own (x.base + SMap.get 0 x.off (C.entry w))) ∧ ∀ n, t.wset n = s.wset n) ∧
      (C.begin w = false → C.peer w = true → ∃ t, exec (.swapLayer r) s = .next t ∧ Takes s t r ∧
        Enters s t r w 2 [] ∧ t.fe.copyEng.fly = s.fe.copyEng.fly ∧ ∀ n, t.wset n = s.wset n)) ∧
    (∀ e, AtHead s r 9 w → s.swapBad w = some e → RingIdle s r →
      (C.reloc w = false → ∃ t, exec (.swapLayer r) s = .next t ∧ refused t e.1 e.2 x.ver) ∧
      (C.reloc w = true → s.relocDue r.val = none → ∃ t, exec (.swapRelocate r) s = .next t ∧ refused t e.1 e.2 x.ver)) ∧
    (AtHead s r 9 w → C.reloc w = true → s.swapBad w = none → s.relocDue r.val = none →
      (s.waitsOver (s.users k none) = true → RingIdle s r →
        ∃ t, exec (.swapRelocate r) s = .next t ∧ HeadEnds s t r 1 (bitN w 8) ∧
          (bitN w 8 = true → Posts s t r (recBytes (bitsN w 27 16) 9 0 head 0 0xFF s.ftime s.ftime x.ver)) ∧
          t.wset k = { x with reloc := false, lat := SMap.put 0 x.lat (C.entry w) (C.src w) } ∧ OnlyWset k s t) ∧
      (s.waitsOver (s.users k none) = false → ∃ t, exec (.swapRelocate r) s = .next t ∧ Takes s t r ∧
        Enters s t r w 0 (s.users k none) ∧ t.wset k = { x with reloc := true } ∧ OnlyWset k s t))) ∧
  (∀ (r : RingId) (s : State) (c : CopyCmd), s.relocDue r.val = some c → RingOpen s r.val → c.head < 2 ^ 32 →
    let k := C.ws c.w
    let x := s.wset k
    ∃ t, exec (.swapRelocate r) s = .next t ∧ Leaves s t c 0 0 x.ver ∧
      t.wset k = { x with reloc := false, lat := SMap.put 0 x.lat (C.entry c.w) (C.src c.w) } ∧ OnlyWset k s t)

/-- A command in the copy engine (R112, R254, R272 to R275, R315, R320): when the launches it waited for have completed, its
lines move, or it waits for its peer's; when every line is complete, or the peer's tally has reached its target, it ends with
its effect and its record, or, a check failed, with WS_BAD; a lost line, or a tally that has not risen for FE_WD_DEFAULT, ends it
with a record and, for LOAD_WEIGHTS, an empty slot. Where the spec leaves a corner open the model follows log entry 20. -/
def Obligations.CopyEngineCommandsComplete : Prop :=
  ∀ (d : Nat) (s : State) (c : CopyCmd), s.copy d = some c → c.head < 2 ^ 32 →
    let k := C.ws c.w
    let x := s.wset k
    let r := c.ring % 32768
    let v := s.tallyVal (s.tref none none (C.tally c.w % 2 ^ 18))
    let met := waitOk v (BitVec.ofNat 32 (C.target c.w))
    let goesOn (t : State) (dst : Nat) : Prop :=
      (∃ c' ∈ t.fe.copies, c'.id = d ∧ c'.w = c.w ∧ c'.phase = (if C.peer c.w then 2 else 1)) ∧
        (C.peer c.w = false → Moves s t d c.w (C.src c.w) dst)
    (c.phase = 0 → C.op c.w = 8 → s.waitsOver c.waits = true →
      ∃ t, exec (.retiringWaitEnd d) s = .next t ∧ Frame [.fe] s t ∧ goesOn t (s.own (C.dst c.w)) ∧
        t.wset k = { x with packs := if C.pack c.w then x.packs else [] } ∧ OnlyWset k s t) ∧
    (c.phase = 0 → C.op c.w = 9 → C.reloc c.w = false → s.waitsOver c.waits = true →
      ∃ t, exec (.swapBeginWaitEnd d) s = .next t ∧ Frame [.fe] s t ∧
        goesOn t (s.own (x.base + SMap.get 0 x.off (C.entry c.w))) ∧
        t.wset k = { x with packs := if C.keep c.w then x.packs else [] } ∧ OnlyWset k s t) ∧
    (RingOpen s r →
      (GoodEnd s c →
        (∀ q, s.fe.copyEng.desc d = some q → AllLines s c q →
          ∃ t, exec (.copyEngineComplete d) s = .next t ∧ Leaves s t c 0 0 (verOf s c) ∧ Finished s t c) ∧
        (c.phase = 2 → met = true →
          ∃ t, exec (.peerTallyReached d) s = .next t ∧ Leaves s t c 0 0 (verOf s c) ∧ Finished s t c)) ∧
      (∀ q o, s.fe.copyEng.desc d = some q → AllLines s c q → C.op c.w = 8 → C.pack c.w = false →
        (s.readWset (C.dst c.w) (C.wsetId c.w) (C.lines c.w) x.g).1 = some o →
        ∃ t, exec (.copyEngineComplete d) s = .next t ∧ Leaves s t c 0x0E o 0 ∧ Failed s t c) ∧
      (∀ q, s.fe.copyEng.desc d = some q → c.phase = 1 → q.lost ≠ 0 →
        ∃ t, exec (.copyEngineComplete d) s = .next t ∧ Leaves s t c 0x11 Code.lineLoss (if C.op c.w = 9 then x.ver else 0) ∧
          Failed s t c) ∧
      (c.phase = 2 → met = false → v = c.seen → s.regN .fe 0 0x110 * 1000 ≤ s.ftime - c.seenAt →
        ∃ t, exec (.peerTimeout d) s = .next t ∧ Leaves s t c 0x13 0 (if C.op c.w = 9 then x.ver else 0) ∧ Failed s t c ∧
          ((s.ring r).state = 1 → (t.ring r).state = 2 ∧ (t.ring r).stopCode = 0x13))) ∧
    (c.phase = 2 → met = false → v ≠ c.seen →
      ∃ t, exec (.peerTimeout d) s = .next t ∧ (∃ c' ∈ t.fe.copies, c'.id = d ∧ c'.phase = 2 ∧ c'.seen = v ∧
        c'.seenAt = s.ftime) ∧ Frame [.fe] s t)

namespace Sys2Proof.Claims
open Sys2Proof.Machine

/-- A request packet on link `l` passes the checks of R309, R318 and R324. -/
def Accepted (s : State) (l : Nat) (h : PktHdr) : Prop :=
  s.linkUp l = true ∧ s.outside h.src.toNat = false ∧ s.isDead h = false ∧ s.tooOld h.inj = false

/-- A 64-bit byte counter has risen by `n`. -/
def Counted (s t : State) (b : Blk) (k off n : Nat) : Prop :=
  SMap.get 0 t.cnt64 (regOff b k off) = (SMap.get 0 s.cnt64 (regOff b k off) + n) % 2 ^ 64

/-- Where the device holds a route to the packet's source, one answer leaves for it there (R313, R314). -/
def Answers (s t : State) (h : PktHdr) (tok : Nat) (b : Body) : Prop :=
  ∀ o dl, s.pickRoute h.src.toNat 0 = some (o, dl) →
    ∃ p, GoesOut s t o p ∧ p.sub = b2n dl ∧ p.dst = h.src.toNat ∧ p.src = s.devId ∧ p.flow = h.flow.toNat ∧
      p.gen = h.gen.toNat ∧ p.tok = tok ∧ p.body = b

/-- A WRITE, SIGNAL or END is acknowledged, and with `d` as discarded. -/
def Acks (s t : State) (h : PktHdr) (d : Bool) : Prop := Answers s t h 0 (.ack [⟨h.token, d⟩])

/-- No packet leaves. -/
def NothingSent (s t : State) : Prop := t.fab.out = s.fab.out ∧ t.fab.held = s.fab.held

/-- The packet leaves unchanged on link `o`. -/
def Passes (s t : State) (o sub dst : Nat) (h : PktHdr) (b : Body) : Prop :=
  ∃ p, GoesOut s t o p ∧ p.sub = sub ∧ p.dst = dst ∧ p.src = h.src.toNat ∧
    p.flow = h.flow.toNat ∧ p.gen = h.gen.toNat ∧ p.inj = h.inj ∧ p.tok = h.token ∧ p.body = b

/-- Copies of a multicast line have left for every child of its tree: at once on links that are UP, and behind others that wait
on those that are not (R311, R320). -/
def PassedOn (s t : State) (tree : Nat) (b : Body) : Prop :=
  let cs := mcChildren (s.mcEntry tree)
  t.fab.out.map (fun p => (p.link, p.body)) = s.fab.out.map (fun p => (p.link, p.body)) ++
      (cs.filter (fun c => (s.link c).state = 2)).map (fun c => (c, b)) ∧
    t.fab.held.map (fun p => (p.link, p.body)) = s.fab.held.map (fun p => (p.link, p.body)) ++
      (cs.filter (fun c => (s.link c).state ≠ 2 ∧ (s.link c).state ≠ 3)).map (fun c => (c, b))

/-- The request packets of one destination, with destination, address and body (R308). -/
def reqPacket (s : State) : Instr → Option (LinkId × PktHdr × Nat × Nat × Body)
  | .pktWrite l h a mask data psn tally cnt =>
    some (l, h, devOf a.toNat, localOf a.toNat, .write (localOf a.toNat) mask.toNat data psn tally cnt)
  | .pktRead l h a => some (l, h, devOf a.toNat, localOf a.toNat, .read (localOf a.toNat))
  | .pktSignal l h tally v =>
    some (l, h, if bitN tally.toNat 19 then bitsN tally.toNat 29 20 else s.devId, 0, .signal tally v)
  | .pktEnd l h a e => some (l, h, devOf a.toNat, localOf a.toNat, .endMark (localOf a.toNat) e.val)
  | _ => none

/-- The answer for token `tok` that has come on link `l` passes the checks of R318 and R324, is for this device, and belongs to a
remote access that still awaits it. -/
def Awaited (s : State) (l : LinkId) (h : RspHdr) (tok : Nat) (w : Await) : Prop :=
  s.linkUp l.val = true ∧ s.outside h.src.toNat = false ∧ h.dst.toNat = s.devId ∧
    (h.flow.toNat < 64 → (s.lsl h.flow.toNat).gen = h.gen.toNat) ∧ (s.takeAwait tok).1 = some w ∧ w.orphan = false

/-- The packet of token `tok` is awaited no more. -/
def Answered (s t : State) (tok : Nat) : Prop := t.fab.awaits = s.fab.awaits.filter (fun w => w.tok ≠ tok)

/-- The response commands: link, header, tokens and packet. -/
def rspPacket : Instr → Option (LinkId × RspHdr × List Nat × Body)
  | .pktData l h tok data psn => some (l, h, [tok], .data data psn)
  | .ack l h toks => some (l, h, (toks.take 16).map (·.tok), .ack (toks.take 16))
  | .lossPkt l h x => some (l, h, [x.tok], .loss x.tok x.why)
  | _ => none

end Sys2Proof.Claims

/-- Request packets that pass the checks and are for this device (R157, R166, R229, R244, R308, R314, R319, R320): a WRITE of a whole
line stores it and counts it on its tally, or, at a feed slot that is taken, is discarded and counted on none; a READ is answered
with the line and its poison, one of the host window by a read of the host; a SIGNAL adds to its tally; an END ends its floret's
feed; each is answered, and a WRITE to a unit in reset with a LOSS. A multicast WRITE of a member is stored, counted in the tree and
passed on to every child; at a device that is none it is passed on.

What else may happen to a request packet (R309, R310, R312, R318, R324): from outside the in-service set it is dropped and
counted; named by the dead list it is dropped and counted with no answer; older than 150 µs it is dropped, counted and a LOSS
returns; for another device it leaves unchanged on the route's link, or, with no route, is dropped, counted and a LOSS returns. In
none of these does it change a tally, a near bank, an umbel buffer or HBM. Where the spec leaves a corner open the model follows log
entries 17 and 21. -/
def Obligations.RequestPacketsTakeEffectOrTravelOn : Prop :=
  (∀ (l : LinkId) (h : PktHdr) (a : W52) (s : State), Accepted s l.val h →
    let x := localOf a.toNat
    let all : W128 := BitVec.allOnes 128
    (devOf a.toNat = s.devId →
      (∀ (data : Line) (psn : Bool), SramServes s x → MayArrive s x →
        (∃ t, exec (.pktWrite l h a all data psn none false) s = .next t ∧ LineStored s t x data ∧ Acks s t h false) ∧
        ∀ (cnt : Bool) (y : W32) (n i : Nat), s.tref none none y.toNat = .um n i → s.umShut n = false →
          ∃ t, exec (.pktWrite l h a all data psn (some y) cnt) s = .next t ∧ LineStored s t x data ∧
            (t.um n).tally i = (s.um n).tally i + (if cnt then 128 else 1) ∧ OnlyUm n s t ∧ Acks s t h false) ∧
      (∀ (data : Line) (psn cnt : Bool) (y : OptW32) (n : Nat), s.placeOf x = .nb n → s.umShut (n / 16) = false →
        (∃ p ∈ (s.fl n).feedLines (x / 128 % 32768), (s.fl n).feedFull p = true) →
        ∃ t, exec (.pktWrite l h a all data psn y cnt) s = .next t ∧ t.sram = s.sram ∧ t.ums = s.ums ∧ Acks s t h true) ∧
      (∀ (data : Line) (psn cnt : Bool) (y : OptW32) (n : Nat), s.placeOf x = .nb n → s.umShut (n / 16) = true →
        ∃ t, exec (.pktWrite l h a all data psn y cnt) s = .next t ∧ t.sram = s.sram ∧ t.ums = s.ums ∧
          Answers s t h h.token (.loss h.token .unitReset)) ∧
      (∀ (data : Line) (psn cnt : Bool), HbmServes s x →
        ∃ t, exec (.pktWrite l h a all data psn none cnt) s = .next t ∧
          HoldsLine t x (s.phys x) psn (if psn then 0 else data) ∧ Acks s t h false ∧ t.sram = s.sram) ∧
      (SramServes s x →
        ∃ t, exec (.pktRead l h a) s = .next t ∧
          Answers s t h h.token (.data (Memory.readLine s.sram x) (SMap.get false s.sramBad x)) ∧
          t.sram = s.sram ∧ t.hbm = s.hbm ∧ t.fls = s.fls ∧ t.ums = s.ums) ∧
      (∀ ln, HbmServes s x → HoldsLine s x (s.phys x) false ln →
        ∃ t, exec (.pktRead l h a) s = .next t ∧ Answers s t h h.token (.data ln false) ∧ t.hbm.data = s.hbm.data ∧
          t.hbm.info = s.hbm.info ∧ t.sram = s.sram) ∧
      (s.placeOf x = .host →
        ∃ t, exec (.pktRead l h a) s = .next t ∧ NothingSent s t ∧
          t.hostOut = s.hostOut ++ [.read (s.hostAddr x) .host s.fab.nextTok 0 s.tdiRuns] ∧
          t.fab.hostRd = s.fab.hostRd ++ [(s.fab.nextTok, h)]) ∧
      (∀ (e : FeedId) (f : Nat), s.placeOf x = .nb f → s.umShut (f / 16) = false →
        ∃ t, exec (.pktEnd l h a e) s = .next t ∧ (t.fl f).feed e.val = endedFeed ((s.fl f).feed e.val) ∧
          (∀ d, d ≠ e.val → (t.fl f).feed d = (s.fl f).feed d) ∧ OnlyFl f s t ∧ Acks s t h false ∧ t.sram = s.sram)) ∧
    (∀ (y v : W32) (n i : Nat), (bitN y.toNat 19 = true → bitsN y.toNat 29 20 = s.devId) →
      s.tref none none y.toNat = .um n i → s.umShut n = false →
      ∃ t, exec (.pktSignal l h y v) s = .next t ∧ (t.um n).tally i = (s.um n).tally i + v ∧ OnlyUm n s t ∧
        Acks s t h false ∧ t.sram = s.sram ∧ t.fls = s.fls) ∧
    (∀ (tree : TreeId) (b : W42) (data : Line) (psn : Bool) (y : OptW32),
      let body : Body := .mc (tree.val + 1) b.toNat data psn false (y.getD 0)
      (mcLocal (s.mcEntry tree.val) = true → SramServes s b.toNat → MayArrive s b.toNat →
        (∀ z, y = some z → ∃ n i, s.tref none none (z.toNat % 2 ^ 18) = .um n i ∧ s.umShut n = false) →
        ∃ t, exec (.mcWrite l h tree b data psn false y) s = .next t ∧ LineStored s t b.toNat data ∧
          SMap.get 0 t.fab.mcOwn tree.val = SMap.get 0 s.fab.mcOwn tree.val + 1 ∧ PassedOn s t tree.val body ∧
          ∀ z n i, y = some z → s.tref none none (z.toNat % 2 ^ 18) = .um n i → (t.um n).tally i = (s.um n).tally i + 1) ∧
      (mcLocal (s.mcEntry tree.val) = false →
        ∃ t, exec (.mcWrite l h tree b data psn false y) s = .next t ∧ PassedOn s t tree.val body ∧ t.sram = s.sram ∧
          t.hbm = s.hbm ∧ t.ums = s.ums ∧ t.fab.mcOwn = s.fab.mcOwn))) ∧
  (∀ (c : Instr) (l : LinkId) (h : PktHdr) (dst a : Nat) (b : Body) (s : State), reqPacket s c = some (l, h, dst, a, b) →
    (s.linkUp l.val = false → exec c s = .next s) ∧
    (s.linkUp l.val = true → s.outside h.src.toNat = true →
      ∃ t, exec c s = .next t ∧ t.reg .pl l.val 0x124 = s.reg .pl l.val 0x124 + 1 ∧ NothingSent s t ∧
        Frame [.regs, .cnt64, .fab] s t) ∧
    (s.linkUp l.val = true → s.outside h.src.toNat = false → s.isDead h = true →
      ∃ t, exec c s = .next t ∧ t.reg .pl l.val 0x118 = s.reg .pl l.val 0x118 + 1 ∧ NothingSent s t ∧
        Frame [.regs, .cnt64, .hostOut, .fab] s t) ∧
    (s.linkUp l.val = true → s.outside h.src.toNat = false → s.isDead h = false → s.tooOld h.inj = true →
      ∃ t, exec c s = .next t ∧ t.reg .pl l.val 0x11C = s.reg .pl l.val 0x11C + 1 ∧ Answers s t h h.token (.loss h.token .age) ∧
        Frame [.regs, .cnt64, .hostOut, .logPtr, .fab] s t) ∧
    (Accepted s l.val h → dst ≠ s.devId →
      (∀ o dl, s.pickRoute dst a = some (o, dl) →
        ∃ t, exec c s = .next t ∧ Passes s t o (b2n (dl || h.sub)) dst h b ∧ Frame [.regs, .cnt64, .fab] s t) ∧
      (s.pickRoute dst a = none →
        ∃ t, exec c s = .next t ∧ t.reg .pl l.val 0x120 = s.reg .pl l.val 0x120 + 1 ∧
          Answers s t h h.token (.loss h.token .noRoute) ∧ Frame [.regs, .cnt64, .hostOut, .fab] s t)))

/-- Answers, fences and subtree counts (R229, R313 to R315, R317, R318, R320, R324): DATA brings the line to the engine that read it;
an ACK completes the line written, still with others of its descriptor to come, or the SIGNAL or END descriptor; a LOSS marks the
line lost; each takes its await off. A response from outside the in-service set is dropped and counted, one for another device
leaves for it, one of an earlier generation of its slot is dropped and counted. A FENCE's flow joins the dead list until 150 µs after
the fence's injection, or waits for room; expired entries leave it. A child's count is kept; the own count goes to the parent once it
has risen by 256 lines, or 10 µs after the last. Where the spec leaves a corner open the model follows log entries 17 and 28. -/
def Obligations.AnswersFencesAndCountsAreTaken : Prop :=
  ∀ (l : LinkId) (h : RspHdr) (s : State),
    (∀ (tok : Nat) (w : Await) (d : Desc) (g : Agent), Awaited s l h tok w → w.agent = g → Mover g → (s.eng g).desc w.d = some d →
      (w.kind = .line →
        (∀ (data : Line) (psn : Bool),
          ∃ t, exec (.pktData l h tok data psn) s = .next t ∧ Answered s t tok ∧
            ∃ d', (t.eng g).desc w.d = some d' ∧ bitN d'.rd w.i = true ∧ SMap.get none d'.data w.i = some ⟨data, psn, fullMask⟩) ∧
        (∀ hd disc, d.lineData w.i = some hd → (D.tallyEn d.w = false ∨ disc = true) → w.i < d.lines →
          popN d.lines (setBitN d.dn w.i true) < d.lines →
          ∃ t, exec (.ack l h [⟨tok, disc⟩]) s = .next t ∧ Answered s t tok ∧
            ∃ d', (t.eng g).desc w.d = some d' ∧ bitN d'.dn w.i = true) ∧
        (∀ why, s.flowLive w.flow w.gen = true →
          ∃ t, exec (.lossPkt l h ⟨tok, why⟩) s = .next t ∧ Answered s t tok ∧
            ∃ d', (t.eng g).desc w.d = some d' ∧ bitN d'.lost w.i = true ∧ d'.dn = d.dn) ∧
        (∀ why, s.flowLive w.flow w.gen = false →
          ∃ t, exec (.lossPkt l h ⟨tok, why⟩) s = .next t ∧ Answered s t tok ∧ t.eng g = s.eng g)) ∧
      ((w.kind = .sigDesc ∨ w.kind = .endDesc) → (s.eng g).fly = [d] →
        ∃ t, exec (.ack l h [⟨tok, false⟩]) s = .next t ∧ Answered s t tok ∧ (t.eng g).fly = [] ∧ Counts s t g)) ∧
    (∀ (c : Instr) (toks : List Nat) (b : Body), rspPacket c = some (l, h, toks, b) →
      (s.linkUp l.val = false → exec c s = .next s) ∧
      (s.linkUp l.val = true → s.outside h.src.toNat = true →
        ∃ t, exec c s = .next t ∧ t.reg .pl l.val 0x124 = s.reg .pl l.val 0x124 + 1 ∧ NothingSent s t ∧
          Frame [.regs, .cnt64, .fab] s t) ∧
      (s.linkUp l.val = true → s.outside h.src.toNat = false → h.dst.toNat ≠ s.devId →
        (∀ o dl, s.pickRoute h.dst.toNat 0 = some (o, dl) →
          ∃ t p, exec c s = .next t ∧ GoesOut s t o p ∧ p.sub = b2n (dl || h.sub) ∧ p.dst = h.dst.toNat ∧ p.src = h.src.toNat ∧
            p.flow = h.flow.toNat ∧ p.gen = h.gen.toNat ∧ p.body = b ∧ Frame [.regs, .cnt64, .fab] s t) ∧
        (s.pickRoute h.dst.toNat 0 = none →
          ∃ t, exec c s = .next t ∧ t.reg .pl l.val 0x120 = s.reg .pl l.val 0x120 + 1 ∧ NothingSent s t ∧
            Frame [.regs, .cnt64, .hostOut, .fab] s t)) ∧
      (s.linkUp l.val = true → s.outside h.src.toNat = false → h.dst.toNat = s.devId → h.flow.toNat < 64 →
        (s.lsl h.flow.toNat).gen ≠ h.gen.toNat →
        ∃ t, exec c s = .next t ∧ t.reg .pl l.val 0x118 = s.reg .pl l.val 0x118 + 1 ∧
          t.fab.awaits = s.fab.awaits.filter (fun w => !toks.contains w.tok) ∧ Frame [.regs, .cnt64, .hostOut, .fab] s t)) ∧
    (∀ (dst src : DevId) (flow : W7) (gen : W4) (inj : Nat), s.linkUp l.val = true → s.outside src.toNat = false →
      let e := (src.toNat, flow.toNat, gen.toNat, inj + 150000)
      (dst.toNat = s.devId →
        ∃ t, exec (.pktFence l dst src flow gen inj) s = .next t ∧ Frame [.fab, .cnt64] s t ∧
          (s.fab.dead.length < 256 → t.fab.dead = s.fab.dead ++ [e] ∧ t.fab.deadQ = s.fab.deadQ) ∧
          (256 ≤ s.fab.dead.length → t.fab.dead = s.fab.dead ∧ t.fab.deadQ = s.fab.deadQ ++ [e])) ∧
      (∀ o, dst.toNat ≠ s.devId → s.ctlLink dst.toNat (some l.val) = some o →
        ∃ t p, exec (.pktFence l dst src flow gen inj) s = .next t ∧ GoesOut s t o p ∧ p.dst = dst.toNat ∧
          p.body = .fence src.toNat flow.toNat gen.toNat inj ∧ t.fab.dead = s.fab.dead)) ∧
    (∃ t, exec .deadListExpiry s = .next t ∧ Frame [.fab] s t ∧
      (∀ e, e ∈ t.fab.dead → e ∈ s.fab.deadQ ∨ (e ∈ s.fab.dead ∧ s.ftime < e.2.2.2)) ∧
      (∀ e, e ∈ s.fab.dead → s.ftime < e.2.2.2 → e ∈ t.fab.dead) ∧
      (∀ e, e ∈ s.fab.deadQ → e ∈ t.fab.dead ∨ e ∈ t.fab.deadQ)) ∧
    (∀ (tree : TreeId), s.linkUp l.val = true → (mcChildren (s.mcEntry tree.val)).contains l.val = true →
      (s.outside (s.link l.val).peerDev = false →
        (∀ n, ∃ t, exec (.subtreeReport tree (some (l, some n))) s = .next t ∧ Frame [.fab, .cnt64] s t ∧
          SMap.get 0 t.fab.mcChild (16 * tree.val + l.val) = n ∧ t.fab.mcBroken = s.fab.mcBroken) ∧
        ∃ t, exec (.subtreeReport tree (some (l, none))) s = .next t ∧ Frame [.fab, .cnt64] s t ∧
          SMap.get false t.fab.mcBroken tree.val = true) ∧
      (∀ n, s.outside (s.link l.val).peerDev = true →
        ∃ t, exec (.subtreeReport tree (some (l, n))) s = .next t ∧ t.reg .pl l.val 0x124 = s.reg .pl l.val 0x124 + 1 ∧
          t.fab.mcChild = s.fab.mcChild ∧ t.fab.mcBroken = s.fab.mcBroken)) ∧
    (∀ (tree : TreeId), l.val = mcParent (s.mcEntry tree.val) → s.linkUp l.val = true →
      let n := s.mcCount tree.val (mcLocal (s.mcEntry tree.val))
      let was := SMap.get 0 s.fab.mcSent tree.val
      let broken := SMap.get false s.fab.mcBroken tree.val
      (broken = false → n ≠ was → (was + 256 ≤ n ∨ SMap.get 0 s.fab.mcSentAt tree.val + 10000 ≤ s.ftime) →
        ∃ t p, exec (.subtreeReport tree none) s = .next t ∧ SMap.get 0 t.fab.mcSent tree.val = n ∧
          SMap.get 0 t.fab.mcSentAt tree.val = s.ftime ∧ GoesOut s t l.val p ∧ p.body = .subtree (tree.val + 1) (some n)) ∧
      (broken = true → was ≠ 2 ^ 64 →
        ∃ t p, exec (.subtreeReport tree none) s = .next t ∧ SMap.get 0 t.fab.mcSent tree.val = 2 ^ 64 ∧ GoesOut s t l.val p ∧
          p.body = .subtree (tree.val + 1) none))

namespace Sys2Proof.Claims
open Sys2Proof.Machine

/-- No link but `l` changes its state, its lanes or what it knows of its peer. -/
def OnlyLink (l : Nat) (s t : State) : Prop := ∀ n, n ≠ l →
  let x := s.link n
  let y := t.link n
  y.state = x.state ∧ y.lanes = x.lanes ∧ y.faults = x.faults ∧ y.peerDev = x.peerDev ∧ y.peerLink = x.peerLink ∧
    y.coded = x.coded ∧ y.downAt = x.downAt ∧ y.wasUp = x.wasUp

/-- The device's LSA has gone out. -/
def Floods (s t : State) : Prop := t.fab.lsaSeq = s.fab.lsaSeq + 1 ∧ t.fab.lsaAt = s.ftime

/-- Link `l` is RETIRED, and reported. -/
def Retires2 (s t : State) (l : Nat) : Prop :=
  (t.link l).state = 3 ∧ OnlyLink l s t ∧ Floods s t ∧ t.reports = s.reports ++ [⟨Code.linkRetired, 0x230 + l, 0, 0, none⟩]

/-- Lanes good in `mask` and not found faulty before. -/
def goodLanes (x : Link) (mask : Nat) : List Nat := (List.range 8).filter (fun i => bitN mask i && !bitN x.faults i)

/-- Link `l` has one lane fewer, and the lane's event is set. -/
def LaneOut (s t : State) (l lane : Nat) : Prop :=
  (t.link l).lanes = setBitN (s.link l).lanes lane false ∧ (t.link l).faults = setBitN (s.link l).faults lane true ∧
    (t.link l).state = (s.link l).state ∧ OnlyLink l s t ∧ (t.reg .pl l Off.evtRaw).getLsbD 0 = true

/-- The packets that a replay from `seq` sends again, and how often one of them has gone out again within 1 ms, with this time. -/
def replayed (x : Link) (seq : Nat) : List Retry := x.retry.filter (fun r => seq ≤ r.seq)
def timesReplayed (s : State) (x : Link) (seq : Nat) (r : Retry) : Nat :=
  ((replayed x seq).filter (fun y => y.seq = r.seq)).length
    + (x.replays.filter (fun y => y.1 = r.seq ∧ s.ftime - y.2 ≤ 1000000)).length

/-- A replay of link `l` from `seq` (R306): counted with its bytes, the packets in the retry buffer as sent just now. -/
def Replays (s t : State) (l seq : Nat) : Prop :=
  (t.link l).state = 2 ∧ OnlyLink l s t ∧ t.reg .pl l 0x114 = s.reg .pl l 0x114 + 1 ∧
    (t.link l).retry = (replayed (s.link l) seq).map (fun r => { r with at_ := s.ftime }) ∧
    Counted s t .pl l 0x150 (sumN ((replayed (s.link l) seq).map (·.wire))) ∧ Frame [.regs, .fab, .cnt64] s t

end Sys2Proof.Claims

/-- Links (R303 to R307, R311, R327, R329, R438, R442): a trained link with six good lanes or more is UP with those lanes, its peer
and its coding, and the packets that waited for it leave; with fewer it is RETIRED; a lane with more than 1,000,000 symbols corrected
within a second, or with a third loss of lock within 60 s, costs a lane, the third lane the link; loss of every lane takes it DOWN;
more than 10 ms without being UP retires it; RETRAIN and an enabling write put it in TRAINING; a disabling write takes it DOWN; a
replay is counted and sends its packets again, and takes the link out beyond the sixteenth of one packet within 1 ms; a probe that
meets the listed peer brings it back. Where the spec leaves a corner open the model follows log entry 38. -/
def Obligations.LinksFollowTrainingAndFaults : Prop :=
  ∀ (l : LinkId) (s : State), s.linkPresent l.val = true →
    let x := s.link l.val
    let quiet := x.retry = [] ∧ ∀ p ∈ s.fab.held, p.link ≠ l.val
    (∀ (mask : W8) (dev : DevId) (pl : W4) (code : Bool), linkEn s l.val = true → x.state ≤ 1 →
      (6 ≤ (goodLanes x mask.toNat).length →
        ∃ t, exec (.linkTrained l mask dev pl code) s = .next t ∧ (t.link l.val).state = 2 ∧
          (t.link l.val).peerDev = dev.toNat ∧ (t.link l.val).peerLink = pl.toNat ∧
          (∀ i, i < 8 → bitN (t.link l.val).lanes i = (goodLanes x mask.toNat).contains i) ∧
          (t.link l.val).coded = (code && (s.reg .pl l.val 0x104).getLsbD 1) ∧ OnlyLink l.val s t ∧ Floods s t ∧
          ((∀ p ∈ s.fab.held, p.link = l.val → s.tooOld p.inj = false ∧ s.fab.closedFlows.contains (p.flow, p.gen) = false) →
            t.fab.held = s.fab.held.filter (fun p => p.link ≠ l.val))) ∧
      ((goodLanes x mask.toNat).length < 6 → quiet →
        ∃ t, exec (.linkTrained l mask dev pl code) s = .next t ∧ Retires2 s t l.val)) ∧
    (∀ lane : Fin8, x.state = 2 → bitN x.lanes lane.val = true →
      let few := laneCount (setBitN x.faults lane.val true) < 3
      let before := ((SMap.get [] x.lockLoss lane.val).filter (fun t => s.ftime < t + 60000000000)).length
      (∀ n, n ≤ 1000000 → ∃ t, exec (.laneFault l ⟨lane, .fec n⟩) s = .next t ∧
        t.reg .pl l.val 0x128 = s.reg .pl l.val 0x128 + BitVec.ofNat 32 n ∧ Frame [.regs] s t) ∧
      (∀ n, 1000000 < n →
        (few → ∃ t, exec (.laneFault l ⟨lane, .fec n⟩) s = .next t ∧ LaneOut s t l.val lane.val ∧
          t.reg .pl l.val 0x128 = s.reg .pl l.val 0x128 + BitVec.ofNat 32 n) ∧
        (¬ few → quiet → ∃ t, exec (.laneFault l ⟨lane, .fec n⟩) s = .next t ∧ Retires2 s t l.val)) ∧
      (before < 2 → ∃ t, exec (.laneFault l ⟨lane, .lockLost⟩) s = .next t ∧ (t.link l.val).lanes = x.lanes ∧
        SMap.get [] (t.link l.val).lockLoss lane.val
          = s.ftime :: (SMap.get [] x.lockLoss lane.val).filter (fun t => s.ftime < t + 60000000000) ∧ Frame [.fab] s t) ∧
      (2 ≤ before →
        (few → ∃ t, exec (.laneFault l ⟨lane, .lockLost⟩) s = .next t ∧ LaneOut s t l.val lane.val) ∧
        (¬ few → quiet → ∃ t, exec (.laneFault l ⟨lane, .lockLost⟩) s = .next t ∧ Retires2 s t l.val))) ∧
    (x.state = 2 → ∃ t, exec (.linkDown l) s = .next t ∧ t.link l.val = { x with state := 0, downAt := s.ftime, wasUp := true } ∧
      OnlyLink l.val s t ∧ Floods s t ∧ (t.reg .pl l.val Off.evtRaw).getLsbD 1 = true) ∧
    (x.state ≤ 1 → x.wasUp = true → 10000000 < s.ftime - x.downAt → quiet →
      ∃ t, exec (.linkRetireTimeout l) s = .next t ∧ Retires2 s t l.val) ∧
    (linkEn s l.val = true → x.state ≠ 3 →
      ∃ t, exec (.retrain l) s = .next t ∧ (t.link l.val).state = 1 ∧ OnlyLink l.val s t ∧ (x.state ≠ 1 → Floods s t)) ∧
    (∀ v : W32, v.getLsbD 0 = false →
      ∃ t, exec (.linkCtrlWrite l v) s = .next t ∧ linkEn t l.val = false ∧ OnlyLink l.val s t ∧
        (t.link l.val).state = (if x.state = 1 ∨ x.state = 2 then 0 else x.state)) ∧
    (∀ v : W32, v.getLsbD 0 = true → linkEn s l.val = false → x.state = 0 →
      ∃ t, exec (.linkCtrlWrite l v) s = .next t ∧ linkEn t l.val = true ∧ t.link l.val = { x with state := 1 } ∧
        OnlyLink l.val s t ∧ Floods s t) ∧
    (∀ (seq : Nat) (crc : Bool), x.state = 2 →
      let fits := ∀ r ∈ replayed x seq, timesReplayed s x seq r ≤ 16
      (fits → ∃ t, exec (.replayRequest l crc true seq) s = .next t ∧ Replays s t l.val seq) ∧
      (¬ fits → linkEn s l.val = true →
        ∃ t, exec (.replayRequest l crc true seq) s = .next t ∧ (t.link l.val).state = 1 ∧ OnlyLink l.val s t ∧
          t.reg .pl l.val 0x114 = s.reg .pl l.val 0x114 + 1) ∧
      (∃ t, exec (.replayRequest l true false seq) s = .next t ∧ t.reg .pl l.val 0x110 = s.reg .pl l.val 0x110 + 1 ∧
        Frame [.regs] s t) ∧
      exec (.replayRequest l false false seq) s = .next s ∧
      ((∃ r ∈ x.retry, r.seq = seq ∧ r.at_ + 4000 ≤ s.ftime) → fits →
        ∃ t, exec (.replayTimeout ⟨l, seq⟩) s = .next t ∧ Replays s t l.val seq) ∧
      ((∀ r ∈ x.retry, r.seq = seq → s.ftime < r.at_ + 4000) → exec (.replayTimeout ⟨l, seq⟩) s = .next s)) ∧
    (∀ (dev : DevId) (pl : W4) (code : Bool), s.fab.mstate = 1 → linkEn s l.val = true → x.state = 3 → laneCount x.faults < 3 →
      (∃ e ∈ ettOf s.boot.cur s.devId, e.1 = l.val ∧ e.2.1 = dev.toNat ∧ e.2.2.1 = pl.toNat) →
      (∃ t, exec (.linkProbe l true dev ⟨pl, code⟩) s = .next t ∧ (t.link l.val).state = 2 ∧ (t.link l.val).peerDev = dev.toNat ∧
        (t.link l.val).peerLink = pl.toNat ∧ (t.link l.val).coded = (code && (s.reg .pl l.val 0x104).getLsbD 1) ∧
        OnlyLink l.val s t ∧ Floods s t) ∧
      exec (.linkProbe l false dev ⟨pl, code⟩) s = .next s)

/-- The meadow (R322 to R327, R442, R460): a newer LSA is kept and goes out on every other UP link; the own one leaves every
millisecond; a device without an LSA for 3 ms leaves the reachable set; a difference that has lasted 5 ms takes the reachable
set for the in-service set, the side without the majority FENCED, and a side that goes on without its master takes its lowest device
for one; a device that may join enters the set.

Fabric time (R15, R322, R323, R460): the device asks its parent every 10 µs; a neighbour that asks is answered; the first lock before
READY takes the parent's time; a later exchange keeps its offset, is locked within 4 ns of it, sets TIME_ERR beyond 16 ns and
steers against it at 200 ppm at most; 100 µs without a parent is holdover; the master's first PPS edge is taken, and steered by, and
one within 1 ms of it is ignored. Where the spec leaves a corner open the model follows log entry 32. -/
def Obligations.MembershipAndFabricTime : Prop :=
  (∀ (s : State),
    (∀ (l : LinkId) (a : Lsa), s.linkUp l.val = true → a.origin.toNat ≠ s.devId →
      (∀ x, s.lsaOf a.origin.toNat = some x → x.1 < a.seq) →
      ∃ t, exec (.lsa l a) s = .next t ∧ t.lsaOf a.origin.toNat = some (a.seq, s.ftime, a) ∧
        (∀ v, v ≠ a.origin.toNat → t.lsaOf v = s.lsaOf v) ∧
        t.fab.out.map (fun p => (p.link, p.body)) = s.fab.out.map (fun p => (p.link, p.body)) ++
          ((List.range 12).filter (fun o => o != l.val && s.linkUp o)).map (fun o => (o, .lsa a)) ∧
        (s.fab.service.contains a.origin.toNat = true → t.fab.reach.contains a.origin.toNat = true) ∧
        Frame [.fab, .cnt64, .regs] s t) ∧
    (1000000 ≤ s.ftime - s.fab.lsaAt → ∃ t, exec .lsaTimer s = .next t ∧ Floods s t ∧ Frame [.fab, .cnt64, .regs] s t) ∧
    (∀ v : DevId, v.toNat ≠ s.devId → s.lsaFresh v.toNat = false →
      ∃ t, exec (.reachExpiry v) s = .next t ∧ t.fab.reach.contains v.toNat = false ∧ t.fab.service = s.fab.service ∧
        (s.fab.service.contains v.toNat = true → t.fab.diffAt ≠ 0) ∧ Frame [.fab] s t) ∧
    (s.fab.diffAt ≠ 0 → s.fab.diffAt + 5000000 ≤ s.ftime + 1 → (∀ q, q < s.seqSlots → s.grpMembers q = 0) →
      let c := s.fab.reach
      let n := s.fab.service.length
      let most := n < 2 * c.length ∨ (2 * c.length = n ∧ c.contains (bitsN (s.regN .pl 0 0x184) 9 0) = true)
      ∃ t, exec .splitDeclare s = .next t ∧ t.fab.service = c ∧ t.fab.diffAt = 0 ∧
        (t.reg .pl 0 0x188).getLsbD 28 = true ∧ t.reports = s.reports ++ [⟨Code.meadowSplit, 0xFF1, 0, 0, none⟩] ∧
        (most → s.fab.mstate ≠ 2 → t.fab.mstate = s.fab.mstate ∧ (c.contains s.masterId = false →
          ∃ m, t.fab.newMaster = some m ∧ t.fab.master = (m == s.devId) ∧ (c ≠ [] → m ∈ c) ∧ ∀ x ∈ c, m ≤ x)) ∧
        (¬ most → t.fab.mstate = 2 ∧ t.fab.master = false ∧ t.fab.hold = true)) ∧
    (∀ v : DevId, s.mayJoin v.toNat = true → s.fab.service.contains v.toNat = false →
      ∃ t, exec (.joinAdmit v) s = .next t ∧ t.fab.service = s.fab.service ++ [v.toNat] ∧ t.fab.mstate = s.fab.mstate ∧
        t.reports = s.reports)) ∧
  (∀ (s : State),
    (∀ (l : LinkId) (x : TimeStamps),
      let mine := s.fab.master = false ∧ s.fab.mstate ≠ 2 ∧ s.parentLink = some l.val
      (mine → s.fab.timeSent + 10000 ≤ s.ftime →
        ∃ t p, exec (.pktTime l .due x) s = .next t ∧ t.fab.timeSent = s.ftime ∧ GoesOut s t l.val p ∧ p.body = .time (.ask s.nowPs) ∧
          Frame [.fab, .cnt64, .regs] s t) ∧
      ((¬ mine ∨ s.ftime < s.fab.timeSent + 10000) → exec (.pktTime l .due x) s = .next s) ∧
      (∀ t1 t2 t3 : Nat, s.linkUp l.val = true →
        ∃ t p, exec (.pktTime l .ask ⟨t1, t2, t3⟩) s = .next t ∧ GoesOut s t l.val p ∧ p.body = .time (.reply t1 s.nowPs s.nowPs) ∧
          Frame [.fab, .cnt64, .regs] s t) ∧
      (∀ t1 t2 t3 : Nat, s.linkUp l.val = true → mine →
        let ofs : Int := ((t1 : Int) + s.nowPs - t2 - t3) / 2
        let delay : Int := ((s.nowPs : Int) - t1 - (t3 - t2)) / 2
        (s.fab.firstLock = false → s.boot.state ≠ 7 →
          ∃ t, exec (.pktTime l .reply ⟨t1, t2, t3⟩) s = .next t ∧ t.ftime = ((t3 + delay) / 1000).toNat % 2 ^ 64 ∧ t.timeAcc = 0 ∧
            t.fab.firstLock = true ∧ t.fab.locked = true ∧ Frame [.fab, .cnt64, .ftime, .timeAcc, .boot] s t) ∧
        ((s.fab.firstLock = true ∨ s.boot.state = 7) →
          ∃ t, exec (.pktTime l .reply ⟨t1, t2, t3⟩) s = .next t ∧ t.fab.ofs = ofs ∧ t.fab.locked = decide (ofs.natAbs ≤ 4000) ∧
            t.fab.hold = false ∧ t.fab.timeAt = s.ftime ∧ -200 ≤ t.fab.ratePpm ∧ t.fab.ratePpm ≤ 200 ∧
            (0 < ofs → t.fab.ratePpm ≤ 0) ∧ (ofs < 0 → 0 ≤ t.fab.ratePpm) ∧ (ofs = 0 → t.fab.ratePpm = 0) ∧
            (16000 < ofs.natAbs → (t.reg .pl 0 0x1B0).getLsbD 2 = true ∧ t.fab.ratePpm.natAbs = 200) ∧ t.ftime = s.ftime)) ∧
      (∀ t1 t2 t3 : Nat, ¬ mine →
        ∃ t, exec (.pktTime l .reply ⟨t1, t2, t3⟩) s = .next t ∧ NothingSent s t ∧ t.fab.ratePpm = s.fab.ratePpm ∧
          Frame [.fab, .cnt64] s t)) ∧
    (s.fab.master = false → 100000 < s.ftime - s.fab.timeAt →
      ∃ t, exec .timeHoldover s = .next t ∧ t.fab = { s.fab with hold := true } ∧ Frame [.fab] s t) ∧
    (s.fab.master = true → (s.reg .pl 0 0x184).getLsbD 28 = true →
      (s.fab.ppsAt = 0 →
        ∃ t, exec .ppsEdge s = .next t ∧ t.fab.ppsAt = s.ftime + 1 ∧
          (s.ftime % 1000000000 = 0 → t.fab.ratePpm = 0) ∧
          (0 < s.ftime % 1000000000 → s.ftime % 1000000000 < 500000000 → -200 ≤ t.fab.ratePpm ∧ t.fab.ratePpm ≤ 0) ∧
          Frame [.fab, .freeCtr] s t) ∧
      (s.fab.ppsAt ≠ 0 → s.ftime + 1 - s.fab.ppsAt ≤ 1000000 → exec .ppsEdge s = .next s)))

namespace Sys2Proof.Claims
open Sys2Proof.Machine

/-- No byte of HBM outside physical lines `p` and `q` changes. -/
def OnlyPhys (p q : Nat) (s t : State) : Prop :=
  ∀ b, b / 128 ≠ p → b / 128 ≠ q → Memory.read t.hbm.data b = Memory.read s.hbm.data b

end Sys2Proof.Claims

/-- HBM lines (R284 to R292, R294, R296, R297), in a stack that takes requests on a die that runs. A write puts the line, its
marker and its tag at its place, and, while a channel retires, at its place under the shadow map, and nowhere else. A read
changes no line but one that stays uncorrectable, which is poisoned; its outcome is counted as the table of R288 says: a poison
marker counts nothing, a wrong tag counts as TAG alone. A partial write merges into a good line and poisons any other. While the
stack takes no request the access waits; above the usable end it is an address error of stack 0's page (R13). A migration passes
over the granules that stay and copies the two lines of the next one, each with its marker, one that reads uncorrectable
poisoned; after the last one the channel joins the retirement list, and the next FAILING channel follows. That a waiting access
is the command left without effect, and which page records the address error of a bare access, is the model's choice (log
entries 2 and 35); where the spec leaves another corner open the model follows log entries 32 and 33. -/
def Obligations.HbmLinesAreStoredCheckedAndMoved : Prop :=
  (∀ (x : W42) (s : State),
    let a := x.toNat / 128 * 128
    let p := s.phys a
    let k := physChan p / 32
    let access := fun c => (∃ e, c = Instr.hbmRead x e) ∨ (∃ d b, c = .hbmWrite x d b) ∨ ∃ m d e, c = .hbmPartialWrite x m d e
    (HbmServes s a →
      (∀ (data : Line) (psn : Bool), ∃ t, exec (.hbmWrite x data psn) s = .next t ∧
        HoldsLine t a p psn (if psn then 0 else data) ∧ HoldsLine t a (s.shadow a) psn (if psn then 0 else data) ∧
        OnlyPhys p (s.shadow a) s t ∧ (s.shadow a = p → Counted s t .hc k Off.hcWr 128) ∧ Frame [.hbm, .cnt64] s t) ∧
      (∀ e, s.lineTag a p = some true ∨ (s.lineTag a p = some false ∧ e = .clean) →
        ∃ t, exec (.hbmRead x e) s = .next t ∧ t.hbm.data = s.hbm.data ∧ t.hbm.info = s.hbm.info ∧
          Counted s t .hc k Off.hcRd 128 ∧ Frame [.hbm, .cnt64] s t) ∧
      (∀ e n, s.lineTag a p = some false → (e = .corrected ∧ n = 0) ∨ (∃ b, e = .retried b ∧ n = 1 + b2n b) →
        ∃ t, exec (.hbmRead x e) s = .next t ∧ t.reg .hc k Off.hcCe = s.reg .hc k Off.hcCe + 1 ∧
          t.reg .hc k Off.hcCeLast = BitVec.ofNat 32 (a / 128) ∧ (t.reg .hc k Off.hcErr).getLsbD 0 = true ∧
          t.reg .hc k Off.hcRetry = s.reg .hc k Off.hcRetry + BitVec.ofNat 32 n ∧ t.hbm.data = s.hbm.data ∧
          t.hbm.info = s.hbm.info) ∧
      (∀ e n, (s.lineTag a p = none ∧ ((e = .clean ∧ n = 0) ∨ (e = .corrected ∧ n = 0) ∨ ∃ b, e = .retried b ∧ n = 1 + b2n b)) ∨
          (s.lineTag a p ≠ some true ∧ e = .tagBad ∧ n = 0) →
        ∃ t, exec (.hbmRead x e) s = .next t ∧ t.reg .hc k Off.hcTag = s.reg .hc k Off.hcTag + 1 ∧
          (t.reg .hc k Off.hcErr).getLsbD 2 = true ∧ t.reg .hc k Off.hcCe = s.reg .hc k Off.hcCe ∧
          t.reg .hc k Off.hcRetry = s.reg .hc k Off.hcRetry + BitVec.ofNat 32 n ∧
          t.hbm.data = s.hbm.data ∧ t.hbm.info = s.hbm.info) ∧
      (s.lineTag a p ≠ some true → ∃ t, exec (.hbmRead x .uncorrectable) s = .next t ∧
        t.reg .hc k Off.hcUe = s.reg .hc k Off.hcUe + 1 ∧ t.reg .hc k Off.hcRetry = s.reg .hc k Off.hcRetry + 2 ∧
        (t.reg .hc k Off.hcErr).getLsbD 1 = true ∧ t.lineTag a p = some true ∧ OnlyPhys p (t.shadow a) s t) ∧
      (∀ (mask : W128) (data l : Line), HoldsLine s a p false l →
        ∃ t m, exec (.hbmPartialWrite x mask data .clean) s = .next t ∧ HoldsLine t a p false m ∧
          HoldsLine t a (s.shadow a) false m ∧
          (∀ i, i < 128 → lineByte m i = if bitN mask.toNat i then lineByte data i else lineByte l i) ∧
          OnlyPhys p (s.shadow a) s t ∧ Frame [.hbm, .cnt64] s t) ∧
      (∀ (mask : W128) (data : Line) (e : Ecc), s.lineTag a p ≠ some false ∨ e = .uncorrectable ∨ e = .tagBad →
        ∃ t, exec (.hbmPartialWrite x mask data e) s = .next t ∧ t.lineTag a p = some true ∧
          t.reg .hc k Off.hcPw = s.reg .hc k Off.hcPw + 1 ∧ (t.reg .hc k Off.hcErr).getLsbD 3 = true ∧
          OnlyPhys p (t.shadow a) s t)) ∧
    (a < s.hbmEnd → (s.hbmReady a = false ∨ s.hbmDown a = true) → ∀ c, access c → exec c s = .next s) ∧
    (s.hbmEnd ≤ a → (s.reg .hc 0 Off.errCnt).toNat < 0xFFFFFFFF → ∀ c, access c →
      ∃ t, exec c s = .next t ∧ t.reg .hc 0 Off.errCnt = s.reg .hc 0 Off.errCnt + 1 ∧ Frame [.regs, .logPtr] s t)) ∧
  (∀ (s : State) (c : Nat), s.hbm.retiring = some c →
    let g := s.hbm.migNext
    let a := 256 * g
    let n := min 512 ((s.hbmEnd + 255) / 256 - g)
    (s.flt.dieRst = [] → (∀ i, i < n → s.phys (256 * (g + i)) = s.shadow (256 * (g + i))) → ∀ e e',
      ∃ t, exec (.migrationCopy ⟨e, e'⟩) s = .next t ∧ t.hbm = { s.hbm with migNext := g + n } ∧ Frame [.hbm] s t) ∧
    (a < s.hbmEnd → s.flt.dieRst = [] → s.phys a ≠ s.shadow a → s.hbmReady a = true →
      s.stkTakes (physChan (s.shadow a) / 32) = true → ∀ e e',
      ∃ t, exec (.migrationCopy ⟨e, e'⟩) s = .next t ∧ t.hbm.migNext = g + 1 ∧ t.hbm.retiring = some c ∧
        t.reg .hc 0 0x190 = s.reg .hc 0 0x190 + 1 ∧
        (∀ y o, (y = a ∧ o = e) ∨ (y = a + 128 ∧ o = e') →
          (o = .uncorrectable → t.lineTag y (s.shadow y) = some true) ∧
          (o ≠ .uncorrectable → o ≠ .tagBad → ∀ b, s.lineTag y (s.phys y) = some b →
            HoldsLine t y (s.shadow y) b (if b then 0 else s.physData (s.phys y))))) ∧
    (s.hbmEnd ≤ 256 * g → ∃ t, exec .mapSwitch s = .next t ∧ t.hbm.ret = s.hbm.ret ++ [c] ∧ t.hbm.gen = !s.hbm.gen ∧
      t.hbm.data = s.hbm.data ∧ t.hbm.info = s.hbm.info ∧ (s.hbm.failing = [] → t.hbm.retiring = none) ∧
      ∀ f fs, s.hbm.failing = f :: fs → s.hbm.ret.length + 1 < 8 → t.hbm.retiring = some f ∧ t.hbm.migNext = 0) ∧
    (256 * g < s.hbmEnd → exec .mapSwitch s = .next s))

/-- HBM stacks (R290, R298 to R301): a temperature sample sets the refresh rate, the request limit and the cap, and halts
the stack at 105 °C with its report; an idle stack of a gated half enters self-refresh and a request ends it; FILL leaves
every line of the stack zero under the current key and no other stack's line changed, starts over a migration's copy and ends
only in a stack that takes requests; a margin measurement of a stack or channel out of service leaves its bounds, and any other
is refused. What FILL does to a line written meanwhile is a free choice (log entry 6). -/
def Obligations.HbmStacksFollowHeatFillAndMargin : Prop :=
  ∀ (k : StackId) (s : State),
    let x := s.stk k.val
    let only := fun t : State => ∀ n, n ≠ k.val → t.stk n = s.stk n
    (∀ temp, x.state ≠ 0 → ∃ t, exec (.hbmThermSample k temp) s = .next t ∧
      t.stk k.val = { x with
        sampled := true, temp := temp, ref2x := decide (85 ≤ temp)
        cap := if temp < 83 then min 60 (x.cap + 1) else if temp < 85 then x.cap else max 16 (x.cap - 2)
        half := decide (95 ≤ temp) || (x.half && decide (93 ≤ temp)), state := if 105 ≤ temp then 3 else x.state } ∧
      (95 ≤ temp → x.half = false → (t.reg .hc k.val Off.evtRaw).getLsbD 7 = true) ∧
      (105 ≤ temp → x.state ≠ 3 → t.reports = s.reports ++ [⟨Code.hbmThermHalt, 0x220 + k.val, 0, temp, none⟩] ∧
        (t.reg .hc k.val Off.hcErr).getLsbD 7 = true) ∧
      (temp < 105 ∨ x.state = 3 → t.reports = s.reports) ∧ only t ∧ t.hbm.data = s.hbm.data ∧ t.hbm.info = s.hbm.info ∧
      Frame [.hbm, .regs, .reports, .hostOut] s t) ∧
    (x.state = 1 → (∀ u, u < 16 → (s.pwUmb (16 * (k.val / 4) + u)).state = 0) → 100000 ≤ s.ftime - x.lastReq →
      x.filling = false → s.hbm.retiring = none → x.builds = [] →
      ∃ t, exec (.selfRefreshEntry k) s = .next t ∧ t.stk k.val = { x with state := 2 } ∧
        only t ∧ t.hbm.data = s.hbm.data ∧ Frame [.hbm] s t) ∧
    (x.state = 2 → ∃ t, exec (.selfRefreshExit k) s = .next t ∧ t.stk k.val = { x with state := 1, lastReq := s.ftime } ∧
      only t ∧ t.hbm.data = s.hbm.data ∧ Frame [.hbm] s t) ∧
    (x.filling = false → ∃ t, exec (.fillStack k) s = .next t ∧ (t.stk k.val).filling = true ∧
      (t.stk k.val).state = (if x.state = 2 then 1 else x.state) ∧ t.hbm.migNext = 0 ∧ t.reg .hc k.val 0x244 = 0 ∧
      (∀ a, inStack k.val (s.phys a) = true → HoldsLine t a (s.phys a) false 0) ∧
      (∀ b, inStack k.val (b / 128) = false → Memory.read t.hbm.data b = Memory.read s.hbm.data b) ∧ only t ∧
      Frame [.hbm, .regs] s t) ∧
    (x.filling = true → exec (.fillStack k) s = .next s ∧ (s.stkTakes k.val = false → exec (.fillEnd k) s = .next s)) ∧
    (x.filling = true → s.stkTakes k.val = true → ∃ t, exec (.fillEnd k) s = .next t ∧
      let n := 2 * setsPerChan s.cap * (s.liveChans k.val).length
      t.stk k.val = { x with filling := false, lastReq := s.ftime } ∧ t.reg .hc k.val 0x244 = BitVec.ofNat 32 n ∧
      Counted s t .hc k.val Off.hcWr (128 * n) ∧ only t ∧
      (∀ p, t.physData p = s.physData p ∨ (inStack k.val p = true ∧ t.physData p = 0)) ∧
      Frame [.hbm, .regs, .cnt64, .freeCtr] s t) ∧
    (∀ v : W32, x.marginOn = false → (x.state = 0 ∨ s.hbm.ret.contains (32 * k.val + bitsN v.toNat 4 0) = true) →
      ∃ t, exec (.marginStart k v) s = .next t ∧ t.stk k.val = { x with marginOn := true } ∧ only t ∧
        t.reg .hc k.val 0x200 = v &&& 0x00013F3F ∧ t.reg .hc k.val 0x204 = 0 ∧ Frame [.hbm, .regs] s t) ∧
    (∀ v : W32, (x.marginOn = true ∨ (x.state ≠ 0 ∧ s.hbm.ret.contains (32 * k.val + bitsN v.toNat 4 0) = false)) →
      ∃ t, exec (.marginStart k v) s = .next t ∧ t.reg .hc k.val 0x200 = v &&& 0x00013F3F ∧
        (t.reg .hc k.val 0x204).getLsbD 17 = true ∧ Frame [.regs] s t) ∧
    (∀ lo hi : W8, x.marginOn = true → ∃ t, exec (.marginDone k lo hi) s = .next t ∧
      t.stk k.val = { x with marginOn := false } ∧ only t ∧
      t.reg .hc k.val 0x204 = BitVec.ofNat 32 (lo.toNat + 256 * hi.toNat + 2 ^ 16) ∧ Frame [.hbm, .regs] s t)

namespace Sys2Proof.Claims
open Sys2Proof.Machine

/-- No umbel but `u` changes in the power controller. -/
def OnlyPwUmb (u : Nat) (s t : State) : Prop := ∀ n, n ≠ u → t.pwUmb n = s.pwUmb n

/-- No rail but `r` changes. -/
def OnlyRail (r : Nat) (s t : State) : Prop := ∀ n, n ≠ r → t.rail n = s.rail n

/-- Pieces that an event of a page may touch. -/
def evtPieces : List Piece := [.regs, .hostOut]

/-- The event bit of the power page has been set. -/
def PwEvent (t : State) (e : Nat) : Prop := (t.reg .pw 0 Off.evtRaw).getLsbD e = true

end Sys2Proof.Claims

/-- Samples and loops (R8, R334, R341 to R345, R350, R352 to R357): AVSBus readings give the voltages and sensed power; five samples
without a reply bring fallback; the power limit lowers the clocks, and at their lowest the stacks' rate, above the limit and
raises them below it, and the current limit moves a rail's F_cur; PMBus reads give rails 3 and 4, open phases and healthy ones;
the fast loop sets a rail's duty; the margin loop trims a V/F entry with 64 samples; a droop alarm stretches the clock;
temperature sets the thermal cap, 10 ms at 105 °C a report, and 115 °C the trip. Where the spec leaves a corner open the model
follows log entries 9 and 22. -/
def Obligations.SamplesDriveTheControlLoops : Prop :=
  ∀ (s : State),
    (∀ rd : AvsReading, (rd.rails.map (·.rail)).Nodup → ∃ t, exec (.avsSample rd) s = .next t ∧ Frame (.pw :: evtPieces) s t ∧
      t.pw.sensedW = t.sensedMw / 1000 ∧ t.pw.estW = rd.estMw / 1000 ∧
      (∀ y ∈ rd.rails, y.rail.val ≠ 3 → y.rail.val ≠ 4 →
        let r := y.rail.val
        let x := s.rail r
        (t.rail r).mv = (if y.ok then y.mv else x.mv) ∧
        (y.ok = false → 4 ≤ x.miss → t.pw.fallback = true ∧ (s.pw.fallback = false → PwEvent t 3)) ∧
        (r < 3 → (t.rail r).est = false → x.duty = 16 →
          (s.capI r < y.ma.toNat → 16 ≤ (t.rail r).fcur ∧ ((t.rail r).fcur < x.fcur ∨ (t.rail r).fcur = 16)) ∧
          (100 * y.ma.toNat < 95 * s.capI r → (t.rail r).fcur = min 60 (x.fcur + 1)) ∧
          (y.ma.toNat ≤ s.capI r → 95 * s.capI r ≤ 100 * y.ma.toNat → (t.rail r).fcur = x.fcur))) ∧
      (let p := if t.pw.fallback then rd.estMw else t.sensedMw
       let lim := (if t.pw.fallback then 800 else 1000) * bitsN (s.regN .pw 0 0x100) 10 0
       (lim < p → 16 < s.pw.fPwr →
         t.pw.fPwr = max 16 (s.pw.fPwr - max 1 (cdiv (p - lim) (max 1 rd.stepMw))) ∧ t.pw.rate = s.pw.rate) ∧
       (lim < p → s.pw.fPwr ≤ 16 → t.pw.fPwr = s.pw.fPwr ∧ t.pw.rate = max 1 (s.pw.rate - 1)) ∧
       (100 * p < 98 * lim → s.pw.rate < 16 → t.pw.fPwr = s.pw.fPwr ∧ t.pw.rate = s.pw.rate + 1) ∧
       (100 * p < 98 * lim → 16 ≤ s.pw.rate → t.pw.fPwr = min 60 (s.pw.fPwr + 1) ∧ t.pw.rate = s.pw.rate) ∧
       (p ≤ lim → 98 * lim ≤ 100 * p → t.pw.fPwr = s.pw.fPwr ∧ t.pw.rate = s.pw.rate))) ∧
    (∀ rd : PmbReading, ∃ t, exec (.pmbusSample rd) s = .next t ∧ Frame (.pw :: evtPieces) s t ∧
      (∀ i mv ma, i < 2 → rd.aux[i]? = some (mv, ma) → t.rail (3 + i) = { s.rail (3 + i) with mv := mv, ma := ma }) ∧
      (∀ r ps j, r < 3 → rd.phases[r]? = some ps → j < (s.rail r).phases →
        phaseLow (1000 * (s.rail r).icl) (ps.take (s.rail r).phases) j = true → 1 ≤ SMap.get 0 (s.rail r).openCnt j →
        j ∈ (t.rail r).opened ∧ ((s.rail r).opened.contains j = false → PwEvent t 2))) ∧
    (∀ (sts : List VrStatus), ∃ t, exec (.pmbAlertFall sts) s = .next t ∧ Frame [.pw] s t ∧
      ((∀ i, i < 4 → ∃ st, sts[9 + i]? = some st ∧ st.ok = true ∧ st.fault = false) → t.pw.vr3 = false) ∧
      (∀ r st, r < 3 → sts[r]? = some st → (st.ok = false ∨ st.fault = true) → (t.rail r).healthyAt = 0) ∧
      (∀ r st, r < 3 → sts[r]? = some st → st.ok = true → st.fault = false → (s.rail r).phases ≤ st.healthy →
        (∀ j, j < (s.rail r).phases → SMap.get 0 (s.rail r).openCnt j = 0) →
        (t.rail r).healthyAt = if (s.rail r).healthyAt = 0 then s.ftime + 1 else (s.rail r).healthyAt)) ∧
    (∀ (est : List Nat), ∃ t, exec (.currentFastTick est) s = .next t ∧ Frame [.pw] s t ∧
      ∀ r e, r < 3 → est[r]? = some e →
        let x := s.rail r
        let cap := s.capI r * x.g.2
        let i := x.g.1 * e
        (cap < i → (t.rail r).duty = max 1 (16 * cap / i)) ∧
        (i ≤ cap → (t.rail r).duty = if x.duty < 16 ∧ i * (x.duty + 1) ≤ cap * x.duty then x.duty + 1 else x.duty)) ∧
    (∀ (u : UmbelId) (slack : Slack), (s.pwUmb u.val).state = 2 → s.pw.trip = false →
      let x := s.pwUmb u.val
      let i := vfEntry u.val x.freq
      let n := min 64 (SMap.get 0 x.samples i + 1)
      ∃ t, exec (.marginLoopTick u slack) s = .next t ∧ Frame [.pw] s t ∧ OnlyPwUmb u.val s t ∧
        SMap.get 0 (t.pwUmb u.val).samples i = n ∧
        SMap.get 0 (t.pwUmb u.val).trim i =
          (if n < 64 then SMap.get 0 x.trim i else if slack = .low then SMap.get 0 x.trim i - 1
           else if slack = .high ∧ 7 ≤ x.high then min 12 (SMap.get 0 x.trim i + 1) else SMap.get 0 x.trim i)) ∧
    (∀ u : UmbelId,
      let x := s.pwUmb u.val
      (x.state = 2 → ∃ t, exec (.cpmAlarm u true) s = .next t ∧ Frame [.pw] s t ∧
        t.pwUmb u.val = { x with alarm := true, stretch := if x.alarm then 2 else max 1 x.stretch } ∧ OnlyPwUmb u.val s t) ∧
      (x.state = 2 → ∃ t, exec (.cpmAlarm u false) s = .next t ∧ Frame [.pw] s t ∧
        t.pwUmb u.val = { x with alarm := false } ∧ OnlyPwUmb u.val s t) ∧
      (x.alarm = false → ∃ t, exec (.stretchEnd u) s = .next t ∧ Frame [.pw] s t ∧
        t.pwUmb u.val = { x with stretch := 0 } ∧ OnlyPwUmb u.val s t) ∧
      (∀ q, ∃ t, exec (.thermalTick u q) s = .next t ∧ Frame (.pw :: .reports :: evtPieces) s t ∧
        (t.pwUmb u.val).temp = q ∧
        (t.pwUmb u.val).fTherm = (if q < 372 then min 60 (x.fTherm + 1) else if q < 380 then x.fTherm
          else if q < 420 then max 16 (x.fTherm - 1) else 16) ∧
        (q < 420 → (t.pwUmb u.val).hot = 0) ∧ (420 ≤ q → (t.pwUmb u.val).hot ≠ 0 ∧ PwEvent t 4 ∧
          (t.reg .pw 0 0x110).getLsbD 9 = true) ∧
        (q < 460 → OnlyPwUmb u.val s t ∧ t.pw.trip = s.pw.trip ∧ t.reports = s.reports) ∧
        (460 ≤ q → t.pw.trip = true ∧ (s.pw.trip = false → PwEvent t 7 ∧ (∀ v, v < 32 → (t.pwUmb v).freq = 0) ∧
          t.reports = s.reports ++ [⟨Code.thermtrip, 0x200 + u.val, 0, 0, s.launchOf (0x200 + u.val)⟩]))) ∧
      (x.hot ≠ 0 → 10000000 ≤ s.ftime + 1 - x.hot →
        ∃ t, exec (.dieOvertemp u) s = .next t ∧
          t.reports = s.reports ++ [⟨Code.dieOvertemp, 0x200 + u.val, 0, x.temp, s.launchOf (0x200 + u.val)⟩] ∧
          Frame [.reports] s t)) ∧
    (∀ (l : LinkId) (lane : Fin8), s.linkUp l.val = true →
      ∃ t, exec (.linkEqTick l lane) s = .next t ∧ Frame [.pw] s t ∧
        SMap.get 0 t.pw.eq (l.val * 8 + lane.val) = min 64 (SMap.get 0 s.pw.eq (l.val * 8 + lane.val) + 1))

/-- Regulator faults (R352 to R354): the fall of VR_FAULT_N caps the rail at half its limit; the read that follows lifts the
cap, or sets it by the healthy phases, and reports an output that is off, while a read that fails leaves the cap; bit 3 halves
the stacks' rate where it names rails 9 to 12; a rail healthy for 1 s has its full phases again. Where the spec leaves a corner open the model follows log entries 9 and 22. -/
def Obligations.RegulatorFaultsCapTheirRail : Prop :=
  ∀ (rail : Fin3) (s : State),
    let x := s.rail rail.val
    (∃ t, exec (.vrFaultFall rail) s = .next t ∧ t.rail rail.val = { x with fault := 1, faultAt := s.ftime, healthyAt := 0 } ∧
      OnlyRail rail.val s t ∧ PwEvent t 1 ∧ Frame (.pw :: evtPieces) s t ∧ t.capI rail.val ≤ 500 * x.icl) ∧
    (∀ st : VrStatus, x.fault = 1 → st.ok = true → ∃ t, exec (.vrStatusRead rail st) s = .next t ∧
      (st.fault = false → t.rail rail.val = { x with fault := 0 }) ∧
      (st.fault = true → t.rail rail.val = { x with fault := 2 + min st.healthy x.phases, healthy := min st.healthy x.phases } ∧
        t.capI rail.val ≤ 900 * min st.healthy x.phases * x.icl / max 1 x.phases) ∧
      t.reports = s.reports ++ (if st.off then [⟨Code.vrOff, 0xFF1, rail.val, 0, none⟩] else []) ∧ OnlyRail rail.val s t ∧
      Frame [.pw, .reports] s t) ∧
    (∀ st : VrStatus, st.ok = false → exec (.vrStatusRead rail st) s = .next s) ∧
    (∀ (n : RailId) (st : VrStatus), 3 ≤ n.val → ∃ t, exec (.vrFault3Fall n st) s = .next t ∧
      t.pw = { s.pw with vr3 := s.pw.vr3 || (st.ok && decide (9 ≤ n.val)) } ∧
      t.reports = s.reports ++ (if st.ok && st.off then [⟨Code.vrOff, 0xFF1, n.val, 0, none⟩] else []) ∧ PwEvent t 1 ∧
      Frame (.pw :: .reports :: evtPieces) s t) ∧
    (x.healthyAt ≠ 0 → 1000000000 ≤ s.ftime + 1 - x.healthyAt →
      ∃ t, exec (.phaseHealthyExpiry rail) s = .next t ∧ t.rail rail.val =
        { x with fault := if 2 ≤ x.fault then 0 else x.fault, opened := [], openCnt := [], healthy := x.phases } ∧
        OnlyRail rail.val s t ∧ Frame [.pw] s t)

/-- Clocks, voltages and gating (R335 to R340, R349 to R351, R357): aclk moves one step at a time toward its lowest cap, a rise
only at voltages reached, which it asks for where a rail has not reached its own; a raise that is reached in 50 µs counts, a later
one is an error; PWRWARN_N takes the largest duty that meets FLOOR, and gives it back step by step; a woken umbel runs at a
frequency whose voltages its rails have reached, or the lowest, an idle one is clock-gated; THERMTRIP stops every clock; a phase
hold ends in its time. Where the spec leaves a corner open the model follows log entries 9 and 22. -/
def Obligations.ClocksVoltagesAndGatingMove : Prop :=
  ∀ (u : UmbelId) (s : State),
    let x := s.pwUmb u.val
    let r := u.val / 16
    let cap := max 16 (s.umCap u.val)
    let floor := 1000 * bitsN (s.regN .pw 0 0x100) 26 16
    let calm := s.pw.trip = false
    let at1 := ceil5 (s.umNeed u.val (x.freq + 1)) ≤ (s.rail r).reached
    let at2 := sramVolt (x.freq + 1) ≤ (s.rail 2).reached
    (calm → (x.state = 1 ∨ x.state = 2) → cap < x.freq →
      ∃ t, exec (.aclkStep u) s = .next t ∧ t.pwUmb u.val = { x with freq := x.freq - 1 } ∧ OnlyPwUmb u.val s t ∧
        Frame [.pw] s t) ∧
    (calm → (x.state = 1 ∨ x.state = 2) → x.freq < cap → at1 → at2 →
      ∃ t, exec (.aclkStep u) s = .next t ∧ t.pwUmb u.val = { x with freq := x.freq + 1 } ∧ OnlyPwUmb u.val s t ∧
        Frame [.pw] s t ∧ ∀ r, t.rail r = s.rail r) ∧
    (calm → (x.state = 1 ∨ x.state = 2) → x.freq < cap → ¬ (at1 ∧ at2) →
      ∃ t, exec (.aclkStep u) s = .next t ∧ (∀ n, t.pwUmb n = s.pwUmb n) ∧ Frame [.pw] s t ∧
        (s.pw.warn = true → t = s) ∧
        (s.pw.warn = false → ¬ at1 → (t.rail r).set = max (ceil5 (s.umNeed u.val (x.freq + 1))) (s.railNeed r) ∧
          (t.rail r).raiseAt ≠ 0 ∧ (t.rail r).reached = (s.rail r).reached)) ∧
    (∀ rail : Fin3, (s.rail rail.val).raiseAt ≠ 0 →
      (s.ftime + 1 - (s.rail rail.val).raiseAt ≤ 50000 →
        ∃ t, exec (.voltageReached rail) s = .next t ∧ t.rail rail.val =
          { s.rail rail.val with reached := (s.rail rail.val).set, raiseAt := 0 } ∧ OnlyRail rail.val s t ∧ Frame [.pw] s t) ∧
      (50000 < s.ftime + 1 - (s.rail rail.val).raiseAt →
        ∃ t, exec (.voltageReached rail) s = .next t ∧ t.rail rail.val = { s.rail rail.val with raiseAt := 0 } ∧
          OnlyRail rail.val s t ∧ (t.reg .pw 0 0x110).getLsbD 10 = true ∧ PwEvent t 6 ∧ Frame (.pw :: evtPieces) s t)) ∧
    (∀ pf pu ph, s.pw.warnLow = false → calm → s.boot.aonLow = false →
      ∃ t, exec (.pwrwarnFall pf pu ph) s = .next t ∧ PwEvent t 0 ∧
        t.pw = { s.pw with warn := true, warnLow := true, k := t.pw.k, fallAt := s.ftime, riseAt := 0, stepAt := 0 } ∧
        1 ≤ t.pw.k ∧ t.pw.k ≤ 16 ∧ (16 * pf + (pu + ph) * t.pw.k ≤ 16 * floor ∨ t.pw.k = 1) ∧
        (∀ k, k ≤ 16 → 16 * pf + (pu + ph) * k ≤ 16 * floor → k ≤ t.pw.k) ∧ Frame (.pw :: evtPieces) s t) ∧
    (s.pw.warnLow = true → ∃ t, exec .pwrwarnRise s = .next t ∧
      t.pw = { s.pw with warnLow := false, riseAt := s.ftime + 1 } ∧ Frame [.pw] s t) ∧
    (let holdEnd := s.pw.riseAt - 1 + 1000 * bitsN (s.regN .pw 0 0x104) 15 0
     s.pw.warn = true → s.pw.warnLow = false → s.pw.riseAt ≠ 0 → holdEnd ≤ s.ftime →
      (s.pw.stepAt < holdEnd ∨ s.pw.stepAt + 20000 ≤ s.ftime) →
      ∃ t, exec .pwrwarnReleaseTick s = .next t ∧ Frame [.pw] s t ∧
        (s.pw.k < 15 → t.pw = { s.pw with k := s.pw.k + 1, stepAt := s.ftime }) ∧
        (15 ≤ s.pw.k → t.pw.warn = false ∧ t.pw.k = 16 ∧ ∀ n, t.pwUmb n = s.pwUmb n)) ∧
    (s.umLive u.val = true → x.state ≤ 1 → calm →
      ∃ t, exec (.umbelWake u) s = .next t ∧ t.pwUmb u.val = { x with state := 3 } ∧ OnlyPwUmb u.val s t ∧ Frame [.pw] s t) ∧
    (x.state = 3 → s.umLive u.val = true → calm →
      ∃ t, exec (.umbelWakeDone u) s = .next t ∧ (t.pwUmb u.val).state = 2 ∧ (t.um u.val).held = false ∧
        16 ≤ (t.pwUmb u.val).freq ∧ (t.pwUmb u.val).freq ≤ cap ∧
        ((t.pwUmb u.val).freq = 16 ∨ (ceil5 (s.umNeed u.val (t.pwUmb u.val).freq) ≤ (s.rail r).reached ∧
          sramVolt (t.pwUmb u.val).freq ≤ (s.rail 2).reached)) ∧
        OnlyPwUmb u.val s t ∧ OnlyUm u.val s t ∧
        (∀ k, k < 16 → (s.um u.val).held = true → (s.wset k).valid = true →
          (∀ j, j < 16 → j ≠ k → (s.wset j).valid = true → (s.wset j).gate ≠ (s.wset k).gate) →
          (t.um u.val).tally (s.wset k).gate = BitVec.ofNat 32 (s.wset k).g) ∧ Frame [.pw, .ums] s t) ∧
    (x.state = 2 → s.umLive u.val = true → s.umUsed u.val = false → (s.um u.val).dmaBusy = false → x.hold = 0 →
      s.pw.warn = false → 1000 * bitsN (s.regN .pw 0 0x108) 15 0 ≤ s.ftime - x.lastEnd →
      ∃ t, exec (.clockGate u) s = .next t ∧ t.pwUmb u.val = { x with state := 1 } ∧ OnlyPwUmb u.val s t ∧ Frame [.pw] s t) ∧
    (calm → ∃ t, exec (.thermtrip u) s = .next t ∧ t.pw.trip = true ∧
      (∀ v, v < 32 → t.pwUmb v = { s.pwUmb v with freq := 0 }) ∧
      (∀ n, n < 3 → t.rail n = let v := if n = 2 then 600 else 550; { s.rail n with set := v, reached := v, raiseAt := 0 }) ∧
      PwEvent t 7 ∧ t.reports = s.reports ++ [⟨Code.thermtrip, 0x200 + u.val, 0, 0, s.launchOf (0x200 + u.val)⟩] ∧
      Frame (.pw :: .reports :: evtPieces) s t) ∧
    (s.umUsed u.val = false → x.hold = 1 → x.lastEnd ≠ 0 → 100000 ≤ s.ftime - x.lastEnd →
      ∃ t, exec (.phaseHoldExpiry u) s = .next t ∧ t.pwUmb u.val = { x with guard := false, hold := 0 } ∧
        OnlyPwUmb u.val s t ∧ Frame [.pw] s t) ∧
    (s.umUsed u.val = false → x.hold = 2 → 10000000 ≤ s.ftime - x.lastEnd →
      ∃ t, exec (.phaseHoldExpiry u) s = .next t ∧ t.pwUmb u.val = { x with hold := 0 } ∧ OnlyPwUmb u.val s t ∧
        Frame [.pw] s t)

namespace Sys2Proof.Claims
open Sys2Proof.Machine

/-- No launch runs. -/
def NoLaunch (s : State) : Prop := ∀ n, (s.lsl n).state ≠ 2

/-- The log, which had room, has gained an unacknowledged record of this fault (R378, R379). -/
def Logged (s t : State) (code : Nat) : Prop :=
  s.flt.flog.length < 1024 → t.flt.flog.length = s.flt.flog.length + 1 ∧ t.flt.head = s.flt.head + 1 ∧
    ∃ r ∈ t.flt.flog, r.n = s.flt.head ∧ r.acked = false ∧ r.cls = faultClass code ∧ r.bytes % 2 ^ 16 = code % 2 ^ 16

/-- The partition has begun to recover from `code`: quiesce, its umbels' ingress closed (R364). -/
def Recovers (s t : State) (p code : Nat) : Prop :=
  (t.part p).state = 2 ∧ (t.part p).step = 1 ∧ (t.part p).cause = code ∧ (t.part p).stepAt = s.ftime ∧
    ∀ u, u ∈ s.partUmbels p → (t.um u).closed = true

/-- No partition but `p` changes. -/
def OnlyPart (p : Nat) (s t : State) : Prop := ∀ n, n ≠ p → t.part n = s.part n

/-- A device reset has started (R371). -/
def DevStarts (s t : State) (counted : Bool) : Prop :=
  t.flt.devRst = 1 ∧ t.flt.devAt = s.ftime ∧ t.flt.devCounted = counted

/-- The report that a FAULT_REPORT takes, and the reports left. -/
def takenReport (s : State) : Option HwFault → Option (Report × List Report)
  | some h => some ((s.hwReport h).1, s.reports)
  | none => match s.reports with
    | [] => none
    | r :: rest => some (r, rest)

end Sys2Proof.Claims

/-- FAULT_REPORT and the log (R255, R259, R360, R361, R364, R378, R379): the fault is recorded; a PARTITION fault of a LIVE partition
starts its recovery and ends its launches, a stale one is counted instead, and any other changes no partition; a DIE fault asks
for the die's reset, a DEVICE fault for the device's; an alert or a trip changes no partition and asks for no reset.
Acknowledged records are marked; an unacknowledged one goes out again when it is due, as a CPER with its section type and
severity. Where the spec leaves a corner open the model follows log entry 23. -/
def Obligations.FaultsAreRecordedAndTakeEffect : Prop :=
  ∀ (s : State),
    (∀ (hw : Option HwFault) (r : Report) (rest : List Report), takenReport s hw = some (r, rest) →
      let stale := (s.culprit r).2
      let p := (reportUnit r).umbel.bind s.partOf
      (∀ n, faultClass r.code = 0 → p = some n → (s.part n).state = 1 → stale = false →
        ∃ t, exec (.faultReport hw) s = .next t ∧ Logged s t r.code ∧ Recovers s t n r.code ∧ OnlyPart n s t ∧
          (NoLaunch s → t.reports = rest) ∧ (Tidy s → ∀ k, Running s k → (s.lsl k).part = n → Ended s t k)) ∧
      (∀ n, faultClass r.code = 0 → p = some n → stale = true →
        ∃ t, exec (.faultReport hw) s = .next t ∧ Logged s t r.code ∧ t.reg .fe 0 0x120 = s.reg .fe 0 0x120 + 1 ∧
          (∀ n, t.part n = s.part n) ∧ t.reports = rest ∧ t.fe = s.fe) ∧
      (faultClass r.code = 0 → (p = none ∨ ∃ n, p = some n ∧ (s.part n).state ≠ 1 ∧ stale = false) →
        ∃ t, exec (.faultReport hw) s = .next t ∧ Logged s t r.code ∧ (∀ n, t.part n = s.part n) ∧ t.reports = rest ∧
          t.fe = s.fe) ∧
      (faultClass r.code = 1 → ∃ t, exec (.faultReport hw) s = .next t ∧ Logged s t r.code ∧
        (∃ x, t.flt.dieReq = s.flt.dieReq ++ [x] ∧ x.1 = reportHalf r ∧ x.2.2 = r.code) ∧ (∀ n, t.part n = s.part n) ∧
        t.reports = rest) ∧
      (faultClass r.code = 2 → ∃ t, exec (.faultReport hw) s = .next t ∧ Logged s t r.code ∧ t.flt.devReq = true ∧
        (∀ n, t.part n = s.part n) ∧ t.reports = rest) ∧
      (3 ≤ faultClass r.code → ∃ t, exec (.faultReport hw) s = .next t ∧ Logged s t r.code ∧ t.flt.devReq = s.flt.devReq ∧
        t.flt.dieReq = s.flt.dieReq ∧ (∀ n, t.part n = s.part n) ∧ t.reports = rest)) ∧
    (∀ upto : W32, ∃ t, exec (.umcFaultAck upto) s = .next t ∧ Frame [.flt] s t ∧
      t.flt.flog = s.flt.flog.map (fun r => if r.n < upto.toNat then { r with acked := true } else r)) ∧
    (∀ n, ∃ t, exec (.managementReplyAck n) s = .next t ∧ Frame [.flt] s t ∧
      t.flt.flog = s.flt.flog.map (fun r => if r.n = n then { r with acked := true } else r)) ∧
    (∀ n r a, s.flt.flog.find? (fun r => r.n = n) = some r → r.acked = false → s.mgmt.addr = some a →
      (r.sentAt = 0 ∨ 1000000000 ≤ s.ftime + 1 - r.sentAt) →
      ∃ t, exec (.faultRecordResend n) s = .next t ∧ t.mgmt.out = s.mgmt.out ++ [.fault (s.regN .umc 0 0x124 % 256) n
          0x5B0F2C7193D44E6AA1C87E2D40B9F613 (if r.cls = 0 ∨ r.bytes % 2 ^ 16 = Code.sweepFail then 0 else 1) r.bytes] ∧
        (t.flt.flog.find? (fun r => r.n = n)).map (·.sentAt) = some (s.ftime + 1) ∧ Frame [.flt, .mgmt] s t)

/-- Partitions (R363 to R369, R372, R274): LIVE written as 1 takes a DOWN partition whose mask may serve to LIVE and wakes its
umbels, and as 0 gates them; RESET starts an uncounted recovery, which ends the launches; its steps reset the umbels, release
them with their GATE tallies set, scrub them, and open them again; a partition at its limit, or one that fails its test, is
RETIRED, the fourth one taking the device out of service. A refused write sets the escalation error. Where the spec leaves a
corner open the model follows log entries 23 and 33. -/
def Obligations.PartitionsGoThroughRecovery : Prop :=
  ∀ (p : PartId) (s : State),
    let x := s.part p.val
    let us := s.partUmbels p.val
    (x.state = 0 → s.boot.state = 7 → s.flt.oos = false → s.maskOk p.val (s.partMask p.val) = true →
      ∃ t, exec (.partLiveWrite p true) s = .next t ∧ t.part p.val = { x with state := 1 } ∧ OnlyPart p.val s t ∧
        (∀ u, u ∈ us → (s.pwUmb u).state ≤ 1 → s.pw.trip = false → (t.pwUmb u).state = 3) ∧ Frame [.flt, .pw] s t) ∧
    (x.state ≠ 1 → (x.state ≠ 0 ∨ s.boot.state ≠ 7 ∨ s.flt.oos = true ∨ s.maskOk p.val (s.partMask p.val) = false) →
      ∃ t, exec (.partLiveWrite p true) s = .next t ∧ (t.reg .gl 0 Off.glEsc).getLsbD 24 = true ∧ Frame [.regs] s t) ∧
    (x.state = 1 → s.partHeld p.val = false →
      ∃ t, exec (.partLiveWrite p false) s = .next t ∧ t.part p.val = { x with state := 0 } ∧ OnlyPart p.val s t ∧
        ∀ u, u ∈ us → (t.pwUmb u).state = 0 ∧ (t.um u).held = true) ∧
    ((1 < x.state ∨ s.partHeld p.val = true) →
      ∃ t, exec (.partLiveWrite p false) s = .next t ∧ (t.reg .gl 0 Off.glEsc).getLsbD 24 = true ∧ Frame [.regs] s t) ∧
    (x.state = 1 →
      ∃ t, exec (.partReset p) s = .next t ∧ Recovers s t p.val 0 ∧ OnlyPart p.val s t ∧ (t.part p.val).retire = false ∧
        (Tidy s → ∀ k, Running s k → (s.lsl k).part = p.val → Ended s t k)) ∧
    (x.state ≠ 1 →
      ∃ t, exec (.partReset p) s = .next t ∧ (t.reg .gl 0 Off.glEsc).getLsbD 24 = true ∧ Frame [.regs] s t) ∧
    (x.state = 2 → x.step = 1 → (s.umQuiet us = true ∨ 300000 ≤ s.ftime - x.stepAt) →
      ∃ t, exec (.quiesceEnd p) s = .next t ∧ t.part p.val = { x with step := 2, stepAt := s.ftime } ∧ OnlyPart p.val s t ∧
        ∀ u i, u ∈ us → i < 16 → (t.um u).held = true ∧ t.fl (16 * u + i) = Floret.reset) ∧
    (x.state = 2 → x.step = 2 → x.retire = false →
      ∃ t, exec (.recoveryResetEnd p) s = .next t ∧ t.part p.val = { x with step := 3, stepAt := s.ftime } ∧ OnlyPart p.val s t ∧
        (∀ u, u ∈ us → (s.pwUmb u).state = 1 ∨ (s.pwUmb u).state = 2 → (t.um u).held = false ∧
          ∀ k, k < 16 → (s.wset k).valid = true →
            (∀ j, j < 16 → j ≠ k → (s.wset j).valid = true → (s.wset j).gate ≠ (s.wset k).gate) →
            (t.um u).tally (s.wset k).gate = BitVec.ofNat 32 (s.wset k).g) ∧ Frame [.flt, .ums] s t) ∧
    (x.state = 2 → x.step = 2 → x.retire = true →
      ∃ t, exec (.recoveryResetEnd p) s = .next t ∧ (t.part p.val).state = 3 ∧ OnlyPart p.val s t ∧
        t.flt.retired = s.flt.retired + 1 ∧ (3 ≤ s.flt.retired → t.flt.oos = true) ∧
        ∀ u, u ∈ us → (t.um u).held = true ∧ bitN t.flt.retUmb u = true) ∧
    (x.state = 2 → x.step = 3 →
      (∃ t, exec (.scrubPreloadEnd p none) s = .next t ∧ t.part p.val = { x with state := 1, step := 0 } ∧ OnlyPart p.val s t ∧
        (∀ u, u ∈ us → (t.um u).closed = false) ∧
        ((∀ f, SMap.get 0 s.fe.lastImg f = 0) → ∀ u a, u ∈ us →
          0x10000000000 + 0x4000000 * u ≤ a → a < 0x10000000000 + 0x4000000 * (u + 1) → Memory.read t.sram a = 0)) ∧
      ∀ u : UmbelId, u.val ∈ us →
        ∃ t, exec (.scrubPreloadEnd p (some u)) s = .next t ∧ (t.part p.val).state = 3 ∧ (t.part p.val).cause = Code.marchFail ∧
          OnlyPart p.val s t ∧ Logged s t Code.marchFail)

/-- Resets (R18, R302, R332, R370 to R372): a called-for reset of a die takes it down, its links and its partitions with it, until
its end, its stacks' and links' registers at their reset values; the third within ten minutes is a device reset instead; a
device reset starts once, counted or not by who asked, ends the launches, and after 100 µs the device restarts warm with its
florets, umbels, front end and registers at their reset values but for those of the power controller and the UMC; out of service
it stays. A die-to-die lane takes a spare, or a report. Where the spec leaves a corner open the model follows log entries 23
and 35. -/
def Obligations.DieAndDeviceResetsRun : Prop :=
  ∀ (half : Bool) (s : State),
    let h := b2n half
    let calm := s.flt.devRst = 0 ∧ s.boot.aonLow = false
    let ts := s.ftime :: recent s.ftime 600000000000 (SMap.get [] s.flt.dieTimes h)
    let ends := fun t => (NoLaunch s → Frame [.flt] s t) ∧ (Tidy s → ∀ k, Running s k → Ended s t k)
    (∀ r, s.flt.dieReq.find? (fun r => r.1 = h) = some r → calm →
      (ts.length < 3 → ∃ t, exec (.dieReset half) s = .next t ∧ t.dieDown h = true ∧
        (∀ x, x ∈ t.flt.dieReq ↔ x ∈ s.flt.dieReq ∧ x.1 ≠ h) ∧
        (∀ l, 6 * h ≤ l → l < 6 * h + 6 → s.linkUp l = true → (t.link l).state = 0) ∧
        (∀ k, 4 * h ≤ k → k < 4 * h + 4 → (t.stk k).srq = [] ∧ (t.stk k).filling = false ∧ (t.stk k).temp = 0 ∧
          ∀ key, key / 4096 = Blk.page .hc k → sharedPage .hc (key % 4096) = false → t.rawReg key = regReset key) ∧
        (∀ l key, 6 * h ≤ l → l < 6 * h + 6 → key / 4096 = Blk.page .pl l → sharedPage .pl (key % 4096) = false →
          t.rawReg key = regReset key) ∧
        (∀ p, p < 16 → (s.part p).state = 1 → (∃ u ∈ s.partUmbels p, u / 16 = h) → (t.part p).state = 2)) ∧
      (3 ≤ ts.length → ∃ t, exec (.dieReset half) s = .next t ∧ DevStarts s t true ∧ t.dieDown h = s.dieDown h)) ∧
    (s.flt.dieReq.find? (fun r => r.1 = h) = none → exec (.dieReset half) s = .next s) ∧
    (∃ t, exec (.dieResetEnd half) s = .next t ∧ t.dieDown h = false ∧ (∀ k, k ≠ h → t.dieDown k = s.dieDown k) ∧
      Frame [.flt] s t) ∧
    (calm → s.flt.devReq = true → ∃ t, exec .deviceReset s = .next t ∧ DevStarts s t true ∧ t.flt.devReq = false ∧ ends t) ∧
    (calm → ∃ t, exec .glResetDevice s = .next t ∧ DevStarts s t false ∧ ends t) ∧
    (calm → ∃ t, exec .mgmtDeviceReset s = .next t ∧ DevStarts s t false ∧ ends t) ∧
    (calm → ∃ t, exec .oosClear s = .next t ∧ DevStarts s t false ∧ t.flt.oos = false ∧ t.flt.retired = 0 ∧ ends t) ∧
    (s.flt.devRst = 1 → 100000 ≤ s.ftime - s.flt.devAt →
      let out := s.flt.oos = true ∨ (s.flt.devCounted = true ∧ 3 ≤ s.flt.devTimes.length)
      ∃ t, exec .deviceResetRun s = .next t ∧ t.fls = [] ∧ t.ums = [] ∧ t.fe = Front.reset ∧ t.sec.state = 0 ∧
        t.sec.keySet = s.sec.keySet ∧ t.hbm.ret = s.hbm.ret ∧ t.flt.devRst = 0 ∧ (∀ k, (t.stk k).state = 0) ∧
        (∀ u, (t.pwUmb u).state = 0) ∧
        (out → t.boot.state = 9 ∧ t.flt.oos = true) ∧
        (¬ out → t.boot.state = 2 ∧ t.boot.warm = true ∧ ∀ k, t.rawReg k =
          (if k / 4096 = 2 ∨ k / 4096 = 3 then s.rawReg k else regReset k))) ∧
    (∀ lane, (SMap.get 0 s.flt.d2dUsed h < 16 → ∃ t, exec (.d2dLaneRepair half lane) s = .next t ∧
        SMap.get 0 t.flt.d2dUsed h = SMap.get 0 s.flt.d2dUsed h + 1 ∧ Frame [.flt] s t) ∧
      (16 ≤ SMap.get 0 s.flt.d2dUsed h → ∃ t, exec (.d2dLaneRepair half lane) s = .next t ∧
        t.reports = s.reports ++ [⟨Code.d2dFail, 0x200 + 16 * h, 0, 0, s.launchOf (0x200 + 16 * h)⟩] ∧
        Frame [.reports, .regs, .hostOut] s t))

/-- The silent-error sweep (R374 to R377): a test starts on two idle florets of different umbels while SWEEP is on; equal
digests end it and count it; differing ones name who fails by a third floret; the rerun that finds a difference confirms it,
with a report per failing floret, and 10 mV of guard for one that failed the same class within 24 h, and one that finds none
counts a transient; a release that needs a floret under test resets both and discards the result. Where the spec leaves a corner open the model follows log entry 23. -/
def Obligations.SweepComparesPairsOfFlorets : Prop :=
  ∀ (s : State),
    let count := bitsN (s.regN .umc 0 0x104) 15 0
    (∀ (a b : FloretId) (cls : Fin8) (seed : W64), bitN (s.regN .umc 0 0x100) 0 = true → s.flt.sweep = none →
      a.val / 16 ≠ b.val / 16 → s.sweepable a.val = true → s.sweepable b.val = true → s.pw.warn = false →
      ∃ t w, exec (.sweepTestStart a b cls seed) s = .next t ∧ t.flt = { s.flt with sweep := some w } ∧ w.a = a.val ∧
        w.b = b.val ∧ w.cls = cls.val ∧ w.seed = seed.toNat ∧ w.stage = 1 ∧ Frame [.flt] s t) ∧
    (∀ (w : SweepTest) (dA dB dC : W64) (c : FloretId), s.flt.sweep = some w → w.stage = 1 →
      (dA = dB → ∃ t, exec (.sweepTestEnd dA dB c dC) s = .next t ∧ t.flt = { s.flt with sweep := none } ∧
        bitsN (t.regN .umc 0 0x104) 15 0 = (count + 1) % 2 ^ 16 ∧ Frame [.flt, .regs] s t) ∧
      (dA ≠ dB → s.flPresent c.val = true → s.umLive (c.val / 16) = true → c.val / 16 ≠ w.a / 16 → c.val / 16 ≠ w.b / 16 →
        ∃ t w', exec (.sweepTestEnd dA dB c dC) s = .next t ∧ t.flt.sweep = some w' ∧ w'.stage = 2 ∧ w'.c = c.val ∧
          w'.fail = (if dC = dA then [w.b] else if dC = dB then [w.a] else [w.a, w.b, c.val]) ∧
          bitsN (t.regN .umc 0 0x104) 15 0 = (count + 1) % 2 ^ 16 ∧ Frame [.flt, .regs] s t)) ∧
    (∀ w, s.flt.sweep = some w → w.stage = 2 →
      (∃ t, exec (.sweepRerunEnd none) s = .next t ∧ t.flt = { s.flt with sweep := none } ∧
        bitsN (t.regN .umc 0 0x104) 31 24 = min 255 (bitsN (s.regN .umc 0 0x104) 31 24 + 1) ∧ Frame [.flt, .regs] s t) ∧
      (∀ e b, ∃ t, exec (.sweepRerunEnd (some (e, b))) s = .next t ∧ t.flt.sweep = none ∧
        bitsN (t.regN .umc 0 0x104) 23 16 = min 255 (bitsN (s.regN .umc 0 0x104) 23 16 + 1) ∧
        t.reports.map (fun r => (r.code, r.src)) =
          s.reports.map (fun r => (r.code, r.src)) ++ w.fail.map (fun f => (Code.sweepFail, f)) ∧
        (∀ f, w.fail = [f] →
          let x := s.pwUmb (f / 16)
          let last := SMap.get 0 s.flt.swept (f * 8 + w.cls)
          let i := vfEntry (f / 16) x.freq
          SMap.get 0 (t.pwUmb (f / 16)).guards i = SMap.get 0 x.guards i +
            (if last ≠ 0 ∧ s.ftime + 1 - last < 86400000000000 then 10 else 0) ∧ OnlyPwUmb (f / 16) s t) ∧
        Frame [.flt, .regs, .reports, .pw] s t)) ∧
    (∀ (n : SlotId) (w : SweepTest), s.flt.sweep = some w → (s.lsl n.val).state = 1 →
      s.sweepOn (s.lsl n.val).img.florets = true →
      ∃ t, exec (.sweepAbort n) s = .next t ∧ t.flt.sweep = none ∧ t.fl w.a = Floret.reset ∧ t.fl w.b = Floret.reset ∧
        (t.lsl n.val).state = 1)

namespace Sys2Proof.Claims
open Sys2Proof.Machine

/-- One message goes out to management. -/
def Sends (s t : State) (m : MgmtMsg) : Prop := t.mgmt.out = s.mgmt.out ++ [m]

/-- A tenant change has begun: CHANGING, ingress closed (R385, R387). -/
def ChangeStarts (s t : State) (stop : Bool) : Prop :=
  t.sec.state = 2 ∧ t.sec.change = 1 ∧ t.sec.changeAt = s.ftime ∧ t.sec.stop = stop ∧ t.sec.shut = true ∧ t.sec.done = false

/-- No launch runs and the copy engine holds no command. -/
def NoWork (s : State) : Prop := NoLaunch s ∧ s.fe.copies = []

/-- The copy engine is empty and every launch that ran has ended (R386, R395). -/
def WorkEnds (s t : State) : Prop := t.fe.copies = [] ∧ (Tidy s → ∀ k, Running s k → Ended s t k)

/-- Every ring is DISABLED. -/
def NoRings (s : State) : Prop := ∀ r, (s.ring r).state = 0

/-- The commands that come inside an SPDM session. -/
def sessionCmd : Instr → Option Nat
  | .endSession sid => some sid
  | .heartbeat sid => some sid
  | .keyUpdate sid => some sid
  | .setOwner sid _ => some sid
  | .ideKm sid _ => some sid
  | .lockInterface sid => some sid
  | .tdiRun sid => some sid
  | _ => none

/-- What the end of a LOAD may touch: the keys, its result, and what the read of the manifest's lines counts and logs. -/
def readPieces : List Piece := [.sec, .regs, .hostOut, .freeCtr, .hbm, .cnt64, .fe, .logPtr]

/-- RESULT of SEC_CK_STAT. -/
def ckCode (s : State) : Nat := bitsN (s.regN .sec 0 0x11C) 7 4

end Sys2Proof.Claims

/-- Tenant changes and the TDI (R384 to R387, R395): CHANGE of an unlocked idle device starts a change, and is answered LOCKED or
BUSY otherwise; TENANT_CHANGE and STOP_INTERFACE start one whatever runs, disabling every ring and closing the umbels of live
partitions; once accepted lines are complete the change drops sessions, keys and tables, takes a new key set, scrubs and
starts the fill, and the fill's end leaves the device VACANT and open, or waits while a stack takes no request. A TDI that fails
is in ERROR with its work ended and every ring DISABLED. Where the spec leaves a corner open the model follows log entry 27. -/
def Obligations.TenantChangesRunToVacant : Prop :=
  ∀ (s : State),
    (s.sec.tdi ≠ 0 → ∃ t, exec .tenantChangeCmd s = .next t ∧ t.sec = { s.sec with res := 2, done := true } ∧ Frame [.sec] s t) ∧
    (s.sec.tdi = 0 → (s.workRuns = true ∨ s.sec.change ≠ 0) →
      ∃ t, exec .tenantChangeCmd s = .next t ∧ t.sec = { s.sec with res := 1, done := true } ∧ Frame [.sec] s t) ∧
    (s.sec.tdi = 0 → s.workRuns = false → s.sec.change = 0 → NoLaunch s →
      ∃ t, exec .tenantChangeCmd s = .next t ∧ ChangeStarts s t false ∧ Frame [.sec, .flt] s t) ∧
    (s.umcUp = true → s.sec.change = 0 → ∀ c b, (c = Instr.tenantChange ∧ b = false) ∨ (c = .stopInterface ∧ b = true) →
      ∃ t, exec c s = .next t ∧ ChangeStarts s t b ∧ NoRings t ∧ WorkEnds s t ∧
        (NoWork s → ∀ p u, p < 16 → (s.part p).state = 1 → u ∈ s.partUmbels p → (t.um u).closed = true)) ∧
    (s.sec.change = 1 → (s.allQuiet = true ∨ 300000 ≤ s.ftime - s.sec.changeAt) →
      ∃ t, exec .tenantQuiesceEnd s = .next t ∧ t.sec.change = 2 ∧ t.sec.changeAt = s.ftime ∧ t.sec.sessions = [] ∧
        t.sec.owner = none ∧ t.sec.ide = [] ∧ t.sec.cks = [] ∧ t.sec.rollback = [] ∧ t.sec.keySet = s.sec.draws + 1 ∧
        t.hbm.epoch = (s.hbm.epoch + 1) % 2 ^ 32 ∧ t.fls = [] ∧ t.sram = [] ∧ t.sramBad = [] ∧ t.fe.rings = [] ∧
        (∀ p, p < 16 → (s.part p).state ≠ 3 → (t.part p).state = 0) ∧
        (∀ u, u < 32 → (t.um u).held = true ∧ (t.pwUmb u).state = 0) ∧
        (∀ key, key / 4096 = Blk.page .fe 0 → t.rawReg key = regReset key) ∧
        ∀ k, k < 8 → (t.stk k).filling = true) ∧
    (s.sec.change = 2 → (∀ k, k < 8 → (s.stk k).filling = true → s.stkTakes k = true) →
      ∃ t, exec .tenantFillEnd s = .next t ∧ t.sec.state = 0 ∧ t.sec.tdi = 0 ∧ t.sec.change = 0 ∧
        t.sec.shut = false ∧ t.sec.res = 0 ∧ t.sec.done = true ∧ (∀ k, k < 8 → (t.stk k).filling = false) ∧
        (t.reg .sec 0 Off.evtRaw).getLsbD 0 = true ∧ t.mgmt.out = s.mgmt.out ++ (if s.sec.stop then [.done 7 0] else [])) ∧
    (s.sec.change = 2 → (∃ k, k < 8 ∧ (s.stk k).filling = true ∧ s.stkTakes k = false) →
      ∃ t, exec .tenantFillEnd s = .next t ∧ t.sec = s.sec ∧ t.mgmt = s.mgmt) ∧
    (∀ c, ((s.sec.tdi = 1 ∨ s.sec.tdi = 2) ∧ c = Instr.tdiError) ∨ (s.sec.ide ≠ [] ∧ s.sec.tdi ≠ 3 ∧ c = .ideIntegrityFailure) →
      ∃ t, exec c s = .next t ∧ t.sec = { s.sec with tdi := 3 } ∧ NoRings t ∧ WorkEnds s t)

/-- SPDM (R390 to R395): the certificate chain lies in slot 0 and every other slot is an error; CHALLENGE and GET_MEASUREMENTS
answer with the nonce; KEY_EXCHANGE opens one of four sessions; a request in an unknown session is an error; in a known one
END_SESSION, HEARTBEAT, KEY_UPDATE, SET_OWNER (of a VACANT device), IDE_KM (over DOE), LOCK_INTERFACE (by the owner) and START_INTERFACE
have their effect and are answered; a session without a message for 60 s ends. Where the spec leaves a corner open the model follows log entries 8 and 27. -/
def Obligations.SecureSessionsAnswerTheirRequests : Prop :=
  ∀ (s : State),
    (s.umcUp = true →
      (∀ slot : W4, ∃ t, exec (.getCertificate slot) s = .next t ∧
        Sends s t (if slot = 0 then .certificate 0 else .spdmError 0 1) ∧ Frame [.mgmt] s t) ∧
      (∀ (slot : W4) (nonce : Nat), ∃ t sig, exec (.challenge slot nonce) s = .next t ∧
        Sends s t (if slot = 0 then .challengeAuth 0 nonce sig else .spdmError 0 1) ∧ Frame [.mgmt] s t) ∧
      (∀ (idx nonce : Nat), (idx ≤ 8 ∨ idx = 0xFF) →
        ∃ t vs sig, exec (.getMeasurements idx nonce) s = .next t ∧ Sends s t (.measurements idx nonce vs sig) ∧
          (idx = 0 → vs = [8]) ∧ (1 ≤ idx → idx ≤ 8 → vs = [s.measurement idx]) ∧
          (idx = 0xFF → vs = (List.range 8).map (fun i => s.measurement (i + 1))) ∧ Frame [.mgmt] s t) ∧
      (∀ (idx nonce : Nat), 8 < idx → idx ≠ 0xFF →
        ∃ t, exec (.getMeasurements idx nonce) s = .next t ∧ Sends s t (.spdmError 0 1) ∧ Frame [.mgmt] s t) ∧
      (∀ (sid : Nat) (doe : Bool) (pub : Nat), s.sec.sessions.length < 4 → s.session sid = none →
        ∃ t x p, exec (.keyExchange sid doe pub) s = .next t ∧ Sends s t (.keyExchangeRsp sid p) ∧
          t.sec = { s.sec with draws := s.sec.draws + 1, sessions := s.sec.sessions ++ [x] } ∧ x.sid = sid ∧ x.doe = doe ∧
          x.updates = 0 ∧ x.last = s.ftime ∧ Frame [.sec, .mgmt] s t) ∧
      (∀ (sid : Nat) (doe : Bool) (pub : Nat), 4 ≤ s.sec.sessions.length →
        ∃ t, exec (.keyExchange sid doe pub) s = .next t ∧ Sends s t (.spdmError sid 3) ∧ Frame [.mgmt] s t) ∧
      (∀ c sid, sessionCmd c = some sid → s.session sid = none →
        ∃ t, exec c s = .next t ∧ Sends s t (.spdmError sid 1) ∧ Frame [.mgmt] s t)) ∧
    (∀ (sid : Nat) (x : Session), s.umcUp = true → s.session sid = some x →
      (∃ t, exec (.endSession sid) s = .next t ∧ Sends s t (.done 1 sid) ∧ t.session sid = none ∧
        t.sec.ownerSid ≠ some sid ∧ t.sec.state = s.sec.state ∧ Frame [.sec, .mgmt] s t) ∧
      (∃ t, exec (.heartbeat sid) s = .next t ∧ Sends s t (.done 2 sid) ∧
        t.session sid = some { x with last := s.ftime } ∧ Frame [.sec, .mgmt] s t) ∧
      (∃ t y, exec (.keyUpdate sid) s = .next t ∧ Sends s t (.done 3 sid) ∧ t.session sid = some y ∧
        y.updates = x.updates + 1 ∧ y.last = s.ftime ∧ Frame [.sec, .mgmt] s t) ∧
      (∀ key, s.sec.state = 0 → ∃ t, exec (.setOwner sid key) s = .next t ∧ Sends s t (.done 4 sid) ∧ t.sec.state = 1 ∧
        t.sec.owner = some (key % 2 ^ 768) ∧ t.sec.ownerSid = some sid ∧ Frame [.sec, .mgmt] s t) ∧
      (∀ key, s.sec.state ≠ 0 → ∃ t, exec (.setOwner sid key) s = .next t ∧ Sends s t (.spdmError sid 1) ∧
        t.sec.owner = s.sec.owner ∧ t.sec.state = s.sec.state ∧ Frame [.sec, .mgmt] s t) ∧
      (∀ stream : Fin3, x.doe = true → ∃ t, exec (.ideKm sid stream) s = .next t ∧ Sends s t (.done 5 sid) ∧
        SMap.get 0 t.sec.ide stream.val = SMap.get 0 s.sec.ide stream.val + 1 ∧ Frame [.sec, .mgmt] s t) ∧
      (∀ stream : Fin3, x.doe = false → ∃ t, exec (.ideKm sid stream) s = .next t ∧ Sends s t (.spdmError sid 1) ∧
        t.sec.ide = s.sec.ide ∧ Frame [.sec, .mgmt] s t) ∧
      (s.sec.state = 1 → s.sec.ownerSid = some sid → s.sec.tdi = 0 →
        ∃ t, exec (.lockInterface sid) s = .next t ∧ Sends s t (.done 6 sid) ∧ t.sec.tdi = 1 ∧ Frame [.sec, .mgmt] s t) ∧
      ((s.sec.state ≠ 1 ∨ s.sec.ownerSid ≠ some sid ∨ s.sec.tdi ≠ 0) →
        ∃ t, exec (.lockInterface sid) s = .next t ∧ Sends s t (.spdmError sid 1) ∧ t.sec.tdi = s.sec.tdi ∧
          Frame [.sec, .mgmt] s t) ∧
      (s.sec.tdi = 1 → ∃ t, exec (.tdiRun sid) s = .next t ∧ Sends s t (.done 8 sid) ∧ t.sec.tdi = 2 ∧ Frame [.sec, .mgmt] s t) ∧
      (s.sec.tdi ≠ 1 → ∃ t, exec (.tdiRun sid) s = .next t ∧ Sends s t (.spdmError sid 1) ∧ t.sec.tdi = s.sec.tdi ∧
        Frame [.sec, .mgmt] s t)) ∧
    (∀ (sid : Nat) (x : Session), s.session sid = some x → 60000000000 ≤ s.ftime - x.last →
      ∃ t, exec (.sessionExpiry sid) s = .next t ∧ t.session sid = none ∧ t.mgmt = s.mgmt ∧ Frame [.sec] s t)

/-- Content keys (R396 to R398): LOAD begins while no command runs; its end leaves the manifest's key in the slot and its
sequence number in the rollback table, or the first failing check in RESULT, counted, with the slot as it was, and waits while
the manifest cannot be read; DROP empties a slot that no command names, and waits for one that does. Where the spec leaves a corner open the model follows log entry 8. -/
def Obligations.ContentKeysLoadAndDrop : Prop :=
  ∀ (n : Fin8) (s : State),
    (s.sec.ckCmd = none → ∃ t, exec (.ckLoad n) s = .next t ∧ t.sec = { s.sec with ckCmd := some n.val } ∧ Frame [.sec] s t) ∧
    (s.sec.ckCmd = some n.val → s.ckReady = true →
      (∀ c, s.ckCheck n.val = .fail c → ∃ t, exec .ckLoadEnd s = .next t ∧ t.sec = { s.sec with ckCmd := none } ∧
        ckCode t = c % 16 ∧ t.reg .sec 0 0x120 = s.reg .sec 0 0x120 + 1 ∧ (t.reg .sec 0 Off.evtRaw).getLsbD 1 = true ∧
        Frame readPieces s t) ∧
      (∀ x seq, s.ckCheck n.val = .ok x seq → ∃ t, exec .ckLoadEnd s = .next t ∧ t.sec.ckCmd = none ∧
        SMap.get none t.sec.cks n.val = some x ∧ (∀ m, m ≠ n.val → SMap.get none t.sec.cks m = SMap.get none s.sec.cks m) ∧
        (x.wset, seq) ∈ t.sec.rollback ∧ ckCode t = 0 ∧ Frame readPieces s t)) ∧
    (s.sec.ckCmd = some n.val → s.ckReady = false → exec .ckLoadEnd s = .next s) ∧
    ((s.sec.ckCmd = none ∨ s.sec.ckCmd = some (n.val + 8)) →
      (s.ckNamed n.val = false → ∃ t, exec (.ckDrop n) s = .next t ∧ SMap.get none t.sec.cks n.val = none ∧
        (∀ m, m ≠ n.val → SMap.get none t.sec.cks m = SMap.get none s.sec.cks m) ∧ t.sec.ckCmd = none ∧ ckCode t = 0 ∧
        Frame [.sec, .regs] s t) ∧
      (s.ckNamed n.val = true → ∃ t, exec (.ckDrop n) s = .next t ∧ t.sec = { s.sec with ckCmd := some (n.val + 8) } ∧
        Frame [.sec] s t))

/-- The trace ring (R415 to R420): with room and nothing dropped, the writer takes the next queue's oldest record, and every
fourth one puts a line of them at its place, which above the usable range is an address error; without room it drops it, counted; a pending drop count goes out first. A
write of TR_CFG keeps a size out of range or, under EN, changed; setting EN empties the ring; TR_TAIL may not pass
TR_HEAD.

The hang snapshot (R270, R421 to R424): each of its triggers starts a capture with its number, or merges into the one under
way; the capture's end leaves the always-on copy of 544 words, one message, the count, and starts the recovery of the
partition of a launch whose hang asked for it. Where the spec leaves a corner open the model follows log entries 14 and 26. -/
def Obligations.TraceAndSnapshots : Prop :=
  (∀ (s : State),
    let y := s.tr
    let a := s.trBase + (y.w / 4 * 4 % s.trN) * 32
    (s.trOn = true → s.hbmReady s.trBase = true →
      (∀ k r xs, y.d = 0 → y.pick = some k → SMap.get [] y.qs k = r :: xs → 2 ≤ s.trFree →
        ∃ t, exec .traceWrite s = .next t ∧ t.tr.w = (y.w + 1) % 2 ^ 32 ∧ SMap.get [] t.tr.qs k = xs ∧ t.tr.d = 0 ∧
          (∀ n, n ≠ k → SMap.get [] t.tr.qs n = SMap.get [] y.qs n) ∧
          (y.gather.length ≠ 3 → t.tr.gather = y.gather ++ [r] ∧ Frame [.tr] s t) ∧
          (y.gather.length = 3 → a < s.hbmEnd → t.tr.gather = [] ∧
            HoldsLine t a (s.phys a) false (lineOf 256 (y.gather ++ [r])) ∧ OnlyPhys (s.phys a) (s.shadow a) s t ∧
            Frame [.tr, .hbm, .cnt64] s t) ∧
          (y.gather.length = 3 → s.hbmEnd ≤ a → (s.reg .tr 0 Off.errCnt).toNat < 0xFFFFFFFF → t.tr.gather = [] ∧
            t.reg .tr 0 Off.errCnt = s.reg .tr 0 Off.errCnt + 1 ∧ Frame [.tr, .regs, .logPtr] s t)) ∧
      (∀ k r xs, y.pick = some k → SMap.get [] y.qs k = r :: xs → s.trFree < 2 →
        ∃ t, exec .traceWrite s = .next t ∧ t.tr.w = y.w ∧ SMap.get [] t.tr.qs k = xs ∧ t.tr.d = y.d + 1 ∧
          t.reg .tr 0 0x114 = s.reg .tr 0 0x114 + 1 ∧ Frame [.tr, .regs, .hostOut] s t) ∧
      (0 < y.d → 2 ≤ s.trFree →
        ∃ t, exec .traceWrite s = .next t ∧ t.tr.w = (y.w + 1) % 2 ^ 32 ∧ t.tr.d = 0 ∧ t.tr.qs = y.qs)) ∧
    (∀ v : W32, s.trOn = false →
      ∃ t, exec (.trCfgWrite v) s = .next t ∧ t.trOn = v.getLsbD 8 ∧
        bitsN (t.regN .tr 0 0x108) 5 0 = (if 24 ≤ bitsN v.toNat 5 0 ∧ bitsN v.toNat 5 0 ≤ 32 then bitsN v.toNat 5 0
          else bitsN (s.regN .tr 0 0x108) 5 0) ∧
        (v.getLsbD 8 = true → t.tr.w = 0 ∧ t.tr.gather = [] ∧ t.tr.qs = [] ∧ t.tr.d = 0 ∧ t.reg .tr 0 0x110 = 0 ∧
          t.reg .tr 0 0x114 = 0) ∧ Frame [.tr, .regs] s t) ∧
    (∀ v : W32, s.trOn = true → bitsN v.toNat 5 0 ≠ bitsN (s.regN .tr 0 0x108) 5 0 →
      ∃ t, exec (.trCfgWrite v) s = .next t ∧ bitsN (t.regN .tr 0 0x108) 5 0 = bitsN (s.regN .tr 0 0x108) 5 0 ∧
        (t.reg .tr 0 0x118).getLsbD 1 = true ∧ t.tr = s.tr ∧ Frame [.regs] s t) ∧
    (∀ v : W32,
      let old := s.regN .tr 0 0x110
      ∃ t, exec (.trTailWrite v) s = .next t ∧ Frame [.regs] s t ∧
        ((v.toNat + 2 ^ 32 - old) % 2 ^ 32 ≤ (s.trHead + 2 ^ 32 - old) % 2 ^ 32 → t.reg .tr 0 0x110 = v) ∧
        ((s.trHead + 2 ^ 32 - old) % 2 ^ 32 < (v.toNat + 2 ^ 32 - old) % 2 ^ 32 →
          t.reg .tr 0 0x110 = s.reg .tr 0 0x110 ∧ (t.reg .tr 0 0x118).getLsbD 1 = true))) ∧
  (∀ (s : State),
    (∀ (c : Instr) (n : Nat) (slot : Option Nat),
      ((c = .umcSnapStart ∧ n = 2 ∧ slot = none) ∨ (c = .snapshotMctp ∧ n = 3 ∧ slot = none) ∨
        (∃ k, c = .coreHeartbeatTimeout k ∧ n = 4 ∧ slot = none) ∨
        (∃ k : SlotId, c = .snapshotHangRequest k ∧ n = 1 ∧ slot = some k.val ∧ (∃ h ∈ s.flt.hangs, h.1 = k.val) ∧
          k.val ∉ s.snap.asks)) →
      s.boot.aonLow = false → s.boot.recovery = false →
      ∃ t, exec c s = .next t ∧ Frame [.snap] s t ∧ t.snap.busy = true ∧ t.snap.asks = s.snap.asks ++ slot.toList ∧
        (s.snap.busy = false → t.snap.trigger = n ∧ t.snap.slot = slot ∧ t.snap.start = s.ftime ∧ t.snap.trunc = false) ∧
        (s.snap.busy = true → t.snap.merged = s.snap.merged + 1 ∧ t.snap.trigger = s.snap.trigger)) ∧
    (∀ trunc, s.snap.busy = true → s.snap.asks = [] →
      ∃ t, exec (.snapshotCaptureEnd trunc) s = .next t ∧ t.snap.busy = false ∧ t.snap.trunc = trunc ∧
        t.snap.count = (s.snap.count + 1) % 2 ^ 16 ∧ t.snap.copy.length = 544 ∧ (∃ hd, Sends s t (.snapshot hd)) ∧
        t.flt = s.flt ∧ t.fls = s.fls ∧ t.fe = s.fe) ∧
    (∀ trunc n p, s.snap.busy = true → s.snap.asks = [n] → s.flt.hangs.find? (fun h => h.1 = n) = some (n, p) →
      (s.part p).state = 1 →
      ∃ t, exec (.snapshotCaptureEnd trunc) s = .next t ∧ t.snap.busy = false ∧ Recovers s t p Code.hang ∧
        Logged s t Code.hang ∧ OnlyPart p s t ∧ (Tidy s → ∀ k, Running s k → (s.lsl k).part = p → Ended s t k)))

namespace Sys2Proof.Claims
open Sys2Proof.Machine

/-- The start has ended with this failure code (R446). -/
def BootFails (t : State) (code : Nat) : Prop := t.boot.state = 8 ∧ t.boot.fail = code

/-- The start has come to this step. -/
def BootStep (t : State) (n : Nat) : Prop := t.boot.state = n

end Sys2Proof.Claims

/-- Always-on reset and the first steps (R382, R388, R424, R429 to R434, R439, R440, R445): AON_RST_N low, or the loss of its
supply, gives every register its reset value and keeps what flash and fuses hold; its rise starts step 1; the PLL's lock, the
image that authenticates and the board's configuration lead on; none authentic is recovery mode; a check that fails, or rails
that do not come up in 200 ms, end the start with their code. SET_ETT refuses a bad table, stores a good one, and puts it in
force from step 4 on, while the device does not serve, if it names the device; a start whose table does not ends.

The later steps (R302, R435 to R444): BIST clears SRAMs and retires the umbels that fail; training makes the stacks ACTIVE
at their rates, filled at a cold start, and too many failing channels end the start; links train, are turned off
with STANDALONE, or wait for a table; on agreement the device is IN_SERVICE and READY, and without it it reports the mismatches once
and goes on waiting. Where the spec leaves a corner open the model follows log entry 24. -/
def Obligations.BringUpReachesReadyByItsSteps : Prop :=
  (∀ (s : State),
    (∀ c, (c = .aonRstNFall ∨ c = .vddAonLoss) → ∃ t, exec c s = .next t ∧ (∀ k, t.rawReg k = regReset k) ∧
      t.boot.aonLow = true ∧ t.fls = [] ∧ t.ums = [] ∧ t.sram = [] ∧ t.sec.state = 0 ∧ t.sec.keySet = 0 ∧ t.ftime = 0 ∧
      t.hbm.ret = s.hbm.ret ∧ t.boot.ett = s.boot.ett ∧ t.boot.svn = s.boot.svn ∧ t.boot.trained = s.boot.trained ∧
      t.pending = s.pending ∧ t.variant = s.variant) ∧
    (s.boot.aonLow = true → ∃ t, exec .aonRstNRise s = .next t ∧ BootStep t 0 ∧ t.boot.aonLow = false ∧
      t.boot.warm = s.boot.trained ∧ Frame [.boot, .mgmt] s t) ∧
    (s.boot.aonLow = false → s.boot.state = 0 →
      ∃ t, exec .alwaysOnLock s = .next t ∧ BootStep t 1 ∧ (∀ r, r < 3 → (t.rail r).reached = s.railNeed r) ∧
        Frame [.boot, .mgmt, .pw] s t) ∧
    (∀ rail, s.boot.aonLow = false → s.boot.state ≤ 2 → 200000000 ≤ s.elapsed →
      ∃ t, exec (.railWaitTimeout rail) s = .next t ∧ BootFails t 2 ∧ Frame [.boot, .mgmt] s t) ∧
    (s.boot.aonLow = false → s.boot.state = 1 →
      (∀ b, ∃ t, exec (.umcBoot true b) s = .next t ∧ BootStep t 2 ∧ t.boot.image = 1 ∧ Frame [.boot, .mgmt] s t) ∧
      (∃ t, exec (.umcBoot false true) s = .next t ∧ BootStep t 2 ∧ t.boot.image = 2 ∧ Frame [.boot, .mgmt] s t) ∧
      (∃ t, exec (.umcBoot false false) s = .next t ∧ BootFails t 1 ∧ t.boot.recovery = true ∧ Frame [.boot, .mgmt] s t)) ∧
    (s.boot.recovery = true → ∃ t, exec .recoveryImageLoad s = .next t ∧ BootStep t 1 ∧ t.boot.recovery = false ∧
      t.boot.fail = 0 ∧ Frame [.boot, .mgmt] s t) ∧
    (∀ c : ConfigInput, s.boot.aonLow = false → s.boot.state = 2 →
      ((c.crcOk = false ∨ c.quadOk = false) → ∃ t, exec (.configuration c) s = .next t ∧ BootFails t 3 ∧ Frame [.boot, .mgmt] s t) ∧
      (c.crcOk = true → c.quadOk = true → s.boot.ett = [] →
        ∃ t, exec (.configuration c) s = .next t ∧ BootStep t 3 ∧ t.strap = c.strap ∧ t.flt.devRst = 0 ∧
          (∀ r, r < 3 → (t.rail r).icl = c.icl.getD r 0 % 4096 ∧ (t.rail r).phases = c.phases.getD r 0 % 32) ∧
          (s.sec.keySet = 0 → t.sec.keySet = s.sec.draws + 1 ∧ t.hbm.epoch = (s.hbm.epoch + 1) % 2 ^ 32) ∧
          (s.sec.keySet ≠ 0 → t.sec = s.sec ∧ t.hbm = s.hbm) ∧ Frame [.boot, .mgmt, .strap, .flt, .pw, .sec, .hbm] s t) ∧
      (c.crcOk = true → c.quadOk = true → s.boot.ett ≠ [] →
        (∀ i, (List.range (ettDevs s.boot.ett)).find? (fun i => (ettDev s.boot.ett i).2 == devFp) = some i →
          ∃ t, exec (.configuration c) s = .next t ∧ BootStep t 3 ∧ t.boot.cur = s.boot.ett ∧
            t.devId = (ettDev s.boot.ett i).1 % 1024) ∧
        ((∀ i, i < ettDevs s.boot.ett → (ettDev s.boot.ett i).2 ≠ devFp) →
          ∃ t, exec (.configuration c) s = .next t ∧ BootFails t 6))) ∧
    (∀ x, s.boot.aonLow = false → s.boot.recovery = false →
      let mine := fun i => i < ettDevs x ∧ (ettDev x i).2 = devFp
      (ettBad x = true → ∃ t, exec (.setEtt x) s = .next t ∧ Sends s t (.refused 1 0) ∧ Frame [.mgmt] s t) ∧
      (ettBad x = false → (s.boot.state < 3 ∨ s.boot.state = 7 ∨ (7 < s.boot.state ∧ ∀ i, ¬ mine i)) →
        ∃ t, exec (.setEtt x) s = .next t ∧ t.boot = { s.boot with ett := x } ∧ Frame [.boot] s t) ∧
      (∀ i, ettBad x = false → 3 ≤ s.boot.state → s.boot.state ≠ 7 →
        mine i → (∀ j, j < i → (ettDev x j).2 ≠ devFp) →
        ∃ t, exec (.setEtt x) s = .next t ∧ t.boot.ett = x ∧ t.boot.cur = x ∧ t.boot.state = s.boot.state ∧
          t.devId = (ettDev x i).1 % 1024 ∧ t.fab.master = ((ettDev x i).1 == ettN x 0x12 2) ∧
          (s.boot.state = 5 → t.boot.topoWait = false) ∧ Frame [.boot, .regs, .fab] s t) ∧
      (ettBad x = false → 3 ≤ s.boot.state → s.boot.state < 7 → (∀ i, ¬ mine i) →
        ∃ t, exec (.setEtt x) s = .next t ∧ BootFails t 6 ∧ t.boot.ett = x ∧ Frame [.boot, .mgmt] s t)) ∧
    (s.boot.aonLow = false → (s.boot.image ≠ 0 ∨ s.boot.recovery = true) → ∃ t st, exec .getBootStatus s = .next t ∧
      Sends s t (.bootStatus st s.boot.ms fpWords (ettDigest s.boot.cur)) ∧ st % 16 = s.boot.state % 16 ∧ st = s.bootStat ∧
      Frame [.mgmt] s t) ∧
    (s.boot.image ≠ 0 → ∃ t, exec .commitSvn s = .next t ∧ t.boot = { s.boot with svn := s.boot.image } ∧ Frame [.boot] s t)) ∧
  (∀ (s : State), s.boot.aonLow = false →
    (∀ (fail : W32), s.boot.state = 3 → s.boot.perst = false →
      (∃ t, exec (.sramBist fail true) s = .next t ∧ BootFails t 4 ∧ Frame [.boot, .mgmt] s t) ∧
      ∃ t, exec (.sramBist fail false) s = .next t ∧ BootStep t 4 ∧ t.sram = [] ∧ t.sramBad = [] ∧ t.fls = [] ∧
        t.flt.retUmb = fail.toNat ∧ t.flt.avail = 2 ^ 32 - 1 - fail.toNat) ∧
    (∀ x : TrainInput, s.boot.state = 4 →
      let m := s.hbm.ret.length + (if s.hbm.retiring.isSome then 1 else 0)
      (8 < m → ∃ t, exec (.hbmTraining x) s = .next t ∧ BootFails t 5 ∧ Frame [.boot, .mgmt] s t) ∧
      (m ≤ 8 → x.fail = [] →
        ∃ t, exec (.hbmTraining x) s = .next t ∧ BootStep t 5 ∧ t.boot.trained = true ∧ t.hbm.ret = s.hbm.ret ∧
          (∀ k, k < 8 → (t.stk k).state = 1 ∧ (t.stk k).rate = min s.boot.maxRate (x.rates.getD k 0)) ∧
          ((s.boot.warm = false ∨ x.valid = false) → (∀ k, k < 8 → (s.stk k).filling = false) →
            ∀ a, physChan (t.phys a) < 256 → HoldsLine t a (t.phys a) false 0))) ∧
    (∀ masks, s.boot.state = 5 →
      (s.boot.standalone = true → ∃ t, exec (.linkTraining masks) s = .next t ∧ BootStep t 6 ∧ t.fab.master = true ∧
        (∀ l, l < 12 → linkEn t l = false) ∧ Floods s t) ∧
      (s.boot.standalone = false → s.boot.cur = [] →
        ∃ t, exec (.linkTraining masks) s = .next t ∧ BootStep t 5 ∧ t.boot.topoWait = true ∧ t.fab = s.fab) ∧
      (s.boot.standalone = false → s.boot.cur ≠ [] → s.fab.awaits = [] →
        ∃ t, exec (.linkTraining masks) s = .next t ∧ BootStep t 6 ∧ t.boot.topoWait = false)) ∧
    (∀ c, s.boot.state = 6 → s.agree = some c →
      ∃ t, exec .topoAgreeTest s = .next t ∧ BootStep t 7 ∧ t.fab.service = c ∧ t.fab.mstate = 1 ∧ Floods s t ∧
        t.flt = { s.flt with devCounted := false } ∧ (t.reg .gl 0 Off.evtRaw).getLsbD 3 = true ∧
        t.boot.ms = s.elapsed / 1000000) ∧
    (s.boot.state = 6 → s.boot.topoWait = false → 1000000000 * s.boot.topoTimeout ≤ s.elapsed - s.boot.step7 → s.agree = none →
      ∃ t ms, exec .topoTimeout s = .next t ∧ t.boot = { s.boot with topoWait := true } ∧ t.mgmt.out = s.mgmt.out ++ ms ∧
        (∀ m ∈ ms, ∃ l d, m = .mismatch l d) ∧
        (∀ e ∈ ettOf s.boot.cur s.devId, s.ettLinkOk e = false → .mismatch e.1 e.2.1 ∈ ms) ∧
        (t.reg .gl 0 Off.evtRaw).getLsbD 4 = true ∧ Frame [.boot, .mgmt, .regs, .hostOut] s t))

/-- Pins and the host's port (R239, R362, R385, R395, R444, R449, R450, R453, R457, R458, R472, R473): PERST_N and FLR take the
host's enables away and reset a running device, or change the tenant of a locked one; configuration requests are answered, with
Retry while a start has not configured the device, and a change of what is locked is an error; BAR4 moves lines of HBM, waits
with what follows it for a stack that takes no request, and in RUN takes only requests with the T bit; I3C gives one address; the
test port takes an instruction, or BYPASS where it may not.

The host window (R230, R240, R314, R468): a read of the front end, of a sorrel unit or of an engine in it goes out as a request and is
held as outstanding, with Bus Master Enable set; its completion's line reaches the reader, once, and keeps what the device wrote
meanwhile; one for another device is answered there. An engine's write goes out as a posted request. Without Bus Master Enable
the access is an address error. Where the spec leaves a corner open the model follows log entries 21, 24, 27 and 37. -/
def Obligations.PinsAndTheHostPort : Prop :=
  (∀ (s : State),
    let calm := s.flt.devRst = 0 ∧ s.boot.aonLow = false
    (calm → 3 ≤ s.boot.state → s.boot.state ≤ 7 →
      ∃ t, exec .perstNFall s = .next t ∧ t.boot.perst = true ∧ t.bme = false ∧ t.mse = false ∧ DevStarts s t false ∧
        (NoLaunch s → Frame [.boot, .bme, .mse, .flt] s t) ∧ (Tidy s → ∀ k, Running s k → Ended s t k)) ∧
    ((s.boot.state < 3 ∨ 7 < s.boot.state ∨ s.boot.aonLow = true) →
      ∃ t, exec .perstNFall s = .next t ∧ t.boot = { s.boot with perst := true } ∧ t.bme = false ∧ t.mse = false ∧
        Frame [.boot, .bme, .mse] s t) ∧
    (∃ t, exec .perstNRise s = .next t ∧ t.boot = { s.boot with perst := false } ∧ Frame [.boot] s t) ∧
    (calm → s.sec.tdi = 0 → ∃ t, exec .flr s = .next t ∧ t.bme = false ∧ t.mse = false ∧ DevStarts s t false ∧
      (NoLaunch s → Frame [.bme, .mse, .flt] s t) ∧ (Tidy s → ∀ k, Running s k → Ended s t k)) ∧
    (s.sec.tdi ≠ 0 → s.sec.change = 0 →
      ∃ t, exec .flr s = .next t ∧ t.bme = false ∧ t.mse = false ∧ ChangeStarts s t false ∧ NoRings t ∧ WorkEnds s t) ∧
    (s.boot.perst = false → s.boot.aonLow = false →
      let locked := s.sec.tdi = 1 ∨ s.sec.tdi = 2
      (∀ q, (s.boot.state < 3 ∨ s.flt.devRst ≠ 0) →
        ∃ t, exec (.configRequest q) s = .next t ∧ t.hostOut = s.hostOut ++ [.completion 0 4 false .rrs] ∧ Frame [.hostOut] s t) ∧
      (3 ≤ s.boot.state → s.flt.devRst = 0 →
        (∃ t d, exec (.configRequest .read) s = .next t ∧ t.hostOut = s.hostOut ++ [.completion d 4 false .sc] ∧
          Frame [.hostOut, .freeCtr] s t) ∧
        (∀ b m, (¬ locked ∨ (b = s.bme ∧ m = s.mse)) →
          ∃ t, exec (.configRequest (.command b m)) s = .next t ∧ t.bme = b ∧ t.mse = m ∧
            t.hostOut = s.hostOut ++ [.completion 0 0 false .sc] ∧ Frame [.bme, .mse, .hostOut] s t) ∧
        (∀ n, 30 ≤ n → n ≤ 39 → (¬ locked ∨ n = s.bar4) →
          ∃ t, exec (.configRequest (.bar4Size n)) s = .next t ∧ t.bar4 = n ∧
            t.hostOut = s.hostOut ++ [.completion 0 0 false .sc] ∧ Frame [.bar4, .hostOut] s t) ∧
        (∀ q, locked → ((∃ b m, q = .command b m ∧ (b ≠ s.bme ∨ m ≠ s.mse)) ∨
            ∃ n, q = .bar4Size n ∧ 30 ≤ n ∧ n ≤ 39 ∧ n ≠ s.bar4) →
          ∃ t, exec (.configRequest q) s = .next t ∧ t.sec = { s.sec with tdi := 3 } ∧ t.bme = s.bme ∧
            t.mse = s.mse ∧ t.bar4 = s.bar4 ∧ NoRings t ∧ WorkEnds s t))) ∧
    (∀ x tb,
      let a := s.bar4Addr x / 128 * 128
      let p := s.phys a
      let o := s.bar4Addr x % 128
      s.fe.hostHeld = false → s.takesT tb = true →
      (x < 2 ^ s.bar4 → HbmServes s a →
        (∀ (data : Line) (psn : Bool),
          ∃ t, exec (.bar4Write ⟨x, tb⟩ (BitVec.allOnes 128) data psn .clean) s = .next t ∧
            HoldsLine t a p psn (if psn then 0 else data) ∧ OnlyPhys p (s.shadow a) s t ∧ Counted s t .ct 0 0x100 128 ∧
            Frame [.hbm, .cnt64] s t) ∧
        (∀ (mask : W128) (data l : Line), HoldsLine s a p false l → mask ≠ BitVec.allOnes 128 →
          ∃ t m, exec (.bar4Write ⟨x, tb⟩ mask data false .clean) s = .next t ∧ HoldsLine t a p false m ∧
            (∀ i, i < 128 → lineByte m i = if bitN mask.toNat i then lineByte data i else lineByte l i) ∧
            OnlyPhys p (s.shadow a) s t ∧ Counted s t .ct 0 0x100 (popN 128 mask.toNat) ∧ Frame [.hbm, .cnt64] s t)) ∧
      (∀ mask data psn e, x < 2 ^ s.bar4 →
        (a < s.hbmEnd → s.hbmDown a = true →
          ∃ t, exec (.bar4Write ⟨x, tb⟩ mask data psn e) s = .next t ∧ Counted s t .ct 0 0x100 (popN 128 mask.toNat) ∧
            Frame [.cnt64] s t) ∧
        (a < s.hbmEnd → s.hbmDown a = false → s.hbmReady a = false →
          ∃ t, exec (.bar4Write ⟨x, tb⟩ mask data psn e) s = .next t ∧ t.fe = { s.fe with hostHeld := true } ∧
            Counted s t .ct 0 0x100 (popN 128 mask.toNat) ∧ Frame [.fe, .cnt64] s t) ∧
        (s.hbmEnd ≤ a → (s.reg .ct 0 Off.errCnt).toNat < 0xFFFFFFFF →
          ∃ t, exec (.bar4Write ⟨x, tb⟩ mask data psn e) s = .next t ∧
            t.reg .ct 0 Off.errCnt = s.reg .ct 0 Off.errCnt + 1 ∧ Frame [.regs, .logPtr] s t)) ∧
      (∀ len, 1 ≤ len → o + len ≤ 128 → x + len ≤ 2 ^ s.bar4 → HbmServes s a →
        (∀ l, HoldsLine s a p false l → ∃ t, exec (.bar4Read ⟨x, tb⟩ len .clean) s = .next t ∧
          t.hostOut = s.hostOut ++ [.completion (l.toNat / 2 ^ (8 * o) % 2 ^ (8 * len)) len false .sc] ∧
          Counted s t .ct 0 0x108 len ∧ t.hbm.data = s.hbm.data ∧ t.hbm.info = s.hbm.info ∧
          Frame [.hbm, .cnt64, .hostOut] s t) ∧
        (s.lineTag a p = some true → ∃ t, exec (.bar4Read ⟨x, tb⟩ len .clean) s = .next t ∧
          t.hostOut = s.hostOut ++ [.completion 0 len true .sc] ∧ t.hbm.data = s.hbm.data ∧ t.hbm.info = s.hbm.info))) ∧
    (∀ x len mask data psn e, s.takesT false = false → s.fe.hostHeld = false →
      (1 ≤ len → len ≤ 4096 → x + len ≤ 2 ^ s.bar4 → ∃ t, exec (.bar4Read ⟨x, false⟩ len e) s = .next t ∧
        t.hostOut = s.hostOut ++ [.completion 0 len false .ur] ∧ Frame [.hostOut] s t) ∧
      exec (.bar4Write ⟨x, false⟩ mask data psn e) s = .next s) ∧
    (∀ addr, s.umcUp = true → s.mgmt.addr = none →
      ∃ t, exec (.entdaa addr) s = .next t ∧ t.mgmt = { s.mgmt with addr := some addr.toNat } ∧ Frame [.mgmt] s t) ∧
    (∀ i : TapInstr,
      let shut := s.boot.state = 7 ∨ ∃ p, p < 16 ∧ (s.part p).state = 1
      ∃ t, exec (.tapInstructionLoad i) s = .next t ∧ Frame [.mgmt, .pw] s t ∧
        (i = .testLogicReset → t.mgmt.ir = .idcode ∧ t.mgmt.tlr = true ∧ t.pw.debugOn = s.trOn) ∧
        (i ≠ .testLogicReset → t.mgmt.tlr = false ∧ t.pw.debugOn = true) ∧
        ((i = .extest ∨ i = .extestPulse ∨ i = .extestTrain ∨ i = .highz ∨ i = .clamp) →
          (shut → t.mgmt.ir = .bypass) ∧ (¬ shut → t.mgmt.ir = i)) ∧
        (i = .debug → t.mgmt.ir = if s.sec.state = 1 then .bypass else .debug) ∧
        ((i = .bypass ∨ i = .idcode ∨ i = .samplePreload) → t.mgmt.ir = i))) ∧
  (∀ (s : State),
    (∀ (g : Agent) (d i : Nat), (g = .frontEnd ∨ ∃ k, g = .sorrel k) → inWindow (128 * d) = true →
      (s.bme = true → s.sec.tdi ≠ 3 →
        ∃ t, exec (.hostWindowAccess g d i) s = .next t ∧
          t.hostOut = s.hostOut ++ [.read (s.hostAddr (128 * d)) g d i s.tdiRuns] ∧
          t.hostReads = s.hostReads ++ [⟨g, d, i, s.hostAddr (128 * d), 0⟩] ∧ Frame [.hostOut, .hostReads] s t) ∧
      ((s.bme = false ∨ s.sec.tdi = 3) → (s.reg (reqOf g).blk (reqOf g).n Off.errCnt).toNat < 0xFFFFFFFF →
        ∃ t, exec (.hostWindowAccess g d i) s = .next t ∧
          t.reg (reqOf g).blk (reqOf g).n Off.errCnt = s.reg (reqOf g).blk (reqOf g).n Off.errCnt + 1 ∧
          Frame [.regs, .logPtr] s t)) ∧
    (∀ (g : Agent) (q : Desc) (i a : Nat), (Mover g ∨ g = .copy) →
      (s.eng g).desc q.id = some q → s.readable g q i = true → s.srcOf g q i = some a → s.isOwn a = true →
      inWindow (localOf a) = true → s.placeOf (localOf a) = .host →
      ∃ t, exec (.hostWindowAccess g q.id i) s = .next t ∧
        t.hostOut = s.hostOut ++ [.read (s.hostAddr (localOf a)) g q.id i s.tdiRuns] ∧
        t.hostReads = s.hostReads ++ [⟨g, q.id, i, s.hostAddr (localOf a), 0⟩] ∧
        ∃ q', (t.eng g).desc q.id = some q' ∧ bitN q'.rd i = true) ∧
    (∀ (g : Agent) (q : Desc) (i x : Nat) (h : Held), ReadyToWrite s g q i x h → s.readable g q i = false →
      s.isOwn x = true → inWindow (localOf x) = true → s.placeOf (localOf x) = .host →
      ∃ t, exec (.hostWindowAccess g q.id i) s = .next t ∧
        (∃ ms, t.hostOut = s.hostOut ++ .line (s.hostAddr (localOf x)) fullMask h.line h.poison s.tdiRuns :: ms) ∧
        Memory.readLine t.hostMem (s.hostAddr (localOf x)) = h.line ∧ Counted s t .ct 0 0x108 128 ∧ t.sram = s.sram ∧
        t.hbm = s.hbm) ∧
    (∀ (r : HostRead) (data : Line) (ep : Bool),
      s.hostReads.find? (fun x => x.agent == r.agent && x.d == r.d && x.i == r.i) = some r →
      ∃ t, exec (.hostReadCompletion r.agent r.d r.i data ep) s = .next t ∧ t.hostReads = s.hostReads.erase r ∧
        Counted s t .ct 0 0x100 128 ∧ t.sram = s.sram ∧ t.hbm = s.hbm ∧
        ((r.agent = .frontEnd ∨ ∃ k, r.agent = .sorrel k) →
          (∀ j, j < 128 → Memory.read t.hostMem (r.addr + j) =
            if bitN r.wr j then Memory.read s.hostMem (r.addr + j) else BitVec.ofNat 8 (lineByte data j)) ∧
          ((reqOf r.agent).src, r.addr) ∈ t.fe.fresh) ∧
        (r.agent = .host → ∀ h, s.fab.hostRd.find? (fun e => e.1 = r.d) = some (r.d, h) →
          t.fab.hostRd = s.fab.hostRd.filter (fun e => e.1 ≠ r.d) ∧ Answers s t h h.token (.data data ep)) ∧
        (∀ q, (Mover r.agent ∨ r.agent = .copy) → (s.eng r.agent).desc r.d = some q →
          t.hostMem = s.hostMem ∧
          ∃ q', (t.eng r.agent).desc r.d = some q' ∧ SMap.get none q'.data r.i = some ⟨data, ep, fullMask⟩)))

namespace Sys2Proof.Claims
open Sys2Proof.Machine

/-- Registers whose write does more than R16's access codes say: the rules that name them are stated apart. -/
def acting (b : Blk) (off : Nat) : Bool :=
  off == Off.pageCtrl || off == Off.evtPend || (match b with
    | .gl => [0x104, 0x110, 0x114, 0x118, 0x484].contains off || (0x400 ≤ off && off < 0x480)
    | .fe => [0x100, 0x104, 0x108, 0x110, 0x114, 0x700, 0x704, 0x708, 0x710, 0x780, 0x784].contains off || (0x740 ≤ off && off < 0x760)
    | .umc => [0x11C, 0x148].contains off
    | .pw => [0x100, 0x104, 0x148].contains off
    | .sec => [0x104, 0x110].contains off
    | .tr => [0x100, 0x104, 0x108, 0x110].contains off
    | .hc => [0x180, 0x200, 0x240, 0x800].contains off
    | .pl => [0x104, 0x184, 0x1A4, 0x1AC].contains off
    | .ub => 0x280 ≤ off && off < 0x300
    | .fl => 0x400 ≤ off && off < 0x540
    | _ => false)

/-- The register after a write of `v`, bit by bit (R16, R17): a W1C bit clears where `v` has 1, a writable bit takes `v`'s, and
every other bit stays. -/
def writtenBit (r : RegSpec) (old v : W32) (i : Nat) : Bool :=
  if bitN r.w1c i then old.getLsbD i && !v.getLsbD i else if bitN r.rw i then v.getLsbD i else old.getLsbD i

/-- The register at this offset of a present page that is not held. -/
def RegAt (s : State) (a : Nat) (b : Blk) (n : Nat) : Prop :=
  pageOf (a / 4096) = some (b, n) ∧ s.pagePresent (a / 4096) = true ∧ s.pageHeld b n = false

/-- The one register of `b` changed, to `v`, and nothing else of the registers. -/
def Sets (s t : State) (b : Blk) (n off : Nat) (v : W32) : Prop :=
  t.reg b n off = v ∧ OnlyRegs [State.regKey b n off] s t

/-- An error entry has gone into the page's log (R480): entry ERR_LOG of the page's pointer, which moves on. -/
def Noted (s t : State) (b : Blk) (n code addr src info : Nat) : Prop :=
  let o := Off.errLog + 16 * (SMap.get 0 s.logPtr (b.page n) % 4)
  (t.reg b n o).getLsbD 31 = true ∧ bitsN (t.regN b n o) 23 16 = code ∧ t.reg b n (o + 4) = BitVec.ofNat 32 addr ∧
  t.reg b n (o + 8) = BitVec.ofNat 32 (addr / 2 ^ 32 % 2 ^ 20 + 2 ^ 20 * src) ∧ t.reg b n (o + 12) = BitVec.ofNat 32 info

/-- A configuration write of the FE page is ignored, with CFG_ERR of FE_SEQ_STAT. -/
def Refused (s t : State) : Prop :=
  Sets s t .fe 0 0x718 (s.reg .fe 0 0x718 ||| 0x200) ∧ Frame [.regs] s t

end Sys2Proof.Claims

/-- A host write of a whole register of a running device changes it by its access codes, and counts its bytes; one without
byte enables changes none, one that enables a part, or an absent page, is an error in a log; one without the T bit while the TDI
runs changes none, and a read without it is an Unsupported Request; management writes PL registers and TR_CFG and refuses others; a
read returns the register and one of a counter's LO register latches HI (R13, R16, R17, R395, R414, R445, R467, R470). An access to a
clock-gated umbel's page runs it (R337).

COMPAT and events (R476 to R478, R482): a write of PAGE_CTRL, which the FE page refuses while a ring is enabled and COMPAT
would change; GL_COMPAT.ALL with no ring enabled; EVT_PEND with events of the same cycle, which sends the page's message for
an event on a bit that read 0 or that the write clears. Where the spec leaves a corner open the model follows log entries 25 and 27. -/
def Obligations.RegisterWritesAndPageControl : Prop :=
  (∀ (s : State) (x : W26) (v : W32) (tb : Bool),
    let a := x.toNat / 4 * 4
    let off := a % 4096
    let global := 2 ^ 42 * s.devId + (0x18000000000 + a)
    let open_ := s.fe.hostHeld = false ∧ s.takesT tb = true
    (∀ b n r, s.boot.state = 7 → open_ → RegAt s a b n → acting b off = false → regSpec b off = some r →
      (∃ t, exec (.registerWrite ⟨x, tb⟩ 15 v) s = .next t ∧ OnlyRegs [State.regKey b n off] s t ∧
        (∀ i, i < 32 → (t.reg b n off).getLsbD i = writtenBit r (s.reg b n off) v i) ∧ Counted s t .ct 0 0x100 4 ∧
        (b ≠ .fl → b ≠ .ub → t.pw = s.pw) ∧ Frame [.regs, .cnt64, .pw] s t) ∧
      (∀ be : W4, be ≠ 0 → be ≠ 15 →
        ∃ t, exec (.registerWrite ⟨x, tb⟩ be v) s = .next t ∧ Noted s t b n 0x02 (0x18000000000 + a) reqHost.src be.toNat ∧
          Counted s t .ct 0 0x100 (popN 4 be.toNat) ∧ Frame [.regs, .cnt64, .logPtr] s t)) ∧
    (∃ t, exec (.registerWrite ⟨x, tb⟩ 0 v) s = .next t ∧ Frame [.cnt64] s t) ∧
    (∀ be, s.takesT tb = false → ∃ t, exec (.registerWrite ⟨x, tb⟩ be v) s = .next t ∧ Frame [.cnt64] s t) ∧
    (∀ len, s.takesT tb = false → s.fe.hostHeld = false → 1 ≤ len → len ≤ 4096 → x.toNat + len ≤ 2 ^ 26 →
      ∃ t, exec (.counterLoRead ⟨x, len, tb⟩) s = .next t ∧ t.hostOut = s.hostOut ++ [.completion 0 len false .ur] ∧
        Frame [.hostOut] s t) ∧
    (open_ → s.regPresent a = false →
      (∀ be : W4, be ≠ 0 → s.boot.state = 7 →
        ∃ t, exec (.registerWrite ⟨x, tb⟩ be v) s = .next t ∧ Noted s t .ct 0 0x01 global reqHost.src 1 ∧
          Frame [.regs, .cnt64, .logPtr] s t) ∧
      (x.toNat = a → ∃ t, exec (.counterLoRead ⟨x, 4, tb⟩) s = .next t ∧ Noted s t .ct 0 0x01 global reqHost.src 0 ∧
        Counted s t .ct 0 0x108 4 ∧ t.hostOut = s.hostOut ++ [.completion 0 4 false .sc] ∧
        Frame [.regs, .cnt64, .logPtr, .hostOut] s t)) ∧
    (s.umcUp = true →
      (∀ n r, RegAt s a .pl n → acting .pl off = false → regSpec .pl off = some r →
        ∃ t, exec (.regWrite x v) s = .next t ∧ OnlyRegs [State.regKey .pl n off] s t ∧
          (∀ i, i < 32 → (t.reg .pl n off).getLsbD i = writtenBit r (s.reg .pl n off) v i) ∧ Frame [.regs] s t) ∧
      (a = 0x5108 → ∃ t, exec (.regWrite x v) s = .next t ∧ exec (.trCfgWrite v) s = .next t) ∧
      ((∀ n, pageOf (a / 4096) ≠ some (.pl, n)) → a ≠ 0x5108 →
        ∃ t, exec (.regWrite x v) s = .next t ∧ Sends s t (.refused 2 0) ∧ Frame [.mgmt] s t)) ∧
    (∀ b n, open_ → RegAt s a b n → b ≠ .ct → x.toNat = a →
      ∃ t, exec (.counterLoRead ⟨x, 4, tb⟩) s = .next t ∧ Counted s t .ct 0 0x108 4 ∧
        t.hostOut = s.hostOut ++ [.completion (s.peek b n off % 2 ^ 32) 4 false .sc] ∧
        (∀ c, s.loValue b n off = some c → SMap.get (0 : W32) t.latch (a + 4) = BitVec.ofNat 32 (c / 2 ^ 32) ∧
          Frame [.latch, .cnt64, .hostOut, .pw] s t) ∧
        (s.loValue b n off = none → Frame [.cnt64, .hostOut, .pw] s t))) ∧
  (∀ (s : State) (v : W32),
    (∀ (p : PageIx) b n, pageOf p.val = some (b, n) → s.pagePresent p.val = true →
      ((b ≠ .fe ∨ s.anyRing = false ∨ s.compatOf p.val = v.getLsbD 0) →
        ∃ t, exec (.compatWrite p v) s = .next t ∧ t.compatOf p.val = v.getLsbD 0 ∧
          (∀ q, q ≠ p.val → t.compatOf q = s.compatOf q) ∧ Sets s t b n Off.pageCtrl (v &&& 0x07FF0100) ∧
          Frame [.regs, .compat, .pw] s t) ∧
      (b = .fe → s.anyRing = true → s.compatOf p.val ≠ v.getLsbD 0 →
        ∃ t, exec (.compatWrite p v) s = .next t ∧ Sets s t .fe 0 0x10C (s.reg .fe 0 0x10C ||| 1) ∧ Frame [.regs] s t)) ∧
    (∀ (p : PageIx), s.pagePresent p.val = false → ∀ c o, (c = Instr.compatWrite p v ∧ o = Off.pageCtrl) ∨
        ((∃ ev, c = .evtPendClear p v ev) ∧ o = Off.evtPend) →
      ∃ t, exec c s = .next t ∧ Noted s t .ct 0 0x01 (2 ^ 42 * s.devId + (0x18000000000 + 4096 * p.val + o)) reqHost.src 1 ∧
        Frame [.regs, .logPtr] s t) ∧
    (∀ c, s.anyRing = false →
      ∃ t, exec (.glCompatAll c) s = .next t ∧ (∀ p, s.pagePresent p = true → t.compatOf p = c) ∧
        (∀ p, s.pagePresent p = false → t.compatOf p = s.compatOf p) ∧ Frame [.compat] s t) ∧
    (∀ (p : PageIx) b n (ev : W32), RegAt s (4096 * p.val) b n →
      let old := s.reg b n Off.evtPend
      let new := ev &&& ~~~(s.reg b n Off.evtMask)
      let ctl := s.regN b n Off.pageCtrl
      let sends := new &&& (~~~old ||| v) ≠ 0 ∧ bitN ctl 8 = true ∧ s.sec.tdi ≠ 3
      let e := 0x3000000 + 16 * bitsN ctl 26 16
      ∃ t, exec (.evtPendClear p v ev) s = .next t ∧ t.reg b n Off.evtPend = (old &&& ~~~v) ||| new ∧
        t.reg b n Off.evtRaw = s.reg b n Off.evtRaw ||| ev ∧ Frame [.regs, .hostOut, .pw] s t ∧
        (¬ sends → t.hostOut = s.hostOut ∧ OnlyRegs [State.regKey b n Off.evtPend, State.regKey b n Off.evtRaw] s t) ∧
        (sends → (s.rawReg (e + 12)).getLsbD 0 = false →
          t.hostOut = s.hostOut ++ [.msix ((s.rawReg e).toNat + 2 ^ 32 * (s.rawReg (e + 4)).toNat) (s.rawReg (e + 8)) s.tdiRuns] ∧
          OnlyRegs [State.regKey b n Off.evtPend, State.regKey b n Off.evtRaw] s t)))

/-- GL_COMPAT.ALL while a ring is enabled: the FE page keeps its COMPAT, every other present page takes the value, and
GL_CTRL.CFG_ERR is set (R482). -/
def Obligations.CompatAllSkipsTheFrontEndWhileARingIsEnabled : Prop :=
  ∀ (s : State) (c : Bool), s.anyRing = true →
    ∃ t, exec (.glCompatAll c) s = .next t ∧
      t.compatOf (Blk.page .fe 0) = s.compatOf (Blk.page .fe 0) ∧
      (∀ p, s.pagePresent p = true → p ≠ Blk.page .fe 0 → t.compatOf p = c) ∧
      (∀ p, s.pagePresent p = false → t.compatOf p = s.compatOf p) ∧
      Sets s t .gl 0 Off.glCtrl (s.reg .gl 0 Off.glCtrl ||| 0x100) ∧ Frame [.regs, .compat] s t

/-- The table registers take a write only while what they describe is not in use (R156, R185, R195, R197, R225, R280, R331): the ring
table with every ring disabled, the sequence table with no pool enabled, the group table with every slot FREE, a pool with no
frame owned, a DMA channel with every signalled descriptor complete, a feed that is idle. -/
def Obligations.TableRegistersTakeAWriteWhileUnused : Prop :=
  ∀ (s : State) (v : W32),
    (∀ hi : Bool,
      let off := if hi then 0x104 else 0x100
      (s.anyRing = false → ∃ t, exec (.ringTblWrite hi v) s = .next t ∧
        Sets s t .fe 0 off (v &&& (if hi then 0x3FF else 0xFFFFFF80) ||| s.reg .fe 0 off &&& (if hi then ~~~0x3FF else 0x7F)) ∧
        Frame [.regs] s t) ∧
      (s.anyRing = true → ∃ t, exec (.ringTblWrite hi v) s = .next t ∧ Sets s t .fe 0 0x10C (s.reg .fe 0 0x10C ||| 1) ∧
        Frame [.regs] s t)) ∧
    (∀ hi : Bool,
      let off := if hi then 0x784 else 0x780
      let used := ∃ q, q < s.seqSlots ∧ (s.seqGet q).state ≠ 0
      (¬ used → ∃ t, exec (.grpBaseWrite hi v) s = .next t ∧
        Sets s t .fe 0 off (v &&& (if hi then 0x3FF else 0xFFFFFF00) ||| s.reg .fe 0 off &&& (if hi then ~~~0x3FF else 0xFF)) ∧
        Frame [.regs] s t) ∧
      (used → ∃ t, exec (.grpBaseWrite hi v) s = .next t ∧ Refused s t)) ∧
    (∀ w : Fin3,
      let m : W32 := if w.val = 0 then 0xFFFFFF80 else if w.val = 1 then 0x3FF else 0x7FFF
      let off := 0x700 + 4 * w.val
      (s.pools = [] → (w.val = 2 → v.toNat % 2 ^ 15 ≤ 16384) → ∃ t, exec (.seqTableCfgWrite w v) s = .next t ∧
        Sets s t .fe 0 off (v &&& m ||| s.reg .fe 0 off &&& ~~~m) ∧ Frame [.regs] s t) ∧
      (s.pools ≠ [] → ∃ t, exec (.seqTableCfgWrite w v) s = .next t ∧ Refused s t)) ∧
    (∀ n : PoolId,
      let old := s.kvPool n.val
      let p : KvPool := ⟨bitsN v.toNat 5 0, bitsN v.toNat 13 8, bitsN v.toNat 25 14, bitN v.toNat 30, bitN v.toNat 31, old.frames⟩
      let busy := old.en = true ∧ ∃ k f, k < 8 ∧ f < old.frames ∧ s.frameOwner old k f ≠ 0
      let q : KvPool := { old with frames := v.toNat % 2 ^ 20 }
      let ok := fun p : KvPool => (p.en = true → 1 ≤ p.part ∧ p.part ≤ 48 ∧ p.np ≠ 0 ∧ p.frames ≠ 0) ∧
        2 ^ 33 * p.base8 + 2 ^ 33 * p.part ≤ s.hbmEnd ∧ p.endOff s.seqSlots ≤ 2 ^ 30 * p.part ∧
        ∀ m, m < 4 → m ≠ n.val → (s.kvPool m).en = true →
          p.base8 + p.part ≤ (s.kvPool m).base8 ∨ (s.kvPool m).base8 + (s.kvPool m).part ≤ p.base8
      ∀ fr : Bool,
        let w := if fr then q else p
        let only := fun t => OnlyRegs [State.regKey .fe 0 (0x740 + 8 * n.val + if fr then 4 else 0)] s t
        ((busy ∨ ¬ ok w) → ∃ t, exec (.kvpCfgWrite n fr v) s = .next t ∧ Refused s t) ∧
        (¬ busy → ok w → (w.en = false ∨ w = old) → ∃ t, exec (.kvpCfgWrite n fr v) s = .next t ∧ t.kvPool n.val = w ∧
          only t ∧ Frame [.regs] s t) ∧
        (¬ busy → ok w → w.en = true → w ≠ old → ∃ t, exec (.kvpCfgWrite n fr v) s = .next t ∧ t.kvPool n.val = w ∧
          only t ∧ (∀ k f, k < 8 → f < w.frames → t.frameOwner w k f = 0) ∧ Frame [.regs, .hbm, .cnt64] s t)) ∧
    (∀ (u : UmbelId) (c : ChannelId) (bell : Bool),
      let um := s.um u.val
      let ch := um.chan c.val
      let sz := bitsN v.toNat 28 16
      s.pageHeld .ub u.val = false →
      ((ch.eng.stopped = true ∨ ch.size = 0 ∨
          (ch.eng.queue = [] ∧ ch.eng.fly = [] ∧ ¬ Met (um.tally ch.bell) (ch.b + BitVec.ofNat 32 ch.next + 1))) →
        (bell = false → sz % 4 = 0 ∧ sz ≤ 4096) →
        ∃ t, exec (.dmaCfgWrite u c bell v) s = .next t ∧
          (let x := (t.um u.val).chan c.val
           x.line = (if bell then ch.line else v.toNat % 2 ^ 16) ∧ x.size = (if bell then ch.size else sz) ∧
           x.bell = (if bell then v.toNat % 256 else ch.bell) ∧ x.b = um.tally x.bell ∧ x.next = 0 ∧
           x.eng.stopped = false ∧ x.eng.queue = [] ∧ x.eng.fly = []) ∧
          t.reg .ub u.val (Off.dmaDone + 16 * c.val) = 0 ∧ (∀ d, d ≠ c.val → (t.um u.val).chan d = um.chan d) ∧
          OnlyUm u.val s t ∧ Frame [.regs, .ums, .pw] s t ∧
          OnlyRegs [State.regKey .ub u.val (0x280 + 16 * c.val + (if bell then 4 else 0)),
            State.regKey .ub u.val (Off.dmaDone + 16 * c.val)] s t) ∧
      (((ch.eng.stopped = false ∧ ch.size ≠ 0 ∧
          (ch.eng.queue ≠ [] ∨ ch.eng.fly ≠ [] ∨ Met (um.tally ch.bell) (ch.b + BitVec.ofNat 32 ch.next + 1))) ∨
          (bell = false ∧ (sz % 4 ≠ 0 ∨ 4096 < sz))) →
        ∃ t, exec (.dmaCfgWrite u c bell v) s = .next t ∧ Frame [.pw] s t)) ∧
    (∀ (f : FloretId) (e : FeedId) (hi : Bool),
      let fd := (s.fl f.val).feed e.val
      let base := if hi then fd.base else v.toNat % 2 ^ 15
      let slots := if hi then fd.slots else bitsN v.toNat 31 16
      let bl := if hi then v.toNat % 2 ^ 7 else fd.bl
      let patch := if hi then bitN v.toNat 8 else fd.patch
      s.flPresent f.val = true → s.pageHeld .fl f.val = false → fd.base < 2 ^ 15 → fd.slots < 2 ^ 16 → fd.bl < 2 ^ 7 →
      (fd.idle = true → slots ≠ 0 → 1 ≤ bl → bl ≤ 72 → base + slots * bl ≤ 32768 →
        ∃ t, exec (.feedCfgWrite f e hi v) s = .next t ∧
          (let x := (t.fl f.val).feed e.val
           x.base = base ∧ x.slots = slots ∧ x.bl = bl ∧ x.patch = patch ∧ x.state = 1 ∧ x.head = 0 ∧ x.present = []) ∧
          (∀ d, d ≠ e.val → (t.fl f.val).feed d = (s.fl f.val).feed d) ∧ OnlyFl f.val s t ∧ Frame [.fls, .pw] s t) ∧
      (fd.idle = true → slots = 0 → ∃ t, exec (.feedCfgWrite f e hi v) s = .next t ∧
        ((t.fl f.val).feed e.val).state = 0 ∧ ((t.fl f.val).feed e.val).slots = 0 ∧ OnlyFl f.val s t ∧ Frame [.fls, .pw] s t) ∧
      (fd.idle = true → slots ≠ 0 → (bl = 0 ∨ 72 < bl ∨ 32768 < base + slots * bl) →
        ∃ t, exec (.feedCfgWrite f e hi v) s = .next t ∧ (t.reg .fl f.val Off.sqStat).getLsbD 1 = true ∧
          Frame [.regs, .hostOut, .pw] s t) ∧
      (fd.idle = false → ∃ t, exec (.feedCfgWrite f e hi v) s = .next t ∧ Frame [.pw] s t)) ∧
    (∀ (f : FloretId) (e : FeedId) (hi : Bool), s.flPresent f.val = false →
      ∃ t, exec (.feedCfgWrite f e hi v) s = .next t ∧
        Noted s t .ct 0 0x01 (2 ^ 42 * s.devId + (0x18000000000 + regOff .fl f.val (0x400 + 16 * e.val + 4 * b2n hi)))
          reqHost.src 1 ∧ Frame [.regs, .logPtr] s t)

/-- Reset leaves every register at the reset value of its table (R16, R17, R476 and the chapters' tables); no sequencer runs,
no feed is configured, no ring is enabled, no launch holds a slot and every umbel is held until it wakes. Where the spec leaves a corner open the model follows log entry 31. -/
def Obligations.ResetLeavesEveryRegisterAtItsTableValue : Prop :=
  (∀ b n off r, pageOf (b.page n) = some (b, n) → off < 4096 → regSpec b off = some r →
    State.reset.reg b n off = BitVec.ofNat 32 r.reset) ∧
  State.reset.reg .fe 0 0x110 = 200000 ∧ bitsN (State.reset.regN .pw 0 0x100) 10 0 = 1500 ∧
  bitsN (State.reset.regN .pw 0 0x100) 26 16 = 350 ∧ State.reset.reg .pw 0 0x104 = 1000 ∧ State.reset.reg .hc 0 0x180 = 20 ∧
  (∀ f, (State.reset.fl f).run = false ∧ (State.reset.fl f).mx = [] ∧ ∀ e, ((State.reset.fl f).feed e).state = 0) ∧
  (∀ r, (State.reset.ring r).state = 0) ∧ (∀ n, (State.reset.lsl n).state = 0) ∧ (∀ u, (State.reset.um u).held = true)
end

