-- ==== Sys2Proof/Laws/Frame.lean ====
section
/-! SUPPORT. Frames compose: how the frame of an operation follows from the frames of the operations it calls. -/

namespace Sys2Proof.Machine

variable {ps qs : List Piece} {s t u : State}

theorem Frame.refl : Frame ps s s := fun p _ => by cases p <;> rfl

theorem Piece.same_trans {p : Piece} (h : p.same s t) (k : p.same t u) : p.same s u := by
  cases p <;> exact Eq.trans k h

theorem Frame.trans (h : Frame ps s t) (k : Frame ps t u) : Frame ps s u :=
  fun p hp => Piece.same_trans (h p hp) (k p hp)

theorem Piece.within_contains {p : Piece} (h : Piece.within ps qs = true) (hp : qs.contains p = false) :
    ps.contains p = false := by
  cases hc : ps.contains p with
  | false => rfl
  | true =>
    have := List.all_eq_true.mp h p (List.elem_iff.mp hc)
    rw [hp] at this
    cases this

theorem Piece.within_trans {rs : List Piece} (h : Piece.within ps qs = true) (k : Piece.within qs rs = true) :
    Piece.within ps rs = true :=
  List.all_eq_true.mpr fun p hp => List.all_eq_true.mp k p (List.elem_iff.mp (List.all_eq_true.mp h p hp))

theorem Frame.mono (h : Frame ps s t) (hw : Piece.within ps qs = true) : Frame qs s t :=
  fun p hp => h p (Piece.within_contains hw hp)

/-- A change within `qs` after a change within `ps` that holds `qs`. -/
theorem Frame.step (h : Frame qs t u) (hw : Piece.within qs ps = true) (k : Frame ps s t) : Frame ps s u :=
  k.trans (h.mono hw)

theorem Frame.ite {c : Prop} [Decidable c] {a b : State} (ha : Frame ps s a) (hb : Frame ps s b) :
    Frame ps s (if c then a else b) := by
  split
  · exact ha
  · exact hb

theorem Frame.foldl {α : Type} {f : State → α → State} {xs : List α} (h : ∀ s x, Frame ps s (f s x)) :
    Frame ps s (xs.foldl f s) := by
  induction xs generalizing s with
  | nil => exact .refl
  | cons x xs ih => exact (h s x).trans ih

/-- A fold whose accumulator holds the state in some place. -/
theorem Frame.foldl_at {α β : Type} (g : β → State) {f : β → α → β} {xs : List α} (h : ∀ a x, Frame ps (g a) (g (f a x)))
    {a : β} : Frame ps (g a) (g (xs.foldl f a)) := by
  induction xs generalizing a with
  | nil => exact .refl
  | cons x xs ih => exact (h a x).trans ih

/-- Register accesses of a line (R469) touch only the pieces listed. -/
def RegIO.Within (ps : List Piece) (io : RegIO) : Prop :=
  (∀ s a, Frame ps s (io.rd s a).2) ∧ (∀ s q a v, Frame ps s (io.wr s q a v))

end Sys2Proof.Machine
end

