-- ==== Sys2Proof/Laws/SMap.lean ====
section
/-! SUPPORT. Sparse tables and byte memories: reading after writing, and the canonical form that every operation keeps. -/

namespace Sys2Proof.Machine

section Tables
variable {α : Type} {d : α} {m : SMap α} {k j lo : Nat} {x : α}

@[simp] theorem SMap.get_nil : SMap.get d ([] : SMap α) k = d := rfl

theorem SMap.get_insert : SMap.get d (SMap.insert m k x) j = if j = k then x else SMap.get d m j := by
  induction m with
  | nil => simp [SMap.insert, SMap.get]
  | cons e m ih =>
    obtain ⟨k', v⟩ := e
    unfold SMap.insert
    split
    · subst_vars
      by_cases h : j = k' <;> simp [SMap.get, h]
    · split
      · by_cases h : j = k <;> simp [SMap.get, h]
      · by_cases h : j = k'
        · have : j ≠ k := by omega
          simp_all [SMap.get]
        · simp only [SMap.get, if_neg h, ih]

/-- A key below every listed key is not listed. -/
theorem SMap.get_of_rising (h : SMap.rising lo m = true) (hk : k < lo) : SMap.get d m k = d := by
  induction m generalizing lo with
  | nil => rfl
  | cons e m ih =>
    obtain ⟨k', v⟩ := e
    simp only [SMap.rising, Bool.and_eq_true, decide_eq_true_eq] at h
    have hne : k ≠ k' := by omega
    rw [SMap.get, if_neg hne]
    exact ih h.2 (by omega)

theorem SMap.get_erase : SMap.get d (SMap.erase m k) j = if j = k then d else SMap.get d m j := by
  induction m with
  | nil => simp [SMap.erase]
  | cons e m ih =>
    obtain ⟨k', v⟩ := e
    unfold SMap.erase
    split
    · subst_vars
      rw [ih]
      by_cases h : j = k' <;> simp [SMap.get, h]
    · by_cases h : j = k'
      · have : j ≠ k := by omega
        simp_all [SMap.get]
      · simp only [SMap.get, if_neg h, ih]

theorem SMap.get_put [DecidableEq α] : SMap.get d (SMap.put d m k x) j = if j = k then x else SMap.get d m j := by
  unfold SMap.put
  split
  · subst_vars
    exact SMap.get_erase
  · exact SMap.get_insert

@[simp] theorem SMap.get_put_same [DecidableEq α] : SMap.get d (SMap.put d m k x) k = x := by simp [SMap.get_put]

theorem SMap.get_put_ne [DecidableEq α] (h : j ≠ k) : SMap.get d (SMap.put d m k x) j = SMap.get d m j := by
  simp [SMap.get_put, h]

theorem SMap.rising_mono (h : SMap.rising lo m = true) (hl : j ≤ lo) : SMap.rising j m = true := by
  cases m with
  | nil => rfl
  | cons e m =>
    obtain ⟨k', v⟩ := e
    simp only [SMap.rising, Bool.and_eq_true, decide_eq_true_eq] at h ⊢
    exact ⟨by omega, h.2⟩

theorem SMap.rising_insert (h : SMap.rising lo m = true) (hk : lo ≤ k) : SMap.rising lo (SMap.insert m k x) = true := by
  induction m generalizing lo with
  | nil => simp [SMap.insert, SMap.rising, hk]
  | cons e m ih =>
    obtain ⟨k', v⟩ := e
    simp only [SMap.rising, Bool.and_eq_true, decide_eq_true_eq] at h
    unfold SMap.insert
    split
    · subst_vars
      simp [SMap.rising, h.2, hk]
    · split
      · simp only [SMap.rising, Bool.and_eq_true, decide_eq_true_eq]
        exact ⟨hk, by omega, h.2⟩
      · simp only [SMap.rising, Bool.and_eq_true, decide_eq_true_eq]
        exact ⟨h.1, ih h.2 (by omega)⟩

theorem SMap.rising_filter {p : Nat × α → Bool} (h : SMap.rising lo m = true) : SMap.rising lo (m.filter p) = true := by
  induction m generalizing lo with
  | nil => rfl
  | cons e m ih =>
    obtain ⟨k', v⟩ := e
    simp only [SMap.rising, Bool.and_eq_true, decide_eq_true_eq] at h
    rw [List.filter_cons]
    split
    · simp only [SMap.rising, Bool.and_eq_true, decide_eq_true_eq]
      exact ⟨h.1, ih h.2⟩
    · exact SMap.rising_mono (ih h.2) (by omega)

theorem SMap.erase_eq_filter : SMap.erase m k = m.filter (fun e => !decide (e.1 = k)) := by
  induction m with
  | nil => rfl
  | cons e m ih =>
    obtain ⟨k', v⟩ := e
    by_cases h : k = k'
    · subst h
      rw [SMap.erase, if_pos rfl, ih, List.filter_cons]
      simp
    · have : k' ≠ k := by omega
      rw [SMap.erase, if_neg h, ih, List.filter_cons]
      simp [this]

variable [DecidableEq α]

theorem SMap.wf_filter {p : Nat × α → Bool} (h : SMap.wf d m = true) : SMap.wf d (m.filter p) = true := by
  simp only [SMap.wf, Bool.and_eq_true, List.all_eq_true] at h ⊢
  exact ⟨SMap.rising_filter h.1, fun e he => h.2 e (List.mem_filter.mp he).1⟩

theorem SMap.wf_erase (h : SMap.wf d m = true) : SMap.wf d (SMap.erase m k) = true := by
  rw [SMap.erase_eq_filter]
  exact SMap.wf_filter h

theorem SMap.mem_insert {e : Nat × α} (h : e ∈ SMap.insert m k x) : e = (k, x) ∨ e ∈ m := by
  induction m with
  | nil => simpa [SMap.insert] using h
  | cons e' m ih =>
    obtain ⟨k', v⟩ := e'
    unfold SMap.insert at h
    split at h
    · rcases List.mem_cons.mp h with h | h <;> simp [h]
    · split at h
      · rcases List.mem_cons.mp h with h | h <;> simp [h]
      · rcases List.mem_cons.mp h with h | h
        · simp [h]
        · rcases ih h with h | h <;> simp [h]

/-- Writing a cell keeps the canonical form. -/
theorem SMap.wf_put (h : SMap.wf d m = true) : SMap.wf d (SMap.put d m k x) = true := by
  unfold SMap.put
  split
  · exact SMap.wf_erase h
  · rename_i hx
    simp only [SMap.wf, Bool.and_eq_true, List.all_eq_true, decide_eq_true_eq] at h ⊢
    refine ⟨SMap.rising_insert h.1 (Nat.zero_le _), fun e he => ?_⟩
    rcases SMap.mem_insert he with rfl | he
    · exact hx
    · exact h.2 e he

theorem SMap.wf_eraseIf {p : Nat → Bool} (h : SMap.wf d m = true) : SMap.wf d (SMap.eraseIf p m) = true := SMap.wf_filter h

end Tables

section Memories
variable {m : Memory} {a b n v : Nat} {x : Byte} {l : Line}

@[simp] theorem Memory.read_write_same : Memory.read (Memory.write m a x) a = x := SMap.get_put_same

theorem Memory.read_write_ne (h : b ≠ a) : Memory.read (Memory.write m a x) b = Memory.read m b := SMap.get_put_ne h

theorem Memory.write_wf (h : m.wf = true) : (Memory.write m a x).wf = true := SMap.wf_put h

theorem Memory.writeN_wf (h : m.wf = true) : (Memory.writeN m n a v).wf = true := by
  induction n generalizing m a v with
  | zero => exact h
  | succ n ih => exact ih (Memory.write_wf h)

theorem Memory.writeLine_wf (h : m.wf = true) : (Memory.writeLine m a l).wf = true := Memory.writeN_wf h

theorem Memory.wf_eraseIf {p : Nat → Bool} (h : m.wf = true) : Memory.wf (SMap.eraseIf p m) = true := SMap.wf_eraseIf h

theorem Memory.writeMasked_wf {mask : Nat} (h : m.wf = true) : (Memory.writeMasked m n a v mask).wf = true := by
  induction n generalizing m a v mask with
  | zero => exact h
  | succ n ih =>
    unfold Memory.writeMasked
    apply ih
    split
    · exact Memory.write_wf h
    · exact h

/-- Bytes outside the range written stay. -/
theorem Memory.read_writeN_other (h : b < a ∨ a + n ≤ b) : Memory.read (Memory.writeN m n a v) b = Memory.read m b := by
  induction n generalizing m a v with
  | zero => rfl
  | succ n ih =>
    unfold Memory.writeN
    rw [ih (by omega), Memory.read_write_ne (by omega)]

/-- What was written is read back, little-endian (R15). -/
theorem Memory.readN_writeN (h : v < 256 ^ n) : Memory.readN (Memory.writeN m n a v) n a = v := by
  induction n generalizing m a v with
  | zero =>
    have : v = 0 := by simpa using h
    simp [Memory.readN, this]
  | succ n ih =>
    unfold Memory.writeN Memory.readN
    have hv : v / 256 < 256 ^ n := Nat.div_lt_of_lt_mul (by rw [Nat.pow_succ'] at h; exact h)
    rw [ih hv, Memory.read_writeN_other (Or.inl (Nat.lt_succ_self a)), Memory.read_write_same]
    have : (BitVec.ofNat 8 v).toNat = v % 256 := by simp [BitVec.toNat_ofNat]
    rw [this]
    omega

theorem Memory.readN_writeN_other {k : Nat} (h : b + k ≤ a ∨ a + n ≤ b) :
    Memory.readN (Memory.writeN m n a v) k b = Memory.readN m k b := by
  induction k generalizing b with
  | zero => rfl
  | succ k ih =>
    unfold Memory.readN
    rw [ih (by omega), Memory.read_writeN_other (by omega)]

/-- A line is read back as it was written. -/
theorem Memory.readLine_writeLine : Memory.readLine (Memory.writeLine m a l) a = l := by
  unfold Memory.readLine Memory.writeLine
  rw [Memory.readN_writeN]
  · simp
  · have := l.isLt
    calc l.toNat < 2 ^ 1024 := this
      _ = 256 ^ 128 := by rw [show (256 : Nat) = 2 ^ 8 from rfl, ← Nat.pow_mul]

end Memories

end Sys2Proof.Machine
end

