-- ==== Sys2Proof/Laws/Keeps.lean ====
section
/-! SUPPORT. How the canonical form of the memories is kept: operations that touch no memory keep it by their frame, the others
by the laws of Laws/SMap.lean. -/

namespace Sys2Proof.Machine

/-- The change from `s` to `t` keeps the canonical form of the memories. -/
def Keeps (s t : State) : Prop := s.memWf = true → t.memWf = true

/-- None of the pieces holds a memory. -/
def Piece.dry (ps : List Piece) : Bool := !ps.contains .sram && !ps.contains .hbm && !ps.contains .hostMem

variable {ps : List Piece} {s t u : State}

theorem Keeps.refl : Keeps s s := id

theorem Keeps.trans (h : Keeps s t) (k : Keeps t u) : Keeps s u := k ∘ h

theorem Keeps.of_pieces (hs : t.sram.wf = true → u.sram.wf = true) (hh : t.hbm.data.wf = true → u.hbm.data.wf = true)
    (hm : t.hostMem.wf = true → u.hostMem.wf = true) : Keeps t u := by
  intro h
  simp only [State.memWf, Bool.and_eq_true] at h ⊢
  exact ⟨⟨hs h.1.1, hh h.1.2⟩, hm h.2⟩

theorem Keeps.frame (h : Frame ps t u) (hd : Piece.dry ps = true) (k : Keeps s t) : Keeps s u := by
  simp only [Piece.dry, Bool.and_eq_true, Bool.not_eq_true'] at hd
  have hs : u.sram = t.sram := h .sram hd.1.1
  have hh : u.hbm = t.hbm := h .hbm hd.1.2
  have hm : u.hostMem = t.hostMem := h .hostMem hd.2
  exact k.trans (Keeps.of_pieces (by rw [hs]; exact id) (by rw [hh]; exact id) (by rw [hm]; exact id))

theorem Keeps.ite {c : Prop} [Decidable c] {a b : State} (ha : Keeps s a) (hb : Keeps s b) : Keeps s (if c then a else b) := by
  split
  · exact ha
  · exact hb

theorem Keeps.foldl {α : Type} {f : State → α → State} {xs : List α} (h : ∀ s x, Keeps s (f s x)) :
    Keeps s (xs.foldl f s) := by
  induction xs generalizing s with
  | nil => exact .refl
  | cons x xs ih => exact (h s x).trans ih

theorem Keeps.foldl_at {α β : Type} (g : β → State) {f : β → α → β} {xs : List α} (h : ∀ a x, Keeps (g a) (g (f a x)))
    {a : β} : Keeps (g a) (g (xs.foldl f a)) := by
  induction xs generalizing a with
  | nil => exact .refl
  | cons x xs ih => exact (h a x).trans ih

/-- Register accesses keep the canonical form of the memories. -/
def RegIO.Keeps (io : RegIO) : Prop :=
  (∀ s a, Machine.Keeps s (io.rd s a).2) ∧ (∀ s q a v, Machine.Keeps s (io.wr s q a v))

end Sys2Proof.Machine
end

