-- ==== Sys2Proof/Laws/Vector.lean ====
section
/-! SUPPORT. The vector unit and the near bank: which operations leave it alone, and that stores keep its canonical form. -/

namespace Sys2Proof.Machine.Vec

variable {n w d l : Nat} {r : Res} {pr : W64}

theorem foldl_mem {α : Type} {f : Res → α → Res} {xs : List α} (h : ∀ r x, (f r x).mem = r.mem) :
    (xs.foldl f r).mem = r.mem := by
  induction xs generalizing r with
  | nil => rfl
  | cons x xs ih => rw [List.foldl_cons, ih, h]

theorem foldl_wf {α : Type} {f : Memory → α → Memory} {xs : List α} {m : Memory} (h : ∀ m x, m.wf = true → (f m x).wf = true)
    (hm : m.wf = true) : (xs.foldl f m).wf = true := by
  induction xs generalizing m with
  | nil => exact hm
  | cons x xs ih => exact ih (h m x hm)

theorem foldl_res_wf {α : Type} {f : Res → α → Res} {xs : List α} (h : ∀ r x, r.mem.wf = true → (f r x).mem.wf = true)
    (hm : r.mem.wf = true) : (xs.foldl f r).mem.wf = true := by
  induction xs generalizing r with
  | nil => exact hm
  | cons x xs ih => exact ih (h r x hm)

@[simp] theorem lanes_mem {f : Nat → W32 × W32 × W32} : (lanes r pr d f).mem = r.mem :=
  foldl_mem fun r x => by split <;> rfl

@[simp] theorem predLanes_mem {f : Nat → Bool × W32} : (predLanes r pr d f).mem = r.mem := rfl

theorem doInt_mem : (doInt r pr w).mem = r.mem := by
  unfold doInt
  dsimp only
  split
  · exact lanes_mem
  · exact predLanes_mem

theorem doFloat_mem : (doFloat r pr w).mem = r.mem := by
  unfold doFloat
  dsimp only
  split <;> first | exact lanes_mem | exact predLanes_mem

theorem doCvt_mem : (doCvt r pr w).mem = r.mem := by
  unfold doCvt
  dsimp only
  split <;> exact lanes_mem

theorem doReduce_mem : (doReduce r pr w).mem = r.mem := rfl

theorem doSpecial_mem : (doSpecial r pr w).mem = r.mem := lanes_mem

theorem doVld_mem : (doVld n r pr w).mem = r.mem := by
  simp only [doVld, lanes_mem]

theorem doVst_wf (h : r.mem.wf = true) : (doVst n r pr w).mem.wf = true := by
  unfold doVst
  refine foldl_res_wf (fun r x hr => ?_) h
  dsimp only
  split
  · exact hr
  · split
    · split
      · exact hr
      · exact Memory.writeN_wf hr
    · split <;> split
      · exact hr
      · exact Memory.write_wf hr
      · exact hr
      · exact Memory.write_wf hr

theorem writeRow_wf {ys : List W32} (h : r.mem.wf = true) : (writeRow r n l ys).mem.wf = true :=
  foldl_wf (fun _ _ hm => Memory.writeN_wf hm) h

theorem writeList_wf {cs : List Cand} (h : r.mem.wf = true) : (writeList r n l cs).mem.wf = true :=
  foldl_wf (fun _ _ hm => Memory.writeN_wf (Memory.writeN_wf hm)) h

theorem doNorm_wf (h : r.mem.wf = true) : (doNorm n r pr w).mem.wf = true := by
  unfold doNorm
  split
  · exact h
  · exact writeRow_wf h

theorem doRope_wf (h : r.mem.wf = true) : (doRope n r pr w).mem.wf = true := by
  unfold doRope
  split
  · exact h
  · exact writeRow_wf h

theorem doSmerge_mem : (doSmerge r pr w).mem = r.mem := by
  unfold doSmerge
  split <;> rfl

theorem doTopk_wf (h : r.mem.wf = true) : (doTopk n r pr w).mem.wf = true := by
  unfold doTopk
  dsimp only
  split
  · exact h
  · exact writeList_wf h

theorem doSample_mem : (doSample n r pr w).mem = r.mem := by
  unfold doSample
  split <;> rfl

/-- Every vector instruction keeps the near bank's canonical form. -/
theorem exec_wf (h : r.mem.wf = true) : (exec n r w).mem.wf = true := by
  unfold exec
  dsimp only
  split
  · rw [doInt_mem]; exact h
  · rw [doFloat_mem]; exact h
  · rw [doCvt_mem]; exact h
  · rw [doReduce_mem]; exact h
  · rw [doSpecial_mem]; exact h
  · split
    · rw [doVld_mem]; exact h
    · exact doVst_wf h
  · split
    · exact doNorm_wf h
    · split
      · exact doRope_wf h
      · rw [doSmerge_mem]; exact h
  · split
    · exact doTopk_wf h
    · rw [doSample_mem]; exact h

end Sys2Proof.Machine.Vec
end

