-- ==== Sys2Proof/Laws/State.lean ====
section
/-! SUPPORT. The frame of a record update: only the fields written may change, and
what is written into a memory field decides whether its canonical form is kept. -/

namespace Sys2Proof.Machine

variable {ps : List Piece} {s t : State}

theorem Frame.set_regs {v0} (hw : Piece.within [.regs] ps = true) (k : Frame ps s t) :
    Frame ps s { t with regs := v0 } :=
  Frame.step (qs := [.regs]) (fun p hp => by cases p <;> first | rfl | cases hp) hw k

theorem Frame.set_latch {v0} (hw : Piece.within [.latch] ps = true) (k : Frame ps s t) :
    Frame ps s { t with latch := v0 } :=
  Frame.step (qs := [.latch]) (fun p hp => by cases p <;> first | rfl | cases hp) hw k

theorem Frame.set_cnt64 {v0} (hw : Piece.within [.cnt64] ps = true) (k : Frame ps s t) :
    Frame ps s { t with cnt64 := v0 } :=
  Frame.step (qs := [.cnt64]) (fun p hp => by cases p <;> first | rfl | cases hp) hw k

theorem Frame.set_fls {v0} (hw : Piece.within [.fls] ps = true) (k : Frame ps s t) :
    Frame ps s { t with fls := v0 } :=
  Frame.step (qs := [.fls]) (fun p hp => by cases p <;> first | rfl | cases hp) hw k

theorem Frame.set_ums {v0} (hw : Piece.within [.ums] ps = true) (k : Frame ps s t) :
    Frame ps s { t with ums := v0 } :=
  Frame.step (qs := [.ums]) (fun p hp => by cases p <;> first | rfl | cases hp) hw k

theorem Frame.set_sram {v0} (hw : Piece.within [.sram] ps = true) (k : Frame ps s t) :
    Frame ps s { t with sram := v0 } :=
  Frame.step (qs := [.sram]) (fun p hp => by cases p <;> first | rfl | cases hp) hw k

theorem Frame.set_reports {v0} (hw : Piece.within [.reports] ps = true) (k : Frame ps s t) :
    Frame ps s { t with reports := v0 } :=
  Frame.step (qs := [.reports]) (fun p hp => by cases p <;> first | rfl | cases hp) hw k

theorem Frame.set_hostOut {v0} (hw : Piece.within [.hostOut] ps = true) (k : Frame ps s t) :
    Frame ps s { t with hostOut := v0 } :=
  Frame.step (qs := [.hostOut]) (fun p hp => by cases p <;> first | rfl | cases hp) hw k

theorem Frame.set_freeCtr {v0} (hw : Piece.within [.freeCtr] ps = true) (k : Frame ps s t) :
    Frame ps s { t with freeCtr := v0 } :=
  Frame.step (qs := [.freeCtr]) (fun p hp => by cases p <;> first | rfl | cases hp) hw k

theorem Frame.set_hbm {v0} (hw : Piece.within [.hbm] ps = true) (k : Frame ps s t) :
    Frame ps s { t with hbm := v0 } :=
  Frame.step (qs := [.hbm]) (fun p hp => by cases p <;> first | rfl | cases hp) hw k

theorem Frame.set_fab {v0} (hw : Piece.within [.fab] ps = true) (k : Frame ps s t) :
    Frame ps s { t with fab := v0 } :=
  Frame.step (qs := [.fab]) (fun p hp => by cases p <;> first | rfl | cases hp) hw k

theorem Frame.set_logPtr {v0} (hw : Piece.within [.logPtr] ps = true) (k : Frame ps s t) :
    Frame ps s { t with logPtr := v0 } :=
  Frame.step (qs := [.logPtr]) (fun p hp => by cases p <;> first | rfl | cases hp) hw k

theorem Frame.set_fe {v0} (hw : Piece.within [.fe] ps = true) (k : Frame ps s t) :
    Frame ps s { t with fe := v0 } :=
  Frame.step (qs := [.fe]) (fun p hp => by cases p <;> first | rfl | cases hp) hw k

theorem Frame.set_tr {v0} (hw : Piece.within [.tr] ps = true) (k : Frame ps s t) :
    Frame ps s { t with tr := v0 } :=
  Frame.step (qs := [.tr]) (fun p hp => by cases p <;> first | rfl | cases hp) hw k

theorem Frame.set_pw {v0} (hw : Piece.within [.pw] ps = true) (k : Frame ps s t) :
    Frame ps s { t with pw := v0 } :=
  Frame.step (qs := [.pw]) (fun p hp => by cases p <;> first | rfl | cases hp) hw k

theorem Frame.set_flt {v0} (hw : Piece.within [.flt] ps = true) (k : Frame ps s t) :
    Frame ps s { t with flt := v0 } :=
  Frame.step (qs := [.flt]) (fun p hp => by cases p <;> first | rfl | cases hp) hw k

theorem Frame.set_sec {v0} (hw : Piece.within [.sec] ps = true) (k : Frame ps s t) :
    Frame ps s { t with sec := v0 } :=
  Frame.step (qs := [.sec]) (fun p hp => by cases p <;> first | rfl | cases hp) hw k

theorem Frame.set_snap {v0} (hw : Piece.within [.snap] ps = true) (k : Frame ps s t) :
    Frame ps s { t with snap := v0 } :=
  Frame.step (qs := [.snap]) (fun p hp => by cases p <;> first | rfl | cases hp) hw k

theorem Frame.set_boot {v0} (hw : Piece.within [.boot] ps = true) (k : Frame ps s t) :
    Frame ps s { t with boot := v0 } :=
  Frame.step (qs := [.boot]) (fun p hp => by cases p <;> first | rfl | cases hp) hw k

theorem Frame.set_mgmt {v0} (hw : Piece.within [.mgmt] ps = true) (k : Frame ps s t) :
    Frame ps s { t with mgmt := v0 } :=
  Frame.step (qs := [.mgmt]) (fun p hp => by cases p <;> first | rfl | cases hp) hw k

theorem Frame.set_compat {v0} (hw : Piece.within [.compat] ps = true) (k : Frame ps s t) :
    Frame ps s { t with compat := v0 } :=
  Frame.step (qs := [.compat]) (fun p hp => by cases p <;> first | rfl | cases hp) hw k

theorem Frame.set_sram_sramBad {v0 v1} (hw : Piece.within [.sram, .sramBad] ps = true) (k : Frame ps s t) :
    Frame ps s { t with sram := v0, sramBad := v1 } :=
  Frame.step (qs := [.sram, .sramBad]) (fun p hp => by cases p <;> first | rfl | cases hp) hw k

theorem Frame.set_ftime_timeAcc {v0 v1} (hw : Piece.within [.ftime, .timeAcc] ps = true) (k : Frame ps s t) :
    Frame ps s { t with ftime := v0, timeAcc := v1 } :=
  Frame.step (qs := [.ftime, .timeAcc]) (fun p hp => by cases p <;> first | rfl | cases hp) hw k

theorem Frame.set_hostOut_bar4 {v0 v1} (hw : Piece.within [.hostOut, .bar4] ps = true) (k : Frame ps s t) :
    Frame ps s { t with hostOut := v0, bar4 := v1 } :=
  Frame.step (qs := [.hostOut, .bar4]) (fun p hp => by cases p <;> first | rfl | cases hp) hw k

theorem Frame.set_hostOut_hostReads {v0 v1} (hw : Piece.within [.hostOut, .hostReads] ps = true) (k : Frame ps s t) :
    Frame ps s { t with hostOut := v0, hostReads := v1 } :=
  Frame.step (qs := [.hostOut, .hostReads]) (fun p hp => by cases p <;> first | rfl | cases hp) hw k

theorem Frame.set_strap_flt {v0 v1} (hw : Piece.within [.strap, .flt] ps = true) (k : Frame ps s t) :
    Frame ps s { t with strap := v0, flt := v1 } :=
  Frame.step (qs := [.strap, .flt]) (fun p hp => by cases p <;> first | rfl | cases hp) hw k

theorem Frame.set_hbm_sec {v0 v1} (hw : Piece.within [.hbm, .sec] ps = true) (k : Frame ps s t) :
    Frame ps s { t with hbm := v0, sec := v1 } :=
  Frame.step (qs := [.hbm, .sec]) (fun p hp => by cases p <;> first | rfl | cases hp) hw k

theorem Frame.set_fab_fe {v0 v1} (hw : Piece.within [.fab, .fe] ps = true) (k : Frame ps s t) :
    Frame ps s { t with fab := v0, fe := v1 } :=
  Frame.step (qs := [.fab, .fe]) (fun p hp => by cases p <;> first | rfl | cases hp) hw k

theorem Frame.set_fab_boot {v0 v1} (hw : Piece.within [.fab, .boot] ps = true) (k : Frame ps s t) :
    Frame ps s { t with fab := v0, boot := v1 } :=
  Frame.step (qs := [.fab, .boot]) (fun p hp => by cases p <;> first | rfl | cases hp) hw k

theorem Frame.set_fab_hostReads {v0 v1} (hw : Piece.within [.fab, .hostReads] ps = true) (k : Frame ps s t) :
    Frame ps s { t with fab := v0, hostReads := v1 } :=
  Frame.step (qs := [.fab, .hostReads]) (fun p hp => by cases p <;> first | rfl | cases hp) hw k

theorem Frame.set_bme_mse {v0 v1} (hw : Piece.within [.bme, .mse] ps = true) (k : Frame ps s t) :
    Frame ps s { t with bme := v0, mse := v1 } :=
  Frame.step (qs := [.bme, .mse]) (fun p hp => by cases p <;> first | rfl | cases hp) hw k

theorem Frame.set_fe_tr {v0 v1} (hw : Piece.within [.fe, .tr] ps = true) (k : Frame ps s t) :
    Frame ps s { t with fe := v0, tr := v1 } :=
  Frame.step (qs := [.fe, .tr]) (fun p hp => by cases p <;> first | rfl | cases hp) hw k

theorem Frame.set_fe_flt {v0 v1} (hw : Piece.within [.fe, .flt] ps = true) (k : Frame ps s t) :
    Frame ps s { t with fe := v0, flt := v1 } :=
  Frame.step (qs := [.fe, .flt]) (fun p hp => by cases p <;> first | rfl | cases hp) hw k

theorem Frame.set_pw_mgmt {v0 v1} (hw : Piece.within [.pw, .mgmt] ps = true) (k : Frame ps s t) :
    Frame ps s { t with pw := v0, mgmt := v1 } :=
  Frame.step (qs := [.pw, .mgmt]) (fun p hp => by cases p <;> first | rfl | cases hp) hw k

theorem Frame.set_flt_boot {v0 v1} (hw : Piece.within [.flt, .boot] ps = true) (k : Frame ps s t) :
    Frame ps s { t with flt := v0, boot := v1 } :=
  Frame.step (qs := [.flt, .boot]) (fun p hp => by cases p <;> first | rfl | cases hp) hw k

theorem Frame.set_boot_mgmt {v0 v1} (hw : Piece.within [.boot, .mgmt] ps = true) (k : Frame ps s t) :
    Frame ps s { t with boot := v0, mgmt := v1 } :=
  Frame.step (qs := [.boot, .mgmt]) (fun p hp => by cases p <;> first | rfl | cases hp) hw k

theorem Frame.set_fls_sram_sramBad {v0 v1 v2} (hw : Piece.within [.fls, .sram, .sramBad] ps = true) (k : Frame ps s t) :
    Frame ps s { t with fls := v0, sram := v1, sramBad := v2 } :=
  Frame.step (qs := [.fls, .sram, .sramBad]) (fun p hp => by cases p <;> first | rfl | cases hp) hw k

theorem Frame.set_sram_sramBad_freeCtr {v0 v1 v2} (hw : Piece.within [.sram, .sramBad, .freeCtr] ps = true) (k : Frame ps s t) :
    Frame ps s { t with sram := v0, sramBad := v1, freeCtr := v2 } :=
  Frame.step (qs := [.sram, .sramBad, .freeCtr]) (fun p hp => by cases p <;> first | rfl | cases hp) hw k

theorem Frame.set_ftime_timeAcc_boot {v0 v1 v2} (hw : Piece.within [.ftime, .timeAcc, .boot] ps = true) (k : Frame ps s t) :
    Frame ps s { t with ftime := v0, timeAcc := v1, boot := v2 } :=
  Frame.step (qs := [.ftime, .timeAcc, .boot]) (fun p hp => by cases p <;> first | rfl | cases hp) hw k

theorem Frame.set_hostOut_bme_mse {v0 v1 v2} (hw : Piece.within [.hostOut, .bme, .mse] ps = true) (k : Frame ps s t) :
    Frame ps s { t with hostOut := v0, bme := v1, mse := v2 } :=
  Frame.step (qs := [.hostOut, .bme, .mse]) (fun p hp => by cases p <;> first | rfl | cases hp) hw k

theorem Frame.set_hbm_sec_boot {v0 v1 v2} (hw : Piece.within [.hbm, .sec, .boot] ps = true) (k : Frame ps s t) :
    Frame ps s { t with hbm := v0, sec := v1, boot := v2 } :=
  Frame.step (qs := [.hbm, .sec, .boot]) (fun p hp => by cases p <;> first | rfl | cases hp) hw k

theorem Frame.set_bme_boot_mse {v0 v1 v2} (hw : Piece.within [.bme, .boot, .mse] ps = true) (k : Frame ps s t) :
    Frame ps s { t with bme := v0, boot := v1, mse := v2 } :=
  Frame.step (qs := [.bme, .boot, .mse]) (fun p hp => by cases p <;> first | rfl | cases hp) hw k

theorem Frame.set_regs_latch_cnt64_logPtr {v0 v1 v2 v3} (hw : Piece.within [.regs, .latch, .cnt64, .logPtr] ps = true) (k : Frame ps s t) :
    Frame ps s { t with regs := v0, latch := v1, cnt64 := v2, logPtr := v3 } :=
  Frame.step (qs := [.regs, .latch, .cnt64, .logPtr]) (fun p hp => by cases p <;> first | rfl | cases hp) hw k

theorem Frame.set_fls_ums_sram_sramBad {v0 v1 v2 v3} (hw : Piece.within [.fls, .ums, .sram, .sramBad] ps = true) (k : Frame ps s t) :
    Frame ps s { t with fls := v0, ums := v1, sram := v2, sramBad := v3 } :=
  Frame.step (qs := [.fls, .ums, .sram, .sramBad]) (fun p hp => by cases p <;> first | rfl | cases hp) hw k

theorem Frame.set_deviceReset {v0 v1 v2 v3 v4 v5 v6 v7 v8 v9 v10 v11 v12 v13 v14 v15 v16} (hw : Piece.within [.regs, .latch, .cnt64, .fls, .ums, .hbm, .fab, .logPtr, .timeAcc, .fe, .tr, .pw, .flt, .sec, .snap, .compat, .hostReads] ps = true) (k : Frame ps s t) :
    Frame ps s { t with regs := v0, latch := v1, cnt64 := v2, fls := v3, ums := v4, hbm := v5, fab := v6, logPtr := v7, timeAcc := v8, fe := v9, tr := v10, pw := v11, flt := v12, sec := v13, snap := v14, compat := v15, hostReads := v16 } :=
  Frame.step (qs := [.regs, .latch, .cnt64, .fls, .ums, .hbm, .fab, .logPtr, .timeAcc, .fe, .tr, .pw, .flt, .sec, .snap, .compat, .hostReads]) (fun p hp => by cases p <;> first | rfl | cases hp) hw k

theorem Frame.set_aonReset {v0 v1 v2 v3 v4 v5 v6 v7 v8 v9 v10 v11 v12 v13 v14 v15 v16 v17 v18 v19 v20 v21 v22 v23 v24 v25 v26} (hw : Piece.within [.regs, .latch, .cnt64, .fls, .ums, .sram, .sramBad, .ftime, .reports, .strap, .hbm, .fab, .logPtr, .timeAcc, .bme, .fe, .tr, .pw, .flt, .sec, .snap, .boot, .mgmt, .compat, .mse, .bar4, .hostReads] ps = true) (k : Frame ps s t) :
    Frame ps s { t with regs := v0, latch := v1, cnt64 := v2, fls := v3, ums := v4, sram := v5, sramBad := v6, ftime := v7, reports := v8, strap := v9, hbm := v10, fab := v11, logPtr := v12, timeAcc := v13, bme := v14, fe := v15, tr := v16, pw := v17, flt := v18, sec := v19, snap := v20, boot := v21, mgmt := v22, compat := v23, mse := v24, bar4 := v25, hostReads := v26 } :=
  Frame.step (qs := [.regs, .latch, .cnt64, .fls, .ums, .sram, .sramBad, .ftime, .reports, .strap, .hbm, .fab, .logPtr, .timeAcc, .bme, .fe, .tr, .pw, .flt, .sec, .snap, .boot, .mgmt, .compat, .mse, .bar4, .hostReads]) (fun p hp => by cases p <;> first | rfl | cases hp) hw k

theorem Keeps.set_cnt64 {v0} (k : Keeps s t) : Keeps s { t with cnt64 := v0 } :=
  k.trans (Keeps.of_pieces id id id)

theorem Keeps.set_sram {v0 : Memory} (hsram : t.sram.wf = true → v0.wf = true)
    (k : Keeps s t) : Keeps s { t with sram := v0 } :=
  k.trans (Keeps.of_pieces hsram id id)

theorem Keeps.set_reports {v0} (k : Keeps s t) : Keeps s { t with reports := v0 } :=
  k.trans (Keeps.of_pieces id id id)

theorem Keeps.set_hostOut {v0} (k : Keeps s t) : Keeps s { t with hostOut := v0 } :=
  k.trans (Keeps.of_pieces id id id)

theorem Keeps.set_freeCtr {v0} (k : Keeps s t) : Keeps s { t with freeCtr := v0 } :=
  k.trans (Keeps.of_pieces id id id)

theorem Keeps.set_hbm {v0 : Hbm} (hhbm : t.hbm.data.wf = true → v0.data.wf = true)
    (k : Keeps s t) : Keeps s { t with hbm := v0 } :=
  k.trans (Keeps.of_pieces id hhbm id)

theorem Keeps.set_fab {v0} (k : Keeps s t) : Keeps s { t with fab := v0 } :=
  k.trans (Keeps.of_pieces id id id)

theorem Keeps.set_fe {v0} (k : Keeps s t) : Keeps s { t with fe := v0 } :=
  k.trans (Keeps.of_pieces id id id)

theorem Keeps.set_flt {v0} (k : Keeps s t) : Keeps s { t with flt := v0 } :=
  k.trans (Keeps.of_pieces id id id)

theorem Keeps.set_boot {v0} (k : Keeps s t) : Keeps s { t with boot := v0 } :=
  k.trans (Keeps.of_pieces id id id)

theorem Keeps.set_sram_sramBad {v0 : Memory} {v1} (hsram : t.sram.wf = true → v0.wf = true)
    (k : Keeps s t) : Keeps s { t with sram := v0, sramBad := v1 } :=
  k.trans (Keeps.of_pieces hsram id id)

theorem Keeps.set_hostOut_bar4 {v0 v1} (k : Keeps s t) : Keeps s { t with hostOut := v0, bar4 := v1 } :=
  k.trans (Keeps.of_pieces id id id)

theorem Keeps.set_hostOut_hostReads {v0 v1} (k : Keeps s t) : Keeps s { t with hostOut := v0, hostReads := v1 } :=
  k.trans (Keeps.of_pieces id id id)

theorem Keeps.set_strap_flt {v0 v1} (k : Keeps s t) : Keeps s { t with strap := v0, flt := v1 } :=
  k.trans (Keeps.of_pieces id id id)

theorem Keeps.set_hbm_sec {v0 : Hbm} {v1} (hhbm : t.hbm.data.wf = true → v0.data.wf = true)
    (k : Keeps s t) : Keeps s { t with hbm := v0, sec := v1 } :=
  k.trans (Keeps.of_pieces id hhbm id)

theorem Keeps.set_bme_mse {v0 v1} (k : Keeps s t) : Keeps s { t with bme := v0, mse := v1 } :=
  k.trans (Keeps.of_pieces id id id)

theorem Keeps.set_fe_flt {v0 v1} (k : Keeps s t) : Keeps s { t with fe := v0, flt := v1 } :=
  k.trans (Keeps.of_pieces id id id)

theorem Keeps.set_fls_sram_sramBad {v0} {v1 : Memory} {v2} (hsram : t.sram.wf = true → v1.wf = true)
    (k : Keeps s t) : Keeps s { t with fls := v0, sram := v1, sramBad := v2 } :=
  k.trans (Keeps.of_pieces hsram id id)

theorem Keeps.set_sram_sramBad_freeCtr {v0 : Memory} {v1} {v2} (hsram : t.sram.wf = true → v0.wf = true)
    (k : Keeps s t) : Keeps s { t with sram := v0, sramBad := v1, freeCtr := v2 } :=
  k.trans (Keeps.of_pieces hsram id id)

theorem Keeps.set_hostOut_bme_mse {v0 v1 v2} (k : Keeps s t) : Keeps s { t with hostOut := v0, bme := v1, mse := v2 } :=
  k.trans (Keeps.of_pieces id id id)

theorem Keeps.set_hbm_sec_boot {v0 : Hbm} {v1} {v2} (hhbm : t.hbm.data.wf = true → v0.data.wf = true)
    (k : Keeps s t) : Keeps s { t with hbm := v0, sec := v1, boot := v2 } :=
  k.trans (Keeps.of_pieces id hhbm id)

theorem Keeps.set_bme_boot_mse {v0 v1 v2} (k : Keeps s t) : Keeps s { t with bme := v0, boot := v1, mse := v2 } :=
  k.trans (Keeps.of_pieces id id id)

theorem Keeps.set_fls_ums_sram_sramBad {v0} {v1} {v2 : Memory} {v3} (hsram : t.sram.wf = true → v2.wf = true)
    (k : Keeps s t) : Keeps s { t with fls := v0, ums := v1, sram := v2, sramBad := v3 } :=
  k.trans (Keeps.of_pieces hsram id id)

theorem Keeps.set_deviceReset {v0} {v1} {v2} {v3} {v4} {v5 : Hbm} {v6} {v7} {v8} {v9} {v10} {v11} {v12} {v13} {v14} {v15} {v16} (hhbm : t.hbm.data.wf = true → v5.data.wf = true)
    (k : Keeps s t) : Keeps s { t with regs := v0, latch := v1, cnt64 := v2, fls := v3, ums := v4, hbm := v5, fab := v6, logPtr := v7, timeAcc := v8, fe := v9, tr := v10, pw := v11, flt := v12, sec := v13, snap := v14, compat := v15, hostReads := v16 } :=
  k.trans (Keeps.of_pieces id hhbm id)

theorem Frame.set_hostMem_hostOut_hostReads {v0 v1 v2} (hw : Piece.within [.hostMem, .hostOut, .hostReads] ps = true) (k : Frame ps s t) :
    Frame ps s { t with hostMem := v0, hostOut := v1, hostReads := v2 } :=
  Frame.step (qs := [.hostMem, .hostOut, .hostReads]) (fun p hp => by cases p <;> first | rfl | cases hp) hw k

theorem Keeps.set_hostMem_hostOut_hostReads {v0 : Memory} {v1} {v2} (hhostMem : t.hostMem.wf = true → v0.wf = true)
    (k : Keeps s t) : Keeps s { t with hostMem := v0, hostOut := v1, hostReads := v2 } :=
  k.trans (Keeps.of_pieces id id hhostMem)

theorem Frame.set_hostMem_fe {v0 v1} (hw : Piece.within [.hostMem, .fe] ps = true) (k : Frame ps s t) :
    Frame ps s { t with hostMem := v0, fe := v1 } :=
  Frame.step (qs := [.hostMem, .fe]) (fun p hp => by cases p <;> first | rfl | cases hp) hw k

theorem Keeps.set_hostMem_fe {v0 : Memory} {v1} (hhostMem : t.hostMem.wf = true → v0.wf = true)
    (k : Keeps s t) : Keeps s { t with hostMem := v0, fe := v1 } :=
  k.trans (Keeps.of_pieces id id hhostMem)

theorem Frame.set_hostReads {v0} (hw : Piece.within [.hostReads] ps = true) (k : Frame ps s t) :
    Frame ps s { t with hostReads := v0 } :=
  Frame.step (qs := [.hostReads]) (fun p hp => by cases p <;> first | rfl | cases hp) hw k

theorem Keeps.set_hostReads {v0} (k : Keeps s t) : Keeps s { t with hostReads := v0 } :=
  k.trans (Keeps.of_pieces id id id)

theorem Keeps.set_ftime_timeAcc {v0} {v1} (k : Keeps s t) : Keeps s { t with ftime := v0, timeAcc := v1 } :=
  k.trans (Keeps.of_pieces id id id)

end Sys2Proof.Machine
end

