-- ==== Sys2Proof/Laws/Ops.lean ====
section
/-! SUPPORT. What each operation and each meaning of Machine/Ops.lean can change at most: the pieces of the state outside
its list stay as they are. -/

namespace Sys2Proof.Machine

theorem State.setFl_frame {s : State} {n : Nat} {x : Floret} :
    Frame [.fls] s (State.setFl s n x) := by
  unfold State.setFl
  refine Frame.set_fls rfl ?_
  exact .refl

theorem State.modFl_frame {s : State} {n : Nat} {f : Floret → Floret} :
    Frame [.fls] s (State.modFl s n f) := by
  unfold State.modFl
  refine Frame.step State.setFl_frame rfl ?_
  exact .refl

theorem State.setUm_frame {s : State} {u : Nat} {x : Umbel} :
    Frame [.ums] s (State.setUm s u x) := by
  unfold State.setUm
  refine Frame.set_ums rfl ?_
  exact .refl

theorem State.modUm_frame {s : State} {u : Nat} {f : Umbel → Umbel} :
    Frame [.ums] s (State.modUm s u f) := by
  unfold State.modUm
  refine Frame.step State.setUm_frame rfl ?_
  exact .refl

theorem State.setRaw_frame {s : State} {key : Nat} {v : W32} :
    Frame [.regs] s (State.setRaw s key v) := by
  unfold State.setRaw
  refine Frame.set_regs rfl ?_
  exact .refl

theorem State.setReg_frame {s : State} {b : Blk} {n : Nat} {off : Nat} {v : W32} :
    Frame [.regs] s (State.setReg s b n off v) := by
  unfold State.setReg
  refine Frame.step State.setRaw_frame rfl ?_
  exact .refl

theorem State.orReg_frame {s : State} {b : Blk} {n : Nat} {off : Nat} {v : W32} :
    Frame [.regs] s (State.orReg s b n off v) := by
  unfold State.orReg
  refine Frame.step State.setReg_frame rfl ?_
  exact .refl

theorem State.addReg_frame {s : State} {b : Blk} {n : Nat} {off : Nat} {v : Nat} :
    Frame [.regs] s (State.addReg s b n off v) := by
  unfold State.addReg
  refine Frame.step State.setReg_frame rfl ?_
  exact .refl

theorem State.setField_frame {s : State} {b : Blk} {n : Nat} {off : Nat} {hi : Nat} {lo : Nat} {v : Nat} :
    Frame [.regs] s (State.setField s b n off hi lo v) := by
  unfold State.setField
  refine Frame.step State.setReg_frame rfl ?_
  exact .refl

theorem State.cnt_frame {s : State} {b : Blk} {n : Nat} {off : Nat} {v : Nat} :
    Frame [.cnt64] s (State.cnt s b n off v) := by
  unfold State.cnt
  dsimp only
  refine Frame.set_cnt64 rfl ?_
  exact .refl

theorem State.refuseRead_frame {s : State} {len : Nat} :
    Frame [.hostOut] s (State.refuseRead s len) := by
  unfold State.refuseRead
  refine Frame.set_hostOut rfl ?_
  exact .refl

theorem State.msix_frame {s : State} {vec : Nat} :
    Frame [.regs, .hostOut] s (State.msix s vec) := by
  unfold State.msix
  dsimp only
  refine Frame.ite ?_ ?_
  · exact .refl
  · refine Frame.ite ?_ ?_
    · refine Frame.step State.setRaw_frame rfl ?_
      exact .refl
    · refine Frame.set_hostOut rfl ?_
      exact .refl

theorem State.event_frame {s : State} {b : Blk} {n : Nat} {e : Nat} :
    Frame [.regs, .hostOut] s (State.event s b n e) := by
  unfold State.event
  dsimp only
  refine Frame.ite ?_ ?_
  · refine Frame.step State.orReg_frame rfl ?_
    exact .refl
  · refine Frame.ite ?_ ?_
    · refine Frame.step State.msix_frame rfl ?_
      refine Frame.step State.orReg_frame rfl ?_
      refine Frame.step State.orReg_frame rfl ?_
      exact .refl
    · refine Frame.step State.orReg_frame rfl ?_
      refine Frame.step State.orReg_frame rfl ?_
      exact .refl

theorem State.sticky_frame {s : State} {b : Blk} {n : Nat} {off : Nat} {bit : Nat} {e : Option Nat} :
    Frame [.regs, .hostOut] s (State.sticky s b n off bit e) := by
  unfold State.sticky
  dsimp only
  split
  · refine Frame.step State.event_frame rfl ?_
    refine Frame.step State.orReg_frame rfl ?_
    exact .refl
  · refine Frame.step State.orReg_frame rfl ?_
    exact .refl

theorem State.stickies_frame {s : State} {b : Blk} {n : Nat} {off : Nat} {bits : W32} {evs : List (Nat × Nat)} :
    Frame [.regs, .hostOut] s (State.stickies s b n off bits evs) := by
  unfold State.stickies
  dsimp only
  refine Frame.trans ?_ (Frame.foldl (fun s x => ?_))
  · refine Frame.step State.orReg_frame rfl ?_
    exact .refl
  · refine Frame.ite ?_ ?_
    · refine Frame.step State.event_frame rfl ?_
      exact .refl
    · exact .refl

theorem State.fpFlags_frame {s : State} {n : Nat} {f : W32} :
    Frame [.regs, .hostOut] s (State.fpFlags s n f) := by
  unfold State.fpFlags
  refine Frame.step State.stickies_frame rfl ?_
  exact .refl

theorem State.logErr_frame {s : State} {b : Blk} {n : Nat} {code : Nat} {addr : Nat} {src : Nat} {info : Nat} :
    Frame [.regs, .logPtr] s (State.logErr s b n code addr src info) := by
  unfold State.logErr
  dsimp only
  refine Frame.set_logPtr rfl ?_
  refine Frame.step State.setReg_frame rfl ?_
  refine Frame.step State.setReg_frame rfl ?_
  refine Frame.step State.setReg_frame rfl ?_
  refine Frame.step State.setReg_frame rfl ?_
  refine Frame.ite ?_ ?_
  · refine Frame.step State.orReg_frame rfl ?_
    refine Frame.step State.setReg_frame rfl ?_
    exact .refl
  · refine Frame.step State.setReg_frame rfl ?_
    exact .refl

theorem State.report_frame {s : State} {code : Nat} {src : Nat} {addr : Nat} {info : Nat} :
    Frame [.reports] s (State.report s code src addr info) := by
  unfold State.report
  refine Frame.set_reports rfl ?_
  exact .refl

theorem State.fresh_frame {s : State} :
    Frame [.freeCtr] s (State.fresh s).2 := by
  unfold State.fresh
  dsimp only
  refine Frame.set_freeCtr rfl ?_
  exact .refl

theorem State.addrErr_frame {s : State} {q : Req} {addr : Nat} {write : Bool} :
    Frame [.regs, .logPtr] s (State.addrErr s q addr write) := by
  unfold State.addrErr
  refine Frame.step State.logErr_frame rfl ?_
  exact .refl

end Sys2Proof.Machine
end

