-- ==== Sys2Proof/Laws/Hbm.lean ====
section
/-! SUPPORT. What each operation and each meaning of Machine/Hbm.lean can change at most: the pieces of the state outside
its list stay as they are. -/

namespace Sys2Proof.Machine

theorem State.setStk_frame {s : State} {k : Nat} {x : Stack} :
    Frame [.hbm] s (State.setStk s k x) := by
  unfold State.setStk
  refine Frame.set_hbm rfl ?_
  exact .refl

theorem State.stkTouch_frame {s : State} {k : Nat} :
    Frame [.hbm] s (State.stkTouch s k) := by
  unfold State.stkTouch
  refine Frame.step State.setStk_frame rfl ?_
  exact .refl

theorem State.hbmBytes_frame {s : State} {p : Nat} {wr : Bool} :
    Frame [.cnt64, .hbm] s (State.hbmBytes s p wr) := by
  unfold State.hbmBytes
  dsimp only
  refine Frame.set_cnt64 rfl ?_
  refine Frame.step State.cnt_frame rfl ?_
  refine Frame.step State.stkTouch_frame rfl ?_
  exact .refl

theorem State.carveHit_frame {s : State} {k : Nat} :
    Frame [.regs, .reports, .hostOut] s (State.carveHit s k) := by
  unfold State.carveHit
  refine Frame.ite ?_ ?_
  · refine Frame.step State.report_frame rfl ?_
    refine Frame.step State.sticky_frame rfl ?_
    exact .refl
  · exact .refl

theorem State.startRetire_frame {s : State} {c : Nat} :
    Frame [.regs, .reports, .hostOut, .hbm] s (State.startRetire s c) := by
  unfold State.startRetire
  dsimp only
  refine Frame.step State.carveHit_frame rfl ?_
  refine Frame.step State.sticky_frame rfl ?_
  refine Frame.step State.setReg_frame rfl ?_
  refine Frame.set_hbm rfl ?_
  exact .refl

theorem State.chanFails_frame {s : State} {c : Nat} :
    Frame [.regs, .reports, .hostOut, .hbm] s (State.chanFails s c) := by
  unfold State.chanFails
  refine Frame.ite ?_ ?_
  · exact .refl
  · refine Frame.ite ?_ ?_
    · refine Frame.step State.startRetire_frame rfl ?_
      exact .refl
    · dsimp only
      refine Frame.step State.report_frame rfl ?_
      refine Frame.step State.sticky_frame rfl ?_
      refine Frame.set_hbm rfl ?_
      exact .refl

theorem State.chanUe_frame {s : State} {c : Nat} :
    Frame [.regs, .reports, .hostOut, .hbm] s (State.chanUe s c) := by
  unfold State.chanUe
  dsimp only
  refine Frame.ite ?_ ?_
  · refine Frame.step State.chanFails_frame rfl ?_
    refine Frame.set_hbm rfl ?_
    exact .refl
  · refine Frame.set_hbm rfl ?_
    exact .refl

theorem State.chanCe_frame {s : State} {c : Nat} :
    Frame [.regs, .reports, .hostOut, .hbm] s (State.chanCe s c) := by
  unfold State.chanCe
  dsimp only
  refine Frame.ite ?_ ?_
  · refine Frame.step State.chanFails_frame rfl ?_
    refine Frame.set_hbm rfl ?_
    exact .refl
  · refine Frame.set_hbm rfl ?_
    exact .refl

theorem State.countCe_frame {s : State} {a : Nat} {p : Nat} :
    Frame [.regs, .reports, .hostOut, .hbm] s (State.countCe s a p) := by
  unfold State.countCe
  dsimp only
  refine Frame.step State.chanCe_frame rfl ?_
  refine Frame.step State.sticky_frame rfl ?_
  refine Frame.step State.setReg_frame rfl ?_
  refine Frame.step State.addReg_frame rfl ?_
  exact .refl

theorem State.countUe_frame {s : State} {q : Req} {a : Nat} {p : Nat} :
    Frame [.regs, .reports, .hostOut, .hbm, .logPtr] s (State.countUe s q a p) := by
  unfold State.countUe
  dsimp only
  refine Frame.step State.chanUe_frame rfl ?_
  refine Frame.step State.sticky_frame rfl ?_
  refine Frame.step State.logErr_frame rfl ?_
  refine Frame.step State.addReg_frame rfl ?_
  exact .refl

theorem State.countTag_frame {s : State} {q : Req} {a : Nat} {p : Nat} :
    Frame [.regs, .hostOut, .logPtr] s (State.countTag s q a p) := by
  unfold State.countTag
  dsimp only
  refine Frame.step State.sticky_frame rfl ?_
  refine Frame.step State.logErr_frame rfl ?_
  refine Frame.step State.addReg_frame rfl ?_
  exact .refl

theorem State.putPhys_frame {s : State} {a : Nat} {p : Nat} {l : Line} {poison : Bool} :
    Frame [.hbm] s (State.putPhys s a p l poison) := by
  unfold State.putPhys
  refine Frame.set_hbm rfl ?_
  exact .refl

theorem State.putPoison_frame {s : State} {a : Nat} {p : Nat} :
    Frame [.hbm] s (State.putPoison s a p) := by
  unfold State.putPoison
  dsimp only
  refine Frame.ite ?_ ?_
  · refine Frame.step State.putPhys_frame rfl ?_
    exact .refl
  · refine Frame.step State.putPhys_frame rfl ?_
    refine Frame.step State.putPhys_frame rfl ?_
    exact .refl

theorem State.decodeLine_frame {s : State} {q : Req} {a : Nat} {p : Nat} {e : Ecc} :
    Frame [.regs, .reports, .hostOut, .hbm, .logPtr] s (State.decodeLine s q a p e).2 := by
  unfold State.decodeLine
  dsimp only
  split
  · dsimp only
    exact .refl
  · split
    · dsimp only
      refine Frame.ite ?_ ?_
      · exact .refl
      · refine Frame.step State.countTag_frame rfl ?_
        exact .refl
    · dsimp only
      refine Frame.ite ?_ ?_
      · refine Frame.step State.countCe_frame rfl ?_
        exact .refl
      · refine Frame.step State.countTag_frame rfl ?_
        exact .refl
    · dsimp only
      refine Frame.ite ?_ ?_
      · refine Frame.step State.countCe_frame rfl ?_
        refine Frame.step State.addReg_frame rfl ?_
        exact .refl
      · refine Frame.step State.countTag_frame rfl ?_
        refine Frame.step State.addReg_frame rfl ?_
        exact .refl
    · dsimp only
      refine Frame.step State.putPoison_frame rfl ?_
      refine Frame.step State.countUe_frame rfl ?_
      refine Frame.step State.addReg_frame rfl ?_
      exact .refl
    · dsimp only
      refine Frame.step State.countTag_frame rfl ?_
      exact .refl

theorem State.physRead_frame {s : State} {q : Req} {a : Nat} {p : Nat} {e : Ecc} :
    Frame [.regs, .cnt64, .reports, .hostOut, .hbm, .logPtr] s (State.physRead s q a p e).2 := by
  unfold State.physRead
  dsimp only
  refine Frame.step State.decodeLine_frame rfl ?_
  refine Frame.trans ?_ (Frame.foldl (fun s x => ?_))
  · exact .refl
  · refine Frame.step State.hbmBytes_frame rfl ?_
    exact .refl

theorem State.hbmRead_frame {s : State} {q : Req} {a : Nat} {e : Ecc} :
    Frame [.regs, .cnt64, .reports, .hostOut, .hbm, .logPtr] s (State.hbmRead s q a e).2 := by
  unfold State.hbmRead
  refine Frame.step State.physRead_frame rfl ?_
  exact .refl

theorem State.hbmReadInt_frame {s : State} {k : Nat} {a : Nat} {e : Ecc} :
    Frame [.regs, .cnt64, .reports, .hostOut, .hbm, .logPtr] s (State.hbmReadInt s k a e).2 := by
  unfold State.hbmReadInt
  dsimp only
  split
  · dsimp only
    refine Frame.step State.addrErr_frame rfl ?_
    exact .refl
  · split
    · refine Frame.step State.decodeLine_frame rfl ?_
      refine Frame.step State.cnt_frame rfl ?_
      refine Frame.step State.stkTouch_frame rfl ?_
      exact .refl
    · refine Frame.step State.physRead_frame rfl ?_
      exact .refl

theorem State.hbmWrite_frame {s : State} {a : Nat} {l : Line} {poison : Bool} :
    Frame [.cnt64, .hbm] s (State.hbmWrite s a l poison) := by
  unfold State.hbmWrite
  dsimp only
  refine Frame.ite ?_ ?_
  · refine Frame.step State.putPhys_frame rfl ?_
    refine Frame.step State.hbmBytes_frame rfl ?_
    exact .refl
  · refine Frame.step State.putPhys_frame rfl ?_
    refine Frame.step State.hbmBytes_frame rfl ?_
    refine Frame.step State.putPhys_frame rfl ?_
    refine Frame.step State.hbmBytes_frame rfl ?_
    exact .refl

theorem State.hbmPartial_frame {s : State} {q : Req} {a : Nat} {mask : Nat} {l : Line} {poison : Bool} {e : Ecc} :
    Frame [.regs, .cnt64, .reports, .hostOut, .hbm, .logPtr] s (State.hbmPartial s q a mask l poison e) := by
  unfold State.hbmPartial
  dsimp only
  refine Frame.ite ?_ ?_
  · refine Frame.step State.sticky_frame rfl ?_
    refine Frame.step State.logErr_frame rfl ?_
    refine Frame.step State.addReg_frame rfl ?_
    refine Frame.step State.hbmWrite_frame rfl ?_
    refine Frame.step State.hbmRead_frame rfl ?_
    exact .refl
  · refine Frame.step State.hbmWrite_frame rfl ?_
    refine Frame.step State.hbmRead_frame rfl ?_
    exact .refl

theorem State.hbmWriteInt_frame {s : State} {k : Nat} {a : Nat} {l : Line} {poison : Bool} :
    Frame [.regs, .cnt64, .hbm, .logPtr] s (State.hbmWriteInt s k a l poison) := by
  unfold State.hbmWriteInt
  refine Frame.ite ?_ ?_
  · refine Frame.step State.addrErr_frame rfl ?_
    exact .refl
  · refine Frame.step State.hbmWrite_frame rfl ?_
    exact .refl

theorem State.hbmPutN_frame {s : State} {q : Req} {n : Nat} {a : Nat} {v : Nat} :
    Frame [.regs, .cnt64, .reports, .hostOut, .hbm, .logPtr] s (State.hbmPutN s q n a v) := by
  unfold State.hbmPutN
  dsimp only
  refine Frame.ite ?_ ?_
  · refine Frame.step State.addrErr_frame rfl ?_
    exact .refl
  · refine Frame.step State.hbmPartial_frame rfl ?_
    exact .refl

theorem State.setStk_keeps {s : State} {k : Nat} {x : Stack} : Keeps s (State.setStk s k x) := by
  unfold State.setStk
  refine Keeps.set_hbm id ?_
  exact .refl

theorem State.stkTouch_keeps {s : State} {k : Nat} : Keeps s (State.stkTouch s k) := by
  unfold State.stkTouch
  refine Keeps.trans ?_ State.setStk_keeps
  exact .refl

theorem State.hbmBytes_keeps {s : State} {p : Nat} {wr : Bool} : Keeps s (State.hbmBytes s p wr) := by
  unfold State.hbmBytes
  dsimp only
  refine Keeps.set_cnt64 ?_
  refine Keeps.frame State.cnt_frame rfl ?_
  refine Keeps.trans ?_ State.stkTouch_keeps
  exact .refl

theorem State.startRetire_keeps {s : State} {c : Nat} : Keeps s (State.startRetire s c) := by
  unfold State.startRetire
  dsimp only
  refine Keeps.frame State.carveHit_frame rfl ?_
  refine Keeps.frame State.sticky_frame rfl ?_
  refine Keeps.frame State.setReg_frame rfl ?_
  refine Keeps.set_hbm id ?_
  exact .refl

theorem State.chanFails_keeps {s : State} {c : Nat} : Keeps s (State.chanFails s c) := by
  unfold State.chanFails
  refine Keeps.ite ?_ ?_
  · exact .refl
  · refine Keeps.ite ?_ ?_
    · refine Keeps.trans ?_ State.startRetire_keeps
      exact .refl
    · dsimp only
      refine Keeps.frame State.report_frame rfl ?_
      refine Keeps.frame State.sticky_frame rfl ?_
      refine Keeps.set_hbm id ?_
      exact .refl

theorem State.chanUe_keeps {s : State} {c : Nat} : Keeps s (State.chanUe s c) := by
  unfold State.chanUe
  dsimp only
  refine Keeps.ite ?_ ?_
  · refine Keeps.trans ?_ State.chanFails_keeps
    refine Keeps.set_hbm id ?_
    exact .refl
  · refine Keeps.set_hbm id ?_
    exact .refl

theorem State.chanCe_keeps {s : State} {c : Nat} : Keeps s (State.chanCe s c) := by
  unfold State.chanCe
  dsimp only
  refine Keeps.ite ?_ ?_
  · refine Keeps.trans ?_ State.chanFails_keeps
    refine Keeps.set_hbm id ?_
    exact .refl
  · refine Keeps.set_hbm id ?_
    exact .refl

theorem State.countCe_keeps {s : State} {a : Nat} {p : Nat} : Keeps s (State.countCe s a p) := by
  unfold State.countCe
  dsimp only
  refine Keeps.trans ?_ State.chanCe_keeps
  refine Keeps.frame State.sticky_frame rfl ?_
  refine Keeps.frame State.setReg_frame rfl ?_
  refine Keeps.frame State.addReg_frame rfl ?_
  exact .refl

theorem State.countUe_keeps {s : State} {q : Req} {a : Nat} {p : Nat} : Keeps s (State.countUe s q a p) := by
  unfold State.countUe
  dsimp only
  refine Keeps.trans ?_ State.chanUe_keeps
  refine Keeps.frame State.sticky_frame rfl ?_
  refine Keeps.frame State.logErr_frame rfl ?_
  refine Keeps.frame State.addReg_frame rfl ?_
  exact .refl

theorem State.putPhys_keeps {s : State} {a : Nat} {p : Nat} {l : Line} {poison : Bool} : Keeps s (State.putPhys s a p l poison) := by
  unfold State.putPhys
  refine Keeps.set_hbm Memory.writeLine_wf ?_
  exact .refl

theorem State.putPoison_keeps {s : State} {a : Nat} {p : Nat} : Keeps s (State.putPoison s a p) := by
  unfold State.putPoison
  dsimp only
  refine Keeps.ite ?_ ?_
  · refine Keeps.trans ?_ State.putPhys_keeps
    exact .refl
  · refine Keeps.trans ?_ State.putPhys_keeps
    refine Keeps.trans ?_ State.putPhys_keeps
    exact .refl

theorem State.decodeLine_keeps {s : State} {q : Req} {a : Nat} {p : Nat} {e : Ecc} : Keeps s (State.decodeLine s q a p e).2 := by
  unfold State.decodeLine
  dsimp only
  split
  · dsimp only
    exact .refl
  · split
    · dsimp only
      refine Keeps.ite ?_ ?_
      · exact .refl
      · refine Keeps.frame State.countTag_frame rfl ?_
        exact .refl
    · dsimp only
      refine Keeps.ite ?_ ?_
      · refine Keeps.trans ?_ State.countCe_keeps
        exact .refl
      · refine Keeps.frame State.countTag_frame rfl ?_
        exact .refl
    · dsimp only
      refine Keeps.ite ?_ ?_
      · refine Keeps.trans ?_ State.countCe_keeps
        refine Keeps.frame State.addReg_frame rfl ?_
        exact .refl
      · refine Keeps.frame State.countTag_frame rfl ?_
        refine Keeps.frame State.addReg_frame rfl ?_
        exact .refl
    · dsimp only
      refine Keeps.trans ?_ State.putPoison_keeps
      refine Keeps.trans ?_ State.countUe_keeps
      refine Keeps.frame State.addReg_frame rfl ?_
      exact .refl
    · dsimp only
      refine Keeps.frame State.countTag_frame rfl ?_
      exact .refl

theorem State.physRead_keeps {s : State} {q : Req} {a : Nat} {p : Nat} {e : Ecc} : Keeps s (State.physRead s q a p e).2 := by
  unfold State.physRead
  dsimp only
  refine Keeps.trans ?_ State.decodeLine_keeps
  refine Keeps.trans ?_ (Keeps.foldl (fun s x => ?_))
  · exact .refl
  · refine Keeps.trans ?_ State.hbmBytes_keeps
    exact .refl

theorem State.hbmRead_keeps {s : State} {q : Req} {a : Nat} {e : Ecc} : Keeps s (State.hbmRead s q a e).2 := by
  unfold State.hbmRead
  refine Keeps.trans ?_ State.physRead_keeps
  exact .refl

theorem State.hbmReadInt_keeps {s : State} {k : Nat} {a : Nat} {e : Ecc} : Keeps s (State.hbmReadInt s k a e).2 := by
  unfold State.hbmReadInt
  dsimp only
  split
  · dsimp only
    refine Keeps.frame State.addrErr_frame rfl ?_
    exact .refl
  · split
    · refine Keeps.trans ?_ State.decodeLine_keeps
      refine Keeps.frame State.cnt_frame rfl ?_
      refine Keeps.trans ?_ State.stkTouch_keeps
      exact .refl
    · refine Keeps.trans ?_ State.physRead_keeps
      exact .refl

theorem State.hbmWrite_keeps {s : State} {a : Nat} {l : Line} {poison : Bool} : Keeps s (State.hbmWrite s a l poison) := by
  unfold State.hbmWrite
  dsimp only
  refine Keeps.ite ?_ ?_
  · refine Keeps.trans ?_ State.putPhys_keeps
    refine Keeps.trans ?_ State.hbmBytes_keeps
    exact .refl
  · refine Keeps.trans ?_ State.putPhys_keeps
    refine Keeps.trans ?_ State.hbmBytes_keeps
    refine Keeps.trans ?_ State.putPhys_keeps
    refine Keeps.trans ?_ State.hbmBytes_keeps
    exact .refl

theorem State.hbmPartial_keeps {s : State} {q : Req} {a : Nat} {mask : Nat} {l : Line} {poison : Bool} {e : Ecc} : Keeps s (State.hbmPartial s q a mask l poison e) := by
  unfold State.hbmPartial
  dsimp only
  refine Keeps.ite ?_ ?_
  · refine Keeps.frame State.sticky_frame rfl ?_
    refine Keeps.frame State.logErr_frame rfl ?_
    refine Keeps.frame State.addReg_frame rfl ?_
    refine Keeps.trans ?_ State.hbmWrite_keeps
    refine Keeps.trans ?_ State.hbmRead_keeps
    exact .refl
  · refine Keeps.trans ?_ State.hbmWrite_keeps
    refine Keeps.trans ?_ State.hbmRead_keeps
    exact .refl

theorem State.hbmWriteInt_keeps {s : State} {k : Nat} {a : Nat} {l : Line} {poison : Bool} : Keeps s (State.hbmWriteInt s k a l poison) := by
  unfold State.hbmWriteInt
  refine Keeps.ite ?_ ?_
  · refine Keeps.frame State.addrErr_frame rfl ?_
    exact .refl
  · refine Keeps.trans ?_ State.hbmWrite_keeps
    exact .refl

theorem State.hbmPutN_keeps {s : State} {q : Req} {n : Nat} {a : Nat} {v : Nat} : Keeps s (State.hbmPutN s q n a v) := by
  unfold State.hbmPutN
  dsimp only
  refine Keeps.ite ?_ ?_
  · refine Keeps.frame State.addrErr_frame rfl ?_
    exact .refl
  · refine Keeps.trans ?_ State.hbmPartial_keeps
    exact .refl

end Sys2Proof.Machine
end

