-- ==== Sys2Proof/Laws/FabOps.lean ====
section
/-! SUPPORT. What each operation and each meaning of Machine/FabOps.lean can change at most: the pieces of the state outside
its list stay as they are. -/

namespace Sys2Proof.Machine

theorem State.setLink_frame {s : State} {l : Nat} {x : Link} :
    Frame [.fab] s (State.setLink s l x) := by
  unfold State.setLink
  refine Frame.set_fab rfl ?_
  exact .refl

theorem State.setFab_frame {s : State} {f : Fabric} :
    Frame [.fab] s (State.setFab s f) := by
  unfold State.setFab
  refine Frame.set_fab rfl ?_
  exact .refl

theorem State.pickFirst_frame {s : State} {dev : Nat} {a : Nat} {adapt : Bool} :
    Frame [.freeCtr] s (State.pickFirst s dev a adapt).2 := by
  unfold State.pickFirst
  split
  · dsimp only
    exact .refl
  · dsimp only
    split
    · dsimp only
      exact .refl
    · split
      · dsimp only
        exact .refl
      · dsimp only
        refine Frame.step State.fresh_frame rfl ?_
        exact .refl

theorem State.sendPkt_frame {s : State} {p : OutPkt} :
    Frame [.regs, .cnt64, .fab] s (State.sendPkt s p) := by
  unfold State.sendPkt
  dsimp only
  refine Frame.step State.setFab_frame rfl ?_
  refine Frame.step State.setLink_frame rfl ?_
  refine Frame.ite ?_ ?_
  · refine Frame.step State.addReg_frame rfl ?_
    refine Frame.step State.cnt_frame rfl ?_
    refine Frame.step State.cnt_frame rfl ?_
    exact .refl
  · refine Frame.step State.cnt_frame rfl ?_
    refine Frame.step State.cnt_frame rfl ?_
    exact .refl

theorem State.emit_frame {s : State} {p : OutPkt} :
    Frame [.regs, .cnt64, .fab] s (State.emit s p) := by
  unfold State.emit
  split
  · refine Frame.step State.sendPkt_frame rfl ?_
    exact .refl
  · exact .refl
  · refine Frame.step State.setFab_frame rfl ?_
    exact .refl

theorem State.inject_frame {s : State} {g : Agent} {kind : AwaitKind} {d : Nat} {i : Nat} {flow : Nat} {gen : Nat} {dev : Nat} {a : Nat} {det : Bool} {b : Body} :
    Frame [.regs, .cnt64, .hostOut, .freeCtr, .fab] s (State.inject s g kind d i flow gen dev a det b).2 := by
  unfold State.inject
  dsimp only
  split
  · dsimp only
    refine Frame.step State.event_frame rfl ?_
    refine Frame.step State.addReg_frame rfl ?_
    refine Frame.step State.pickFirst_frame rfl ?_
    exact .refl
  · split
    · dsimp only
      refine Frame.step State.event_frame rfl ?_
      refine Frame.step State.addReg_frame rfl ?_
      refine Frame.step State.pickFirst_frame rfl ?_
      exact .refl
    · dsimp only
      refine Frame.step State.setFab_frame rfl ?_
      refine Frame.step State.emit_frame rfl ?_
      refine Frame.step State.pickFirst_frame rfl ?_
      exact .refl

theorem State.answer_frame {s : State} {dev : Nat} {flow : Nat} {gen : Nat} {tok : Nat} {b : Body} :
    Frame [.regs, .cnt64, .hostOut, .fab] s (State.answer s dev flow gen tok b) := by
  unfold State.answer
  split
  · refine Frame.step State.event_frame rfl ?_
    refine Frame.step State.addReg_frame rfl ?_
    exact .refl
  · refine Frame.step State.emit_frame rfl ?_
    exact .refl

theorem State.awaitCount_frame {s : State} {tok : Nat} {ref : Nat} {v : W32} :
    Frame [.fab] s (State.awaitCount s tok ref v) := by
  unfold State.awaitCount
  refine Frame.step State.setFab_frame rfl ?_
  exact .refl

theorem State.takeAwait_frame {s : State} {tok : Nat} :
    Frame [.fab] s (State.takeAwait s tok).2 := by
  unfold State.takeAwait
  split
  · dsimp only
    exact .refl
  · dsimp only
    refine Frame.step State.setFab_frame rfl ?_
    exact .refl

end Sys2Proof.Machine
end

