-- ==== Sys2Proof/Laws/Mem.lean ====
section
/-! SUPPORT. What each operation and each meaning of Machine/Mem.lean can change at most: the pieces of the state outside
its list stay as they are. -/

namespace Sys2Proof.Machine

theorem State.d2d_frame {s : State} {ha : Option Nat} {hb : Option Nat} :
    Frame [.cnt64] s (State.d2d s ha hb) := by
  unfold State.d2d
  split
  · refine Frame.step State.cnt_frame rfl ?_
    exact .refl
  · refine Frame.step State.cnt_frame rfl ?_
    exact .refl
  · exact .refl

theorem State.setPw_frame {s : State} {x : Power} :
    Frame [.pw] s (State.setPw s x) := by
  unfold State.setPw
  refine Frame.set_pw rfl ?_
  exact .refl

theorem State.setPwUmb_frame {s : State} {u : Nat} {x : PwUmb} :
    Frame [.pw] s (State.setPwUmb s u x) := by
  unfold State.setPwUmb
  refine Frame.set_pw rfl ?_
  exact .refl

theorem State.ungate_frame {s : State} {u : Nat} :
    Frame [.pw] s (State.ungate s u) := by
  unfold State.ungate
  refine Frame.ite ?_ ?_
  · refine Frame.step State.setPwUmb_frame rfl ?_
    exact .refl
  · exact .refl

theorem State.ungatePage_frame {s : State} {b : Blk} {n : Nat} :
    Frame [.pw] s (State.ungatePage s b n) := by
  unfold State.ungatePage
  split
  · refine Frame.step State.ungate_frame rfl ?_
    exact .refl
  · refine Frame.step State.ungate_frame rfl ?_
    exact .refl
  · exact .refl

theorem State.sramBytes_frame {s : State} {p : Place} {wr : Bool} :
    Frame [.cnt64, .pw] s (State.sramBytes s p wr) := by
  unfold State.sramBytes
  split
  · refine Frame.step State.cnt_frame rfl ?_
    refine Frame.step State.ungate_frame rfl ?_
    exact .refl
  · refine Frame.step State.cnt_frame rfl ?_
    refine Frame.step State.ungate_frame rfl ?_
    exact .refl
  · exact .refl

theorem State.sramEcc_frame {s : State} {p : Place} {q : Req} {a : Nat} {e : Ecc} :
    Frame [.regs, .sram, .sramBad, .reports, .freeCtr, .logPtr] s (State.sramEcc s p q a e) := by
  unfold State.sramEcc
  dsimp only
  split
  · refine Frame.step State.logErr_frame rfl ?_
    exact .refl
  · refine Frame.step State.logErr_frame rfl ?_
    exact .refl
  · refine Frame.step State.report_frame rfl ?_
    refine Frame.step State.logErr_frame rfl ?_
    refine Frame.set_sram_sramBad_freeCtr rfl ?_
    exact .refl
  · exact .refl

theorem State.sramPut_frame {s : State} {a : Nat} {mask : Nat} {l : Line} {poison : Bool} :
    Frame [.sram, .sramBad] s (State.sramPut s a mask l poison) := by
  unfold State.sramPut
  refine Frame.ite ?_ ?_
  · refine Frame.set_sram_sramBad rfl ?_
    exact .refl
  · refine Frame.ite ?_ ?_
    · exact .refl
    · refine Frame.set_sram_sramBad rfl ?_
      exact .refl

theorem State.feedOverrun_frame {s : State} {f : Nat} {a : Nat} {e : Nat} {src : Nat} :
    Frame [.regs, .hostOut, .logPtr] s (State.feedOverrun s f a e src) := by
  unfold State.feedOverrun
  dsimp only
  refine Frame.step State.logErr_frame rfl ?_
  refine Frame.step State.event_frame rfl ?_
  refine Frame.step State.sticky_frame rfl ?_
  exact .refl

theorem State.feedArrive_frame {s : State} {f : Nat} {a : Nat} {src : Nat} :
    Frame [.regs, .fls, .hostOut, .logPtr] s (State.feedArrive s f a src).2 := by
  unfold State.feedArrive
  dsimp only
  split
  · dsimp only
    refine Frame.step State.feedOverrun_frame rfl ?_
    exact .refl
  · split
    · dsimp only
      exact .refl
    · dsimp only
      refine Frame.step State.setFl_frame rfl ?_
      exact .refl

theorem State.readRegLine_frame {ps : List Piece} {io : RegIO} {s : State} {off : Nat} (hio : io.Within ps)
    (hw : Piece.within [] ps = true) : Frame ps s (State.readRegLine io s off).2 := by
  unfold State.readRegLine
  dsimp only
  refine Frame.trans ?_ (Frame.foldl_at (fun (a : Nat × State) => a.2) (fun a x => ?_))
  · dsimp only
    exact .refl
  · dsimp only
    refine Frame.trans ?_ (hio.1 _ _)
    exact .refl

theorem State.regPartial_frame {s : State} {q : Req} {off : Nat} {be : Nat} :
    Frame [.regs, .logPtr] s (State.regPartial s q off be) := by
  unfold State.regPartial
  split
  · refine Frame.ite ?_ ?_
    · refine Frame.step State.logErr_frame rfl ?_
      exact .refl
    · refine Frame.step State.addrErr_frame rfl ?_
      exact .refl
  · refine Frame.step State.addrErr_frame rfl ?_
    exact .refl

theorem State.writeRegLine_frame {ps : List Piece} {io : RegIO} {s : State} {q : Req} {off : Nat} {mask : Nat} {l : Line} (hio : io.Within ps)
    (hw : Piece.within [.regs, .logPtr] ps = true) : Frame ps s (State.writeRegLine io s q off mask l) := by
  unfold State.writeRegLine
  refine Frame.trans ?_ (Frame.foldl (fun s x => ?_))
  · exact .refl
  · dsimp only
    refine Frame.ite ?_ ?_
    · refine Frame.trans ?_ (hio.2 _ _ _ _)
      exact .refl
    · refine Frame.ite ?_ ?_
      · exact .refl
      · refine Frame.step State.regPartial_frame (Piece.within_trans rfl hw) ?_
        exact .refl

theorem State.readLocal_frame {ps : List Piece} {io : RegIO} {s : State} {q : Req} {a : Nat} {e : Ecc} (hio : io.Within ps)
    (hw : Piece.within [.regs, .cnt64, .sram, .sramBad, .reports, .hostOut, .freeCtr, .hbm, .logPtr, .fe, .pw] ps = true) : Frame ps s (State.readLocal io s q a e).2 := by
  unfold State.readLocal
  dsimp only
  split
  · dsimp only
    refine Frame.step State.addrErr_frame (Piece.within_trans rfl hw) ?_
    exact .refl
  · split
    · dsimp only
      exact .refl
    · split
      · dsimp only
        refine Frame.step State.hbmRead_frame (Piece.within_trans rfl hw) ?_
        refine Frame.step State.d2d_frame (Piece.within_trans rfl hw) ?_
        exact .refl
      · dsimp only
        exact .refl
  · dsimp only
    refine Frame.trans ?_ (State.readRegLine_frame hio (Piece.within_trans rfl hw))
    exact .refl
  · split
    · dsimp only
      refine Frame.set_fe (Piece.within_trans rfl hw) ?_
      exact .refl
    · dsimp only
      exact .refl
  · split
    · dsimp only
      exact .refl
    · dsimp only
      refine Frame.step State.sramEcc_frame (Piece.within_trans rfl hw) ?_
      refine Frame.step State.sramBytes_frame (Piece.within_trans rfl hw) ?_
      refine Frame.step State.d2d_frame (Piece.within_trans rfl hw) ?_
      exact .refl

theorem State.srEnqueue_frame {s r : State} {k : Nat} {h : Line} {src : Option Nat} (hr : State.srEnqueue s k h src = some r) :
    Frame [.hbm] s r := by
  unfold State.srEnqueue at hr
  dsimp only at hr
  split at hr
  · cases hr
  · simp only [Option.some.injEq] at hr
    subst hr
    exact Frame.mono State.setStk_frame rfl

theorem State.hostPut_frame {s : State} {ha : Nat} {mask : Nat} {l : Line} {poison : Bool} :
    Frame [.hostMem, .hostOut, .hostReads] s (State.hostPut s ha mask l poison) := by
  unfold State.hostPut
  refine Frame.set_hostMem_hostOut_hostReads rfl ?_
  exact .refl

theorem State.writeLocal_frame {ps : List Piece} {io : RegIO} {s : State} {q : Req} {a : Nat} {mask : Nat} {l : Line} {poison : Bool} {e : Ecc} (hio : io.Within ps)
    (hw : Piece.within [.regs, .cnt64, .fls, .sram, .sramBad, .hostMem, .reports, .hostOut, .freeCtr, .hbm, .logPtr, .pw, .hostReads] ps = true) : Frame ps s (State.writeLocal io s q a mask l poison e).2 := by
  unfold State.writeLocal
  dsimp only
  split
  · dsimp only
    refine Frame.step State.addrErr_frame (Piece.within_trans rfl hw) ?_
    exact .refl
  · split
    · dsimp only
      exact .refl
    · split
      · dsimp only
        refine Frame.ite ?_ ?_
        · refine Frame.step State.hbmWrite_frame (Piece.within_trans rfl hw) ?_
          refine Frame.step State.d2d_frame (Piece.within_trans rfl hw) ?_
          exact .refl
        · refine Frame.step State.hbmPartial_frame (Piece.within_trans rfl hw) ?_
          refine Frame.step State.d2d_frame (Piece.within_trans rfl hw) ?_
          exact .refl
      · dsimp only
        exact .refl
  · split
    · split
      · split
        · dsimp only
          refine Frame.step (State.srEnqueue_frame (by assumption)) (Piece.within_trans rfl hw) ?_
          exact .refl
        · dsimp only
          exact .refl
      · dsimp only
        exact .refl
    · dsimp only
      refine Frame.trans ?_ (State.writeRegLine_frame hio (Piece.within_trans rfl hw))
      exact .refl
  · dsimp only
    refine Frame.step State.cnt_frame (Piece.within_trans rfl hw) ?_
    refine Frame.step State.hostPut_frame (Piece.within_trans rfl hw) ?_
    exact .refl
  · split
    · dsimp only
      exact .refl
    · split
      · split
        · dsimp only
          refine Frame.step State.sramPut_frame (Piece.within_trans rfl hw) ?_
          refine Frame.step State.sramBytes_frame (Piece.within_trans rfl hw) ?_
          refine Frame.ite ?_ ?_
          · refine Frame.step State.feedArrive_frame (Piece.within_trans rfl hw) ?_
            refine Frame.step State.d2d_frame (Piece.within_trans rfl hw) ?_
            exact .refl
          · refine Frame.step State.sramEcc_frame (Piece.within_trans rfl hw) ?_
            refine Frame.step State.feedArrive_frame (Piece.within_trans rfl hw) ?_
            refine Frame.step State.d2d_frame (Piece.within_trans rfl hw) ?_
            exact .refl
        · dsimp only
          refine Frame.step State.feedArrive_frame (Piece.within_trans rfl hw) ?_
          refine Frame.step State.d2d_frame (Piece.within_trans rfl hw) ?_
          exact .refl
      · split
        · dsimp only
          refine Frame.step State.sramPut_frame (Piece.within_trans rfl hw) ?_
          refine Frame.step State.sramBytes_frame (Piece.within_trans rfl hw) ?_
          refine Frame.ite ?_ ?_
          · refine Frame.step State.d2d_frame (Piece.within_trans rfl hw) ?_
            exact .refl
          · refine Frame.step State.sramEcc_frame (Piece.within_trans rfl hw) ?_
            refine Frame.step State.d2d_frame (Piece.within_trans rfl hw) ?_
            exact .refl
        · dsimp only
          refine Frame.step State.d2d_frame (Piece.within_trans rfl hw) ?_
          exact .refl

theorem State.tallyAdd_frame {s : State} {q : Req} {f : Option Nat} {u : Option Nat} {r : Nat} {v : W32} :
    Frame [.regs, .fls, .ums, .logPtr, .pw] s (State.tallyAdd s q f u r v).2 := by
  unfold State.tallyAdd
  split
  · dsimp only
    exact .refl
  · split
    · dsimp only
      exact .refl
    · dsimp only
      refine Frame.step State.modUm_frame rfl ?_
      refine Frame.step State.ungate_frame rfl ?_
      exact .refl
  · dsimp only
    split
    · dsimp only
      refine Frame.step State.addrErr_frame rfl ?_
      exact .refl
    · split
      · dsimp only
        exact .refl
      · split
        · dsimp only
          refine Frame.step State.addrErr_frame rfl ?_
          exact .refl
        · dsimp only
          refine Frame.step State.modFl_frame rfl ?_
          refine Frame.step State.ungate_frame rfl ?_
          exact .refl

theorem State.sramEcc_keeps {s : State} {p : Place} {q : Req} {a : Nat} {e : Ecc} : Keeps s (State.sramEcc s p q a e) := by
  unfold State.sramEcc
  dsimp only
  split
  · refine Keeps.frame State.logErr_frame rfl ?_
    exact .refl
  · refine Keeps.frame State.logErr_frame rfl ?_
    exact .refl
  · refine Keeps.frame State.report_frame rfl ?_
    refine Keeps.frame State.logErr_frame rfl ?_
    refine Keeps.set_sram_sramBad_freeCtr Memory.writeLine_wf ?_
    exact .refl
  · exact .refl

theorem State.sramPut_keeps {s : State} {a : Nat} {mask : Nat} {l : Line} {poison : Bool} : Keeps s (State.sramPut s a mask l poison) := by
  unfold State.sramPut
  refine Keeps.ite ?_ ?_
  · refine Keeps.set_sram_sramBad Memory.writeLine_wf ?_
    exact .refl
  · refine Keeps.ite ?_ ?_
    · exact .refl
    · refine Keeps.set_sram_sramBad Memory.writeMasked_wf ?_
      exact .refl

theorem State.readRegLine_keeps {io : RegIO} {s : State} {off : Nat} (hio : io.Keeps) : Keeps s (State.readRegLine io s off).2 := by
  unfold State.readRegLine
  dsimp only
  refine Keeps.trans ?_ (Keeps.foldl_at (fun (a : Nat × State) => a.2) (fun a x => ?_))
  · dsimp only
    exact .refl
  · dsimp only
    refine Keeps.trans ?_ (hio.1 _ _)
    exact .refl

theorem State.writeRegLine_keeps {io : RegIO} {s : State} {q : Req} {off : Nat} {mask : Nat} {l : Line} (hio : io.Keeps) : Keeps s (State.writeRegLine io s q off mask l) := by
  unfold State.writeRegLine
  refine Keeps.trans ?_ (Keeps.foldl (fun s x => ?_))
  · exact .refl
  · dsimp only
    refine Keeps.ite ?_ ?_
    · refine Keeps.trans ?_ (hio.2 _ _ _ _)
      exact .refl
    · refine Keeps.ite ?_ ?_
      · exact .refl
      · refine Keeps.frame State.regPartial_frame rfl ?_
        exact .refl

theorem State.readLocal_keeps {io : RegIO} {s : State} {q : Req} {a : Nat} {e : Ecc} (hio : io.Keeps) : Keeps s (State.readLocal io s q a e).2 := by
  unfold State.readLocal
  dsimp only
  split
  · dsimp only
    refine Keeps.frame State.addrErr_frame rfl ?_
    exact .refl
  · split
    · dsimp only
      exact .refl
    · split
      · dsimp only
        refine Keeps.trans ?_ State.hbmRead_keeps
        refine Keeps.frame State.d2d_frame rfl ?_
        exact .refl
      · dsimp only
        exact .refl
  · dsimp only
    refine Keeps.trans ?_ (State.readRegLine_keeps hio)
    exact .refl
  · split
    · dsimp only
      refine Keeps.set_fe ?_
      exact .refl
    · dsimp only
      exact .refl
  · split
    · dsimp only
      exact .refl
    · dsimp only
      refine Keeps.trans ?_ State.sramEcc_keeps
      refine Keeps.frame State.sramBytes_frame rfl ?_
      refine Keeps.frame State.d2d_frame rfl ?_
      exact .refl

theorem State.srEnqueue_keeps {s r : State} {k : Nat} {h : Line} {src : Option Nat} (hr : State.srEnqueue s k h src = some r) :
    Keeps s r := by
  unfold State.srEnqueue at hr
  dsimp only at hr
  split at hr
  · cases hr
  · obtain rfl := Option.some.inj hr
    exact State.setStk_keeps

theorem State.hostPut_keeps {s : State} {ha : Nat} {mask : Nat} {l : Line} {poison : Bool} : Keeps s (State.hostPut s ha mask l poison) := by
  unfold State.hostPut
  refine Keeps.set_hostMem_hostOut_hostReads Memory.writeMasked_wf ?_
  exact .refl

theorem State.writeLocal_keeps {io : RegIO} {s : State} {q : Req} {a : Nat} {mask : Nat} {l : Line} {poison : Bool} {e : Ecc} (hio : io.Keeps) : Keeps s (State.writeLocal io s q a mask l poison e).2 := by
  unfold State.writeLocal
  dsimp only
  split
  · dsimp only
    refine Keeps.frame State.addrErr_frame rfl ?_
    exact .refl
  · split
    · dsimp only
      exact .refl
    · split
      · dsimp only
        refine Keeps.ite ?_ ?_
        · refine Keeps.trans ?_ State.hbmWrite_keeps
          refine Keeps.frame State.d2d_frame rfl ?_
          exact .refl
        · refine Keeps.trans ?_ State.hbmPartial_keeps
          refine Keeps.frame State.d2d_frame rfl ?_
          exact .refl
      · dsimp only
        exact .refl
  · split
    · split
      · split
        · dsimp only
          refine Keeps.trans ?_ (State.srEnqueue_keeps (by assumption))
          exact .refl
        · dsimp only
          exact .refl
      · dsimp only
        exact .refl
    · dsimp only
      refine Keeps.trans ?_ (State.writeRegLine_keeps hio)
      exact .refl
  · dsimp only
    refine Keeps.frame State.cnt_frame rfl ?_
    refine Keeps.trans ?_ State.hostPut_keeps
    exact .refl
  · split
    · dsimp only
      exact .refl
    · split
      · split
        · dsimp only
          refine Keeps.trans ?_ State.sramPut_keeps
          refine Keeps.frame State.sramBytes_frame rfl ?_
          refine Keeps.ite ?_ ?_
          · refine Keeps.frame State.feedArrive_frame rfl ?_
            refine Keeps.frame State.d2d_frame rfl ?_
            exact .refl
          · refine Keeps.trans ?_ State.sramEcc_keeps
            refine Keeps.frame State.feedArrive_frame rfl ?_
            refine Keeps.frame State.d2d_frame rfl ?_
            exact .refl
        · dsimp only
          refine Keeps.frame State.feedArrive_frame rfl ?_
          refine Keeps.frame State.d2d_frame rfl ?_
          exact .refl
      · split
        · dsimp only
          refine Keeps.trans ?_ State.sramPut_keeps
          refine Keeps.frame State.sramBytes_frame rfl ?_
          refine Keeps.ite ?_ ?_
          · refine Keeps.frame State.d2d_frame rfl ?_
            exact .refl
          · refine Keeps.trans ?_ State.sramEcc_keeps
            refine Keeps.frame State.d2d_frame rfl ?_
            exact .refl
        · dsimp only
          refine Keeps.frame State.d2d_frame rfl ?_
          exact .refl

end Sys2Proof.Machine
end

