-- ==== Sys2Proof/Laws/Seq.lean ====
section
/-! SUPPORT. What each operation and each meaning of Machine/Seq.lean can change at most: the pieces of the state outside
its list stay as they are. -/

namespace Sys2Proof.Machine

theorem State.flFault_frame {s : State} {f : Nat} {code : Nat} {addr : Nat} :
    Frame [.reports] s (State.flFault s f code addr) := by
  unfold State.flFault
  refine Frame.step State.report_frame rfl ?_
  exact .refl

theorem State.flLoss_frame {s : State} {f : Nat} {addr : Nat} :
    Frame [.regs, .reports, .hostOut] s (State.flLoss s f addr) := by
  unfold State.flLoss
  refine Frame.step State.flFault_frame rfl ?_
  refine Frame.step State.sticky_frame rfl ?_
  exact .refl

theorem State.flSignal_frame {s : State} {f : Nat} {fid : FloretId} {k : AwaitKind} {ref : Nat} {v : W32} :
    Frame [.regs, .cnt64, .fls, .ums, .reports, .hostOut, .freeCtr, .fab, .logPtr, .pw] s (State.flSignal s f fid k ref v) := by
  unfold State.flSignal
  dsimp only
  split
  · refine Frame.step State.tallyAdd_frame rfl ?_
    exact .refl
  · refine Frame.step State.flLoss_frame rfl ?_
    refine Frame.step State.tallyAdd_frame rfl ?_
    exact .refl
  · split
    · refine Frame.step State.flLoss_frame rfl ?_
      refine Frame.step State.inject_frame rfl ?_
      refine Frame.step State.tallyAdd_frame rfl ?_
      exact .refl
    · refine Frame.step State.inject_frame rfl ?_
      refine Frame.step State.tallyAdd_frame rfl ?_
      exact .refl

theorem State.illegal_frame {s : State} {f : Nat} :
    Frame [.regs, .fls, .reports, .hostOut, .freeCtr, .logPtr] s (State.illegal s f) := by
  unfold State.illegal
  dsimp only
  refine Frame.step State.flFault_frame rfl ?_
  refine Frame.step State.logErr_frame rfl ?_
  refine Frame.step State.event_frame rfl ?_
  refine Frame.step State.sticky_frame rfl ?_
  refine Frame.step State.setReg_frame rfl ?_
  refine Frame.step State.setReg_frame rfl ?_
  refine Frame.step State.setFl_frame rfl ?_
  split
  · dsimp only
    refine Frame.step State.fresh_frame rfl ?_
    exact .refl
  · dsimp only
    exact .refl

theorem State.progress_frame {s : State} {f : Nat} :
    Frame [.regs] s (State.progress s f) := by
  unfold State.progress
  refine Frame.step State.addReg_frame rfl ?_
  exact .refl

theorem State.retireTo_frame {s : State} {f : Nat} {pc : Nat} {p : Bool} :
    Frame [.regs, .fls] s (State.retireTo s f pc p) := by
  unfold State.retireTo
  dsimp only
  refine Frame.ite ?_ ?_
  · refine Frame.step State.progress_frame rfl ?_
    refine Frame.step State.addReg_frame rfl ?_
    refine Frame.step State.modFl_frame rfl ?_
    exact .refl
  · refine Frame.step State.addReg_frame rfl ?_
    refine Frame.step State.modFl_frame rfl ?_
    exact .refl

theorem State.retire_frame {s : State} {f : Nat} {p : Bool} :
    Frame [.regs, .fls] s (State.retire s f p) := by
  unfold State.retire
  refine Frame.step State.retireTo_frame rfl ?_
  exact .refl

theorem State.issue_frame {ps : List Piece} {b s : State} {f op : Nat} {k : Nat → State} (hw : Piece.within [.regs, .fls, .reports, .hostOut, .freeCtr, .logPtr] ps = true)
    (h : Frame ps b s) (hk : ∀ w, Frame ps b (k w)) : Frame ps b (s.issue f op k) := by
  unfold State.issue
  split
  · exact h
  · exact Frame.step State.illegal_frame (Piece.within_trans rfl hw) h
  · exact Frame.step State.retire_frame (Piece.within_trans rfl hw) h
  · exact hk _

theorem execNop_frame {f : FloretId} {s : State} :
    ∃ out, execNop f s = .next out ∧ Frame [.regs, .fls, .reports, .hostOut, .freeCtr, .logPtr] s out := by
  refine ⟨_, rfl, ?_⟩
  refine State.issue_frame rfl ?_ (fun _ => ?_)
  · exact .refl
  · refine Frame.step State.retire_frame rfl ?_
    exact .refl

theorem execHalt_frame {f : FloretId} {s : State} :
    ∃ out, execHalt f s = .next out ∧ Frame [.regs, .fls, .reports, .hostOut, .freeCtr, .logPtr] s out := by
  refine ⟨_, rfl, ?_⟩
  refine State.issue_frame rfl ?_ (fun _ => ?_)
  · exact .refl
  · refine Frame.step State.modFl_frame rfl ?_
    refine Frame.step State.retire_frame rfl ?_
    exact .refl

theorem execBr_frame {f : FloretId} {s : State} :
    ∃ out, execBr f s = .next out ∧ Frame [.regs, .fls, .reports, .hostOut, .freeCtr, .logPtr] s out := by
  refine ⟨_, rfl, ?_⟩
  refine State.issue_frame rfl ?_ (fun _ => ?_)
  · exact .refl
  · refine Frame.step State.retireTo_frame rfl ?_
    exact .refl

theorem execLoopInsn_frame {f : FloretId} {s : State} :
    ∃ out, execLoopInsn f s = .next out ∧ Frame [.regs, .fls, .reports, .hostOut, .freeCtr, .logPtr] s out := by
  refine ⟨_, rfl, ?_⟩
  refine State.issue_frame rfl ?_ (fun _ => ?_)
  · exact .refl
  · dsimp only
    refine Frame.ite ?_ ?_
    · refine Frame.step State.retire_frame rfl ?_
      refine Frame.step State.modFl_frame rfl ?_
      exact .refl
    · refine Frame.step State.retireTo_frame rfl ?_
      refine Frame.step State.modFl_frame rfl ?_
      exact .refl

theorem execSalu_frame {f : FloretId} {s : State} :
    ∃ out, execSalu f s = .next out ∧ Frame [.regs, .fls, .reports, .hostOut, .freeCtr, .logPtr] s out := by
  refine ⟨_, rfl, ?_⟩
  refine State.issue_frame rfl ?_ (fun _ => ?_)
  · exact .refl
  · dsimp only
    refine Frame.step State.retire_frame rfl ?_
    refine Frame.step State.setFl_frame rfl ?_
    exact .refl

theorem execSli_frame {f : FloretId} {s : State} :
    ∃ out, execSli f s = .next out ∧ Frame [.regs, .fls, .reports, .hostOut, .freeCtr, .logPtr] s out := by
  refine ⟨_, rfl, ?_⟩
  refine State.issue_frame rfl ?_ (fun _ => ?_)
  · exact .refl
  · refine Frame.step State.retire_frame rfl ?_
    refine Frame.step State.modFl_frame rfl ?_
    exact .refl

theorem execScmp_frame {f : FloretId} {s : State} :
    ∃ out, execScmp f s = .next out ∧ Frame [.regs, .fls, .reports, .hostOut, .freeCtr, .logPtr] s out := by
  refine ⟨_, rfl, ?_⟩
  refine State.issue_frame rfl ?_ (fun _ => ?_)
  · exact .refl
  · dsimp only
    refine Frame.step State.retire_frame rfl ?_
    refine Frame.step State.setFl_frame rfl ?_
    exact .refl

theorem execTwait_frame {f : FloretId} {s : State} :
    ∃ out, execTwait f s = .next out ∧ Frame [.regs, .fls, .reports, .hostOut, .freeCtr, .logPtr] s out := by
  refine ⟨_, rfl, ?_⟩
  refine State.issue_frame rfl ?_ (fun _ => ?_)
  · exact .refl
  · refine Frame.ite ?_ ?_
    · refine Frame.step State.retire_frame rfl ?_
      exact .refl
    · refine Frame.step State.modFl_frame rfl ?_
      exact .refl

theorem execTwaitSatisfied_frame {f : FloretId} {s : State} :
    ∃ out, execTwaitSatisfied f s = .next out ∧ Frame [.regs, .fls] s out := by
  refine ⟨_, rfl, ?_⟩
  split
  · refine Frame.ite ?_ ?_
    · refine Frame.step State.retire_frame rfl ?_
      exact .refl
    · exact .refl
  · exact .refl

theorem execTsig_frame {f : FloretId} {s : State} :
    ∃ out, execTsig f s = .next out ∧ Frame [.regs, .cnt64, .fls, .ums, .reports, .hostOut, .freeCtr, .fab, .logPtr, .pw] s out := by
  refine ⟨_, rfl, ?_⟩
  refine State.issue_frame rfl ?_ (fun _ => ?_)
  · exact .refl
  · dsimp only
    refine Frame.step State.retire_frame rfl ?_
    refine Frame.step State.flSignal_frame rfl ?_
    exact .refl

theorem execTset_frame {f : FloretId} {s : State} :
    ∃ out, execTset f s = .next out ∧ Frame [.regs, .fls, .ums, .reports, .hostOut, .freeCtr, .logPtr] s out := by
  refine ⟨_, rfl, ?_⟩
  refine State.issue_frame rfl ?_ (fun _ => ?_)
  · exact .refl
  · dsimp only
    refine Frame.step State.retire_frame rfl ?_
    split
    · refine Frame.step State.modUm_frame rfl ?_
      exact .refl
    · refine Frame.step State.modFl_frame rfl ?_
      exact .refl
    · exact .refl

theorem execTread_frame {f : FloretId} {s : State} :
    ∃ out, execTread f s = .next out ∧ Frame [.regs, .fls, .reports, .hostOut, .freeCtr, .logPtr] s out := by
  refine ⟨_, rfl, ?_⟩
  refine State.issue_frame rfl ?_ (fun _ => ?_)
  · exact .refl
  · dsimp only
    refine Frame.step State.retire_frame rfl ?_
    refine Frame.step State.modFl_frame rfl ?_
    exact .refl

theorem execDfence_frame {f : FloretId} {s : State} :
    ∃ out, execDfence f s = .next out ∧ Frame [.regs, .fls, .reports, .hostOut, .freeCtr, .logPtr] s out := by
  refine ⟨_, rfl, ?_⟩
  refine State.issue_frame rfl ?_ (fun _ => ?_)
  · exact .refl
  · refine Frame.ite ?_ ?_
    · refine Frame.step State.retire_frame rfl ?_
      exact .refl
    · refine Frame.step State.modFl_frame rfl ?_
      exact .refl

theorem execDfenceSatisfied_frame {f : FloretId} {s : State} :
    ∃ out, execDfenceSatisfied f s = .next out ∧ Frame [.regs, .fls] s out := by
  refine ⟨_, rfl, ?_⟩
  split
  · refine Frame.ite ?_ ?_
    · refine Frame.step State.retire_frame rfl ?_
      exact .refl
    · exact .refl
  · exact .refl

theorem execFtest_frame {f : FloretId} {s : State} :
    ∃ out, execFtest f s = .next out ∧ Frame [.regs, .fls, .reports, .hostOut, .freeCtr, .logPtr] s out := by
  refine ⟨_, rfl, ?_⟩
  refine State.issue_frame rfl ?_ (fun _ => ?_)
  · exact .refl
  · dsimp only
    refine Frame.step State.retire_frame rfl ?_
    refine Frame.step State.setFl_frame rfl ?_
    exact .refl

theorem State.cfgFeed_frame {s : State} {f : Nat} {e : Nat} {c0 : Nat} {c1 : Nat} :
    Frame [.regs, .fls, .hostOut] s (State.cfgFeed s f e c0 c1) := by
  unfold State.cfgFeed
  split
  · refine Frame.step State.modFl_frame rfl ?_
    exact .refl
  · refine Frame.step State.sticky_frame rfl ?_
    exact .refl

theorem execFcfg_frame {f : FloretId} {s : State} :
    ∃ out, execFcfg f s = .next out ∧ Frame [.regs, .fls, .reports, .hostOut, .freeCtr, .logPtr] s out := by
  refine ⟨_, rfl, ?_⟩
  refine State.issue_frame rfl ?_ (fun _ => ?_)
  · exact .refl
  · dsimp only
    refine Frame.ite ?_ ?_
    · refine Frame.step State.retire_frame rfl ?_
      refine Frame.step State.cfgFeed_frame rfl ?_
      exact .refl
    · exact .refl

theorem execDq_frame {f : FloretId} {s : State} :
    ∃ out, execDq f s = .next out ∧ Frame [.regs, .fls, .reports, .hostOut, .freeCtr, .logPtr] s out := by
  refine ⟨_, rfl, ?_⟩
  refine State.issue_frame rfl ?_ (fun _ => ?_)
  · exact .refl
  · dsimp only
    refine Frame.ite ?_ ?_
    · refine Frame.step State.retire_frame rfl ?_
      refine Frame.step State.setFl_frame rfl ?_
      exact .refl
    · refine Frame.step State.setFl_frame rfl ?_
      exact .refl

theorem execMma_frame {f : FloretId} {s : State} :
    ∃ out, execMma f s = .next out ∧ Frame [.regs, .fls, .reports, .hostOut, .freeCtr, .logPtr] s out := by
  refine ⟨_, rfl, ?_⟩
  refine State.issue_frame rfl ?_ (fun _ => ?_)
  · exact .refl
  · dsimp only
    refine Frame.ite ?_ ?_
    · exact .refl
    · refine Frame.step State.retire_frame rfl ?_
      refine Frame.step State.setFl_frame rfl ?_
      exact .refl

theorem State.vxArrive_frame {old : State} {f : Nat} {s : State} {l : Nat} :
    Frame [.regs, .cnt64, .fls, .sram, .sramBad, .hostOut, .logPtr] s (State.vxArrive old f s l) := by
  unfold State.vxArrive
  dsimp only
  refine Frame.ite ?_ ?_
  · refine Frame.step State.cnt_frame rfl ?_
    refine Frame.step State.feedArrive_frame rfl ?_
    exact .refl
  · refine Frame.set_sram_sramBad rfl ?_
    refine Frame.step State.feedArrive_frame rfl ?_
    exact .refl

theorem State.vx_frame {s : State} {f : Nat} {w : Nat} :
    Frame [.regs, .cnt64, .fls, .sram, .sramBad, .reports, .hostOut, .logPtr] s (State.vx s f w) := by
  unfold State.vx
  dsimp only
  refine Frame.ite ?_ ?_
  · exact .refl
  · refine Frame.step State.retire_frame rfl ?_
    refine Frame.ite ?_ ?_
    · refine Frame.step State.flFault_frame rfl ?_
      refine Frame.ite ?_ ?_
      · refine Frame.step State.addReg_frame rfl ?_
        refine Frame.step State.addReg_frame rfl ?_
        refine Frame.step State.addReg_frame rfl ?_
        refine Frame.step State.stickies_frame rfl ?_
        refine Frame.step State.fpFlags_frame rfl ?_
        refine Frame.trans ?_ (Frame.foldl (fun s x => ?_))
        · refine Frame.step State.cnt_frame rfl ?_
          refine Frame.set_sram_sramBad rfl ?_
          refine Frame.step State.setFl_frame rfl ?_
          exact .refl
        · refine Frame.step State.vxArrive_frame rfl ?_
          exact .refl
      · refine Frame.step State.addReg_frame rfl ?_
        refine Frame.step State.addReg_frame rfl ?_
        refine Frame.step State.stickies_frame rfl ?_
        refine Frame.step State.fpFlags_frame rfl ?_
        refine Frame.trans ?_ (Frame.foldl (fun s x => ?_))
        · refine Frame.step State.cnt_frame rfl ?_
          refine Frame.set_sram_sramBad rfl ?_
          refine Frame.step State.setFl_frame rfl ?_
          exact .refl
        · refine Frame.step State.vxArrive_frame rfl ?_
          exact .refl
    · refine Frame.ite ?_ ?_
      · refine Frame.step State.addReg_frame rfl ?_
        refine Frame.step State.addReg_frame rfl ?_
        refine Frame.step State.addReg_frame rfl ?_
        refine Frame.step State.stickies_frame rfl ?_
        refine Frame.step State.fpFlags_frame rfl ?_
        refine Frame.trans ?_ (Frame.foldl (fun s x => ?_))
        · refine Frame.step State.cnt_frame rfl ?_
          refine Frame.set_sram_sramBad rfl ?_
          refine Frame.step State.setFl_frame rfl ?_
          exact .refl
        · refine Frame.step State.vxArrive_frame rfl ?_
          exact .refl
      · refine Frame.step State.addReg_frame rfl ?_
        refine Frame.step State.addReg_frame rfl ?_
        refine Frame.step State.stickies_frame rfl ?_
        refine Frame.step State.fpFlags_frame rfl ?_
        refine Frame.trans ?_ (Frame.foldl (fun s x => ?_))
        · refine Frame.step State.cnt_frame rfl ?_
          refine Frame.set_sram_sramBad rfl ?_
          refine Frame.step State.setFl_frame rfl ?_
          exact .refl
        · refine Frame.step State.vxArrive_frame rfl ?_
          exact .refl

theorem State.vxIf_frame {s : State} {f : Nat} {op : Nat} {p : Nat → Bool} :
    Frame [.regs, .cnt64, .fls, .sram, .sramBad, .reports, .hostOut, .freeCtr, .logPtr] s (State.vxIf s f op p) := by
  unfold State.vxIf
  refine State.issue_frame rfl ?_ (fun _ => ?_)
  · exact .refl
  · refine Frame.ite ?_ ?_
    · refine Frame.step State.vx_frame rfl ?_
      exact .refl
    · exact .refl

theorem execVxInt_frame {f : FloretId} {s : State} :
    ∃ out, execVxInt f s = .next out ∧ Frame [.regs, .cnt64, .fls, .sram, .sramBad, .reports, .hostOut, .freeCtr, .logPtr] s out := by
  refine ⟨_, rfl, ?_⟩
  refine Frame.step State.vxIf_frame rfl ?_
  exact .refl

theorem execVxFloat_frame {f : FloretId} {s : State} :
    ∃ out, execVxFloat f s = .next out ∧ Frame [.regs, .cnt64, .fls, .sram, .sramBad, .reports, .hostOut, .freeCtr, .logPtr] s out := by
  refine ⟨_, rfl, ?_⟩
  refine Frame.step State.vxIf_frame rfl ?_
  exact .refl

theorem execVxCvt_frame {f : FloretId} {s : State} :
    ∃ out, execVxCvt f s = .next out ∧ Frame [.regs, .cnt64, .fls, .sram, .sramBad, .reports, .hostOut, .freeCtr, .logPtr] s out := by
  refine ⟨_, rfl, ?_⟩
  refine Frame.step State.vxIf_frame rfl ?_
  exact .refl

theorem execVxReduce_frame {f : FloretId} {s : State} :
    ∃ out, execVxReduce f s = .next out ∧ Frame [.regs, .cnt64, .fls, .sram, .sramBad, .reports, .hostOut, .freeCtr, .logPtr] s out := by
  refine ⟨_, rfl, ?_⟩
  refine Frame.step State.vxIf_frame rfl ?_
  exact .refl

theorem execVxSpecial_frame {f : FloretId} {s : State} :
    ∃ out, execVxSpecial f s = .next out ∧ Frame [.regs, .cnt64, .fls, .sram, .sramBad, .reports, .hostOut, .freeCtr, .logPtr] s out := by
  refine ⟨_, rfl, ?_⟩
  refine Frame.step State.vxIf_frame rfl ?_
  exact .refl

theorem execVld_frame {f : FloretId} {s : State} :
    ∃ out, execVld f s = .next out ∧ Frame [.regs, .cnt64, .fls, .sram, .sramBad, .reports, .hostOut, .freeCtr, .logPtr] s out := by
  refine ⟨_, rfl, ?_⟩
  refine Frame.step State.vxIf_frame rfl ?_
  exact .refl

theorem execVst_frame {f : FloretId} {s : State} :
    ∃ out, execVst f s = .next out ∧ Frame [.regs, .cnt64, .fls, .sram, .sramBad, .reports, .hostOut, .freeCtr, .logPtr] s out := by
  refine ⟨_, rfl, ?_⟩
  refine Frame.step State.vxIf_frame rfl ?_
  exact .refl

theorem execNormRms_frame {f : FloretId} {s : State} :
    ∃ out, execNormRms f s = .next out ∧ Frame [.regs, .cnt64, .fls, .sram, .sramBad, .reports, .hostOut, .freeCtr, .logPtr] s out := by
  refine ⟨_, rfl, ?_⟩
  refine Frame.step State.vxIf_frame rfl ?_
  exact .refl

theorem execNormLn_frame {f : FloretId} {s : State} :
    ∃ out, execNormLn f s = .next out ∧ Frame [.regs, .cnt64, .fls, .sram, .sramBad, .reports, .hostOut, .freeCtr, .logPtr] s out := by
  refine ⟨_, rfl, ?_⟩
  refine Frame.step State.vxIf_frame rfl ?_
  exact .refl

theorem execRope_frame {f : FloretId} {s : State} :
    ∃ out, execRope f s = .next out ∧ Frame [.regs, .cnt64, .fls, .sram, .sramBad, .reports, .hostOut, .freeCtr, .logPtr] s out := by
  refine ⟨_, rfl, ?_⟩
  refine Frame.step State.vxIf_frame rfl ?_
  exact .refl

theorem execSmerge_frame {f : FloretId} {s : State} :
    ∃ out, execSmerge f s = .next out ∧ Frame [.regs, .cnt64, .fls, .sram, .sramBad, .reports, .hostOut, .freeCtr, .logPtr] s out := by
  refine ⟨_, rfl, ?_⟩
  refine Frame.step State.vxIf_frame rfl ?_
  exact .refl

theorem execTopkR_frame {f : FloretId} {s : State} :
    ∃ out, execTopkR f s = .next out ∧ Frame [.regs, .cnt64, .fls, .sram, .sramBad, .reports, .hostOut, .freeCtr, .logPtr] s out := by
  refine ⟨_, rfl, ?_⟩
  refine Frame.step State.vxIf_frame rfl ?_
  exact .refl

theorem execTopkL_frame {f : FloretId} {s : State} :
    ∃ out, execTopkL f s = .next out ∧ Frame [.regs, .cnt64, .fls, .sram, .sramBad, .reports, .hostOut, .freeCtr, .logPtr] s out := by
  refine ⟨_, rfl, ?_⟩
  refine Frame.step State.vxIf_frame rfl ?_
  exact .refl

theorem execSample_frame {f : FloretId} {s : State} :
    ∃ out, execSample f s = .next out ∧ Frame [.regs, .cnt64, .fls, .sram, .sramBad, .reports, .hostOut, .freeCtr, .logPtr] s out := by
  refine ⟨_, rfl, ?_⟩
  refine Frame.step State.vxIf_frame rfl ?_
  exact .refl

theorem State.issue_keeps {b s : State} {f op : Nat} {k : Nat → State} (h : Keeps b s) (hk : ∀ w, Keeps b (k w)) :
    Keeps b (s.issue f op k) := by
  unfold State.issue
  split
  · exact h
  · exact Keeps.frame State.illegal_frame rfl h
  · exact Keeps.frame State.retire_frame rfl h
  · exact hk _

theorem State.vxArrive_keeps {old : State} {f : Nat} {s : State} {l : Nat} : Keeps s (State.vxArrive old f s l) := by
  unfold State.vxArrive
  dsimp only
  refine Keeps.ite ?_ ?_
  · refine Keeps.frame State.cnt_frame rfl ?_
    refine Keeps.frame State.feedArrive_frame rfl ?_
    exact .refl
  · refine Keeps.set_sram_sramBad Memory.writeLine_wf ?_
    refine Keeps.frame State.feedArrive_frame rfl ?_
    exact .refl

theorem State.vx_keeps {s : State} {f : Nat} {w : Nat} : Keeps s (State.vx s f w) := by
  unfold State.vx
  dsimp only
  refine Keeps.ite ?_ ?_
  · exact .refl
  · refine Keeps.frame State.retire_frame rfl ?_
    refine Keeps.ite ?_ ?_
    · refine Keeps.frame State.flFault_frame rfl ?_
      refine Keeps.ite ?_ ?_
      · refine Keeps.frame State.addReg_frame rfl ?_
        refine Keeps.frame State.addReg_frame rfl ?_
        refine Keeps.frame State.addReg_frame rfl ?_
        refine Keeps.frame State.stickies_frame rfl ?_
        refine Keeps.frame State.fpFlags_frame rfl ?_
        refine Keeps.trans ?_ (Keeps.foldl (fun s x => ?_))
        · refine Keeps.frame State.cnt_frame rfl ?_
          refine Keeps.set_sram_sramBad (fun h => by exact Vec.exec_wf h) ?_
          refine Keeps.frame State.setFl_frame rfl ?_
          exact .refl
        · refine Keeps.trans ?_ State.vxArrive_keeps
          exact .refl
      · refine Keeps.frame State.addReg_frame rfl ?_
        refine Keeps.frame State.addReg_frame rfl ?_
        refine Keeps.frame State.stickies_frame rfl ?_
        refine Keeps.frame State.fpFlags_frame rfl ?_
        refine Keeps.trans ?_ (Keeps.foldl (fun s x => ?_))
        · refine Keeps.frame State.cnt_frame rfl ?_
          refine Keeps.set_sram_sramBad (fun h => by exact Vec.exec_wf h) ?_
          refine Keeps.frame State.setFl_frame rfl ?_
          exact .refl
        · refine Keeps.trans ?_ State.vxArrive_keeps
          exact .refl
    · refine Keeps.ite ?_ ?_
      · refine Keeps.frame State.addReg_frame rfl ?_
        refine Keeps.frame State.addReg_frame rfl ?_
        refine Keeps.frame State.addReg_frame rfl ?_
        refine Keeps.frame State.stickies_frame rfl ?_
        refine Keeps.frame State.fpFlags_frame rfl ?_
        refine Keeps.trans ?_ (Keeps.foldl (fun s x => ?_))
        · refine Keeps.frame State.cnt_frame rfl ?_
          refine Keeps.set_sram_sramBad (fun h => by exact Vec.exec_wf h) ?_
          refine Keeps.frame State.setFl_frame rfl ?_
          exact .refl
        · refine Keeps.trans ?_ State.vxArrive_keeps
          exact .refl
      · refine Keeps.frame State.addReg_frame rfl ?_
        refine Keeps.frame State.addReg_frame rfl ?_
        refine Keeps.frame State.stickies_frame rfl ?_
        refine Keeps.frame State.fpFlags_frame rfl ?_
        refine Keeps.trans ?_ (Keeps.foldl (fun s x => ?_))
        · refine Keeps.frame State.cnt_frame rfl ?_
          refine Keeps.set_sram_sramBad (fun h => by exact Vec.exec_wf h) ?_
          refine Keeps.frame State.setFl_frame rfl ?_
          exact .refl
        · refine Keeps.trans ?_ State.vxArrive_keeps
          exact .refl

theorem State.vxIf_keeps {s : State} {f : Nat} {op : Nat} {p : Nat → Bool} : Keeps s (State.vxIf s f op p) := by
  unfold State.vxIf
  refine State.issue_keeps ?_ (fun _ => ?_)
  · exact .refl
  · refine Keeps.ite ?_ ?_
    · refine Keeps.trans ?_ State.vx_keeps
      exact .refl
    · exact .refl

theorem execVxInt_keeps {f : FloretId} {s : State} :
    ∃ out, execVxInt f s = .next out ∧ Keeps s out := by
  refine ⟨_, rfl, ?_⟩
  refine Keeps.trans ?_ State.vxIf_keeps
  exact .refl

theorem execVxFloat_keeps {f : FloretId} {s : State} :
    ∃ out, execVxFloat f s = .next out ∧ Keeps s out := by
  refine ⟨_, rfl, ?_⟩
  refine Keeps.trans ?_ State.vxIf_keeps
  exact .refl

theorem execVxCvt_keeps {f : FloretId} {s : State} :
    ∃ out, execVxCvt f s = .next out ∧ Keeps s out := by
  refine ⟨_, rfl, ?_⟩
  refine Keeps.trans ?_ State.vxIf_keeps
  exact .refl

theorem execVxReduce_keeps {f : FloretId} {s : State} :
    ∃ out, execVxReduce f s = .next out ∧ Keeps s out := by
  refine ⟨_, rfl, ?_⟩
  refine Keeps.trans ?_ State.vxIf_keeps
  exact .refl

theorem execVxSpecial_keeps {f : FloretId} {s : State} :
    ∃ out, execVxSpecial f s = .next out ∧ Keeps s out := by
  refine ⟨_, rfl, ?_⟩
  refine Keeps.trans ?_ State.vxIf_keeps
  exact .refl

theorem execVld_keeps {f : FloretId} {s : State} :
    ∃ out, execVld f s = .next out ∧ Keeps s out := by
  refine ⟨_, rfl, ?_⟩
  refine Keeps.trans ?_ State.vxIf_keeps
  exact .refl

theorem execVst_keeps {f : FloretId} {s : State} :
    ∃ out, execVst f s = .next out ∧ Keeps s out := by
  refine ⟨_, rfl, ?_⟩
  refine Keeps.trans ?_ State.vxIf_keeps
  exact .refl

theorem execNormRms_keeps {f : FloretId} {s : State} :
    ∃ out, execNormRms f s = .next out ∧ Keeps s out := by
  refine ⟨_, rfl, ?_⟩
  refine Keeps.trans ?_ State.vxIf_keeps
  exact .refl

theorem execNormLn_keeps {f : FloretId} {s : State} :
    ∃ out, execNormLn f s = .next out ∧ Keeps s out := by
  refine ⟨_, rfl, ?_⟩
  refine Keeps.trans ?_ State.vxIf_keeps
  exact .refl

theorem execRope_keeps {f : FloretId} {s : State} :
    ∃ out, execRope f s = .next out ∧ Keeps s out := by
  refine ⟨_, rfl, ?_⟩
  refine Keeps.trans ?_ State.vxIf_keeps
  exact .refl

theorem execSmerge_keeps {f : FloretId} {s : State} :
    ∃ out, execSmerge f s = .next out ∧ Keeps s out := by
  refine ⟨_, rfl, ?_⟩
  refine Keeps.trans ?_ State.vxIf_keeps
  exact .refl

theorem execTopkR_keeps {f : FloretId} {s : State} :
    ∃ out, execTopkR f s = .next out ∧ Keeps s out := by
  refine ⟨_, rfl, ?_⟩
  refine Keeps.trans ?_ State.vxIf_keeps
  exact .refl

theorem execTopkL_keeps {f : FloretId} {s : State} :
    ∃ out, execTopkL f s = .next out ∧ Keeps s out := by
  refine ⟨_, rfl, ?_⟩
  refine Keeps.trans ?_ State.vxIf_keeps
  exact .refl

theorem execSample_keeps {f : FloretId} {s : State} :
    ∃ out, execSample f s = .next out ∧ Keeps s out := by
  refine ⟨_, rfl, ?_⟩
  refine Keeps.trans ?_ State.vxIf_keeps
  exact .refl

end Sys2Proof.Machine
end

