-- ==== Sys2Proof/Laws/Mx.lean ====
section
/-! SUPPORT. What each operation and each meaning of Machine/Mx.lean can change at most: the pieces of the state outside
its list stay as they are. -/

namespace Sys2Proof.Machine

theorem State.mxSkip_frame {s : State} {f : Nat} :
    Frame [.regs, .fls] s (State.mxSkip s f) := by
  unfold State.mxSkip
  dsimp only
  split
  · exact .refl
  · refine Frame.ite ?_ ?_
    · exact .refl
    · refine Frame.step State.orReg_frame rfl ?_
      refine Frame.step State.setFl_frame rfl ?_
      exact .refl

theorem execMmaStart_frame {f : FloretId} {a : ArrayId} {s : State} :
    ∃ out, execMmaStart f a s = .next out ∧ Frame [.regs, .fls] s out := by
  refine ⟨_, rfl, ?_⟩
  dsimp only
  refine Frame.ite ?_ ?_
  · exact .refl
  · split
    · exact .refl
    · refine Frame.ite ?_ ?_
      · exact .refl
      · refine Frame.ite ?_ ?_
        · refine Frame.step State.mxSkip_frame rfl ?_
          exact .refl
        · split
          · exact .refl
          · refine Frame.step State.setFl_frame rfl ?_
            exact .refl

theorem State.scaleMm_frame {s : State} {f : Nat} {n : Nat} :
    Frame [.regs, .hostOut] s (State.scaleMm s f n) := by
  unfold State.scaleMm
  refine Frame.ite ?_ ?_
  · exact .refl
  · refine Frame.step State.sticky_frame rfl ?_
    refine Frame.step State.addReg_frame rfl ?_
    exact .refl

theorem State.addResult_frame {s : State} {f : Nat} {a : Nat} {w : Wave} :
    Frame [.regs, .fls, .hostOut] s (State.addResult s f a w) := by
  unfold State.addResult
  dsimp only
  refine Frame.step State.scaleMm_frame rfl ?_
  refine Frame.ite ?_ ?_
  · refine Frame.step State.sticky_frame rfl ?_
    refine Frame.step State.fpFlags_frame rfl ?_
    refine Frame.step State.setFl_frame rfl ?_
    exact .refl
  · refine Frame.step State.fpFlags_frame rfl ?_
    refine Frame.step State.setFl_frame rfl ?_
    exact .refl

theorem execAccumulatorAdd_frame {f : FloretId} {a : ArrayId} {j : Fin8} {s : State} :
    ∃ out, execAccumulatorAdd f a j s = .next out ∧ Frame [.regs, .fls, .hostOut] s out := by
  refine ⟨_, rfl, ?_⟩
  dsimp only
  refine Frame.ite ?_ ?_
  · exact .refl
  · split
    · exact .refl
    · refine Frame.ite ?_ ?_
      · refine Frame.step State.mxSkip_frame rfl ?_
        refine Frame.step State.addResult_frame rfl ?_
        exact .refl
      · exact .refl

theorem State.issueWave_frame {s : State} {f : Nat} {a : Nat} {m : Mma} {sl : Slot} {st : List Int} {words : List Nat} {row : Nat} {rows : Nat} {half : Nat} {last : Bool} :
    Frame [.regs, .fls, .hostOut] s (State.issueWave s f a m sl st words row rows half last) := by
  unfold State.issueWave
  dsimp only
  refine Frame.ite ?_ ?_
  · refine Frame.step State.setFl_frame rfl ?_
    exact .refl
  · refine Frame.step State.fpFlags_frame rfl ?_
    refine Frame.step State.setFl_frame rfl ?_
    exact .refl

theorem State.strictRow_frame {s : State} {f : Nat} {a : Nat} {m : Mma} {sl : Slot} {st : List Int} {words : List Nat} {row : Nat} {last : Bool} :
    Frame [.regs, .fls, .hostOut] s (State.strictRow s f a m sl st words row last) := by
  unfold State.strictRow
  dsimp only
  refine Frame.ite ?_ ?_
  · refine Frame.step State.setFl_frame rfl ?_
    exact .refl
  · refine Frame.step State.scaleMm_frame rfl ?_
    refine Frame.step State.fpFlags_frame rfl ?_
    refine Frame.step State.setFl_frame rfl ?_
    exact .refl

theorem State.arrCycle_frame {s : State} {f : Nat} {a : Nat} :
    Frame [.fls] s (State.arrCycle s f a) := by
  unfold State.arrCycle
  refine Frame.step State.modFl_frame rfl ?_
  exact .refl

theorem State.bubble_frame {s : State} {f : Nat} {a : Nat} :
    Frame [.regs, .fls] s (State.bubble s f a) := by
  unfold State.bubble
  refine Frame.step State.addReg_frame rfl ?_
  refine Frame.step State.modFl_frame rfl ?_
  exact .refl

theorem State.arrayStep_frame {s : State} {f : Nat} {a : Nat} :
    Frame [.regs, .fls, .hostOut] s (State.arrayStep s f a) := by
  unfold State.arrayStep
  dsimp only
  refine Frame.ite ?_ ?_
  · refine Frame.step State.addReg_frame rfl ?_
    exact .refl
  · refine Frame.ite ?_ ?_
    · exact .refl
    · split
      · refine Frame.ite ?_ ?_
        · refine Frame.step State.arrCycle_frame rfl ?_
          exact .refl
        · exact .refl
      · split
        · refine Frame.ite ?_ ?_
          · refine Frame.ite ?_ ?_
            · refine Frame.step State.arrCycle_frame rfl ?_
              exact .refl
            · exact .refl
          · refine Frame.step State.bubble_frame rfl ?_
            exact .refl
        · refine Frame.step State.setFl_frame rfl ?_
          exact .refl
        · refine Frame.ite ?_ ?_
          · refine Frame.ite ?_ ?_
            · refine Frame.step State.arrCycle_frame rfl ?_
              exact .refl
            · refine Frame.ite ?_ ?_
              · exact .refl
              · refine Frame.step State.strictRow_frame rfl ?_
                exact .refl
          · refine Frame.ite ?_ ?_
            · refine Frame.step State.addReg_frame rfl ?_
              refine Frame.step State.arrCycle_frame rfl ?_
              exact .refl
            · refine Frame.step State.issueWave_frame rfl ?_
              exact .refl

theorem execWavefrontIssue_frame {f : FloretId} {a : ArrayId} {s : State} :
    ∃ out, execWavefrontIssue f a s = .next out ∧ Frame [.regs, .fls, .hostOut] s out := by
  refine ⟨_, rfl, ?_⟩
  refine Frame.ite ?_ ?_
  · refine Frame.step State.mxSkip_frame rfl ?_
    refine Frame.step State.arrayStep_frame rfl ?_
    exact .refl
  · exact .refl

theorem execStationaryLoadStart_frame {f : FloretId} {a : ArrayId} {s : State} :
    ∃ out, execStationaryLoadStart f a s = .next out ∧ Frame [.regs, .fls] s out := by
  refine ⟨_, rfl, ?_⟩
  dsimp only
  refine Frame.ite ?_ ?_
  · exact .refl
  · split
    · exact .refl
    · refine Frame.ite ?_ ?_
      · exact .refl
      · split
        · exact .refl
        · refine Frame.ite ?_ ?_
          · refine Frame.step State.addReg_frame rfl ?_
            refine Frame.step State.setFl_frame rfl ?_
            exact .refl
          · refine Frame.step State.setFl_frame rfl ?_
            exact .refl

theorem execStationaryRowCommit_frame {f : FloretId} {a : ArrayId} {s : State} :
    ∃ out, execStationaryRowCommit f a s = .next out ∧ Frame [.regs, .fls, .hostOut] s out := by
  refine ⟨_, rfl, ?_⟩
  dsimp only
  refine Frame.ite ?_ ?_
  · exact .refl
  · split
    · exact .refl
    · refine Frame.ite ?_ ?_
      · refine Frame.step State.setFl_frame rfl ?_
        exact .refl
      · refine Frame.ite ?_ ?_
        · refine Frame.step State.addReg_frame rfl ?_
          exact .refl
        · refine Frame.step State.mxSkip_frame rfl ?_
          refine Frame.ite ?_ ?_
          · refine Frame.step State.addReg_frame rfl ?_
            refine Frame.step State.setFl_frame rfl ?_
            exact .refl
          · refine Frame.step State.sticky_frame rfl ?_
            refine Frame.step State.addReg_frame rfl ?_
            refine Frame.step State.addReg_frame rfl ?_
            refine Frame.step State.setFl_frame rfl ?_
            exact .refl

end Sys2Proof.Machine
end

