-- ==== Sys2Proof/Laws/Feeds.lean ====
section
/-! SUPPORT. What each operation and each meaning of Machine/Feeds.lean can change at most: the pieces of the state outside
its list stay as they are. -/

namespace Sys2Proof.Machine

theorem State.endFeed_frame {s : State} {f : Nat} {e : Nat} :
    Frame [.fls] s (State.endFeed s f e) := by
  unfold State.endFeed
  refine Frame.step State.modFl_frame rfl ?_
  exact .refl

theorem execFeedSlotDeliver_frame {f : FloretId} {e : FeedId} {s : State} :
    ∃ out, execFeedSlotDeliver f e s = .next out ∧ Frame [.regs, .cnt64, .fls, .reports, .hostOut, .logPtr] s out := by
  refine ⟨_, rfl, ?_⟩
  dsimp only
  refine Frame.ite ?_ ?_
  · exact .refl
  · refine Frame.ite ?_ ?_
    · refine Frame.ite ?_ ?_
      · refine Frame.step State.logErr_frame rfl ?_
        refine Frame.step State.event_frame rfl ?_
        refine Frame.step State.orReg_frame rfl ?_
        refine Frame.step State.progress_frame rfl ?_
        refine Frame.step State.cnt_frame rfl ?_
        refine Frame.step State.setFl_frame rfl ?_
        exact .refl
      · refine Frame.step State.progress_frame rfl ?_
        refine Frame.step State.cnt_frame rfl ?_
        refine Frame.step State.setFl_frame rfl ?_
        exact .refl
    · refine Frame.step State.flFault_frame rfl ?_
      refine Frame.ite ?_ ?_
      · refine Frame.step State.logErr_frame rfl ?_
        refine Frame.step State.event_frame rfl ?_
        refine Frame.step State.orReg_frame rfl ?_
        refine Frame.step State.progress_frame rfl ?_
        refine Frame.step State.cnt_frame rfl ?_
        refine Frame.step State.setFl_frame rfl ?_
        exact .refl
      · refine Frame.step State.progress_frame rfl ?_
        refine Frame.step State.cnt_frame rfl ?_
        refine Frame.step State.setFl_frame rfl ?_
        exact .refl

theorem State.sendCredit_frame {s : State} {f : FloretId} {e : Nat} :
    Frame [.regs, .cnt64, .fls, .ums, .reports, .hostOut, .freeCtr, .fab, .logPtr, .pw] s (State.sendCredit s f e) := by
  unfold State.sendCredit
  dsimp only
  refine Frame.ite ?_ ?_
  · refine Frame.step State.flSignal_frame rfl ?_
    exact .refl
  · exact .refl

theorem execFeedSlotRelease_frame {f : FloretId} {e : FeedId} {s : State} :
    ∃ out, execFeedSlotRelease f e s = .next out ∧ Frame [.regs, .cnt64, .fls, .ums, .reports, .hostOut, .freeCtr, .fab, .logPtr, .pw] s out := by
  refine ⟨_, rfl, ?_⟩
  dsimp only
  refine Frame.ite ?_ ?_
  · exact .refl
  · refine Frame.step State.mxSkip_frame rfl ?_
    split
    · refine Frame.step State.sendCredit_frame rfl ?_
      refine Frame.step State.sendCredit_frame rfl ?_
      refine Frame.step State.setFl_frame rfl ?_
      exact .refl
    · refine Frame.step State.sendCredit_frame rfl ?_
      refine Frame.step State.setFl_frame rfl ?_
      exact .refl

end Sys2Proof.Machine
end

