-- ==== Sys2Proof/Laws/Trace.lean ====
section
/-! SUPPORT. What each operation and each meaning of Machine/Trace.lean can change at most: the pieces of the state outside
its list stay as they are. -/

namespace Sys2Proof.Machine

theorem State.setLsl_frame {s : State} {t : Nat} {x : LSlot} :
    Frame [.fe] s (State.setLsl s t x) := by
  unfold State.setLsl
  refine Frame.set_fe rfl ?_
  exact .refl

theorem State.setTr_frame {s : State} {x : Trace} :
    Frame [.tr] s (State.setTr s x) := by
  unfold State.setTr
  refine Frame.set_tr rfl ?_
  exact .refl

theorem State.trDrop_frame {s : State} {time : Nat} :
    Frame [.regs, .hostOut, .tr] s (State.trDrop s time) := by
  unfold State.trDrop
  dsimp only
  refine Frame.ite ?_ ?_
  · refine Frame.step State.event_frame rfl ?_
    refine Frame.step State.addReg_frame rfl ?_
    refine Frame.step State.setTr_frame rfl ?_
    exact .refl
  · refine Frame.step State.addReg_frame rfl ?_
    refine Frame.step State.setTr_frame rfl ?_
    exact .refl

theorem State.trace_frame {s : State} {q : Nat} {ty : Nat} {flags : Nat} {source : Nat} {lid : Nat} {slot : Nat} {payload : Nat} :
    Frame [.regs, .hostOut, .tr] s (State.trace s q ty flags source lid slot payload) := by
  unfold State.trace
  refine Frame.ite ?_ ?_
  · exact .refl
  · dsimp only
    refine Frame.ite ?_ ?_
    · refine Frame.step State.trDrop_frame rfl ?_
      exact .refl
    · refine Frame.step State.setTr_frame rfl ?_
      exact .refl

theorem State.traceFl_frame {s : State} {f : Nat} {ty : Nat} {flags : Nat} {payload : Nat} :
    Frame [.regs, .hostOut, .tr] s (State.traceFl s f ty flags payload) := by
  unfold State.traceFl
  dsimp only
  refine Frame.ite ?_ ?_
  · refine Frame.step State.trace_frame rfl ?_
    exact .refl
  · refine Frame.step State.trace_frame rfl ?_
    exact .refl

theorem State.traceFe_frame {s : State} {t : Option Nat} {ty : Nat} {payload : Nat} :
    Frame [.regs, .hostOut, .tr] s (State.traceFe s t ty payload) := by
  unfold State.traceFe
  split
  · refine Frame.step State.trace_frame rfl ?_
    exact .refl
  · refine Frame.step State.trace_frame rfl ?_
    exact .refl

theorem State.traceUmc_frame {s : State} {ty : Nat} {lid : Nat} {slot : Nat} {payload : Nat} :
    Frame [.regs, .hostOut, .tr] s (State.traceUmc s ty lid slot payload) := by
  unfold State.traceUmc
  refine Frame.step State.trace_frame rfl ?_
  exact .refl

theorem State.trLine_frame {s : State} {a : Nat} {l : Line} :
    Frame [.regs, .cnt64, .hbm, .logPtr] s (State.trLine s a l) := by
  unfold State.trLine
  refine Frame.ite ?_ ?_
  · refine Frame.step State.addrErr_frame rfl ?_
    exact .refl
  · refine Frame.step State.hbmWrite_frame rfl ?_
    exact .refl

theorem State.trPut_frame {s : State} {r : Nat} :
    Frame [.regs, .cnt64, .hbm, .logPtr, .tr] s (State.trPut s r) := by
  unfold State.trPut
  dsimp only
  refine Frame.ite ?_ ?_
  · refine Frame.step State.trLine_frame rfl ?_
    refine Frame.step State.setTr_frame rfl ?_
    exact .refl
  · refine Frame.step State.setTr_frame rfl ?_
    exact .refl

theorem execTraceWrite_frame {s : State} :
    ∃ out, execTraceWrite s = .next out ∧ Frame [.regs, .cnt64, .hostOut, .freeCtr, .hbm, .logPtr, .tr] s out := by
  refine ⟨_, rfl, ?_⟩
  refine Frame.ite ?_ ?_
  · exact .refl
  · refine Frame.ite ?_ ?_
    · dsimp only
      refine Frame.step State.setTr_frame rfl ?_
      refine Frame.step State.trPut_frame rfl ?_
      refine Frame.step State.fresh_frame rfl ?_
      exact .refl
    · split
      · exact .refl
      · dsimp only
        split
        · refine Frame.step State.setTr_frame rfl ?_
          exact .refl
        · refine Frame.ite ?_ ?_
          · refine Frame.step State.trPut_frame rfl ?_
            refine Frame.step State.setTr_frame rfl ?_
            exact .refl
          · refine Frame.step State.trDrop_frame rfl ?_
            refine Frame.step State.setTr_frame rfl ?_
            exact .refl

theorem State.trCfgWrite_frame {s : State} {v : Nat} :
    Frame [.regs, .tr] s (State.trCfgWrite s v) := by
  unfold State.trCfgWrite
  dsimp only
  refine Frame.ite ?_ ?_
  · refine Frame.step State.setReg_frame rfl ?_
    refine Frame.step State.setReg_frame rfl ?_
    refine Frame.step State.setTr_frame rfl ?_
    refine Frame.step State.setReg_frame rfl ?_
    refine Frame.ite ?_ ?_
    · refine Frame.step State.orReg_frame rfl ?_
      exact .refl
    · exact .refl
  · refine Frame.step State.setReg_frame rfl ?_
    refine Frame.ite ?_ ?_
    · refine Frame.step State.orReg_frame rfl ?_
      exact .refl
    · exact .refl

theorem State.trTailWrite_frame {s : State} {v : Nat} :
    Frame [.regs] s (State.trTailWrite s v) := by
  unfold State.trTailWrite
  dsimp only
  refine Frame.ite ?_ ?_
  · refine Frame.step State.setReg_frame rfl ?_
    exact .refl
  · refine Frame.step State.orReg_frame rfl ?_
    exact .refl

theorem execTrCfgWrite_frame {v : W32} {s : State} :
    ∃ out, execTrCfgWrite v s = .next out ∧ Frame [.regs, .tr] s out := by
  refine ⟨_, rfl, ?_⟩
  refine Frame.step State.trCfgWrite_frame rfl ?_
  exact .refl

theorem execTrTailWrite_frame {v : W32} {s : State} :
    ∃ out, execTrTailWrite v s = .next out ∧ Frame [.regs] s out := by
  refine ⟨_, rfl, ?_⟩
  refine Frame.step State.trTailWrite_frame rfl ?_
  exact .refl

theorem State.trLine_keeps {s : State} {a : Nat} {l : Line} : Keeps s (State.trLine s a l) := by
  unfold State.trLine
  refine Keeps.ite ?_ ?_
  · refine Keeps.frame State.addrErr_frame rfl ?_
    exact .refl
  · refine Keeps.trans ?_ State.hbmWrite_keeps
    exact .refl

theorem State.trPut_keeps {s : State} {r : Nat} : Keeps s (State.trPut s r) := by
  unfold State.trPut
  dsimp only
  refine Keeps.ite ?_ ?_
  · refine Keeps.trans ?_ State.trLine_keeps
    refine Keeps.frame State.setTr_frame rfl ?_
    exact .refl
  · refine Keeps.frame State.setTr_frame rfl ?_
    exact .refl

theorem execTraceWrite_keeps {s : State} :
    ∃ out, execTraceWrite s = .next out ∧ Keeps s out := by
  refine ⟨_, rfl, ?_⟩
  refine Keeps.ite ?_ ?_
  · exact .refl
  · refine Keeps.ite ?_ ?_
    · dsimp only
      refine Keeps.frame State.setTr_frame rfl ?_
      refine Keeps.trans ?_ State.trPut_keeps
      refine Keeps.frame State.fresh_frame rfl ?_
      exact .refl
    · split
      · exact .refl
      · dsimp only
        split
        · refine Keeps.frame State.setTr_frame rfl ?_
          exact .refl
        · refine Keeps.ite ?_ ?_
          · refine Keeps.trans ?_ State.trPut_keeps
            refine Keeps.frame State.setTr_frame rfl ?_
            exact .refl
          · refine Keeps.frame State.trDrop_frame rfl ?_
            refine Keeps.frame State.setTr_frame rfl ?_
            exact .refl

end Sys2Proof.Machine
end

