-- ==== Sys2Proof/Laws/Qx.lean ====
section
/-! SUPPORT. What each operation and each meaning of Machine/Qx.lean can change at most: the pieces of the state outside
its list stay as they are. -/

namespace Sys2Proof.Machine

theorem State.qxTake_frame {s : State} {f : Nat} {r : State} (hr : State.qxTake s f = some r) :
    Frame [.regs, .cnt64, .fls, .reports, .hostOut] s r := by
  unfold State.qxTake at hr
  dsimp only at hr
  split at hr
  · cases hr
  · split at hr
    · cases hr
    · obtain rfl := Option.some.inj hr
      refine Frame.ite ?_ ?_
      · refine Frame.step State.flFault_frame rfl ?_
        refine Frame.step State.addReg_frame rfl ?_
        refine Frame.step State.addReg_frame rfl ?_
        refine Frame.ite ?_ ?_
        · refine Frame.step State.orReg_frame rfl ?_
          refine Frame.ite ?_ ?_
          · refine Frame.step State.orReg_frame rfl ?_
            refine Frame.step State.fpFlags_frame rfl ?_
            refine Frame.step State.cnt_frame rfl ?_
            refine Frame.step State.setFl_frame rfl ?_
            exact .refl
          · refine Frame.step State.fpFlags_frame rfl ?_
            refine Frame.step State.cnt_frame rfl ?_
            refine Frame.step State.setFl_frame rfl ?_
            exact .refl
        · refine Frame.ite ?_ ?_
          · refine Frame.step State.orReg_frame rfl ?_
            refine Frame.step State.fpFlags_frame rfl ?_
            refine Frame.step State.cnt_frame rfl ?_
            refine Frame.step State.setFl_frame rfl ?_
            exact .refl
          · refine Frame.step State.fpFlags_frame rfl ?_
            refine Frame.step State.cnt_frame rfl ?_
            refine Frame.step State.setFl_frame rfl ?_
            exact .refl
      · refine Frame.step State.addReg_frame rfl ?_
        refine Frame.step State.addReg_frame rfl ?_
        refine Frame.ite ?_ ?_
        · refine Frame.step State.orReg_frame rfl ?_
          refine Frame.ite ?_ ?_
          · refine Frame.step State.orReg_frame rfl ?_
            refine Frame.step State.fpFlags_frame rfl ?_
            refine Frame.step State.cnt_frame rfl ?_
            refine Frame.step State.setFl_frame rfl ?_
            exact .refl
          · refine Frame.step State.fpFlags_frame rfl ?_
            refine Frame.step State.cnt_frame rfl ?_
            refine Frame.step State.setFl_frame rfl ?_
            exact .refl
        · refine Frame.ite ?_ ?_
          · refine Frame.step State.orReg_frame rfl ?_
            refine Frame.step State.fpFlags_frame rfl ?_
            refine Frame.step State.cnt_frame rfl ?_
            refine Frame.step State.setFl_frame rfl ?_
            exact .refl
          · refine Frame.step State.fpFlags_frame rfl ?_
            refine Frame.step State.cnt_frame rfl ?_
            refine Frame.step State.setFl_frame rfl ?_
            exact .refl

theorem execMark_frame {f : FloretId} {s : State} :
    ∃ out, execMark f s = .next out ∧ Frame [.regs, .fls, .reports, .hostOut, .freeCtr, .logPtr, .tr] s out := by
  refine ⟨_, rfl, ?_⟩
  refine State.issue_frame rfl ?_ (fun _ => ?_)
  · exact .refl
  · dsimp only
    refine Frame.ite ?_ ?_
    · exact .refl
    · refine Frame.step State.retire_frame rfl ?_
      refine Frame.ite ?_ ?_
      · refine Frame.step State.traceFl_frame rfl ?_
        refine Frame.ite ?_ ?_
        · refine Frame.step State.setFl_frame rfl ?_
          exact .refl
        · exact .refl
      · refine Frame.ite ?_ ?_
        · refine Frame.step State.setFl_frame rfl ?_
          exact .refl
        · exact .refl

theorem execDigestPublish_frame {f : FloretId} {s : State} :
    ∃ out, execDigestPublish f s = .next out ∧ Frame [.regs, .fls, .hostOut, .tr] s out := by
  refine ⟨_, rfl, ?_⟩
  dsimp only
  split
  · refine Frame.ite ?_ ?_
    · refine Frame.step State.traceFl_frame rfl ?_
      refine Frame.step State.addReg_frame rfl ?_
      refine Frame.step State.setReg_frame rfl ?_
      refine Frame.step State.setReg_frame rfl ?_
      refine Frame.step State.setReg_frame rfl ?_
      refine Frame.step State.setReg_frame rfl ?_
      refine Frame.step State.setFl_frame rfl ?_
      exact .refl
    · exact .refl
  · exact .refl

end Sys2Proof.Machine
end

