-- ==== Sys2Proof/Laws/Engines.lean ====
section
/-! SUPPORT. What each operation and each meaning of Machine/Engines.lean can change at most: the pieces of the state outside
its list stay as they are. -/

namespace Sys2Proof.Machine

theorem State.setEng_frame {s : State} {g : Agent} {x : Eng} : Frame [.fls, .ums, .fe] s (State.setEng s g x) := by
  cases g <;> first
    | exact .refl
    | exact Frame.mono State.modFl_frame rfl
    | exact Frame.mono State.modUm_frame rfl
    | exact Frame.set_fe rfl .refl

theorem State.modEng_frame {s : State} {g : Agent} {h : Eng → Eng} :
    Frame [.fls, .ums, .fe] s (State.modEng s g h) := by
  unfold State.modEng
  refine Frame.step State.setEng_frame rfl ?_
  exact .refl

theorem State.modDesc_frame {s : State} {g : Agent} {d : Nat} {h : Desc → Desc} :
    Frame [.fls, .ums, .fe] s (State.modDesc s g d h) := by
  unfold State.modDesc
  refine Frame.step State.modEng_frame rfl ?_
  exact .refl

theorem State.countDesc_frame {s : State} {g : Agent} :
    Frame [.regs, .fls] s (State.countDesc s g) := by
  unfold State.countDesc
  split
  · refine Frame.step State.progress_frame rfl ?_
    refine Frame.step State.modFl_frame rfl ?_
    exact .refl
  · refine Frame.step State.progress_frame rfl ?_
    refine Frame.step State.modFl_frame rfl ?_
    exact .refl
  · refine Frame.step State.addReg_frame rfl ?_
    exact .refl
  · exact .refl

theorem State.engLoss_frame {s : State} {g : Agent} {write : Bool} :
    Frame [.regs, .fls, .ums, .reports, .hostOut, .fe] s (State.engLoss s g write) := by
  unfold State.engLoss
  dsimp only
  split
  · refine Frame.step State.flFault_frame rfl ?_
    refine Frame.step State.sticky_frame rfl ?_
    split
    · exact .refl
    · refine Frame.step State.modEng_frame rfl ?_
      exact .refl
  · refine Frame.step State.flFault_frame rfl ?_
    refine Frame.step State.sticky_frame rfl ?_
    split
    · exact .refl
    · refine Frame.step State.modEng_frame rfl ?_
      exact .refl
  · refine Frame.step State.report_frame rfl ?_
    refine Frame.step State.sticky_frame rfl ?_
    split
    · exact .refl
    · refine Frame.step State.modEng_frame rfl ?_
      exact .refl
  · split
    · exact .refl
    · refine Frame.step State.modEng_frame rfl ?_
      exact .refl

theorem State.countLoss_frame {s : State} {g : Agent} {write : Bool} :
    Frame [.regs] s (State.countLoss s g write) := by
  unfold State.countLoss
  split
  · refine Frame.step State.addReg_frame rfl ?_
    exact .refl
  · refine Frame.step State.addReg_frame rfl ?_
    exact .refl
  · refine Frame.step State.setField_frame rfl ?_
    exact .refl
  · refine Frame.step State.setField_frame rfl ?_
    exact .refl
  · exact .refl

theorem State.doSignal_frame {s : State} {g : Agent} {d : Desc} :
    Frame [.regs, .cnt64, .fls, .ums, .hostOut, .freeCtr, .fab, .logPtr, .pw] s (State.doSignal s g d).2 := by
  unfold State.doSignal
  dsimp only
  split
  · dsimp only
    refine Frame.step State.tallyAdd_frame rfl ?_
    exact .refl
  · dsimp only
    refine Frame.step State.tallyAdd_frame rfl ?_
    exact .refl
  · split
    · dsimp only
      refine Frame.step State.inject_frame rfl ?_
      refine Frame.step State.tallyAdd_frame rfl ?_
      exact .refl
    · dsimp only
      refine Frame.step State.inject_frame rfl ?_
      refine Frame.step State.tallyAdd_frame rfl ?_
      exact .refl

theorem State.endTo_frame {s : State} {q : Req} {a : Nat} {e : Nat} :
    Frame [.regs, .fls, .logPtr, .pw] s (State.endTo s q a e).2 := by
  unfold State.endTo
  split
  · split
    · dsimp only
      exact .refl
    · dsimp only
      refine Frame.step State.endFeed_frame rfl ?_
      refine Frame.step State.ungate_frame rfl ?_
      exact .refl
  · dsimp only
    refine Frame.step State.addrErr_frame rfl ?_
    exact .refl

theorem execFeedEndMarker_frame {f : FloretId} {e : FeedId} {s : State} :
    ∃ out, execFeedEndMarker f e s = .next out ∧ Frame [.regs, .fls, .ums, .reports, .hostOut, .fe] s out := by
  refine ⟨_, rfl, ?_⟩
  dsimp only
  refine Frame.ite ?_ ?_
  · refine Frame.ite ?_ ?_
    · refine Frame.step State.engLoss_frame rfl ?_
      refine Frame.step State.setFl_frame rfl ?_
      exact .refl
    · refine Frame.step State.endFeed_frame rfl ?_
      refine Frame.step State.setFl_frame rfl ?_
      exact .refl
  · exact .refl

theorem State.doEnd_frame {s : State} {g : Agent} {d : Desc} :
    Frame [.regs, .cnt64, .fls, .hostOut, .freeCtr, .fab, .logPtr, .pw] s (State.doEnd s g d).2 := by
  unfold State.doEnd
  dsimp only
  split
  · dsimp only
    refine Frame.step State.modFl_frame rfl ?_
    exact .refl
  · split
    · refine Frame.trans ?_ (Frame.foldl_at (fun (a : SigOut × State) => a.2) (fun a x => ?_))
      · dsimp only
        exact .refl
      · split
        · dsimp only
          refine Frame.step State.endTo_frame rfl ?_
          exact .refl
        · exact .refl
    · split
      · refine Frame.step State.endTo_frame rfl ?_
        exact .refl
      · dsimp only
        refine Frame.step State.inject_frame rfl ?_
        exact .refl
  · split
    · refine Frame.step State.endTo_frame rfl ?_
      exact .refl
    · dsimp only
      refine Frame.step State.inject_frame rfl ?_
      exact .refl

theorem State.complete_frame {s : State} {g : Agent} {d : Desc} :
    Frame [.regs, .fls, .ums, .fe] s (State.complete s g d) := by
  unfold State.complete
  dsimp only
  refine Frame.step State.countDesc_frame rfl ?_
  split
  · refine Frame.ite ?_ ?_
    · refine Frame.step State.modFl_frame rfl ?_
      refine Frame.step State.modEng_frame rfl ?_
      exact .refl
    · refine Frame.step State.modEng_frame rfl ?_
      exact .refl
  · refine Frame.step State.modEng_frame rfl ?_
    exact .refl

theorem State.cascade_frame {x1 : Nat} {x2 : State} {x3 : Agent} :
    Frame [.regs, .cnt64, .fls, .ums, .reports, .hostOut, .freeCtr, .fab, .logPtr, .fe, .pw] x2 (State.cascade x1 x2 x3) := by
  induction x1 generalizing x2 x3 with
  | zero => exact .refl
  | succ n ih =>
    unfold State.cascade
    dsimp only
    split
    · refine Frame.ite ?_ ?_
      · exact .refl
      · split
        · refine Frame.trans ?_ ih
          refine Frame.step State.complete_frame rfl ?_
          split
          · refine Frame.step State.doSignal_frame rfl ?_
            exact .refl
          · refine Frame.step State.doEnd_frame rfl ?_
            exact .refl
        · refine Frame.step State.modDesc_frame rfl ?_
          split
          · refine Frame.step State.doSignal_frame rfl ?_
            exact .refl
          · refine Frame.step State.doEnd_frame rfl ?_
            exact .refl
        · refine Frame.step State.engLoss_frame rfl ?_
          refine Frame.step State.complete_frame rfl ?_
          split
          · refine Frame.step State.doSignal_frame rfl ?_
            exact .refl
          · refine Frame.step State.doEnd_frame rfl ?_
            exact .refl
    · exact .refl

theorem State.qoutTake_frame {s : State} {f : FloretId} {r : State} (hr : State.qoutTake s f = some r) :
    Frame [.fls, .ums, .fe] s r := by
  unfold State.qoutTake at hr
  dsimp only at hr
  split at hr
  · split at hr
    · split at hr
      · cases hr
      · obtain rfl := Option.some.inj hr
        refine Frame.step State.modDesc_frame rfl ?_
        refine Frame.step State.setFl_frame rfl ?_
        exact .refl
    · split at hr
      · cases hr
      · obtain rfl := Option.some.inj hr
        refine Frame.step State.modDesc_frame rfl ?_
        refine Frame.step State.setFl_frame rfl ?_
        exact .refl
  · cases hr

theorem State.qoutPull_frame {x1 : Nat} {x2 : State} {x3 : FloretId} :
    Frame [.regs, .cnt64, .fls, .ums, .reports, .hostOut, .fe] x2 (State.qoutPull x1 x2 x3) := by
  induction x1 generalizing x2 x3 with
  | zero => exact .refl
  | succ n ih =>
    unfold State.qoutPull
    split
    · refine Frame.trans ?_ ih
      refine Frame.step (State.qoutTake_frame (by assumption)) rfl ?_
      exact .refl
    · split
      · refine Frame.trans ?_ ih
        refine Frame.step (State.qxTake_frame (by assumption)) rfl ?_
        exact .refl
      · exact .refl

theorem State.pullQout_frame {s : State} {f : FloretId} :
    Frame [.regs, .cnt64, .fls, .ums, .reports, .hostOut, .fe] s (State.pullQout s f) := by
  unfold State.pullQout
  refine Frame.step State.qoutPull_frame rfl ?_
  exact .refl

theorem State.roomMade_frame {s : State} {g : Agent} :
    Frame [.regs, .cnt64, .fls, .ums, .reports, .hostOut, .fe] s (State.roomMade s g) := by
  unfold State.roomMade
  split
  · refine Frame.step State.pullQout_frame rfl ?_
    exact .refl
  · exact .refl

theorem State.settle_frame {s : State} {g : Agent} {id : Nat} :
    Frame [.regs, .cnt64, .fls, .ums, .reports, .hostOut, .freeCtr, .fab, .logPtr, .fe, .pw] s (State.settle s g id) := by
  unfold State.settle
  split
  · exact .refl
  · dsimp only
    split
    · refine Frame.ite ?_ ?_
      · refine Frame.step State.cascade_frame rfl ?_
        refine Frame.step State.complete_frame rfl ?_
        refine Frame.step State.roomMade_frame rfl ?_
        exact .refl
      · refine Frame.step State.roomMade_frame rfl ?_
        exact .refl
    · refine Frame.step State.roomMade_frame rfl ?_
      exact .refl

theorem State.digestLine_frame {s : State} {g : Agent} {d : Desc} {i : Nat} {h : Held} :
    Frame [.fls] s (State.digestLine s g d i h) := by
  unfold State.digestLine
  split
  · refine Frame.ite ?_ ?_
    · refine Frame.step State.modFl_frame rfl ?_
      exact .refl
    · exact .refl
  · exact .refl

theorem State.countRef_frame {s : State} {g : Agent} {d : Nat} {i : Nat} {ref : Nat} {f : Option Nat} {u : Option Nat} {v : W32} :
    Frame [.regs, .cnt64, .fls, .ums, .hostOut, .freeCtr, .fab, .logPtr, .pw] s (State.countRef s g d i ref f u v).2 := by
  unfold State.countRef
  dsimp only
  split
  · dsimp only
    refine Frame.step State.tallyAdd_frame rfl ?_
    exact .refl
  · dsimp only
    refine Frame.step State.tallyAdd_frame rfl ?_
    exact .refl
  · split
    · dsimp only
      refine Frame.step State.inject_frame rfl ?_
      refine Frame.step State.tallyAdd_frame rfl ?_
      exact .refl
    · dsimp only
      refine Frame.step State.inject_frame rfl ?_
      refine Frame.step State.tallyAdd_frame rfl ?_
      exact .refl

theorem State.countTally_frame {s : State} {g : Agent} {d : Desc} {i : Nat} {mask : Nat} :
    Frame [.regs, .cnt64, .fls, .ums, .hostOut, .freeCtr, .fab, .logPtr, .pw] s (State.countTally s g d i mask).2 := by
  unfold State.countTally
  split
  · dsimp only
    exact .refl
  · refine Frame.step State.countRef_frame rfl ?_
    exact .refl

theorem State.lineDone_frame {s : State} {g : Agent} {d : Desc} {i : Nat} :
    Frame [.regs, .cnt64, .fls, .ums, .reports, .hostOut, .freeCtr, .fab, .logPtr, .fe, .pw] s (State.lineDone s g d i) := by
  unfold State.lineDone
  dsimp only
  refine Frame.step State.settle_frame rfl ?_
  split
  · refine Frame.step State.addReg_frame rfl ?_
    refine Frame.step State.modDesc_frame rfl ?_
    exact .refl
  · refine Frame.step State.addReg_frame rfl ?_
    refine Frame.step State.modDesc_frame rfl ?_
    exact .refl
  · refine Frame.step State.modDesc_frame rfl ?_
    exact .refl

theorem State.lineCounted_frame {s : State} {g : Agent} {d : Desc} {i : Nat} {h : Held} {tally : Bool} :
    Frame [.regs, .cnt64, .fls, .ums, .reports, .hostOut, .freeCtr, .fab, .logPtr, .fe, .pw] s (State.lineCounted s g d i h tally) := by
  unfold State.lineCounted
  dsimp only
  refine Frame.step State.lineDone_frame rfl ?_
  refine Frame.ite ?_ ?_
  · refine Frame.step State.engLoss_frame rfl ?_
    refine Frame.step State.modDesc_frame rfl ?_
    split
    · refine Frame.step State.countTally_frame rfl ?_
      refine Frame.step State.digestLine_frame rfl ?_
      exact .refl
    · dsimp only
      refine Frame.step State.digestLine_frame rfl ?_
      exact .refl
  · split
    · refine Frame.step State.countTally_frame rfl ?_
      refine Frame.step State.digestLine_frame rfl ?_
      exact .refl
    · dsimp only
      refine Frame.step State.digestLine_frame rfl ?_
      exact .refl

theorem State.markLost_frame {s : State} {g : Agent} {d : Nat} {i : Nat} :
    Frame [.fls, .ums, .fe] s (State.markLost s g d i) := by
  unfold State.markLost
  refine Frame.step State.modDesc_frame rfl ?_
  exact .refl

theorem State.holdLine_frame {s : State} {g : Agent} {d : Nat} {i : Nat} {l : Line} {p : Bool} :
    Frame [.fls, .ums, .fe] s (State.holdLine s g d i l p) := by
  unfold State.holdLine
  refine Frame.step State.modDesc_frame rfl ?_
  exact .refl

theorem State.engRead_frame {ps : List Piece} {io : RegIO} {s : State} {g : Agent} {id : Nat} {i : Nat} {e : Ecc} (hio : io.Within ps)
    (hw : Piece.within [.regs, .cnt64, .fls, .ums, .sram, .sramBad, .reports, .hostOut, .freeCtr, .hbm, .fab, .logPtr, .fe, .pw] ps = true) : Frame ps s (State.engRead io s g id i e) := by
  unfold State.engRead
  split
  · exact .refl
  · refine Frame.ite ?_ ?_
    · exact .refl
    · split
      · exact .refl
      · refine Frame.ite ?_ ?_
        · refine Frame.ite ?_ ?_
          · exact .refl
          · dsimp only
            split
            · refine Frame.step State.holdLine_frame (Piece.within_trans rfl hw) ?_
              refine Frame.trans ?_ (State.readLocal_frame hio (Piece.within_trans rfl hw))
              exact .refl
            · refine Frame.step State.modDesc_frame (Piece.within_trans rfl hw) ?_
              refine Frame.trans ?_ (State.readLocal_frame hio (Piece.within_trans rfl hw))
              exact .refl
            · exact .refl
        · dsimp only
          split
          · refine Frame.step State.modDesc_frame (Piece.within_trans rfl hw) ?_
            refine Frame.step State.inject_frame (Piece.within_trans rfl hw) ?_
            exact .refl
          · refine Frame.step State.modDesc_frame (Piece.within_trans rfl hw) ?_
            refine Frame.step State.inject_frame (Piece.within_trans rfl hw) ?_
            exact .refl

theorem State.engReturn_frame {s : State} {g : Agent} {id : Nat} {i : Nat} :
    Frame [.fls, .ums, .reports, .fe] s (State.engReturn s g id i) := by
  unfold State.engReturn
  split
  · exact .refl
  · refine Frame.ite ?_ ?_
    · dsimp only
      refine Frame.ite ?_ ?_
      · refine Frame.step State.report_frame rfl ?_
        refine Frame.step State.modDesc_frame rfl ?_
        exact .refl
      · refine Frame.step State.modDesc_frame rfl ?_
        exact .refl
    · exact .refl

theorem State.castLine_frame {ps : List Piece} {io : RegIO} {s : State} {g : Agent} {d : Desc} {h : Held} {a : Nat} {e : Ecc} (hio : io.Within ps)
    (hw : Piece.within [.regs, .cnt64, .fls, .ums, .sram, .sramBad, .hostMem, .reports, .hostOut, .freeCtr, .hbm, .logPtr, .pw, .hostReads] ps = true) : Frame ps s (State.castLine io s g d h a e).2 := by
  unfold State.castLine
  dsimp only
  split
  · split
    · dsimp only
      refine Frame.step State.tallyAdd_frame (Piece.within_trans rfl hw) ?_
      refine Frame.trans ?_ (State.writeLocal_frame hio (Piece.within_trans rfl hw))
      exact .refl
    · dsimp only
      refine Frame.trans ?_ (State.writeLocal_frame hio (Piece.within_trans rfl hw))
      exact .refl
  · dsimp only
    refine Frame.trans ?_ (State.writeLocal_frame hio (Piece.within_trans rfl hw))
    exact .refl
  · dsimp only
    refine Frame.trans ?_ (State.writeLocal_frame hio (Piece.within_trans rfl hw))
    exact .refl
  · dsimp only
    exact .refl

theorem State.engWrite_frame {ps : List Piece} {io : RegIO} {s : State} {g : Agent} {id : Nat} {i : Nat} {e : Ecc} (hio : io.Within ps)
    (hw : Piece.within [.regs, .cnt64, .fls, .ums, .sram, .sramBad, .hostMem, .reports, .hostOut, .freeCtr, .hbm, .fab, .logPtr, .fe, .pw, .hostReads] ps = true) : Frame ps s (State.engWrite io s g id i e) := by
  unfold State.engWrite
  split
  · exact .refl
  · refine Frame.ite ?_ ?_
    · exact .refl
    · split
      · exact .refl
      · dsimp only
        refine Frame.ite ?_ ?_
        · refine Frame.ite ?_ ?_
          · refine Frame.step State.markLost_frame (Piece.within_trans rfl hw) ?_
            refine Frame.trans ?_ (Frame.foldl_at (fun (a : Bool × State) => a.2) (fun a x => ?_))
            · dsimp only
              exact .refl
            · dsimp only
              refine Frame.trans ?_ (State.castLine_frame hio (Piece.within_trans rfl hw))
              exact .refl
          · refine Frame.step State.lineDone_frame (Piece.within_trans rfl hw) ?_
            refine Frame.trans ?_ (Frame.foldl_at (fun (a : Bool × State) => a.2) (fun a x => ?_))
            · dsimp only
              exact .refl
            · dsimp only
              refine Frame.trans ?_ (State.castLine_frame hio (Piece.within_trans rfl hw))
              exact .refl
        · refine Frame.ite ?_ ?_
          · split
            · refine Frame.step State.lineCounted_frame (Piece.within_trans rfl hw) ?_
              refine Frame.trans ?_ (State.writeLocal_frame hio (Piece.within_trans rfl hw))
              exact .refl
            · refine Frame.step State.lineDone_frame (Piece.within_trans rfl hw) ?_
              refine Frame.trans ?_ (State.writeLocal_frame hio (Piece.within_trans rfl hw))
              exact .refl
            · refine Frame.step State.markLost_frame (Piece.within_trans rfl hw) ?_
              refine Frame.trans ?_ (State.writeLocal_frame hio (Piece.within_trans rfl hw))
              exact .refl
            · exact .refl
          · split
            · refine Frame.step State.markLost_frame (Piece.within_trans rfl hw) ?_
              refine Frame.step State.inject_frame (Piece.within_trans rfl hw) ?_
              exact .refl
            · refine Frame.step State.modDesc_frame (Piece.within_trans rfl hw) ?_
              refine Frame.step State.inject_frame (Piece.within_trans rfl hw) ?_
              exact .refl
            · refine Frame.ite ?_ ?_
              · refine Frame.step State.awaitCount_frame (Piece.within_trans rfl hw) ?_
                refine Frame.step State.modDesc_frame (Piece.within_trans rfl hw) ?_
                refine Frame.step State.inject_frame (Piece.within_trans rfl hw) ?_
                exact .refl
              · refine Frame.step State.modDesc_frame (Piece.within_trans rfl hw) ?_
                refine Frame.step State.inject_frame (Piece.within_trans rfl hw) ?_
                exact .refl

theorem State.engAcked_frame {s : State} {g : Agent} {id : Nat} {i : Nat} {dev : Nat} {discarded : Bool} :
    Frame [.regs, .cnt64, .fls, .ums, .reports, .hostOut, .freeCtr, .fab, .logPtr, .fe, .pw] s (State.engAcked s g id i dev discarded) := by
  unfold State.engAcked
  split
  · exact .refl
  · split
    · refine Frame.ite ?_ ?_
      · refine Frame.step State.lineDone_frame rfl ?_
        exact .refl
      · refine Frame.step State.lineCounted_frame rfl ?_
        exact .refl
    · exact .refl

theorem State.engDrop_frame {s : State} {g : Agent} {id : Nat} {i : Nat} :
    Frame [.regs, .cnt64, .fls, .ums, .reports, .hostOut, .freeCtr, .fab, .logPtr, .fe, .pw] s (State.engDrop s g id i) := by
  unfold State.engDrop
  split
  · exact .refl
  · refine Frame.ite ?_ ?_
    · dsimp only
      refine Frame.ite ?_ ?_
      · refine Frame.step State.complete_frame rfl ?_
        refine Frame.step State.modDesc_frame rfl ?_
        refine Frame.step State.engLoss_frame rfl ?_
        refine Frame.step State.countLoss_frame rfl ?_
        split
        · exact .refl
        · refine Frame.step State.logErr_frame rfl ?_
          exact .refl
      · refine Frame.step State.settle_frame rfl ?_
        refine Frame.step State.modDesc_frame rfl ?_
        refine Frame.step State.engLoss_frame rfl ?_
        refine Frame.step State.countLoss_frame rfl ?_
        split
        · exact .refl
        · refine Frame.step State.logErr_frame rfl ?_
          exact .refl
    · exact .refl

theorem State.engRead_keeps {io : RegIO} {s : State} {g : Agent} {id : Nat} {i : Nat} {e : Ecc} (hio : io.Keeps) : Keeps s (State.engRead io s g id i e) := by
  unfold State.engRead
  split
  · exact .refl
  · refine Keeps.ite ?_ ?_
    · exact .refl
    · split
      · exact .refl
      · refine Keeps.ite ?_ ?_
        · refine Keeps.ite ?_ ?_
          · exact .refl
          · dsimp only
            split
            · refine Keeps.frame State.holdLine_frame rfl ?_
              refine Keeps.trans ?_ (State.readLocal_keeps hio)
              exact .refl
            · refine Keeps.frame State.modDesc_frame rfl ?_
              refine Keeps.trans ?_ (State.readLocal_keeps hio)
              exact .refl
            · exact .refl
        · dsimp only
          split
          · refine Keeps.frame State.modDesc_frame rfl ?_
            refine Keeps.frame State.inject_frame rfl ?_
            exact .refl
          · refine Keeps.frame State.modDesc_frame rfl ?_
            refine Keeps.frame State.inject_frame rfl ?_
            exact .refl

theorem State.castLine_keeps {io : RegIO} {s : State} {g : Agent} {d : Desc} {h : Held} {a : Nat} {e : Ecc} (hio : io.Keeps) : Keeps s (State.castLine io s g d h a e).2 := by
  unfold State.castLine
  dsimp only
  split
  · split
    · dsimp only
      refine Keeps.frame State.tallyAdd_frame rfl ?_
      refine Keeps.trans ?_ (State.writeLocal_keeps hio)
      exact .refl
    · dsimp only
      refine Keeps.trans ?_ (State.writeLocal_keeps hio)
      exact .refl
  · dsimp only
    refine Keeps.trans ?_ (State.writeLocal_keeps hio)
    exact .refl
  · dsimp only
    refine Keeps.trans ?_ (State.writeLocal_keeps hio)
    exact .refl
  · dsimp only
    exact .refl

theorem State.engWrite_keeps {io : RegIO} {s : State} {g : Agent} {id : Nat} {i : Nat} {e : Ecc} (hio : io.Keeps) : Keeps s (State.engWrite io s g id i e) := by
  unfold State.engWrite
  split
  · exact .refl
  · refine Keeps.ite ?_ ?_
    · exact .refl
    · split
      · exact .refl
      · dsimp only
        refine Keeps.ite ?_ ?_
        · refine Keeps.ite ?_ ?_
          · refine Keeps.frame State.markLost_frame rfl ?_
            refine Keeps.trans ?_ (Keeps.foldl_at (fun (a : Bool × State) => a.2) (fun a x => ?_))
            · dsimp only
              exact .refl
            · dsimp only
              refine Keeps.trans ?_ (State.castLine_keeps hio)
              exact .refl
          · refine Keeps.frame State.lineDone_frame rfl ?_
            refine Keeps.trans ?_ (Keeps.foldl_at (fun (a : Bool × State) => a.2) (fun a x => ?_))
            · dsimp only
              exact .refl
            · dsimp only
              refine Keeps.trans ?_ (State.castLine_keeps hio)
              exact .refl
        · refine Keeps.ite ?_ ?_
          · split
            · refine Keeps.frame State.lineCounted_frame rfl ?_
              refine Keeps.trans ?_ (State.writeLocal_keeps hio)
              exact .refl
            · refine Keeps.frame State.lineDone_frame rfl ?_
              refine Keeps.trans ?_ (State.writeLocal_keeps hio)
              exact .refl
            · refine Keeps.frame State.markLost_frame rfl ?_
              refine Keeps.trans ?_ (State.writeLocal_keeps hio)
              exact .refl
            · exact .refl
          · split
            · refine Keeps.frame State.markLost_frame rfl ?_
              refine Keeps.frame State.inject_frame rfl ?_
              exact .refl
            · refine Keeps.frame State.modDesc_frame rfl ?_
              refine Keeps.frame State.inject_frame rfl ?_
              exact .refl
            · refine Keeps.ite ?_ ?_
              · refine Keeps.frame State.awaitCount_frame rfl ?_
                refine Keeps.frame State.modDesc_frame rfl ?_
                refine Keeps.frame State.inject_frame rfl ?_
                exact .refl
              · refine Keeps.frame State.modDesc_frame rfl ?_
                refine Keeps.frame State.inject_frame rfl ?_
                exact .refl

end Sys2Proof.Machine
end

