-- ==== Sys2Proof/Laws/Start.lean ====
section
/-! SUPPORT. What each operation and each meaning of Machine/Start.lean can change at most: the pieces of the state outside
its list stay as they are. -/

namespace Sys2Proof.Machine

theorem State.descFail_frame {s : State} {g : Agent} {q : QDesc} :
    Frame [.regs, .fls, .ums, .reports, .hostOut, .logPtr, .fe] s (State.descFail s g q) := by
  unfold State.descFail
  dsimp only
  split
  · refine Frame.step State.report_frame rfl ?_
    refine Frame.step State.logErr_frame rfl ?_
    refine Frame.step State.event_frame rfl ?_
    refine Frame.step State.orReg_frame rfl ?_
    refine Frame.step State.modEng_frame rfl ?_
    exact .refl
  · refine Frame.step State.flFault_frame rfl ?_
    refine Frame.step State.logErr_frame rfl ?_
    refine Frame.step State.event_frame rfl ?_
    refine Frame.step State.orReg_frame rfl ?_
    refine Frame.step State.modEng_frame rfl ?_
    exact .refl

theorem State.startKind_frame {ps : List Piece} {b s : State} {g : Agent} {k : Nat} {go : QDesc → State}
    (hw : Piece.within [.regs, .fls, .ums, .reports, .hostOut, .logPtr, .fe] ps = true) (h : Frame ps b s) (hk : ∀ q, Frame ps b (go q)) : Frame ps b (s.startKind g k go) := by
  unfold State.startKind
  dsimp only
  split
  · exact h
  · split
    · exact h
    · split
      · exact Frame.step State.descFail_frame (Piece.within_trans rfl hw) h
      · exact Frame.ite (hk _) h

theorem State.endNow_frame {s : State} {g : Agent} :
    Frame [.regs, .fls, .ums, .fe] s (State.endNow s g) := by
  unfold State.endNow
  refine Frame.step State.countDesc_frame rfl ?_
  refine Frame.step State.modEng_frame rfl ?_
  exact .refl

theorem State.startLines_frame {s : State} {g : Agent} {q : QDesc} {n : Nat} {dest : SMap Nat} :
    Frame [.fls, .ums, .fe] s (State.startLines s g q n dest) := by
  unfold State.startLines
  dsimp only
  split
  · refine Frame.ite ?_ ?_
    · refine Frame.step State.modEng_frame rfl ?_
      refine Frame.step State.setFl_frame rfl ?_
      exact .refl
    · refine Frame.step State.modEng_frame rfl ?_
      exact .refl
  · refine Frame.step State.modEng_frame rfl ?_
    exact .refl

theorem execTilesDesc_frame {g : Agent} {s : State} :
    ∃ out, execTilesDesc g s = .next out ∧ Frame [.regs, .fls, .ums, .reports, .hostOut, .logPtr, .fe] s out := by
  refine ⟨_, rfl, ?_⟩
  refine State.startKind_frame rfl ?_ (fun _ => ?_)
  · exact .refl
  · refine Frame.step State.startLines_frame rfl ?_
    exact .refl

theorem execLinesDesc_frame {g : Agent} {s : State} :
    ∃ out, execLinesDesc g s = .next out ∧ Frame [.regs, .fls, .ums, .reports, .hostOut, .logPtr, .fe] s out := by
  refine ⟨_, rfl, ?_⟩
  refine State.startKind_frame rfl ?_ (fun _ => ?_)
  · exact .refl
  · refine Frame.step State.startLines_frame rfl ?_
    exact .refl

theorem execGather_frame {g : Agent} {s : State} :
    ∃ out, execGather g s = .next out ∧ Frame [.regs, .cnt64, .fls, .ums, .reports, .hostOut, .logPtr, .fe] s out := by
  refine ⟨_, rfl, ?_⟩
  refine State.startKind_frame rfl ?_ (fun _ => ?_)
  · exact .refl
  · dsimp only
    split
    · refine Frame.ite ?_ ?_
      · refine Frame.step State.flFault_frame rfl ?_
        refine Frame.step State.cnt_frame rfl ?_
        refine Frame.step State.startLines_frame rfl ?_
        exact .refl
      · refine Frame.step State.cnt_frame rfl ?_
        refine Frame.step State.startLines_frame rfl ?_
        exact .refl
    · refine Frame.step State.startLines_frame rfl ?_
      exact .refl

theorem execDescNop_frame {g : Agent} {s : State} :
    ∃ out, execDescNop g s = .next out ∧ Frame [.regs, .fls, .ums, .reports, .hostOut, .logPtr, .fe] s out := by
  refine ⟨_, rfl, ?_⟩
  refine State.startKind_frame rfl ?_ (fun _ => ?_)
  · exact .refl
  · refine Frame.step State.endNow_frame rfl ?_
    exact .refl

theorem execDescWait_frame {g : Agent} {s : State} :
    ∃ out, execDescWait g s = .next out ∧ Frame [.regs, .fls, .ums, .reports, .hostOut, .logPtr, .fe] s out := by
  refine ⟨_, rfl, ?_⟩
  refine State.startKind_frame rfl ?_ (fun _ => ?_)
  · exact .refl
  · refine Frame.ite ?_ ?_
    · refine Frame.step State.endNow_frame rfl ?_
      exact .refl
    · refine Frame.step State.modEng_frame rfl ?_
      exact .refl

theorem execDescWaitSatisfied_frame {g : Agent} {s : State} :
    ∃ out, execDescWaitSatisfied g s = .next out ∧ Frame [.regs, .fls, .ums, .reports, .hostOut, .logPtr, .fe] s out := by
  refine ⟨_, rfl, ?_⟩
  refine State.startKind_frame rfl ?_ (fun _ => ?_)
  · exact .refl
  · refine Frame.ite ?_ ?_
    · refine Frame.step State.endNow_frame rfl ?_
      exact .refl
    · exact .refl

theorem State.startSignal_frame {s : State} {g : Agent} {q : QDesc} :
    Frame [.regs, .cnt64, .fls, .ums, .reports, .hostOut, .freeCtr, .fab, .logPtr, .fe, .pw] s (State.startSignal s g q) := by
  unfold State.startSignal
  dsimp only
  refine Frame.step State.cascade_frame rfl ?_
  refine Frame.step State.modEng_frame rfl ?_
  exact .refl

theorem execDescSignal_frame {g : Agent} {s : State} :
    ∃ out, execDescSignal g s = .next out ∧ Frame [.regs, .cnt64, .fls, .ums, .reports, .hostOut, .freeCtr, .fab, .logPtr, .fe, .pw] s out := by
  refine ⟨_, rfl, ?_⟩
  refine State.startKind_frame rfl ?_ (fun _ => ?_)
  · exact .refl
  · refine Frame.step State.startSignal_frame rfl ?_
    exact .refl

theorem execDescEnd_frame {g : Agent} {s : State} :
    ∃ out, execDescEnd g s = .next out ∧ Frame [.regs, .cnt64, .fls, .ums, .reports, .hostOut, .freeCtr, .fab, .logPtr, .fe, .pw] s out := by
  refine ⟨_, rfl, ?_⟩
  refine State.startKind_frame rfl ?_ (fun _ => ?_)
  · exact .refl
  · refine Frame.step State.startSignal_frame rfl ?_
    exact .refl

theorem execDrain_frame {f : FloretId} {s : State} :
    ∃ out, execDrain f s = .next out ∧ Frame [.regs, .fls, .ums, .reports, .hostOut, .logPtr, .fe] s out := by
  refine ⟨_, rfl, ?_⟩
  refine State.startKind_frame rfl ?_ (fun _ => ?_)
  · exact .refl
  · dsimp only
    refine Frame.ite ?_ ?_
    · refine Frame.step State.modEng_frame rfl ?_
      refine Frame.step State.setFl_frame rfl ?_
      exact .refl
    · refine Frame.step State.modEng_frame rfl ?_
      exact .refl

theorem execDrainRowRead_frame {f : FloretId} {s : State} :
    ∃ out, execDrainRowRead f s = .next out ∧ Frame [.regs, .fls, .ums, .hostOut, .fe] s out := by
  refine ⟨_, rfl, ?_⟩
  dsimp only
  split
  · exact .refl
  · refine Frame.ite ?_ ?_
    · exact .refl
    · refine Frame.ite ?_ ?_
      · refine Frame.step State.fpFlags_frame rfl ?_
        refine Frame.step State.modDesc_frame rfl ?_
        refine Frame.step State.setFl_frame rfl ?_
        exact .refl
      · refine Frame.step State.sticky_frame rfl ?_
        refine Frame.step State.addReg_frame rfl ?_
        refine Frame.step State.fpFlags_frame rfl ?_
        refine Frame.step State.modDesc_frame rfl ?_
        refine Frame.step State.setFl_frame rfl ?_
        exact .refl

theorem execQout_frame {f : FloretId} {s : State} :
    ∃ out, execQout f s = .next out ∧ Frame [.regs, .cnt64, .fls, .ums, .reports, .hostOut, .logPtr, .fe] s out := by
  refine ⟨_, rfl, ?_⟩
  refine State.startKind_frame rfl ?_ (fun _ => ?_)
  · exact .refl
  · refine Frame.step State.pullQout_frame rfl ?_
    refine Frame.step State.modEng_frame rfl ?_
    exact .refl

theorem execQx_frame {f : FloretId} {s : State} :
    ∃ out, execQx f s = .next out ∧ Frame [.regs, .cnt64, .fls, .ums, .reports, .hostOut, .freeCtr, .logPtr, .fe] s out := by
  refine ⟨_, rfl, ?_⟩
  refine State.issue_frame rfl ?_ (fun _ => ?_)
  · exact .refl
  · dsimp only
    refine Frame.ite ?_ ?_
    · exact .refl
    · refine Frame.step State.pullQout_frame rfl ?_
      refine Frame.step State.retire_frame rfl ?_
      refine Frame.step State.setFl_frame rfl ?_
      exact .refl

theorem State.startKind_keeps {b s : State} {g : Agent} {k : Nat} {go : QDesc → State} (h : Keeps b s)
    (hk : ∀ q, Keeps b (go q)) : Keeps b (s.startKind g k go) := by
  unfold State.startKind
  dsimp only
  split
  · exact h
  · split
    · exact h
    · split
      · exact Keeps.frame State.descFail_frame rfl h
      · exact Keeps.ite (hk _) h

end Sys2Proof.Machine
end

