-- ==== Sys2Proof/Laws/Dma.lean ====
section
/-! SUPPORT. What each operation and each meaning of Machine/Dma.lean can change at most: the pieces of the state outside
its list stay as they are. -/

namespace Sys2Proof.Machine

theorem execDmaDescriptorStart_frame {u : UmbelId} {c : ChannelId} {s : State} :
    ∃ out, execDmaDescriptorStart u c s = .next out ∧ Frame [.regs, .cnt64, .fls, .ums, .reports, .hostOut, .logPtr, .fe, .pw] s out := by
  refine ⟨_, rfl, ?_⟩
  dsimp only
  refine Frame.ite ?_ ?_
  · exact .refl
  · refine Frame.ite ?_ ?_
    · refine Frame.step State.descFail_frame rfl ?_
      refine Frame.ite ?_ ?_
      · refine Frame.step State.report_frame rfl ?_
        refine Frame.step State.sramBytes_frame rfl ?_
        refine Frame.step State.setUm_frame rfl ?_
        exact .refl
      · refine Frame.step State.sramBytes_frame rfl ?_
        refine Frame.step State.setUm_frame rfl ?_
        exact .refl
    · refine Frame.ite ?_ ?_
      · refine Frame.step State.report_frame rfl ?_
        refine Frame.step State.sramBytes_frame rfl ?_
        refine Frame.step State.setUm_frame rfl ?_
        exact .refl
      · refine Frame.step State.sramBytes_frame rfl ?_
        refine Frame.step State.setUm_frame rfl ?_
        exact .refl

theorem execAllocGran_frame {u : UmbelId} {c : ChannelId} {s : State} :
    ∃ out, execAllocGran u c s = .next out ∧ Frame [.regs, .fls, .ums, .reports, .hostOut, .logPtr, .fe] s out := by
  refine ⟨_, rfl, ?_⟩
  refine State.startKind_frame rfl ?_ (fun _ => ?_)
  · exact .refl
  · dsimp only
    refine Frame.step State.modEng_frame rfl ?_
    split
    · refine Frame.step State.setUm_frame rfl ?_
      exact .refl
    · refine Frame.step State.addReg_frame rfl ?_
      refine Frame.step State.sticky_frame rfl ?_
      exact .refl

theorem State.freeGranule_frame {s : State} {u : Nat} {owner : Nat} {g : Nat} :
    Frame [.regs, .ums, .hostOut, .logPtr] s (State.freeGranule s u owner g) := by
  unfold State.freeGranule
  dsimp only
  split
  · refine Frame.step State.setUm_frame rfl ?_
    exact .refl
  · refine Frame.step State.logErr_frame rfl ?_
    refine Frame.step State.addReg_frame rfl ?_
    refine Frame.step State.event_frame rfl ?_
    refine Frame.step State.orReg_frame rfl ?_
    exact .refl

theorem State.doFree_frame {s : State} {g : Agent} {u : Nat} {w : Nat} {d : Desc} {line : Nat → Line} :
    Frame [.regs, .cnt64, .fls, .ums, .reports, .hostOut, .freeCtr, .fab, .logPtr, .fe, .pw] s (State.doFree s g u w d line) := by
  unfold State.doFree
  dsimp only
  refine Frame.ite ?_ ?_
  · refine Frame.step State.engLoss_frame rfl ?_
    refine Frame.step State.countTally_frame rfl ?_
    refine Frame.trans ?_ (Frame.foldl (fun s x => ?_))
    · exact .refl
    · refine Frame.step State.freeGranule_frame rfl ?_
      exact .refl
  · refine Frame.step State.countTally_frame rfl ?_
    refine Frame.trans ?_ (Frame.foldl (fun s x => ?_))
    · exact .refl
    · refine Frame.step State.freeGranule_frame rfl ?_
      exact .refl

theorem execFreeGran_frame {u : UmbelId} {c : ChannelId} {s : State} :
    ∃ out, execFreeGran u c s = .next out ∧ Frame [.regs, .cnt64, .fls, .ums, .reports, .hostOut, .freeCtr, .fab, .logPtr, .fe, .pw] s out := by
  refine ⟨_, rfl, ?_⟩
  dsimp only
  split
  · refine Frame.step State.cascade_frame rfl ?_
    refine Frame.step State.complete_frame rfl ?_
    refine Frame.step State.doFree_frame rfl ?_
    exact .refl
  · refine State.startKind_frame rfl ?_ (fun _ => ?_)
    · exact .refl
    · refine Frame.step State.startLines_frame rfl ?_
      exact .refl

end Sys2Proof.Machine
end

