-- ==== Sys2Proof/Laws/Delta.lean ====
section
/-! SUPPORT. What each operation and each meaning of Machine/Delta.lean can change at most: the pieces of the state outside
its list stay as they are. -/

namespace Sys2Proof.Machine

theorem State.setWset_frame {s : State} {k : Nat} {x : WSet} :
    Frame [.fe] s (State.setWset s k x) := by
  unfold State.setWset
  refine Frame.set_fe rfl ?_
  exact .refl

theorem State.tileUnits_frame {s : State} {fl : Floret} {a : Nat} {n : Nat} :
    Frame [.freeCtr] s (State.tileUnits s fl a n).2 := by
  unfold State.tileUnits
  refine Frame.trans ?_ (Frame.foldl_at (fun (a : List Nat × State) => a.2) (fun a x => ?_))
  · dsimp only
    exact .refl
  · split
    · dsimp only
      exact .refl
    · dsimp only
      refine Frame.step State.fresh_frame rfl ?_
      exact .refl

theorem State.putLines_frame {s : State} {f : Nat} {l : Nat} {ls : List Line} :
    Frame [.regs, .cnt64, .fls, .sram, .sramBad, .hostOut, .logPtr, .pw] s (State.putLines s f l ls) := by
  unfold State.putLines
  refine Frame.trans ?_ (Frame.foldl (fun s x => ?_))
  · exact .refl
  · dsimp only
    refine Frame.ite ?_ ?_
    · refine Frame.step State.sramPut_frame rfl ?_
      refine Frame.step State.sramBytes_frame rfl ?_
      refine Frame.step State.feedArrive_frame rfl ?_
      exact .refl
    · refine Frame.step State.feedArrive_frame rfl ?_
      exact .refl

theorem State.answerSlot_frame {s : State} {f : Nat} {e : Nat} {slot : Nat} :
    Frame [.fls] s (State.answerSlot s f e slot) := by
  unfold State.answerSlot
  refine Frame.step State.modFl_frame rfl ?_
  exact .refl

theorem execPatchRequest_frame {f : FloretId} {s : State} :
    ∃ out, execPatchRequest f s = .next out ∧ Frame [.regs, .cnt64, .fls, .ums, .sram, .sramBad, .reports, .hostOut, .freeCtr, .fab, .logPtr, .fe, .pw] s out := by
  refine ⟨_, rfl, ?_⟩
  dsimp only
  split
  · exact .refl
  · refine Frame.ite ?_ ?_
    · exact .refl
    · split
      · exact .refl
      · refine Frame.ite ?_ ?_
        · refine Frame.step State.settle_frame rfl ?_
          refine Frame.step State.answerSlot_frame rfl ?_
          refine Frame.step State.putLines_frame rfl ?_
          refine Frame.step State.modDesc_frame rfl ?_
          refine Frame.step State.setFl_frame rfl ?_
          exact .refl
        · refine Frame.step State.settle_frame rfl ?_
          refine Frame.step State.modUm_frame rfl ?_
          refine Frame.step State.tileUnits_frame rfl ?_
          refine Frame.step State.modDesc_frame rfl ?_
          refine Frame.step State.setFl_frame rfl ?_
          exact .refl

theorem State.readSpan_frame {s : State} {q : Req} {a : Nat} {n : Nat} {es : List Ecc} :
    Frame [.regs, .cnt64, .reports, .hostOut, .hbm, .logPtr] s (State.readSpan s q a n es).2.2.2 := by
  unfold State.readSpan
  dsimp only
  refine Frame.trans ?_ (Frame.foldl_at (fun (a : List Nat × Bool × State) => a.2.2) (fun a x => ?_))
  · dsimp only
    exact .refl
  · dsimp only
    split
    · dsimp only
      refine Frame.step State.addrErr_frame rfl ?_
      exact .refl
    · refine Frame.step State.hbmRead_frame rfl ?_
      exact .refl

theorem State.ddPush_frame {s : State} {u : Nat} {r : PatchReq} {ls : List Line} :
    Frame [.ums] s (State.ddPush s u r ls) := by
  unfold State.ddPush
  refine Frame.step State.modUm_frame rfl ?_
  exact .refl

theorem State.ddFail_frame {s : State} {u : Nat} {r : PatchReq} {unit : Nat} :
    Frame [.regs, .ums, .reports, .hostOut, .logPtr] s (State.ddFail s u r unit) := by
  unfold State.ddFail
  dsimp only
  refine Frame.step State.report_frame rfl ?_
  refine Frame.step State.logErr_frame rfl ?_
  refine Frame.step State.setReg_frame rfl ?_
  refine Frame.step State.sticky_frame rfl ?_
  refine Frame.step State.modUm_frame rfl ?_
  exact .refl

theorem execPatchUnitAnswer_frame {x : UmbelReads} {s : State} :
    ∃ out, execPatchUnitAnswer x s = .next out ∧ Frame [.regs, .cnt64, .ums, .reports, .hostOut, .hbm, .logPtr] s out := by
  refine ⟨_, rfl, ?_⟩
  dsimp only
  split
  · exact .refl
  · split
    · refine Frame.step State.setUm_frame rfl ?_
      exact .refl
    · refine Frame.ite ?_ ?_
      · exact .refl
      · refine Frame.ite ?_ ?_
        · refine Frame.step State.ddFail_frame rfl ?_
          refine Frame.step State.addReg_frame rfl ?_
          refine Frame.step State.readSpan_frame rfl ?_
          exact .refl
        · refine Frame.ite ?_ ?_
          · refine Frame.step State.ddPush_frame rfl ?_
            refine Frame.step State.addReg_frame rfl ?_
            refine Frame.step State.addReg_frame rfl ?_
            refine Frame.step State.readSpan_frame rfl ?_
            exact .refl
          · refine Frame.ite ?_ ?_
            · refine Frame.step State.ddFail_frame rfl ?_
              refine Frame.step State.addReg_frame rfl ?_
              refine Frame.step State.readSpan_frame rfl ?_
              refine Frame.step State.addReg_frame rfl ?_
              refine Frame.step State.readSpan_frame rfl ?_
              exact .refl
            · refine Frame.step State.ddPush_frame rfl ?_
              refine Frame.step State.addReg_frame rfl ?_
              refine Frame.step State.addReg_frame rfl ?_
              refine Frame.step State.addReg_frame rfl ?_
              refine Frame.step State.readSpan_frame rfl ?_
              refine Frame.step State.addReg_frame rfl ?_
              refine Frame.step State.readSpan_frame rfl ?_
              exact .refl

theorem State.ddDone_frame {s : State} {u : Nat} {o : DdOut} {i : Nat} {lost : Bool} :
    Frame [.fls, .ums] s (State.ddDone s u o i lost) := by
  unfold State.ddDone
  dsimp only
  refine Frame.ite ?_ ?_
  · refine Frame.step State.answerSlot_frame rfl ?_
    refine Frame.step State.modUm_frame rfl ?_
    exact .refl
  · refine Frame.step State.modUm_frame rfl ?_
    exact .refl

theorem State.ddLoss_frame {s : State} {u : Nat} {a : Nat} :
    Frame [.regs, .reports, .hostOut] s (State.ddLoss s u a) := by
  unfold State.ddLoss
  refine Frame.step State.report_frame rfl ?_
  refine Frame.step State.sticky_frame rfl ?_
  exact .refl

theorem State.ddCount_frame {s : State} {u : UmbelId} {o : DdOut} {i : Nat} :
    Frame [.regs, .cnt64, .fls, .ums, .reports, .hostOut, .freeCtr, .fab, .logPtr, .pw] s (State.ddCount s u o i) := by
  unfold State.ddCount
  refine Frame.ite ?_ ?_
  · exact .refl
  · dsimp only
    refine Frame.ite ?_ ?_
    · refine Frame.step State.ddLoss_frame rfl ?_
      refine Frame.step State.countRef_frame rfl ?_
      exact .refl
    · refine Frame.step State.countRef_frame rfl ?_
      exact .refl

theorem State.ddWrite_frame {ps : List Piece} {io : RegIO} {s : State} {u : UmbelId} {d : Nat} {i : Nat} {e : Ecc} (hio : io.Within ps)
    (hw : Piece.within [.regs, .cnt64, .fls, .ums, .sram, .sramBad, .hostMem, .reports, .hostOut, .freeCtr, .hbm, .fab, .logPtr, .pw, .hostReads] ps = true) : Frame ps s (State.ddWrite io s u d i e) := by
  unfold State.ddWrite
  split
  · exact .refl
  · refine Frame.ite ?_ ?_
    · exact .refl
    · dsimp only
      split
      · refine Frame.step State.ddDone_frame (Piece.within_trans rfl hw) ?_
        refine Frame.step State.ddCount_frame (Piece.within_trans rfl hw) ?_
        refine Frame.trans ?_ (State.writeLocal_frame hio (Piece.within_trans rfl hw))
        exact .refl
      · refine Frame.step State.ddDone_frame (Piece.within_trans rfl hw) ?_
        refine Frame.trans ?_ (State.writeLocal_frame hio (Piece.within_trans rfl hw))
        exact .refl
      · refine Frame.step State.modUm_frame (Piece.within_trans rfl hw) ?_
        refine Frame.trans ?_ (State.writeLocal_frame hio (Piece.within_trans rfl hw))
        exact .refl
      · exact .refl

theorem State.ddDrop_frame {s : State} {u : UmbelId} {d : Nat} {i : Nat} :
    Frame [.regs, .fls, .ums, .reports, .hostOut, .logPtr] s (State.ddDrop s u d i) := by
  unfold State.ddDrop
  split
  · exact .refl
  · refine Frame.ite ?_ ?_
    · dsimp only
      refine Frame.step State.ddDone_frame rfl ?_
      refine Frame.step State.ddLoss_frame rfl ?_
      refine Frame.step State.logErr_frame rfl ?_
      refine Frame.step State.countLoss_frame rfl ?_
      exact .refl
    · exact .refl

theorem State.putLines_keeps {s : State} {f : Nat} {l : Nat} {ls : List Line} : Keeps s (State.putLines s f l ls) := by
  unfold State.putLines
  refine Keeps.trans ?_ (Keeps.foldl (fun s x => ?_))
  · exact .refl
  · dsimp only
    refine Keeps.ite ?_ ?_
    · refine Keeps.trans ?_ State.sramPut_keeps
      refine Keeps.frame State.sramBytes_frame rfl ?_
      refine Keeps.frame State.feedArrive_frame rfl ?_
      exact .refl
    · refine Keeps.frame State.feedArrive_frame rfl ?_
      exact .refl

theorem execPatchRequest_keeps {f : FloretId} {s : State} :
    ∃ out, execPatchRequest f s = .next out ∧ Keeps s out := by
  refine ⟨_, rfl, ?_⟩
  dsimp only
  split
  · exact .refl
  · refine Keeps.ite ?_ ?_
    · exact .refl
    · split
      · exact .refl
      · refine Keeps.ite ?_ ?_
        · refine Keeps.frame State.settle_frame rfl ?_
          refine Keeps.frame State.answerSlot_frame rfl ?_
          refine Keeps.trans ?_ State.putLines_keeps
          refine Keeps.frame State.modDesc_frame rfl ?_
          refine Keeps.frame State.setFl_frame rfl ?_
          exact .refl
        · refine Keeps.frame State.settle_frame rfl ?_
          refine Keeps.frame State.modUm_frame rfl ?_
          refine Keeps.frame State.tileUnits_frame rfl ?_
          refine Keeps.frame State.modDesc_frame rfl ?_
          refine Keeps.frame State.setFl_frame rfl ?_
          exact .refl

theorem State.readSpan_keeps {s : State} {q : Req} {a : Nat} {n : Nat} {es : List Ecc} : Keeps s (State.readSpan s q a n es).2.2.2 := by
  unfold State.readSpan
  dsimp only
  refine Keeps.trans ?_ (Keeps.foldl_at (fun (a : List Nat × Bool × State) => a.2.2) (fun a x => ?_))
  · dsimp only
    exact .refl
  · dsimp only
    split
    · dsimp only
      refine Keeps.frame State.addrErr_frame rfl ?_
      exact .refl
    · refine Keeps.trans ?_ State.hbmRead_keeps
      exact .refl

theorem execPatchUnitAnswer_keeps {x : UmbelReads} {s : State} :
    ∃ out, execPatchUnitAnswer x s = .next out ∧ Keeps s out := by
  refine ⟨_, rfl, ?_⟩
  dsimp only
  split
  · exact .refl
  · split
    · refine Keeps.frame State.setUm_frame rfl ?_
      exact .refl
    · refine Keeps.ite ?_ ?_
      · exact .refl
      · refine Keeps.ite ?_ ?_
        · refine Keeps.frame State.ddFail_frame rfl ?_
          refine Keeps.frame State.addReg_frame rfl ?_
          refine Keeps.trans ?_ State.readSpan_keeps
          exact .refl
        · refine Keeps.ite ?_ ?_
          · refine Keeps.frame State.ddPush_frame rfl ?_
            refine Keeps.frame State.addReg_frame rfl ?_
            refine Keeps.frame State.addReg_frame rfl ?_
            refine Keeps.trans ?_ State.readSpan_keeps
            exact .refl
          · refine Keeps.ite ?_ ?_
            · refine Keeps.frame State.ddFail_frame rfl ?_
              refine Keeps.frame State.addReg_frame rfl ?_
              refine Keeps.trans ?_ State.readSpan_keeps
              refine Keeps.frame State.addReg_frame rfl ?_
              refine Keeps.trans ?_ State.readSpan_keeps
              exact .refl
            · refine Keeps.frame State.ddPush_frame rfl ?_
              refine Keeps.frame State.addReg_frame rfl ?_
              refine Keeps.frame State.addReg_frame rfl ?_
              refine Keeps.frame State.addReg_frame rfl ?_
              refine Keeps.trans ?_ State.readSpan_keeps
              refine Keeps.frame State.addReg_frame rfl ?_
              refine Keeps.trans ?_ State.readSpan_keeps
              exact .refl

theorem State.ddWrite_keeps {io : RegIO} {s : State} {u : UmbelId} {d : Nat} {i : Nat} {e : Ecc} (hio : io.Keeps) : Keeps s (State.ddWrite io s u d i e) := by
  unfold State.ddWrite
  split
  · exact .refl
  · refine Keeps.ite ?_ ?_
    · exact .refl
    · dsimp only
      split
      · refine Keeps.frame State.ddDone_frame rfl ?_
        refine Keeps.frame State.ddCount_frame rfl ?_
        refine Keeps.trans ?_ (State.writeLocal_keeps hio)
        exact .refl
      · refine Keeps.frame State.ddDone_frame rfl ?_
        refine Keeps.trans ?_ (State.writeLocal_keeps hio)
        exact .refl
      · refine Keeps.frame State.modUm_frame rfl ?_
        refine Keeps.trans ?_ (State.writeLocal_keeps hio)
        exact .refl
      · exact .refl

end Sys2Proof.Machine
end

