-- ==== Sys2Proof/Laws/Kv.lean ====
section
/-! SUPPORT. What each operation and each meaning of Machine/Kv.lean can change at most: the pieces of the state outside
its list stay as they are. -/

namespace Sys2Proof.Machine

theorem State.memPutN_frame {s : State} {n : Nat} {a : Nat} {v : Nat} :
    Frame [.regs, .cnt64, .sram, .hostMem, .reports, .hostOut, .hbm, .logPtr, .pw, .hostReads] s (State.memPutN s n a v) := by
  unfold State.memPutN
  split
  · refine Frame.step State.hbmPutN_frame rfl ?_
    exact .refl
  · dsimp only
    refine Frame.step State.cnt_frame rfl ?_
    refine Frame.step State.hostPut_frame rfl ?_
    exact .refl
  · refine Frame.step State.sramBytes_frame rfl ?_
    refine Frame.set_sram rfl ?_
    exact .refl
  · refine Frame.step State.sramBytes_frame rfl ?_
    refine Frame.set_sram rfl ?_
    exact .refl
  · refine Frame.step State.addrErr_frame rfl ?_
    exact .refl

theorem State.memTouch_frame {s : State} {n : Nat} {a : Nat} :
    Frame [.regs, .cnt64, .reports, .hostOut, .hbm, .logPtr, .fe] s (State.memTouch s n a) := by
  unfold State.memTouch
  split
  · refine Frame.step State.readSpan_frame rfl ?_
    exact .refl
  · dsimp only
    refine Frame.set_fe rfl ?_
    exact .refl
  · refine Frame.step State.addrErr_frame rfl ?_
    exact .refl
  · exact .refl

theorem State.setFrameOwner_frame {s : State} {p : KvPool} {k : Nat} {f : Nat} {o : Nat} :
    Frame [.regs, .cnt64, .reports, .hostOut, .hbm, .logPtr] s (State.setFrameOwner s p k f o) := by
  unfold State.setFrameOwner
  refine Frame.step State.hbmPutN_frame rfl ?_
  exact .refl

theorem State.kvResult_frame {s : State} {k : Nat} {port : KvPort} {frame : Option Nat} {ok : Bool} :
    Frame [.regs, .fe] s (State.kvResult s k port frame ok) := by
  unfold State.kvResult
  dsimp only
  split
  · refine Frame.step State.setField_frame rfl ?_
    refine Frame.step State.setReg_frame rfl ?_
    exact .refl
  · refine Frame.set_fe rfl ?_
    exact .refl
  · refine Frame.set_fe rfl ?_
    exact .refl

theorem State.kvRefuse_frame {s : State} {k : Nat} {port : KvPort} :
    Frame [.regs, .fe] s (State.kvRefuse s k port) := by
  unfold State.kvRefuse
  refine Frame.step State.orReg_frame rfl ?_
  refine Frame.step State.kvResult_frame rfl ?_
  exact .refl

theorem State.kvHeld_frame {s : State} {k : Nat} {port : KvPort} :
    Frame [.regs] s (State.kvHeld s k port) := by
  unfold State.kvHeld
  refine Frame.ite ?_ ?_
  · refine Frame.step State.orReg_frame rfl ?_
    exact .refl
  · exact .refl

theorem State.kvAllocOp_frame {s : State} {k : Nat} {port : KvPort} {n : Nat} {owner : Nat} :
    Frame [.regs, .cnt64, .reports, .hostOut, .hbm, .logPtr, .fe] s (State.kvAllocOp s k port n owner).2 := by
  unfold State.kvAllocOp
  dsimp only
  split
  · dsimp only
    refine Frame.step State.kvRefuse_frame rfl ?_
    exact .refl
  · split
    · dsimp only
      refine Frame.step State.kvResult_frame rfl ?_
      refine Frame.step State.setFrameOwner_frame rfl ?_
      exact .refl
    · dsimp only
      refine Frame.step State.sticky_frame rfl ?_
      refine Frame.step State.kvResult_frame rfl ?_
      exact .refl

theorem State.kvFreeOp_frame {s : State} {k : Nat} {port : KvPort} {n : Nat} {owner : Nat} {frame : Nat} :
    Frame [.regs, .cnt64, .reports, .hostOut, .hbm, .logPtr, .fe] s (State.kvFreeOp s k port n owner frame) := by
  unfold State.kvFreeOp
  dsimp only
  refine Frame.ite ?_ ?_
  · refine Frame.step State.kvRefuse_frame rfl ?_
    exact .refl
  · refine Frame.ite ?_ ?_
    · refine Frame.step State.kvResult_frame rfl ?_
      refine Frame.step State.setFrameOwner_frame rfl ?_
      exact .refl
    · refine Frame.step State.logErr_frame rfl ?_
      refine Frame.step State.addReg_frame rfl ?_
      refine Frame.step State.event_frame rfl ?_
      refine Frame.step State.orReg_frame rfl ?_
      refine Frame.step State.kvResult_frame rfl ?_
      exact .refl

theorem execKvAlloc_frame {k : StackId} {port : KvPort} {pool : PoolId} {owner : W20} {s : State} :
    ∃ out, execKvAlloc k port pool owner s = .next out ∧ Frame [.regs, .cnt64, .reports, .hostOut, .hbm, .logPtr, .fe] s out := by
  refine ⟨_, rfl, ?_⟩
  refine Frame.ite ?_ ?_
  · refine Frame.step State.kvAllocOp_frame rfl ?_
    exact .refl
  · refine Frame.step State.kvHeld_frame rfl ?_
    exact .refl

theorem execKvFree_frame {k : StackId} {port : KvPort} {pool : PoolId} {owner : W20} {frame : W20} {s : State} :
    ∃ out, execKvFree k port pool owner frame s = .next out ∧ Frame [.regs, .cnt64, .reports, .hostOut, .hbm, .logPtr, .fe] s out := by
  refine ⟨_, rfl, ?_⟩
  refine Frame.ite ?_ ?_
  · refine Frame.step State.kvFreeOp_frame rfl ?_
    exact .refl
  · refine Frame.step State.kvHeld_frame rfl ?_
    exact .refl

theorem execKvBadOp_frame {k : StackId} {port : KvPort} {op : W2} {pool : PoolId} {s : State} :
    ∃ out, execKvBadOp k port op pool s = .next out ∧ Frame [.regs, .fe] s out := by
  refine ⟨_, rfl, ?_⟩
  refine Frame.ite ?_ ?_
  · refine Frame.step State.kvRefuse_frame rfl ?_
    exact .refl
  · exact .refl

theorem State.seqSet_frame {s : State} {q : Nat} {st : Nat} {gen : Nat} :
    Frame [.regs, .cnt64, .sram, .hostMem, .reports, .hostOut, .hbm, .logPtr, .pw, .hostReads] s (State.seqSet s q st gen) := by
  unfold State.seqSet
  dsimp only
  refine Frame.step State.memPutN_frame rfl ?_
  exact .refl

theorem execSummaryBuild_frame {x : StackReads} {s : State} :
    ∃ out, execSummaryBuild x s = .next out ∧ Frame [.regs, .cnt64, .reports, .hostOut, .hbm, .logPtr] s out := by
  refine ⟨_, rfl, ?_⟩
  dsimp only
  split
  · exact .refl
  · refine Frame.ite ?_ ?_
    · exact .refl
    · split
      · refine Frame.trans ?_ (Frame.foldl (fun s x => ?_))
        · refine Frame.step State.setStk_frame rfl ?_
          exact .refl
        · refine Frame.step State.addReg_frame rfl ?_
          refine Frame.ite ?_ ?_
          · refine Frame.step State.sticky_frame rfl ?_
            refine Frame.step State.addReg_frame rfl ?_
            refine Frame.step State.hbmWriteInt_frame rfl ?_
            refine Frame.step State.hbmWriteInt_frame rfl ?_
            refine Frame.trans ?_ (Frame.foldl_at (fun (a : List Line × Bool × State) => a.2.2) (fun a x => ?_))
            · dsimp only
              exact .refl
            · dsimp only
              refine Frame.step State.hbmReadInt_frame rfl ?_
              exact .refl
          · refine Frame.ite ?_ ?_
            · refine Frame.step State.orReg_frame rfl ?_
              refine Frame.step State.hbmWriteInt_frame rfl ?_
              refine Frame.step State.hbmWriteInt_frame rfl ?_
              refine Frame.trans ?_ (Frame.foldl_at (fun (a : List Line × Bool × State) => a.2.2) (fun a x => ?_))
              · dsimp only
                exact .refl
              · dsimp only
                refine Frame.step State.hbmReadInt_frame rfl ?_
                exact .refl
            · refine Frame.step State.hbmWriteInt_frame rfl ?_
              refine Frame.step State.hbmWriteInt_frame rfl ?_
              refine Frame.trans ?_ (Frame.foldl_at (fun (a : List Line × Bool × State) => a.2.2) (fun a x => ?_))
              · dsimp only
                exact .refl
              · dsimp only
                refine Frame.step State.hbmReadInt_frame rfl ?_
                exact .refl
      · refine Frame.step State.setStk_frame rfl ?_
        exact .refl

theorem State.srLoss_frame {s : State} {k : Nat} :
    Frame [.reports] s (State.srLoss s k) := by
  unfold State.srLoss
  refine Frame.step State.report_frame rfl ?_
  exact .refl

theorem State.srCount_frame {s : State} {k : StackId} {ref : Nat} {fw : Nat × Nat} :
    Frame [.regs, .cnt64, .fls, .ums, .reports, .hostOut, .freeCtr, .fab, .logPtr, .pw] s (State.srCount s k ref fw) := by
  unfold State.srCount
  dsimp only
  split
  · refine Frame.step State.tallyAdd_frame rfl ?_
    exact .refl
  · refine Frame.step State.srLoss_frame rfl ?_
    refine Frame.step State.tallyAdd_frame rfl ?_
    exact .refl
  · split
    · refine Frame.step State.srLoss_frame rfl ?_
      refine Frame.step State.inject_frame rfl ?_
      refine Frame.step State.tallyAdd_frame rfl ?_
      exact .refl
    · refine Frame.step State.inject_frame rfl ?_
      refine Frame.step State.tallyAdd_frame rfl ?_
      exact .refl

theorem State.srPut_frame {ps : List Piece} {io : RegIO} {s : State} {k : StackId} {h : SrHdr} {fw : Nat × Nat} {i : Nat} {l : Line} {r : State} (hio : io.Within ps)
    (hw : Piece.within [.regs, .cnt64, .fls, .ums, .sram, .sramBad, .hostMem, .reports, .hostOut, .freeCtr, .hbm, .fab, .logPtr, .pw, .hostReads] ps = true) (hr : State.srPut io s k h fw i l = some r) : Frame ps s r := by
  unfold State.srPut at hr
  dsimp only at hr
  split at hr
  · split at hr
    · obtain rfl := Option.some.inj hr
      refine Frame.step State.srCount_frame (Piece.within_trans rfl hw) ?_
      refine Frame.trans ?_ (State.writeLocal_frame hio (Piece.within_trans rfl hw))
      exact .refl
    · cases hr
    · obtain rfl := Option.some.inj hr
      refine Frame.step State.srLoss_frame (Piece.within_trans rfl hw) ?_
      refine Frame.trans ?_ (State.writeLocal_frame hio (Piece.within_trans rfl hw))
      exact .refl
    · obtain rfl := Option.some.inj hr
      refine Frame.trans ?_ (State.writeLocal_frame hio (Piece.within_trans rfl hw))
      exact .refl
  · obtain rfl := Option.some.inj hr
    split
    · refine Frame.step State.srLoss_frame (Piece.within_trans rfl hw) ?_
      refine Frame.step State.inject_frame (Piece.within_trans rfl hw) ?_
      exact .refl
    · refine Frame.step State.inject_frame (Piece.within_trans rfl hw) ?_
      exact .refl

theorem State.srAnswer_frame {ps : List Piece} {io : RegIO} {s t : State} {k : StackId} {r : SrReq}
    {xs : List (W32 × Nat)} (hio : io.Within ps)
    (hw : Piece.within [.regs, .cnt64, .fls, .ums, .sram, .sramBad, .hostMem, .reports, .hostOut, .freeCtr, .hbm, .fab, .logPtr, .pw, .hostReads] ps = true) (hr : State.srAnswer io s k r xs = some t) : Frame ps s t := by
  unfold State.srAnswer at hr
  dsimp only at hr
  have go : ∀ (fw : Nat × Nat) (ns : List Nat) (acc : Option State), (∀ t, acc = some t → Frame ps s t) → ∀ t,
      ns.foldl (fun acc i => acc.bind (fun s => s.srPut io k (SrHdr.of r.h) fw i ((srLines (SrHdr.of r.h).ncand xs).getD i 0))) acc = some t →
      Frame ps s t := by
    intro fw ns
    induction ns with
    | nil => exact fun acc ha t ht => ha t ht
    | cons n ns ih =>
      intro acc ha t ht
      refine ih _ ?_ t ht
      intro u hu
      cases acc with
      | none => cases hu
      | some v => exact (ha v rfl).trans (State.srPut_frame hio (Piece.within_trans rfl hw) hu)
  exact go _ _ _ (fun t ht => by cases ht; exact .refl) t hr

theorem State.srQuery_frame {ps : List Piece} {io : RegIO} {s : State} {k a : Nat} {e : Ecc} {r : Line × State}
    (hio : io.Within ps) (hw : Piece.within [.regs, .cnt64, .sram, .sramBad, .reports, .hostOut, .freeCtr, .hbm, .logPtr, .fe, .pw] ps = true) (hr : State.srQuery io s k a e = some r) : Frame ps s r.2 := by
  have ha : Frame ps s (s.readLocal io (reqSorrel k) a e).2 := State.readLocal_frame hio (Piece.within_trans rfl hw)
  rw [State.srQuery] at hr
  generalize s.readLocal io (reqSorrel k) a e = x at ha hr
  obtain ⟨o, t⟩ := x
  have hf : Frame ps s { t with freeCtr := t.freeCtr + 1 } := Frame.set_freeCtr (Piece.within_trans rfl hw) ha
  cases o with
  | line l p =>
    cases p with
    | false =>
      obtain rfl := Option.some.inj hr
      exact ha
    | true =>
      obtain rfl := Option.some.inj hr
      exact hf
  | held => exact absurd hr (by simp)
  | lost =>
    obtain rfl := Option.some.inj hr
    exact hf

theorem State.srQueries_frame {ps : List Piece} {io : RegIO} {k n a : Nat} {es : List Ecc} {s : State} {r : List Line × State}
    (hio : io.Within ps) (hw : Piece.within [.regs, .cnt64, .sram, .sramBad, .reports, .hostOut, .freeCtr, .hbm, .logPtr, .fe, .pw] ps = true) (hr : State.srQueries io k n a es s = some r) : Frame ps s r.2 := by
  induction n generalizing a es s r with
  | zero =>
    cases hr
    exact .refl
  | succ n ih =>
    unfold State.srQueries at hr
    split at hr
    · cases hr
    · obtain ⟨y, hy, rfl⟩ := Option.map_eq_some_iff.mp hr
      show Frame ps s y.2
      exact (State.srQuery_frame hio (Piece.within_trans rfl hw) (by assumption)).trans (ih hy)

theorem State.srBlock_frame {s : State} {k : Nat} {l : Line} {qs : List Line} {i : Nat} {e : Ecc} {e' : Ecc} :
    Frame [.regs, .cnt64, .reports, .hostOut, .hbm, .logPtr] s (State.srBlock s k l qs i e e').2 := by
  unfold State.srBlock
  dsimp only
  split
  · dsimp only
    refine Frame.step State.sticky_frame rfl ?_
    refine Frame.step State.addReg_frame rfl ?_
    refine Frame.step State.addReg_frame rfl ?_
    refine Frame.step State.hbmReadInt_frame rfl ?_
    refine Frame.step State.hbmReadInt_frame rfl ?_
    exact .refl
  · dsimp only
    refine Frame.step State.addReg_frame rfl ?_
    refine Frame.step State.hbmReadInt_frame rfl ?_
    refine Frame.step State.hbmReadInt_frame rfl ?_
    exact .refl

theorem State.srScan_frame {ps : List Piece} {io : RegIO} {s : State} {k : StackId} {es : List Ecc} (hio : io.Within ps)
    (hw : Piece.within [.regs, .cnt64, .fls, .ums, .sram, .sramBad, .hostMem, .reports, .hostOut, .freeCtr, .hbm, .fab, .logPtr, .fe, .pw, .hostReads] ps = true) : Frame ps s (State.srScan io s k es) := by
  unfold State.srScan
  dsimp only
  split
  · exact .refl
  · refine Frame.ite ?_ ?_
    · exact .refl
    · refine Frame.ite ?_ ?_
      · split
        · exact .refl
        · refine Frame.step State.report_frame (Piece.within_trans rfl hw) ?_
          refine Frame.step State.addReg_frame (Piece.within_trans rfl hw) ?_
          refine Frame.step State.logErr_frame (Piece.within_trans rfl hw) ?_
          refine Frame.step State.event_frame (Piece.within_trans rfl hw) ?_
          refine Frame.step State.orReg_frame (Piece.within_trans rfl hw) ?_
          refine Frame.trans ?_ (State.srAnswer_frame hio (Piece.within_trans rfl hw) (by assumption))
          refine Frame.step State.setStk_frame (Piece.within_trans rfl hw) ?_
          exact .refl
      · split
        · exact .refl
        · split
          · exact .refl
          · refine Frame.step State.addReg_frame (Piece.within_trans rfl hw) ?_
            refine Frame.trans ?_ (State.srAnswer_frame hio (Piece.within_trans rfl hw) (by assumption))
            refine Frame.trans ?_ (Frame.foldl_at (fun (a : List (W32 × Nat) × State) => a.2) (fun a x => ?_))
            · dsimp only
              refine Frame.trans ?_ (State.srQueries_frame (r := (_, _)) hio (Piece.within_trans rfl hw) (by assumption))
              refine Frame.step State.setStk_frame (Piece.within_trans rfl hw) ?_
              exact .refl
            · dsimp only
              refine Frame.step State.srBlock_frame (Piece.within_trans rfl hw) ?_
              exact .refl

theorem execSorrelRequest_frame {k : StackId} {h : Line} {src : OptFloret} {s : State} :
    ∃ out, execSorrelRequest k h src s = .next out ∧ Frame [.hbm] s out := by
  refine ⟨_, rfl, ?_⟩
  unfold Option.getD
  split
  · refine Frame.step (State.srEnqueue_frame (by assumption)) rfl ?_
    exact .refl
  · exact .refl

theorem State.seqEnd_frame {s : State} {res : Nat} :
    Frame [.regs, .hostOut, .fe] s (State.seqEnd s res) := by
  unfold State.seqEnd
  dsimp only
  refine Frame.step State.event_frame rfl ?_
  refine Frame.set_fe rfl ?_
  refine Frame.step State.setField_frame rfl ?_
  exact .refl

theorem State.seqTake_frame {s : State} {op : Nat} {q : Nat} {arg : Nat} :
    Frame [.regs, .cnt64, .reports, .hostOut, .hbm, .logPtr, .fe] s (State.seqTake s op q arg).2 := by
  unfold State.seqTake
  split
  · dsimp only
    refine Frame.ite ?_ ?_
    · refine Frame.step State.memTouch_frame rfl ?_
      refine Frame.set_fe rfl ?_
      exact .refl
    · refine Frame.set_fe rfl ?_
      exact .refl
  · split
    · dsimp only
      exact .refl
    · dsimp only
      refine Frame.step State.orReg_frame rfl ?_
      exact .refl

theorem State.seqStart_frame {s : State} :
    Frame [.fe] s (State.seqStart s) := by
  unfold State.seqStart
  refine Frame.set_fe rfl ?_
  exact .refl

theorem State.seqOpen_frame {s : State} {q : Nat} :
    Frame [.regs, .cnt64, .sram, .hostMem, .reports, .hostOut, .hbm, .logPtr, .fe, .pw, .hostReads] s (State.seqOpen s q) := by
  unfold State.seqOpen
  dsimp only
  refine Frame.ite ?_ ?_
  · refine Frame.step State.seqTake_frame rfl ?_
    exact .refl
  · refine Frame.ite ?_ ?_
    · refine Frame.step State.seqEnd_frame rfl ?_
      refine Frame.step State.seqTake_frame rfl ?_
      exact .refl
    · refine Frame.ite ?_ ?_
      · refine Frame.step State.seqEnd_frame rfl ?_
        refine Frame.step State.seqTake_frame rfl ?_
        exact .refl
      · refine Frame.ite ?_ ?_
        · refine Frame.step State.seqEnd_frame rfl ?_
          refine Frame.step State.seqTake_frame rfl ?_
          exact .refl
        · refine Frame.ite ?_ ?_
          · refine Frame.step State.seqEnd_frame rfl ?_
            refine Frame.step State.seqTake_frame rfl ?_
            exact .refl
          · refine Frame.step State.seqEnd_frame rfl ?_
            refine Frame.step State.seqSet_frame rfl ?_
            refine Frame.step State.seqTake_frame rfl ?_
            exact .refl

theorem State.freeTable_frame {s : State} {e : SeqEntry} {g : Nat} {keep : Nat → Nat → Bool} :
    Frame [.regs, .cnt64, .sram, .hostMem, .reports, .hostOut, .hbm, .logPtr, .fe, .pw, .hostReads] s (State.freeTable s e g keep) := by
  unfold State.freeTable
  refine Frame.trans ?_ (Frame.foldl (fun s x => ?_))
  · exact .refl
  · dsimp only
    split
    · exact .refl
    · refine Frame.step State.memPutN_frame rfl ?_
      refine Frame.ite ?_ ?_
      · exact .refl
      · refine Frame.step State.kvFreeOp_frame rfl ?_
        exact .refl

theorem State.freeMaps_frame {s : State} {q : Nat} {e : SeqEntry} {g : Nat} :
    Frame [.regs, .cnt64, .reports, .hostOut, .hbm, .logPtr, .fe] s (State.freeMaps s q e g) := by
  unfold State.freeMaps
  dsimp only
  refine Frame.trans ?_ (Frame.foldl (fun s x => ?_))
  · exact .refl
  · refine Frame.trans ?_ (Frame.foldl (fun s x => ?_))
    · exact .refl
    · split
      · exact .refl
      · refine Frame.step State.hbmPutN_frame rfl ?_
        refine Frame.step State.kvFreeOp_frame rfl ?_
        exact .refl

theorem State.seqClose_frame {s : State} {q : Nat} :
    Frame [.regs, .cnt64, .sram, .hostMem, .reports, .hostOut, .hbm, .logPtr, .fe, .pw, .hostReads] s (State.seqClose s q) := by
  unfold State.seqClose
  dsimp only
  refine Frame.ite ?_ ?_
  · refine Frame.step State.seqTake_frame rfl ?_
    exact .refl
  · refine Frame.ite ?_ ?_
    · refine Frame.step State.seqEnd_frame rfl ?_
      refine Frame.step State.seqTake_frame rfl ?_
      exact .refl
    · refine Frame.ite ?_ ?_
      · refine Frame.step State.seqEnd_frame rfl ?_
        refine Frame.step State.seqTake_frame rfl ?_
        exact .refl
      · refine Frame.ite ?_ ?_
        · refine Frame.ite ?_ ?_
          · refine Frame.step State.seqTake_frame rfl ?_
            exact .refl
          · refine Frame.step State.seqStart_frame rfl ?_
            refine Frame.step State.seqSet_frame rfl ?_
            refine Frame.step State.seqTake_frame rfl ?_
            exact .refl
        · refine Frame.step State.seqEnd_frame rfl ?_
          refine Frame.step State.seqSet_frame rfl ?_
          refine Frame.step State.freeMaps_frame rfl ?_
          refine Frame.step State.freeMaps_frame rfl ?_
          refine Frame.step State.freeTable_frame rfl ?_
          refine Frame.step State.freeTable_frame rfl ?_
          refine Frame.ite ?_ ?_
          · refine Frame.step State.seqTake_frame rfl ?_
            exact .refl
          · refine Frame.step State.seqStart_frame rfl ?_
            refine Frame.step State.seqSet_frame rfl ?_
            refine Frame.step State.seqTake_frame rfl ?_
            exact .refl

theorem State.sumFrames_frame {q : Nat} {e : SeqEntry} {g : Nat} {x4 : Nat} {x5 : Nat} {x6 : State} :
    Frame [.regs, .cnt64, .reports, .hostOut, .hbm, .logPtr, .fe] x6 (State.sumFrames q e g x4 x5 x6).2.1 := by
  induction x4 generalizing q e g x5 x6 with
  | zero => exact .refl
  | succ n ih =>
    unfold State.sumFrames
    dsimp only
    split
    · refine Frame.trans ?_ ih
      exact .refl
    · split
      · dsimp only
        refine Frame.step State.kvAllocOp_frame rfl ?_
        exact .refl
      · dsimp only
        refine Frame.trans ?_ ih
        refine Frame.step State.hbmPutN_frame rfl ?_
        refine Frame.step State.kvAllocOp_frame rfl ?_
        exact .refl

theorem State.queueBuilds_frame {s : State} {q : Nat} {e : SeqEntry} {g : Nat} {lo : Nat} {hi : Nat} :
    Frame [.hbm] s (State.queueBuilds s q e g lo hi) := by
  unfold State.queueBuilds
  refine Frame.trans ?_ (Frame.foldl (fun s x => ?_))
  · exact .refl
  · dsimp only
    refine Frame.step State.setStk_frame rfl ?_
    exact .refl

theorem State.seqRebuild_frame {s : State} {q : Nat} {arg : Nat} :
    Frame [.regs, .cnt64, .sram, .hostMem, .reports, .hostOut, .hbm, .logPtr, .fe, .pw, .hostReads] s (State.seqRebuild s q arg) := by
  unfold State.seqRebuild
  dsimp only
  refine Frame.ite ?_ ?_
  · refine Frame.step State.seqTake_frame rfl ?_
    exact .refl
  · refine Frame.ite ?_ ?_
    · refine Frame.step State.seqEnd_frame rfl ?_
      refine Frame.step State.seqTake_frame rfl ?_
      exact .refl
    · refine Frame.ite ?_ ?_
      · refine Frame.ite ?_ ?_
        · refine Frame.step State.seqEnd_frame rfl ?_
          refine Frame.step State.seqTake_frame rfl ?_
          exact .refl
        · refine Frame.ite ?_ ?_
          · refine Frame.step State.seqTake_frame rfl ?_
            exact .refl
          · refine Frame.step State.seqEnd_frame rfl ?_
            refine Frame.step State.seqSet_frame rfl ?_
            refine Frame.step State.memPutN_frame rfl ?_
            refine Frame.step State.seqTake_frame rfl ?_
            exact .refl
      · refine Frame.ite ?_ ?_
        · refine Frame.step State.seqEnd_frame rfl ?_
          refine Frame.step State.seqTake_frame rfl ?_
          exact .refl
        · refine Frame.ite ?_ ?_
          · refine Frame.step State.seqStart_frame rfl ?_
            refine Frame.step State.queueBuilds_frame rfl ?_
            refine Frame.step State.seqSet_frame rfl ?_
            refine Frame.step State.sumFrames_frame rfl ?_
            refine Frame.step State.seqTake_frame rfl ?_
            exact .refl
          · refine Frame.step State.seqEnd_frame rfl ?_
            refine Frame.trans ?_ (Frame.foldl (fun s x => ?_))
            · refine Frame.step State.sumFrames_frame rfl ?_
              refine Frame.step State.seqTake_frame rfl ?_
              exact .refl
            · refine Frame.step State.hbmPutN_frame rfl ?_
              refine Frame.step State.kvFreeOp_frame rfl ?_
              exact .refl

theorem State.seqSwitch_frame {s : State} {q : Nat} :
    Frame [.regs, .cnt64, .sram, .hostMem, .reports, .hostOut, .hbm, .logPtr, .fe, .pw, .hostReads] s (State.seqSwitch s q) := by
  unfold State.seqSwitch
  dsimp only
  refine Frame.ite ?_ ?_
  · refine Frame.step State.seqTake_frame rfl ?_
    exact .refl
  · refine Frame.ite ?_ ?_
    · refine Frame.step State.seqEnd_frame rfl ?_
      refine Frame.step State.seqTake_frame rfl ?_
      exact .refl
    · refine Frame.ite ?_ ?_
      · refine Frame.step State.seqEnd_frame rfl ?_
        refine Frame.step State.seqTake_frame rfl ?_
        exact .refl
      · refine Frame.ite ?_ ?_
        · refine Frame.step State.seqEnd_frame rfl ?_
          refine Frame.step State.seqTake_frame rfl ?_
          exact .refl
        · refine Frame.ite ?_ ?_
          · refine Frame.ite ?_ ?_
            · refine Frame.step State.seqTake_frame rfl ?_
              exact .refl
            · refine Frame.step State.seqStart_frame rfl ?_
              refine Frame.step State.seqSet_frame rfl ?_
              refine Frame.step State.seqTake_frame rfl ?_
              exact .refl
          · refine Frame.ite ?_ ?_
            · refine Frame.step State.seqEnd_frame rfl ?_
              refine Frame.step State.seqSet_frame rfl ?_
              refine Frame.ite ?_ ?_
              · refine Frame.step State.seqTake_frame rfl ?_
                exact .refl
              · refine Frame.step State.seqStart_frame rfl ?_
                refine Frame.step State.seqSet_frame rfl ?_
                refine Frame.step State.seqTake_frame rfl ?_
                exact .refl
            · refine Frame.step State.seqEnd_frame rfl ?_
              refine Frame.step State.seqSet_frame rfl ?_
              refine Frame.step State.memPutN_frame rfl ?_
              refine Frame.step State.freeMaps_frame rfl ?_
              refine Frame.step State.freeTable_frame rfl ?_
              refine Frame.step State.seqSet_frame rfl ?_
              refine Frame.ite ?_ ?_
              · refine Frame.step State.seqTake_frame rfl ?_
                exact .refl
              · refine Frame.step State.seqStart_frame rfl ?_
                refine Frame.step State.seqSet_frame rfl ?_
                refine Frame.step State.seqTake_frame rfl ?_
                exact .refl

theorem execOpenSeq_frame {q : SeqSlot} {s : State} :
    ∃ out, execOpenSeq q s = .next out ∧ Frame [.regs, .cnt64, .sram, .hostMem, .reports, .hostOut, .hbm, .logPtr, .fe, .pw, .hostReads] s out := by
  refine ⟨_, rfl, ?_⟩
  refine Frame.step State.seqOpen_frame rfl ?_
  exact .refl

theorem execCloseSeq_frame {q : SeqSlot} {s : State} :
    ∃ out, execCloseSeq q s = .next out ∧ Frame [.regs, .cnt64, .sram, .hostMem, .reports, .hostOut, .hbm, .logPtr, .fe, .pw, .hostReads] s out := by
  refine ⟨_, rfl, ?_⟩
  refine Frame.step State.seqClose_frame rfl ?_
  exact .refl

theorem execRebuild_frame {q : SeqSlot} {s : State} :
    ∃ out, execRebuild q s = .next out ∧ Frame [.regs, .cnt64, .sram, .hostMem, .reports, .hostOut, .hbm, .logPtr, .fe, .pw, .hostReads] s out := by
  refine ⟨_, rfl, ?_⟩
  refine Frame.step State.seqRebuild_frame rfl ?_
  exact .refl

theorem execSwitchSeq_frame {q : SeqSlot} {s : State} :
    ∃ out, execSwitchSeq q s = .next out ∧ Frame [.regs, .cnt64, .sram, .hostMem, .reports, .hostOut, .hbm, .logPtr, .fe, .pw, .hostReads] s out := by
  refine ⟨_, rfl, ?_⟩
  refine Frame.step State.seqSwitch_frame rfl ?_
  exact .refl

theorem State.seqBad_frame {s : State} {op : Nat} :
    Frame [.regs, .hostOut, .fe] s (State.seqBad s op) := by
  unfold State.seqBad
  refine Frame.ite ?_ ?_
  · exact .refl
  · refine Frame.ite ?_ ?_
    · refine Frame.step State.orReg_frame rfl ?_
      exact .refl
    · refine Frame.step State.seqEnd_frame rfl ?_
      exact .refl

theorem execSeqBadOp_frame {op : W4} {_q : SeqSlot} {s : State} :
    ∃ out, execSeqBadOp op _q s = .next out ∧ Frame [.regs, .hostOut, .fe] s out := by
  refine ⟨_, rfl, ?_⟩
  refine Frame.step State.seqBad_frame rfl ?_
  exact .refl

theorem execLenUpdate_frame {q : SeqSlot} {s : State} :
    ∃ out, execLenUpdate q s = .next out ∧ Frame [.regs, .cnt64, .sram, .hostMem, .reports, .hostOut, .hbm, .logPtr, .fe, .pw, .hostReads] s out := by
  refine ⟨_, rfl, ?_⟩
  split
  · exact .refl
  · refine Frame.ite ?_ ?_
    · exact .refl
    · dsimp only
      refine Frame.set_fe rfl ?_
      refine Frame.step State.memPutN_frame rfl ?_
      refine Frame.step State.memPutN_frame rfl ?_
      exact .refl

theorem State.memPutN_keeps {s : State} {n : Nat} {a : Nat} {v : Nat} : Keeps s (State.memPutN s n a v) := by
  unfold State.memPutN
  split
  · refine Keeps.trans ?_ State.hbmPutN_keeps
    exact .refl
  · dsimp only
    refine Keeps.frame State.cnt_frame rfl ?_
    refine Keeps.trans ?_ State.hostPut_keeps
    exact .refl
  · refine Keeps.frame State.sramBytes_frame rfl ?_
    refine Keeps.set_sram Memory.writeN_wf ?_
    exact .refl
  · refine Keeps.frame State.sramBytes_frame rfl ?_
    refine Keeps.set_sram Memory.writeN_wf ?_
    exact .refl
  · refine Keeps.frame State.addrErr_frame rfl ?_
    exact .refl

theorem State.memTouch_keeps {s : State} {n : Nat} {a : Nat} : Keeps s (State.memTouch s n a) := by
  unfold State.memTouch
  split
  · refine Keeps.trans ?_ State.readSpan_keeps
    exact .refl
  · dsimp only
    refine Keeps.set_fe ?_
    exact .refl
  · refine Keeps.frame State.addrErr_frame rfl ?_
    exact .refl
  · exact .refl

theorem State.setFrameOwner_keeps {s : State} {p : KvPool} {k : Nat} {f : Nat} {o : Nat} : Keeps s (State.setFrameOwner s p k f o) := by
  unfold State.setFrameOwner
  refine Keeps.trans ?_ State.hbmPutN_keeps
  exact .refl

theorem State.kvAllocOp_keeps {s : State} {k : Nat} {port : KvPort} {n : Nat} {owner : Nat} : Keeps s (State.kvAllocOp s k port n owner).2 := by
  unfold State.kvAllocOp
  dsimp only
  split
  · dsimp only
    refine Keeps.frame State.kvRefuse_frame rfl ?_
    exact .refl
  · split
    · dsimp only
      refine Keeps.frame State.kvResult_frame rfl ?_
      refine Keeps.trans ?_ State.setFrameOwner_keeps
      exact .refl
    · dsimp only
      refine Keeps.frame State.sticky_frame rfl ?_
      refine Keeps.frame State.kvResult_frame rfl ?_
      exact .refl

theorem State.kvFreeOp_keeps {s : State} {k : Nat} {port : KvPort} {n : Nat} {owner : Nat} {frame : Nat} : Keeps s (State.kvFreeOp s k port n owner frame) := by
  unfold State.kvFreeOp
  dsimp only
  refine Keeps.ite ?_ ?_
  · refine Keeps.frame State.kvRefuse_frame rfl ?_
    exact .refl
  · refine Keeps.ite ?_ ?_
    · refine Keeps.frame State.kvResult_frame rfl ?_
      refine Keeps.trans ?_ State.setFrameOwner_keeps
      exact .refl
    · refine Keeps.frame State.logErr_frame rfl ?_
      refine Keeps.frame State.addReg_frame rfl ?_
      refine Keeps.frame State.event_frame rfl ?_
      refine Keeps.frame State.orReg_frame rfl ?_
      refine Keeps.frame State.kvResult_frame rfl ?_
      exact .refl

theorem execKvAlloc_keeps {k : StackId} {port : KvPort} {pool : PoolId} {owner : W20} {s : State} :
    ∃ out, execKvAlloc k port pool owner s = .next out ∧ Keeps s out := by
  refine ⟨_, rfl, ?_⟩
  refine Keeps.ite ?_ ?_
  · refine Keeps.trans ?_ State.kvAllocOp_keeps
    exact .refl
  · refine Keeps.frame State.kvHeld_frame rfl ?_
    exact .refl

theorem execKvFree_keeps {k : StackId} {port : KvPort} {pool : PoolId} {owner : W20} {frame : W20} {s : State} :
    ∃ out, execKvFree k port pool owner frame s = .next out ∧ Keeps s out := by
  refine ⟨_, rfl, ?_⟩
  refine Keeps.ite ?_ ?_
  · refine Keeps.trans ?_ State.kvFreeOp_keeps
    exact .refl
  · refine Keeps.frame State.kvHeld_frame rfl ?_
    exact .refl

theorem State.seqSet_keeps {s : State} {q : Nat} {st : Nat} {gen : Nat} : Keeps s (State.seqSet s q st gen) := by
  unfold State.seqSet
  dsimp only
  refine Keeps.trans ?_ State.memPutN_keeps
  exact .refl

theorem execSummaryBuild_keeps {x : StackReads} {s : State} :
    ∃ out, execSummaryBuild x s = .next out ∧ Keeps s out := by
  refine ⟨_, rfl, ?_⟩
  dsimp only
  split
  · exact .refl
  · refine Keeps.ite ?_ ?_
    · exact .refl
    · split
      · refine Keeps.trans ?_ (Keeps.foldl (fun s x => ?_))
        · refine Keeps.trans ?_ State.setStk_keeps
          exact .refl
        · refine Keeps.frame State.addReg_frame rfl ?_
          refine Keeps.ite ?_ ?_
          · refine Keeps.frame State.sticky_frame rfl ?_
            refine Keeps.frame State.addReg_frame rfl ?_
            refine Keeps.trans ?_ State.hbmWriteInt_keeps
            refine Keeps.trans ?_ State.hbmWriteInt_keeps
            refine Keeps.trans ?_ (Keeps.foldl_at (fun (a : List Line × Bool × State) => a.2.2) (fun a x => ?_))
            · dsimp only
              exact .refl
            · dsimp only
              refine Keeps.trans ?_ State.hbmReadInt_keeps
              exact .refl
          · refine Keeps.ite ?_ ?_
            · refine Keeps.frame State.orReg_frame rfl ?_
              refine Keeps.trans ?_ State.hbmWriteInt_keeps
              refine Keeps.trans ?_ State.hbmWriteInt_keeps
              refine Keeps.trans ?_ (Keeps.foldl_at (fun (a : List Line × Bool × State) => a.2.2) (fun a x => ?_))
              · dsimp only
                exact .refl
              · dsimp only
                refine Keeps.trans ?_ State.hbmReadInt_keeps
                exact .refl
            · refine Keeps.trans ?_ State.hbmWriteInt_keeps
              refine Keeps.trans ?_ State.hbmWriteInt_keeps
              refine Keeps.trans ?_ (Keeps.foldl_at (fun (a : List Line × Bool × State) => a.2.2) (fun a x => ?_))
              · dsimp only
                exact .refl
              · dsimp only
                refine Keeps.trans ?_ State.hbmReadInt_keeps
                exact .refl
      · refine Keeps.trans ?_ State.setStk_keeps
        exact .refl

theorem State.srPut_keeps {io : RegIO} {s : State} {k : StackId} {h : SrHdr} {fw : Nat × Nat} {i : Nat} {l : Line} {r : State} (hio : io.Keeps) (hr : State.srPut io s k h fw i l = some r) : Keeps s r := by
  unfold State.srPut at hr
  dsimp only at hr
  split at hr
  · split at hr
    · obtain rfl := Option.some.inj hr
      refine Keeps.frame State.srCount_frame rfl ?_
      refine Keeps.trans ?_ (State.writeLocal_keeps hio)
      exact .refl
    · cases hr
    · obtain rfl := Option.some.inj hr
      refine Keeps.frame State.srLoss_frame rfl ?_
      refine Keeps.trans ?_ (State.writeLocal_keeps hio)
      exact .refl
    · obtain rfl := Option.some.inj hr
      refine Keeps.trans ?_ (State.writeLocal_keeps hio)
      exact .refl
  · obtain rfl := Option.some.inj hr
    split
    · refine Keeps.frame State.srLoss_frame rfl ?_
      refine Keeps.frame State.inject_frame rfl ?_
      exact .refl
    · refine Keeps.frame State.inject_frame rfl ?_
      exact .refl

theorem State.srAnswer_keeps {io : RegIO} {s t : State} {k : StackId} {r : SrReq}
    {xs : List (W32 × Nat)} (hio : io.Keeps)
    (hr : State.srAnswer io s k r xs = some t) : Keeps s t := by
  unfold State.srAnswer at hr
  dsimp only at hr
  have go : ∀ (fw : Nat × Nat) (ns : List Nat) (acc : Option State), (∀ t, acc = some t → Keeps s t) → ∀ t,
      ns.foldl (fun acc i => acc.bind (fun s => s.srPut io k (SrHdr.of r.h) fw i ((srLines (SrHdr.of r.h).ncand xs).getD i 0))) acc = some t →
      Keeps s t := by
    intro fw ns
    induction ns with
    | nil => exact fun acc ha t ht => ha t ht
    | cons n ns ih =>
      intro acc ha t ht
      refine ih _ ?_ t ht
      intro u hu
      cases acc with
      | none => cases hu
      | some v => exact (ha v rfl).trans (State.srPut_keeps hio hu)
  exact go _ _ _ (fun t ht => by cases ht; exact .refl) t hr

theorem State.srQuery_keeps {io : RegIO} {s : State} {k a : Nat} {e : Ecc} {r : Line × State} (hio : io.Keeps)
    (hr : State.srQuery io s k a e = some r) : Keeps s r.2 := by
  have ha : Keeps s (s.readLocal io (reqSorrel k) a e).2 := State.readLocal_keeps hio
  rw [State.srQuery] at hr
  generalize s.readLocal io (reqSorrel k) a e = x at ha hr
  obtain ⟨o, t⟩ := x
  have hf : Keeps s { t with freeCtr := t.freeCtr + 1 } := Keeps.set_freeCtr ha
  cases o with
  | line l p =>
    cases p with
    | false =>
      obtain rfl := Option.some.inj hr
      exact ha
    | true =>
      obtain rfl := Option.some.inj hr
      exact hf
  | held => exact absurd hr (by simp)
  | lost =>
    obtain rfl := Option.some.inj hr
    exact hf

theorem State.srQueries_keeps {io : RegIO} {k n a : Nat} {es : List Ecc} {s : State} {r : List Line × State}
    (hio : io.Keeps) (hr : State.srQueries io k n a es s = some r) : Keeps s r.2 := by
  induction n generalizing a es s r with
  | zero =>
    cases hr
    exact .refl
  | succ n ih =>
    unfold State.srQueries at hr
    split at hr
    · cases hr
    · obtain ⟨y, hy, rfl⟩ := Option.map_eq_some_iff.mp hr
      show Keeps s y.2
      exact (State.srQuery_keeps hio (by assumption)).trans (ih hy)

theorem State.srBlock_keeps {s : State} {k : Nat} {l : Line} {qs : List Line} {i : Nat} {e : Ecc} {e' : Ecc} : Keeps s (State.srBlock s k l qs i e e').2 := by
  unfold State.srBlock
  dsimp only
  split
  · dsimp only
    refine Keeps.frame State.sticky_frame rfl ?_
    refine Keeps.frame State.addReg_frame rfl ?_
    refine Keeps.frame State.addReg_frame rfl ?_
    refine Keeps.trans ?_ State.hbmReadInt_keeps
    refine Keeps.trans ?_ State.hbmReadInt_keeps
    exact .refl
  · dsimp only
    refine Keeps.frame State.addReg_frame rfl ?_
    refine Keeps.trans ?_ State.hbmReadInt_keeps
    refine Keeps.trans ?_ State.hbmReadInt_keeps
    exact .refl

theorem State.srScan_keeps {io : RegIO} {s : State} {k : StackId} {es : List Ecc} (hio : io.Keeps) : Keeps s (State.srScan io s k es) := by
  unfold State.srScan
  dsimp only
  split
  · exact .refl
  · refine Keeps.ite ?_ ?_
    · exact .refl
    · refine Keeps.ite ?_ ?_
      · split
        · exact .refl
        · refine Keeps.frame State.report_frame rfl ?_
          refine Keeps.frame State.addReg_frame rfl ?_
          refine Keeps.frame State.logErr_frame rfl ?_
          refine Keeps.frame State.event_frame rfl ?_
          refine Keeps.frame State.orReg_frame rfl ?_
          refine Keeps.trans ?_ (State.srAnswer_keeps hio (by assumption))
          refine Keeps.trans ?_ State.setStk_keeps
          exact .refl
      · split
        · exact .refl
        · split
          · exact .refl
          · refine Keeps.frame State.addReg_frame rfl ?_
            refine Keeps.trans ?_ (State.srAnswer_keeps hio (by assumption))
            refine Keeps.trans ?_ (Keeps.foldl_at (fun (a : List (W32 × Nat) × State) => a.2) (fun a x => ?_))
            · dsimp only
              refine Keeps.trans ?_ (State.srQueries_keeps (r := (_, _)) hio (by assumption))
              refine Keeps.trans ?_ State.setStk_keeps
              exact .refl
            · dsimp only
              refine Keeps.trans ?_ State.srBlock_keeps
              exact .refl

theorem execSorrelRequest_keeps {k : StackId} {h : Line} {src : OptFloret} {s : State} :
    ∃ out, execSorrelRequest k h src s = .next out ∧ Keeps s out := by
  refine ⟨_, rfl, ?_⟩
  unfold Option.getD
  split
  · refine Keeps.trans ?_ (State.srEnqueue_keeps (by assumption))
    exact .refl
  · exact .refl

theorem State.seqTake_keeps {s : State} {op : Nat} {q : Nat} {arg : Nat} : Keeps s (State.seqTake s op q arg).2 := by
  unfold State.seqTake
  split
  · dsimp only
    refine Keeps.ite ?_ ?_
    · refine Keeps.trans ?_ State.memTouch_keeps
      refine Keeps.set_fe ?_
      exact .refl
    · refine Keeps.set_fe ?_
      exact .refl
  · split
    · dsimp only
      exact .refl
    · dsimp only
      refine Keeps.frame State.orReg_frame rfl ?_
      exact .refl

theorem State.seqOpen_keeps {s : State} {q : Nat} : Keeps s (State.seqOpen s q) := by
  unfold State.seqOpen
  dsimp only
  refine Keeps.ite ?_ ?_
  · refine Keeps.trans ?_ State.seqTake_keeps
    exact .refl
  · refine Keeps.ite ?_ ?_
    · refine Keeps.frame State.seqEnd_frame rfl ?_
      refine Keeps.trans ?_ State.seqTake_keeps
      exact .refl
    · refine Keeps.ite ?_ ?_
      · refine Keeps.frame State.seqEnd_frame rfl ?_
        refine Keeps.trans ?_ State.seqTake_keeps
        exact .refl
      · refine Keeps.ite ?_ ?_
        · refine Keeps.frame State.seqEnd_frame rfl ?_
          refine Keeps.trans ?_ State.seqTake_keeps
          exact .refl
        · refine Keeps.ite ?_ ?_
          · refine Keeps.frame State.seqEnd_frame rfl ?_
            refine Keeps.trans ?_ State.seqTake_keeps
            exact .refl
          · refine Keeps.frame State.seqEnd_frame rfl ?_
            refine Keeps.trans ?_ State.seqSet_keeps
            refine Keeps.trans ?_ State.seqTake_keeps
            exact .refl

theorem State.freeTable_keeps {s : State} {e : SeqEntry} {g : Nat} {keep : Nat → Nat → Bool} : Keeps s (State.freeTable s e g keep) := by
  unfold State.freeTable
  refine Keeps.trans ?_ (Keeps.foldl (fun s x => ?_))
  · exact .refl
  · dsimp only
    split
    · exact .refl
    · refine Keeps.trans ?_ State.memPutN_keeps
      refine Keeps.ite ?_ ?_
      · exact .refl
      · refine Keeps.trans ?_ State.kvFreeOp_keeps
        exact .refl

theorem State.freeMaps_keeps {s : State} {q : Nat} {e : SeqEntry} {g : Nat} : Keeps s (State.freeMaps s q e g) := by
  unfold State.freeMaps
  dsimp only
  refine Keeps.trans ?_ (Keeps.foldl (fun s x => ?_))
  · exact .refl
  · refine Keeps.trans ?_ (Keeps.foldl (fun s x => ?_))
    · exact .refl
    · split
      · exact .refl
      · refine Keeps.trans ?_ State.hbmPutN_keeps
        refine Keeps.trans ?_ State.kvFreeOp_keeps
        exact .refl

theorem State.seqClose_keeps {s : State} {q : Nat} : Keeps s (State.seqClose s q) := by
  unfold State.seqClose
  dsimp only
  refine Keeps.ite ?_ ?_
  · refine Keeps.trans ?_ State.seqTake_keeps
    exact .refl
  · refine Keeps.ite ?_ ?_
    · refine Keeps.frame State.seqEnd_frame rfl ?_
      refine Keeps.trans ?_ State.seqTake_keeps
      exact .refl
    · refine Keeps.ite ?_ ?_
      · refine Keeps.frame State.seqEnd_frame rfl ?_
        refine Keeps.trans ?_ State.seqTake_keeps
        exact .refl
      · refine Keeps.ite ?_ ?_
        · refine Keeps.ite ?_ ?_
          · refine Keeps.trans ?_ State.seqTake_keeps
            exact .refl
          · refine Keeps.frame State.seqStart_frame rfl ?_
            refine Keeps.trans ?_ State.seqSet_keeps
            refine Keeps.trans ?_ State.seqTake_keeps
            exact .refl
        · refine Keeps.frame State.seqEnd_frame rfl ?_
          refine Keeps.trans ?_ State.seqSet_keeps
          refine Keeps.trans ?_ State.freeMaps_keeps
          refine Keeps.trans ?_ State.freeMaps_keeps
          refine Keeps.trans ?_ State.freeTable_keeps
          refine Keeps.trans ?_ State.freeTable_keeps
          refine Keeps.ite ?_ ?_
          · refine Keeps.trans ?_ State.seqTake_keeps
            exact .refl
          · refine Keeps.frame State.seqStart_frame rfl ?_
            refine Keeps.trans ?_ State.seqSet_keeps
            refine Keeps.trans ?_ State.seqTake_keeps
            exact .refl

theorem State.sumFrames_keeps {q : Nat} {e : SeqEntry} {g : Nat} {x4 : Nat} {x5 : Nat} {x6 : State} : Keeps x6 (State.sumFrames q e g x4 x5 x6).2.1 := by
  induction x4 generalizing q e g x5 x6 with
  | zero => exact .refl
  | succ n ih =>
    unfold State.sumFrames
    dsimp only
    split
    · refine Keeps.trans ?_ ih
      exact .refl
    · split
      · dsimp only
        refine Keeps.trans ?_ State.kvAllocOp_keeps
        exact .refl
      · dsimp only
        refine Keeps.trans ?_ ih
        refine Keeps.trans ?_ State.hbmPutN_keeps
        refine Keeps.trans ?_ State.kvAllocOp_keeps
        exact .refl

theorem State.queueBuilds_keeps {s : State} {q : Nat} {e : SeqEntry} {g : Nat} {lo : Nat} {hi : Nat} : Keeps s (State.queueBuilds s q e g lo hi) := by
  unfold State.queueBuilds
  refine Keeps.trans ?_ (Keeps.foldl (fun s x => ?_))
  · exact .refl
  · dsimp only
    refine Keeps.trans ?_ State.setStk_keeps
    exact .refl

theorem State.seqRebuild_keeps {s : State} {q : Nat} {arg : Nat} : Keeps s (State.seqRebuild s q arg) := by
  unfold State.seqRebuild
  dsimp only
  refine Keeps.ite ?_ ?_
  · refine Keeps.trans ?_ State.seqTake_keeps
    exact .refl
  · refine Keeps.ite ?_ ?_
    · refine Keeps.frame State.seqEnd_frame rfl ?_
      refine Keeps.trans ?_ State.seqTake_keeps
      exact .refl
    · refine Keeps.ite ?_ ?_
      · refine Keeps.ite ?_ ?_
        · refine Keeps.frame State.seqEnd_frame rfl ?_
          refine Keeps.trans ?_ State.seqTake_keeps
          exact .refl
        · refine Keeps.ite ?_ ?_
          · refine Keeps.trans ?_ State.seqTake_keeps
            exact .refl
          · refine Keeps.frame State.seqEnd_frame rfl ?_
            refine Keeps.trans ?_ State.seqSet_keeps
            refine Keeps.trans ?_ State.memPutN_keeps
            refine Keeps.trans ?_ State.seqTake_keeps
            exact .refl
      · refine Keeps.ite ?_ ?_
        · refine Keeps.frame State.seqEnd_frame rfl ?_
          refine Keeps.trans ?_ State.seqTake_keeps
          exact .refl
        · refine Keeps.ite ?_ ?_
          · refine Keeps.frame State.seqStart_frame rfl ?_
            refine Keeps.trans ?_ State.queueBuilds_keeps
            refine Keeps.trans ?_ State.seqSet_keeps
            refine Keeps.trans ?_ State.sumFrames_keeps
            refine Keeps.trans ?_ State.seqTake_keeps
            exact .refl
          · refine Keeps.frame State.seqEnd_frame rfl ?_
            refine Keeps.trans ?_ (Keeps.foldl (fun s x => ?_))
            · refine Keeps.trans ?_ State.sumFrames_keeps
              refine Keeps.trans ?_ State.seqTake_keeps
              exact .refl
            · refine Keeps.trans ?_ State.hbmPutN_keeps
              refine Keeps.trans ?_ State.kvFreeOp_keeps
              exact .refl

theorem State.seqSwitch_keeps {s : State} {q : Nat} : Keeps s (State.seqSwitch s q) := by
  unfold State.seqSwitch
  dsimp only
  refine Keeps.ite ?_ ?_
  · refine Keeps.trans ?_ State.seqTake_keeps
    exact .refl
  · refine Keeps.ite ?_ ?_
    · refine Keeps.frame State.seqEnd_frame rfl ?_
      refine Keeps.trans ?_ State.seqTake_keeps
      exact .refl
    · refine Keeps.ite ?_ ?_
      · refine Keeps.frame State.seqEnd_frame rfl ?_
        refine Keeps.trans ?_ State.seqTake_keeps
        exact .refl
      · refine Keeps.ite ?_ ?_
        · refine Keeps.frame State.seqEnd_frame rfl ?_
          refine Keeps.trans ?_ State.seqTake_keeps
          exact .refl
        · refine Keeps.ite ?_ ?_
          · refine Keeps.ite ?_ ?_
            · refine Keeps.trans ?_ State.seqTake_keeps
              exact .refl
            · refine Keeps.frame State.seqStart_frame rfl ?_
              refine Keeps.trans ?_ State.seqSet_keeps
              refine Keeps.trans ?_ State.seqTake_keeps
              exact .refl
          · refine Keeps.ite ?_ ?_
            · refine Keeps.frame State.seqEnd_frame rfl ?_
              refine Keeps.trans ?_ State.seqSet_keeps
              refine Keeps.ite ?_ ?_
              · refine Keeps.trans ?_ State.seqTake_keeps
                exact .refl
              · refine Keeps.frame State.seqStart_frame rfl ?_
                refine Keeps.trans ?_ State.seqSet_keeps
                refine Keeps.trans ?_ State.seqTake_keeps
                exact .refl
            · refine Keeps.frame State.seqEnd_frame rfl ?_
              refine Keeps.trans ?_ State.seqSet_keeps
              refine Keeps.trans ?_ State.memPutN_keeps
              refine Keeps.trans ?_ State.freeMaps_keeps
              refine Keeps.trans ?_ State.freeTable_keeps
              refine Keeps.trans ?_ State.seqSet_keeps
              refine Keeps.ite ?_ ?_
              · refine Keeps.trans ?_ State.seqTake_keeps
                exact .refl
              · refine Keeps.frame State.seqStart_frame rfl ?_
                refine Keeps.trans ?_ State.seqSet_keeps
                refine Keeps.trans ?_ State.seqTake_keeps
                exact .refl

theorem execOpenSeq_keeps {q : SeqSlot} {s : State} :
    ∃ out, execOpenSeq q s = .next out ∧ Keeps s out := by
  refine ⟨_, rfl, ?_⟩
  refine Keeps.trans ?_ State.seqOpen_keeps
  exact .refl

theorem execCloseSeq_keeps {q : SeqSlot} {s : State} :
    ∃ out, execCloseSeq q s = .next out ∧ Keeps s out := by
  refine ⟨_, rfl, ?_⟩
  refine Keeps.trans ?_ State.seqClose_keeps
  exact .refl

theorem execRebuild_keeps {q : SeqSlot} {s : State} :
    ∃ out, execRebuild q s = .next out ∧ Keeps s out := by
  refine ⟨_, rfl, ?_⟩
  refine Keeps.trans ?_ State.seqRebuild_keeps
  exact .refl

theorem execSwitchSeq_keeps {q : SeqSlot} {s : State} :
    ∃ out, execSwitchSeq q s = .next out ∧ Keeps s out := by
  refine ⟨_, rfl, ?_⟩
  refine Keeps.trans ?_ State.seqSwitch_keeps
  exact .refl

theorem execLenUpdate_keeps {q : SeqSlot} {s : State} :
    ∃ out, execLenUpdate q s = .next out ∧ Keeps s out := by
  refine ⟨_, rfl, ?_⟩
  split
  · exact .refl
  · refine Keeps.ite ?_ ?_
    · exact .refl
    · dsimp only
      refine Keeps.set_fe ?_
      refine Keeps.trans ?_ State.memPutN_keeps
      refine Keeps.trans ?_ State.memPutN_keeps
      exact .refl

end Sys2Proof.Machine
end

