-- ==== Sys2Proof/Laws/PowerBase.lean ====
section
/-! SUPPORT. What each operation and each meaning of Machine/PowerBase.lean can change at most: the pieces of the state outside
its list stay as they are. -/

namespace Sys2Proof.Machine

theorem State.setRail_frame {s : State} {r : Nat} {x : PwRail} :
    Frame [.pw] s (State.setRail s r x) := by
  unfold State.setRail
  refine Frame.set_pw rfl ?_
  exact .refl

theorem State.setPart_frame {s : State} {p : Nat} {x : Part} :
    Frame [.flt] s (State.setPart s p x) := by
  unfold State.setPart
  refine Frame.set_flt rfl ?_
  exact .refl

theorem State.pageReset_frame {s : State} {pg : Nat} {keep : Nat → Bool} :
    Frame [.regs, .latch, .cnt64, .logPtr] s (State.pageReset s pg keep) := by
  unfold State.pageReset
  dsimp only
  refine Frame.set_regs_latch_cnt64_logPtr rfl ?_
  exact .refl

theorem State.dropAgents_frame {s : State} {p : Agent → Bool} :
    Frame [.fab, .hostReads] s (State.dropAgents s p) := by
  unfold State.dropAgents
  refine Frame.set_fab_hostReads rfl ?_
  exact .refl

theorem State.floretReset_frame {s : State} {f : Nat} :
    Frame [.regs, .latch, .cnt64, .fls, .ums, .fab, .logPtr, .hostReads] s (State.floretReset s f) := by
  unfold State.floretReset
  refine Frame.step State.dropAgents_frame rfl ?_
  refine Frame.step State.pageReset_frame rfl ?_
  refine Frame.step State.modUm_frame rfl ?_
  refine Frame.set_fls rfl ?_
  exact .refl

theorem State.umbelReset_frame {s : State} {u : Nat} :
    Frame [.regs, .latch, .cnt64, .fls, .ums, .fab, .logPtr, .hostReads] s (State.umbelReset s u) := by
  unfold State.umbelReset
  dsimp only
  refine Frame.step State.dropAgents_frame rfl ?_
  refine Frame.step State.pageReset_frame rfl ?_
  refine Frame.step State.setUm_frame rfl ?_
  refine Frame.trans ?_ (Frame.foldl (fun s x => ?_))
  · exact .refl
  · refine Frame.step State.floretReset_frame rfl ?_
    exact .refl

theorem State.gateUmbel_frame {s : State} {u : Nat} :
    Frame [.regs, .latch, .cnt64, .fls, .ums, .fab, .logPtr, .pw, .hostReads] s (State.gateUmbel s u) := by
  unfold State.gateUmbel
  dsimp only
  refine Frame.step State.setPwUmb_frame rfl ?_
  refine Frame.step State.setUm_frame rfl ?_
  refine Frame.step State.umbelReset_frame rfl ?_
  exact .refl

theorem State.startWake_frame {s : State} {u : Nat} :
    Frame [.pw] s (State.startWake s u) := by
  unfold State.startWake
  dsimp only
  refine Frame.ite ?_ ?_
  · refine Frame.step State.setPwUmb_frame rfl ?_
    exact .refl
  · exact .refl

theorem State.setVolt_frame {s : State} {r : Nat} {v : Nat} :
    Frame [.pw] s (State.setVolt s r v) := by
  unfold State.setVolt
  dsimp only
  refine Frame.ite ?_ ?_
  · refine Frame.step State.setRail_frame rfl ?_
    exact .refl
  · refine Frame.ite ?_ ?_
    · exact .refl
    · refine Frame.step State.setRail_frame rfl ?_
      exact .refl

theorem State.retune_frame {s : State} :
    Frame [.pw] s (State.retune s) := by
  unfold State.retune
  refine Frame.ite ?_ ?_
  · exact .refl
  · refine Frame.trans ?_ (Frame.foldl (fun s x => ?_))
    · exact .refl
    · refine Frame.step State.setVolt_frame rfl ?_
      exact .refl

theorem State.idleGate_frame {s : State} {u : Nat} :
    Frame [.regs, .latch, .cnt64, .fls, .ums, .fab, .logPtr, .pw, .hostReads] s (State.idleGate s u) := by
  unfold State.idleGate
  refine Frame.ite ?_ ?_
  · refine Frame.step State.retune_frame rfl ?_
    refine Frame.step State.gateUmbel_frame rfl ?_
    exact .refl
  · exact .refl

theorem State.idleGateAll_frame {s : State} :
    Frame [.regs, .latch, .cnt64, .fls, .ums, .fab, .logPtr, .pw, .hostReads] s (State.idleGateAll s) := by
  unfold State.idleGateAll
  refine Frame.trans ?_ (Frame.foldl (fun s x => ?_))
  · exact .refl
  · refine Frame.step State.idleGate_frame rfl ?_
    exact .refl

end Sys2Proof.Machine
end

