-- ==== Sys2Proof/Laws/Rings.lean ====
section
/-! SUPPORT. What each operation and each meaning of Machine/Rings.lean can change at most: the pieces of the state outside
its list stay as they are. -/

namespace Sys2Proof.Machine

theorem State.setRing_frame {s : State} {r : Nat} {x : Ring} :
    Frame [.fe] s (State.setRing s r x) := by
  unfold State.setRing
  refine Frame.set_fe rfl ?_
  exact .refl

theorem State.modRing_frame {s : State} {r : Nat} {h : Ring → Ring} :
    Frame [.fe] s (State.modRing s r h) := by
  unfold State.modRing
  refine Frame.step State.setRing_frame rfl ?_
  exact .refl

theorem State.ringSync_frame {s : State} {r : Nat} :
    Frame [.regs, .cnt64, .sram, .hostMem, .reports, .hostOut, .hbm, .logPtr, .pw, .hostReads] s (State.ringSync s r) := by
  unfold State.ringSync
  dsimp only
  refine Frame.step State.memPutN_frame rfl ?_
  exact .refl

theorem State.ringStop_frame {s : State} {r : Nat} {code : Nat} {n : Option Nat} :
    Frame [.regs, .cnt64, .sram, .hostMem, .reports, .hostOut, .hbm, .logPtr, .fe, .pw, .hostReads] s (State.ringStop s r code n) := by
  unfold State.ringStop
  refine Frame.ite ?_ ?_
  · exact .refl
  · dsimp only
    refine Frame.step State.event_frame rfl ?_
    refine Frame.step State.ringSync_frame rfl ?_
    refine Frame.step State.modRing_frame rfl ?_
    exact .refl

theorem State.ringIdle_frame {s : State} {r : Nat} :
    Frame [.regs, .cnt64, .sram, .hostMem, .reports, .hostOut, .hbm, .logPtr, .fe, .pw, .hostReads] s (State.ringIdle s r) := by
  unfold State.ringIdle
  dsimp only
  split
  · exact .refl
  · refine Frame.ite ?_ ?_
    · refine Frame.step State.ringSync_frame rfl ?_
      refine Frame.step State.setRing_frame rfl ?_
      exact .refl
    · exact .refl

theorem State.ctlErr_frame {s : State} :
    Frame [.regs] s (State.ctlErr s) := by
  unfold State.ctlErr
  refine Frame.step State.orReg_frame rfl ?_
  exact .refl

theorem State.ringEnableOp_frame {s : State} {r : Nat} :
    Frame [.regs, .cnt64, .sram, .hostMem, .reports, .hostOut, .hbm, .logPtr, .fe, .pw, .hostReads] s (State.ringEnableOp s r) := by
  unfold State.ringEnableOp
  dsimp only
  refine Frame.ite ?_ ?_
  · exact .refl
  · refine Frame.ite ?_ ?_
    · refine Frame.step State.ctlErr_frame rfl ?_
      refine Frame.step State.memTouch_frame rfl ?_
      exact .refl
    · refine Frame.step State.ringSync_frame rfl ?_
      refine Frame.step State.setRing_frame rfl ?_
      refine Frame.step State.memTouch_frame rfl ?_
      exact .refl

theorem State.ringDisableOp_frame {s : State} {r : Nat} :
    Frame [.regs, .cnt64, .sram, .hostMem, .reports, .hostOut, .hbm, .logPtr, .fe, .pw, .hostReads] s (State.ringDisableOp s r) := by
  unfold State.ringDisableOp
  dsimp only
  refine Frame.ite ?_ ?_
  · exact .refl
  · refine Frame.step State.ringIdle_frame rfl ?_
    refine Frame.step State.setRing_frame rfl ?_
    exact .refl

theorem State.ringResumeOp_frame {s : State} {r : Nat} :
    Frame [.regs, .cnt64, .sram, .hostMem, .reports, .hostOut, .hbm, .logPtr, .fe, .pw, .hostReads] s (State.ringResumeOp s r) := by
  unfold State.ringResumeOp
  dsimp only
  refine Frame.ite ?_ ?_
  · refine Frame.step State.ringSync_frame rfl ?_
    refine Frame.step State.setRing_frame rfl ?_
    exact .refl
  · refine Frame.step State.ctlErr_frame rfl ?_
    exact .refl

theorem execRingEnable_frame {r : RingId} {s : State} :
    ∃ out, execRingEnable r s = .next out ∧ Frame [.regs, .cnt64, .sram, .hostMem, .reports, .hostOut, .hbm, .logPtr, .fe, .pw, .hostReads] s out := by
  refine ⟨_, rfl, ?_⟩
  refine Frame.step State.ringEnableOp_frame rfl ?_
  exact .refl

theorem execRingDisable_frame {r : RingId} {s : State} :
    ∃ out, execRingDisable r s = .next out ∧ Frame [.regs, .cnt64, .sram, .hostMem, .reports, .hostOut, .hbm, .logPtr, .fe, .pw, .hostReads] s out := by
  refine ⟨_, rfl, ?_⟩
  refine Frame.step State.ringDisableOp_frame rfl ?_
  exact .refl

theorem execRingResume_frame {r : RingId} {s : State} :
    ∃ out, execRingResume r s = .next out ∧ Frame [.regs, .cnt64, .sram, .hostMem, .reports, .hostOut, .hbm, .logPtr, .fe, .pw, .hostReads] s out := by
  refine ⟨_, rfl, ?_⟩
  refine Frame.step State.ringResumeOp_frame rfl ?_
  exact .refl

theorem State.slotFree'_frame {s : State} {t : Nat} {quarantine : Bool} :
    Frame [.fe] s (State.slotFree' s t quarantine) := by
  unfold State.slotFree'
  dsimp only
  refine Frame.step State.setLsl_frame rfl ?_
  exact .refl

theorem State.afterLaunch_frame {s : State} {t : Nat} :
    Frame [.hbm, .fe] s (State.afterLaunch s t) := by
  unfold State.afterLaunch
  refine Frame.trans ?_ (Frame.foldl (fun s x => ?_))
  · exact .refl
  · dsimp only
    refine Frame.set_fe rfl ?_
    refine Frame.step State.queueBuilds_frame rfl ?_
    exact .refl

theorem State.writeRec_frame {s : State} {r : Nat} {h : HeldRec} :
    Frame [.regs, .cnt64, .sram, .hostMem, .reports, .hostOut, .hbm, .logPtr, .fe, .tr, .pw, .hostReads] s (State.writeRec s r h) := by
  unfold State.writeRec
  dsimp only
  split
  · refine Frame.ite ?_ ?_
    · refine Frame.step State.msix_frame rfl ?_
      refine Frame.step State.trace_frame rfl ?_
      refine Frame.step State.ringSync_frame rfl ?_
      refine Frame.step State.setRing_frame rfl ?_
      refine Frame.step State.memPutN_frame rfl ?_
      exact .refl
    · refine Frame.step State.trace_frame rfl ?_
      refine Frame.step State.ringSync_frame rfl ?_
      refine Frame.step State.setRing_frame rfl ?_
      refine Frame.step State.memPutN_frame rfl ?_
      exact .refl
  · refine Frame.step State.slotFree'_frame rfl ?_
    refine Frame.ite ?_ ?_
    · refine Frame.step State.afterLaunch_frame rfl ?_
      refine Frame.ite ?_ ?_
      · refine Frame.step State.msix_frame rfl ?_
        refine Frame.step State.trace_frame rfl ?_
        refine Frame.step State.ringSync_frame rfl ?_
        refine Frame.step State.setRing_frame rfl ?_
        refine Frame.step State.memPutN_frame rfl ?_
        exact .refl
      · refine Frame.step State.trace_frame rfl ?_
        refine Frame.step State.ringSync_frame rfl ?_
        refine Frame.step State.setRing_frame rfl ?_
        refine Frame.step State.memPutN_frame rfl ?_
        exact .refl
    · refine Frame.ite ?_ ?_
      · refine Frame.step State.msix_frame rfl ?_
        refine Frame.step State.trace_frame rfl ?_
        refine Frame.step State.ringSync_frame rfl ?_
        refine Frame.step State.setRing_frame rfl ?_
        refine Frame.step State.memPutN_frame rfl ?_
        exact .refl
      · refine Frame.step State.trace_frame rfl ?_
        refine Frame.step State.ringSync_frame rfl ?_
        refine Frame.step State.setRing_frame rfl ?_
        refine Frame.step State.memPutN_frame rfl ?_
        exact .refl

theorem State.flushRecs_frame {x1 : Nat} {x2 : State} {x3 : Nat} :
    Frame [.regs, .cnt64, .sram, .hostMem, .reports, .hostOut, .hbm, .logPtr, .fe, .tr, .pw, .hostReads] x2 (State.flushRecs x1 x2 x3) := by
  induction x1 generalizing x2 x3 with
  | zero => exact .refl
  | succ n ih =>
    unfold State.flushRecs
    dsimp only
    split
    · exact .refl
    · refine Frame.ite ?_ ?_
      · refine Frame.trans ?_ ih
        refine Frame.step State.writeRec_frame rfl ?_
        refine Frame.step State.setRing_frame rfl ?_
        exact .refl
      · exact .refl

theorem State.dropRec_frame {s : State} {r : Nat} {h : HeldRec} :
    Frame [.fe] s (State.dropRec s r h) := by
  unfold State.dropRec
  dsimp only
  split
  · refine Frame.step State.modRing_frame rfl ?_
    exact .refl
  · refine Frame.step State.slotFree'_frame rfl ?_
    refine Frame.step State.modRing_frame rfl ?_
    exact .refl

theorem State.postRec_frame {s : State} {r : Nat} {h : HeldRec} :
    Frame [.regs, .cnt64, .sram, .hostMem, .reports, .hostOut, .hbm, .logPtr, .fe, .tr, .pw, .hostReads] s (State.postRec s r h) := by
  unfold State.postRec
  dsimp only
  refine Frame.ite ?_ ?_
  · refine Frame.step State.dropRec_frame rfl ?_
    exact .refl
  · refine Frame.ite ?_ ?_
    · refine Frame.step State.writeRec_frame rfl ?_
      exact State.flushRecs_frame
    · refine Frame.step State.setRing_frame rfl ?_
      exact State.flushRecs_frame

theorem State.sigAct_frame {s : State} {r : RingId} {p : PendSig} :
    Frame [.regs, .cnt64, .fls, .ums, .hostOut, .freeCtr, .fab, .logPtr, .pw] s (State.sigAct s r p).2 := by
  unfold State.sigAct
  dsimp only
  split
  · dsimp only
    refine Frame.step State.tallyAdd_frame rfl ?_
    exact .refl
  · dsimp only
    refine Frame.step State.tallyAdd_frame rfl ?_
    exact .refl
  · split
    · dsimp only
      refine Frame.step State.inject_frame rfl ?_
      refine Frame.step State.tallyAdd_frame rfl ?_
      exact .refl
    · dsimp only
      refine Frame.step State.inject_frame rfl ?_
      refine Frame.step State.tallyAdd_frame rfl ?_
      exact .refl

theorem State.endRec_frame {s : State} {r : Nat} {n : Nat} {w : Nat} {status : Nat} {detail : Nat} {t0 : Nat} {ver : Nat} :
    Frame [.regs, .cnt64, .sram, .hostMem, .reports, .hostOut, .hbm, .logPtr, .fe, .tr, .pw, .hostReads] s (State.endRec s r n w status detail t0 ver) := by
  unfold State.endRec
  dsimp only
  refine Frame.ite ?_ ?_
  · refine Frame.step State.ringStop_frame rfl ?_
    refine Frame.ite ?_ ?_
    · refine Frame.step State.postRec_frame rfl ?_
      exact .refl
    · refine Frame.step State.modRing_frame rfl ?_
      exact .refl
  · refine Frame.ite ?_ ?_
    · refine Frame.step State.postRec_frame rfl ?_
      exact .refl
    · refine Frame.step State.modRing_frame rfl ?_
      exact .refl

theorem State.runSigs_frame {x1 : Nat} {x2 : State} {x3 : RingId} :
    Frame [.regs, .cnt64, .fls, .ums, .sram, .hostMem, .reports, .hostOut, .freeCtr, .hbm, .fab, .logPtr, .fe, .tr, .pw, .hostReads] x2 (State.runSigs x1 x2 x3) := by
  induction x1 generalizing x2 x3 with
  | zero => exact .refl
  | succ n ih =>
    unfold State.runSigs
    dsimp only
    split
    · exact .refl
    · refine Frame.ite ?_ ?_
      · exact .refl
      · split
        · refine Frame.step State.modRing_frame rfl ?_
          refine Frame.step State.sigAct_frame rfl ?_
          exact .refl
        · refine Frame.trans ?_ ih
          refine Frame.step State.endRec_frame rfl ?_
          refine Frame.step State.modRing_frame rfl ?_
          refine Frame.step State.sigAct_frame rfl ?_
          exact .refl

theorem State.ringSettle_frame {s : State} {r : RingId} :
    Frame [.regs, .cnt64, .fls, .ums, .sram, .hostMem, .reports, .hostOut, .freeCtr, .hbm, .fab, .logPtr, .fe, .tr, .pw, .hostReads] s (State.ringSettle s r) := by
  unfold State.ringSettle
  refine Frame.step State.ringIdle_frame rfl ?_
  refine Frame.step State.runSigs_frame rfl ?_
  exact .refl

theorem State.cmdEnd_frame {s : State} {r : RingId} {n : Nat} {w : Nat} {status : Nat} {detail : Nat} {t0 : Nat} {ver : Nat} :
    Frame [.regs, .cnt64, .fls, .ums, .sram, .hostMem, .reports, .hostOut, .freeCtr, .hbm, .fab, .logPtr, .fe, .tr, .pw, .hostReads] s (State.cmdEnd s r n w status detail t0 ver) := by
  unfold State.cmdEnd
  refine Frame.step State.ringSettle_frame rfl ?_
  refine Frame.step State.endRec_frame rfl ?_
  exact .refl

theorem State.take_frame {s : State} {r : Nat} :
    Frame [.regs, .cnt64, .sram, .hostMem, .reports, .hostOut, .hbm, .logPtr, .fe, .pw, .hostReads] s (State.take s r).2 := by
  unfold State.take
  dsimp only
  refine Frame.step State.ringSync_frame rfl ?_
  refine Frame.step State.setRing_frame rfl ?_
  refine Frame.step State.memTouch_frame rfl ?_
  exact .refl

theorem State.headEnd_frame {s : State} {r : RingId} {w : Nat} {status : Nat} {detail : Nat} {ver : Nat} :
    Frame [.regs, .cnt64, .fls, .ums, .sram, .hostMem, .reports, .hostOut, .freeCtr, .hbm, .fab, .logPtr, .fe, .tr, .pw, .hostReads] s (State.headEnd s r w status detail ver) := by
  unfold State.headEnd
  dsimp only
  refine Frame.step State.cmdEnd_frame rfl ?_
  refine Frame.step State.take_frame rfl ?_
  exact .refl

theorem State.onHead_frame {ps : List Piece} {b s : State} {r : RingId} {op : Nat} {k : Nat → State}
    (hw : Piece.within [.regs, .cnt64, .fls, .ums, .sram, .hostMem, .reports, .hostOut, .freeCtr, .hbm, .fab, .logPtr, .fe, .tr, .pw, .hostReads] ps = true) (h : Frame ps b s) (hk : ∀ w, Frame ps b (k w)) : Frame ps b (s.onHead r op k) := by
  unfold State.onHead
  split
  · exact h
  · split
    · exact Frame.step State.headEnd_frame (Piece.within_trans rfl hw) h
    · split
      · exact h
      · split
        · exact Frame.step State.headEnd_frame (Piece.within_trans rfl hw)
            (Frame.step State.fresh_frame (Piece.within_trans rfl hw) h)
        · exact hk _

theorem State.dropBell_frame {s : State} :
    Frame [.regs] s (State.dropBell s) := by
  unfold State.dropBell
  refine Frame.step State.addReg_frame rfl ?_
  exact .refl

theorem State.badTail_frame {s : State} {r : Nat} :
    Frame [.regs, .cnt64, .sram, .hostMem, .reports, .hostOut, .freeCtr, .hbm, .logPtr, .fe, .pw, .hostReads] s (State.badTail s r) := by
  unfold State.badTail
  dsimp only
  refine Frame.step State.ringStop_frame rfl ?_
  refine Frame.step State.fresh_frame rfl ?_
  exact .refl

theorem State.bellTail_frame {s : State} {r : Nat} {v : Nat} :
    Frame [.regs, .cnt64, .sram, .hostMem, .reports, .hostOut, .freeCtr, .hbm, .logPtr, .fe, .pw, .hostReads] s (State.bellTail s r v) := by
  unfold State.bellTail
  dsimp only
  refine Frame.ite ?_ ?_
  · refine Frame.step State.badTail_frame rfl ?_
    exact .refl
  · refine Frame.step State.ringSync_frame rfl ?_
    refine Frame.step State.setRing_frame rfl ?_
    exact .refl

theorem State.bellCpl_frame {s : State} {r : RingId} {v : Nat} :
    Frame [.regs, .cnt64, .fls, .ums, .sram, .hostMem, .reports, .hostOut, .freeCtr, .hbm, .fab, .logPtr, .fe, .tr, .pw, .hostReads] s (State.bellCpl s r v) := by
  unfold State.bellCpl
  dsimp only
  refine Frame.ite ?_ ?_
  · refine Frame.step State.badTail_frame rfl ?_
    exact .refl
  · refine Frame.step State.ringSettle_frame rfl ?_
    refine Frame.step State.flushRecs_frame rfl ?_
    refine Frame.step State.ringSync_frame rfl ?_
    refine Frame.step State.setRing_frame rfl ?_
    exact .refl

theorem execDoorbell_frame {x : HostAt18} {size : Nat} {v : W64} {s : State} :
    ∃ out, execDoorbell x size v s = .next out ∧ Frame [.regs, .cnt64, .fls, .ums, .sram, .hostMem, .reports, .hostOut, .freeCtr, .hbm, .fab, .logPtr, .fe, .tr, .pw, .hostReads] s out := by
  refine ⟨_, rfl, ?_⟩
  dsimp only
  refine Frame.ite ?_ ?_
  · refine Frame.step State.cnt_frame rfl ?_
    exact .refl
  · refine Frame.ite ?_ ?_
    · refine Frame.step State.dropBell_frame rfl ?_
      refine Frame.step State.cnt_frame rfl ?_
      exact .refl
    · refine Frame.ite ?_ ?_
      · refine Frame.step State.bellCpl_frame rfl ?_
        refine Frame.step State.bellTail_frame rfl ?_
        refine Frame.step State.cnt_frame rfl ?_
        exact .refl
      · refine Frame.ite ?_ ?_
        · refine Frame.step State.bellTail_frame rfl ?_
          refine Frame.step State.cnt_frame rfl ?_
          exact .refl
        · refine Frame.step State.bellCpl_frame rfl ?_
          refine Frame.step State.cnt_frame rfl ?_
          exact .refl

theorem execCmdNop_frame {r : RingId} {s : State} :
    ∃ out, execCmdNop r s = .next out ∧ Frame [.regs, .cnt64, .fls, .ums, .sram, .hostMem, .reports, .hostOut, .freeCtr, .hbm, .fab, .logPtr, .fe, .tr, .pw, .hostReads] s out := by
  refine ⟨_, rfl, ?_⟩
  refine State.onHead_frame rfl ?_ (fun _ => ?_)
  · exact .refl
  · refine Frame.step State.headEnd_frame rfl ?_
    exact .refl

theorem execFenceCmd_frame {r : RingId} {s : State} :
    ∃ out, execFenceCmd r s = .next out ∧ Frame [.regs, .cnt64, .fls, .ums, .sram, .hostMem, .reports, .hostOut, .freeCtr, .hbm, .fab, .logPtr, .fe, .tr, .pw, .hostReads] s out := by
  refine ⟨_, rfl, ?_⟩
  refine State.onHead_frame rfl ?_ (fun _ => ?_)
  · exact .refl
  · refine Frame.ite ?_ ?_
    · refine Frame.step State.headEnd_frame rfl ?_
      exact .refl
    · exact .refl

theorem execCmdSignal_frame {r : RingId} {s : State} :
    ∃ out, execCmdSignal r s = .next out ∧ Frame [.regs, .cnt64, .fls, .ums, .sram, .hostMem, .reports, .hostOut, .freeCtr, .hbm, .fab, .logPtr, .fe, .tr, .pw, .hostReads] s out := by
  refine ⟨_, rfl, ?_⟩
  refine State.onHead_frame rfl ?_ (fun _ => ?_)
  · exact .refl
  · dsimp only
    refine Frame.step State.ringSettle_frame rfl ?_
    refine Frame.step State.modRing_frame rfl ?_
    refine Frame.step State.take_frame rfl ?_
    exact .refl

theorem execWaitTally_frame {r : RingId} {s : State} :
    ∃ out, execWaitTally r s = .next out ∧ Frame [.regs, .cnt64, .fls, .ums, .sram, .hostMem, .reports, .hostOut, .freeCtr, .hbm, .fab, .logPtr, .fe, .tr, .pw, .hostReads] s out := by
  refine ⟨_, rfl, ?_⟩
  refine State.onHead_frame rfl ?_ (fun _ => ?_)
  · exact .refl
  · refine Frame.ite ?_ ?_
    · refine Frame.step State.headEnd_frame rfl ?_
      exact .refl
    · split
      · exact .refl
      · refine Frame.step State.modRing_frame rfl ?_
        exact .refl

theorem State.waitEnd_frame {s : State} {r : RingId} {w : Nat} {status : Nat} {t0 : Nat} :
    Frame [.regs, .cnt64, .fls, .ums, .sram, .hostMem, .reports, .hostOut, .freeCtr, .hbm, .fab, .logPtr, .fe, .tr, .pw, .hostReads] s (State.waitEnd s r w status t0) := by
  unfold State.waitEnd
  dsimp only
  refine Frame.step State.cmdEnd_frame rfl ?_
  refine Frame.step State.take_frame rfl ?_
  exact .refl

theorem execWaitTallySatisfied_frame {r : RingId} {s : State} :
    ∃ out, execWaitTallySatisfied r s = .next out ∧ Frame [.regs, .cnt64, .fls, .ums, .sram, .hostMem, .reports, .hostOut, .freeCtr, .hbm, .fab, .logPtr, .fe, .tr, .pw, .hostReads] s out := by
  refine ⟨_, rfl, ?_⟩
  refine State.onHead_frame rfl ?_ (fun _ => ?_)
  · exact .refl
  · split
    · refine Frame.ite ?_ ?_
      · refine Frame.step State.waitEnd_frame rfl ?_
        exact .refl
      · exact .refl
    · exact .refl

theorem execWaitTallyTimeout_frame {r : RingId} {s : State} :
    ∃ out, execWaitTallyTimeout r s = .next out ∧ Frame [.regs, .cnt64, .fls, .ums, .sram, .hostMem, .reports, .hostOut, .freeCtr, .hbm, .fab, .logPtr, .fe, .tr, .pw, .hostReads] s out := by
  refine ⟨_, rfl, ?_⟩
  refine State.onHead_frame rfl ?_ (fun _ => ?_)
  · exact .refl
  · split
    · dsimp only
      refine Frame.ite ?_ ?_
      · refine Frame.step State.waitEnd_frame rfl ?_
        exact .refl
      · exact .refl
    · exact .refl

theorem execCmdMark_frame {r : RingId} {s : State} :
    ∃ out, execCmdMark r s = .next out ∧ Frame [.regs, .cnt64, .fls, .ums, .sram, .hostMem, .reports, .hostOut, .freeCtr, .hbm, .fab, .logPtr, .fe, .tr, .pw, .hostReads] s out := by
  refine ⟨_, rfl, ?_⟩
  refine State.onHead_frame rfl ?_ (fun _ => ?_)
  · exact .refl
  · refine Frame.step State.headEnd_frame rfl ?_
    refine Frame.step State.traceFe_frame rfl ?_
    exact .refl

theorem State.hint_frame {s : State} {phase : Nat} {u : Nat} :
    Frame [.regs, .latch, .cnt64, .fls, .ums, .fab, .logPtr, .pw, .hostReads] s (State.hint s phase u) := by
  unfold State.hint
  split
  · refine Frame.step State.retune_frame rfl ?_
    refine Frame.step State.startWake_frame rfl ?_
    refine Frame.step State.setPwUmb_frame rfl ?_
    exact .refl
  · refine Frame.step State.retune_frame rfl ?_
    refine Frame.step State.startWake_frame rfl ?_
    refine Frame.step State.setPwUmb_frame rfl ?_
    exact .refl
  · refine Frame.step State.idleGate_frame rfl ?_
    refine Frame.step State.setPwUmb_frame rfl ?_
    exact .refl

theorem execPhaseHint_frame {r : RingId} {s : State} :
    ∃ out, execPhaseHint r s = .next out ∧ Frame [.regs, .latch, .cnt64, .fls, .ums, .sram, .hostMem, .reports, .hostOut, .freeCtr, .hbm, .fab, .logPtr, .fe, .tr, .pw, .hostReads] s out := by
  refine ⟨_, rfl, ?_⟩
  refine State.onHead_frame rfl ?_ (fun _ => ?_)
  · exact .refl
  · dsimp only
    refine Frame.step State.headEnd_frame rfl ?_
    refine Frame.step State.traceFe_frame rfl ?_
    refine Frame.trans ?_ (Frame.foldl (fun s x => ?_))
    · exact .refl
    · refine Frame.ite ?_ ?_
      · refine Frame.step State.hint_frame rfl ?_
        exact .refl
      · exact .refl

theorem State.ringSync_keeps {s : State} {r : Nat} : Keeps s (State.ringSync s r) := by
  unfold State.ringSync
  dsimp only
  refine Keeps.trans ?_ State.memPutN_keeps
  exact .refl

theorem State.ringStop_keeps {s : State} {r : Nat} {code : Nat} {n : Option Nat} : Keeps s (State.ringStop s r code n) := by
  unfold State.ringStop
  refine Keeps.ite ?_ ?_
  · exact .refl
  · dsimp only
    refine Keeps.frame State.event_frame rfl ?_
    refine Keeps.trans ?_ State.ringSync_keeps
    refine Keeps.frame State.modRing_frame rfl ?_
    exact .refl

theorem State.ringIdle_keeps {s : State} {r : Nat} : Keeps s (State.ringIdle s r) := by
  unfold State.ringIdle
  dsimp only
  split
  · exact .refl
  · refine Keeps.ite ?_ ?_
    · refine Keeps.trans ?_ State.ringSync_keeps
      refine Keeps.frame State.setRing_frame rfl ?_
      exact .refl
    · exact .refl

theorem State.ringEnableOp_keeps {s : State} {r : Nat} : Keeps s (State.ringEnableOp s r) := by
  unfold State.ringEnableOp
  dsimp only
  refine Keeps.ite ?_ ?_
  · exact .refl
  · refine Keeps.ite ?_ ?_
    · refine Keeps.frame State.ctlErr_frame rfl ?_
      refine Keeps.trans ?_ State.memTouch_keeps
      exact .refl
    · refine Keeps.trans ?_ State.ringSync_keeps
      refine Keeps.frame State.setRing_frame rfl ?_
      refine Keeps.trans ?_ State.memTouch_keeps
      exact .refl

theorem State.ringDisableOp_keeps {s : State} {r : Nat} : Keeps s (State.ringDisableOp s r) := by
  unfold State.ringDisableOp
  dsimp only
  refine Keeps.ite ?_ ?_
  · exact .refl
  · refine Keeps.trans ?_ State.ringIdle_keeps
    refine Keeps.frame State.setRing_frame rfl ?_
    exact .refl

theorem State.ringResumeOp_keeps {s : State} {r : Nat} : Keeps s (State.ringResumeOp s r) := by
  unfold State.ringResumeOp
  dsimp only
  refine Keeps.ite ?_ ?_
  · refine Keeps.trans ?_ State.ringSync_keeps
    refine Keeps.frame State.setRing_frame rfl ?_
    exact .refl
  · refine Keeps.frame State.ctlErr_frame rfl ?_
    exact .refl

theorem execRingEnable_keeps {r : RingId} {s : State} :
    ∃ out, execRingEnable r s = .next out ∧ Keeps s out := by
  refine ⟨_, rfl, ?_⟩
  refine Keeps.trans ?_ State.ringEnableOp_keeps
  exact .refl

theorem execRingDisable_keeps {r : RingId} {s : State} :
    ∃ out, execRingDisable r s = .next out ∧ Keeps s out := by
  refine ⟨_, rfl, ?_⟩
  refine Keeps.trans ?_ State.ringDisableOp_keeps
  exact .refl

theorem execRingResume_keeps {r : RingId} {s : State} :
    ∃ out, execRingResume r s = .next out ∧ Keeps s out := by
  refine ⟨_, rfl, ?_⟩
  refine Keeps.trans ?_ State.ringResumeOp_keeps
  exact .refl

theorem State.afterLaunch_keeps {s : State} {t : Nat} : Keeps s (State.afterLaunch s t) := by
  unfold State.afterLaunch
  refine Keeps.trans ?_ (Keeps.foldl (fun s x => ?_))
  · exact .refl
  · dsimp only
    refine Keeps.set_fe ?_
    refine Keeps.trans ?_ State.queueBuilds_keeps
    exact .refl

theorem State.writeRec_keeps {s : State} {r : Nat} {h : HeldRec} : Keeps s (State.writeRec s r h) := by
  unfold State.writeRec
  dsimp only
  split
  · refine Keeps.ite ?_ ?_
    · refine Keeps.frame State.msix_frame rfl ?_
      refine Keeps.frame State.trace_frame rfl ?_
      refine Keeps.trans ?_ State.ringSync_keeps
      refine Keeps.frame State.setRing_frame rfl ?_
      refine Keeps.trans ?_ State.memPutN_keeps
      exact .refl
    · refine Keeps.frame State.trace_frame rfl ?_
      refine Keeps.trans ?_ State.ringSync_keeps
      refine Keeps.frame State.setRing_frame rfl ?_
      refine Keeps.trans ?_ State.memPutN_keeps
      exact .refl
  · refine Keeps.frame State.slotFree'_frame rfl ?_
    refine Keeps.ite ?_ ?_
    · refine Keeps.trans ?_ State.afterLaunch_keeps
      refine Keeps.ite ?_ ?_
      · refine Keeps.frame State.msix_frame rfl ?_
        refine Keeps.frame State.trace_frame rfl ?_
        refine Keeps.trans ?_ State.ringSync_keeps
        refine Keeps.frame State.setRing_frame rfl ?_
        refine Keeps.trans ?_ State.memPutN_keeps
        exact .refl
      · refine Keeps.frame State.trace_frame rfl ?_
        refine Keeps.trans ?_ State.ringSync_keeps
        refine Keeps.frame State.setRing_frame rfl ?_
        refine Keeps.trans ?_ State.memPutN_keeps
        exact .refl
    · refine Keeps.ite ?_ ?_
      · refine Keeps.frame State.msix_frame rfl ?_
        refine Keeps.frame State.trace_frame rfl ?_
        refine Keeps.trans ?_ State.ringSync_keeps
        refine Keeps.frame State.setRing_frame rfl ?_
        refine Keeps.trans ?_ State.memPutN_keeps
        exact .refl
      · refine Keeps.frame State.trace_frame rfl ?_
        refine Keeps.trans ?_ State.ringSync_keeps
        refine Keeps.frame State.setRing_frame rfl ?_
        refine Keeps.trans ?_ State.memPutN_keeps
        exact .refl

theorem State.flushRecs_keeps {x1 : Nat} {x2 : State} {x3 : Nat} : Keeps x2 (State.flushRecs x1 x2 x3) := by
  induction x1 generalizing x2 x3 with
  | zero => exact .refl
  | succ n ih =>
    unfold State.flushRecs
    dsimp only
    split
    · exact .refl
    · refine Keeps.ite ?_ ?_
      · refine Keeps.trans ?_ ih
        refine Keeps.trans ?_ State.writeRec_keeps
        refine Keeps.frame State.setRing_frame rfl ?_
        exact .refl
      · exact .refl

theorem State.postRec_keeps {s : State} {r : Nat} {h : HeldRec} : Keeps s (State.postRec s r h) := by
  unfold State.postRec
  dsimp only
  refine Keeps.ite ?_ ?_
  · refine Keeps.frame State.dropRec_frame rfl ?_
    exact .refl
  · refine Keeps.ite ?_ ?_
    · refine Keeps.trans ?_ State.writeRec_keeps
      exact State.flushRecs_keeps
    · refine Keeps.frame State.setRing_frame rfl ?_
      exact State.flushRecs_keeps

theorem State.endRec_keeps {s : State} {r : Nat} {n : Nat} {w : Nat} {status : Nat} {detail : Nat} {t0 : Nat} {ver : Nat} : Keeps s (State.endRec s r n w status detail t0 ver) := by
  unfold State.endRec
  dsimp only
  refine Keeps.ite ?_ ?_
  · refine Keeps.trans ?_ State.ringStop_keeps
    refine Keeps.ite ?_ ?_
    · refine Keeps.trans ?_ State.postRec_keeps
      exact .refl
    · refine Keeps.frame State.modRing_frame rfl ?_
      exact .refl
  · refine Keeps.ite ?_ ?_
    · refine Keeps.trans ?_ State.postRec_keeps
      exact .refl
    · refine Keeps.frame State.modRing_frame rfl ?_
      exact .refl

theorem State.runSigs_keeps {x1 : Nat} {x2 : State} {x3 : RingId} : Keeps x2 (State.runSigs x1 x2 x3) := by
  induction x1 generalizing x2 x3 with
  | zero => exact .refl
  | succ n ih =>
    unfold State.runSigs
    dsimp only
    split
    · exact .refl
    · refine Keeps.ite ?_ ?_
      · exact .refl
      · split
        · refine Keeps.frame State.modRing_frame rfl ?_
          refine Keeps.frame State.sigAct_frame rfl ?_
          exact .refl
        · refine Keeps.trans ?_ ih
          refine Keeps.trans ?_ State.endRec_keeps
          refine Keeps.frame State.modRing_frame rfl ?_
          refine Keeps.frame State.sigAct_frame rfl ?_
          exact .refl

theorem State.ringSettle_keeps {s : State} {r : RingId} : Keeps s (State.ringSettle s r) := by
  unfold State.ringSettle
  refine Keeps.trans ?_ State.ringIdle_keeps
  refine Keeps.trans ?_ State.runSigs_keeps
  exact .refl

theorem State.cmdEnd_keeps {s : State} {r : RingId} {n : Nat} {w : Nat} {status : Nat} {detail : Nat} {t0 : Nat} {ver : Nat} : Keeps s (State.cmdEnd s r n w status detail t0 ver) := by
  unfold State.cmdEnd
  refine Keeps.trans ?_ State.ringSettle_keeps
  refine Keeps.trans ?_ State.endRec_keeps
  exact .refl

theorem State.take_keeps {s : State} {r : Nat} : Keeps s (State.take s r).2 := by
  unfold State.take
  dsimp only
  refine Keeps.trans ?_ State.ringSync_keeps
  refine Keeps.frame State.setRing_frame rfl ?_
  refine Keeps.trans ?_ State.memTouch_keeps
  exact .refl

theorem State.headEnd_keeps {s : State} {r : RingId} {w : Nat} {status : Nat} {detail : Nat} {ver : Nat} : Keeps s (State.headEnd s r w status detail ver) := by
  unfold State.headEnd
  dsimp only
  refine Keeps.trans ?_ State.cmdEnd_keeps
  refine Keeps.trans ?_ State.take_keeps
  exact .refl

theorem State.onHead_keeps {b s : State} {r : RingId} {op : Nat} {k : Nat → State} (h : Keeps b s)
    (hk : ∀ w, Keeps b (k w)) : Keeps b (s.onHead r op k) := by
  unfold State.onHead
  split
  · exact h
  · split
    · exact h.trans State.headEnd_keeps
    · split
      · exact h
      · split
        · exact (Keeps.frame State.fresh_frame rfl h).trans State.headEnd_keeps
        · exact hk _

theorem State.badTail_keeps {s : State} {r : Nat} : Keeps s (State.badTail s r) := by
  unfold State.badTail
  dsimp only
  refine Keeps.trans ?_ State.ringStop_keeps
  refine Keeps.frame State.fresh_frame rfl ?_
  exact .refl

theorem State.bellTail_keeps {s : State} {r : Nat} {v : Nat} : Keeps s (State.bellTail s r v) := by
  unfold State.bellTail
  dsimp only
  refine Keeps.ite ?_ ?_
  · refine Keeps.trans ?_ State.badTail_keeps
    exact .refl
  · refine Keeps.trans ?_ State.ringSync_keeps
    refine Keeps.frame State.setRing_frame rfl ?_
    exact .refl

theorem State.bellCpl_keeps {s : State} {r : RingId} {v : Nat} : Keeps s (State.bellCpl s r v) := by
  unfold State.bellCpl
  dsimp only
  refine Keeps.ite ?_ ?_
  · refine Keeps.trans ?_ State.badTail_keeps
    exact .refl
  · refine Keeps.trans ?_ State.ringSettle_keeps
    refine Keeps.trans ?_ State.flushRecs_keeps
    refine Keeps.trans ?_ State.ringSync_keeps
    refine Keeps.frame State.setRing_frame rfl ?_
    exact .refl

theorem execDoorbell_keeps {x : HostAt18} {size : Nat} {v : W64} {s : State} :
    ∃ out, execDoorbell x size v s = .next out ∧ Keeps s out := by
  refine ⟨_, rfl, ?_⟩
  dsimp only
  refine Keeps.ite ?_ ?_
  · refine Keeps.frame State.cnt_frame rfl ?_
    exact .refl
  · refine Keeps.ite ?_ ?_
    · refine Keeps.frame State.dropBell_frame rfl ?_
      refine Keeps.frame State.cnt_frame rfl ?_
      exact .refl
    · refine Keeps.ite ?_ ?_
      · refine Keeps.trans ?_ State.bellCpl_keeps
        refine Keeps.trans ?_ State.bellTail_keeps
        refine Keeps.frame State.cnt_frame rfl ?_
        exact .refl
      · refine Keeps.ite ?_ ?_
        · refine Keeps.trans ?_ State.bellTail_keeps
          refine Keeps.frame State.cnt_frame rfl ?_
          exact .refl
        · refine Keeps.trans ?_ State.bellCpl_keeps
          refine Keeps.frame State.cnt_frame rfl ?_
          exact .refl

theorem execCmdNop_keeps {r : RingId} {s : State} :
    ∃ out, execCmdNop r s = .next out ∧ Keeps s out := by
  refine ⟨_, rfl, ?_⟩
  refine State.onHead_keeps ?_ (fun _ => ?_)
  · exact .refl
  · refine Keeps.trans ?_ State.headEnd_keeps
    exact .refl

theorem execFenceCmd_keeps {r : RingId} {s : State} :
    ∃ out, execFenceCmd r s = .next out ∧ Keeps s out := by
  refine ⟨_, rfl, ?_⟩
  refine State.onHead_keeps ?_ (fun _ => ?_)
  · exact .refl
  · refine Keeps.ite ?_ ?_
    · refine Keeps.trans ?_ State.headEnd_keeps
      exact .refl
    · exact .refl

theorem execCmdSignal_keeps {r : RingId} {s : State} :
    ∃ out, execCmdSignal r s = .next out ∧ Keeps s out := by
  refine ⟨_, rfl, ?_⟩
  refine State.onHead_keeps ?_ (fun _ => ?_)
  · exact .refl
  · dsimp only
    refine Keeps.trans ?_ State.ringSettle_keeps
    refine Keeps.frame State.modRing_frame rfl ?_
    refine Keeps.trans ?_ State.take_keeps
    exact .refl

theorem execWaitTally_keeps {r : RingId} {s : State} :
    ∃ out, execWaitTally r s = .next out ∧ Keeps s out := by
  refine ⟨_, rfl, ?_⟩
  refine State.onHead_keeps ?_ (fun _ => ?_)
  · exact .refl
  · refine Keeps.ite ?_ ?_
    · refine Keeps.trans ?_ State.headEnd_keeps
      exact .refl
    · split
      · exact .refl
      · refine Keeps.frame State.modRing_frame rfl ?_
        exact .refl

theorem State.waitEnd_keeps {s : State} {r : RingId} {w : Nat} {status : Nat} {t0 : Nat} : Keeps s (State.waitEnd s r w status t0) := by
  unfold State.waitEnd
  dsimp only
  refine Keeps.trans ?_ State.cmdEnd_keeps
  refine Keeps.trans ?_ State.take_keeps
  exact .refl

theorem execWaitTallySatisfied_keeps {r : RingId} {s : State} :
    ∃ out, execWaitTallySatisfied r s = .next out ∧ Keeps s out := by
  refine ⟨_, rfl, ?_⟩
  refine State.onHead_keeps ?_ (fun _ => ?_)
  · exact .refl
  · split
    · refine Keeps.ite ?_ ?_
      · refine Keeps.trans ?_ State.waitEnd_keeps
        exact .refl
      · exact .refl
    · exact .refl

theorem execWaitTallyTimeout_keeps {r : RingId} {s : State} :
    ∃ out, execWaitTallyTimeout r s = .next out ∧ Keeps s out := by
  refine ⟨_, rfl, ?_⟩
  refine State.onHead_keeps ?_ (fun _ => ?_)
  · exact .refl
  · split
    · dsimp only
      refine Keeps.ite ?_ ?_
      · refine Keeps.trans ?_ State.waitEnd_keeps
        exact .refl
      · exact .refl
    · exact .refl

theorem execCmdMark_keeps {r : RingId} {s : State} :
    ∃ out, execCmdMark r s = .next out ∧ Keeps s out := by
  refine ⟨_, rfl, ?_⟩
  refine State.onHead_keeps ?_ (fun _ => ?_)
  · exact .refl
  · refine Keeps.trans ?_ State.headEnd_keeps
    refine Keeps.frame State.traceFe_frame rfl ?_
    exact .refl

theorem execPhaseHint_keeps {r : RingId} {s : State} :
    ∃ out, execPhaseHint r s = .next out ∧ Keeps s out := by
  refine ⟨_, rfl, ?_⟩
  refine State.onHead_keeps ?_ (fun _ => ?_)
  · exact .refl
  · dsimp only
    refine Keeps.trans ?_ State.headEnd_keeps
    refine Keeps.frame State.traceFe_frame rfl ?_
    refine Keeps.trans ?_ (Keeps.foldl (fun s x => ?_))
    · exact .refl
    · refine Keeps.ite ?_ ?_
      · refine Keeps.frame State.hint_frame rfl ?_
        exact .refl
      · exact .refl

end Sys2Proof.Machine
end

