-- ==== Sys2Proof/Laws/Launch.lean ====
section
/-! SUPPORT. What each operation and each meaning of Machine/Launch.lean can change at most: the pieces of the state outside
its list stay as they are. -/

namespace Sys2Proof.Machine

theorem State.readImage_frame {s : State} {a : Nat} :
    Frame [.regs, .cnt64, .reports, .hostOut, .hbm, .logPtr, .fe] s (State.readImage s a).2 := by
  unfold State.readImage
  dsimp only
  refine Frame.set_fe rfl ?_
  refine Frame.step State.memTouch_frame rfl ?_
  exact .refl

theorem State.image_frame {s : State} {a : Nat} {reload : Bool} :
    Frame [.regs, .cnt64, .reports, .hostOut, .hbm, .logPtr, .fe] s (State.image s a reload).2.2 := by
  unfold State.image
  dsimp only
  split
  · dsimp only
    refine Frame.set_fe rfl ?_
    exact .refl
  · split
    · dsimp only
      refine Frame.set_fe rfl ?_
      refine Frame.step State.readImage_frame rfl ?_
      exact .refl
    · dsimp only
      refine Frame.set_fe rfl ?_
      refine Frame.step State.readImage_frame rfl ?_
      exact .refl

theorem State.launchCheck_frame {s : State} {w : Nat} :
    Frame [.regs, .cnt64, .reports, .hostOut, .hbm, .logPtr, .fe] s (State.launchCheck s w).2.2.2 := by
  unfold State.launchCheck
  dsimp only
  split
  · dsimp only
    refine Frame.step State.image_frame rfl ?_
    exact .refl
  · split
    · dsimp only
      refine Frame.step State.image_frame rfl ?_
      exact .refl
    · split
      · dsimp only
        refine Frame.step State.image_frame rfl ?_
        exact .refl
      · split
        · dsimp only
          refine Frame.step State.memTouch_frame rfl ?_
          refine Frame.step State.image_frame rfl ?_
          exact .refl
        · split
          · dsimp only
            refine Frame.step State.memTouch_frame rfl ?_
            refine Frame.step State.image_frame rfl ?_
            exact .refl
          · dsimp only
            refine Frame.step State.memTouch_frame rfl ?_
            refine Frame.step State.image_frame rfl ?_
            exact .refl

theorem State.countReject_frame {s : State} :
    Frame [.regs, .hostOut] s (State.countReject s) := by
  unfold State.countReject
  refine Frame.step State.event_frame rfl ?_
  refine Frame.step State.addReg_frame rfl ?_
  exact .refl

theorem State.launchRec_frame {s : State} {r : Nat} {n : Nat} {w : Nat} {lid : Nat} {status : Nat} {detail : Nat} {slot : Option Nat} {t0 : Nat} {ver : Nat} {q : Bool} :
    Frame [.regs, .cnt64, .sram, .hostMem, .reports, .hostOut, .hbm, .logPtr, .fe, .tr, .pw, .hostReads] s (State.launchRec s r n w lid status detail slot t0 ver q) := by
  unfold State.launchRec
  dsimp only
  refine Frame.ite ?_ ?_
  · refine Frame.step State.ringStop_frame rfl ?_
    refine Frame.step State.postRec_frame rfl ?_
    exact .refl
  · refine Frame.step State.postRec_frame rfl ?_
    exact .refl

theorem State.launchReject_frame {s : State} {r : RingId} {w : Nat} {status : Nat} {detail : Nat} {slot : Option Nat} :
    Frame [.regs, .cnt64, .fls, .ums, .sram, .hostMem, .reports, .hostOut, .freeCtr, .hbm, .fab, .logPtr, .fe, .tr, .pw, .hostReads] s (State.launchReject s r w status detail slot) := by
  unfold State.launchReject
  dsimp only
  refine Frame.step State.ringSettle_frame rfl ?_
  refine Frame.step State.launchRec_frame rfl ?_
  refine Frame.step State.take_frame rfl ?_
  refine Frame.step State.countReject_frame rfl ?_
  exact .refl

theorem execLaunch_frame {r : RingId} {s : State} :
    ∃ out, execLaunch r s = .next out ∧ Frame [.regs, .cnt64, .fls, .ums, .sram, .hostMem, .reports, .hostOut, .freeCtr, .hbm, .fab, .logPtr, .fe, .tr, .pw, .hostReads] s out := by
  refine ⟨_, rfl, ?_⟩
  refine State.onHead_frame rfl ?_ (fun _ => ?_)
  · exact .refl
  · split
    · refine Frame.ite ?_ ?_
      · exact .refl
      · dsimp only
        split
        · refine Frame.step State.launchReject_frame rfl ?_
          refine Frame.step State.launchCheck_frame rfl ?_
          exact .refl
        · refine Frame.step State.modRing_frame rfl ?_
          refine Frame.step State.launchCheck_frame rfl ?_
          exact .refl
        · refine Frame.step State.modRing_frame rfl ?_
          refine Frame.step State.launchCheck_frame rfl ?_
          exact .refl
    · split
      · refine Frame.step State.launchReject_frame rfl ?_
        exact .refl
      · exact .refl
      · refine Frame.step State.modRing_frame rfl ?_
        exact .refl
    · exact .refl

theorem execSlotGrant_frame {s : State} :
    ∃ out, execSlotGrant s = .next out ∧ Frame [.fab, .fe] s out := by
  refine ⟨_, rfl, ?_⟩
  split
  · refine Frame.ite ?_ ?_
    · exact .refl
    · split
      · dsimp only
        refine Frame.set_fab_fe rfl ?_
        refine Frame.step State.modRing_frame rfl ?_
        refine Frame.step State.setLsl_frame rfl ?_
        exact .refl
      · exact .refl
  · exact .refl

theorem State.dataFrames_frame {e : SeqEntry} {x2 : Nat} {x3 : Nat} {x4 : State} :
    Frame [.regs, .cnt64, .sram, .hostMem, .reports, .hostOut, .hbm, .logPtr, .fe, .pw, .hostReads] x4 (State.dataFrames e x2 x3 x4).2.1 := by
  induction x2 generalizing e x3 x4 with
  | zero => exact .refl
  | succ n ih =>
    unfold State.dataFrames
    dsimp only
    split
    · refine Frame.trans ?_ ih
      exact .refl
    · split
      · dsimp only
        refine Frame.step State.kvAllocOp_frame rfl ?_
        exact .refl
      · dsimp only
        refine Frame.trans ?_ ih
        refine Frame.step State.memPutN_frame rfl ?_
        refine Frame.step State.kvAllocOp_frame rfl ?_
        exact .refl

theorem State.undoFrames_frame {s : State} {pool : Nat} {sid : Nat} {xs : List (Nat × Nat × Nat)} :
    Frame [.regs, .cnt64, .sram, .hostMem, .reports, .hostOut, .hbm, .logPtr, .fe, .pw, .hostReads] s (State.undoFrames s pool sid xs) := by
  unfold State.undoFrames
  refine Frame.trans ?_ (Frame.foldl (fun s x => ?_))
  · exact .refl
  · refine Frame.step State.memPutN_frame rfl ?_
    refine Frame.step State.kvFreeOp_frame rfl ?_
    exact .refl

theorem State.allocKv_frame {c : Nat} {x2 : Nat} {x3 : Nat} {x4 : List (Nat × Nat × List (Nat × Nat × Nat))} {x5 : State} :
    Frame [.regs, .cnt64, .sram, .hostMem, .reports, .hostOut, .hbm, .logPtr, .fe, .pw, .hostReads] x5 (State.allocKv c x2 x3 x4 x5).2 := by
  induction x2 generalizing c x3 x4 x5 with
  | zero => exact .refl
  | succ n ih =>
    unfold State.allocKv
    dsimp only
    split
    · refine Frame.trans ?_ ih
      exact .refl
    · split
      · dsimp only
        exact .refl
      · split
        · dsimp only
          exact .refl
        · split
          · dsimp only
            exact .refl
          · split
            · split
              · refine Frame.trans ?_ ih
                refine Frame.step State.sumFrames_frame rfl ?_
                refine Frame.step State.dataFrames_frame rfl ?_
                exact .refl
              · dsimp only
                refine Frame.trans ?_ (Frame.foldl (fun s x => ?_))
                · refine Frame.step State.sumFrames_frame rfl ?_
                  refine Frame.step State.dataFrames_frame rfl ?_
                  exact .refl
                · refine Frame.step State.undoFrames_frame rfl ?_
                  exact .refl
            · split
              · refine Frame.trans ?_ ih
                dsimp only
                refine Frame.step State.dataFrames_frame rfl ?_
                exact .refl
              · dsimp only
                refine Frame.trans ?_ (Frame.foldl (fun s x => ?_))
                · refine Frame.step State.dataFrames_frame rfl ?_
                  exact .refl
                · refine Frame.step State.undoFrames_frame rfl ?_
                  exact .refl

theorem State.loadProg_frame {s : State} {m : CImg} {i : Nat} :
    Frame [.fls] s (State.loadProg s m i) := by
  unfold State.loadProg
  dsimp only
  refine Frame.ite ?_ ?_
  · exact .refl
  · refine Frame.step State.setFl_frame rfl ?_
    exact .refl

theorem State.putStatic_frame {s : State} {f : Nat} {l : Nat} {n : Nat} {v : Nat} :
    Frame [.cnt64, .sram, .sramBad, .pw] s (State.putStatic s f l n v) := by
  unfold State.putStatic
  refine Frame.trans ?_ (Frame.foldl (fun s x => ?_))
  · exact .refl
  · dsimp only
    refine Frame.step State.sramPut_frame rfl ?_
    refine Frame.step State.sramBytes_frame rfl ?_
    exact .refl

theorem State.startFloret_frame {s : State} {m : CImg} {t : Nat} {i : Nat} {preset : Nat} {pack : Nat} :
    Frame [.regs, .fls, .hostOut] s (State.startFloret s m t i preset pack) := by
  unfold State.startFloret
  dsimp only
  refine Frame.step State.modFl_frame rfl ?_
  refine Frame.trans ?_ (Frame.foldl (fun s x => ?_))
  · exact .refl
  · refine Frame.step State.modFl_frame rfl ?_
    refine Frame.step State.cfgFeed_frame rfl ?_
    exact .refl

theorem State.release_frame {s : State} {r : RingId} {t : Nat} {m : CImg} :
    Frame [.regs, .cnt64, .fls, .sram, .sramBad, .hostMem, .reports, .hostOut, .hbm, .logPtr, .fe, .tr, .pw, .flt, .hostReads] s (State.release s r t m) := by
  unfold State.release
  dsimp only
  refine Frame.step State.take_frame rfl ?_
  refine Frame.set_fe_flt rfl ?_
  refine Frame.step State.traceFe_frame rfl ?_
  refine Frame.step State.addReg_frame rfl ?_
  refine Frame.step State.setLsl_frame rfl ?_
  refine Frame.trans ?_ (Frame.foldl (fun s x => ?_))
  · refine Frame.trans ?_ (Frame.foldl (fun s x => ?_))
    · refine Frame.step State.memPutN_frame rfl ?_
      refine Frame.trans ?_ (Frame.foldl (fun s x => ?_))
      · exact .refl
      · refine Frame.step State.loadProg_frame rfl ?_
        exact .refl
    · refine Frame.step State.putStatic_frame rfl ?_
      exact .refl
  · refine Frame.step State.startFloret_frame rfl ?_
    exact .refl

theorem State.prepare_frame {s : State} {r : RingId} {t : Nat} :
    Frame [.regs, .cnt64, .fls, .ums, .sram, .hostMem, .reports, .hostOut, .freeCtr, .hbm, .fab, .logPtr, .fe, .tr, .pw, .hostReads] s (State.prepare s r t) := by
  unfold State.prepare
  dsimp only
  split
  · refine Frame.step State.launchReject_frame rfl ?_
    exact .refl
  · split
    · refine Frame.step State.launchReject_frame rfl ?_
      refine Frame.step State.allocKv_frame rfl ?_
      exact .refl
    · refine Frame.trans ?_ (Frame.foldl (fun s x => ?_))
      · refine Frame.step State.setLsl_frame rfl ?_
        refine Frame.step State.allocKv_frame rfl ?_
        exact .refl
      · refine Frame.step State.startWake_frame rfl ?_
        exact .refl

theorem execLaunchRelease_frame {t : SlotId} {s : State} :
    ∃ out, execLaunchRelease t s = .next out ∧ Frame [.regs, .cnt64, .fls, .ums, .sram, .sramBad, .hostMem, .reports, .hostOut, .freeCtr, .hbm, .fab, .logPtr, .fe, .tr, .pw, .flt, .hostReads] s out := by
  refine ⟨_, rfl, ?_⟩
  dsimp only
  refine Frame.ite ?_ ?_
  · exact .refl
  · split
    · refine Frame.step State.launchReject_frame rfl ?_
      exact .refl
    · refine Frame.step State.launchReject_frame rfl ?_
      exact .refl
    · exact .refl
    · refine Frame.ite ?_ ?_
      · exact .refl
      · refine Frame.ite ?_ ?_
        · refine Frame.step State.release_frame rfl ?_
          refine Frame.ite ?_ ?_
          · exact .refl
          · refine Frame.step State.prepare_frame rfl ?_
            exact .refl
        · refine Frame.ite ?_ ?_
          · exact .refl
          · refine Frame.step State.prepare_frame rfl ?_
            exact .refl

theorem execFloretCompletionReport_frame {f : FloretId} {t : SlotId} {gen : W4} {s : State} :
    ∃ out, execFloretCompletionReport f t gen s = .next out ∧ Frame [.regs, .hostOut, .fe] s out := by
  refine ⟨_, rfl, ?_⟩
  dsimp only
  refine Frame.ite ?_ ?_
  · refine Frame.step State.event_frame rfl ?_
    refine Frame.step State.addReg_frame rfl ?_
    exact .refl
  · refine Frame.ite ?_ ?_
    · refine Frame.step State.setLsl_frame rfl ?_
      exact .refl
    · exact .refl

theorem State.leaveFlorets_frame {s : State} {t : Nat} :
    Frame [.pw, .flt] s (State.leaveFlorets s t) := by
  unfold State.leaveFlorets
  dsimp only
  refine Frame.set_flt rfl ?_
  refine Frame.trans ?_ (Frame.foldl (fun s x => ?_))
  · exact .refl
  · refine Frame.step State.setPwUmb_frame rfl ?_
    exact .refl

theorem execLaunchComplete_frame {t : SlotId} {s : State} :
    ∃ out, execLaunchComplete t s = .next out ∧ Frame [.regs, .latch, .cnt64, .fls, .ums, .sram, .hostMem, .reports, .hostOut, .freeCtr, .hbm, .fab, .logPtr, .fe, .tr, .pw, .flt, .hostReads] s out := by
  refine ⟨_, rfl, ?_⟩
  dsimp only
  refine Frame.ite ?_ ?_
  · refine Frame.step State.idleGateAll_frame rfl ?_
    refine Frame.step State.ringSettle_frame rfl ?_
    refine Frame.step State.launchRec_frame rfl ?_
    refine Frame.step State.setLsl_frame rfl ?_
    refine Frame.trans ?_ (Frame.foldl (fun s x => ?_))
    · refine Frame.step State.leaveFlorets_frame rfl ?_
      exact .refl
    · refine Frame.step State.modFl_frame rfl ?_
      exact .refl
  · exact .refl

theorem State.sendFences_frame {s : State} {t : Nat} {gen : Nat} :
    Frame [.regs, .cnt64, .fab] s (State.sendFences s t gen) := by
  unfold State.sendFences
  refine Frame.trans ?_ (Frame.foldl (fun s x => ?_))
  · exact .refl
  · split
    · exact .refl
    · refine Frame.step State.emit_frame rfl ?_
      exact .refl

theorem State.endLaunch_frame {s : State} {t : Nat} {status : Nat} {detail : Nat} :
    Frame [.regs, .latch, .cnt64, .fls, .ums, .sram, .hostMem, .reports, .hostOut, .freeCtr, .hbm, .fab, .logPtr, .fe, .tr, .pw, .flt, .hostReads] s (State.endLaunch s t status detail) := by
  unfold State.endLaunch
  dsimp only
  refine Frame.ite ?_ ?_
  · refine Frame.step State.idleGateAll_frame rfl ?_
    refine Frame.step State.ringSettle_frame rfl ?_
    refine Frame.step State.launchRec_frame rfl ?_
    refine Frame.step State.setLsl_frame rfl ?_
    refine Frame.step State.leaveFlorets_frame rfl ?_
    refine Frame.step State.sendFences_frame rfl ?_
    refine Frame.step State.setFab_frame rfl ?_
    exact .refl
  · exact .refl

theorem execSlotQuarantineEnd_frame {t : SlotId} {s : State} :
    ∃ out, execSlotQuarantineEnd t s = .next out ∧ Frame [.fe] s out := by
  refine ⟨_, rfl, ?_⟩
  dsimp only
  refine Frame.ite ?_ ?_
  · refine Frame.step State.setLsl_frame rfl ?_
    exact .refl
  · exact .refl

theorem State.hangDetail_frame {s : State} {fs : List Nat} :
    Frame [.freeCtr] s (State.hangDetail s fs).2 := by
  unfold State.hangDetail
  dsimp only
  split
  · dsimp only
    refine Frame.step State.fresh_frame rfl ?_
    exact .refl
  · dsimp only
    exact .refl

theorem execWatchdogSample_frame {t : SlotId} {s : State} :
    ∃ out, execWatchdogSample t s = .next out ∧ Frame [.regs, .latch, .cnt64, .fls, .ums, .sram, .hostMem, .reports, .hostOut, .freeCtr, .hbm, .fab, .logPtr, .fe, .tr, .pw, .flt, .hostReads] s out := by
  refine ⟨_, rfl, ?_⟩
  dsimp only
  refine Frame.ite ?_ ?_
  · exact .refl
  · refine Frame.ite ?_ ?_
    · refine Frame.step State.setLsl_frame rfl ?_
      refine Frame.step State.setLsl_frame rfl ?_
      exact .refl
    · refine Frame.ite ?_ ?_
      · refine Frame.set_flt rfl ?_
        refine Frame.step State.endLaunch_frame rfl ?_
        refine Frame.step State.event_frame rfl ?_
        refine Frame.step State.addReg_frame rfl ?_
        refine Frame.step State.hangDetail_frame rfl ?_
        refine Frame.step State.setLsl_frame rfl ?_
        exact .refl
      · refine Frame.step State.setLsl_frame rfl ?_
        exact .refl

theorem State.readImage_keeps {s : State} {a : Nat} : Keeps s (State.readImage s a).2 := by
  unfold State.readImage
  dsimp only
  refine Keeps.set_fe ?_
  refine Keeps.trans ?_ State.memTouch_keeps
  exact .refl

theorem State.image_keeps {s : State} {a : Nat} {reload : Bool} : Keeps s (State.image s a reload).2.2 := by
  unfold State.image
  dsimp only
  split
  · dsimp only
    refine Keeps.set_fe ?_
    exact .refl
  · split
    · dsimp only
      refine Keeps.set_fe ?_
      refine Keeps.trans ?_ State.readImage_keeps
      exact .refl
    · dsimp only
      refine Keeps.set_fe ?_
      refine Keeps.trans ?_ State.readImage_keeps
      exact .refl

theorem State.launchCheck_keeps {s : State} {w : Nat} : Keeps s (State.launchCheck s w).2.2.2 := by
  unfold State.launchCheck
  dsimp only
  split
  · dsimp only
    refine Keeps.trans ?_ State.image_keeps
    exact .refl
  · split
    · dsimp only
      refine Keeps.trans ?_ State.image_keeps
      exact .refl
    · split
      · dsimp only
        refine Keeps.trans ?_ State.image_keeps
        exact .refl
      · split
        · dsimp only
          refine Keeps.trans ?_ State.memTouch_keeps
          refine Keeps.trans ?_ State.image_keeps
          exact .refl
        · split
          · dsimp only
            refine Keeps.trans ?_ State.memTouch_keeps
            refine Keeps.trans ?_ State.image_keeps
            exact .refl
          · dsimp only
            refine Keeps.trans ?_ State.memTouch_keeps
            refine Keeps.trans ?_ State.image_keeps
            exact .refl

theorem State.launchRec_keeps {s : State} {r : Nat} {n : Nat} {w : Nat} {lid : Nat} {status : Nat} {detail : Nat} {slot : Option Nat} {t0 : Nat} {ver : Nat} {q : Bool} : Keeps s (State.launchRec s r n w lid status detail slot t0 ver q) := by
  unfold State.launchRec
  dsimp only
  refine Keeps.ite ?_ ?_
  · refine Keeps.trans ?_ State.ringStop_keeps
    refine Keeps.trans ?_ State.postRec_keeps
    exact .refl
  · refine Keeps.trans ?_ State.postRec_keeps
    exact .refl

theorem State.launchReject_keeps {s : State} {r : RingId} {w : Nat} {status : Nat} {detail : Nat} {slot : Option Nat} : Keeps s (State.launchReject s r w status detail slot) := by
  unfold State.launchReject
  dsimp only
  refine Keeps.trans ?_ State.ringSettle_keeps
  refine Keeps.trans ?_ State.launchRec_keeps
  refine Keeps.trans ?_ State.take_keeps
  refine Keeps.frame State.countReject_frame rfl ?_
  exact .refl

theorem execLaunch_keeps {r : RingId} {s : State} :
    ∃ out, execLaunch r s = .next out ∧ Keeps s out := by
  refine ⟨_, rfl, ?_⟩
  refine State.onHead_keeps ?_ (fun _ => ?_)
  · exact .refl
  · split
    · refine Keeps.ite ?_ ?_
      · exact .refl
      · dsimp only
        split
        · refine Keeps.trans ?_ State.launchReject_keeps
          refine Keeps.trans ?_ State.launchCheck_keeps
          exact .refl
        · refine Keeps.frame State.modRing_frame rfl ?_
          refine Keeps.trans ?_ State.launchCheck_keeps
          exact .refl
        · refine Keeps.frame State.modRing_frame rfl ?_
          refine Keeps.trans ?_ State.launchCheck_keeps
          exact .refl
    · split
      · refine Keeps.trans ?_ State.launchReject_keeps
        exact .refl
      · exact .refl
      · refine Keeps.frame State.modRing_frame rfl ?_
        exact .refl
    · exact .refl

theorem State.dataFrames_keeps {e : SeqEntry} {x2 : Nat} {x3 : Nat} {x4 : State} : Keeps x4 (State.dataFrames e x2 x3 x4).2.1 := by
  induction x2 generalizing e x3 x4 with
  | zero => exact .refl
  | succ n ih =>
    unfold State.dataFrames
    dsimp only
    split
    · refine Keeps.trans ?_ ih
      exact .refl
    · split
      · dsimp only
        refine Keeps.trans ?_ State.kvAllocOp_keeps
        exact .refl
      · dsimp only
        refine Keeps.trans ?_ ih
        refine Keeps.trans ?_ State.memPutN_keeps
        refine Keeps.trans ?_ State.kvAllocOp_keeps
        exact .refl

theorem State.undoFrames_keeps {s : State} {pool : Nat} {sid : Nat} {xs : List (Nat × Nat × Nat)} : Keeps s (State.undoFrames s pool sid xs) := by
  unfold State.undoFrames
  refine Keeps.trans ?_ (Keeps.foldl (fun s x => ?_))
  · exact .refl
  · refine Keeps.trans ?_ State.memPutN_keeps
    refine Keeps.trans ?_ State.kvFreeOp_keeps
    exact .refl

theorem State.allocKv_keeps {c : Nat} {x2 : Nat} {x3 : Nat} {x4 : List (Nat × Nat × List (Nat × Nat × Nat))} {x5 : State} : Keeps x5 (State.allocKv c x2 x3 x4 x5).2 := by
  induction x2 generalizing c x3 x4 x5 with
  | zero => exact .refl
  | succ n ih =>
    unfold State.allocKv
    dsimp only
    split
    · refine Keeps.trans ?_ ih
      exact .refl
    · split
      · dsimp only
        exact .refl
      · split
        · dsimp only
          exact .refl
        · split
          · dsimp only
            exact .refl
          · split
            · split
              · refine Keeps.trans ?_ ih
                refine Keeps.trans ?_ State.sumFrames_keeps
                refine Keeps.trans ?_ State.dataFrames_keeps
                exact .refl
              · dsimp only
                refine Keeps.trans ?_ (Keeps.foldl (fun s x => ?_))
                · refine Keeps.trans ?_ State.sumFrames_keeps
                  refine Keeps.trans ?_ State.dataFrames_keeps
                  exact .refl
                · refine Keeps.trans ?_ State.undoFrames_keeps
                  exact .refl
            · split
              · refine Keeps.trans ?_ ih
                dsimp only
                refine Keeps.trans ?_ State.dataFrames_keeps
                exact .refl
              · dsimp only
                refine Keeps.trans ?_ (Keeps.foldl (fun s x => ?_))
                · refine Keeps.trans ?_ State.dataFrames_keeps
                  exact .refl
                · refine Keeps.trans ?_ State.undoFrames_keeps
                  exact .refl

theorem State.putStatic_keeps {s : State} {f : Nat} {l : Nat} {n : Nat} {v : Nat} : Keeps s (State.putStatic s f l n v) := by
  unfold State.putStatic
  refine Keeps.trans ?_ (Keeps.foldl (fun s x => ?_))
  · exact .refl
  · dsimp only
    refine Keeps.trans ?_ State.sramPut_keeps
    refine Keeps.frame State.sramBytes_frame rfl ?_
    exact .refl

theorem State.release_keeps {s : State} {r : RingId} {t : Nat} {m : CImg} : Keeps s (State.release s r t m) := by
  unfold State.release
  dsimp only
  refine Keeps.trans ?_ State.take_keeps
  refine Keeps.set_fe_flt ?_
  refine Keeps.frame State.traceFe_frame rfl ?_
  refine Keeps.frame State.addReg_frame rfl ?_
  refine Keeps.frame State.setLsl_frame rfl ?_
  refine Keeps.trans ?_ (Keeps.foldl (fun s x => ?_))
  · refine Keeps.trans ?_ (Keeps.foldl (fun s x => ?_))
    · refine Keeps.trans ?_ State.memPutN_keeps
      refine Keeps.trans ?_ (Keeps.foldl (fun s x => ?_))
      · exact .refl
      · refine Keeps.frame State.loadProg_frame rfl ?_
        exact .refl
    · refine Keeps.trans ?_ State.putStatic_keeps
      exact .refl
  · refine Keeps.frame State.startFloret_frame rfl ?_
    exact .refl

theorem State.prepare_keeps {s : State} {r : RingId} {t : Nat} : Keeps s (State.prepare s r t) := by
  unfold State.prepare
  dsimp only
  split
  · refine Keeps.trans ?_ State.launchReject_keeps
    exact .refl
  · split
    · refine Keeps.trans ?_ State.launchReject_keeps
      refine Keeps.trans ?_ State.allocKv_keeps
      exact .refl
    · refine Keeps.trans ?_ (Keeps.foldl (fun s x => ?_))
      · refine Keeps.frame State.setLsl_frame rfl ?_
        refine Keeps.trans ?_ State.allocKv_keeps
        exact .refl
      · refine Keeps.frame State.startWake_frame rfl ?_
        exact .refl

theorem execLaunchRelease_keeps {t : SlotId} {s : State} :
    ∃ out, execLaunchRelease t s = .next out ∧ Keeps s out := by
  refine ⟨_, rfl, ?_⟩
  dsimp only
  refine Keeps.ite ?_ ?_
  · exact .refl
  · split
    · refine Keeps.trans ?_ State.launchReject_keeps
      exact .refl
    · refine Keeps.trans ?_ State.launchReject_keeps
      exact .refl
    · exact .refl
    · refine Keeps.ite ?_ ?_
      · exact .refl
      · refine Keeps.ite ?_ ?_
        · refine Keeps.trans ?_ State.release_keeps
          refine Keeps.ite ?_ ?_
          · exact .refl
          · refine Keeps.trans ?_ State.prepare_keeps
            exact .refl
        · refine Keeps.ite ?_ ?_
          · exact .refl
          · refine Keeps.trans ?_ State.prepare_keeps
            exact .refl

theorem execLaunchComplete_keeps {t : SlotId} {s : State} :
    ∃ out, execLaunchComplete t s = .next out ∧ Keeps s out := by
  refine ⟨_, rfl, ?_⟩
  dsimp only
  refine Keeps.ite ?_ ?_
  · refine Keeps.frame State.idleGateAll_frame rfl ?_
    refine Keeps.trans ?_ State.ringSettle_keeps
    refine Keeps.trans ?_ State.launchRec_keeps
    refine Keeps.frame State.setLsl_frame rfl ?_
    refine Keeps.trans ?_ (Keeps.foldl (fun s x => ?_))
    · refine Keeps.frame State.leaveFlorets_frame rfl ?_
      exact .refl
    · refine Keeps.frame State.modFl_frame rfl ?_
      exact .refl
  · exact .refl

theorem State.endLaunch_keeps {s : State} {t : Nat} {status : Nat} {detail : Nat} : Keeps s (State.endLaunch s t status detail) := by
  unfold State.endLaunch
  dsimp only
  refine Keeps.ite ?_ ?_
  · refine Keeps.frame State.idleGateAll_frame rfl ?_
    refine Keeps.trans ?_ State.ringSettle_keeps
    refine Keeps.trans ?_ State.launchRec_keeps
    refine Keeps.frame State.setLsl_frame rfl ?_
    refine Keeps.frame State.leaveFlorets_frame rfl ?_
    refine Keeps.frame State.sendFences_frame rfl ?_
    refine Keeps.frame State.setFab_frame rfl ?_
    exact .refl
  · exact .refl

theorem execWatchdogSample_keeps {t : SlotId} {s : State} :
    ∃ out, execWatchdogSample t s = .next out ∧ Keeps s out := by
  refine ⟨_, rfl, ?_⟩
  dsimp only
  refine Keeps.ite ?_ ?_
  · exact .refl
  · refine Keeps.ite ?_ ?_
    · refine Keeps.frame State.setLsl_frame rfl ?_
      refine Keeps.frame State.setLsl_frame rfl ?_
      exact .refl
    · refine Keeps.ite ?_ ?_
      · refine Keeps.set_flt ?_
        refine Keeps.trans ?_ State.endLaunch_keeps
        refine Keeps.frame State.event_frame rfl ?_
        refine Keeps.frame State.addReg_frame rfl ?_
        refine Keeps.frame State.hangDetail_frame rfl ?_
        refine Keeps.frame State.setLsl_frame rfl ?_
        exact .refl
      · refine Keeps.frame State.setLsl_frame rfl ?_
        exact .refl

end Sys2Proof.Machine
end

