-- ==== Sys2Proof/Laws/Weights.lean ====
section
/-! SUPPORT. What each operation and each meaning of Machine/Weights.lean can change at most: the pieces of the state outside
its list stay as they are. -/

namespace Sys2Proof.Machine

theorem State.setCopy_frame {s : State} {c : CopyCmd} :
    Frame [.fe] s (State.setCopy s c) := by
  unfold State.setCopy
  refine Frame.set_fe rfl ?_
  exact .refl

theorem State.copyTake_frame {s : State} {r : RingId} {w : Nat} {phase : Nat} {waits : List (Nat × Nat)} :
    Frame [.regs, .cnt64, .sram, .hostMem, .reports, .hostOut, .hbm, .logPtr, .fe, .pw, .hostReads] s (State.copyTake s r w phase waits).2 := by
  unfold State.copyTake
  dsimp only
  refine Frame.set_fe rfl ?_
  refine Frame.step State.take_frame rfl ?_
  exact .refl

theorem State.copyMove_frame {s : State} {c : CopyCmd} {src : Nat} {dst : Nat} :
    Frame [.fe] s (State.copyMove s c src dst) := by
  unfold State.copyMove
  dsimp only
  refine Frame.step State.setCopy_frame rfl ?_
  refine Frame.set_fe rfl ?_
  exact .refl

theorem State.copyPeer_frame {s : State} {c : CopyCmd} :
    Frame [.fe] s (State.copyPeer s c) := by
  unfold State.copyPeer
  refine Frame.step State.setCopy_frame rfl ?_
  exact .refl

theorem State.copyEnd_frame {s : State} {c : CopyCmd} {status : Nat} {detail : Nat} {ver : Nat} :
    Frame [.regs, .cnt64, .fls, .ums, .sram, .hostMem, .reports, .hostOut, .freeCtr, .hbm, .fab, .logPtr, .fe, .tr, .pw, .hostReads] s (State.copyEnd s c status detail ver) := by
  unfold State.copyEnd
  dsimp only
  refine Frame.step State.cmdEnd_frame rfl ?_
  refine Frame.step State.setFab_frame rfl ?_
  refine Frame.set_fe rfl ?_
  exact .refl

theorem execCopyCmd_frame {r : RingId} {s : State} :
    ∃ out, execCopyCmd r s = .next out ∧ Frame [.regs, .cnt64, .fls, .ums, .sram, .hostMem, .reports, .hostOut, .freeCtr, .hbm, .fab, .logPtr, .fe, .tr, .pw, .hostReads] s out := by
  refine ⟨_, rfl, ?_⟩
  refine State.onHead_frame rfl ?_ (fun _ => ?_)
  · exact .refl
  · refine Frame.ite ?_ ?_
    · dsimp only
      refine Frame.step State.copyMove_frame rfl ?_
      refine Frame.step State.copyTake_frame rfl ?_
      exact .refl
    · exact .refl

theorem State.ckRefuse_frame {s : State} {r : RingId} {w : Nat} {ver : Nat} :
    Frame [.regs, .cnt64, .fls, .ums, .sram, .hostMem, .reports, .hostOut, .freeCtr, .hbm, .fab, .logPtr, .fe, .tr, .pw, .hostReads] s (State.ckRefuse s r w ver) := by
  unfold State.ckRefuse
  dsimp only
  refine Frame.step State.headEnd_frame rfl ?_
  refine Frame.step State.fresh_frame rfl ?_
  exact .refl

theorem execLoadWeightsBase_frame {r : RingId} {s : State} :
    ∃ out, execLoadWeightsBase r s = .next out ∧ Frame [.regs, .cnt64, .fls, .ums, .sram, .hostMem, .reports, .hostOut, .freeCtr, .hbm, .fab, .logPtr, .fe, .tr, .pw, .hostReads] s out := by
  refine ⟨_, rfl, ?_⟩
  refine State.onHead_frame rfl ?_ (fun _ => ?_)
  · exact .refl
  · refine Frame.ite ?_ ?_
    · exact .refl
    · refine Frame.ite ?_ ?_
      · refine Frame.step State.ckRefuse_frame rfl ?_
        exact .refl
      · dsimp only
        refine Frame.step State.setWset_frame rfl ?_
        refine Frame.step State.copyTake_frame rfl ?_
        exact .refl

theorem execLoadWeightsPack_frame {r : RingId} {s : State} :
    ∃ out, execLoadWeightsPack r s = .next out ∧ Frame [.regs, .cnt64, .fls, .ums, .sram, .hostMem, .reports, .hostOut, .freeCtr, .hbm, .fab, .logPtr, .fe, .tr, .pw, .hostReads] s out := by
  refine ⟨_, rfl, ?_⟩
  refine State.onHead_frame rfl ?_ (fun _ => ?_)
  · exact .refl
  · refine Frame.ite ?_ ?_
    · exact .refl
    · dsimp only
      refine Frame.ite ?_ ?_
      · refine Frame.step State.headEnd_frame rfl ?_
        exact .refl
      · split
        · refine Frame.step State.copyTake_frame rfl ?_
          exact .refl
        · refine Frame.step State.setWset_frame rfl ?_
          refine Frame.step State.copyTake_frame rfl ?_
          exact .refl

theorem execRetiringWaitEnd_frame {d : Nat} {s : State} :
    ∃ out, execRetiringWaitEnd d s = .next out ∧ Frame [.fe] s out := by
  refine ⟨_, rfl, ?_⟩
  split
  · exact .refl
  · refine Frame.ite ?_ ?_
    · exact .refl
    · dsimp only
      refine Frame.ite ?_ ?_
      · refine Frame.step State.copyPeer_frame rfl ?_
        refine Frame.ite ?_ ?_
        · exact .refl
        · refine Frame.step State.setWset_frame rfl ?_
          exact .refl
      · refine Frame.step State.copyMove_frame rfl ?_
        refine Frame.ite ?_ ?_
        · exact .refl
        · refine Frame.step State.setWset_frame rfl ?_
          exact .refl

theorem State.digestErr_frame {s : State} :
    Frame [.regs, .hostOut] s (State.digestErr s) := by
  unfold State.digestErr
  refine Frame.step State.sticky_frame rfl ?_
  exact .refl

theorem State.gateStep_frame {s : State} {k : Nat} {w : Nat} :
    Frame [.ums, .fe] s (State.gateStep s k w) := by
  unfold State.gateStep
  dsimp only
  refine Frame.ite ?_ ?_
  · refine Frame.set_fe rfl ?_
    refine Frame.step State.setWset_frame rfl ?_
    refine Frame.trans ?_ (Frame.foldl (fun s x => ?_))
    · exact .refl
    · refine Frame.ite ?_ ?_
      · exact .refl
      · refine Frame.step State.modUm_frame rfl ?_
        exact .refl
  · refine Frame.step State.setWset_frame rfl ?_
    refine Frame.trans ?_ (Frame.foldl (fun s x => ?_))
    · exact .refl
    · refine Frame.ite ?_ ?_
      · exact .refl
      · refine Frame.step State.modUm_frame rfl ?_
        exact .refl

theorem State.gateWake_frame {s : State} {u : Nat} :
    Frame [.ums] s (State.gateWake s u) := by
  unfold State.gateWake
  refine Frame.trans ?_ (Frame.foldl (fun s x => ?_))
  · exact .refl
  · dsimp only
    refine Frame.ite ?_ ?_
    · refine Frame.step State.modUm_frame rfl ?_
      exact .refl
    · exact .refl

theorem State.swapMove_frame {s : State} {c : CopyCmd} :
    Frame [.fe] s (State.swapMove s c) := by
  unfold State.swapMove
  dsimp only
  refine Frame.ite ?_ ?_
  · refine Frame.step State.copyPeer_frame rfl ?_
    exact .refl
  · refine Frame.step State.copyMove_frame rfl ?_
    exact .refl

theorem execSwapLayer_frame {r : RingId} {s : State} :
    ∃ out, execSwapLayer r s = .next out ∧ Frame [.regs, .cnt64, .fls, .ums, .sram, .hostMem, .reports, .hostOut, .freeCtr, .hbm, .fab, .logPtr, .fe, .tr, .pw, .hostReads] s out := by
  refine ⟨_, rfl, ?_⟩
  refine State.onHead_frame rfl ?_ (fun _ => ?_)
  · exact .refl
  · dsimp only
    refine Frame.ite ?_ ?_
    · exact .refl
    · split
      · refine Frame.step State.headEnd_frame rfl ?_
        exact .refl
      · refine Frame.ite ?_ ?_
        · refine Frame.step State.ckRefuse_frame rfl ?_
          exact .refl
        · refine Frame.ite ?_ ?_
          · refine Frame.step State.setWset_frame rfl ?_
            refine Frame.step State.copyTake_frame rfl ?_
            exact .refl
          · refine Frame.step State.swapMove_frame rfl ?_
            refine Frame.step State.copyTake_frame rfl ?_
            exact .refl

theorem execSwapBeginWaitEnd_frame {d : Nat} {s : State} :
    ∃ out, execSwapBeginWaitEnd d s = .next out ∧ Frame [.fe] s out := by
  refine ⟨_, rfl, ?_⟩
  split
  · exact .refl
  · refine Frame.ite ?_ ?_
    · exact .refl
    · dsimp only
      refine Frame.step State.swapMove_frame rfl ?_
      refine Frame.step State.setWset_frame rfl ?_
      exact .refl

theorem State.relocEnd_frame {s : State} {c : CopyCmd} :
    Frame [.regs, .cnt64, .fls, .ums, .sram, .hostMem, .reports, .hostOut, .freeCtr, .hbm, .fab, .logPtr, .fe, .tr, .pw, .hostReads] s (State.relocEnd s c) := by
  unfold State.relocEnd
  dsimp only
  refine Frame.step State.copyEnd_frame rfl ?_
  refine Frame.step State.setWset_frame rfl ?_
  exact .refl

theorem execSwapRelocate_frame {r : RingId} {s : State} :
    ∃ out, execSwapRelocate r s = .next out ∧ Frame [.regs, .cnt64, .fls, .ums, .sram, .hostMem, .reports, .hostOut, .freeCtr, .hbm, .fab, .logPtr, .fe, .tr, .pw, .hostReads] s out := by
  refine ⟨_, rfl, ?_⟩
  split
  · refine Frame.step State.relocEnd_frame rfl ?_
    exact .refl
  · refine State.onHead_frame rfl ?_ (fun _ => ?_)
    · exact .refl
    · dsimp only
      refine Frame.ite ?_ ?_
      · exact .refl
      · split
        · refine Frame.step State.headEnd_frame rfl ?_
          exact .refl
        · refine Frame.ite ?_ ?_
          · refine Frame.step State.relocEnd_frame rfl ?_
            refine Frame.step State.setWset_frame rfl ?_
            refine Frame.step State.copyTake_frame rfl ?_
            exact .refl
          · refine Frame.step State.setWset_frame rfl ?_
            refine Frame.step State.copyTake_frame rfl ?_
            exact .refl

theorem State.copyUndo_frame {s : State} {c : CopyCmd} :
    Frame [.fe] s (State.copyUndo s c) := by
  unfold State.copyUndo
  dsimp only
  refine Frame.ite ?_ ?_
  · exact .refl
  · refine Frame.ite ?_ ?_
    · refine Frame.step State.setWset_frame rfl ?_
      exact .refl
    · refine Frame.step State.setWset_frame rfl ?_
      exact .refl

theorem State.copyFail_frame {s : State} {c : CopyCmd} {status : Nat} {detail : Nat} :
    Frame [.regs, .cnt64, .fls, .ums, .sram, .hostMem, .reports, .hostOut, .freeCtr, .hbm, .fab, .logPtr, .fe, .tr, .pw, .hostReads] s (State.copyFail s c status detail) := by
  unfold State.copyFail
  refine Frame.step State.copyEnd_frame rfl ?_
  refine Frame.step State.copyUndo_frame rfl ?_
  exact .refl

theorem State.copyFinish_frame {s : State} {c : CopyCmd} :
    Frame [.regs, .cnt64, .fls, .ums, .sram, .hostMem, .reports, .hostOut, .freeCtr, .hbm, .fab, .logPtr, .fe, .tr, .pw, .hostReads] s (State.copyFinish s c) := by
  unfold State.copyFinish
  dsimp only
  split
  · refine Frame.step State.copyEnd_frame rfl ?_
    exact .refl
  · refine Frame.ite ?_ ?_
    · split
      · refine Frame.step State.copyFail_frame rfl ?_
        exact .refl
      · refine Frame.step State.copyEnd_frame rfl ?_
        refine Frame.step State.setWset_frame rfl ?_
        exact .refl
    · split
      · refine Frame.step State.copyFail_frame rfl ?_
        exact .refl
      · split
        · refine Frame.step State.copyFail_frame rfl ?_
          refine Frame.step State.digestErr_frame rfl ?_
          exact .refl
        · refine Frame.step State.copyEnd_frame rfl ?_
          refine Frame.step State.setWset_frame rfl ?_
          exact .refl
  · split
    · refine Frame.step State.copyFail_frame rfl ?_
      refine Frame.step State.digestErr_frame rfl ?_
      exact .refl
    · refine Frame.step State.copyEnd_frame rfl ?_
      refine Frame.step State.gateStep_frame rfl ?_
      exact .refl

theorem execCopyEngineComplete_frame {d : Nat} {s : State} :
    ∃ out, execCopyEngineComplete d s = .next out ∧ Frame [.regs, .cnt64, .fls, .ums, .sram, .hostMem, .reports, .hostOut, .freeCtr, .hbm, .fab, .logPtr, .fe, .tr, .pw, .hostReads] s out := by
  refine ⟨_, rfl, ?_⟩
  split
  · refine Frame.ite ?_ ?_
    · exact .refl
    · refine Frame.ite ?_ ?_
      · refine Frame.step State.copyFail_frame rfl ?_
        exact .refl
      · refine Frame.ite ?_ ?_
        · refine Frame.step State.copyFinish_frame rfl ?_
          exact .refl
        · exact .refl
  · exact .refl

theorem execPeerTallyReached_frame {d : Nat} {s : State} :
    ∃ out, execPeerTallyReached d s = .next out ∧ Frame [.regs, .cnt64, .fls, .ums, .sram, .hostMem, .reports, .hostOut, .freeCtr, .hbm, .fab, .logPtr, .fe, .tr, .pw, .hostReads] s out := by
  refine ⟨_, rfl, ?_⟩
  split
  · exact .refl
  · refine Frame.ite ?_ ?_
    · refine Frame.step State.copyFinish_frame rfl ?_
      exact .refl
    · exact .refl

theorem execPeerTimeout_frame {d : Nat} {s : State} :
    ∃ out, execPeerTimeout d s = .next out ∧ Frame [.regs, .cnt64, .fls, .ums, .sram, .hostMem, .reports, .hostOut, .freeCtr, .hbm, .fab, .logPtr, .fe, .tr, .pw, .hostReads] s out := by
  refine ⟨_, rfl, ?_⟩
  split
  · exact .refl
  · dsimp only
    refine Frame.ite ?_ ?_
    · exact .refl
    · refine Frame.ite ?_ ?_
      · refine Frame.step State.setCopy_frame rfl ?_
        exact .refl
      · refine Frame.ite ?_ ?_
        · refine Frame.step State.copyFail_frame rfl ?_
          exact .refl
        · exact .refl

theorem State.copyTake_keeps {s : State} {r : RingId} {w : Nat} {phase : Nat} {waits : List (Nat × Nat)} : Keeps s (State.copyTake s r w phase waits).2 := by
  unfold State.copyTake
  dsimp only
  refine Keeps.set_fe ?_
  refine Keeps.trans ?_ State.take_keeps
  exact .refl

theorem State.copyEnd_keeps {s : State} {c : CopyCmd} {status : Nat} {detail : Nat} {ver : Nat} : Keeps s (State.copyEnd s c status detail ver) := by
  unfold State.copyEnd
  dsimp only
  refine Keeps.trans ?_ State.cmdEnd_keeps
  refine Keeps.frame State.setFab_frame rfl ?_
  refine Keeps.set_fe ?_
  exact .refl

theorem execCopyCmd_keeps {r : RingId} {s : State} :
    ∃ out, execCopyCmd r s = .next out ∧ Keeps s out := by
  refine ⟨_, rfl, ?_⟩
  refine State.onHead_keeps ?_ (fun _ => ?_)
  · exact .refl
  · refine Keeps.ite ?_ ?_
    · dsimp only
      refine Keeps.frame State.copyMove_frame rfl ?_
      refine Keeps.trans ?_ State.copyTake_keeps
      exact .refl
    · exact .refl

theorem State.ckRefuse_keeps {s : State} {r : RingId} {w : Nat} {ver : Nat} : Keeps s (State.ckRefuse s r w ver) := by
  unfold State.ckRefuse
  dsimp only
  refine Keeps.trans ?_ State.headEnd_keeps
  refine Keeps.frame State.fresh_frame rfl ?_
  exact .refl

theorem execLoadWeightsBase_keeps {r : RingId} {s : State} :
    ∃ out, execLoadWeightsBase r s = .next out ∧ Keeps s out := by
  refine ⟨_, rfl, ?_⟩
  refine State.onHead_keeps ?_ (fun _ => ?_)
  · exact .refl
  · refine Keeps.ite ?_ ?_
    · exact .refl
    · refine Keeps.ite ?_ ?_
      · refine Keeps.trans ?_ State.ckRefuse_keeps
        exact .refl
      · dsimp only
        refine Keeps.frame State.setWset_frame rfl ?_
        refine Keeps.trans ?_ State.copyTake_keeps
        exact .refl

theorem execLoadWeightsPack_keeps {r : RingId} {s : State} :
    ∃ out, execLoadWeightsPack r s = .next out ∧ Keeps s out := by
  refine ⟨_, rfl, ?_⟩
  refine State.onHead_keeps ?_ (fun _ => ?_)
  · exact .refl
  · refine Keeps.ite ?_ ?_
    · exact .refl
    · dsimp only
      refine Keeps.ite ?_ ?_
      · refine Keeps.trans ?_ State.headEnd_keeps
        exact .refl
      · split
        · refine Keeps.trans ?_ State.copyTake_keeps
          exact .refl
        · refine Keeps.frame State.setWset_frame rfl ?_
          refine Keeps.trans ?_ State.copyTake_keeps
          exact .refl

theorem execSwapLayer_keeps {r : RingId} {s : State} :
    ∃ out, execSwapLayer r s = .next out ∧ Keeps s out := by
  refine ⟨_, rfl, ?_⟩
  refine State.onHead_keeps ?_ (fun _ => ?_)
  · exact .refl
  · dsimp only
    refine Keeps.ite ?_ ?_
    · exact .refl
    · split
      · refine Keeps.trans ?_ State.headEnd_keeps
        exact .refl
      · refine Keeps.ite ?_ ?_
        · refine Keeps.trans ?_ State.ckRefuse_keeps
          exact .refl
        · refine Keeps.ite ?_ ?_
          · refine Keeps.frame State.setWset_frame rfl ?_
            refine Keeps.trans ?_ State.copyTake_keeps
            exact .refl
          · refine Keeps.frame State.swapMove_frame rfl ?_
            refine Keeps.trans ?_ State.copyTake_keeps
            exact .refl

theorem State.relocEnd_keeps {s : State} {c : CopyCmd} : Keeps s (State.relocEnd s c) := by
  unfold State.relocEnd
  dsimp only
  refine Keeps.trans ?_ State.copyEnd_keeps
  refine Keeps.frame State.setWset_frame rfl ?_
  exact .refl

theorem execSwapRelocate_keeps {r : RingId} {s : State} :
    ∃ out, execSwapRelocate r s = .next out ∧ Keeps s out := by
  refine ⟨_, rfl, ?_⟩
  split
  · refine Keeps.trans ?_ State.relocEnd_keeps
    exact .refl
  · refine State.onHead_keeps ?_ (fun _ => ?_)
    · exact .refl
    · dsimp only
      refine Keeps.ite ?_ ?_
      · exact .refl
      · split
        · refine Keeps.trans ?_ State.headEnd_keeps
          exact .refl
        · refine Keeps.ite ?_ ?_
          · refine Keeps.trans ?_ State.relocEnd_keeps
            refine Keeps.frame State.setWset_frame rfl ?_
            refine Keeps.trans ?_ State.copyTake_keeps
            exact .refl
          · refine Keeps.frame State.setWset_frame rfl ?_
            refine Keeps.trans ?_ State.copyTake_keeps
            exact .refl

theorem State.copyFail_keeps {s : State} {c : CopyCmd} {status : Nat} {detail : Nat} : Keeps s (State.copyFail s c status detail) := by
  unfold State.copyFail
  refine Keeps.trans ?_ State.copyEnd_keeps
  refine Keeps.frame State.copyUndo_frame rfl ?_
  exact .refl

theorem State.copyFinish_keeps {s : State} {c : CopyCmd} : Keeps s (State.copyFinish s c) := by
  unfold State.copyFinish
  dsimp only
  split
  · refine Keeps.trans ?_ State.copyEnd_keeps
    exact .refl
  · refine Keeps.ite ?_ ?_
    · split
      · refine Keeps.trans ?_ State.copyFail_keeps
        exact .refl
      · refine Keeps.trans ?_ State.copyEnd_keeps
        refine Keeps.frame State.setWset_frame rfl ?_
        exact .refl
    · split
      · refine Keeps.trans ?_ State.copyFail_keeps
        exact .refl
      · split
        · refine Keeps.trans ?_ State.copyFail_keeps
          refine Keeps.frame State.digestErr_frame rfl ?_
          exact .refl
        · refine Keeps.trans ?_ State.copyEnd_keeps
          refine Keeps.frame State.setWset_frame rfl ?_
          exact .refl
  · split
    · refine Keeps.trans ?_ State.copyFail_keeps
      refine Keeps.frame State.digestErr_frame rfl ?_
      exact .refl
    · refine Keeps.trans ?_ State.copyEnd_keeps
      refine Keeps.frame State.gateStep_frame rfl ?_
      exact .refl

theorem execCopyEngineComplete_keeps {d : Nat} {s : State} :
    ∃ out, execCopyEngineComplete d s = .next out ∧ Keeps s out := by
  refine ⟨_, rfl, ?_⟩
  split
  · refine Keeps.ite ?_ ?_
    · exact .refl
    · refine Keeps.ite ?_ ?_
      · refine Keeps.trans ?_ State.copyFail_keeps
        exact .refl
      · refine Keeps.ite ?_ ?_
        · refine Keeps.trans ?_ State.copyFinish_keeps
          exact .refl
        · exact .refl
  · exact .refl

theorem execPeerTallyReached_keeps {d : Nat} {s : State} :
    ∃ out, execPeerTallyReached d s = .next out ∧ Keeps s out := by
  refine ⟨_, rfl, ?_⟩
  split
  · exact .refl
  · refine Keeps.ite ?_ ?_
    · refine Keeps.trans ?_ State.copyFinish_keeps
      exact .refl
    · exact .refl

theorem execPeerTimeout_keeps {d : Nat} {s : State} :
    ∃ out, execPeerTimeout d s = .next out ∧ Keeps s out := by
  refine ⟨_, rfl, ?_⟩
  split
  · exact .refl
  · dsimp only
    refine Keeps.ite ?_ ?_
    · exact .refl
    · refine Keeps.ite ?_ ?_
      · refine Keeps.frame State.setCopy_frame rfl ?_
        exact .refl
      · refine Keeps.ite ?_ ?_
        · refine Keeps.trans ?_ State.copyFail_keeps
          exact .refl
        · exact .refl

end Sys2Proof.Machine
end

