-- ==== Sys2Proof/Laws/Fabric.lean ====
section
/-! SUPPORT. What each operation and each meaning of Machine/Fabric.lean can change at most: the pieces of the state outside
its list stay as they are. -/

namespace Sys2Proof.Machine

theorem State.rx_frame {s : State} {l : Nat} {k : Nat} :
    Frame [.cnt64, .fab] s (State.rx s l k) := by
  unfold State.rx
  refine Frame.ite ?_ ?_
  · refine Frame.step State.cnt_frame rfl ?_
    refine Frame.step State.setLink_frame rfl ?_
    exact .refl
  · exact .refl

theorem State.plCount_frame {s : State} {l : Nat} {off : Nat} {ev : Nat} :
    Frame [.regs, .hostOut] s (State.plCount s l off ev) := by
  unfold State.plCount
  refine Frame.step State.event_frame rfl ?_
  refine Frame.step State.addReg_frame rfl ?_
  exact .refl

theorem State.isoDrop_frame {s : State} {l : Nat} :
    Frame [.regs] s (State.isoDrop s l) := by
  unfold State.isoDrop
  refine Frame.step State.addReg_frame rfl ?_
  exact .refl

theorem State.answerTo_frame {s : State} {h : PktHdr} {tok : Nat} {b : Body} :
    Frame [.regs, .cnt64, .hostOut, .fab] s (State.answerTo s h tok b) := by
  unfold State.answerTo
  refine Frame.step State.answer_frame rfl ?_
  exact .refl

theorem State.lossTo_frame {s : State} {h : PktHdr} {why : LossWhy} :
    Frame [.regs, .cnt64, .hostOut, .fab] s (State.lossTo s h why) := by
  unfold State.lossTo
  refine Frame.step State.answerTo_frame rfl ?_
  exact .refl

theorem State.ageDrop_frame {s : State} {l : Nat} {h : PktHdr} :
    Frame [.regs, .cnt64, .hostOut, .fab, .logPtr] s (State.ageDrop s l h) := by
  unfold State.ageDrop
  refine Frame.step State.lossTo_frame rfl ?_
  refine Frame.step State.logErr_frame rfl ?_
  refine Frame.step State.plCount_frame rfl ?_
  exact .refl

theorem State.forward_frame {s : State} {l : Nat} {h : PktHdr} {dst : Nat} {a : Nat} {b : Body} :
    Frame [.regs, .cnt64, .hostOut, .fab] s (State.forward s l h dst a b) := by
  unfold State.forward
  split
  · refine Frame.step State.lossTo_frame rfl ?_
    refine Frame.step State.plCount_frame rfl ?_
    exact .refl
  · refine Frame.step State.emit_frame rfl ?_
    exact .refl

theorem State.request_frame {ps : List Piece} {b s : State} {l : Nat} {h : PktHdr} {dst a : Nat} {bd : Body}
    {here : State → State} (hw : Piece.within [.regs, .cnt64, .hostOut, .fab, .logPtr] ps = true) (h0 : Frame ps b s)
    (hk : ∀ t, Frame ps b t → Frame ps b (here t)) : Frame ps b (s.request l h dst a bd here) := by
  unfold State.request
  dsimp only
  have hr : Frame ps b (s.rx l bd.kind) := Frame.step State.rx_frame (Piece.within_trans rfl hw) h0
  refine Frame.ite hr (Frame.ite ?_ (Frame.ite ?_ (Frame.ite ?_ (Frame.ite ?_ (hk _ hr)))))
  · exact Frame.step State.isoDrop_frame (Piece.within_trans rfl hw) hr
  · exact Frame.step State.plCount_frame (Piece.within_trans rfl hw) hr
  · exact Frame.step State.ageDrop_frame (Piece.within_trans rfl hw) hr
  · exact Frame.step State.forward_frame (Piece.within_trans rfl hw) hr

theorem State.ackTo_frame {s : State} {h : PktHdr} {discarded : Bool} :
    Frame [.regs, .cnt64, .hostOut, .fab] s (State.ackTo s h discarded) := by
  unfold State.ackTo
  refine Frame.step State.answerTo_frame rfl ?_
  exact .refl

theorem State.pktWrite_frame {ps : List Piece} {io : RegIO} {s0 : State} {l : Nat} {h : PktHdr} {a : Nat} {mask : Nat} {data : Line} {psn : Bool} {tally : Option W32} {cnt : Bool} (hio : io.Within ps)
    (hw : Piece.within [.regs, .cnt64, .fls, .ums, .sram, .sramBad, .hostMem, .reports, .hostOut, .freeCtr, .hbm, .fab, .logPtr, .pw, .hostReads] ps = true) : Frame ps s0 (State.pktWrite io s0 l h a mask data psn tally cnt) := by
  unfold State.pktWrite
  refine State.request_frame (Piece.within_trans rfl hw) ?_ (fun _ _ => ?_)
  · exact .refl
  · dsimp only
    split
    · exact .refl
    · refine Frame.step State.lossTo_frame (Piece.within_trans rfl hw) ?_
      refine Frame.trans ?_ (State.writeLocal_frame hio (Piece.within_trans rfl hw))
      assumption
    · refine Frame.step State.ackTo_frame (Piece.within_trans rfl hw) ?_
      refine Frame.trans ?_ (State.writeLocal_frame hio (Piece.within_trans rfl hw))
      assumption
    · split
      · refine Frame.step State.ackTo_frame (Piece.within_trans rfl hw) ?_
        refine Frame.trans ?_ (State.writeLocal_frame hio (Piece.within_trans rfl hw))
        assumption
      · split
        · refine Frame.step State.lossTo_frame (Piece.within_trans rfl hw) ?_
          refine Frame.step State.tallyAdd_frame (Piece.within_trans rfl hw) ?_
          refine Frame.trans ?_ (State.writeLocal_frame hio (Piece.within_trans rfl hw))
          assumption
        · refine Frame.step State.ackTo_frame (Piece.within_trans rfl hw) ?_
          refine Frame.step State.tallyAdd_frame (Piece.within_trans rfl hw) ?_
          refine Frame.trans ?_ (State.writeLocal_frame hio (Piece.within_trans rfl hw))
          assumption

theorem State.pktRead_frame {ps : List Piece} {io : RegIO} {s0 : State} {l : Nat} {h : PktHdr} {a : Nat} (hio : io.Within ps)
    (hw : Piece.within [.regs, .cnt64, .sram, .sramBad, .reports, .hostOut, .freeCtr, .hbm, .fab, .logPtr, .fe, .pw, .hostReads] ps = true) : Frame ps s0 (State.pktRead io s0 l h a) := by
  unfold State.pktRead
  refine State.request_frame (Piece.within_trans rfl hw) ?_ (fun _ _ => ?_)
  · exact .refl
  · refine Frame.ite ?_ ?_
    · dsimp only
      refine Frame.set_hostOut_hostReads (Piece.within_trans rfl hw) ?_
      refine Frame.step State.setFab_frame (Piece.within_trans rfl hw) ?_
      assumption
    · dsimp only
      split
      · exact .refl
      · refine Frame.step State.lossTo_frame (Piece.within_trans rfl hw) ?_
        refine Frame.trans ?_ (State.readLocal_frame hio (Piece.within_trans rfl hw))
        assumption
      · refine Frame.step State.answerTo_frame (Piece.within_trans rfl hw) ?_
        refine Frame.trans ?_ (State.readLocal_frame hio (Piece.within_trans rfl hw))
        assumption

theorem State.pktSignal_frame {s : State} {l : Nat} {h : PktHdr} {tally : W32} {v : W32} :
    Frame [.regs, .cnt64, .fls, .ums, .hostOut, .fab, .logPtr, .pw] s (State.pktSignal s l h tally v) := by
  unfold State.pktSignal
  dsimp only
  refine State.request_frame rfl ?_ (fun _ _ => ?_)
  · exact .refl
  · split
    · refine Frame.step State.lossTo_frame rfl ?_
      refine Frame.step State.tallyAdd_frame rfl ?_
      assumption
    · refine Frame.step State.ackTo_frame rfl ?_
      refine Frame.step State.tallyAdd_frame rfl ?_
      assumption

theorem State.pktEnd_frame {s : State} {l : Nat} {h : PktHdr} {a : Nat} {e : Nat} :
    Frame [.regs, .cnt64, .fls, .hostOut, .fab, .logPtr, .pw] s (State.pktEnd s l h a e) := by
  unfold State.pktEnd
  refine State.request_frame rfl ?_ (fun _ _ => ?_)
  · exact .refl
  · dsimp only
    split
    · refine Frame.step State.lossTo_frame rfl ?_
      refine Frame.step State.endTo_frame rfl ?_
      assumption
    · refine Frame.step State.ackTo_frame rfl ?_
      refine Frame.step State.endTo_frame rfl ?_
      assumption

theorem State.mcBreak_frame {s : State} {t : Nat} {l : Nat} :
    Frame [.regs, .hostOut, .fab] s (State.mcBreak s t l) := by
  unfold State.mcBreak
  refine Frame.step State.event_frame rfl ?_
  refine Frame.step State.setFab_frame rfl ?_
  exact .refl

theorem State.mcSend_frame {s : State} {t : Nat} {src : Nat} {flow : Nat} {gen : Nat} {inj : Nat} {tok : Nat} {sub : Bool} {b : Body} :
    Frame [.regs, .cnt64, .fab] s (State.mcSend s t src flow gen inj tok sub b) := by
  unfold State.mcSend
  refine Frame.trans ?_ (Frame.foldl (fun s x => ?_))
  · exact .refl
  · refine Frame.step State.emit_frame rfl ?_
    exact .refl

theorem State.mcOne_frame {s : State} {t : Nat} :
    Frame [.fab] s (State.mcOne s t) := by
  unfold State.mcOne
  refine Frame.step State.setFab_frame rfl ?_
  exact .refl

theorem State.mcWrite_frame {ps : List Piece} {io : RegIO} {s0 : State} {l : Nat} {h : PktHdr} {t : Nat} {a : Nat} {data : Line} {psn : Bool} {ct : Bool} {tally : Option W32} (hio : io.Within ps)
    (hw : Piece.within [.regs, .cnt64, .fls, .ums, .sram, .sramBad, .hostMem, .reports, .hostOut, .freeCtr, .hbm, .fab, .logPtr, .pw, .hostReads] ps = true) : Frame ps s0 (State.mcWrite io s0 l h t a data psn ct tally) := by
  unfold State.mcWrite
  dsimp only
  refine Frame.ite ?_ ?_
  · refine Frame.step State.rx_frame (Piece.within_trans rfl hw) ?_
    exact .refl
  · refine Frame.ite ?_ ?_
    · refine Frame.step State.isoDrop_frame (Piece.within_trans rfl hw) ?_
      refine Frame.step State.rx_frame (Piece.within_trans rfl hw) ?_
      exact .refl
    · refine Frame.ite ?_ ?_
      · refine Frame.step State.mcBreak_frame (Piece.within_trans rfl hw) ?_
        refine Frame.step State.plCount_frame (Piece.within_trans rfl hw) ?_
        refine Frame.step State.rx_frame (Piece.within_trans rfl hw) ?_
        exact .refl
      · refine Frame.ite ?_ ?_
        · refine Frame.step State.mcBreak_frame (Piece.within_trans rfl hw) ?_
          refine Frame.step State.ageDrop_frame (Piece.within_trans rfl hw) ?_
          refine Frame.step State.rx_frame (Piece.within_trans rfl hw) ?_
          exact .refl
        · refine Frame.ite ?_ ?_
          · refine Frame.step State.mcSend_frame (Piece.within_trans rfl hw) ?_
            refine Frame.step State.rx_frame (Piece.within_trans rfl hw) ?_
            exact .refl
          · refine Frame.ite ?_ ?_
            · refine Frame.step State.mcSend_frame (Piece.within_trans rfl hw) ?_
              refine Frame.step State.mcBreak_frame (Piece.within_trans rfl hw) ?_
              refine Frame.step State.sticky_frame (Piece.within_trans rfl hw) ?_
              refine Frame.step State.rx_frame (Piece.within_trans rfl hw) ?_
              exact .refl
            · split
              · exact .refl
              · refine Frame.step State.mcSend_frame (Piece.within_trans rfl hw) ?_
                refine Frame.step State.mcBreak_frame (Piece.within_trans rfl hw) ?_
                refine Frame.trans ?_ (State.writeLocal_frame hio (Piece.within_trans rfl hw))
                refine Frame.step State.rx_frame (Piece.within_trans rfl hw) ?_
                exact .refl
              · refine Frame.step State.mcSend_frame (Piece.within_trans rfl hw) ?_
                refine Frame.step State.mcOne_frame (Piece.within_trans rfl hw) ?_
                refine Frame.trans ?_ (State.writeLocal_frame hio (Piece.within_trans rfl hw))
                refine Frame.step State.rx_frame (Piece.within_trans rfl hw) ?_
                exact .refl
              · refine Frame.step State.mcSend_frame (Piece.within_trans rfl hw) ?_
                refine Frame.ite ?_ ?_
                · refine Frame.step State.mcBreak_frame (Piece.within_trans rfl hw) ?_
                  split
                  · dsimp only
                    refine Frame.trans ?_ (State.writeLocal_frame hio (Piece.within_trans rfl hw))
                    refine Frame.step State.rx_frame (Piece.within_trans rfl hw) ?_
                    exact .refl
                  · refine Frame.step State.tallyAdd_frame (Piece.within_trans rfl hw) ?_
                    refine Frame.trans ?_ (State.writeLocal_frame hio (Piece.within_trans rfl hw))
                    refine Frame.step State.rx_frame (Piece.within_trans rfl hw) ?_
                    exact .refl
                · refine Frame.step State.mcOne_frame (Piece.within_trans rfl hw) ?_
                  split
                  · dsimp only
                    refine Frame.trans ?_ (State.writeLocal_frame hio (Piece.within_trans rfl hw))
                    refine Frame.step State.rx_frame (Piece.within_trans rfl hw) ?_
                    exact .refl
                  · refine Frame.step State.tallyAdd_frame (Piece.within_trans rfl hw) ?_
                    refine Frame.trans ?_ (State.writeLocal_frame hio (Piece.within_trans rfl hw))
                    refine Frame.step State.rx_frame (Piece.within_trans rfl hw) ?_
                    exact .refl

theorem execSubtreeReport_frame {tree : TreeId} {child : OptChild} {s : State} :
    ∃ out, execSubtreeReport tree child s = .next out ∧ Frame [.regs, .cnt64, .fab] s out := by
  refine ⟨_, rfl, ?_⟩
  dsimp only
  split
  · refine Frame.ite ?_ ?_
    · refine Frame.ite ?_ ?_
      · refine Frame.step State.isoDrop_frame rfl ?_
        refine Frame.step State.rx_frame rfl ?_
        exact .refl
      · split
        · refine Frame.step State.setFab_frame rfl ?_
          refine Frame.step State.rx_frame rfl ?_
          exact .refl
        · refine Frame.step State.setFab_frame rfl ?_
          refine Frame.step State.rx_frame rfl ?_
          exact .refl
    · refine Frame.step State.rx_frame rfl ?_
      exact .refl
  · refine Frame.ite ?_ ?_
    · exact .refl
    · refine Frame.ite ?_ ?_
      · refine Frame.ite ?_ ?_
        · exact .refl
        · refine Frame.step State.emit_frame rfl ?_
          refine Frame.step State.setFab_frame rfl ?_
          exact .refl
      · refine Frame.ite ?_ ?_
        · exact .refl
        · refine Frame.step State.emit_frame rfl ?_
          refine Frame.step State.setFab_frame rfl ?_
          exact .refl

theorem State.sigDone_frame {s : State} {g : Agent} {d : Nat} :
    Frame [.regs, .cnt64, .fls, .ums, .reports, .hostOut, .freeCtr, .fab, .logPtr, .fe, .pw] s (State.sigDone s g d) := by
  unfold State.sigDone
  split
  · exact .refl
  · refine Frame.step State.cascade_frame rfl ?_
    refine Frame.step State.complete_frame rfl ?_
    exact .refl

theorem State.sigCmdEnd_frame {s : State} {r : Nat} {n : Nat} {status : Nat} :
    Frame [.regs, .cnt64, .fls, .ums, .sram, .hostMem, .reports, .hostOut, .freeCtr, .hbm, .fab, .logPtr, .fe, .tr, .pw, .hostReads] s (State.sigCmdEnd s r n status) := by
  unfold State.sigCmdEnd
  dsimp only
  split
  · exact .refl
  · refine Frame.step State.cmdEnd_frame rfl ?_
    refine Frame.step State.modRing_frame rfl ?_
    exact .refl

theorem State.countOrphan_frame {s : State} {w : Await} :
    Frame [.regs, .cnt64, .fls, .ums, .hostOut, .freeCtr, .fab, .logPtr, .pw] s (State.countOrphan s w) := by
  unfold State.countOrphan
  split
  · exact .refl
  · dsimp only
    split
    · refine Frame.step State.inject_frame rfl ?_
      refine Frame.step State.tallyAdd_frame rfl ?_
      exact .refl
    · refine Frame.step State.tallyAdd_frame rfl ?_
      exact .refl

theorem State.acked_frame {s : State} {w : Await} {discarded : Bool} :
    Frame [.regs, .cnt64, .fls, .ums, .sram, .hostMem, .reports, .hostOut, .freeCtr, .hbm, .fab, .logPtr, .fe, .tr, .pw, .hostReads] s (State.acked s w discarded) := by
  unfold State.acked
  refine Frame.ite ?_ ?_
  · refine Frame.ite ?_ ?_
    · exact .refl
    · refine Frame.step State.countOrphan_frame rfl ?_
      exact .refl
  · split
    · split
      · refine Frame.ite ?_ ?_
        · refine Frame.step State.srCount_frame rfl ?_
          exact .refl
        · exact .refl
      · refine Frame.step State.engAcked_frame rfl ?_
        exact .refl
    · refine Frame.step State.sigDone_frame rfl ?_
      exact .refl
    · refine Frame.step State.sigDone_frame rfl ?_
      exact .refl
    · refine Frame.step State.sigCmdEnd_frame rfl ?_
      exact .refl
    · exact .refl

theorem State.lossOf_frame {s : State} {w : Await} :
    Frame [.regs, .cnt64, .fls, .ums, .sram, .hostMem, .reports, .hostOut, .freeCtr, .hbm, .fab, .logPtr, .fe, .tr, .pw, .hostReads] s (State.lossOf s w) := by
  unfold State.lossOf
  refine Frame.ite ?_ ?_
  · exact .refl
  · split
    · split
      · refine Frame.step State.srLoss_frame rfl ?_
        exact .refl
      · refine Frame.step State.markLost_frame rfl ?_
        exact .refl
    · split
      · refine Frame.step State.srLoss_frame rfl ?_
        exact .refl
      · refine Frame.step State.ddLoss_frame rfl ?_
        exact .refl
      · refine Frame.step State.engLoss_frame rfl ?_
        refine Frame.step State.markLost_frame rfl ?_
        exact .refl
    · split
      · refine Frame.step State.engLoss_frame rfl ?_
        refine Frame.step State.complete_frame rfl ?_
        exact .refl
      · exact .refl
    · split
      · refine Frame.step State.engLoss_frame rfl ?_
        refine Frame.step State.complete_frame rfl ?_
        exact .refl
      · exact .refl
    · split
      · refine Frame.step State.flLoss_frame rfl ?_
        exact .refl
      · exact .refl
    · split
      · refine Frame.step State.flLoss_frame rfl ?_
        exact .refl
      · exact .refl
    · refine Frame.step State.sigCmdEnd_frame rfl ?_
      exact .refl

theorem State.response_frame {ps : List Piece} {b s : State} {l : Nat} {h : RspHdr} {toks : List Nat} {bd : Body} {here : State → State}
    (hw : Piece.within [.regs, .cnt64, .hostOut, .fab] ps = true) (h0 : Frame ps b s)
    (hk : ∀ t, Frame ps b t → Frame ps b (here t)) : Frame ps b (s.response l h toks bd here) := by
  unfold State.response
  dsimp only
  have hr : Frame ps b (s.rx l bd.kind) := Frame.step State.rx_frame (Piece.within_trans rfl hw) h0
  refine Frame.ite hr (Frame.ite ?_ (Frame.ite ?_ (Frame.ite ?_ (hk _ hr))))
  · exact Frame.step State.isoDrop_frame (Piece.within_trans rfl hw) hr
  · split
    · exact Frame.step State.plCount_frame (Piece.within_trans rfl hw) hr
    · exact Frame.step State.emit_frame (Piece.within_trans rfl hw) hr
  · exact Frame.step State.plCount_frame (Piece.within_trans rfl hw) (Frame.step State.setFab_frame (Piece.within_trans rfl hw) hr)

theorem State.awaited_frame {ps : List Piece} {b s : State} {tok : Nat} {k : State → Await → State}
    (hw : Piece.within [.fab] ps = true) (h0 : Frame ps b s)
    (hk : ∀ t w, Frame ps b t → Frame ps b (k t w)) : Frame ps b (s.awaited tok k) := by
  unfold State.awaited
  dsimp only
  split
  · exact h0
  · exact hk _ _ (Frame.step State.takeAwait_frame (Piece.within_trans rfl hw) h0)

theorem execPktData_frame {l : LinkId} {h : RspHdr} {tok : Token} {data : Line} {psn : Bool} {s : State} :
    ∃ out, execPktData l h tok data psn s = .next out ∧ Frame [.regs, .cnt64, .fls, .ums, .hostOut, .fab, .fe] s out := by
  refine ⟨_, rfl, ?_⟩
  refine State.response_frame rfl ?_ (fun _ _ => ?_)
  · exact .refl
  · refine State.awaited_frame rfl ?_ (fun _ _ _ => ?_)
    · assumption
    · refine Frame.ite ?_ ?_
      · assumption
      · refine Frame.step State.holdLine_frame rfl ?_
        assumption

theorem execAck_frame {l : LinkId} {h : RspHdr} {toks : ListAckTok} {s : State} :
    ∃ out, execAck l h toks s = .next out ∧ Frame [.regs, .cnt64, .fls, .ums, .sram, .hostMem, .reports, .hostOut, .freeCtr, .hbm, .fab, .logPtr, .fe, .tr, .pw, .hostReads] s out := by
  refine ⟨_, rfl, ?_⟩
  dsimp only
  refine State.response_frame rfl ?_ (fun _ _ => ?_)
  · exact .refl
  · refine Frame.trans ?_ (Frame.foldl (fun s x => ?_))
    · assumption
    · refine State.awaited_frame rfl ?_ (fun _ _ _ => ?_)
      · exact .refl
      · refine Frame.step State.acked_frame rfl ?_
        assumption

theorem execLossPkt_frame {l : LinkId} {h : RspHdr} {x : Loss} {s : State} :
    ∃ out, execLossPkt l h x s = .next out ∧ Frame [.regs, .cnt64, .fls, .ums, .sram, .hostMem, .reports, .hostOut, .freeCtr, .hbm, .fab, .logPtr, .fe, .tr, .pw, .hostReads] s out := by
  refine ⟨_, rfl, ?_⟩
  refine State.response_frame rfl ?_ (fun _ _ => ?_)
  · exact .refl
  · refine State.awaited_frame rfl ?_ (fun _ _ _ => ?_)
    · assumption
    · refine Frame.ite ?_ ?_
      · refine Frame.step State.lossOf_frame rfl ?_
        assumption
      · assumption

theorem State.lossBack_frame {s : State} {p : OutPkt} {why : LossWhy} :
    Frame [.regs, .cnt64, .fls, .ums, .sram, .hostMem, .reports, .hostOut, .freeCtr, .hbm, .fab, .logPtr, .fe, .tr, .pw, .hostReads] s (State.lossBack s p why) := by
  unfold State.lossBack
  dsimp only
  refine Frame.ite ?_ ?_
  · split
    · refine Frame.step State.mcBreak_frame rfl ?_
      exact .refl
    · exact .refl
  · refine Frame.ite ?_ ?_
    · refine Frame.step State.answer_frame rfl ?_
      split
      · refine Frame.step State.mcBreak_frame rfl ?_
        exact .refl
      · exact .refl
    · refine State.awaited_frame rfl ?_ (fun _ _ _ => ?_)
      · split
        · refine Frame.step State.mcBreak_frame rfl ?_
          exact .refl
        · exact .refl
      · refine Frame.ite ?_ ?_
        · refine Frame.step State.lossOf_frame rfl ?_
          assumption
        · assumption

theorem State.ageOut_frame {s : State} {p : OutPkt} :
    Frame [.regs, .cnt64, .fls, .ums, .sram, .hostMem, .reports, .hostOut, .freeCtr, .hbm, .fab, .logPtr, .fe, .tr, .pw, .hostReads] s (State.ageOut s p) := by
  unfold State.ageOut
  refine Frame.step State.lossBack_frame rfl ?_
  refine Frame.step State.logErr_frame rfl ?_
  refine Frame.step State.plCount_frame rfl ?_
  exact .refl

theorem State.leave_frame {s : State} {p : OutPkt} :
    Frame [.regs, .cnt64, .fls, .ums, .sram, .hostMem, .reports, .hostOut, .freeCtr, .hbm, .fab, .logPtr, .fe, .tr, .pw, .hostReads] s (State.leave s p) := by
  unfold State.leave
  refine Frame.ite ?_ ?_
  · refine Frame.step State.plCount_frame rfl ?_
    exact .refl
  · refine Frame.ite ?_ ?_
    · refine Frame.step State.ageOut_frame rfl ?_
      exact .refl
    · refine Frame.step State.emit_frame rfl ?_
      exact .refl

theorem State.flushLink_frame {s : State} {l : Nat} :
    Frame [.regs, .cnt64, .fls, .ums, .sram, .hostMem, .reports, .hostOut, .freeCtr, .hbm, .fab, .logPtr, .fe, .tr, .pw, .hostReads] s (State.flushLink s l) := by
  unfold State.flushLink
  dsimp only
  refine Frame.trans ?_ (Frame.foldl (fun s x => ?_))
  · refine Frame.step State.setFab_frame rfl ?_
    exact .refl
  · refine Frame.step State.leave_frame rfl ?_
    exact .refl

theorem State.ageHeld_frame {s : State} :
    Frame [.regs, .cnt64, .fls, .ums, .sram, .hostMem, .reports, .hostOut, .freeCtr, .hbm, .fab, .logPtr, .fe, .tr, .pw, .hostReads] s (State.ageHeld s) := by
  unfold State.ageHeld
  dsimp only
  refine Frame.trans ?_ (Frame.foldl (fun s x => ?_))
  · refine Frame.step State.setFab_frame rfl ?_
    exact .refl
  · refine Frame.step State.ageOut_frame rfl ?_
    exact .refl

theorem State.expireDead_frame {s : State} :
    Frame [.fab] s (State.expireDead s) := by
  unfold State.expireDead
  dsimp only
  refine Frame.step State.setFab_frame rfl ?_
  exact .refl

theorem execDeadListExpiry_frame {s : State} :
    ∃ out, execDeadListExpiry s = .next out ∧ Frame [.fab] s out := by
  refine ⟨_, rfl, ?_⟩
  refine Frame.step State.expireDead_frame rfl ?_
  exact .refl

theorem execPktFence_frame {l : LinkId} {dst : DevId} {src : DevId} {flow : W7} {gen : W4} {inj : Nat} {s : State} :
    ∃ out, execPktFence l dst src flow gen inj s = .next out ∧ Frame [.regs, .cnt64, .hostOut, .fab] s out := by
  refine ⟨_, rfl, ?_⟩
  dsimp only
  refine Frame.ite ?_ ?_
  · refine Frame.step State.rx_frame rfl ?_
    exact .refl
  · refine Frame.ite ?_ ?_
    · refine Frame.step State.isoDrop_frame rfl ?_
      refine Frame.step State.rx_frame rfl ?_
      exact .refl
    · refine Frame.ite ?_ ?_
      · split
        · refine Frame.step State.plCount_frame rfl ?_
          refine Frame.step State.rx_frame rfl ?_
          exact .refl
        · refine Frame.step State.emit_frame rfl ?_
          refine Frame.step State.rx_frame rfl ?_
          exact .refl
      · refine Frame.ite ?_ ?_
        · refine Frame.step State.setFab_frame rfl ?_
          refine Frame.step State.rx_frame rfl ?_
          exact .refl
        · refine Frame.step State.setFab_frame rfl ?_
          refine Frame.step State.rx_frame rfl ?_
          exact .refl

theorem State.floodLsa_frame {s : State} :
    Frame [.regs, .cnt64, .fab] s (State.floodLsa s) := by
  unfold State.floodLsa
  dsimp only
  refine Frame.trans ?_ (Frame.foldl (fun s x => ?_))
  · refine Frame.step State.setFab_frame rfl ?_
    exact .refl
  · refine Frame.ite ?_ ?_
    · refine Frame.step State.emit_frame rfl ?_
      exact .refl
    · exact .refl

theorem State.dropLink_frame {s : State} {l : Nat} :
    Frame [.regs, .cnt64, .fls, .ums, .sram, .hostMem, .reports, .hostOut, .freeCtr, .hbm, .fab, .logPtr, .fe, .tr, .pw, .hostReads] s (State.dropLink s l) := by
  unfold State.dropLink
  dsimp only
  refine Frame.trans ?_ (Frame.foldl (fun s x => ?_))
  · refine Frame.step State.setFab_frame rfl ?_
    refine Frame.trans ?_ (Frame.foldl (fun s x => ?_))
    · refine Frame.step State.setLink_frame rfl ?_
      exact .refl
    · refine Frame.ite ?_ ?_
      · refine Frame.step State.lossBack_frame rfl ?_
        refine Frame.step State.fresh_frame rfl ?_
        exact .refl
      · refine Frame.step State.fresh_frame rfl ?_
        exact .refl
  · refine Frame.step State.lossBack_frame rfl ?_
    exact .refl

theorem State.retireLink_frame {s : State} {l : Nat} :
    Frame [.regs, .cnt64, .fls, .ums, .sram, .hostMem, .reports, .hostOut, .freeCtr, .hbm, .fab, .logPtr, .fe, .tr, .pw, .hostReads] s (State.retireLink s l) := by
  unfold State.retireLink
  dsimp only
  refine Frame.step State.floodLsa_frame rfl ?_
  refine Frame.trans ?_ (Frame.foldl (fun s x => ?_))
  · refine Frame.step State.report_frame rfl ?_
    refine Frame.step State.dropLink_frame rfl ?_
    refine Frame.step State.event_frame rfl ?_
    refine Frame.step State.setLink_frame rfl ?_
    exact .refl
  · refine Frame.ite ?_ ?_
    · refine Frame.step State.mcBreak_frame rfl ?_
      exact .refl
    · exact .refl

theorem State.downLink_frame {s : State} {l : Nat} :
    Frame [.regs, .cnt64, .hostOut, .fab] s (State.downLink s l) := by
  unfold State.downLink
  dsimp only
  refine Frame.step State.floodLsa_frame rfl ?_
  refine Frame.ite ?_ ?_
  · refine Frame.step State.event_frame rfl ?_
    refine Frame.step State.setLink_frame rfl ?_
    exact .refl
  · refine Frame.step State.setLink_frame rfl ?_
    exact .refl

theorem execLinkDown_frame {l : LinkId} {s : State} :
    ∃ out, execLinkDown l s = .next out ∧ Frame [.regs, .cnt64, .hostOut, .fab] s out := by
  refine ⟨_, rfl, ?_⟩
  refine Frame.ite ?_ ?_
  · refine Frame.step State.downLink_frame rfl ?_
    exact .refl
  · exact .refl

theorem State.linkTrain_frame {s : State} {l : Nat} {mask : Nat} {peerDev : Nat} {peerLink : Nat} {peerCode : Bool} :
    Frame [.regs, .cnt64, .fls, .ums, .sram, .hostMem, .reports, .hostOut, .freeCtr, .hbm, .fab, .logPtr, .fe, .tr, .pw, .hostReads] s (State.linkTrain s l mask peerDev peerLink peerCode) := by
  unfold State.linkTrain
  dsimp only
  refine Frame.ite ?_ ?_
  · exact .refl
  · refine Frame.ite ?_ ?_
    · refine Frame.step State.retireLink_frame rfl ?_
      refine Frame.step State.setLink_frame rfl ?_
      refine Frame.ite ?_ ?_
      · exact .refl
      · refine Frame.step State.event_frame rfl ?_
        exact .refl
    · refine Frame.step State.flushLink_frame rfl ?_
      refine Frame.step State.floodLsa_frame rfl ?_
      refine Frame.step State.setLink_frame rfl ?_
      refine Frame.ite ?_ ?_
      · exact .refl
      · refine Frame.step State.event_frame rfl ?_
        exact .refl

theorem execLinkTrained_frame {l : LinkId} {mask : W8} {peerDev : DevId} {peerLink : W4} {peerCode : Bool} {s : State} :
    ∃ out, execLinkTrained l mask peerDev peerLink peerCode s = .next out ∧ Frame [.regs, .cnt64, .fls, .ums, .sram, .hostMem, .reports, .hostOut, .freeCtr, .hbm, .fab, .logPtr, .fe, .tr, .pw, .hostReads] s out := by
  refine ⟨_, rfl, ?_⟩
  refine Frame.step State.linkTrain_frame rfl ?_
  exact .refl

theorem State.laneOut_frame {s : State} {l : Nat} {lane : Nat} :
    Frame [.regs, .cnt64, .fls, .ums, .sram, .hostMem, .reports, .hostOut, .freeCtr, .hbm, .fab, .logPtr, .fe, .tr, .pw, .hostReads] s (State.laneOut s l lane) := by
  unfold State.laneOut
  dsimp only
  refine Frame.ite ?_ ?_
  · refine Frame.step State.retireLink_frame rfl ?_
    refine Frame.step State.event_frame rfl ?_
    refine Frame.step State.setLink_frame rfl ?_
    exact .refl
  · refine Frame.step State.event_frame rfl ?_
    refine Frame.step State.setLink_frame rfl ?_
    exact .refl

theorem execLaneFault_frame {l : LinkId} {x : LaneReport} {s : State} :
    ∃ out, execLaneFault l x s = .next out ∧ Frame [.regs, .cnt64, .fls, .ums, .sram, .hostMem, .reports, .hostOut, .freeCtr, .hbm, .fab, .logPtr, .fe, .tr, .pw, .hostReads] s out := by
  refine ⟨_, rfl, ?_⟩
  dsimp only
  refine Frame.ite ?_ ?_
  · exact .refl
  · split
    · refine Frame.ite ?_ ?_
      · refine Frame.step State.laneOut_frame rfl ?_
        refine Frame.step State.addReg_frame rfl ?_
        exact .refl
      · refine Frame.step State.addReg_frame rfl ?_
        exact .refl
    · refine Frame.ite ?_ ?_
      · refine Frame.step State.laneOut_frame rfl ?_
        refine Frame.step State.setLink_frame rfl ?_
        exact .refl
      · refine Frame.step State.setLink_frame rfl ?_
        exact .refl

theorem execLinkRetireTimeout_frame {l : LinkId} {s : State} :
    ∃ out, execLinkRetireTimeout l s = .next out ∧ Frame [.regs, .cnt64, .fls, .ums, .sram, .hostMem, .reports, .hostOut, .freeCtr, .hbm, .fab, .logPtr, .fe, .tr, .pw, .hostReads] s out := by
  refine ⟨_, rfl, ?_⟩
  dsimp only
  refine Frame.ite ?_ ?_
  · refine Frame.step State.retireLink_frame rfl ?_
    exact .refl
  · exact .refl

theorem State.retrainLink_frame {s : State} {l : Nat} :
    Frame [.regs, .cnt64, .fab] s (State.retrainLink s l) := by
  unfold State.retrainLink
  dsimp only
  refine Frame.ite ?_ ?_
  · refine Frame.ite ?_ ?_
    · refine Frame.step State.setLink_frame rfl ?_
      exact .refl
    · refine Frame.step State.floodLsa_frame rfl ?_
      refine Frame.step State.setLink_frame rfl ?_
      exact .refl
  · exact .refl

theorem execRetrain_frame {l : LinkId} {s : State} :
    ∃ out, execRetrain l s = .next out ∧ Frame [.regs, .cnt64, .fab] s out := by
  refine ⟨_, rfl, ?_⟩
  refine Frame.step State.retrainLink_frame rfl ?_
  exact .refl

theorem State.replay_frame {s : State} {l : Nat} {seq : Nat} :
    Frame [.regs, .cnt64, .hostOut, .fab] s (State.replay s l seq) := by
  unfold State.replay
  dsimp only
  refine Frame.ite ?_ ?_
  · refine Frame.step State.retrainLink_frame rfl ?_
    refine Frame.step State.downLink_frame rfl ?_
    refine Frame.step State.cnt_frame rfl ?_
    refine Frame.step State.setLink_frame rfl ?_
    refine Frame.step State.addReg_frame rfl ?_
    exact .refl
  · refine Frame.step State.cnt_frame rfl ?_
    refine Frame.step State.setLink_frame rfl ?_
    refine Frame.step State.addReg_frame rfl ?_
    exact .refl

theorem execReplayRequest_frame {l : LinkId} {crc : Bool} {asSender : Bool} {seq : Nat} {s : State} :
    ∃ out, execReplayRequest l crc asSender seq s = .next out ∧ Frame [.regs, .cnt64, .hostOut, .fab] s out := by
  refine ⟨_, rfl, ?_⟩
  refine Frame.ite ?_ ?_
  · exact .refl
  · refine Frame.ite ?_ ?_
    · refine Frame.step State.replay_frame rfl ?_
      exact .refl
    · refine Frame.ite ?_ ?_
      · refine Frame.step State.addReg_frame rfl ?_
        exact .refl
      · exact .refl

theorem execReplayTimeout_frame {x : SentPkt} {s : State} :
    ∃ out, execReplayTimeout x s = .next out ∧ Frame [.regs, .cnt64, .hostOut, .fab] s out := by
  refine ⟨_, rfl, ?_⟩
  refine Frame.ite ?_ ?_
  · refine Frame.step State.replay_frame rfl ?_
    exact .refl
  · exact .refl

theorem State.linkCtrl_frame {s : State} {l : Nat} {v : Nat} :
    Frame [.regs, .cnt64, .hostOut, .fab] s (State.linkCtrl s l v) := by
  unfold State.linkCtrl
  dsimp only
  refine Frame.ite ?_ ?_
  · refine Frame.ite ?_ ?_
    · refine Frame.step State.downLink_frame rfl ?_
      refine Frame.step State.setReg_frame rfl ?_
      exact .refl
    · refine Frame.step State.setReg_frame rfl ?_
      exact .refl
  · refine Frame.ite ?_ ?_
    · refine Frame.step State.floodLsa_frame rfl ?_
      refine Frame.step State.setLink_frame rfl ?_
      refine Frame.step State.setReg_frame rfl ?_
      exact .refl
    · refine Frame.ite ?_ ?_
      · refine Frame.step State.retrainLink_frame rfl ?_
        refine Frame.step State.setReg_frame rfl ?_
        exact .refl
      · refine Frame.step State.setReg_frame rfl ?_
        exact .refl

theorem execLinkCtrlWrite_frame {l : LinkId} {v : W32} {s : State} :
    ∃ out, execLinkCtrlWrite l v s = .next out ∧ Frame [.regs, .cnt64, .hostOut, .fab, .logPtr] s out := by
  refine ⟨_, rfl, ?_⟩
  refine Frame.ite ?_ ?_
  · refine Frame.step State.linkCtrl_frame rfl ?_
    exact .refl
  · refine Frame.step State.addrErr_frame rfl ?_
    exact .refl

theorem State.request_keeps {b s : State} {l : Nat} {h : PktHdr} {dst a : Nat} {bd : Body} {here : State → State}
    (h0 : Keeps b s) (hk : ∀ t, Keeps b t → Keeps b (here t)) : Keeps b (s.request l h dst a bd here) := by
  unfold State.request
  dsimp only
  have hr : Keeps b (s.rx l bd.kind) := Keeps.frame State.rx_frame rfl h0
  refine Keeps.ite hr (Keeps.ite ?_ (Keeps.ite ?_ (Keeps.ite ?_ (Keeps.ite ?_ (hk _ hr)))))
  · exact Keeps.frame State.isoDrop_frame rfl hr
  · exact Keeps.frame State.plCount_frame rfl hr
  · exact Keeps.frame State.ageDrop_frame rfl hr
  · exact Keeps.frame State.forward_frame rfl hr

theorem State.pktWrite_keeps {io : RegIO} {s0 : State} {l : Nat} {h : PktHdr} {a : Nat} {mask : Nat} {data : Line} {psn : Bool} {tally : Option W32} {cnt : Bool} (hio : io.Keeps) : Keeps s0 (State.pktWrite io s0 l h a mask data psn tally cnt) := by
  unfold State.pktWrite
  refine State.request_keeps ?_ (fun _ _ => ?_)
  · exact .refl
  · dsimp only
    split
    · exact .refl
    · refine Keeps.frame State.lossTo_frame rfl ?_
      refine Keeps.trans ?_ (State.writeLocal_keeps hio)
      assumption
    · refine Keeps.frame State.ackTo_frame rfl ?_
      refine Keeps.trans ?_ (State.writeLocal_keeps hio)
      assumption
    · split
      · refine Keeps.frame State.ackTo_frame rfl ?_
        refine Keeps.trans ?_ (State.writeLocal_keeps hio)
        assumption
      · split
        · refine Keeps.frame State.lossTo_frame rfl ?_
          refine Keeps.frame State.tallyAdd_frame rfl ?_
          refine Keeps.trans ?_ (State.writeLocal_keeps hio)
          assumption
        · refine Keeps.frame State.ackTo_frame rfl ?_
          refine Keeps.frame State.tallyAdd_frame rfl ?_
          refine Keeps.trans ?_ (State.writeLocal_keeps hio)
          assumption

theorem State.pktRead_keeps {io : RegIO} {s0 : State} {l : Nat} {h : PktHdr} {a : Nat} (hio : io.Keeps) : Keeps s0 (State.pktRead io s0 l h a) := by
  unfold State.pktRead
  refine State.request_keeps ?_ (fun _ _ => ?_)
  · exact .refl
  · refine Keeps.ite ?_ ?_
    · dsimp only
      refine Keeps.set_hostOut_hostReads ?_
      refine Keeps.frame State.setFab_frame rfl ?_
      assumption
    · dsimp only
      split
      · exact .refl
      · refine Keeps.frame State.lossTo_frame rfl ?_
        refine Keeps.trans ?_ (State.readLocal_keeps hio)
        assumption
      · refine Keeps.frame State.answerTo_frame rfl ?_
        refine Keeps.trans ?_ (State.readLocal_keeps hio)
        assumption

theorem State.mcWrite_keeps {io : RegIO} {s0 : State} {l : Nat} {h : PktHdr} {t : Nat} {a : Nat} {data : Line} {psn : Bool} {ct : Bool} {tally : Option W32} (hio : io.Keeps) : Keeps s0 (State.mcWrite io s0 l h t a data psn ct tally) := by
  unfold State.mcWrite
  dsimp only
  refine Keeps.ite ?_ ?_
  · refine Keeps.frame State.rx_frame rfl ?_
    exact .refl
  · refine Keeps.ite ?_ ?_
    · refine Keeps.frame State.isoDrop_frame rfl ?_
      refine Keeps.frame State.rx_frame rfl ?_
      exact .refl
    · refine Keeps.ite ?_ ?_
      · refine Keeps.frame State.mcBreak_frame rfl ?_
        refine Keeps.frame State.plCount_frame rfl ?_
        refine Keeps.frame State.rx_frame rfl ?_
        exact .refl
      · refine Keeps.ite ?_ ?_
        · refine Keeps.frame State.mcBreak_frame rfl ?_
          refine Keeps.frame State.ageDrop_frame rfl ?_
          refine Keeps.frame State.rx_frame rfl ?_
          exact .refl
        · refine Keeps.ite ?_ ?_
          · refine Keeps.frame State.mcSend_frame rfl ?_
            refine Keeps.frame State.rx_frame rfl ?_
            exact .refl
          · refine Keeps.ite ?_ ?_
            · refine Keeps.frame State.mcSend_frame rfl ?_
              refine Keeps.frame State.mcBreak_frame rfl ?_
              refine Keeps.frame State.sticky_frame rfl ?_
              refine Keeps.frame State.rx_frame rfl ?_
              exact .refl
            · split
              · exact .refl
              · refine Keeps.frame State.mcSend_frame rfl ?_
                refine Keeps.frame State.mcBreak_frame rfl ?_
                refine Keeps.trans ?_ (State.writeLocal_keeps hio)
                refine Keeps.frame State.rx_frame rfl ?_
                exact .refl
              · refine Keeps.frame State.mcSend_frame rfl ?_
                refine Keeps.frame State.mcOne_frame rfl ?_
                refine Keeps.trans ?_ (State.writeLocal_keeps hio)
                refine Keeps.frame State.rx_frame rfl ?_
                exact .refl
              · refine Keeps.frame State.mcSend_frame rfl ?_
                refine Keeps.ite ?_ ?_
                · refine Keeps.frame State.mcBreak_frame rfl ?_
                  split
                  · dsimp only
                    refine Keeps.trans ?_ (State.writeLocal_keeps hio)
                    refine Keeps.frame State.rx_frame rfl ?_
                    exact .refl
                  · refine Keeps.frame State.tallyAdd_frame rfl ?_
                    refine Keeps.trans ?_ (State.writeLocal_keeps hio)
                    refine Keeps.frame State.rx_frame rfl ?_
                    exact .refl
                · refine Keeps.frame State.mcOne_frame rfl ?_
                  split
                  · dsimp only
                    refine Keeps.trans ?_ (State.writeLocal_keeps hio)
                    refine Keeps.frame State.rx_frame rfl ?_
                    exact .refl
                  · refine Keeps.frame State.tallyAdd_frame rfl ?_
                    refine Keeps.trans ?_ (State.writeLocal_keeps hio)
                    refine Keeps.frame State.rx_frame rfl ?_
                    exact .refl

theorem State.sigCmdEnd_keeps {s : State} {r : Nat} {n : Nat} {status : Nat} : Keeps s (State.sigCmdEnd s r n status) := by
  unfold State.sigCmdEnd
  dsimp only
  split
  · exact .refl
  · refine Keeps.trans ?_ State.cmdEnd_keeps
    refine Keeps.frame State.modRing_frame rfl ?_
    exact .refl

theorem State.acked_keeps {s : State} {w : Await} {discarded : Bool} : Keeps s (State.acked s w discarded) := by
  unfold State.acked
  refine Keeps.ite ?_ ?_
  · refine Keeps.ite ?_ ?_
    · exact .refl
    · refine Keeps.frame State.countOrphan_frame rfl ?_
      exact .refl
  · split
    · split
      · refine Keeps.ite ?_ ?_
        · refine Keeps.frame State.srCount_frame rfl ?_
          exact .refl
        · exact .refl
      · refine Keeps.frame State.engAcked_frame rfl ?_
        exact .refl
    · refine Keeps.frame State.sigDone_frame rfl ?_
      exact .refl
    · refine Keeps.frame State.sigDone_frame rfl ?_
      exact .refl
    · refine Keeps.trans ?_ State.sigCmdEnd_keeps
      exact .refl
    · exact .refl

theorem State.lossOf_keeps {s : State} {w : Await} : Keeps s (State.lossOf s w) := by
  unfold State.lossOf
  refine Keeps.ite ?_ ?_
  · exact .refl
  · split
    · split
      · refine Keeps.frame State.srLoss_frame rfl ?_
        exact .refl
      · refine Keeps.frame State.markLost_frame rfl ?_
        exact .refl
    · split
      · refine Keeps.frame State.srLoss_frame rfl ?_
        exact .refl
      · refine Keeps.frame State.ddLoss_frame rfl ?_
        exact .refl
      · refine Keeps.frame State.engLoss_frame rfl ?_
        refine Keeps.frame State.markLost_frame rfl ?_
        exact .refl
    · split
      · refine Keeps.frame State.engLoss_frame rfl ?_
        refine Keeps.frame State.complete_frame rfl ?_
        exact .refl
      · exact .refl
    · split
      · refine Keeps.frame State.engLoss_frame rfl ?_
        refine Keeps.frame State.complete_frame rfl ?_
        exact .refl
      · exact .refl
    · split
      · refine Keeps.frame State.flLoss_frame rfl ?_
        exact .refl
      · exact .refl
    · split
      · refine Keeps.frame State.flLoss_frame rfl ?_
        exact .refl
      · exact .refl
    · refine Keeps.trans ?_ State.sigCmdEnd_keeps
      exact .refl

theorem State.response_keeps {b s : State} {l : Nat} {h : RspHdr} {toks : List Nat} {bd : Body} {here : State → State}
    (h0 : Keeps b s) (hk : ∀ t, Keeps b t → Keeps b (here t)) : Keeps b (s.response l h toks bd here) := by
  unfold State.response
  dsimp only
  have hr : Keeps b (s.rx l bd.kind) := Keeps.frame State.rx_frame rfl h0
  refine Keeps.ite hr (Keeps.ite ?_ (Keeps.ite ?_ (Keeps.ite ?_ (hk _ hr))))
  · exact Keeps.frame State.isoDrop_frame rfl hr
  · split
    · exact Keeps.frame State.plCount_frame rfl hr
    · exact Keeps.frame State.emit_frame rfl hr
  · exact Keeps.frame State.plCount_frame rfl (Keeps.frame State.setFab_frame rfl hr)

theorem State.awaited_keeps {b s : State} {tok : Nat} {k : State → Await → State} (h0 : Keeps b s)
    (hk : ∀ t w, Keeps b t → Keeps b (k t w)) : Keeps b (s.awaited tok k) := by
  unfold State.awaited
  dsimp only
  split
  · exact h0
  · exact hk _ _ (Keeps.frame State.takeAwait_frame rfl h0)

theorem execAck_keeps {l : LinkId} {h : RspHdr} {toks : ListAckTok} {s : State} :
    ∃ out, execAck l h toks s = .next out ∧ Keeps s out := by
  refine ⟨_, rfl, ?_⟩
  dsimp only
  refine State.response_keeps ?_ (fun _ _ => ?_)
  · exact .refl
  · refine Keeps.trans ?_ (Keeps.foldl (fun s x => ?_))
    · assumption
    · refine State.awaited_keeps ?_ (fun _ _ _ => ?_)
      · exact .refl
      · refine Keeps.trans ?_ State.acked_keeps
        assumption

theorem execLossPkt_keeps {l : LinkId} {h : RspHdr} {x : Loss} {s : State} :
    ∃ out, execLossPkt l h x s = .next out ∧ Keeps s out := by
  refine ⟨_, rfl, ?_⟩
  refine State.response_keeps ?_ (fun _ _ => ?_)
  · exact .refl
  · refine State.awaited_keeps ?_ (fun _ _ _ => ?_)
    · assumption
    · refine Keeps.ite ?_ ?_
      · refine Keeps.trans ?_ State.lossOf_keeps
        assumption
      · assumption

theorem State.lossBack_keeps {s : State} {p : OutPkt} {why : LossWhy} : Keeps s (State.lossBack s p why) := by
  unfold State.lossBack
  dsimp only
  refine Keeps.ite ?_ ?_
  · split
    · refine Keeps.frame State.mcBreak_frame rfl ?_
      exact .refl
    · exact .refl
  · refine Keeps.ite ?_ ?_
    · refine Keeps.frame State.answer_frame rfl ?_
      split
      · refine Keeps.frame State.mcBreak_frame rfl ?_
        exact .refl
      · exact .refl
    · refine State.awaited_keeps ?_ (fun _ _ _ => ?_)
      · split
        · refine Keeps.frame State.mcBreak_frame rfl ?_
          exact .refl
        · exact .refl
      · refine Keeps.ite ?_ ?_
        · refine Keeps.trans ?_ State.lossOf_keeps
          assumption
        · assumption

theorem State.ageOut_keeps {s : State} {p : OutPkt} : Keeps s (State.ageOut s p) := by
  unfold State.ageOut
  refine Keeps.trans ?_ State.lossBack_keeps
  refine Keeps.frame State.logErr_frame rfl ?_
  refine Keeps.frame State.plCount_frame rfl ?_
  exact .refl

theorem State.leave_keeps {s : State} {p : OutPkt} : Keeps s (State.leave s p) := by
  unfold State.leave
  refine Keeps.ite ?_ ?_
  · refine Keeps.frame State.plCount_frame rfl ?_
    exact .refl
  · refine Keeps.ite ?_ ?_
    · refine Keeps.trans ?_ State.ageOut_keeps
      exact .refl
    · refine Keeps.frame State.emit_frame rfl ?_
      exact .refl

theorem State.flushLink_keeps {s : State} {l : Nat} : Keeps s (State.flushLink s l) := by
  unfold State.flushLink
  dsimp only
  refine Keeps.trans ?_ (Keeps.foldl (fun s x => ?_))
  · refine Keeps.frame State.setFab_frame rfl ?_
    exact .refl
  · refine Keeps.trans ?_ State.leave_keeps
    exact .refl

theorem State.ageHeld_keeps {s : State} : Keeps s (State.ageHeld s) := by
  unfold State.ageHeld
  dsimp only
  refine Keeps.trans ?_ (Keeps.foldl (fun s x => ?_))
  · refine Keeps.frame State.setFab_frame rfl ?_
    exact .refl
  · refine Keeps.trans ?_ State.ageOut_keeps
    exact .refl

theorem State.dropLink_keeps {s : State} {l : Nat} : Keeps s (State.dropLink s l) := by
  unfold State.dropLink
  dsimp only
  refine Keeps.trans ?_ (Keeps.foldl (fun s x => ?_))
  · refine Keeps.frame State.setFab_frame rfl ?_
    refine Keeps.trans ?_ (Keeps.foldl (fun s x => ?_))
    · refine Keeps.frame State.setLink_frame rfl ?_
      exact .refl
    · refine Keeps.ite ?_ ?_
      · refine Keeps.trans ?_ State.lossBack_keeps
        refine Keeps.frame State.fresh_frame rfl ?_
        exact .refl
      · refine Keeps.frame State.fresh_frame rfl ?_
        exact .refl
  · refine Keeps.trans ?_ State.lossBack_keeps
    exact .refl

theorem State.retireLink_keeps {s : State} {l : Nat} : Keeps s (State.retireLink s l) := by
  unfold State.retireLink
  dsimp only
  refine Keeps.frame State.floodLsa_frame rfl ?_
  refine Keeps.trans ?_ (Keeps.foldl (fun s x => ?_))
  · refine Keeps.frame State.report_frame rfl ?_
    refine Keeps.trans ?_ State.dropLink_keeps
    refine Keeps.frame State.event_frame rfl ?_
    refine Keeps.frame State.setLink_frame rfl ?_
    exact .refl
  · refine Keeps.ite ?_ ?_
    · refine Keeps.frame State.mcBreak_frame rfl ?_
      exact .refl
    · exact .refl

theorem State.linkTrain_keeps {s : State} {l : Nat} {mask : Nat} {peerDev : Nat} {peerLink : Nat} {peerCode : Bool} : Keeps s (State.linkTrain s l mask peerDev peerLink peerCode) := by
  unfold State.linkTrain
  dsimp only
  refine Keeps.ite ?_ ?_
  · exact .refl
  · refine Keeps.ite ?_ ?_
    · refine Keeps.trans ?_ State.retireLink_keeps
      refine Keeps.frame State.setLink_frame rfl ?_
      refine Keeps.ite ?_ ?_
      · exact .refl
      · refine Keeps.frame State.event_frame rfl ?_
        exact .refl
    · refine Keeps.trans ?_ State.flushLink_keeps
      refine Keeps.frame State.floodLsa_frame rfl ?_
      refine Keeps.frame State.setLink_frame rfl ?_
      refine Keeps.ite ?_ ?_
      · exact .refl
      · refine Keeps.frame State.event_frame rfl ?_
        exact .refl

theorem execLinkTrained_keeps {l : LinkId} {mask : W8} {peerDev : DevId} {peerLink : W4} {peerCode : Bool} {s : State} :
    ∃ out, execLinkTrained l mask peerDev peerLink peerCode s = .next out ∧ Keeps s out := by
  refine ⟨_, rfl, ?_⟩
  refine Keeps.trans ?_ State.linkTrain_keeps
  exact .refl

theorem State.laneOut_keeps {s : State} {l : Nat} {lane : Nat} : Keeps s (State.laneOut s l lane) := by
  unfold State.laneOut
  dsimp only
  refine Keeps.ite ?_ ?_
  · refine Keeps.trans ?_ State.retireLink_keeps
    refine Keeps.frame State.event_frame rfl ?_
    refine Keeps.frame State.setLink_frame rfl ?_
    exact .refl
  · refine Keeps.frame State.event_frame rfl ?_
    refine Keeps.frame State.setLink_frame rfl ?_
    exact .refl

theorem execLaneFault_keeps {l : LinkId} {x : LaneReport} {s : State} :
    ∃ out, execLaneFault l x s = .next out ∧ Keeps s out := by
  refine ⟨_, rfl, ?_⟩
  dsimp only
  refine Keeps.ite ?_ ?_
  · exact .refl
  · split
    · refine Keeps.ite ?_ ?_
      · refine Keeps.trans ?_ State.laneOut_keeps
        refine Keeps.frame State.addReg_frame rfl ?_
        exact .refl
      · refine Keeps.frame State.addReg_frame rfl ?_
        exact .refl
    · refine Keeps.ite ?_ ?_
      · refine Keeps.trans ?_ State.laneOut_keeps
        refine Keeps.frame State.setLink_frame rfl ?_
        exact .refl
      · refine Keeps.frame State.setLink_frame rfl ?_
        exact .refl

theorem execLinkRetireTimeout_keeps {l : LinkId} {s : State} :
    ∃ out, execLinkRetireTimeout l s = .next out ∧ Keeps s out := by
  refine ⟨_, rfl, ?_⟩
  dsimp only
  refine Keeps.ite ?_ ?_
  · refine Keeps.trans ?_ State.retireLink_keeps
    exact .refl
  · exact .refl

end Sys2Proof.Machine
end

