-- ==== Sys2Proof/Laws/Meadow.lean ====
section
/-! SUPPORT. What each operation and each meaning of Machine/Meadow.lean can change at most: the pieces of the state outside
its list stay as they are. -/

namespace Sys2Proof.Machine

theorem State.setReach_frame {s : State} :
    Frame [.fab] s (State.setReach s) := by
  unfold State.setReach
  dsimp only
  refine Frame.step State.setFab_frame rfl ?_
  exact .refl

theorem execLsa_frame {l : LinkId} {a : Lsa} {s : State} :
    ∃ out, execLsa l a s = .next out ∧ Frame [.regs, .cnt64, .fab] s out := by
  refine ⟨_, rfl, ?_⟩
  dsimp only
  refine Frame.ite ?_ ?_
  · refine Frame.step State.rx_frame rfl ?_
    exact .refl
  · refine Frame.step State.setReach_frame rfl ?_
    refine Frame.trans ?_ (Frame.foldl (fun s x => ?_))
    · refine Frame.step State.setFab_frame rfl ?_
      refine Frame.step State.rx_frame rfl ?_
      exact .refl
    · refine Frame.ite ?_ ?_
      · refine Frame.step State.emit_frame rfl ?_
        exact .refl
      · exact .refl

theorem execLsaTimer_frame {s : State} :
    ∃ out, execLsaTimer s = .next out ∧ Frame [.regs, .cnt64, .fab] s out := by
  refine ⟨_, rfl, ?_⟩
  refine Frame.ite ?_ ?_
  · refine Frame.step State.floodLsa_frame rfl ?_
    exact .refl
  · exact .refl

theorem execReachExpiry_frame {v : DevId} {s : State} :
    ∃ out, execReachExpiry v s = .next out ∧ Frame [.fab] s out := by
  refine ⟨_, rfl, ?_⟩
  refine Frame.ite ?_ ?_
  · exact .refl
  · refine Frame.step State.setReach_frame rfl ?_
    exact .refl

theorem State.setGroup_frame {s : State} {q : Nat} {st : Nat} :
    Frame [.regs, .cnt64, .sram, .hostMem, .reports, .hostOut, .hbm, .logPtr, .pw, .hostReads] s (State.setGroup s q st) := by
  unfold State.setGroup
  refine Frame.step State.memPutN_frame rfl ?_
  exact .refl

theorem State.cutGroup_frame {s : State} {c : List Nat} {iso : Bool} {q : Nat} :
    Frame [.regs, .latch, .cnt64, .fls, .ums, .sram, .hostMem, .reports, .hostOut, .freeCtr, .hbm, .fab, .logPtr, .fe, .tr, .pw, .flt, .hostReads] s (State.cutGroup s c iso q) := by
  unfold State.cutGroup
  dsimp only
  split
  · exact .refl
  · refine Frame.trans ?_ (Frame.foldl (fun s x => ?_))
    · refine Frame.ite ?_ ?_
      · refine Frame.step State.seqSet_frame rfl ?_
        refine Frame.step State.memPutN_frame rfl ?_
        refine Frame.step State.setGroup_frame rfl ?_
        exact .refl
      · refine Frame.step State.memPutN_frame rfl ?_
        refine Frame.step State.setGroup_frame rfl ?_
        exact .refl
    · refine Frame.ite ?_ ?_
      · refine Frame.step State.endLaunch_frame rfl ?_
        exact .refl
      · exact .refl

theorem execSplitDeclare_frame {s : State} :
    ∃ out, execSplitDeclare s = .next out ∧ Frame [.regs, .latch, .cnt64, .fls, .ums, .sram, .hostMem, .reports, .hostOut, .freeCtr, .hbm, .fab, .logPtr, .fe, .tr, .pw, .flt, .hostReads] s out := by
  refine ⟨_, rfl, ?_⟩
  refine Frame.ite ?_ ?_
  · exact .refl
  · dsimp only
    refine Frame.trans ?_ (Frame.foldl (fun s x => ?_))
    · refine Frame.step State.report_frame rfl ?_
      refine Frame.step State.event_frame rfl ?_
      refine Frame.step State.orReg_frame rfl ?_
      refine Frame.step State.setFab_frame rfl ?_
      exact .refl
    · refine Frame.ite ?_ ?_
      · exact .refl
      · refine Frame.step State.cutGroup_frame rfl ?_
        exact .refl

theorem execJoinAdmit_frame {v : DevId} {s : State} :
    ∃ out, execJoinAdmit v s = .next out ∧ Frame [.regs, .cnt64, .sram, .hostMem, .reports, .hostOut, .hbm, .fab, .logPtr, .pw, .hostReads] s out := by
  refine ⟨_, rfl, ?_⟩
  refine Frame.ite ?_ ?_
  · dsimp only
    refine Frame.trans ?_ (Frame.foldl (fun s x => ?_))
    · refine Frame.step State.setReach_frame rfl ?_
      refine Frame.step State.setFab_frame rfl ?_
      exact .refl
    · refine Frame.ite ?_ ?_
      · refine Frame.step State.setGroup_frame rfl ?_
        exact .refl
      · exact .refl
  · exact .refl

theorem execLinkProbe_frame {l : LinkId} {ok : Bool} {peerDev : DevId} {peer : PeerEnd} {s : State} :
    ∃ out, execLinkProbe l ok peerDev peer s = .next out ∧ Frame [.regs, .cnt64, .fls, .ums, .sram, .hostMem, .reports, .hostOut, .freeCtr, .hbm, .fab, .logPtr, .fe, .tr, .pw, .hostReads] s out := by
  refine ⟨_, rfl, ?_⟩
  dsimp only
  refine Frame.ite ?_ ?_
  · refine Frame.step State.flushLink_frame rfl ?_
    refine Frame.step State.floodLsa_frame rfl ?_
    refine Frame.step State.setLink_frame rfl ?_
    exact .refl
  · exact .refl

theorem State.steer_frame {s : State} {ofs : Int} {full : Bool} :
    Frame [.freeCtr, .fab] s (State.steer s ofs full) := by
  unfold State.steer
  dsimp only
  refine Frame.step State.setFab_frame rfl ?_
  refine Frame.step State.fresh_frame rfl ?_
  exact .refl

theorem State.sendTime_frame {s : State} {l : Nat} {m : TimeMsg} :
    Frame [.regs, .cnt64, .fab] s (State.sendTime s l m) := by
  unfold State.sendTime
  refine Frame.step State.emit_frame rfl ?_
  exact .refl

theorem State.timeReply_frame {s : State} {t1 : Nat} {t2 : Nat} {t3 : Nat} :
    Frame [.regs, .ftime, .hostOut, .freeCtr, .fab, .timeAcc, .boot] s (State.timeReply s t1 t2 t3) := by
  unfold State.timeReply
  dsimp only
  refine Frame.ite ?_ ?_
  · refine Frame.set_ftime_timeAcc_boot rfl ?_
    refine Frame.step State.setFab_frame rfl ?_
    exact .refl
  · refine Frame.step State.steer_frame rfl ?_
    refine Frame.ite ?_ ?_
    · refine Frame.step State.sticky_frame rfl ?_
      refine Frame.step State.setFab_frame rfl ?_
      exact .refl
    · refine Frame.step State.setFab_frame rfl ?_
      exact .refl

theorem execPktTime_frame {l : LinkId} {k : TimeKind} {x : TimeStamps} {s : State} :
    ∃ out, execPktTime l k x s = .next out ∧ Frame [.regs, .cnt64, .ftime, .hostOut, .freeCtr, .fab, .timeAcc, .boot] s out := by
  refine ⟨_, rfl, ?_⟩
  dsimp only
  split
  · refine Frame.ite ?_ ?_
    · refine Frame.step State.sendTime_frame rfl ?_
      refine Frame.step State.setFab_frame rfl ?_
      exact .refl
    · exact .refl
  · refine Frame.ite ?_ ?_
    · refine Frame.step State.sendTime_frame rfl ?_
      refine Frame.step State.rx_frame rfl ?_
      exact .refl
    · refine Frame.step State.rx_frame rfl ?_
      exact .refl
  · refine Frame.ite ?_ ?_
    · refine Frame.step State.timeReply_frame rfl ?_
      refine Frame.step State.rx_frame rfl ?_
      exact .refl
    · refine Frame.step State.rx_frame rfl ?_
      exact .refl

theorem execTimeHoldover_frame {s : State} :
    ∃ out, execTimeHoldover s = .next out ∧ Frame [.fab] s out := by
  refine ⟨_, rfl, ?_⟩
  refine Frame.ite ?_ ?_
  · refine Frame.step State.setFab_frame rfl ?_
    exact .refl
  · exact .refl

theorem execPpsEdge_frame {s : State} :
    ∃ out, execPpsEdge s = .next out ∧ Frame [.freeCtr, .fab] s out := by
  refine ⟨_, rfl, ?_⟩
  refine Frame.ite ?_ ?_
  · dsimp only
    refine Frame.ite ?_ ?_
    · exact .refl
    · refine Frame.step State.steer_frame rfl ?_
      refine Frame.step State.setFab_frame rfl ?_
      exact .refl
  · exact .refl

theorem State.setGroup_keeps {s : State} {q : Nat} {st : Nat} : Keeps s (State.setGroup s q st) := by
  unfold State.setGroup
  refine Keeps.trans ?_ State.memPutN_keeps
  exact .refl

theorem State.cutGroup_keeps {s : State} {c : List Nat} {iso : Bool} {q : Nat} : Keeps s (State.cutGroup s c iso q) := by
  unfold State.cutGroup
  dsimp only
  split
  · exact .refl
  · refine Keeps.trans ?_ (Keeps.foldl (fun s x => ?_))
    · refine Keeps.ite ?_ ?_
      · refine Keeps.trans ?_ State.seqSet_keeps
        refine Keeps.trans ?_ State.memPutN_keeps
        refine Keeps.trans ?_ State.setGroup_keeps
        exact .refl
      · refine Keeps.trans ?_ State.memPutN_keeps
        refine Keeps.trans ?_ State.setGroup_keeps
        exact .refl
    · refine Keeps.ite ?_ ?_
      · refine Keeps.trans ?_ State.endLaunch_keeps
        exact .refl
      · exact .refl

theorem execSplitDeclare_keeps {s : State} :
    ∃ out, execSplitDeclare s = .next out ∧ Keeps s out := by
  refine ⟨_, rfl, ?_⟩
  refine Keeps.ite ?_ ?_
  · exact .refl
  · dsimp only
    refine Keeps.trans ?_ (Keeps.foldl (fun s x => ?_))
    · refine Keeps.frame State.report_frame rfl ?_
      refine Keeps.frame State.event_frame rfl ?_
      refine Keeps.frame State.orReg_frame rfl ?_
      refine Keeps.frame State.setFab_frame rfl ?_
      exact .refl
    · refine Keeps.ite ?_ ?_
      · exact .refl
      · refine Keeps.trans ?_ State.cutGroup_keeps
        exact .refl

theorem execJoinAdmit_keeps {v : DevId} {s : State} :
    ∃ out, execJoinAdmit v s = .next out ∧ Keeps s out := by
  refine ⟨_, rfl, ?_⟩
  refine Keeps.ite ?_ ?_
  · dsimp only
    refine Keeps.trans ?_ (Keeps.foldl (fun s x => ?_))
    · refine Keeps.frame State.setReach_frame rfl ?_
      refine Keeps.frame State.setFab_frame rfl ?_
      exact .refl
    · refine Keeps.ite ?_ ?_
      · refine Keeps.trans ?_ State.setGroup_keeps
        exact .refl
      · exact .refl
  · exact .refl

theorem execLinkProbe_keeps {l : LinkId} {ok : Bool} {peerDev : DevId} {peer : PeerEnd} {s : State} :
    ∃ out, execLinkProbe l ok peerDev peer s = .next out ∧ Keeps s out := by
  refine ⟨_, rfl, ?_⟩
  dsimp only
  refine Keeps.ite ?_ ?_
  · refine Keeps.trans ?_ State.flushLink_keeps
    refine Keeps.frame State.floodLsa_frame rfl ?_
    refine Keeps.frame State.setLink_frame rfl ?_
    exact .refl
  · exact .refl

end Sys2Proof.Machine
end

