-- ==== Sys2Proof/Laws/HbmCmds.lean ====
section
/-! SUPPORT. What each operation and each meaning of Machine/HbmCmds.lean can change at most: the pieces of the state outside
its list stay as they are. -/

namespace Sys2Proof.Machine

theorem State.onHbm_frame {ps : List Piece} {b s : State} {a : Nat} {wr : Bool} {k : Nat → State}
    (hw : Piece.within [.regs, .logPtr] ps = true) (h : Frame ps b s) (hk : ∀ a, Frame ps b (k a)) : Frame ps b (s.onHbm a wr k) := by
  unfold State.onHbm
  dsimp only
  split
  · exact Frame.step State.addrErr_frame (Piece.within_trans rfl hw) h
  · exact Frame.ite (hk _) h

theorem execHbmRead_frame {a : W42} {e : Ecc} {s : State} :
    ∃ out, execHbmRead a e s = .next out ∧ Frame [.regs, .cnt64, .reports, .hostOut, .hbm, .logPtr] s out := by
  refine ⟨_, rfl, ?_⟩
  refine State.onHbm_frame rfl ?_ (fun _ => ?_)
  · exact .refl
  · refine Frame.step State.hbmRead_frame rfl ?_
    exact .refl

theorem execHbmWrite_frame {a : W42} {data : Line} {psn : Bool} {s : State} :
    ∃ out, execHbmWrite a data psn s = .next out ∧ Frame [.regs, .cnt64, .hbm, .logPtr] s out := by
  refine ⟨_, rfl, ?_⟩
  refine State.onHbm_frame rfl ?_ (fun _ => ?_)
  · exact .refl
  · refine Frame.step State.hbmWrite_frame rfl ?_
    exact .refl

theorem execHbmPartialWrite_frame {a : W42} {mask : W128} {data : Line} {e : Ecc} {s : State} :
    ∃ out, execHbmPartialWrite a mask data e s = .next out ∧ Frame [.regs, .cnt64, .reports, .hostOut, .hbm, .logPtr] s out := by
  refine ⟨_, rfl, ?_⟩
  refine State.onHbm_frame rfl ?_ (fun _ => ?_)
  · exact .refl
  · refine Frame.step State.hbmPartial_frame rfl ?_
    exact .refl

theorem State.putBadTag_frame {s : State} {p : Nat} {l : Line} : Frame [.hbm] s (s.putBadTag p l) := by
  unfold State.putBadTag
  exact Frame.set_hbm rfl .refl

theorem State.migLine_frame {s : State} {a : Nat} {e : Ecc} :
    Frame [.regs, .cnt64, .reports, .hostOut, .hbm, .logPtr] s (State.migLine s a e) := by
  unfold State.migLine
  dsimp only
  split
  · refine Frame.step State.putPhys_frame rfl ?_
    refine Frame.step State.hbmBytes_frame rfl ?_
    refine Frame.step State.physRead_frame rfl ?_
    exact .refl
  · refine Frame.step State.putPhys_frame rfl ?_
    refine Frame.step State.hbmBytes_frame rfl ?_
    refine Frame.step State.physRead_frame rfl ?_
    exact .refl
  · refine Frame.step State.putBadTag_frame rfl ?_
    refine Frame.step State.hbmBytes_frame rfl ?_
    refine Frame.step State.physRead_frame rfl ?_
    exact .refl
  · refine Frame.step State.putPhys_frame rfl ?_
    refine Frame.step State.hbmBytes_frame rfl ?_
    refine Frame.step State.physRead_frame rfl ?_
    exact .refl
  · refine Frame.step State.putBadTag_frame rfl ?_
    refine Frame.step State.hbmBytes_frame rfl ?_
    refine Frame.step State.physRead_frame rfl ?_
    exact .refl

theorem execMigrationCopy_frame {e : GranuleEcc} {s : State} :
    ∃ out, execMigrationCopy e s = .next out ∧ Frame [.regs, .cnt64, .reports, .hostOut, .hbm, .logPtr] s out := by
  refine ⟨_, rfl, ?_⟩
  split
  · exact .refl
  · dsimp only
    refine Frame.ite ?_ ?_
    · exact .refl
    · refine Frame.ite ?_ ?_
      · refine Frame.set_hbm rfl ?_
        exact .refl
      · refine Frame.ite ?_ ?_
        · exact .refl
        · refine Frame.set_hbm rfl ?_
          refine Frame.step State.addReg_frame rfl ?_
          refine Frame.step State.migLine_frame rfl ?_
          refine Frame.step State.migLine_frame rfl ?_
          exact .refl

theorem execMapSwitch_frame {s : State} :
    ∃ out, execMapSwitch s = .next out ∧ Frame [.regs, .reports, .hostOut, .hbm] s out := by
  refine ⟨_, rfl, ?_⟩
  dsimp only
  split
  · exact .refl
  · refine Frame.ite ?_ ?_
    · exact .refl
    · split
      · refine Frame.ite ?_ ?_
        · refine Frame.step State.startRetire_frame rfl ?_
          refine Frame.trans ?_ (Frame.foldl (fun s x => ?_))
          · refine Frame.set_hbm rfl ?_
            exact .refl
          · refine Frame.step State.event_frame rfl ?_
            exact .refl
        · refine Frame.trans ?_ (Frame.foldl (fun s x => ?_))
          · refine Frame.set_hbm rfl ?_
            exact .refl
          · refine Frame.step State.event_frame rfl ?_
            exact .refl
      · refine Frame.trans ?_ (Frame.foldl (fun s x => ?_))
        · refine Frame.set_hbm rfl ?_
          exact .refl
        · refine Frame.step State.event_frame rfl ?_
          exact .refl

theorem execHbmThermSample_frame {k : StackId} {temp : Nat} {s : State} :
    ∃ out, execHbmThermSample k temp s = .next out ∧ Frame [.regs, .reports, .hostOut, .hbm] s out := by
  refine ⟨_, rfl, ?_⟩
  dsimp only
  refine Frame.ite ?_ ?_
  · exact .refl
  · refine Frame.ite ?_ ?_
    · refine Frame.step State.report_frame rfl ?_
      refine Frame.step State.sticky_frame rfl ?_
      refine Frame.ite ?_ ?_
      · refine Frame.step State.event_frame rfl ?_
        refine Frame.step State.setStk_frame rfl ?_
        exact .refl
      · refine Frame.step State.setStk_frame rfl ?_
        exact .refl
    · refine Frame.ite ?_ ?_
      · refine Frame.step State.event_frame rfl ?_
        refine Frame.step State.setStk_frame rfl ?_
        exact .refl
      · refine Frame.step State.setStk_frame rfl ?_
        exact .refl

theorem execSelfRefreshEntry_frame {k : StackId} {s : State} :
    ∃ out, execSelfRefreshEntry k s = .next out ∧ Frame [.hbm] s out := by
  refine ⟨_, rfl, ?_⟩
  dsimp only
  refine Frame.ite ?_ ?_
  · refine Frame.step State.setStk_frame rfl ?_
    exact .refl
  · exact .refl

theorem execSelfRefreshExit_frame {k : StackId} {s : State} :
    ∃ out, execSelfRefreshExit k s = .next out ∧ Frame [.hbm] s out := by
  refine ⟨_, rfl, ?_⟩
  dsimp only
  refine Frame.ite ?_ ?_
  · refine Frame.step State.setStk_frame rfl ?_
    exact .refl
  · exact .refl

theorem State.fillStart_frame {s : State} {k : Nat} :
    Frame [.regs, .hbm] s (State.fillStart s k) := by
  unfold State.fillStart
  dsimp only
  refine Frame.ite ?_ ?_
  · exact .refl
  · refine Frame.set_hbm rfl ?_
    refine Frame.step State.setReg_frame rfl ?_
    refine Frame.step State.stkTouch_frame rfl ?_
    refine Frame.step State.setStk_frame rfl ?_
    exact .refl

theorem State.fillDone_frame {s : State} {k : Nat} :
    Frame [.regs, .cnt64, .freeCtr, .hbm] s (State.fillDone s k) := by
  unfold State.fillDone
  dsimp only
  refine Frame.ite ?_ ?_
  · exact .refl
  · refine Frame.step State.setStk_frame rfl ?_
    refine Frame.step State.setReg_frame rfl ?_
    refine Frame.step State.cnt_frame rfl ?_
    refine Frame.trans ?_ (Frame.foldl (fun s x => ?_))
    · refine Frame.trans ?_ (Frame.foldl (fun s x => ?_))
      · exact .refl
      · refine Frame.ite ?_ ?_
        · refine Frame.set_hbm rfl ?_
          refine Frame.step State.fresh_frame rfl ?_
          exact .refl
        · refine Frame.step State.fresh_frame rfl ?_
          exact .refl
    · refine Frame.set_cnt64 rfl ?_
      exact .refl

theorem execFillStack_frame {k : StackId} {s : State} :
    ∃ out, execFillStack k s = .next out ∧ Frame [.regs, .hbm] s out := by
  refine ⟨_, rfl, ?_⟩
  refine Frame.step State.fillStart_frame rfl ?_
  exact .refl

theorem execFillEnd_frame {k : StackId} {s : State} :
    ∃ out, execFillEnd k s = .next out ∧ Frame [.regs, .cnt64, .freeCtr, .hbm] s out := by
  refine ⟨_, rfl, ?_⟩
  refine Frame.step State.fillDone_frame rfl ?_
  exact .refl

theorem State.mrgWrite_frame {s : State} {k : Nat} {v : Nat} :
    Frame [.regs, .hbm] s (State.mrgWrite s k v) := by
  unfold State.mrgWrite
  dsimp only
  refine Frame.ite ?_ ?_
  · refine Frame.step State.setReg_frame rfl ?_
    exact .refl
  · refine Frame.ite ?_ ?_
    · refine Frame.step State.setReg_frame rfl ?_
      refine Frame.step State.setStk_frame rfl ?_
      refine Frame.step State.setReg_frame rfl ?_
      exact .refl
    · refine Frame.step State.orReg_frame rfl ?_
      refine Frame.step State.setReg_frame rfl ?_
      exact .refl

theorem execMarginStart_frame {k : StackId} {v : W32} {s : State} :
    ∃ out, execMarginStart k v s = .next out ∧ Frame [.regs, .hbm] s out := by
  refine ⟨_, rfl, ?_⟩
  refine Frame.step State.mrgWrite_frame rfl ?_
  exact .refl

theorem execMarginDone_frame {k : StackId} {lo : W8} {hi : W8} {s : State} :
    ∃ out, execMarginDone k lo hi s = .next out ∧ Frame [.regs, .hbm] s out := by
  refine ⟨_, rfl, ?_⟩
  dsimp only
  refine Frame.ite ?_ ?_
  · refine Frame.step State.setReg_frame rfl ?_
    refine Frame.step State.setStk_frame rfl ?_
    exact .refl
  · exact .refl

theorem State.onHbm_keeps {b s : State} {a : Nat} {wr : Bool} {k : Nat → State} (h : Keeps b s)
    (hk : ∀ a, Keeps b (k a)) : Keeps b (s.onHbm a wr k) := by
  unfold State.onHbm
  dsimp only
  split
  · exact Keeps.frame State.addrErr_frame rfl h
  · exact Keeps.ite (hk _) h

theorem execHbmRead_keeps {a : W42} {e : Ecc} {s : State} :
    ∃ out, execHbmRead a e s = .next out ∧ Keeps s out := by
  refine ⟨_, rfl, ?_⟩
  refine State.onHbm_keeps ?_ (fun _ => ?_)
  · exact .refl
  · refine Keeps.trans ?_ State.hbmRead_keeps
    exact .refl

theorem execHbmWrite_keeps {a : W42} {data : Line} {psn : Bool} {s : State} :
    ∃ out, execHbmWrite a data psn s = .next out ∧ Keeps s out := by
  refine ⟨_, rfl, ?_⟩
  refine State.onHbm_keeps ?_ (fun _ => ?_)
  · exact .refl
  · refine Keeps.trans ?_ State.hbmWrite_keeps
    exact .refl

theorem execHbmPartialWrite_keeps {a : W42} {mask : W128} {data : Line} {e : Ecc} {s : State} :
    ∃ out, execHbmPartialWrite a mask data e s = .next out ∧ Keeps s out := by
  refine ⟨_, rfl, ?_⟩
  refine State.onHbm_keeps ?_ (fun _ => ?_)
  · exact .refl
  · refine Keeps.trans ?_ State.hbmPartial_keeps
    exact .refl

theorem State.putBadTag_keeps {s : State} {p : Nat} {l : Line} : Keeps s (s.putBadTag p l) := by
  unfold State.putBadTag
  exact Keeps.set_hbm Memory.writeLine_wf .refl

theorem State.migLine_keeps {s : State} {a : Nat} {e : Ecc} : Keeps s (State.migLine s a e) := by
  unfold State.migLine
  dsimp only
  split
  · refine Keeps.trans ?_ State.putPhys_keeps
    refine Keeps.trans ?_ State.hbmBytes_keeps
    refine Keeps.trans ?_ State.physRead_keeps
    exact .refl
  · refine Keeps.trans ?_ State.putPhys_keeps
    refine Keeps.trans ?_ State.hbmBytes_keeps
    refine Keeps.trans ?_ State.physRead_keeps
    exact .refl
  · refine Keeps.trans ?_ State.putBadTag_keeps
    refine Keeps.trans ?_ State.hbmBytes_keeps
    refine Keeps.trans ?_ State.physRead_keeps
    exact .refl
  · refine Keeps.trans ?_ State.putPhys_keeps
    refine Keeps.trans ?_ State.hbmBytes_keeps
    refine Keeps.trans ?_ State.physRead_keeps
    exact .refl
  · refine Keeps.trans ?_ State.putBadTag_keeps
    refine Keeps.trans ?_ State.hbmBytes_keeps
    refine Keeps.trans ?_ State.physRead_keeps
    exact .refl

theorem execMigrationCopy_keeps {e : GranuleEcc} {s : State} :
    ∃ out, execMigrationCopy e s = .next out ∧ Keeps s out := by
  refine ⟨_, rfl, ?_⟩
  split
  · exact .refl
  · dsimp only
    refine Keeps.ite ?_ ?_
    · exact .refl
    · refine Keeps.ite ?_ ?_
      · refine Keeps.set_hbm id ?_
        exact .refl
      · refine Keeps.ite ?_ ?_
        · exact .refl
        · refine Keeps.set_hbm id ?_
          refine Keeps.frame State.addReg_frame rfl ?_
          refine Keeps.trans ?_ State.migLine_keeps
          refine Keeps.trans ?_ State.migLine_keeps
          exact .refl

theorem execMapSwitch_keeps {s : State} :
    ∃ out, execMapSwitch s = .next out ∧ Keeps s out := by
  refine ⟨_, rfl, ?_⟩
  dsimp only
  split
  · exact .refl
  · refine Keeps.ite ?_ ?_
    · exact .refl
    · split
      · refine Keeps.ite ?_ ?_
        · refine Keeps.trans ?_ State.startRetire_keeps
          refine Keeps.trans ?_ (Keeps.foldl (fun s x => ?_))
          · refine Keeps.set_hbm id ?_
            exact .refl
          · refine Keeps.frame State.event_frame rfl ?_
            exact .refl
        · refine Keeps.trans ?_ (Keeps.foldl (fun s x => ?_))
          · refine Keeps.set_hbm id ?_
            exact .refl
          · refine Keeps.frame State.event_frame rfl ?_
            exact .refl
      · refine Keeps.trans ?_ (Keeps.foldl (fun s x => ?_))
        · refine Keeps.set_hbm id ?_
          exact .refl
        · refine Keeps.frame State.event_frame rfl ?_
          exact .refl

theorem execHbmThermSample_keeps {k : StackId} {temp : Nat} {s : State} :
    ∃ out, execHbmThermSample k temp s = .next out ∧ Keeps s out := by
  refine ⟨_, rfl, ?_⟩
  dsimp only
  refine Keeps.ite ?_ ?_
  · exact .refl
  · refine Keeps.ite ?_ ?_
    · refine Keeps.frame State.report_frame rfl ?_
      refine Keeps.frame State.sticky_frame rfl ?_
      refine Keeps.ite ?_ ?_
      · refine Keeps.frame State.event_frame rfl ?_
        refine Keeps.trans ?_ State.setStk_keeps
        exact .refl
      · refine Keeps.trans ?_ State.setStk_keeps
        exact .refl
    · refine Keeps.ite ?_ ?_
      · refine Keeps.frame State.event_frame rfl ?_
        refine Keeps.trans ?_ State.setStk_keeps
        exact .refl
      · refine Keeps.trans ?_ State.setStk_keeps
        exact .refl

theorem execSelfRefreshEntry_keeps {k : StackId} {s : State} :
    ∃ out, execSelfRefreshEntry k s = .next out ∧ Keeps s out := by
  refine ⟨_, rfl, ?_⟩
  dsimp only
  refine Keeps.ite ?_ ?_
  · refine Keeps.trans ?_ State.setStk_keeps
    exact .refl
  · exact .refl

theorem execSelfRefreshExit_keeps {k : StackId} {s : State} :
    ∃ out, execSelfRefreshExit k s = .next out ∧ Keeps s out := by
  refine ⟨_, rfl, ?_⟩
  dsimp only
  refine Keeps.ite ?_ ?_
  · refine Keeps.trans ?_ State.setStk_keeps
    exact .refl
  · exact .refl

theorem State.fillStart_keeps {s : State} {k : Nat} : Keeps s (State.fillStart s k) := by
  unfold State.fillStart
  dsimp only
  refine Keeps.ite ?_ ?_
  · exact .refl
  · refine Keeps.set_hbm (fun h => by with_reducible exact Memory.wf_eraseIf h) ?_
    refine Keeps.frame State.setReg_frame rfl ?_
    refine Keeps.trans ?_ State.stkTouch_keeps
    refine Keeps.trans ?_ State.setStk_keeps
    exact .refl

theorem State.fillDone_keeps {s : State} {k : Nat} : Keeps s (State.fillDone s k) := by
  unfold State.fillDone
  dsimp only
  refine Keeps.ite ?_ ?_
  · exact .refl
  · refine Keeps.trans ?_ State.setStk_keeps
    refine Keeps.frame State.setReg_frame rfl ?_
    refine Keeps.frame State.cnt_frame rfl ?_
    refine Keeps.trans ?_ (Keeps.foldl (fun s x => ?_))
    · refine Keeps.trans ?_ (Keeps.foldl (fun s x => ?_))
      · exact .refl
      · refine Keeps.ite ?_ ?_
        · refine Keeps.set_hbm (fun h => by with_reducible exact Memory.writeLine_wf h) ?_
          refine Keeps.frame State.fresh_frame rfl ?_
          exact .refl
        · refine Keeps.frame State.fresh_frame rfl ?_
          exact .refl
    · refine Keeps.set_cnt64 ?_
      exact .refl

theorem execFillStack_keeps {k : StackId} {s : State} :
    ∃ out, execFillStack k s = .next out ∧ Keeps s out := by
  refine ⟨_, rfl, ?_⟩
  refine Keeps.trans ?_ State.fillStart_keeps
  exact .refl

theorem execFillEnd_keeps {k : StackId} {s : State} :
    ∃ out, execFillEnd k s = .next out ∧ Keeps s out := by
  refine ⟨_, rfl, ?_⟩
  refine Keeps.trans ?_ State.fillDone_keeps
  exact .refl

theorem State.mrgWrite_keeps {s : State} {k : Nat} {v : Nat} : Keeps s (State.mrgWrite s k v) := by
  unfold State.mrgWrite
  dsimp only
  refine Keeps.ite ?_ ?_
  · refine Keeps.frame State.setReg_frame rfl ?_
    exact .refl
  · refine Keeps.ite ?_ ?_
    · refine Keeps.frame State.setReg_frame rfl ?_
      refine Keeps.trans ?_ State.setStk_keeps
      refine Keeps.frame State.setReg_frame rfl ?_
      exact .refl
    · refine Keeps.frame State.orReg_frame rfl ?_
      refine Keeps.frame State.setReg_frame rfl ?_
      exact .refl

theorem execMarginStart_keeps {k : StackId} {v : W32} {s : State} :
    ∃ out, execMarginStart k v s = .next out ∧ Keeps s out := by
  refine ⟨_, rfl, ?_⟩
  refine Keeps.trans ?_ State.mrgWrite_keeps
  exact .refl

theorem execMarginDone_keeps {k : StackId} {lo : W8} {hi : W8} {s : State} :
    ∃ out, execMarginDone k lo hi s = .next out ∧ Keeps s out := by
  refine ⟨_, rfl, ?_⟩
  dsimp only
  refine Keeps.ite ?_ ?_
  · refine Keeps.frame State.setReg_frame rfl ?_
    refine Keeps.trans ?_ State.setStk_keeps
    exact .refl
  · exact .refl

end Sys2Proof.Machine
end

