-- ==== Sys2Proof/Laws/Power.lean ====
section
/-! SUPPORT. What each operation and each meaning of Machine/Power.lean can change at most: the pieces of the state outside
its list stay as they are. -/

namespace Sys2Proof.Machine

theorem execCurrentFastTick_frame {est : ListNat} {s : State} :
    ∃ out, execCurrentFastTick est s = .next out ∧ Frame [.pw] s out := by
  refine ⟨_, rfl, ?_⟩
  refine Frame.trans ?_ (Frame.foldl (fun s x => ?_))
  · exact .refl
  · split
    · exact .refl
    · dsimp only
      refine Frame.step State.setRail_frame rfl ?_
      exact .refl

theorem State.senseRail_frame {s : State} {rd : RailReading} :
    Frame [.pw] s (State.senseRail s rd) := by
  unfold State.senseRail
  dsimp only
  refine Frame.step State.setRail_frame rfl ?_
  exact .refl

theorem State.slowRail_frame {s : State} {rd : RailReading} :
    Frame [.pw] s (State.slowRail s rd) := by
  unfold State.slowRail
  dsimp only
  refine Frame.ite ?_ ?_
  · exact .refl
  · refine Frame.step State.setRail_frame rfl ?_
    exact .refl

theorem State.raiseRead_frame {s : State} {r : Nat} {near : Bool} :
    Frame [.regs, .hostOut, .pw] s (State.raiseRead s r near) := by
  unfold State.raiseRead
  dsimp only
  refine Frame.ite ?_ ?_
  · exact .refl
  · refine Frame.ite ?_ ?_
    · refine Frame.step State.event_frame rfl ?_
      refine Frame.step State.orReg_frame rfl ?_
      refine Frame.step State.setRail_frame rfl ?_
      exact .refl
    · refine Frame.ite ?_ ?_
      · refine Frame.step State.setRail_frame rfl ?_
        exact .refl
      · exact .refl

theorem State.fallbackStep_frame {s : State} :
    Frame [.regs, .hostOut, .pw] s (State.fallbackStep s) := by
  unfold State.fallbackStep
  dsimp only
  refine Frame.ite ?_ ?_
  · refine Frame.ite ?_ ?_
    · refine Frame.step State.setPw_frame rfl ?_
      refine Frame.trans ?_ (Frame.foldl (fun s x => ?_))
      · exact .refl
      · refine Frame.step State.setRail_frame rfl ?_
        exact .refl
    · exact .refl
  · refine Frame.ite ?_ ?_
    · exact .refl
    · refine Frame.step State.event_frame rfl ?_
      refine Frame.step State.setPw_frame rfl ?_
      exact .refl

theorem State.warnStep_frame {s : State} {p : Nat} :
    Frame [.regs, .hostOut, .pw] s (State.warnStep s p) := by
  unfold State.warnStep
  refine Frame.ite ?_ ?_
  · exact .refl
  · refine Frame.ite ?_ ?_
    · refine Frame.step State.setPw_frame rfl ?_
      exact .refl
    · refine Frame.ite ?_ ?_
      · refine Frame.step State.setPw_frame rfl ?_
        exact .refl
      · refine Frame.step State.event_frame rfl ?_
        refine Frame.step State.orReg_frame rfl ?_
        exact .refl

theorem execAvsSample_frame {rd : AvsReading} {s : State} :
    ∃ out, execAvsSample rd s = .next out ∧ Frame [.regs, .hostOut, .pw] s out := by
  refine ⟨_, rfl, ?_⟩
  dsimp only
  refine Frame.step State.warnStep_frame rfl ?_
  refine Frame.step State.setPw_frame rfl ?_
  refine Frame.trans ?_ (Frame.foldl (fun s x => ?_))
  · refine Frame.step State.fallbackStep_frame rfl ?_
    refine Frame.trans ?_ (Frame.foldl (fun s x => ?_))
    · refine Frame.trans ?_ (Frame.foldl (fun s x => ?_))
      · exact .refl
      · refine Frame.step State.senseRail_frame rfl ?_
        exact .refl
    · refine Frame.step State.raiseRead_frame rfl ?_
      exact .refl
  · refine Frame.step State.slowRail_frame rfl ?_
    exact .refl

theorem State.phaseRead_frame {s : State} {r : Nat} {all : List Nat} :
    Frame [.regs, .hostOut, .pw] s (State.phaseRead s r all) := by
  unfold State.phaseRead
  dsimp only
  refine Frame.trans ?_ (Frame.foldl (fun s x => ?_))
  · refine Frame.step State.setRail_frame rfl ?_
    exact .refl
  · refine Frame.step State.event_frame rfl ?_
    exact .refl

theorem State.statusRead_frame {s : State} {sts : List VrStatus} :
    Frame [.pw] s (State.statusRead s sts) := by
  unfold State.statusRead
  dsimp only
  refine Frame.ite ?_ ?_
  · refine Frame.step State.setPw_frame rfl ?_
    refine Frame.trans ?_ (Frame.foldl (fun s x => ?_))
    · exact .refl
    · split
      · exact .refl
      · refine Frame.step State.setRail_frame rfl ?_
        exact .refl
  · refine Frame.trans ?_ (Frame.foldl (fun s x => ?_))
    · exact .refl
    · split
      · exact .refl
      · refine Frame.step State.setRail_frame rfl ?_
        exact .refl

theorem execPmbusSample_frame {rd : PmbReading} {s : State} :
    ∃ out, execPmbusSample rd s = .next out ∧ Frame [.regs, .hostOut, .pw] s out := by
  refine ⟨_, rfl, ?_⟩
  dsimp only
  refine Frame.trans ?_ (Frame.foldl (fun s x => ?_))
  · refine Frame.step State.statusRead_frame rfl ?_
    refine Frame.trans ?_ (Frame.foldl (fun s x => ?_))
    · exact .refl
    · split
      · refine Frame.step State.phaseRead_frame rfl ?_
        exact .refl
      · exact .refl
  · split
    · refine Frame.step State.setRail_frame rfl ?_
      exact .refl
    · exact .refl

theorem execPmbAlertFall_frame {sts : ListVr} {s : State} :
    ∃ out, execPmbAlertFall sts s = .next out ∧ Frame [.pw] s out := by
  refine ⟨_, rfl, ?_⟩
  refine Frame.step State.statusRead_frame rfl ?_
  exact .refl

theorem execVrFaultFall_frame {rail : Fin3} {s : State} :
    ∃ out, execVrFaultFall rail s = .next out ∧ Frame [.regs, .hostOut, .pw] s out := by
  refine ⟨_, rfl, ?_⟩
  refine Frame.step State.event_frame rfl ?_
  refine Frame.step State.setRail_frame rfl ?_
  exact .refl

theorem execVrStatusRead_frame {rail : Fin3} {st : VrStatus} {s : State} :
    ∃ out, execVrStatusRead rail st s = .next out ∧ Frame [.reports, .pw] s out := by
  refine ⟨_, rfl, ?_⟩
  dsimp only
  refine Frame.ite ?_ ?_
  · exact .refl
  · refine Frame.ite ?_ ?_
    · refine Frame.step State.report_frame rfl ?_
      refine Frame.ite ?_ ?_
      · refine Frame.step State.setRail_frame rfl ?_
        exact .refl
      · refine Frame.step State.setRail_frame rfl ?_
        exact .refl
    · refine Frame.ite ?_ ?_
      · refine Frame.step State.setRail_frame rfl ?_
        exact .refl
      · refine Frame.step State.setRail_frame rfl ?_
        exact .refl

theorem execVrFault3Fall_frame {rail : RailId} {st : VrStatus} {s : State} :
    ∃ out, execVrFault3Fall rail st s = .next out ∧ Frame [.regs, .reports, .hostOut, .pw] s out := by
  refine ⟨_, rfl, ?_⟩
  refine Frame.ite ?_ ?_
  · exact .refl
  · dsimp only
    refine Frame.ite ?_ ?_
    · refine Frame.step State.report_frame rfl ?_
      refine Frame.ite ?_ ?_
      · refine Frame.step State.setPw_frame rfl ?_
        refine Frame.step State.event_frame rfl ?_
        exact .refl
      · refine Frame.step State.event_frame rfl ?_
        exact .refl
    · refine Frame.ite ?_ ?_
      · refine Frame.step State.setPw_frame rfl ?_
        refine Frame.step State.event_frame rfl ?_
        exact .refl
      · refine Frame.step State.event_frame rfl ?_
        exact .refl

theorem execPhaseHealthyExpiry_frame {rail : Fin3} {s : State} :
    ∃ out, execPhaseHealthyExpiry rail s = .next out ∧ Frame [.pw] s out := by
  refine ⟨_, rfl, ?_⟩
  dsimp only
  refine Frame.ite ?_ ?_
  · refine Frame.step State.setRail_frame rfl ?_
    exact .refl
  · exact .refl

theorem execMarginLoopTick_frame {u : UmbelId} {slack : Slack} {s : State} :
    ∃ out, execMarginLoopTick u slack s = .next out ∧ Frame [.pw] s out := by
  refine ⟨_, rfl, ?_⟩
  dsimp only
  refine Frame.ite ?_ ?_
  · exact .refl
  · refine Frame.ite ?_ ?_
    · refine Frame.step State.setPwUmb_frame rfl ?_
      exact .refl
    · refine Frame.ite ?_ ?_
      · refine Frame.step State.retune_frame rfl ?_
        refine Frame.step State.setPwUmb_frame rfl ?_
        exact .refl
      · refine Frame.ite ?_ ?_
        · refine Frame.step State.retune_frame rfl ?_
          refine Frame.step State.setPwUmb_frame rfl ?_
          exact .refl
        · refine Frame.step State.setPwUmb_frame rfl ?_
          exact .refl

theorem execCpmAlarm_frame {u : UmbelId} {alarm : Bool} {s : State} :
    ∃ out, execCpmAlarm u alarm s = .next out ∧ Frame [.pw] s out := by
  refine ⟨_, rfl, ?_⟩
  dsimp only
  refine Frame.ite ?_ ?_
  · exact .refl
  · refine Frame.ite ?_ ?_
    · refine Frame.step State.setPwUmb_frame rfl ?_
      exact .refl
    · refine Frame.step State.setPwUmb_frame rfl ?_
      exact .refl

theorem execStretchEnd_frame {u : UmbelId} {s : State} :
    ∃ out, execStretchEnd u s = .next out ∧ Frame [.pw] s out := by
  refine ⟨_, rfl, ?_⟩
  dsimp only
  refine Frame.ite ?_ ?_
  · exact .refl
  · refine Frame.step State.setPwUmb_frame rfl ?_
    exact .refl

theorem execLinkEqTick_frame {l : LinkId} {lane : Fin8} {s : State} :
    ∃ out, execLinkEqTick l lane s = .next out ∧ Frame [.pw] s out := by
  refine ⟨_, rfl, ?_⟩
  refine Frame.ite ?_ ?_
  · dsimp only
    refine Frame.step State.setPw_frame rfl ?_
    exact .refl
  · exact .refl

theorem State.tripNow_frame {s : State} {u : Nat} :
    Frame [.regs, .reports, .hostOut, .pw] s (State.tripNow s u) := by
  unfold State.tripNow
  refine Frame.ite ?_ ?_
  · exact .refl
  · dsimp only
    refine Frame.step State.report_frame rfl ?_
    refine Frame.step State.event_frame rfl ?_
    refine Frame.trans ?_ (Frame.foldl (fun s x => ?_))
    · refine Frame.trans ?_ (Frame.foldl (fun s x => ?_))
      · refine Frame.step State.setPw_frame rfl ?_
        exact .refl
      · refine Frame.step State.setPwUmb_frame rfl ?_
        exact .refl
    · refine Frame.step State.setRail_frame rfl ?_
      exact .refl

theorem execThermalTick_frame {u : UmbelId} {quarterDeg : Nat} {s : State} :
    ∃ out, execThermalTick u quarterDeg s = .next out ∧ Frame [.regs, .reports, .hostOut, .pw] s out := by
  refine ⟨_, rfl, ?_⟩
  dsimp only
  refine Frame.ite ?_ ?_
  · refine Frame.step State.tripNow_frame rfl ?_
    refine Frame.ite ?_ ?_
    · refine Frame.step State.event_frame rfl ?_
      refine Frame.step State.orReg_frame rfl ?_
      refine Frame.step State.setPwUmb_frame rfl ?_
      exact .refl
    · refine Frame.step State.setPwUmb_frame rfl ?_
      exact .refl
  · refine Frame.ite ?_ ?_
    · refine Frame.step State.event_frame rfl ?_
      refine Frame.step State.orReg_frame rfl ?_
      refine Frame.step State.setPwUmb_frame rfl ?_
      exact .refl
    · refine Frame.step State.setPwUmb_frame rfl ?_
      exact .refl

theorem execDieOvertemp_frame {u : UmbelId} {s : State} :
    ∃ out, execDieOvertemp u s = .next out ∧ Frame [.reports] s out := by
  refine ⟨_, rfl, ?_⟩
  dsimp only
  refine Frame.ite ?_ ?_
  · refine Frame.step State.report_frame rfl ?_
    exact .refl
  · exact .refl

theorem execThermtrip_frame {u : UmbelId} {s : State} :
    ∃ out, execThermtrip u s = .next out ∧ Frame [.regs, .reports, .hostOut, .pw] s out := by
  refine ⟨_, rfl, ?_⟩
  refine Frame.step State.tripNow_frame rfl ?_
  exact .refl

theorem execAclkStep_frame {u : UmbelId} {s : State} :
    ∃ out, execAclkStep u s = .next out ∧ Frame [.pw] s out := by
  refine ⟨_, rfl, ?_⟩
  dsimp only
  refine Frame.ite ?_ ?_
  · exact .refl
  · refine Frame.ite ?_ ?_
    · refine Frame.step State.retune_frame rfl ?_
      refine Frame.step State.setPwUmb_frame rfl ?_
      exact .refl
    · refine Frame.ite ?_ ?_
      · refine Frame.ite ?_ ?_
        · refine Frame.step State.setPwUmb_frame rfl ?_
          exact .refl
        · refine Frame.ite ?_ ?_
          · exact .refl
          · refine Frame.trans ?_ (Frame.foldl (fun s x => ?_))
            · exact .refl
            · refine Frame.step State.setVolt_frame rfl ?_
              exact .refl
      · exact .refl

theorem execVoltageReached_frame {rail : Fin3} {s : State} :
    ∃ out, execVoltageReached rail s = .next out ∧ Frame [.regs, .hostOut, .pw] s out := by
  refine ⟨_, rfl, ?_⟩
  refine Frame.step State.raiseRead_frame rfl ?_
  exact .refl

theorem execPwrwarnFall_frame {pf : Nat} {pu : Nat} {ph : Nat} {s : State} :
    ∃ out, execPwrwarnFall pf pu ph s = .next out ∧ Frame [.regs, .hostOut, .pw] s out := by
  refine ⟨_, rfl, ?_⟩
  refine Frame.ite ?_ ?_
  · exact .refl
  · dsimp only
    refine Frame.step State.event_frame rfl ?_
    refine Frame.step State.setPw_frame rfl ?_
    exact .refl

theorem execPwrwarnRise_frame {s : State} :
    ∃ out, execPwrwarnRise s = .next out ∧ Frame [.pw] s out := by
  refine ⟨_, rfl, ?_⟩
  refine Frame.ite ?_ ?_
  · refine Frame.step State.setPw_frame rfl ?_
    exact .refl
  · exact .refl

theorem execPwrwarnReleaseTick_frame {s : State} :
    ∃ out, execPwrwarnReleaseTick s = .next out ∧ Frame [.pw] s out := by
  refine ⟨_, rfl, ?_⟩
  dsimp only
  refine Frame.ite ?_ ?_
  · exact .refl
  · refine Frame.ite ?_ ?_
    · exact .refl
    · refine Frame.ite ?_ ?_
      · refine Frame.step State.retune_frame rfl ?_
        refine Frame.step State.setPw_frame rfl ?_
        exact .refl
      · refine Frame.step State.setPw_frame rfl ?_
        exact .refl

theorem execUmbelWake_frame {u : UmbelId} {s : State} :
    ∃ out, execUmbelWake u s = .next out ∧ Frame [.pw] s out := by
  refine ⟨_, rfl, ?_⟩
  refine Frame.ite ?_ ?_
  · refine Frame.step State.startWake_frame rfl ?_
    exact .refl
  · exact .refl

theorem execUmbelWakeDone_frame {u : UmbelId} {s : State} :
    ∃ out, execUmbelWakeDone u s = .next out ∧ Frame [.ums, .pw] s out := by
  refine ⟨_, rfl, ?_⟩
  dsimp only
  refine Frame.ite ?_ ?_
  · exact .refl
  · refine Frame.step State.retune_frame rfl ?_
    refine Frame.ite ?_ ?_
    · refine Frame.step State.gateWake_frame rfl ?_
      refine Frame.step State.modUm_frame rfl ?_
      refine Frame.step State.setPwUmb_frame rfl ?_
      exact .refl
    · refine Frame.step State.setPwUmb_frame rfl ?_
      exact .refl

theorem execClockGate_frame {u : UmbelId} {s : State} :
    ∃ out, execClockGate u s = .next out ∧ Frame [.pw] s out := by
  refine ⟨_, rfl, ?_⟩
  dsimp only
  refine Frame.ite ?_ ?_
  · refine Frame.step State.setPwUmb_frame rfl ?_
    exact .refl
  · exact .refl

theorem execPhaseHoldExpiry_frame {u : UmbelId} {s : State} :
    ∃ out, execPhaseHoldExpiry u s = .next out ∧ Frame [.pw] s out := by
  refine ⟨_, rfl, ?_⟩
  dsimp only
  refine Frame.ite ?_ ?_
  · exact .refl
  · refine Frame.ite ?_ ?_
    · refine Frame.step State.retune_frame rfl ?_
      refine Frame.step State.setPwUmb_frame rfl ?_
      exact .refl
    · refine Frame.ite ?_ ?_
      · refine Frame.step State.setPwUmb_frame rfl ?_
        exact .refl
      · exact .refl

end Sys2Proof.Machine
end

