-- ==== Sys2Proof/Laws/Faults.lean ====
section
/-! SUPPORT. What each operation and each meaning of Machine/Faults.lean can change at most: the pieces of the state outside
its list stay as they are. -/

namespace Sys2Proof.Machine

theorem State.setFlt_frame {s : State} {x : Faults} :
    Frame [.flt] s (State.setFlt s x) := by
  unfold State.setFlt
  refine Frame.set_flt rfl ?_
  exact .refl

theorem State.send_frame {s : State} {m : MgmtMsg} :
    Frame [.mgmt] s (State.send s m) := by
  unfold State.send
  refine Frame.set_mgmt rfl ?_
  exact .refl

theorem State.exportRec_frame {s : State} {n : Nat} :
    Frame [.flt, .mgmt] s (State.exportRec s n) := by
  unfold State.exportRec
  split
  · dsimp only
    refine Frame.step State.send_frame rfl ?_
    refine Frame.step State.setFlt_frame rfl ?_
    exact .refl
  · exact .refl

theorem State.logRec_frame {s : State} {bytes : Nat} {cls : Nat} :
    Frame [.flt, .mgmt] s (State.logRec s bytes cls) := by
  unfold State.logRec
  dsimp only
  refine Frame.ite ?_ ?_
  · refine Frame.set_mgmt rfl ?_
    refine Frame.step State.exportRec_frame rfl ?_
    refine Frame.step State.setFlt_frame rfl ?_
    exact .refl
  · split
    · refine Frame.step State.setFlt_frame rfl ?_
      exact .refl
    · refine Frame.set_mgmt rfl ?_
      refine Frame.step State.exportRec_frame rfl ?_
      refine Frame.step State.setFlt_frame rfl ?_
      exact .refl

theorem State.recordFault_frame {s : State} {code : Nat} {part : Nat} {un : FUnit} {x : Nat} {t : Option Nat} :
    Frame [.regs, .hostOut, .tr, .flt, .mgmt] s (State.recordFault s code part un x t) := by
  unfold State.recordFault
  dsimp only
  split
  · refine Frame.step State.traceUmc_frame rfl ?_
    refine Frame.step State.logRec_frame rfl ?_
    exact .refl
  · refine Frame.step State.traceUmc_frame rfl ?_
    refine Frame.step State.logRec_frame rfl ?_
    exact .refl

theorem State.ackRecs_frame {s : State} {p : Nat → Bool} :
    Frame [.flt] s (State.ackRecs s p) := by
  unfold State.ackRecs
  refine Frame.step State.setFlt_frame rfl ?_
  exact .refl

theorem execUmcFaultAck_frame {upto : W32} {s : State} :
    ∃ out, execUmcFaultAck upto s = .next out ∧ Frame [.flt] s out := by
  refine ⟨_, rfl, ?_⟩
  refine Frame.step State.ackRecs_frame rfl ?_
  exact .refl

theorem execManagementReplyAck_frame {n : Nat} {s : State} :
    ∃ out, execManagementReplyAck n s = .next out ∧ Frame [.flt] s out := by
  refine ⟨_, rfl, ?_⟩
  refine Frame.step State.ackRecs_frame rfl ?_
  exact .refl

theorem execFaultRecordResend_frame {n : Nat} {s : State} :
    ∃ out, execFaultRecordResend n s = .next out ∧ Frame [.flt, .mgmt] s out := by
  refine ⟨_, rfl, ?_⟩
  split
  · refine Frame.ite ?_ ?_
    · refine Frame.step State.exportRec_frame rfl ?_
      exact .refl
    · exact .refl
  · exact .refl

theorem State.partErr_frame {s : State} :
    Frame [.regs] s (State.partErr s) := by
  unfold State.partErr
  refine Frame.step State.orReg_frame rfl ?_
  exact .refl

theorem State.partUp_frame {s : State} {p : Nat} :
    Frame [.regs, .pw, .flt] s (State.partUp s p) := by
  unfold State.partUp
  dsimp only
  refine Frame.ite ?_ ?_
  · exact .refl
  · refine Frame.ite ?_ ?_
    · refine Frame.step State.partErr_frame rfl ?_
      exact .refl
    · refine Frame.trans ?_ (Frame.foldl (fun s x => ?_))
      · refine Frame.step State.setPart_frame rfl ?_
        exact .refl
      · refine Frame.step State.startWake_frame rfl ?_
        exact .refl

theorem State.partDown_frame {s : State} {p : Nat} :
    Frame [.regs, .latch, .cnt64, .fls, .ums, .fab, .logPtr, .pw, .flt, .hostReads] s (State.partDown s p) := by
  unfold State.partDown
  dsimp only
  refine Frame.ite ?_ ?_
  · refine Frame.step State.partErr_frame rfl ?_
    exact .refl
  · refine Frame.ite ?_ ?_
    · exact .refl
    · refine Frame.step State.retune_frame rfl ?_
      refine Frame.trans ?_ (Frame.foldl (fun s x => ?_))
      · refine Frame.step State.setPart_frame rfl ?_
        exact .refl
      · refine Frame.step State.gateUmbel_frame rfl ?_
        exact .refl

theorem State.partMaskWrite_frame {s : State} {p : Nat} {m : W32} :
    Frame [.regs, .latch, .cnt64, .fls, .ums, .fab, .logPtr, .pw, .hostReads] s (State.partMaskWrite s p m) := by
  unfold State.partMaskWrite
  dsimp only
  refine Frame.ite ?_ ?_
  · refine Frame.step State.partErr_frame rfl ?_
    exact .refl
  · refine Frame.ite ?_ ?_
    · refine Frame.step State.setReg_frame rfl ?_
      exact .refl
    · refine Frame.step State.retune_frame rfl ?_
      refine Frame.trans ?_ (Frame.foldl (fun s x => ?_))
      · refine Frame.step State.setReg_frame rfl ?_
        exact .refl
      · refine Frame.ite ?_ ?_
        · refine Frame.step State.startWake_frame rfl ?_
          exact .refl
        · refine Frame.ite ?_ ?_
          · refine Frame.step State.gateUmbel_frame rfl ?_
            exact .refl
          · exact .refl

theorem execPartLiveWrite_frame {p : PartId} {live : Bool} {s : State} :
    ∃ out, execPartLiveWrite p live s = .next out ∧ Frame [.regs, .latch, .cnt64, .fls, .ums, .fab, .logPtr, .pw, .flt, .hostReads] s out := by
  refine ⟨_, rfl, ?_⟩
  refine Frame.ite ?_ ?_
  · refine Frame.step State.partUp_frame rfl ?_
    exact .refl
  · refine Frame.step State.partDown_frame rfl ?_
    exact .refl

theorem State.haltUmbel_frame {s : State} {u : Nat} :
    Frame [.fls, .ums] s (State.haltUmbel s u) := by
  unfold State.haltUmbel
  dsimp only
  refine Frame.step State.modUm_frame rfl ?_
  refine Frame.trans ?_ (Frame.foldl (fun s x => ?_))
  · exact .refl
  · refine Frame.step State.modFl_frame rfl ?_
    exact .refl

theorem State.endPart_frame {s : State} {p : Nat} {why : Option (Nat × Nat)} :
    Frame [.regs, .latch, .cnt64, .fls, .ums, .sram, .hostMem, .reports, .hostOut, .freeCtr, .hbm, .fab, .logPtr, .fe, .tr, .pw, .flt, .hostReads] s (State.endPart s p why) := by
  unfold State.endPart
  refine Frame.trans ?_ (Frame.foldl (fun s x => ?_))
  · exact .refl
  · dsimp only
    refine Frame.ite ?_ ?_
    · split
      · refine Frame.ite ?_ ?_
        · refine Frame.step State.endLaunch_frame rfl ?_
          exact .refl
        · refine Frame.step State.endLaunch_frame rfl ?_
          exact .refl
      · refine Frame.step State.endLaunch_frame rfl ?_
        exact .refl
    · exact .refl

theorem State.dropSweep_frame {s : State} {us : List Nat} :
    Frame [.flt] s (State.dropSweep s us) := by
  unfold State.dropSweep
  split
  · refine Frame.ite ?_ ?_
    · refine Frame.step State.setFlt_frame rfl ?_
      exact .refl
    · exact .refl
  · exact .refl

theorem State.quiescePart_frame {s : State} {p : Nat} {why : Option (Nat × Nat)} :
    Frame [.regs, .latch, .cnt64, .fls, .ums, .sram, .hostMem, .reports, .hostOut, .freeCtr, .hbm, .fab, .logPtr, .fe, .tr, .pw, .flt, .hostReads] s (State.quiescePart s p why) := by
  unfold State.quiescePart
  dsimp only
  refine Frame.trans ?_ (Frame.foldl (fun s x => ?_))
  · refine Frame.step State.dropSweep_frame rfl ?_
    refine Frame.step State.endPart_frame rfl ?_
    exact .refl
  · refine Frame.step State.haltUmbel_frame rfl ?_
    exact .refl

theorem State.startRecovery_frame {s : State} {p : Nat} {code : Nat} {counted : Bool} {why : Option (Nat × Nat)} :
    Frame [.regs, .latch, .cnt64, .fls, .ums, .sram, .hostMem, .reports, .hostOut, .freeCtr, .hbm, .fab, .logPtr, .fe, .tr, .pw, .flt, .hostReads] s (State.startRecovery s p code counted why) := by
  unfold State.startRecovery
  dsimp only
  refine Frame.step State.quiescePart_frame rfl ?_
  refine Frame.ite ?_ ?_
  · refine Frame.step State.setPart_frame rfl ?_
    exact .refl
  · refine Frame.step State.event_frame rfl ?_
    refine Frame.step State.setPart_frame rfl ?_
    exact .refl

theorem State.retirePart_frame {s : State} {p : Nat} :
    Frame [.regs, .latch, .cnt64, .fls, .ums, .hostOut, .fab, .logPtr, .pw, .flt, .boot, .hostReads] s (State.retirePart s p) := by
  unfold State.retirePart
  dsimp only
  refine Frame.ite ?_ ?_
  · refine Frame.step State.event_frame rfl ?_
    refine Frame.set_flt_boot rfl ?_
    refine Frame.step State.event_frame rfl ?_
    refine Frame.step State.retune_frame rfl ?_
    refine Frame.trans ?_ (Frame.foldl (fun s x => ?_))
    · refine Frame.step State.setFlt_frame rfl ?_
      refine Frame.step State.setPart_frame rfl ?_
      exact .refl
    · refine Frame.step State.gateUmbel_frame rfl ?_
      exact .refl
  · refine Frame.step State.event_frame rfl ?_
    refine Frame.step State.retune_frame rfl ?_
    refine Frame.trans ?_ (Frame.foldl (fun s x => ?_))
    · refine Frame.step State.setFlt_frame rfl ?_
      refine Frame.step State.setPart_frame rfl ?_
      exact .refl
    · refine Frame.step State.gateUmbel_frame rfl ?_
      exact .refl

theorem execPartReset_frame {p : PartId} {s : State} :
    ∃ out, execPartReset p s = .next out ∧ Frame [.regs, .latch, .cnt64, .fls, .ums, .sram, .hostMem, .reports, .hostOut, .freeCtr, .hbm, .fab, .logPtr, .fe, .tr, .pw, .flt, .hostReads] s out := by
  refine ⟨_, rfl, ?_⟩
  refine Frame.ite ?_ ?_
  · refine Frame.step State.startRecovery_frame rfl ?_
    exact .refl
  · refine Frame.step State.partErr_frame rfl ?_
    exact .refl

theorem execQuiesceEnd_frame {p : PartId} {s : State} :
    ∃ out, execQuiesceEnd p s = .next out ∧ Frame [.regs, .latch, .cnt64, .fls, .ums, .fab, .logPtr, .flt, .hostReads] s out := by
  refine ⟨_, rfl, ?_⟩
  dsimp only
  refine Frame.ite ?_ ?_
  · refine Frame.step State.setPart_frame rfl ?_
    refine Frame.trans ?_ (Frame.foldl (fun s x => ?_))
    · exact .refl
    · refine Frame.step State.modUm_frame rfl ?_
      refine Frame.step State.umbelReset_frame rfl ?_
      exact .refl
  · exact .refl

theorem execRecoveryResetEnd_frame {p : PartId} {s : State} :
    ∃ out, execRecoveryResetEnd p s = .next out ∧ Frame [.regs, .latch, .cnt64, .fls, .ums, .hostOut, .fab, .logPtr, .pw, .flt, .boot, .hostReads] s out := by
  refine ⟨_, rfl, ?_⟩
  dsimp only
  refine Frame.ite ?_ ?_
  · refine Frame.ite ?_ ?_
    · refine Frame.step State.retirePart_frame rfl ?_
      exact .refl
    · refine Frame.step State.setPart_frame rfl ?_
      refine Frame.trans ?_ (Frame.foldl (fun s x => ?_))
      · exact .refl
      · refine Frame.ite ?_ ?_
        · exact .refl
        · refine Frame.step State.gateWake_frame rfl ?_
          refine Frame.step State.modUm_frame rfl ?_
          exact .refl
  · exact .refl

theorem State.scrubUmbel_frame {s : State} {u : Nat} :
    Frame [.sram, .sramBad] s (State.scrubUmbel s u) := by
  unfold State.scrubUmbel
  dsimp only
  refine Frame.set_sram_sramBad rfl ?_
  exact .refl

theorem State.preload_frame {s : State} {f : Nat} :
    Frame [.regs, .cnt64, .fls, .sram, .sramBad, .reports, .hostOut, .hbm, .logPtr, .fe, .pw] s (State.preload s f) := by
  unfold State.preload
  split
  · exact .refl
  · dsimp only
    split
    · refine Frame.step State.putStatic_frame rfl ?_
      refine Frame.trans ?_ (Frame.foldl (fun s x => ?_))
      · refine Frame.step State.loadProg_frame rfl ?_
        refine Frame.step State.image_frame rfl ?_
        exact .refl
      · refine Frame.step State.modFl_frame rfl ?_
        refine Frame.step State.cfgFeed_frame rfl ?_
        exact .refl
    · exact .refl

theorem execScrubPreloadEnd_frame {p : PartId} {failed : OptUmbel} {s : State} :
    ∃ out, execScrubPreloadEnd p failed s = .next out ∧ Frame [.regs, .latch, .cnt64, .fls, .ums, .sram, .sramBad, .reports, .hostOut, .hbm, .fab, .logPtr, .fe, .tr, .pw, .flt, .boot, .mgmt, .hostReads] s out := by
  refine ⟨_, rfl, ?_⟩
  dsimp only
  refine Frame.ite ?_ ?_
  · split
    · refine Frame.step State.setPart_frame rfl ?_
      refine Frame.trans ?_ (Frame.foldl (fun s x => ?_))
      · refine Frame.trans ?_ (Frame.foldl (fun s x => ?_))
        · refine Frame.trans ?_ (Frame.foldl (fun s x => ?_))
          · exact .refl
          · refine Frame.step State.scrubUmbel_frame rfl ?_
            exact .refl
        · refine Frame.trans ?_ (Frame.foldl (fun s x => ?_))
          · exact .refl
          · refine Frame.step State.preload_frame rfl ?_
            exact .refl
      · refine Frame.step State.modUm_frame rfl ?_
        exact .refl
    · refine Frame.ite ?_ ?_
      · refine Frame.step State.retirePart_frame rfl ?_
        refine Frame.step State.recordFault_frame rfl ?_
        refine Frame.step State.setPart_frame rfl ?_
        exact .refl
      · exact .refl
  · exact .refl

theorem State.hwReport_frame {s : State} {x2 : HwFault} :
    Frame [.regs, .hostOut] s (State.hwReport s x2).2 := by
  unfold State.hwReport
  split
  · dsimp only
    exact .refl
  · dsimp only
    exact .refl
  · dsimp only
    refine Frame.step State.event_frame rfl ?_
    exact .refl

theorem State.takeFault_frame {s : State} {r : Report} :
    Frame [.regs, .latch, .cnt64, .fls, .ums, .sram, .hostMem, .reports, .hostOut, .freeCtr, .hbm, .fab, .logPtr, .fe, .tr, .pw, .flt, .mgmt, .hostReads] s (State.takeFault s r) := by
  unfold State.takeFault
  dsimp only
  split
  · split
    · refine Frame.ite ?_ ?_
      · refine Frame.step State.event_frame rfl ?_
        refine Frame.step State.addReg_frame rfl ?_
        refine Frame.step State.recordFault_frame rfl ?_
        exact .refl
      · refine Frame.ite ?_ ?_
        · refine Frame.step State.startRecovery_frame rfl ?_
          refine Frame.step State.recordFault_frame rfl ?_
          exact .refl
        · refine Frame.step State.recordFault_frame rfl ?_
          exact .refl
    · refine Frame.step State.recordFault_frame rfl ?_
      exact .refl
  · refine Frame.step State.setFlt_frame rfl ?_
    refine Frame.step State.recordFault_frame rfl ?_
    exact .refl
  · refine Frame.step State.setFlt_frame rfl ?_
    refine Frame.step State.recordFault_frame rfl ?_
    exact .refl
  · refine Frame.step State.recordFault_frame rfl ?_
    exact .refl

theorem execFaultReport_frame {hw : OptFault} {s : State} :
    ∃ out, execFaultReport hw s = .next out ∧ Frame [.regs, .latch, .cnt64, .fls, .ums, .sram, .hostMem, .reports, .hostOut, .freeCtr, .hbm, .fab, .logPtr, .fe, .tr, .pw, .flt, .mgmt, .hostReads] s out := by
  refine ⟨_, rfl, ?_⟩
  split
  · dsimp only
    refine Frame.step State.takeFault_frame rfl ?_
    refine Frame.step State.hwReport_frame rfl ?_
    exact .refl
  · split
    · exact .refl
    · refine Frame.step State.takeFault_frame rfl ?_
      refine Frame.set_reports rfl ?_
      exact .refl

theorem State.devStart_frame {s : State} {counted : Bool} :
    Frame [.regs, .latch, .cnt64, .fls, .ums, .sram, .hostMem, .reports, .hostOut, .freeCtr, .hbm, .fab, .logPtr, .fe, .tr, .pw, .flt, .hostReads] s (State.devStart s counted) := by
  unfold State.devStart
  refine Frame.ite ?_ ?_
  · exact .refl
  · dsimp only
    refine Frame.trans ?_ (Frame.foldl (fun s x => ?_))
    · refine Frame.step State.setFlt_frame rfl ?_
      exact .refl
    · refine Frame.step State.endLaunch_frame rfl ?_
      exact .refl

theorem execDeviceReset_frame {s : State} :
    ∃ out, execDeviceReset s = .next out ∧ Frame [.regs, .latch, .cnt64, .fls, .ums, .sram, .hostMem, .reports, .hostOut, .freeCtr, .hbm, .fab, .logPtr, .fe, .tr, .pw, .flt, .hostReads] s out := by
  refine ⟨_, rfl, ?_⟩
  refine Frame.ite ?_ ?_
  · refine Frame.step State.devStart_frame rfl ?_
    exact .refl
  · exact .refl

theorem execGlResetDevice_frame {s : State} :
    ∃ out, execGlResetDevice s = .next out ∧ Frame [.regs, .latch, .cnt64, .fls, .ums, .sram, .hostMem, .reports, .hostOut, .freeCtr, .hbm, .fab, .logPtr, .fe, .tr, .pw, .flt, .hostReads] s out := by
  refine ⟨_, rfl, ?_⟩
  refine Frame.step State.devStart_frame rfl ?_
  exact .refl

theorem execMgmtDeviceReset_frame {s : State} :
    ∃ out, execMgmtDeviceReset s = .next out ∧ Frame [.regs, .latch, .cnt64, .fls, .ums, .sram, .hostMem, .reports, .hostOut, .freeCtr, .hbm, .fab, .logPtr, .fe, .tr, .pw, .flt, .hostReads] s out := by
  refine ⟨_, rfl, ?_⟩
  refine Frame.step State.devStart_frame rfl ?_
  exact .refl

theorem execOosClear_frame {s : State} :
    ∃ out, execOosClear s = .next out ∧ Frame [.regs, .latch, .cnt64, .fls, .ums, .sram, .hostMem, .reports, .hostOut, .freeCtr, .hbm, .fab, .logPtr, .fe, .tr, .pw, .flt, .hostReads] s out := by
  refine ⟨_, rfl, ?_⟩
  refine Frame.step State.devStart_frame rfl ?_
  refine Frame.step State.setFlt_frame rfl ?_
  exact .refl

theorem State.stkDieReset_frame {s : State} {k : Nat} :
    Frame [.hbm] s (State.stkDieReset s k) := by
  unfold State.stkDieReset
  dsimp only
  refine Frame.set_hbm rfl ?_
  refine Frame.step State.setStk_frame rfl ?_
  exact .refl

theorem State.resetDie_frame {s : State} {h : Nat} {t : Nat} {code : Nat} :
    Frame [.regs, .latch, .cnt64, .fls, .ums, .sram, .hostMem, .reports, .hostOut, .freeCtr, .hbm, .fab, .logPtr, .fe, .tr, .pw, .flt, .hostReads] s (State.resetDie s h t code) := by
  unfold State.resetDie
  dsimp only
  refine Frame.step State.event_frame rfl ?_
  refine Frame.step State.pageReset_frame rfl ?_
  refine Frame.set_cnt64 rfl ?_
  refine Frame.trans ?_ (Frame.foldl (fun s x => ?_))
  · refine Frame.trans ?_ (Frame.foldl (fun s x => ?_))
    · refine Frame.trans ?_ (Frame.foldl (fun s x => ?_))
      · refine Frame.trans ?_ (Frame.foldl (fun s x => ?_))
        · refine Frame.step State.setFlt_frame rfl ?_
          refine Frame.trans ?_ (Frame.foldl (fun s x => ?_))
          · refine Frame.trans ?_ (Frame.foldl (fun s x => ?_))
            · exact .refl
            · refine Frame.step State.stkDieReset_frame rfl ?_
              refine Frame.step State.fillDone_frame rfl ?_
              exact .refl
          · refine Frame.ite ?_ ?_
            · refine Frame.step State.downLink_frame rfl ?_
              exact .refl
            · exact .refl
        · refine Frame.step State.endLaunch_frame rfl ?_
          exact .refl
      · refine Frame.step State.startRecovery_frame rfl ?_
        exact .refl
    · refine Frame.step State.pageReset_frame rfl ?_
      exact .refl
  · refine Frame.step State.pageReset_frame rfl ?_
    exact .refl

theorem execDieReset_frame {half : Bool} {s : State} :
    ∃ out, execDieReset half s = .next out ∧ Frame [.regs, .latch, .cnt64, .fls, .ums, .sram, .hostMem, .reports, .hostOut, .freeCtr, .hbm, .fab, .logPtr, .fe, .tr, .pw, .flt, .hostReads] s out := by
  refine ⟨_, rfl, ?_⟩
  dsimp only
  split
  · exact .refl
  · refine Frame.ite ?_ ?_
    · refine Frame.step State.devStart_frame rfl ?_
      refine Frame.step State.setFlt_frame rfl ?_
      exact .refl
    · refine Frame.step State.resetDie_frame rfl ?_
      refine Frame.step State.setFlt_frame rfl ?_
      exact .refl

theorem execDieResetEnd_frame {half : Bool} {s : State} :
    ∃ out, execDieResetEnd half s = .next out ∧ Frame [.flt] s out := by
  refine ⟨_, rfl, ?_⟩
  refine Frame.step State.setFlt_frame rfl ?_
  exact .refl

theorem execD2dLaneRepair_frame {half : Bool} {_lane : Nat} {s : State} :
    ∃ out, execD2dLaneRepair half _lane s = .next out ∧ Frame [.regs, .reports, .hostOut, .flt] s out := by
  refine ⟨_, rfl, ?_⟩
  dsimp only
  refine Frame.ite ?_ ?_
  · refine Frame.step State.setFlt_frame rfl ?_
    exact .refl
  · refine Frame.step State.report_frame rfl ?_
    refine Frame.step State.event_frame rfl ?_
    exact .refl

theorem execSweepTestStart_frame {a : FloretId} {b : FloretId} {cls : Fin8} {seed : W64} {s : State} :
    ∃ out, execSweepTestStart a b cls seed s = .next out ∧ Frame [.flt] s out := by
  refine ⟨_, rfl, ?_⟩
  refine Frame.ite ?_ ?_
  · refine Frame.step State.setFlt_frame rfl ?_
    exact .refl
  · exact .refl

theorem State.sweepCount_frame {s : State} {hi : Nat} {lo : Nat} {sat : Bool} :
    Frame [.regs] s (State.sweepCount s hi lo sat) := by
  unfold State.sweepCount
  dsimp only
  refine Frame.step State.setField_frame rfl ?_
  exact .refl

theorem execSweepTestEnd_frame {dA : W64} {dB : W64} {c : FloretId} {dC : W64} {s : State} :
    ∃ out, execSweepTestEnd dA dB c dC s = .next out ∧ Frame [.regs, .flt] s out := by
  refine ⟨_, rfl, ?_⟩
  split
  · exact .refl
  · refine Frame.ite ?_ ?_
    · exact .refl
    · refine Frame.ite ?_ ?_
      · refine Frame.step State.sweepCount_frame rfl ?_
        refine Frame.step State.setFlt_frame rfl ?_
        exact .refl
      · dsimp only
        refine Frame.ite ?_ ?_
        · exact .refl
        · refine Frame.step State.sweepCount_frame rfl ?_
          refine Frame.step State.setFlt_frame rfl ?_
          exact .refl

theorem State.sweepConfirm_frame {s : State} {w : SweepTest} {f : Nat} {bit : Nat} :
    Frame [.reports, .pw, .flt] s (State.sweepConfirm s w f bit) := by
  unfold State.sweepConfirm
  dsimp only
  refine Frame.ite ?_ ?_
  · refine Frame.step State.retune_frame rfl ?_
    refine Frame.step State.setPwUmb_frame rfl ?_
    refine Frame.step State.setFlt_frame rfl ?_
    refine Frame.step State.report_frame rfl ?_
    exact .refl
  · refine Frame.step State.setFlt_frame rfl ?_
    refine Frame.step State.report_frame rfl ?_
    exact .refl

theorem execSweepRerunEnd_frame {diff : OptDiff} {s : State} :
    ∃ out, execSweepRerunEnd diff s = .next out ∧ Frame [.regs, .reports, .pw, .flt] s out := by
  refine ⟨_, rfl, ?_⟩
  split
  · exact .refl
  · refine Frame.ite ?_ ?_
    · exact .refl
    · dsimp only
      split
      · refine Frame.step State.sweepCount_frame rfl ?_
        refine Frame.step State.setFlt_frame rfl ?_
        exact .refl
      · refine Frame.trans ?_ (Frame.foldl (fun s x => ?_))
        · refine Frame.step State.sweepCount_frame rfl ?_
          refine Frame.step State.setFlt_frame rfl ?_
          exact .refl
        · refine Frame.step State.sweepConfirm_frame rfl ?_
          exact .refl

theorem execSweepAbort_frame {t : SlotId} {s : State} :
    ∃ out, execSweepAbort t s = .next out ∧ Frame [.regs, .latch, .cnt64, .fls, .ums, .fab, .logPtr, .flt, .hostReads] s out := by
  refine ⟨_, rfl, ?_⟩
  split
  · exact .refl
  · dsimp only
    refine Frame.ite ?_ ?_
    · exact .refl
    · refine Frame.ite ?_ ?_
      · refine Frame.step State.setFlt_frame rfl ?_
        refine Frame.step State.floretReset_frame rfl ?_
        refine Frame.step State.floretReset_frame rfl ?_
        exact .refl
      · exact .refl

theorem State.endPart_keeps {s : State} {p : Nat} {why : Option (Nat × Nat)} : Keeps s (State.endPart s p why) := by
  unfold State.endPart
  refine Keeps.trans ?_ (Keeps.foldl (fun s x => ?_))
  · exact .refl
  · dsimp only
    refine Keeps.ite ?_ ?_
    · split
      · refine Keeps.ite ?_ ?_
        · refine Keeps.trans ?_ State.endLaunch_keeps
          exact .refl
        · refine Keeps.trans ?_ State.endLaunch_keeps
          exact .refl
      · refine Keeps.trans ?_ State.endLaunch_keeps
        exact .refl
    · exact .refl

theorem State.quiescePart_keeps {s : State} {p : Nat} {why : Option (Nat × Nat)} : Keeps s (State.quiescePart s p why) := by
  unfold State.quiescePart
  dsimp only
  refine Keeps.trans ?_ (Keeps.foldl (fun s x => ?_))
  · refine Keeps.frame State.dropSweep_frame rfl ?_
    refine Keeps.trans ?_ State.endPart_keeps
    exact .refl
  · refine Keeps.frame State.haltUmbel_frame rfl ?_
    exact .refl

theorem State.startRecovery_keeps {s : State} {p : Nat} {code : Nat} {counted : Bool} {why : Option (Nat × Nat)} : Keeps s (State.startRecovery s p code counted why) := by
  unfold State.startRecovery
  dsimp only
  refine Keeps.trans ?_ State.quiescePart_keeps
  refine Keeps.ite ?_ ?_
  · refine Keeps.frame State.setPart_frame rfl ?_
    exact .refl
  · refine Keeps.frame State.event_frame rfl ?_
    refine Keeps.frame State.setPart_frame rfl ?_
    exact .refl

theorem execPartReset_keeps {p : PartId} {s : State} :
    ∃ out, execPartReset p s = .next out ∧ Keeps s out := by
  refine ⟨_, rfl, ?_⟩
  refine Keeps.ite ?_ ?_
  · refine Keeps.trans ?_ State.startRecovery_keeps
    exact .refl
  · refine Keeps.frame State.partErr_frame rfl ?_
    exact .refl

theorem State.scrubUmbel_keeps {s : State} {u : Nat} : Keeps s (State.scrubUmbel s u) := by
  unfold State.scrubUmbel
  dsimp only
  refine Keeps.set_sram_sramBad Memory.wf_eraseIf ?_
  exact .refl

theorem State.preload_keeps {s : State} {f : Nat} : Keeps s (State.preload s f) := by
  unfold State.preload
  split
  · exact .refl
  · dsimp only
    split
    · refine Keeps.trans ?_ State.putStatic_keeps
      refine Keeps.trans ?_ (Keeps.foldl (fun s x => ?_))
      · refine Keeps.frame State.loadProg_frame rfl ?_
        refine Keeps.trans ?_ State.image_keeps
        exact .refl
      · refine Keeps.frame State.modFl_frame rfl ?_
        refine Keeps.frame State.cfgFeed_frame rfl ?_
        exact .refl
    · exact .refl

theorem execScrubPreloadEnd_keeps {p : PartId} {failed : OptUmbel} {s : State} :
    ∃ out, execScrubPreloadEnd p failed s = .next out ∧ Keeps s out := by
  refine ⟨_, rfl, ?_⟩
  dsimp only
  refine Keeps.ite ?_ ?_
  · split
    · refine Keeps.frame State.setPart_frame rfl ?_
      refine Keeps.trans ?_ (Keeps.foldl (fun s x => ?_))
      · refine Keeps.trans ?_ (Keeps.foldl (fun s x => ?_))
        · refine Keeps.trans ?_ (Keeps.foldl (fun s x => ?_))
          · exact .refl
          · refine Keeps.trans ?_ State.scrubUmbel_keeps
            exact .refl
        · refine Keeps.trans ?_ (Keeps.foldl (fun s x => ?_))
          · exact .refl
          · refine Keeps.trans ?_ State.preload_keeps
            exact .refl
      · refine Keeps.frame State.modUm_frame rfl ?_
        exact .refl
    · refine Keeps.ite ?_ ?_
      · refine Keeps.frame State.retirePart_frame rfl ?_
        refine Keeps.frame State.recordFault_frame rfl ?_
        refine Keeps.frame State.setPart_frame rfl ?_
        exact .refl
      · exact .refl
  · exact .refl

theorem State.takeFault_keeps {s : State} {r : Report} : Keeps s (State.takeFault s r) := by
  unfold State.takeFault
  dsimp only
  split
  · split
    · refine Keeps.ite ?_ ?_
      · refine Keeps.frame State.event_frame rfl ?_
        refine Keeps.frame State.addReg_frame rfl ?_
        refine Keeps.frame State.recordFault_frame rfl ?_
        exact .refl
      · refine Keeps.ite ?_ ?_
        · refine Keeps.trans ?_ State.startRecovery_keeps
          refine Keeps.frame State.recordFault_frame rfl ?_
          exact .refl
        · refine Keeps.frame State.recordFault_frame rfl ?_
          exact .refl
    · refine Keeps.frame State.recordFault_frame rfl ?_
      exact .refl
  · refine Keeps.frame State.setFlt_frame rfl ?_
    refine Keeps.frame State.recordFault_frame rfl ?_
    exact .refl
  · refine Keeps.frame State.setFlt_frame rfl ?_
    refine Keeps.frame State.recordFault_frame rfl ?_
    exact .refl
  · refine Keeps.frame State.recordFault_frame rfl ?_
    exact .refl

theorem execFaultReport_keeps {hw : OptFault} {s : State} :
    ∃ out, execFaultReport hw s = .next out ∧ Keeps s out := by
  refine ⟨_, rfl, ?_⟩
  split
  · dsimp only
    refine Keeps.trans ?_ State.takeFault_keeps
    refine Keeps.frame State.hwReport_frame rfl ?_
    exact .refl
  · split
    · exact .refl
    · refine Keeps.trans ?_ State.takeFault_keeps
      refine Keeps.set_reports ?_
      exact .refl

theorem State.devStart_keeps {s : State} {counted : Bool} : Keeps s (State.devStart s counted) := by
  unfold State.devStart
  refine Keeps.ite ?_ ?_
  · exact .refl
  · dsimp only
    refine Keeps.trans ?_ (Keeps.foldl (fun s x => ?_))
    · refine Keeps.frame State.setFlt_frame rfl ?_
      exact .refl
    · refine Keeps.trans ?_ State.endLaunch_keeps
      exact .refl

theorem execDeviceReset_keeps {s : State} :
    ∃ out, execDeviceReset s = .next out ∧ Keeps s out := by
  refine ⟨_, rfl, ?_⟩
  refine Keeps.ite ?_ ?_
  · refine Keeps.trans ?_ State.devStart_keeps
    exact .refl
  · exact .refl

theorem execGlResetDevice_keeps {s : State} :
    ∃ out, execGlResetDevice s = .next out ∧ Keeps s out := by
  refine ⟨_, rfl, ?_⟩
  refine Keeps.trans ?_ State.devStart_keeps
  exact .refl

theorem execMgmtDeviceReset_keeps {s : State} :
    ∃ out, execMgmtDeviceReset s = .next out ∧ Keeps s out := by
  refine ⟨_, rfl, ?_⟩
  refine Keeps.trans ?_ State.devStart_keeps
  exact .refl

theorem execOosClear_keeps {s : State} :
    ∃ out, execOosClear s = .next out ∧ Keeps s out := by
  refine ⟨_, rfl, ?_⟩
  refine Keeps.trans ?_ State.devStart_keeps
  refine Keeps.frame State.setFlt_frame rfl ?_
  exact .refl

theorem State.stkDieReset_keeps {s : State} {k : Nat} : Keeps s (State.stkDieReset s k) := by
  unfold State.stkDieReset
  dsimp only
  refine Keeps.set_hbm id ?_
  refine Keeps.trans ?_ State.setStk_keeps
  exact .refl

theorem State.resetDie_keeps {s : State} {h : Nat} {t : Nat} {code : Nat} : Keeps s (State.resetDie s h t code) := by
  unfold State.resetDie
  dsimp only
  refine Keeps.frame State.event_frame rfl ?_
  refine Keeps.frame State.pageReset_frame rfl ?_
  refine Keeps.set_cnt64 ?_
  refine Keeps.trans ?_ (Keeps.foldl (fun s x => ?_))
  · refine Keeps.trans ?_ (Keeps.foldl (fun s x => ?_))
    · refine Keeps.trans ?_ (Keeps.foldl (fun s x => ?_))
      · refine Keeps.trans ?_ (Keeps.foldl (fun s x => ?_))
        · refine Keeps.frame State.setFlt_frame rfl ?_
          refine Keeps.trans ?_ (Keeps.foldl (fun s x => ?_))
          · refine Keeps.trans ?_ (Keeps.foldl (fun s x => ?_))
            · exact .refl
            · refine Keeps.trans ?_ State.stkDieReset_keeps
              refine Keeps.trans ?_ State.fillDone_keeps
              exact .refl
          · refine Keeps.ite ?_ ?_
            · refine Keeps.frame State.downLink_frame rfl ?_
              exact .refl
            · exact .refl
        · refine Keeps.trans ?_ State.endLaunch_keeps
          exact .refl
      · refine Keeps.trans ?_ State.startRecovery_keeps
        exact .refl
    · refine Keeps.frame State.pageReset_frame rfl ?_
      exact .refl
  · refine Keeps.frame State.pageReset_frame rfl ?_
    exact .refl

theorem execDieReset_keeps {half : Bool} {s : State} :
    ∃ out, execDieReset half s = .next out ∧ Keeps s out := by
  refine ⟨_, rfl, ?_⟩
  dsimp only
  split
  · exact .refl
  · refine Keeps.ite ?_ ?_
    · refine Keeps.trans ?_ State.devStart_keeps
      refine Keeps.frame State.setFlt_frame rfl ?_
      exact .refl
    · refine Keeps.trans ?_ State.resetDie_keeps
      refine Keeps.frame State.setFlt_frame rfl ?_
      exact .refl

end Sys2Proof.Machine
end

