-- ==== Sys2Proof/Laws/Boot.lean ====
section
/-! SUPPORT. What each operation and each meaning of Machine/Boot.lean can change at most: the pieces of the state outside
its list stay as they are. -/

namespace Sys2Proof.Machine

theorem State.deviceReset_frame {s : State} :
    Frame [.regs, .latch, .cnt64, .fls, .ums, .sram, .hostMem, .reports, .hostOut, .hbm, .fab, .logPtr, .timeAcc, .fe, .tr, .pw, .flt, .sec, .snap, .compat, .hostReads] s (State.deviceReset s) := by
  unfold State.deviceReset
  dsimp only
  refine Frame.set_deviceReset rfl ?_
  refine Frame.trans ?_ (Frame.foldl (fun s x => ?_))
  · exact .refl
  · refine Frame.ite ?_ ?_
    · exact .refl
    · refine Frame.step State.seqSet_frame rfl ?_
      exact .refl

theorem State.bootTo_frame {s : State} {st : Nat} :
    Frame [.boot, .mgmt] s (State.bootTo s st) := by
  unfold State.bootTo
  refine Frame.set_boot_mgmt rfl ?_
  exact .refl

theorem State.bootFail_frame {s : State} {code : Nat} :
    Frame [.boot, .mgmt] s (State.bootFail s code) := by
  unfold State.bootFail
  refine Frame.step State.bootTo_frame rfl ?_
  refine Frame.set_boot rfl ?_
  exact .refl

theorem execDeviceResetRun_frame {s : State} :
    ∃ out, execDeviceResetRun s = .next out ∧ Frame [.regs, .latch, .cnt64, .fls, .ums, .sram, .hostMem, .reports, .hostOut, .hbm, .fab, .logPtr, .timeAcc, .fe, .tr, .pw, .flt, .sec, .snap, .boot, .mgmt, .compat, .hostReads] s out := by
  refine ⟨_, rfl, ?_⟩
  refine Frame.ite ?_ ?_
  · exact .refl
  · dsimp only
    refine Frame.ite ?_ ?_
    · refine Frame.step State.event_frame rfl ?_
      refine Frame.step State.bootTo_frame rfl ?_
      refine Frame.step State.setFlt_frame rfl ?_
      refine Frame.set_boot rfl ?_
      refine Frame.step State.deviceReset_frame rfl ?_
      exact .refl
    · refine Frame.step State.bootTo_frame rfl ?_
      refine Frame.set_boot rfl ?_
      refine Frame.step State.deviceReset_frame rfl ?_
      exact .refl

theorem State.aonReset_frame {s : State} :
    Frame [.regs, .latch, .cnt64, .fls, .ums, .sram, .sramBad, .ftime, .reports, .strap, .hbm, .fab, .logPtr, .timeAcc, .bme, .fe, .tr, .pw, .flt, .sec, .snap, .boot, .mgmt, .compat, .mse, .bar4, .hostReads] s (State.aonReset s) := by
  unfold State.aonReset
  dsimp only
  refine Frame.set_aonReset rfl ?_
  exact .refl

theorem execAonRstNFall_frame {s : State} :
    ∃ out, execAonRstNFall s = .next out ∧ Frame [.regs, .latch, .cnt64, .fls, .ums, .sram, .sramBad, .ftime, .reports, .strap, .hbm, .fab, .logPtr, .timeAcc, .bme, .fe, .tr, .pw, .flt, .sec, .snap, .boot, .mgmt, .compat, .mse, .bar4, .hostReads] s out := by
  refine ⟨_, rfl, ?_⟩
  refine Frame.step State.aonReset_frame rfl ?_
  exact .refl

theorem execVddAonLoss_frame {s : State} :
    ∃ out, execVddAonLoss s = .next out ∧ Frame [.regs, .latch, .cnt64, .fls, .ums, .sram, .sramBad, .ftime, .reports, .strap, .hbm, .fab, .logPtr, .timeAcc, .bme, .fe, .tr, .pw, .flt, .sec, .snap, .boot, .mgmt, .compat, .mse, .bar4, .hostReads] s out := by
  refine ⟨_, rfl, ?_⟩
  refine Frame.step State.aonReset_frame rfl ?_
  exact .refl

theorem execAonRstNRise_frame {s : State} :
    ∃ out, execAonRstNRise s = .next out ∧ Frame [.boot, .mgmt] s out := by
  refine ⟨_, rfl, ?_⟩
  refine Frame.ite ?_ ?_
  · refine Frame.step State.bootTo_frame rfl ?_
    refine Frame.set_boot rfl ?_
    exact .refl
  · exact .refl

theorem execAlwaysOnLock_frame {s : State} :
    ∃ out, execAlwaysOnLock s = .next out ∧ Frame [.pw, .boot, .mgmt] s out := by
  refine ⟨_, rfl, ?_⟩
  refine Frame.ite ?_ ?_
  · dsimp only
    refine Frame.step State.bootTo_frame rfl ?_
    refine Frame.trans ?_ (Frame.foldl (fun s x => ?_))
    · exact .refl
    · refine Frame.step State.setRail_frame rfl ?_
      exact .refl
  · exact .refl

theorem execRailWaitTimeout_frame {_rail : RailId} {s : State} :
    ∃ out, execRailWaitTimeout _rail s = .next out ∧ Frame [.boot, .mgmt] s out := by
  refine ⟨_, rfl, ?_⟩
  refine Frame.ite ?_ ?_
  · refine Frame.step State.bootFail_frame rfl ?_
    exact .refl
  · exact .refl

theorem execUmcBoot_frame {okA : Bool} {okB : Bool} {s : State} :
    ∃ out, execUmcBoot okA okB s = .next out ∧ Frame [.boot, .mgmt] s out := by
  refine ⟨_, rfl, ?_⟩
  refine Frame.ite ?_ ?_
  · exact .refl
  · refine Frame.ite ?_ ?_
    · refine Frame.step State.bootTo_frame rfl ?_
      refine Frame.set_boot rfl ?_
      exact .refl
    · refine Frame.step State.bootFail_frame rfl ?_
      refine Frame.set_boot rfl ?_
      exact .refl

theorem execRecoveryImageLoad_frame {s : State} :
    ∃ out, execRecoveryImageLoad s = .next out ∧ Frame [.boot, .mgmt] s out := by
  refine ⟨_, rfl, ?_⟩
  refine Frame.ite ?_ ?_
  · refine Frame.step State.bootTo_frame rfl ?_
    refine Frame.set_boot rfl ?_
    exact .refl
  · exact .refl

theorem State.applyEtt_frame {s : State} {t : List Nat} {r : State} (hr : State.applyEtt s t = some r) :
    Frame [.regs, .fab, .boot] s r := by
  unfold State.applyEtt at hr
  split at hr
  · cases hr
  · dsimp only at hr
    obtain rfl := Option.some.inj hr
    refine Frame.set_fab_boot rfl ?_
    refine Frame.step State.setReg_frame rfl ?_
    refine Frame.step State.setField_frame rfl ?_
    exact .refl

theorem execSetEtt_frame {t : ListNat} {s : State} :
    ∃ out, execSetEtt t s = .next out ∧ Frame [.regs, .fab, .boot, .mgmt] s out := by
  refine ⟨_, rfl, ?_⟩
  refine Frame.ite ?_ ?_
  · exact .refl
  · refine Frame.ite ?_ ?_
    · refine Frame.step State.send_frame rfl ?_
      exact .refl
    · dsimp only
      refine Frame.ite ?_ ?_
      · refine Frame.set_boot rfl ?_
        exact .refl
      · split
        · refine Frame.ite ?_ ?_
          · refine Frame.set_boot rfl ?_
            exact .refl
          · refine Frame.step State.bootFail_frame rfl ?_
            refine Frame.set_boot rfl ?_
            exact .refl
        · refine Frame.ite ?_ ?_
          · refine Frame.set_boot rfl ?_
            refine Frame.step (State.applyEtt_frame (by assumption)) rfl ?_
            refine Frame.set_boot rfl ?_
            exact .refl
          · refine Frame.step (State.applyEtt_frame (by assumption)) rfl ?_
            refine Frame.set_boot rfl ?_
            exact .refl

theorem execConfiguration_frame {c : ConfigInput} {s : State} :
    ∃ out, execConfiguration c s = .next out ∧ Frame [.regs, .strap, .hbm, .fab, .pw, .flt, .sec, .boot, .mgmt] s out := by
  refine ⟨_, rfl, ?_⟩
  refine Frame.ite ?_ ?_
  · exact .refl
  · refine Frame.ite ?_ ?_
    · refine Frame.step State.bootFail_frame rfl ?_
      exact .refl
    · dsimp only
      refine Frame.ite ?_ ?_
      · refine Frame.step State.bootTo_frame rfl ?_
        refine Frame.ite ?_ ?_
        · refine Frame.set_hbm_sec_boot rfl ?_
          refine Frame.trans ?_ (Frame.foldl (fun s x => ?_))
          · refine Frame.set_strap_flt rfl ?_
            exact .refl
          · refine Frame.step State.setRail_frame rfl ?_
            exact .refl
        · refine Frame.set_boot rfl ?_
          refine Frame.trans ?_ (Frame.foldl (fun s x => ?_))
          · refine Frame.set_strap_flt rfl ?_
            exact .refl
          · refine Frame.step State.setRail_frame rfl ?_
            exact .refl
      · split
        · refine Frame.step State.bootFail_frame rfl ?_
          refine Frame.ite ?_ ?_
          · refine Frame.set_hbm_sec_boot rfl ?_
            refine Frame.trans ?_ (Frame.foldl (fun s x => ?_))
            · refine Frame.set_strap_flt rfl ?_
              exact .refl
            · refine Frame.step State.setRail_frame rfl ?_
              exact .refl
          · refine Frame.set_boot rfl ?_
            refine Frame.trans ?_ (Frame.foldl (fun s x => ?_))
            · refine Frame.set_strap_flt rfl ?_
              exact .refl
            · refine Frame.step State.setRail_frame rfl ?_
              exact .refl
        · refine Frame.step State.bootTo_frame rfl ?_
          refine Frame.step (State.applyEtt_frame (by assumption)) rfl ?_
          refine Frame.ite ?_ ?_
          · refine Frame.set_hbm_sec_boot rfl ?_
            refine Frame.trans ?_ (Frame.foldl (fun s x => ?_))
            · refine Frame.set_strap_flt rfl ?_
              exact .refl
            · refine Frame.step State.setRail_frame rfl ?_
              exact .refl
          · refine Frame.set_boot rfl ?_
            refine Frame.trans ?_ (Frame.foldl (fun s x => ?_))
            · refine Frame.set_strap_flt rfl ?_
              exact .refl
            · refine Frame.step State.setRail_frame rfl ?_
              exact .refl

theorem execSramBist_frame {fail : W32} {dieFail : Bool} {s : State} :
    ∃ out, execSramBist fail dieFail s = .next out ∧ Frame [.regs, .fls, .ums, .sram, .sramBad, .hostOut, .tr, .flt, .boot, .mgmt] s out := by
  refine ⟨_, rfl, ?_⟩
  refine Frame.ite ?_ ?_
  · exact .refl
  · refine Frame.ite ?_ ?_
    · refine Frame.step State.bootFail_frame rfl ?_
      exact .refl
    · dsimp only
      refine Frame.step State.bootTo_frame rfl ?_
      refine Frame.trans ?_ (Frame.foldl (fun s x => ?_))
      · refine Frame.step State.setFlt_frame rfl ?_
        refine Frame.set_fls_ums_sram_sramBad rfl ?_
        exact .refl
      · refine Frame.ite ?_ ?_
        · refine Frame.step State.recordFault_frame rfl ?_
          exact .refl
        · exact .refl

@[simp] theorem State.hostGo_hostHeld {s : State} : s.hostGo.fe.hostHeld = false := rfl

theorem State.hostGo_frame {s : State} : Frame [.fe] s s.hostGo := Frame.set_fe rfl .refl

theorem execHbmTraining_frame {t : TrainInput} {s : State} :
    ∃ out, execHbmTraining t s = .next out ∧ Frame [.regs, .cnt64, .freeCtr, .hbm, .boot, .mgmt, .fe] s out := by
  refine ⟨_, rfl, ?_⟩
  refine Frame.ite ?_ ?_
  · exact .refl
  · dsimp only
    refine Frame.ite ?_ ?_
    · refine Frame.step State.bootFail_frame rfl ?_
      exact .refl
    · refine Frame.step State.hostGo_frame rfl ?_
      refine Frame.step State.bootTo_frame rfl ?_
      refine Frame.set_boot rfl ?_
      refine Frame.ite ?_ ?_
      · refine Frame.trans ?_ (Frame.foldl (fun s x => ?_))
        · refine Frame.trans ?_ (Frame.foldl (fun s x => ?_))
          · refine Frame.set_hbm rfl ?_
            exact .refl
          · refine Frame.step State.setStk_frame rfl ?_
            exact .refl
        · refine Frame.step State.fillDone_frame rfl ?_
          refine Frame.step State.fillStart_frame rfl ?_
          exact .refl
      · refine Frame.trans ?_ (Frame.foldl (fun s x => ?_))
        · refine Frame.set_hbm rfl ?_
          exact .refl
        · refine Frame.step State.setStk_frame rfl ?_
          exact .refl

theorem State.toTopo_frame {s : State} :
    Frame [.regs, .cnt64, .fab, .boot, .mgmt] s (State.toTopo s) := by
  unfold State.toTopo
  refine Frame.step State.floodLsa_frame rfl ?_
  refine Frame.step State.bootTo_frame rfl ?_
  refine Frame.set_boot rfl ?_
  exact .refl

theorem State.topoWait_frame {s : State} :
    Frame [.regs, .hostOut, .boot] s (State.topoWait s) := by
  unfold State.topoWait
  refine Frame.ite ?_ ?_
  · exact .refl
  · refine Frame.step State.event_frame rfl ?_
    refine Frame.set_boot rfl ?_
    exact .refl

theorem execLinkTraining_frame {masks : ListLinkTrain} {s : State} :
    ∃ out, execLinkTraining masks s = .next out ∧ Frame [.regs, .cnt64, .fls, .ums, .sram, .hostMem, .reports, .hostOut, .freeCtr, .hbm, .fab, .logPtr, .fe, .tr, .pw, .boot, .mgmt, .hostReads] s out := by
  refine ⟨_, rfl, ?_⟩
  refine Frame.ite ?_ ?_
  · exact .refl
  · refine Frame.ite ?_ ?_
    · dsimp only
      refine Frame.step State.toTopo_frame rfl ?_
      refine Frame.set_fab rfl ?_
      refine Frame.trans ?_ (Frame.foldl (fun s x => ?_))
      · exact .refl
      · refine Frame.step State.setReg_frame rfl ?_
        exact .refl
    · refine Frame.ite ?_ ?_
      · refine Frame.step State.topoWait_frame rfl ?_
        exact .refl
      · refine Frame.step State.toTopo_frame rfl ?_
        refine Frame.trans ?_ (Frame.foldl (fun s x => ?_))
        · exact .refl
        · refine Frame.step State.linkTrain_frame rfl ?_
          exact .refl

theorem execTopoAgreeTest_frame {s : State} :
    ∃ out, execTopoAgreeTest s = .next out ∧ Frame [.regs, .cnt64, .hostOut, .fab, .flt, .boot, .mgmt] s out := by
  refine ⟨_, rfl, ?_⟩
  refine Frame.ite ?_ ?_
  · exact .refl
  · split
    · exact .refl
    · dsimp only
      refine Frame.step State.floodLsa_frame rfl ?_
      refine Frame.step State.event_frame rfl ?_
      refine Frame.step State.bootTo_frame rfl ?_
      refine Frame.set_flt_boot rfl ?_
      refine Frame.step State.setReach_frame rfl ?_
      refine Frame.step State.setFab_frame rfl ?_
      exact .refl

theorem execTopoTimeout_frame {s : State} :
    ∃ out, execTopoTimeout s = .next out ∧ Frame [.regs, .hostOut, .boot, .mgmt] s out := by
  refine ⟨_, rfl, ?_⟩
  refine Frame.ite ?_ ?_
  · exact .refl
  · dsimp only
    refine Frame.trans ?_ (Frame.foldl (fun s x => ?_))
    · refine Frame.step State.topoWait_frame rfl ?_
      exact .refl
    · refine Frame.step State.send_frame rfl ?_
      exact .refl

theorem execGetBootStatus_frame {s : State} :
    ∃ out, execGetBootStatus s = .next out ∧ Frame [.mgmt] s out := by
  refine ⟨_, rfl, ?_⟩
  refine Frame.ite ?_ ?_
  · exact .refl
  · refine Frame.step State.send_frame rfl ?_
    exact .refl

theorem execCommitSvn_frame {s : State} :
    ∃ out, execCommitSvn s = .next out ∧ Frame [.boot] s out := by
  refine ⟨_, rfl, ?_⟩
  refine Frame.ite ?_ ?_
  · exact .refl
  · refine Frame.set_boot rfl ?_
    exact .refl

theorem State.deviceReset_keeps {s : State} : Keeps s (State.deviceReset s) := by
  unfold State.deviceReset
  dsimp only
  refine Keeps.set_deviceReset id ?_
  refine Keeps.trans ?_ (Keeps.foldl (fun s x => ?_))
  · exact .refl
  · refine Keeps.ite ?_ ?_
    · exact .refl
    · refine Keeps.trans ?_ State.seqSet_keeps
      exact .refl

theorem execDeviceResetRun_keeps {s : State} :
    ∃ out, execDeviceResetRun s = .next out ∧ Keeps s out := by
  refine ⟨_, rfl, ?_⟩
  refine Keeps.ite ?_ ?_
  · exact .refl
  · dsimp only
    refine Keeps.ite ?_ ?_
    · refine Keeps.frame State.event_frame rfl ?_
      refine Keeps.frame State.bootTo_frame rfl ?_
      refine Keeps.frame State.setFlt_frame rfl ?_
      refine Keeps.set_boot ?_
      refine Keeps.trans ?_ State.deviceReset_keeps
      exact .refl
    · refine Keeps.frame State.bootTo_frame rfl ?_
      refine Keeps.set_boot ?_
      refine Keeps.trans ?_ State.deviceReset_keeps
      exact .refl

theorem State.aonReset_keeps {s : State} : Keeps s (State.aonReset s) := by
  unfold State.aonReset
  exact Keeps.of_pieces (fun _ => rfl) (fun _ => rfl) id

theorem execAonRstNFall_keeps {s : State} :
    ∃ out, execAonRstNFall s = .next out ∧ Keeps s out := by
  refine ⟨_, rfl, ?_⟩
  refine Keeps.trans ?_ State.aonReset_keeps
  exact .refl

theorem execVddAonLoss_keeps {s : State} :
    ∃ out, execVddAonLoss s = .next out ∧ Keeps s out := by
  refine ⟨_, rfl, ?_⟩
  refine Keeps.trans ?_ State.aonReset_keeps
  exact .refl

theorem execConfiguration_keeps {c : ConfigInput} {s : State} :
    ∃ out, execConfiguration c s = .next out ∧ Keeps s out := by
  refine ⟨_, rfl, ?_⟩
  refine Keeps.ite ?_ ?_
  · exact .refl
  · refine Keeps.ite ?_ ?_
    · refine Keeps.frame State.bootFail_frame rfl ?_
      exact .refl
    · dsimp only
      refine Keeps.ite ?_ ?_
      · refine Keeps.frame State.bootTo_frame rfl ?_
        refine Keeps.ite ?_ ?_
        · refine Keeps.set_hbm_sec_boot id ?_
          refine Keeps.trans ?_ (Keeps.foldl (fun s x => ?_))
          · refine Keeps.set_strap_flt ?_
            exact .refl
          · refine Keeps.frame State.setRail_frame rfl ?_
            exact .refl
        · refine Keeps.set_boot ?_
          refine Keeps.trans ?_ (Keeps.foldl (fun s x => ?_))
          · refine Keeps.set_strap_flt ?_
            exact .refl
          · refine Keeps.frame State.setRail_frame rfl ?_
            exact .refl
      · split
        · refine Keeps.frame State.bootFail_frame rfl ?_
          refine Keeps.ite ?_ ?_
          · refine Keeps.set_hbm_sec_boot id ?_
            refine Keeps.trans ?_ (Keeps.foldl (fun s x => ?_))
            · refine Keeps.set_strap_flt ?_
              exact .refl
            · refine Keeps.frame State.setRail_frame rfl ?_
              exact .refl
          · refine Keeps.set_boot ?_
            refine Keeps.trans ?_ (Keeps.foldl (fun s x => ?_))
            · refine Keeps.set_strap_flt ?_
              exact .refl
            · refine Keeps.frame State.setRail_frame rfl ?_
              exact .refl
        · refine Keeps.frame State.bootTo_frame rfl ?_
          refine Keeps.frame (State.applyEtt_frame (by assumption)) rfl ?_
          refine Keeps.ite ?_ ?_
          · refine Keeps.set_hbm_sec_boot id ?_
            refine Keeps.trans ?_ (Keeps.foldl (fun s x => ?_))
            · refine Keeps.set_strap_flt ?_
              exact .refl
            · refine Keeps.frame State.setRail_frame rfl ?_
              exact .refl
          · refine Keeps.set_boot ?_
            refine Keeps.trans ?_ (Keeps.foldl (fun s x => ?_))
            · refine Keeps.set_strap_flt ?_
              exact .refl
            · refine Keeps.frame State.setRail_frame rfl ?_
              exact .refl

theorem execSramBist_keeps {fail : W32} {dieFail : Bool} {s : State} :
    ∃ out, execSramBist fail dieFail s = .next out ∧ Keeps s out := by
  refine ⟨_, rfl, ?_⟩
  refine Keeps.ite ?_ ?_
  · exact .refl
  · refine Keeps.ite ?_ ?_
    · refine Keeps.frame State.bootFail_frame rfl ?_
      exact .refl
    · dsimp only
      refine Keeps.frame State.bootTo_frame rfl ?_
      refine Keeps.trans ?_ (Keeps.foldl (fun s x => ?_))
      · refine Keeps.frame State.setFlt_frame rfl ?_
        refine Keeps.set_fls_ums_sram_sramBad (fun _ => rfl) ?_
        exact .refl
      · refine Keeps.ite ?_ ?_
        · refine Keeps.frame State.recordFault_frame rfl ?_
          exact .refl
        · exact .refl

theorem execHbmTraining_keeps {t : TrainInput} {s : State} :
    ∃ out, execHbmTraining t s = .next out ∧ Keeps s out := by
  refine ⟨_, rfl, ?_⟩
  refine Keeps.ite ?_ ?_
  · exact .refl
  · dsimp only
    refine Keeps.ite ?_ ?_
    · refine Keeps.frame State.bootFail_frame rfl ?_
      exact .refl
    · refine Keeps.frame State.hostGo_frame rfl ?_
      refine Keeps.frame State.bootTo_frame rfl ?_
      refine Keeps.set_boot ?_
      refine Keeps.ite ?_ ?_
      · refine Keeps.trans ?_ (Keeps.foldl (fun s x => ?_))
        · refine Keeps.trans ?_ (Keeps.foldl (fun s x => ?_))
          · refine Keeps.set_hbm id ?_
            exact .refl
          · refine Keeps.trans ?_ State.setStk_keeps
            exact .refl
        · refine Keeps.trans ?_ State.fillDone_keeps
          refine Keeps.trans ?_ State.fillStart_keeps
          exact .refl
      · refine Keeps.trans ?_ (Keeps.foldl (fun s x => ?_))
        · refine Keeps.set_hbm id ?_
          exact .refl
        · refine Keeps.trans ?_ State.setStk_keeps
          exact .refl

theorem execLinkTraining_keeps {masks : ListLinkTrain} {s : State} :
    ∃ out, execLinkTraining masks s = .next out ∧ Keeps s out := by
  refine ⟨_, rfl, ?_⟩
  refine Keeps.ite ?_ ?_
  · exact .refl
  · refine Keeps.ite ?_ ?_
    · dsimp only
      refine Keeps.frame State.toTopo_frame rfl ?_
      refine Keeps.set_fab ?_
      refine Keeps.trans ?_ (Keeps.foldl (fun s x => ?_))
      · exact .refl
      · refine Keeps.frame State.setReg_frame rfl ?_
        exact .refl
    · refine Keeps.ite ?_ ?_
      · refine Keeps.frame State.topoWait_frame rfl ?_
        exact .refl
      · refine Keeps.frame State.toTopo_frame rfl ?_
        refine Keeps.trans ?_ (Keeps.foldl (fun s x => ?_))
        · exact .refl
        · refine Keeps.trans ?_ State.linkTrain_keeps
          exact .refl

end Sys2Proof.Machine
end

