-- ==== Sys2Proof/Laws/Clock.lean ====
section
/-! SUPPORT. What each operation and each meaning of Machine/Clock.lean can change at most: the pieces of the state outside
its list stay as they are. -/

namespace Sys2Proof.Machine

theorem State.throttleCount_frame {s : State} {ns : Nat} :
    Frame [.cnt64] s (State.throttleCount s ns) := by
  unfold State.throttleCount
  refine Frame.trans ?_ (Frame.foldl (fun s x => ?_))
  · exact .refl
  · refine Frame.ite ?_ ?_
    · refine Frame.step State.cnt_frame rfl ?_
      exact .refl
    · exact .refl

theorem State.tick_frame {s : State} :
    Frame [.regs, .cnt64, .fls, .ums, .sram, .hostMem, .ftime, .reports, .hostOut, .freeCtr, .hbm, .fab, .logPtr, .timeAcc, .fe, .tr, .pw, .hostReads] s (State.tick s) := by
  unfold State.tick
  refine Frame.ite ?_ ?_
  · exact .refl
  · dsimp only
    refine Frame.step State.ageHeld_frame rfl ?_
    refine Frame.set_ftime_timeAcc rfl ?_
    refine Frame.step State.throttleCount_frame rfl ?_
    exact .refl

theorem State.tick_keeps {s : State} : Keeps s (State.tick s) := by
  unfold State.tick
  refine Keeps.ite ?_ ?_
  · exact .refl
  · dsimp only
    refine Keeps.trans ?_ State.ageHeld_keeps
    refine Keeps.set_ftime_timeAcc ?_
    refine Keeps.frame State.throttleCount_frame rfl ?_
    exact .refl

end Sys2Proof.Machine
end

