-- ==== Sys2Proof/Laws/Fields.lean ====
section
/-! SUPPORT. What a named update of the state leaves in each field of `State`, and what a read of the updated table then
gives. -/

namespace Sys2Proof.Machine

variable (s : State)

/-! `setFl` -/

@[simp] theorem State.setFl_pending (n : Nat) (x : Floret) : (s.setFl n x).pending = s.pending := rfl
@[simp] theorem State.setFl_regs (n : Nat) (x : Floret) : (s.setFl n x).regs = s.regs := rfl
@[simp] theorem State.setFl_latch (n : Nat) (x : Floret) : (s.setFl n x).latch = s.latch := rfl
@[simp] theorem State.setFl_cnt64 (n : Nat) (x : Floret) : (s.setFl n x).cnt64 = s.cnt64 := rfl
@[simp] theorem State.setFl_ums (n : Nat) (x : Floret) : (s.setFl n x).ums = s.ums := rfl
@[simp] theorem State.setFl_sram (n : Nat) (x : Floret) : (s.setFl n x).sram = s.sram := rfl
@[simp] theorem State.setFl_sramBad (n : Nat) (x : Floret) : (s.setFl n x).sramBad = s.sramBad := rfl
@[simp] theorem State.setFl_hostMem (n : Nat) (x : Floret) : (s.setFl n x).hostMem = s.hostMem := rfl
@[simp] theorem State.setFl_ftime (n : Nat) (x : Floret) : (s.setFl n x).ftime = s.ftime := rfl
@[simp] theorem State.setFl_reports (n : Nat) (x : Floret) : (s.setFl n x).reports = s.reports := rfl
@[simp] theorem State.setFl_hostOut (n : Nat) (x : Floret) : (s.setFl n x).hostOut = s.hostOut := rfl
@[simp] theorem State.setFl_freeCtr (n : Nat) (x : Floret) : (s.setFl n x).freeCtr = s.freeCtr := rfl
@[simp] theorem State.setFl_variant (n : Nat) (x : Floret) : (s.setFl n x).variant = s.variant := rfl
@[simp] theorem State.setFl_strap (n : Nat) (x : Floret) : (s.setFl n x).strap = s.strap := rfl
@[simp] theorem State.setFl_hbm (n : Nat) (x : Floret) : (s.setFl n x).hbm = s.hbm := rfl
@[simp] theorem State.setFl_fab (n : Nat) (x : Floret) : (s.setFl n x).fab = s.fab := rfl
@[simp] theorem State.setFl_logPtr (n : Nat) (x : Floret) : (s.setFl n x).logPtr = s.logPtr := rfl
@[simp] theorem State.setFl_timeAcc (n : Nat) (x : Floret) : (s.setFl n x).timeAcc = s.timeAcc := rfl
@[simp] theorem State.setFl_bme (n : Nat) (x : Floret) : (s.setFl n x).bme = s.bme := rfl
@[simp] theorem State.setFl_fe (n : Nat) (x : Floret) : (s.setFl n x).fe = s.fe := rfl
@[simp] theorem State.setFl_tr (n : Nat) (x : Floret) : (s.setFl n x).tr = s.tr := rfl
@[simp] theorem State.setFl_pw (n : Nat) (x : Floret) : (s.setFl n x).pw = s.pw := rfl
@[simp] theorem State.setFl_flt (n : Nat) (x : Floret) : (s.setFl n x).flt = s.flt := rfl
@[simp] theorem State.setFl_sec (n : Nat) (x : Floret) : (s.setFl n x).sec = s.sec := rfl
@[simp] theorem State.setFl_snap (n : Nat) (x : Floret) : (s.setFl n x).snap = s.snap := rfl
@[simp] theorem State.setFl_boot (n : Nat) (x : Floret) : (s.setFl n x).boot = s.boot := rfl
@[simp] theorem State.setFl_mgmt (n : Nat) (x : Floret) : (s.setFl n x).mgmt = s.mgmt := rfl
@[simp] theorem State.setFl_compat (n : Nat) (x : Floret) : (s.setFl n x).compat = s.compat := rfl
@[simp] theorem State.setFl_mse (n : Nat) (x : Floret) : (s.setFl n x).mse = s.mse := rfl
@[simp] theorem State.setFl_bar4 (n : Nat) (x : Floret) : (s.setFl n x).bar4 = s.bar4 := rfl
@[simp] theorem State.setFl_hostReads (n : Nat) (x : Floret) : (s.setFl n x).hostReads = s.hostReads := rfl

/-! `setUm` -/

@[simp] theorem State.setUm_pending (u : Nat) (x : Umbel) : (s.setUm u x).pending = s.pending := rfl
@[simp] theorem State.setUm_regs (u : Nat) (x : Umbel) : (s.setUm u x).regs = s.regs := rfl
@[simp] theorem State.setUm_latch (u : Nat) (x : Umbel) : (s.setUm u x).latch = s.latch := rfl
@[simp] theorem State.setUm_cnt64 (u : Nat) (x : Umbel) : (s.setUm u x).cnt64 = s.cnt64 := rfl
@[simp] theorem State.setUm_fls (u : Nat) (x : Umbel) : (s.setUm u x).fls = s.fls := rfl
@[simp] theorem State.setUm_sram (u : Nat) (x : Umbel) : (s.setUm u x).sram = s.sram := rfl
@[simp] theorem State.setUm_sramBad (u : Nat) (x : Umbel) : (s.setUm u x).sramBad = s.sramBad := rfl
@[simp] theorem State.setUm_hostMem (u : Nat) (x : Umbel) : (s.setUm u x).hostMem = s.hostMem := rfl
@[simp] theorem State.setUm_ftime (u : Nat) (x : Umbel) : (s.setUm u x).ftime = s.ftime := rfl
@[simp] theorem State.setUm_reports (u : Nat) (x : Umbel) : (s.setUm u x).reports = s.reports := rfl
@[simp] theorem State.setUm_hostOut (u : Nat) (x : Umbel) : (s.setUm u x).hostOut = s.hostOut := rfl
@[simp] theorem State.setUm_freeCtr (u : Nat) (x : Umbel) : (s.setUm u x).freeCtr = s.freeCtr := rfl
@[simp] theorem State.setUm_variant (u : Nat) (x : Umbel) : (s.setUm u x).variant = s.variant := rfl
@[simp] theorem State.setUm_strap (u : Nat) (x : Umbel) : (s.setUm u x).strap = s.strap := rfl
@[simp] theorem State.setUm_hbm (u : Nat) (x : Umbel) : (s.setUm u x).hbm = s.hbm := rfl
@[simp] theorem State.setUm_fab (u : Nat) (x : Umbel) : (s.setUm u x).fab = s.fab := rfl
@[simp] theorem State.setUm_logPtr (u : Nat) (x : Umbel) : (s.setUm u x).logPtr = s.logPtr := rfl
@[simp] theorem State.setUm_timeAcc (u : Nat) (x : Umbel) : (s.setUm u x).timeAcc = s.timeAcc := rfl
@[simp] theorem State.setUm_bme (u : Nat) (x : Umbel) : (s.setUm u x).bme = s.bme := rfl
@[simp] theorem State.setUm_fe (u : Nat) (x : Umbel) : (s.setUm u x).fe = s.fe := rfl
@[simp] theorem State.setUm_tr (u : Nat) (x : Umbel) : (s.setUm u x).tr = s.tr := rfl
@[simp] theorem State.setUm_pw (u : Nat) (x : Umbel) : (s.setUm u x).pw = s.pw := rfl
@[simp] theorem State.setUm_flt (u : Nat) (x : Umbel) : (s.setUm u x).flt = s.flt := rfl
@[simp] theorem State.setUm_sec (u : Nat) (x : Umbel) : (s.setUm u x).sec = s.sec := rfl
@[simp] theorem State.setUm_snap (u : Nat) (x : Umbel) : (s.setUm u x).snap = s.snap := rfl
@[simp] theorem State.setUm_boot (u : Nat) (x : Umbel) : (s.setUm u x).boot = s.boot := rfl
@[simp] theorem State.setUm_mgmt (u : Nat) (x : Umbel) : (s.setUm u x).mgmt = s.mgmt := rfl
@[simp] theorem State.setUm_compat (u : Nat) (x : Umbel) : (s.setUm u x).compat = s.compat := rfl
@[simp] theorem State.setUm_mse (u : Nat) (x : Umbel) : (s.setUm u x).mse = s.mse := rfl
@[simp] theorem State.setUm_bar4 (u : Nat) (x : Umbel) : (s.setUm u x).bar4 = s.bar4 := rfl
@[simp] theorem State.setUm_hostReads (u : Nat) (x : Umbel) : (s.setUm u x).hostReads = s.hostReads := rfl

/-! `setRaw` -/

@[simp] theorem State.setRaw_pending (k : Nat) (v : W32) : (s.setRaw k v).pending = s.pending := rfl
@[simp] theorem State.setRaw_latch (k : Nat) (v : W32) : (s.setRaw k v).latch = s.latch := rfl
@[simp] theorem State.setRaw_cnt64 (k : Nat) (v : W32) : (s.setRaw k v).cnt64 = s.cnt64 := rfl
@[simp] theorem State.setRaw_fls (k : Nat) (v : W32) : (s.setRaw k v).fls = s.fls := rfl
@[simp] theorem State.setRaw_ums (k : Nat) (v : W32) : (s.setRaw k v).ums = s.ums := rfl
@[simp] theorem State.setRaw_sram (k : Nat) (v : W32) : (s.setRaw k v).sram = s.sram := rfl
@[simp] theorem State.setRaw_sramBad (k : Nat) (v : W32) : (s.setRaw k v).sramBad = s.sramBad := rfl
@[simp] theorem State.setRaw_hostMem (k : Nat) (v : W32) : (s.setRaw k v).hostMem = s.hostMem := rfl
@[simp] theorem State.setRaw_ftime (k : Nat) (v : W32) : (s.setRaw k v).ftime = s.ftime := rfl
@[simp] theorem State.setRaw_reports (k : Nat) (v : W32) : (s.setRaw k v).reports = s.reports := rfl
@[simp] theorem State.setRaw_hostOut (k : Nat) (v : W32) : (s.setRaw k v).hostOut = s.hostOut := rfl
@[simp] theorem State.setRaw_freeCtr (k : Nat) (v : W32) : (s.setRaw k v).freeCtr = s.freeCtr := rfl
@[simp] theorem State.setRaw_variant (k : Nat) (v : W32) : (s.setRaw k v).variant = s.variant := rfl
@[simp] theorem State.setRaw_strap (k : Nat) (v : W32) : (s.setRaw k v).strap = s.strap := rfl
@[simp] theorem State.setRaw_hbm (k : Nat) (v : W32) : (s.setRaw k v).hbm = s.hbm := rfl
@[simp] theorem State.setRaw_fab (k : Nat) (v : W32) : (s.setRaw k v).fab = s.fab := rfl
@[simp] theorem State.setRaw_logPtr (k : Nat) (v : W32) : (s.setRaw k v).logPtr = s.logPtr := rfl
@[simp] theorem State.setRaw_timeAcc (k : Nat) (v : W32) : (s.setRaw k v).timeAcc = s.timeAcc := rfl
@[simp] theorem State.setRaw_bme (k : Nat) (v : W32) : (s.setRaw k v).bme = s.bme := rfl
@[simp] theorem State.setRaw_fe (k : Nat) (v : W32) : (s.setRaw k v).fe = s.fe := rfl
@[simp] theorem State.setRaw_tr (k : Nat) (v : W32) : (s.setRaw k v).tr = s.tr := rfl
@[simp] theorem State.setRaw_pw (k : Nat) (v : W32) : (s.setRaw k v).pw = s.pw := rfl
@[simp] theorem State.setRaw_flt (k : Nat) (v : W32) : (s.setRaw k v).flt = s.flt := rfl
@[simp] theorem State.setRaw_sec (k : Nat) (v : W32) : (s.setRaw k v).sec = s.sec := rfl
@[simp] theorem State.setRaw_snap (k : Nat) (v : W32) : (s.setRaw k v).snap = s.snap := rfl
@[simp] theorem State.setRaw_boot (k : Nat) (v : W32) : (s.setRaw k v).boot = s.boot := rfl
@[simp] theorem State.setRaw_mgmt (k : Nat) (v : W32) : (s.setRaw k v).mgmt = s.mgmt := rfl
@[simp] theorem State.setRaw_compat (k : Nat) (v : W32) : (s.setRaw k v).compat = s.compat := rfl
@[simp] theorem State.setRaw_mse (k : Nat) (v : W32) : (s.setRaw k v).mse = s.mse := rfl
@[simp] theorem State.setRaw_bar4 (k : Nat) (v : W32) : (s.setRaw k v).bar4 = s.bar4 := rfl
@[simp] theorem State.setRaw_hostReads (k : Nat) (v : W32) : (s.setRaw k v).hostReads = s.hostReads := rfl

/-! `setReg` -/

@[simp] theorem State.setReg_pending (b : Blk) (n o : Nat) (v : W32) : (s.setReg b n o v).pending = s.pending := rfl
@[simp] theorem State.setReg_latch (b : Blk) (n o : Nat) (v : W32) : (s.setReg b n o v).latch = s.latch := rfl
@[simp] theorem State.setReg_cnt64 (b : Blk) (n o : Nat) (v : W32) : (s.setReg b n o v).cnt64 = s.cnt64 := rfl
@[simp] theorem State.setReg_fls (b : Blk) (n o : Nat) (v : W32) : (s.setReg b n o v).fls = s.fls := rfl
@[simp] theorem State.setReg_ums (b : Blk) (n o : Nat) (v : W32) : (s.setReg b n o v).ums = s.ums := rfl
@[simp] theorem State.setReg_sram (b : Blk) (n o : Nat) (v : W32) : (s.setReg b n o v).sram = s.sram := rfl
@[simp] theorem State.setReg_sramBad (b : Blk) (n o : Nat) (v : W32) : (s.setReg b n o v).sramBad = s.sramBad := rfl
@[simp] theorem State.setReg_hostMem (b : Blk) (n o : Nat) (v : W32) : (s.setReg b n o v).hostMem = s.hostMem := rfl
@[simp] theorem State.setReg_ftime (b : Blk) (n o : Nat) (v : W32) : (s.setReg b n o v).ftime = s.ftime := rfl
@[simp] theorem State.setReg_reports (b : Blk) (n o : Nat) (v : W32) : (s.setReg b n o v).reports = s.reports := rfl
@[simp] theorem State.setReg_hostOut (b : Blk) (n o : Nat) (v : W32) : (s.setReg b n o v).hostOut = s.hostOut := rfl
@[simp] theorem State.setReg_freeCtr (b : Blk) (n o : Nat) (v : W32) : (s.setReg b n o v).freeCtr = s.freeCtr := rfl
@[simp] theorem State.setReg_variant (b : Blk) (n o : Nat) (v : W32) : (s.setReg b n o v).variant = s.variant := rfl
@[simp] theorem State.setReg_strap (b : Blk) (n o : Nat) (v : W32) : (s.setReg b n o v).strap = s.strap := rfl
@[simp] theorem State.setReg_hbm (b : Blk) (n o : Nat) (v : W32) : (s.setReg b n o v).hbm = s.hbm := rfl
@[simp] theorem State.setReg_fab (b : Blk) (n o : Nat) (v : W32) : (s.setReg b n o v).fab = s.fab := rfl
@[simp] theorem State.setReg_logPtr (b : Blk) (n o : Nat) (v : W32) : (s.setReg b n o v).logPtr = s.logPtr := rfl
@[simp] theorem State.setReg_timeAcc (b : Blk) (n o : Nat) (v : W32) : (s.setReg b n o v).timeAcc = s.timeAcc := rfl
@[simp] theorem State.setReg_bme (b : Blk) (n o : Nat) (v : W32) : (s.setReg b n o v).bme = s.bme := rfl
@[simp] theorem State.setReg_fe (b : Blk) (n o : Nat) (v : W32) : (s.setReg b n o v).fe = s.fe := rfl
@[simp] theorem State.setReg_tr (b : Blk) (n o : Nat) (v : W32) : (s.setReg b n o v).tr = s.tr := rfl
@[simp] theorem State.setReg_pw (b : Blk) (n o : Nat) (v : W32) : (s.setReg b n o v).pw = s.pw := rfl
@[simp] theorem State.setReg_flt (b : Blk) (n o : Nat) (v : W32) : (s.setReg b n o v).flt = s.flt := rfl
@[simp] theorem State.setReg_sec (b : Blk) (n o : Nat) (v : W32) : (s.setReg b n o v).sec = s.sec := rfl
@[simp] theorem State.setReg_snap (b : Blk) (n o : Nat) (v : W32) : (s.setReg b n o v).snap = s.snap := rfl
@[simp] theorem State.setReg_boot (b : Blk) (n o : Nat) (v : W32) : (s.setReg b n o v).boot = s.boot := rfl
@[simp] theorem State.setReg_mgmt (b : Blk) (n o : Nat) (v : W32) : (s.setReg b n o v).mgmt = s.mgmt := rfl
@[simp] theorem State.setReg_compat (b : Blk) (n o : Nat) (v : W32) : (s.setReg b n o v).compat = s.compat := rfl
@[simp] theorem State.setReg_mse (b : Blk) (n o : Nat) (v : W32) : (s.setReg b n o v).mse = s.mse := rfl
@[simp] theorem State.setReg_bar4 (b : Blk) (n o : Nat) (v : W32) : (s.setReg b n o v).bar4 = s.bar4 := rfl
@[simp] theorem State.setReg_hostReads (b : Blk) (n o : Nat) (v : W32) : (s.setReg b n o v).hostReads = s.hostReads := rfl

/-! `setLink` -/

@[simp] theorem State.setLink_pending (l : Nat) (x : Link) : (s.setLink l x).pending = s.pending := rfl
@[simp] theorem State.setLink_regs (l : Nat) (x : Link) : (s.setLink l x).regs = s.regs := rfl
@[simp] theorem State.setLink_latch (l : Nat) (x : Link) : (s.setLink l x).latch = s.latch := rfl
@[simp] theorem State.setLink_cnt64 (l : Nat) (x : Link) : (s.setLink l x).cnt64 = s.cnt64 := rfl
@[simp] theorem State.setLink_fls (l : Nat) (x : Link) : (s.setLink l x).fls = s.fls := rfl
@[simp] theorem State.setLink_ums (l : Nat) (x : Link) : (s.setLink l x).ums = s.ums := rfl
@[simp] theorem State.setLink_sram (l : Nat) (x : Link) : (s.setLink l x).sram = s.sram := rfl
@[simp] theorem State.setLink_sramBad (l : Nat) (x : Link) : (s.setLink l x).sramBad = s.sramBad := rfl
@[simp] theorem State.setLink_hostMem (l : Nat) (x : Link) : (s.setLink l x).hostMem = s.hostMem := rfl
@[simp] theorem State.setLink_ftime (l : Nat) (x : Link) : (s.setLink l x).ftime = s.ftime := rfl
@[simp] theorem State.setLink_reports (l : Nat) (x : Link) : (s.setLink l x).reports = s.reports := rfl
@[simp] theorem State.setLink_hostOut (l : Nat) (x : Link) : (s.setLink l x).hostOut = s.hostOut := rfl
@[simp] theorem State.setLink_freeCtr (l : Nat) (x : Link) : (s.setLink l x).freeCtr = s.freeCtr := rfl
@[simp] theorem State.setLink_variant (l : Nat) (x : Link) : (s.setLink l x).variant = s.variant := rfl
@[simp] theorem State.setLink_strap (l : Nat) (x : Link) : (s.setLink l x).strap = s.strap := rfl
@[simp] theorem State.setLink_hbm (l : Nat) (x : Link) : (s.setLink l x).hbm = s.hbm := rfl
@[simp] theorem State.setLink_logPtr (l : Nat) (x : Link) : (s.setLink l x).logPtr = s.logPtr := rfl
@[simp] theorem State.setLink_timeAcc (l : Nat) (x : Link) : (s.setLink l x).timeAcc = s.timeAcc := rfl
@[simp] theorem State.setLink_bme (l : Nat) (x : Link) : (s.setLink l x).bme = s.bme := rfl
@[simp] theorem State.setLink_fe (l : Nat) (x : Link) : (s.setLink l x).fe = s.fe := rfl
@[simp] theorem State.setLink_tr (l : Nat) (x : Link) : (s.setLink l x).tr = s.tr := rfl
@[simp] theorem State.setLink_pw (l : Nat) (x : Link) : (s.setLink l x).pw = s.pw := rfl
@[simp] theorem State.setLink_flt (l : Nat) (x : Link) : (s.setLink l x).flt = s.flt := rfl
@[simp] theorem State.setLink_sec (l : Nat) (x : Link) : (s.setLink l x).sec = s.sec := rfl
@[simp] theorem State.setLink_snap (l : Nat) (x : Link) : (s.setLink l x).snap = s.snap := rfl
@[simp] theorem State.setLink_boot (l : Nat) (x : Link) : (s.setLink l x).boot = s.boot := rfl
@[simp] theorem State.setLink_mgmt (l : Nat) (x : Link) : (s.setLink l x).mgmt = s.mgmt := rfl
@[simp] theorem State.setLink_compat (l : Nat) (x : Link) : (s.setLink l x).compat = s.compat := rfl
@[simp] theorem State.setLink_mse (l : Nat) (x : Link) : (s.setLink l x).mse = s.mse := rfl
@[simp] theorem State.setLink_bar4 (l : Nat) (x : Link) : (s.setLink l x).bar4 = s.bar4 := rfl
@[simp] theorem State.setLink_hostReads (l : Nat) (x : Link) : (s.setLink l x).hostReads = s.hostReads := rfl

/-! `setFab` -/

@[simp] theorem State.setFab_pending (x : Fabric) : (s.setFab x).pending = s.pending := rfl
@[simp] theorem State.setFab_regs (x : Fabric) : (s.setFab x).regs = s.regs := rfl
@[simp] theorem State.setFab_latch (x : Fabric) : (s.setFab x).latch = s.latch := rfl
@[simp] theorem State.setFab_cnt64 (x : Fabric) : (s.setFab x).cnt64 = s.cnt64 := rfl
@[simp] theorem State.setFab_fls (x : Fabric) : (s.setFab x).fls = s.fls := rfl
@[simp] theorem State.setFab_ums (x : Fabric) : (s.setFab x).ums = s.ums := rfl
@[simp] theorem State.setFab_sram (x : Fabric) : (s.setFab x).sram = s.sram := rfl
@[simp] theorem State.setFab_sramBad (x : Fabric) : (s.setFab x).sramBad = s.sramBad := rfl
@[simp] theorem State.setFab_hostMem (x : Fabric) : (s.setFab x).hostMem = s.hostMem := rfl
@[simp] theorem State.setFab_ftime (x : Fabric) : (s.setFab x).ftime = s.ftime := rfl
@[simp] theorem State.setFab_reports (x : Fabric) : (s.setFab x).reports = s.reports := rfl
@[simp] theorem State.setFab_hostOut (x : Fabric) : (s.setFab x).hostOut = s.hostOut := rfl
@[simp] theorem State.setFab_freeCtr (x : Fabric) : (s.setFab x).freeCtr = s.freeCtr := rfl
@[simp] theorem State.setFab_variant (x : Fabric) : (s.setFab x).variant = s.variant := rfl
@[simp] theorem State.setFab_strap (x : Fabric) : (s.setFab x).strap = s.strap := rfl
@[simp] theorem State.setFab_hbm (x : Fabric) : (s.setFab x).hbm = s.hbm := rfl
@[simp] theorem State.setFab_logPtr (x : Fabric) : (s.setFab x).logPtr = s.logPtr := rfl
@[simp] theorem State.setFab_timeAcc (x : Fabric) : (s.setFab x).timeAcc = s.timeAcc := rfl
@[simp] theorem State.setFab_bme (x : Fabric) : (s.setFab x).bme = s.bme := rfl
@[simp] theorem State.setFab_fe (x : Fabric) : (s.setFab x).fe = s.fe := rfl
@[simp] theorem State.setFab_tr (x : Fabric) : (s.setFab x).tr = s.tr := rfl
@[simp] theorem State.setFab_pw (x : Fabric) : (s.setFab x).pw = s.pw := rfl
@[simp] theorem State.setFab_flt (x : Fabric) : (s.setFab x).flt = s.flt := rfl
@[simp] theorem State.setFab_sec (x : Fabric) : (s.setFab x).sec = s.sec := rfl
@[simp] theorem State.setFab_snap (x : Fabric) : (s.setFab x).snap = s.snap := rfl
@[simp] theorem State.setFab_boot (x : Fabric) : (s.setFab x).boot = s.boot := rfl
@[simp] theorem State.setFab_mgmt (x : Fabric) : (s.setFab x).mgmt = s.mgmt := rfl
@[simp] theorem State.setFab_compat (x : Fabric) : (s.setFab x).compat = s.compat := rfl
@[simp] theorem State.setFab_mse (x : Fabric) : (s.setFab x).mse = s.mse := rfl
@[simp] theorem State.setFab_bar4 (x : Fabric) : (s.setFab x).bar4 = s.bar4 := rfl
@[simp] theorem State.setFab_hostReads (x : Fabric) : (s.setFab x).hostReads = s.hostReads := rfl

/-! `setStk` -/

@[simp] theorem State.setStk_pending (k : Nat) (x : Stack) : (s.setStk k x).pending = s.pending := rfl
@[simp] theorem State.setStk_regs (k : Nat) (x : Stack) : (s.setStk k x).regs = s.regs := rfl
@[simp] theorem State.setStk_latch (k : Nat) (x : Stack) : (s.setStk k x).latch = s.latch := rfl
@[simp] theorem State.setStk_cnt64 (k : Nat) (x : Stack) : (s.setStk k x).cnt64 = s.cnt64 := rfl
@[simp] theorem State.setStk_fls (k : Nat) (x : Stack) : (s.setStk k x).fls = s.fls := rfl
@[simp] theorem State.setStk_ums (k : Nat) (x : Stack) : (s.setStk k x).ums = s.ums := rfl
@[simp] theorem State.setStk_sram (k : Nat) (x : Stack) : (s.setStk k x).sram = s.sram := rfl
@[simp] theorem State.setStk_sramBad (k : Nat) (x : Stack) : (s.setStk k x).sramBad = s.sramBad := rfl
@[simp] theorem State.setStk_hostMem (k : Nat) (x : Stack) : (s.setStk k x).hostMem = s.hostMem := rfl
@[simp] theorem State.setStk_ftime (k : Nat) (x : Stack) : (s.setStk k x).ftime = s.ftime := rfl
@[simp] theorem State.setStk_reports (k : Nat) (x : Stack) : (s.setStk k x).reports = s.reports := rfl
@[simp] theorem State.setStk_hostOut (k : Nat) (x : Stack) : (s.setStk k x).hostOut = s.hostOut := rfl
@[simp] theorem State.setStk_freeCtr (k : Nat) (x : Stack) : (s.setStk k x).freeCtr = s.freeCtr := rfl
@[simp] theorem State.setStk_variant (k : Nat) (x : Stack) : (s.setStk k x).variant = s.variant := rfl
@[simp] theorem State.setStk_strap (k : Nat) (x : Stack) : (s.setStk k x).strap = s.strap := rfl
@[simp] theorem State.setStk_fab (k : Nat) (x : Stack) : (s.setStk k x).fab = s.fab := rfl
@[simp] theorem State.setStk_logPtr (k : Nat) (x : Stack) : (s.setStk k x).logPtr = s.logPtr := rfl
@[simp] theorem State.setStk_timeAcc (k : Nat) (x : Stack) : (s.setStk k x).timeAcc = s.timeAcc := rfl
@[simp] theorem State.setStk_bme (k : Nat) (x : Stack) : (s.setStk k x).bme = s.bme := rfl
@[simp] theorem State.setStk_fe (k : Nat) (x : Stack) : (s.setStk k x).fe = s.fe := rfl
@[simp] theorem State.setStk_tr (k : Nat) (x : Stack) : (s.setStk k x).tr = s.tr := rfl
@[simp] theorem State.setStk_pw (k : Nat) (x : Stack) : (s.setStk k x).pw = s.pw := rfl
@[simp] theorem State.setStk_flt (k : Nat) (x : Stack) : (s.setStk k x).flt = s.flt := rfl
@[simp] theorem State.setStk_sec (k : Nat) (x : Stack) : (s.setStk k x).sec = s.sec := rfl
@[simp] theorem State.setStk_snap (k : Nat) (x : Stack) : (s.setStk k x).snap = s.snap := rfl
@[simp] theorem State.setStk_boot (k : Nat) (x : Stack) : (s.setStk k x).boot = s.boot := rfl
@[simp] theorem State.setStk_mgmt (k : Nat) (x : Stack) : (s.setStk k x).mgmt = s.mgmt := rfl
@[simp] theorem State.setStk_compat (k : Nat) (x : Stack) : (s.setStk k x).compat = s.compat := rfl
@[simp] theorem State.setStk_mse (k : Nat) (x : Stack) : (s.setStk k x).mse = s.mse := rfl
@[simp] theorem State.setStk_bar4 (k : Nat) (x : Stack) : (s.setStk k x).bar4 = s.bar4 := rfl
@[simp] theorem State.setStk_hostReads (k : Nat) (x : Stack) : (s.setStk k x).hostReads = s.hostReads := rfl

/-! `setPw` -/

@[simp] theorem State.setPw_pending (x : Power) : (s.setPw x).pending = s.pending := rfl
@[simp] theorem State.setPw_regs (x : Power) : (s.setPw x).regs = s.regs := rfl
@[simp] theorem State.setPw_latch (x : Power) : (s.setPw x).latch = s.latch := rfl
@[simp] theorem State.setPw_cnt64 (x : Power) : (s.setPw x).cnt64 = s.cnt64 := rfl
@[simp] theorem State.setPw_fls (x : Power) : (s.setPw x).fls = s.fls := rfl
@[simp] theorem State.setPw_ums (x : Power) : (s.setPw x).ums = s.ums := rfl
@[simp] theorem State.setPw_sram (x : Power) : (s.setPw x).sram = s.sram := rfl
@[simp] theorem State.setPw_sramBad (x : Power) : (s.setPw x).sramBad = s.sramBad := rfl
@[simp] theorem State.setPw_hostMem (x : Power) : (s.setPw x).hostMem = s.hostMem := rfl
@[simp] theorem State.setPw_ftime (x : Power) : (s.setPw x).ftime = s.ftime := rfl
@[simp] theorem State.setPw_reports (x : Power) : (s.setPw x).reports = s.reports := rfl
@[simp] theorem State.setPw_hostOut (x : Power) : (s.setPw x).hostOut = s.hostOut := rfl
@[simp] theorem State.setPw_freeCtr (x : Power) : (s.setPw x).freeCtr = s.freeCtr := rfl
@[simp] theorem State.setPw_variant (x : Power) : (s.setPw x).variant = s.variant := rfl
@[simp] theorem State.setPw_strap (x : Power) : (s.setPw x).strap = s.strap := rfl
@[simp] theorem State.setPw_hbm (x : Power) : (s.setPw x).hbm = s.hbm := rfl
@[simp] theorem State.setPw_fab (x : Power) : (s.setPw x).fab = s.fab := rfl
@[simp] theorem State.setPw_logPtr (x : Power) : (s.setPw x).logPtr = s.logPtr := rfl
@[simp] theorem State.setPw_timeAcc (x : Power) : (s.setPw x).timeAcc = s.timeAcc := rfl
@[simp] theorem State.setPw_bme (x : Power) : (s.setPw x).bme = s.bme := rfl
@[simp] theorem State.setPw_fe (x : Power) : (s.setPw x).fe = s.fe := rfl
@[simp] theorem State.setPw_tr (x : Power) : (s.setPw x).tr = s.tr := rfl
@[simp] theorem State.setPw_flt (x : Power) : (s.setPw x).flt = s.flt := rfl
@[simp] theorem State.setPw_sec (x : Power) : (s.setPw x).sec = s.sec := rfl
@[simp] theorem State.setPw_snap (x : Power) : (s.setPw x).snap = s.snap := rfl
@[simp] theorem State.setPw_boot (x : Power) : (s.setPw x).boot = s.boot := rfl
@[simp] theorem State.setPw_mgmt (x : Power) : (s.setPw x).mgmt = s.mgmt := rfl
@[simp] theorem State.setPw_compat (x : Power) : (s.setPw x).compat = s.compat := rfl
@[simp] theorem State.setPw_mse (x : Power) : (s.setPw x).mse = s.mse := rfl
@[simp] theorem State.setPw_bar4 (x : Power) : (s.setPw x).bar4 = s.bar4 := rfl
@[simp] theorem State.setPw_hostReads (x : Power) : (s.setPw x).hostReads = s.hostReads := rfl

/-! `setFlt` -/

@[simp] theorem State.setFlt_pending (x : Faults) : (s.setFlt x).pending = s.pending := rfl
@[simp] theorem State.setFlt_regs (x : Faults) : (s.setFlt x).regs = s.regs := rfl
@[simp] theorem State.setFlt_latch (x : Faults) : (s.setFlt x).latch = s.latch := rfl
@[simp] theorem State.setFlt_cnt64 (x : Faults) : (s.setFlt x).cnt64 = s.cnt64 := rfl
@[simp] theorem State.setFlt_fls (x : Faults) : (s.setFlt x).fls = s.fls := rfl
@[simp] theorem State.setFlt_ums (x : Faults) : (s.setFlt x).ums = s.ums := rfl
@[simp] theorem State.setFlt_sram (x : Faults) : (s.setFlt x).sram = s.sram := rfl
@[simp] theorem State.setFlt_sramBad (x : Faults) : (s.setFlt x).sramBad = s.sramBad := rfl
@[simp] theorem State.setFlt_hostMem (x : Faults) : (s.setFlt x).hostMem = s.hostMem := rfl
@[simp] theorem State.setFlt_ftime (x : Faults) : (s.setFlt x).ftime = s.ftime := rfl
@[simp] theorem State.setFlt_reports (x : Faults) : (s.setFlt x).reports = s.reports := rfl
@[simp] theorem State.setFlt_hostOut (x : Faults) : (s.setFlt x).hostOut = s.hostOut := rfl
@[simp] theorem State.setFlt_freeCtr (x : Faults) : (s.setFlt x).freeCtr = s.freeCtr := rfl
@[simp] theorem State.setFlt_variant (x : Faults) : (s.setFlt x).variant = s.variant := rfl
@[simp] theorem State.setFlt_strap (x : Faults) : (s.setFlt x).strap = s.strap := rfl
@[simp] theorem State.setFlt_hbm (x : Faults) : (s.setFlt x).hbm = s.hbm := rfl
@[simp] theorem State.setFlt_fab (x : Faults) : (s.setFlt x).fab = s.fab := rfl
@[simp] theorem State.setFlt_logPtr (x : Faults) : (s.setFlt x).logPtr = s.logPtr := rfl
@[simp] theorem State.setFlt_timeAcc (x : Faults) : (s.setFlt x).timeAcc = s.timeAcc := rfl
@[simp] theorem State.setFlt_bme (x : Faults) : (s.setFlt x).bme = s.bme := rfl
@[simp] theorem State.setFlt_fe (x : Faults) : (s.setFlt x).fe = s.fe := rfl
@[simp] theorem State.setFlt_tr (x : Faults) : (s.setFlt x).tr = s.tr := rfl
@[simp] theorem State.setFlt_pw (x : Faults) : (s.setFlt x).pw = s.pw := rfl
@[simp] theorem State.setFlt_sec (x : Faults) : (s.setFlt x).sec = s.sec := rfl
@[simp] theorem State.setFlt_snap (x : Faults) : (s.setFlt x).snap = s.snap := rfl
@[simp] theorem State.setFlt_boot (x : Faults) : (s.setFlt x).boot = s.boot := rfl
@[simp] theorem State.setFlt_mgmt (x : Faults) : (s.setFlt x).mgmt = s.mgmt := rfl
@[simp] theorem State.setFlt_compat (x : Faults) : (s.setFlt x).compat = s.compat := rfl
@[simp] theorem State.setFlt_mse (x : Faults) : (s.setFlt x).mse = s.mse := rfl
@[simp] theorem State.setFlt_bar4 (x : Faults) : (s.setFlt x).bar4 = s.bar4 := rfl
@[simp] theorem State.setFlt_hostReads (x : Faults) : (s.setFlt x).hostReads = s.hostReads := rfl

/-! `setSec` -/

@[simp] theorem State.setSec_pending (x : Sec) : (s.setSec x).pending = s.pending := rfl
@[simp] theorem State.setSec_regs (x : Sec) : (s.setSec x).regs = s.regs := rfl
@[simp] theorem State.setSec_latch (x : Sec) : (s.setSec x).latch = s.latch := rfl
@[simp] theorem State.setSec_cnt64 (x : Sec) : (s.setSec x).cnt64 = s.cnt64 := rfl
@[simp] theorem State.setSec_fls (x : Sec) : (s.setSec x).fls = s.fls := rfl
@[simp] theorem State.setSec_ums (x : Sec) : (s.setSec x).ums = s.ums := rfl
@[simp] theorem State.setSec_sram (x : Sec) : (s.setSec x).sram = s.sram := rfl
@[simp] theorem State.setSec_sramBad (x : Sec) : (s.setSec x).sramBad = s.sramBad := rfl
@[simp] theorem State.setSec_hostMem (x : Sec) : (s.setSec x).hostMem = s.hostMem := rfl
@[simp] theorem State.setSec_ftime (x : Sec) : (s.setSec x).ftime = s.ftime := rfl
@[simp] theorem State.setSec_reports (x : Sec) : (s.setSec x).reports = s.reports := rfl
@[simp] theorem State.setSec_hostOut (x : Sec) : (s.setSec x).hostOut = s.hostOut := rfl
@[simp] theorem State.setSec_freeCtr (x : Sec) : (s.setSec x).freeCtr = s.freeCtr := rfl
@[simp] theorem State.setSec_variant (x : Sec) : (s.setSec x).variant = s.variant := rfl
@[simp] theorem State.setSec_strap (x : Sec) : (s.setSec x).strap = s.strap := rfl
@[simp] theorem State.setSec_hbm (x : Sec) : (s.setSec x).hbm = s.hbm := rfl
@[simp] theorem State.setSec_fab (x : Sec) : (s.setSec x).fab = s.fab := rfl
@[simp] theorem State.setSec_logPtr (x : Sec) : (s.setSec x).logPtr = s.logPtr := rfl
@[simp] theorem State.setSec_timeAcc (x : Sec) : (s.setSec x).timeAcc = s.timeAcc := rfl
@[simp] theorem State.setSec_bme (x : Sec) : (s.setSec x).bme = s.bme := rfl
@[simp] theorem State.setSec_fe (x : Sec) : (s.setSec x).fe = s.fe := rfl
@[simp] theorem State.setSec_tr (x : Sec) : (s.setSec x).tr = s.tr := rfl
@[simp] theorem State.setSec_pw (x : Sec) : (s.setSec x).pw = s.pw := rfl
@[simp] theorem State.setSec_flt (x : Sec) : (s.setSec x).flt = s.flt := rfl
@[simp] theorem State.setSec_snap (x : Sec) : (s.setSec x).snap = s.snap := rfl
@[simp] theorem State.setSec_boot (x : Sec) : (s.setSec x).boot = s.boot := rfl
@[simp] theorem State.setSec_mgmt (x : Sec) : (s.setSec x).mgmt = s.mgmt := rfl
@[simp] theorem State.setSec_compat (x : Sec) : (s.setSec x).compat = s.compat := rfl
@[simp] theorem State.setSec_mse (x : Sec) : (s.setSec x).mse = s.mse := rfl
@[simp] theorem State.setSec_bar4 (x : Sec) : (s.setSec x).bar4 = s.bar4 := rfl
@[simp] theorem State.setSec_hostReads (x : Sec) : (s.setSec x).hostReads = s.hostReads := rfl

/-! `setSnap` -/

@[simp] theorem State.setSnap_pending (x : Snap) : (s.setSnap x).pending = s.pending := rfl
@[simp] theorem State.setSnap_regs (x : Snap) : (s.setSnap x).regs = s.regs := rfl
@[simp] theorem State.setSnap_latch (x : Snap) : (s.setSnap x).latch = s.latch := rfl
@[simp] theorem State.setSnap_cnt64 (x : Snap) : (s.setSnap x).cnt64 = s.cnt64 := rfl
@[simp] theorem State.setSnap_fls (x : Snap) : (s.setSnap x).fls = s.fls := rfl
@[simp] theorem State.setSnap_ums (x : Snap) : (s.setSnap x).ums = s.ums := rfl
@[simp] theorem State.setSnap_sram (x : Snap) : (s.setSnap x).sram = s.sram := rfl
@[simp] theorem State.setSnap_sramBad (x : Snap) : (s.setSnap x).sramBad = s.sramBad := rfl
@[simp] theorem State.setSnap_hostMem (x : Snap) : (s.setSnap x).hostMem = s.hostMem := rfl
@[simp] theorem State.setSnap_ftime (x : Snap) : (s.setSnap x).ftime = s.ftime := rfl
@[simp] theorem State.setSnap_reports (x : Snap) : (s.setSnap x).reports = s.reports := rfl
@[simp] theorem State.setSnap_hostOut (x : Snap) : (s.setSnap x).hostOut = s.hostOut := rfl
@[simp] theorem State.setSnap_freeCtr (x : Snap) : (s.setSnap x).freeCtr = s.freeCtr := rfl
@[simp] theorem State.setSnap_variant (x : Snap) : (s.setSnap x).variant = s.variant := rfl
@[simp] theorem State.setSnap_strap (x : Snap) : (s.setSnap x).strap = s.strap := rfl
@[simp] theorem State.setSnap_hbm (x : Snap) : (s.setSnap x).hbm = s.hbm := rfl
@[simp] theorem State.setSnap_fab (x : Snap) : (s.setSnap x).fab = s.fab := rfl
@[simp] theorem State.setSnap_logPtr (x : Snap) : (s.setSnap x).logPtr = s.logPtr := rfl
@[simp] theorem State.setSnap_timeAcc (x : Snap) : (s.setSnap x).timeAcc = s.timeAcc := rfl
@[simp] theorem State.setSnap_bme (x : Snap) : (s.setSnap x).bme = s.bme := rfl
@[simp] theorem State.setSnap_fe (x : Snap) : (s.setSnap x).fe = s.fe := rfl
@[simp] theorem State.setSnap_tr (x : Snap) : (s.setSnap x).tr = s.tr := rfl
@[simp] theorem State.setSnap_pw (x : Snap) : (s.setSnap x).pw = s.pw := rfl
@[simp] theorem State.setSnap_flt (x : Snap) : (s.setSnap x).flt = s.flt := rfl
@[simp] theorem State.setSnap_sec (x : Snap) : (s.setSnap x).sec = s.sec := rfl
@[simp] theorem State.setSnap_boot (x : Snap) : (s.setSnap x).boot = s.boot := rfl
@[simp] theorem State.setSnap_mgmt (x : Snap) : (s.setSnap x).mgmt = s.mgmt := rfl
@[simp] theorem State.setSnap_compat (x : Snap) : (s.setSnap x).compat = s.compat := rfl
@[simp] theorem State.setSnap_mse (x : Snap) : (s.setSnap x).mse = s.mse := rfl
@[simp] theorem State.setSnap_bar4 (x : Snap) : (s.setSnap x).bar4 = s.bar4 := rfl
@[simp] theorem State.setSnap_hostReads (x : Snap) : (s.setSnap x).hostReads = s.hostReads := rfl

/-! `setTr` -/

@[simp] theorem State.setTr_pending (x : Trace) : (s.setTr x).pending = s.pending := rfl
@[simp] theorem State.setTr_regs (x : Trace) : (s.setTr x).regs = s.regs := rfl
@[simp] theorem State.setTr_latch (x : Trace) : (s.setTr x).latch = s.latch := rfl
@[simp] theorem State.setTr_cnt64 (x : Trace) : (s.setTr x).cnt64 = s.cnt64 := rfl
@[simp] theorem State.setTr_fls (x : Trace) : (s.setTr x).fls = s.fls := rfl
@[simp] theorem State.setTr_ums (x : Trace) : (s.setTr x).ums = s.ums := rfl
@[simp] theorem State.setTr_sram (x : Trace) : (s.setTr x).sram = s.sram := rfl
@[simp] theorem State.setTr_sramBad (x : Trace) : (s.setTr x).sramBad = s.sramBad := rfl
@[simp] theorem State.setTr_hostMem (x : Trace) : (s.setTr x).hostMem = s.hostMem := rfl
@[simp] theorem State.setTr_ftime (x : Trace) : (s.setTr x).ftime = s.ftime := rfl
@[simp] theorem State.setTr_reports (x : Trace) : (s.setTr x).reports = s.reports := rfl
@[simp] theorem State.setTr_hostOut (x : Trace) : (s.setTr x).hostOut = s.hostOut := rfl
@[simp] theorem State.setTr_freeCtr (x : Trace) : (s.setTr x).freeCtr = s.freeCtr := rfl
@[simp] theorem State.setTr_variant (x : Trace) : (s.setTr x).variant = s.variant := rfl
@[simp] theorem State.setTr_strap (x : Trace) : (s.setTr x).strap = s.strap := rfl
@[simp] theorem State.setTr_hbm (x : Trace) : (s.setTr x).hbm = s.hbm := rfl
@[simp] theorem State.setTr_fab (x : Trace) : (s.setTr x).fab = s.fab := rfl
@[simp] theorem State.setTr_logPtr (x : Trace) : (s.setTr x).logPtr = s.logPtr := rfl
@[simp] theorem State.setTr_timeAcc (x : Trace) : (s.setTr x).timeAcc = s.timeAcc := rfl
@[simp] theorem State.setTr_bme (x : Trace) : (s.setTr x).bme = s.bme := rfl
@[simp] theorem State.setTr_fe (x : Trace) : (s.setTr x).fe = s.fe := rfl
@[simp] theorem State.setTr_pw (x : Trace) : (s.setTr x).pw = s.pw := rfl
@[simp] theorem State.setTr_flt (x : Trace) : (s.setTr x).flt = s.flt := rfl
@[simp] theorem State.setTr_sec (x : Trace) : (s.setTr x).sec = s.sec := rfl
@[simp] theorem State.setTr_snap (x : Trace) : (s.setTr x).snap = s.snap := rfl
@[simp] theorem State.setTr_boot (x : Trace) : (s.setTr x).boot = s.boot := rfl
@[simp] theorem State.setTr_mgmt (x : Trace) : (s.setTr x).mgmt = s.mgmt := rfl
@[simp] theorem State.setTr_compat (x : Trace) : (s.setTr x).compat = s.compat := rfl
@[simp] theorem State.setTr_mse (x : Trace) : (s.setTr x).mse = s.mse := rfl
@[simp] theorem State.setTr_bar4 (x : Trace) : (s.setTr x).bar4 = s.bar4 := rfl
@[simp] theorem State.setTr_hostReads (x : Trace) : (s.setTr x).hostReads = s.hostReads := rfl

/-! `setRing` -/

@[simp] theorem State.setRing_pending (r : Nat) (x : Ring) : (s.setRing r x).pending = s.pending := rfl
@[simp] theorem State.setRing_regs (r : Nat) (x : Ring) : (s.setRing r x).regs = s.regs := rfl
@[simp] theorem State.setRing_latch (r : Nat) (x : Ring) : (s.setRing r x).latch = s.latch := rfl
@[simp] theorem State.setRing_cnt64 (r : Nat) (x : Ring) : (s.setRing r x).cnt64 = s.cnt64 := rfl
@[simp] theorem State.setRing_fls (r : Nat) (x : Ring) : (s.setRing r x).fls = s.fls := rfl
@[simp] theorem State.setRing_ums (r : Nat) (x : Ring) : (s.setRing r x).ums = s.ums := rfl
@[simp] theorem State.setRing_sram (r : Nat) (x : Ring) : (s.setRing r x).sram = s.sram := rfl
@[simp] theorem State.setRing_sramBad (r : Nat) (x : Ring) : (s.setRing r x).sramBad = s.sramBad := rfl
@[simp] theorem State.setRing_hostMem (r : Nat) (x : Ring) : (s.setRing r x).hostMem = s.hostMem := rfl
@[simp] theorem State.setRing_ftime (r : Nat) (x : Ring) : (s.setRing r x).ftime = s.ftime := rfl
@[simp] theorem State.setRing_reports (r : Nat) (x : Ring) : (s.setRing r x).reports = s.reports := rfl
@[simp] theorem State.setRing_hostOut (r : Nat) (x : Ring) : (s.setRing r x).hostOut = s.hostOut := rfl
@[simp] theorem State.setRing_freeCtr (r : Nat) (x : Ring) : (s.setRing r x).freeCtr = s.freeCtr := rfl
@[simp] theorem State.setRing_variant (r : Nat) (x : Ring) : (s.setRing r x).variant = s.variant := rfl
@[simp] theorem State.setRing_strap (r : Nat) (x : Ring) : (s.setRing r x).strap = s.strap := rfl
@[simp] theorem State.setRing_hbm (r : Nat) (x : Ring) : (s.setRing r x).hbm = s.hbm := rfl
@[simp] theorem State.setRing_fab (r : Nat) (x : Ring) : (s.setRing r x).fab = s.fab := rfl
@[simp] theorem State.setRing_logPtr (r : Nat) (x : Ring) : (s.setRing r x).logPtr = s.logPtr := rfl
@[simp] theorem State.setRing_timeAcc (r : Nat) (x : Ring) : (s.setRing r x).timeAcc = s.timeAcc := rfl
@[simp] theorem State.setRing_bme (r : Nat) (x : Ring) : (s.setRing r x).bme = s.bme := rfl
@[simp] theorem State.setRing_tr (r : Nat) (x : Ring) : (s.setRing r x).tr = s.tr := rfl
@[simp] theorem State.setRing_pw (r : Nat) (x : Ring) : (s.setRing r x).pw = s.pw := rfl
@[simp] theorem State.setRing_flt (r : Nat) (x : Ring) : (s.setRing r x).flt = s.flt := rfl
@[simp] theorem State.setRing_sec (r : Nat) (x : Ring) : (s.setRing r x).sec = s.sec := rfl
@[simp] theorem State.setRing_snap (r : Nat) (x : Ring) : (s.setRing r x).snap = s.snap := rfl
@[simp] theorem State.setRing_boot (r : Nat) (x : Ring) : (s.setRing r x).boot = s.boot := rfl
@[simp] theorem State.setRing_mgmt (r : Nat) (x : Ring) : (s.setRing r x).mgmt = s.mgmt := rfl
@[simp] theorem State.setRing_compat (r : Nat) (x : Ring) : (s.setRing r x).compat = s.compat := rfl
@[simp] theorem State.setRing_mse (r : Nat) (x : Ring) : (s.setRing r x).mse = s.mse := rfl
@[simp] theorem State.setRing_bar4 (r : Nat) (x : Ring) : (s.setRing r x).bar4 = s.bar4 := rfl
@[simp] theorem State.setRing_hostReads (r : Nat) (x : Ring) : (s.setRing r x).hostReads = s.hostReads := rfl

/-! `setLsl` -/

@[simp] theorem State.setLsl_pending (k : Nat) (x : LSlot) : (s.setLsl k x).pending = s.pending := rfl
@[simp] theorem State.setLsl_regs (k : Nat) (x : LSlot) : (s.setLsl k x).regs = s.regs := rfl
@[simp] theorem State.setLsl_latch (k : Nat) (x : LSlot) : (s.setLsl k x).latch = s.latch := rfl
@[simp] theorem State.setLsl_cnt64 (k : Nat) (x : LSlot) : (s.setLsl k x).cnt64 = s.cnt64 := rfl
@[simp] theorem State.setLsl_fls (k : Nat) (x : LSlot) : (s.setLsl k x).fls = s.fls := rfl
@[simp] theorem State.setLsl_ums (k : Nat) (x : LSlot) : (s.setLsl k x).ums = s.ums := rfl
@[simp] theorem State.setLsl_sram (k : Nat) (x : LSlot) : (s.setLsl k x).sram = s.sram := rfl
@[simp] theorem State.setLsl_sramBad (k : Nat) (x : LSlot) : (s.setLsl k x).sramBad = s.sramBad := rfl
@[simp] theorem State.setLsl_hostMem (k : Nat) (x : LSlot) : (s.setLsl k x).hostMem = s.hostMem := rfl
@[simp] theorem State.setLsl_ftime (k : Nat) (x : LSlot) : (s.setLsl k x).ftime = s.ftime := rfl
@[simp] theorem State.setLsl_reports (k : Nat) (x : LSlot) : (s.setLsl k x).reports = s.reports := rfl
@[simp] theorem State.setLsl_hostOut (k : Nat) (x : LSlot) : (s.setLsl k x).hostOut = s.hostOut := rfl
@[simp] theorem State.setLsl_freeCtr (k : Nat) (x : LSlot) : (s.setLsl k x).freeCtr = s.freeCtr := rfl
@[simp] theorem State.setLsl_variant (k : Nat) (x : LSlot) : (s.setLsl k x).variant = s.variant := rfl
@[simp] theorem State.setLsl_strap (k : Nat) (x : LSlot) : (s.setLsl k x).strap = s.strap := rfl
@[simp] theorem State.setLsl_hbm (k : Nat) (x : LSlot) : (s.setLsl k x).hbm = s.hbm := rfl
@[simp] theorem State.setLsl_fab (k : Nat) (x : LSlot) : (s.setLsl k x).fab = s.fab := rfl
@[simp] theorem State.setLsl_logPtr (k : Nat) (x : LSlot) : (s.setLsl k x).logPtr = s.logPtr := rfl
@[simp] theorem State.setLsl_timeAcc (k : Nat) (x : LSlot) : (s.setLsl k x).timeAcc = s.timeAcc := rfl
@[simp] theorem State.setLsl_bme (k : Nat) (x : LSlot) : (s.setLsl k x).bme = s.bme := rfl
@[simp] theorem State.setLsl_tr (k : Nat) (x : LSlot) : (s.setLsl k x).tr = s.tr := rfl
@[simp] theorem State.setLsl_pw (k : Nat) (x : LSlot) : (s.setLsl k x).pw = s.pw := rfl
@[simp] theorem State.setLsl_flt (k : Nat) (x : LSlot) : (s.setLsl k x).flt = s.flt := rfl
@[simp] theorem State.setLsl_sec (k : Nat) (x : LSlot) : (s.setLsl k x).sec = s.sec := rfl
@[simp] theorem State.setLsl_snap (k : Nat) (x : LSlot) : (s.setLsl k x).snap = s.snap := rfl
@[simp] theorem State.setLsl_boot (k : Nat) (x : LSlot) : (s.setLsl k x).boot = s.boot := rfl
@[simp] theorem State.setLsl_mgmt (k : Nat) (x : LSlot) : (s.setLsl k x).mgmt = s.mgmt := rfl
@[simp] theorem State.setLsl_compat (k : Nat) (x : LSlot) : (s.setLsl k x).compat = s.compat := rfl
@[simp] theorem State.setLsl_mse (k : Nat) (x : LSlot) : (s.setLsl k x).mse = s.mse := rfl
@[simp] theorem State.setLsl_bar4 (k : Nat) (x : LSlot) : (s.setLsl k x).bar4 = s.bar4 := rfl
@[simp] theorem State.setLsl_hostReads (k : Nat) (x : LSlot) : (s.setLsl k x).hostReads = s.hostReads := rfl

/-! Reading what was written. -/

@[simp] theorem State.fl_setFl (n : Nat) (x : Floret) : (s.setFl n x).fl n = x := SMap.get_put_same
theorem State.fl_setFl_ne {n m : Nat} (x : Floret) (h : m ≠ n) : (s.setFl n x).fl m = s.fl m := SMap.get_put_ne h
@[simp] theorem State.um_setUm (u : Nat) (x : Umbel) : (s.setUm u x).um u = x := SMap.get_put_same
theorem State.um_setUm_ne {u v : Nat} (x : Umbel) (h : v ≠ u) : (s.setUm u x).um v = s.um v := SMap.get_put_ne h
@[simp] theorem State.rawReg_setRaw (k : Nat) (v : W32) : (s.setRaw k v).rawReg k = v := SMap.get_put_same
theorem State.rawReg_setRaw_ne {k j : Nat} (v : W32) (h : j ≠ k) : (s.setRaw k v).rawReg j = s.rawReg j := by
  show SMap.get _ (SMap.put _ s.regs k v) j = _
  unfold SMap.put
  split
  · rw [SMap.get_erase, if_neg h]
    rfl
  · rw [SMap.get_insert, if_neg h]
    rfl
@[simp] theorem State.reg_setReg (b : Blk) (n o : Nat) (v : W32) : (s.setReg b n o v).reg b n o = v := SMap.get_put_same
@[simp] theorem State.link_setLink (l : Nat) (x : Link) : (s.setLink l x).link l = x := SMap.get_put_same
theorem State.link_setLink_ne {l m : Nat} (x : Link) (h : m ≠ l) : (s.setLink l x).link m = s.link m := SMap.get_put_ne h
@[simp] theorem State.stk_setStk (k : Nat) (x : Stack) : (s.setStk k x).stk k = x := SMap.get_put_same
theorem State.stk_setStk_ne {k j : Nat} (x : Stack) (h : j ≠ k) : (s.setStk k x).stk j = s.stk j := SMap.get_put_ne h
@[simp] theorem State.ring_setRing (r : Nat) (x : Ring) : (s.setRing r x).ring r = x := SMap.get_put_same
@[simp] theorem State.lsl_setLsl (k : Nat) (x : LSlot) : (s.setLsl k x).lsl k = x := SMap.get_put_same

end Sys2Proof.Machine
end

