-- ==== Sys2Proof/Laws/RegRead.lean ====
section
/-! SUPPORT. What each operation and each meaning of Machine/RegRead.lean can change at most: the pieces of the state outside
its list stay as they are. -/

namespace Sys2Proof.Machine

theorem State.regRead_frame {s : State} {a : Nat} :
    Frame [.latch, .pw] s (State.regRead s a).2 := by
  unfold State.regRead
  split
  · dsimp only
    exact .refl
  · split
    · dsimp only
      exact .refl
    · dsimp only
      split
      · dsimp only
        exact .refl
      · split
        · dsimp only
          exact .refl
        · split
          · dsimp only
            refine Frame.set_latch rfl ?_
            refine Frame.step State.ungatePage_frame rfl ?_
            exact .refl
          · dsimp only
            refine Frame.step State.ungatePage_frame rfl ?_
            exact .refl

theorem State.regReads_frame {s : State} {x2 : Nat} {x3 : Nat} :
    Frame [.latch, .pw] s (State.regReads s x2 x3).2 := by
  induction x2 generalizing s x3 with
  | zero => exact .refl
  | succ n ih =>
    unfold State.regReads
    dsimp only
    refine Frame.trans ?_ ih
    split
    · refine Frame.step State.regRead_frame rfl ?_
      exact .refl
    · dsimp only
      exact .refl

theorem State.readAbsent_frame {s : State} {n : Nat} {a : Nat} :
    Frame [.regs, .logPtr] s (State.readAbsent s n a) := by
  unfold State.readAbsent
  split
  · refine Frame.step State.addrErr_frame rfl ?_
    exact .refl
  · exact .refl

theorem execCounterLoRead_frame {x : HostSpan} {s : State} :
    ∃ out, execCounterLoRead x s = .next out ∧ Frame [.regs, .latch, .cnt64, .hostOut, .logPtr, .pw] s out := by
  refine ⟨_, rfl, ?_⟩
  dsimp only
  refine Frame.ite ?_ ?_
  · exact .refl
  · refine Frame.ite ?_ ?_
    · refine Frame.step State.refuseRead_frame rfl ?_
      exact .refl
    · refine Frame.set_hostOut rfl ?_
      refine Frame.step State.regReads_frame rfl ?_
      refine Frame.step State.readAbsent_frame rfl ?_
      refine Frame.step State.cnt_frame rfl ?_
      exact .refl

end Sys2Proof.Machine
end

