-- ==== Sys2Proof/Laws/Snapshot.lean ====
section
/-! SUPPORT. What each operation and each meaning of Machine/Snapshot.lean can change at most: the pieces of the state outside
its list stay as they are. -/

namespace Sys2Proof.Machine

theorem State.setSnap_frame {s : State} {x : Snap} :
    Frame [.snap] s (State.setSnap s x) := by
  unfold State.setSnap
  refine Frame.set_snap rfl ?_
  exact .refl

theorem State.snapTrigger_frame {s : State} {trig : Nat} {slot : Option Nat} :
    Frame [.snap] s (State.snapTrigger s trig slot) := by
  unfold State.snapTrigger
  refine Frame.ite ?_ ?_
  · exact .refl
  · dsimp only
    refine Frame.ite ?_ ?_
    · refine Frame.step State.setSnap_frame rfl ?_
      exact .refl
    · refine Frame.step State.setSnap_frame rfl ?_
      exact .refl

theorem execSnapshotHangRequest_frame {t : SlotId} {s : State} :
    ∃ out, execSnapshotHangRequest t s = .next out ∧ Frame [.snap] s out := by
  refine ⟨_, rfl, ?_⟩
  refine Frame.ite ?_ ?_
  · refine Frame.step State.snapTrigger_frame rfl ?_
    exact .refl
  · exact .refl

theorem execUmcSnapStart_frame {s : State} :
    ∃ out, execUmcSnapStart s = .next out ∧ Frame [.snap] s out := by
  refine ⟨_, rfl, ?_⟩
  refine Frame.step State.snapTrigger_frame rfl ?_
  exact .refl

theorem execSnapshotMctp_frame {s : State} :
    ∃ out, execSnapshotMctp s = .next out ∧ Frame [.snap] s out := by
  refine ⟨_, rfl, ?_⟩
  refine Frame.step State.snapTrigger_frame rfl ?_
  exact .refl

theorem execCoreHeartbeatTimeout_frame {_core : Fin4} {s : State} :
    ∃ out, execCoreHeartbeatTimeout _core s = .next out ∧ Frame [.snap] s out := by
  refine ⟨_, rfl, ?_⟩
  refine Frame.step State.snapTrigger_frame rfl ?_
  exact .refl

theorem State.snapLine_frame {s : State} {trunc : Bool} {a : Nat} {x : Nat × Nat} :
    Frame [.regs, .cnt64, .reports, .hostOut, .freeCtr, .hbm, .logPtr] s (State.snapLine s trunc a x) := by
  unfold State.snapLine
  refine Frame.ite ?_ ?_
  · dsimp only
    refine Frame.ite ?_ ?_
    · refine Frame.step State.hbmPartial_frame rfl ?_
      refine Frame.step State.fresh_frame rfl ?_
      exact .refl
    · refine Frame.step State.fresh_frame rfl ?_
      exact .refl
  · refine Frame.ite ?_ ?_
    · refine Frame.step State.hbmWrite_frame rfl ?_
      exact .refl
    · refine Frame.step State.hbmPartial_frame rfl ?_
      exact .refl

theorem State.snapStore_frame {s : State} {trunc : Bool} {a : Nat} {x4 : List (Nat × Nat)} :
    Frame [.regs, .cnt64, .reports, .hostOut, .freeCtr, .hbm, .logPtr] s (State.snapStore s trunc a x4) := by
  induction x4 generalizing s trunc a with
  | nil => exact .refl
  | cons x xs ih =>
    unfold State.snapStore
    refine Frame.trans ?_ ih
    refine Frame.step State.snapLine_frame rfl ?_
    exact .refl

theorem execSnapshotCaptureEnd_frame {trunc : Bool} {s : State} :
    ∃ out, execSnapshotCaptureEnd trunc s = .next out ∧ Frame [.regs, .latch, .cnt64, .fls, .ums, .sram, .hostMem, .reports, .hostOut, .freeCtr, .hbm, .fab, .logPtr, .fe, .tr, .pw, .flt, .snap, .mgmt, .hostReads] s out := by
  refine ⟨_, rfl, ?_⟩
  refine Frame.ite ?_ ?_
  · exact .refl
  · dsimp only
    refine Frame.trans ?_ (Frame.foldl (fun s x => ?_))
    · refine Frame.step State.send_frame rfl ?_
      refine Frame.step State.traceUmc_frame rfl ?_
      refine Frame.step State.setSnap_frame rfl ?_
      refine Frame.ite ?_ ?_
      · refine Frame.step State.snapStore_frame rfl ?_
        refine Frame.set_freeCtr rfl ?_
        exact .refl
      · refine Frame.set_freeCtr rfl ?_
        exact .refl
    · split
      · exact .refl
      · refine Frame.ite ?_ ?_
        · refine Frame.step State.startRecovery_frame rfl ?_
          refine Frame.step State.recordFault_frame rfl ?_
          refine Frame.step State.setFlt_frame rfl ?_
          exact .refl
        · refine Frame.step State.recordFault_frame rfl ?_
          refine Frame.step State.setFlt_frame rfl ?_
          exact .refl

theorem State.snapLine_keeps {s : State} {trunc : Bool} {a : Nat} {x : Nat × Nat} : Keeps s (State.snapLine s trunc a x) := by
  unfold State.snapLine
  refine Keeps.ite ?_ ?_
  · dsimp only
    refine Keeps.ite ?_ ?_
    · refine Keeps.trans ?_ State.hbmPartial_keeps
      refine Keeps.frame State.fresh_frame rfl ?_
      exact .refl
    · refine Keeps.frame State.fresh_frame rfl ?_
      exact .refl
  · refine Keeps.ite ?_ ?_
    · refine Keeps.trans ?_ State.hbmWrite_keeps
      exact .refl
    · refine Keeps.trans ?_ State.hbmPartial_keeps
      exact .refl

theorem State.snapStore_keeps {s : State} {trunc : Bool} {a : Nat} {x4 : List (Nat × Nat)} : Keeps s (State.snapStore s trunc a x4) := by
  induction x4 generalizing s trunc a with
  | nil => exact .refl
  | cons x xs ih =>
    unfold State.snapStore
    refine Keeps.trans ?_ ih
    refine Keeps.trans ?_ State.snapLine_keeps
    exact .refl

theorem execSnapshotCaptureEnd_keeps {trunc : Bool} {s : State} :
    ∃ out, execSnapshotCaptureEnd trunc s = .next out ∧ Keeps s out := by
  refine ⟨_, rfl, ?_⟩
  refine Keeps.ite ?_ ?_
  · exact .refl
  · dsimp only
    refine Keeps.trans ?_ (Keeps.foldl (fun s x => ?_))
    · refine Keeps.frame State.send_frame rfl ?_
      refine Keeps.frame State.traceUmc_frame rfl ?_
      refine Keeps.frame State.setSnap_frame rfl ?_
      refine Keeps.ite ?_ ?_
      · refine Keeps.trans ?_ State.snapStore_keeps
        refine Keeps.set_freeCtr ?_
        exact .refl
      · refine Keeps.set_freeCtr ?_
        exact .refl
    · split
      · exact .refl
      · refine Keeps.ite ?_ ?_
        · refine Keeps.trans ?_ State.startRecovery_keeps
          refine Keeps.frame State.recordFault_frame rfl ?_
          refine Keeps.frame State.setFlt_frame rfl ?_
          exact .refl
        · refine Keeps.frame State.recordFault_frame rfl ?_
          refine Keeps.frame State.setFlt_frame rfl ?_
          exact .refl

end Sys2Proof.Machine
end

