-- ==== Sys2Proof/Laws/Tenancy.lean ====
section
/-! SUPPORT. What each operation and each meaning of Machine/Tenancy.lean can change at most: the pieces of the state outside
its list stay as they are. -/

namespace Sys2Proof.Machine

theorem State.setSec_frame {s : State} {x : Sec} :
    Frame [.sec] s (State.setSec s x) := by
  unfold State.setSec
  refine Frame.set_sec rfl ?_
  exact .refl

theorem State.ringKill_frame {s : State} {r : Nat} :
    Frame [.regs, .cnt64, .sram, .hostMem, .reports, .hostOut, .hbm, .logPtr, .fe, .pw, .hostReads] s (State.ringKill s r) := by
  unfold State.ringKill
  dsimp only
  refine Frame.step State.ringSync_frame rfl ?_
  refine Frame.step State.modRing_frame rfl ?_
  split
  · refine Frame.step State.slotFree'_frame rfl ?_
    refine Frame.trans ?_ (Frame.foldl (fun s x => ?_))
    · exact .refl
    · refine Frame.step State.dropRec_frame rfl ?_
      exact .refl
  · refine Frame.trans ?_ (Frame.foldl (fun s x => ?_))
    · exact .refl
    · refine Frame.step State.dropRec_frame rfl ?_
      exact .refl

theorem State.ringsKill_frame {s : State} :
    Frame [.regs, .cnt64, .sram, .hostMem, .reports, .hostOut, .hbm, .logPtr, .fe, .pw, .hostReads] s (State.ringsKill s) := by
  unfold State.ringsKill
  refine Frame.trans ?_ (Frame.foldl (fun s x => ?_))
  · exact .refl
  · refine Frame.step State.ringKill_frame rfl ?_
    exact .refl

theorem State.copiesKill_frame {s : State} :
    Frame [.regs, .cnt64, .fls, .ums, .sram, .hostMem, .reports, .hostOut, .freeCtr, .hbm, .fab, .logPtr, .fe, .tr, .pw, .hostReads] s (State.copiesKill s) := by
  unfold State.copiesKill
  refine Frame.trans ?_ (Frame.foldl (fun s x => ?_))
  · exact .refl
  · refine Frame.step State.copyFail_frame rfl ?_
    exact .refl

theorem State.changeStart_frame {s : State} {stop : Bool} :
    Frame [.regs, .latch, .cnt64, .fls, .ums, .sram, .hostMem, .reports, .hostOut, .freeCtr, .hbm, .fab, .logPtr, .fe, .tr, .pw, .flt, .sec, .hostReads] s (State.changeStart s stop) := by
  unfold State.changeStart
  refine Frame.ite ?_ ?_
  · refine Frame.step State.setSec_frame rfl ?_
    exact .refl
  · dsimp only
    refine Frame.step State.setSec_frame rfl ?_
    refine Frame.step State.setFlt_frame rfl ?_
    refine Frame.step State.ringsKill_frame rfl ?_
    refine Frame.step State.copiesKill_frame rfl ?_
    refine Frame.trans ?_ (Frame.foldl (fun s x => ?_))
    · refine Frame.trans ?_ (Frame.foldl (fun s x => ?_))
      · refine Frame.step State.setSec_frame rfl ?_
        exact .refl
      · refine Frame.step State.quiescePart_frame rfl ?_
        exact .refl
    · refine Frame.step State.endLaunch_frame rfl ?_
      exact .refl

theorem State.changeCmd_frame {s : State} :
    Frame [.regs, .latch, .cnt64, .fls, .ums, .sram, .hostMem, .reports, .hostOut, .freeCtr, .hbm, .fab, .logPtr, .fe, .tr, .pw, .flt, .sec, .hostReads] s (State.changeCmd s) := by
  unfold State.changeCmd
  refine Frame.ite ?_ ?_
  · refine Frame.step State.setSec_frame rfl ?_
    exact .refl
  · refine Frame.ite ?_ ?_
    · refine Frame.step State.setSec_frame rfl ?_
      exact .refl
    · refine Frame.step State.changeStart_frame rfl ?_
      refine Frame.step State.setSec_frame rfl ?_
      exact .refl

theorem execTenantChangeCmd_frame {s : State} :
    ∃ out, execTenantChangeCmd s = .next out ∧ Frame [.regs, .latch, .cnt64, .fls, .ums, .sram, .hostMem, .reports, .hostOut, .freeCtr, .hbm, .fab, .logPtr, .fe, .tr, .pw, .flt, .sec, .hostReads] s out := by
  refine ⟨_, rfl, ?_⟩
  refine Frame.step State.changeCmd_frame rfl ?_
  exact .refl

theorem execTenantChange_frame {s : State} :
    ∃ out, execTenantChange s = .next out ∧ Frame [.regs, .latch, .cnt64, .fls, .ums, .sram, .hostMem, .reports, .hostOut, .freeCtr, .hbm, .fab, .logPtr, .fe, .tr, .pw, .flt, .sec, .hostReads] s out := by
  refine ⟨_, rfl, ?_⟩
  refine Frame.ite ?_ ?_
  · refine Frame.step State.changeStart_frame rfl ?_
    exact .refl
  · exact .refl

theorem State.tenantDrop_frame {s : State} :
    Frame [.regs, .latch, .cnt64, .logPtr, .fe, .tr, .sec, .snap] s (State.tenantDrop s) := by
  unfold State.tenantDrop
  dsimp only
  refine Frame.step State.setSnap_frame rfl ?_
  refine Frame.step State.pageReset_frame rfl ?_
  refine Frame.step State.pageReset_frame rfl ?_
  refine Frame.set_fe_tr rfl ?_
  refine Frame.step State.setSec_frame rfl ?_
  exact .refl

theorem State.tenantRotate_frame {s : State} :
    Frame [.hbm, .sec] s (State.tenantRotate s) := by
  unfold State.tenantRotate
  refine Frame.set_hbm_sec rfl ?_
  exact .refl

theorem State.tenantScrub_frame {s : State} :
    Frame [.regs, .latch, .cnt64, .fls, .ums, .sram, .sramBad, .fab, .logPtr, .pw, .flt, .hostReads] s (State.tenantScrub s) := by
  unfold State.tenantScrub
  dsimp only
  refine Frame.set_fls_sram_sramBad rfl ?_
  refine Frame.step State.pageReset_frame rfl ?_
  refine Frame.trans ?_ (Frame.foldl (fun s x => ?_))
  · refine Frame.trans ?_ (Frame.foldl (fun s x => ?_))
    · exact .refl
    · refine Frame.ite ?_ ?_
      · exact .refl
      · refine Frame.step State.setPart_frame rfl ?_
        exact .refl
  · refine Frame.step State.gateUmbel_frame rfl ?_
    exact .refl

theorem State.tenantFill_frame {s : State} :
    Frame [.regs, .hbm] s (State.tenantFill s) := by
  unfold State.tenantFill
  refine Frame.trans ?_ (Frame.foldl (fun s x => ?_))
  · exact .refl
  · dsimp only
    refine Frame.step State.fillStart_frame rfl ?_
    refine Frame.step State.setStk_frame rfl ?_
    exact .refl

theorem execTenantQuiesceEnd_frame {s : State} :
    ∃ out, execTenantQuiesceEnd s = .next out ∧ Frame [.regs, .latch, .cnt64, .fls, .ums, .sram, .sramBad, .hbm, .fab, .logPtr, .fe, .tr, .pw, .flt, .sec, .snap, .hostReads] s out := by
  refine ⟨_, rfl, ?_⟩
  refine Frame.ite ?_ ?_
  · dsimp only
    refine Frame.step State.setSec_frame rfl ?_
    refine Frame.step State.retune_frame rfl ?_
    refine Frame.step State.tenantFill_frame rfl ?_
    refine Frame.step State.tenantScrub_frame rfl ?_
    refine Frame.step State.tenantRotate_frame rfl ?_
    refine Frame.step State.tenantDrop_frame rfl ?_
    exact .refl
  · exact .refl

theorem execTenantFillEnd_frame {s : State} :
    ∃ out, execTenantFillEnd s = .next out ∧ Frame [.regs, .cnt64, .hostOut, .freeCtr, .hbm, .sec, .mgmt] s out := by
  refine ⟨_, rfl, ?_⟩
  refine Frame.ite ?_ ?_
  · exact .refl
  · dsimp only
    refine Frame.ite ?_ ?_
    · refine Frame.trans ?_ (Frame.foldl (fun s x => ?_))
      · exact .refl
      · refine Frame.step State.fillDone_frame rfl ?_
        exact .refl
    · refine Frame.ite ?_ ?_
      · refine Frame.step State.send_frame rfl ?_
        refine Frame.step State.event_frame rfl ?_
        refine Frame.step State.setSec_frame rfl ?_
        refine Frame.trans ?_ (Frame.foldl (fun s x => ?_))
        · exact .refl
        · refine Frame.step State.fillDone_frame rfl ?_
          exact .refl
      · refine Frame.step State.event_frame rfl ?_
        refine Frame.step State.setSec_frame rfl ?_
        refine Frame.trans ?_ (Frame.foldl (fun s x => ?_))
        · exact .refl
        · refine Frame.step State.fillDone_frame rfl ?_
          exact .refl

theorem State.touch_frame {s : State} {sid : Nat} :
    Frame [.sec] s (State.touch s sid) := by
  unfold State.touch
  refine Frame.step State.setSec_frame rfl ?_
  exact .refl

theorem State.inSession_frame {ps : List Piece} {b s : State} {sid : Nat} {k : Session → State → State}
    (hw : Piece.within [.sec, .mgmt] ps = true) (h0 : Frame ps b s) (hk : ∀ x t, Frame ps b t → Frame ps b (k x t)) :
    Frame ps b (s.inSession sid k) := by
  unfold State.inSession
  split
  · exact h0
  · split
    · exact Frame.step State.send_frame (Piece.within_trans rfl hw) h0
    · exact hk _ _ (Frame.step State.touch_frame (Piece.within_trans rfl hw) h0)

theorem State.endSess_frame {s : State} {sid : Nat} :
    Frame [.sec] s (State.endSess s sid) := by
  unfold State.endSess
  refine Frame.step State.setSec_frame rfl ?_
  exact .refl

theorem execGetCertificate_frame {slot : W4} {s : State} :
    ∃ out, execGetCertificate slot s = .next out ∧ Frame [.mgmt] s out := by
  refine ⟨_, rfl, ?_⟩
  refine Frame.ite ?_ ?_
  · exact .refl
  · refine Frame.ite ?_ ?_
    · refine Frame.step State.send_frame rfl ?_
      exact .refl
    · refine Frame.step State.send_frame rfl ?_
      exact .refl

theorem execChallenge_frame {slot : W4} {nonce : Nat} {s : State} :
    ∃ out, execChallenge slot nonce s = .next out ∧ Frame [.mgmt] s out := by
  refine ⟨_, rfl, ?_⟩
  refine Frame.ite ?_ ?_
  · exact .refl
  · refine Frame.ite ?_ ?_
    · refine Frame.step State.send_frame rfl ?_
      exact .refl
    · refine Frame.step State.send_frame rfl ?_
      exact .refl

theorem execGetMeasurements_frame {idx : Nat} {nonce : Nat} {s : State} :
    ∃ out, execGetMeasurements idx nonce s = .next out ∧ Frame [.mgmt] s out := by
  refine ⟨_, rfl, ?_⟩
  refine Frame.ite ?_ ?_
  · exact .refl
  · dsimp only
    split
    · refine Frame.step State.send_frame rfl ?_
      exact .refl
    · refine Frame.step State.send_frame rfl ?_
      exact .refl

theorem execKeyExchange_frame {sid : Nat} {doe : Bool} {pub : Nat} {s : State} :
    ∃ out, execKeyExchange sid doe pub s = .next out ∧ Frame [.sec, .mgmt] s out := by
  refine ⟨_, rfl, ?_⟩
  refine Frame.ite ?_ ?_
  · exact .refl
  · refine Frame.ite ?_ ?_
    · refine Frame.step State.send_frame rfl ?_
      exact .refl
    · refine Frame.ite ?_ ?_
      · refine Frame.step State.send_frame rfl ?_
        exact .refl
      · dsimp only
        refine Frame.step State.send_frame rfl ?_
        refine Frame.step State.setSec_frame rfl ?_
        exact .refl

theorem execEndSession_frame {sid : Nat} {s : State} :
    ∃ out, execEndSession sid s = .next out ∧ Frame [.sec, .mgmt] s out := by
  refine ⟨_, rfl, ?_⟩
  refine State.inSession_frame rfl ?_ (fun _ _ _ => ?_)
  · exact .refl
  · refine Frame.step State.send_frame rfl ?_
    refine Frame.step State.endSess_frame rfl ?_
    assumption

theorem execHeartbeat_frame {sid : Nat} {s : State} :
    ∃ out, execHeartbeat sid s = .next out ∧ Frame [.sec, .mgmt] s out := by
  refine ⟨_, rfl, ?_⟩
  refine State.inSession_frame rfl ?_ (fun _ _ _ => ?_)
  · exact .refl
  · refine Frame.step State.send_frame rfl ?_
    assumption

theorem execKeyUpdate_frame {sid : Nat} {s : State} :
    ∃ out, execKeyUpdate sid s = .next out ∧ Frame [.sec, .mgmt] s out := by
  refine ⟨_, rfl, ?_⟩
  refine State.inSession_frame rfl ?_ (fun _ _ _ => ?_)
  · exact .refl
  · refine Frame.step State.send_frame rfl ?_
    refine Frame.step State.setSec_frame rfl ?_
    assumption

theorem execSessionExpiry_frame {sid : Nat} {s : State} :
    ∃ out, execSessionExpiry sid s = .next out ∧ Frame [.sec] s out := by
  refine ⟨_, rfl, ?_⟩
  split
  · refine Frame.ite ?_ ?_
    · refine Frame.step State.endSess_frame rfl ?_
      exact .refl
    · exact .refl
  · exact .refl

theorem execSetOwner_frame {sid : Nat} {key : Nat} {s : State} :
    ∃ out, execSetOwner sid key s = .next out ∧ Frame [.sec, .mgmt] s out := by
  refine ⟨_, rfl, ?_⟩
  refine State.inSession_frame rfl ?_ (fun _ _ _ => ?_)
  · exact .refl
  · refine Frame.ite ?_ ?_
    · refine Frame.step State.send_frame rfl ?_
      refine Frame.step State.setSec_frame rfl ?_
      assumption
    · refine Frame.step State.send_frame rfl ?_
      assumption

theorem execIdeKm_frame {sid : Nat} {stream : Fin3} {s : State} :
    ∃ out, execIdeKm sid stream s = .next out ∧ Frame [.sec, .mgmt] s out := by
  refine ⟨_, rfl, ?_⟩
  refine State.inSession_frame rfl ?_ (fun _ _ _ => ?_)
  · exact .refl
  · refine Frame.ite ?_ ?_
    · refine Frame.step State.send_frame rfl ?_
      refine Frame.step State.setSec_frame rfl ?_
      assumption
    · refine Frame.step State.send_frame rfl ?_
      assumption

theorem State.tdiFail_frame {s : State} :
    Frame [.regs, .latch, .cnt64, .fls, .ums, .sram, .hostMem, .reports, .hostOut, .freeCtr, .hbm, .fab, .logPtr, .fe, .tr, .pw, .flt, .sec, .hostReads] s (State.tdiFail s) := by
  unfold State.tdiFail
  refine Frame.ite ?_ ?_
  · exact .refl
  · dsimp only
    refine Frame.step State.ringsKill_frame rfl ?_
    refine Frame.step State.copiesKill_frame rfl ?_
    refine Frame.trans ?_ (Frame.foldl (fun s x => ?_))
    · refine Frame.step State.setSec_frame rfl ?_
      exact .refl
    · refine Frame.step State.endLaunch_frame rfl ?_
      exact .refl

theorem execIdeIntegrityFailure_frame {s : State} :
    ∃ out, execIdeIntegrityFailure s = .next out ∧ Frame [.regs, .latch, .cnt64, .fls, .ums, .sram, .hostMem, .reports, .hostOut, .freeCtr, .hbm, .fab, .logPtr, .fe, .tr, .pw, .flt, .sec, .hostReads] s out := by
  refine ⟨_, rfl, ?_⟩
  refine Frame.ite ?_ ?_
  · exact .refl
  · refine Frame.step State.tdiFail_frame rfl ?_
    exact .refl

theorem execTdiError_frame {s : State} :
    ∃ out, execTdiError s = .next out ∧ Frame [.regs, .latch, .cnt64, .fls, .ums, .sram, .hostMem, .reports, .hostOut, .freeCtr, .hbm, .fab, .logPtr, .fe, .tr, .pw, .flt, .sec, .hostReads] s out := by
  refine ⟨_, rfl, ?_⟩
  refine Frame.ite ?_ ?_
  · refine Frame.step State.tdiFail_frame rfl ?_
    exact .refl
  · exact .refl

theorem execLockInterface_frame {sid : Nat} {s : State} :
    ∃ out, execLockInterface sid s = .next out ∧ Frame [.sec, .mgmt] s out := by
  refine ⟨_, rfl, ?_⟩
  refine State.inSession_frame rfl ?_ (fun _ _ _ => ?_)
  · exact .refl
  · refine Frame.ite ?_ ?_
    · refine Frame.step State.send_frame rfl ?_
      refine Frame.step State.setSec_frame rfl ?_
      assumption
    · refine Frame.step State.send_frame rfl ?_
      assumption

theorem execTdiRun_frame {sid : Nat} {s : State} :
    ∃ out, execTdiRun sid s = .next out ∧ Frame [.sec, .mgmt] s out := by
  refine ⟨_, rfl, ?_⟩
  refine State.inSession_frame rfl ?_ (fun _ _ _ => ?_)
  · exact .refl
  · refine Frame.ite ?_ ?_
    · refine Frame.step State.send_frame rfl ?_
      refine Frame.step State.setSec_frame rfl ?_
      assumption
    · refine Frame.step State.send_frame rfl ?_
      assumption

theorem execStopInterface_frame {s : State} :
    ∃ out, execStopInterface s = .next out ∧ Frame [.regs, .latch, .cnt64, .fls, .ums, .sram, .hostMem, .reports, .hostOut, .freeCtr, .hbm, .fab, .logPtr, .fe, .tr, .pw, .flt, .sec, .hostReads] s out := by
  refine ⟨_, rfl, ?_⟩
  refine Frame.ite ?_ ?_
  · refine Frame.step State.changeStart_frame rfl ?_
    exact .refl
  · exact .refl

theorem State.ckStart_frame {s : State} {n : Nat} :
    Frame [.sec] s (State.ckStart s n) := by
  unfold State.ckStart
  refine Frame.ite ?_ ?_
  · exact .refl
  · refine Frame.step State.setSec_frame rfl ?_
    exact .refl

theorem execCkLoad_frame {n : Fin8} {s : State} :
    ∃ out, execCkLoad n s = .next out ∧ Frame [.sec] s out := by
  refine ⟨_, rfl, ?_⟩
  refine Frame.step State.ckStart_frame rfl ?_
  exact .refl

theorem State.ckResult_frame {s : State} {code : Nat} :
    Frame [.regs] s (State.ckResult s code) := by
  unfold State.ckResult
  refine Frame.step State.setField_frame rfl ?_
  exact .refl

theorem execCkLoadEnd_frame {s : State} :
    ∃ out, execCkLoadEnd s = .next out ∧ Frame [.regs, .cnt64, .reports, .hostOut, .freeCtr, .hbm, .logPtr, .fe, .sec] s out := by
  refine ⟨_, rfl, ?_⟩
  split
  · exact .refl
  · refine Frame.ite ?_ ?_
    · exact .refl
    · dsimp only
      split
      · refine Frame.step State.event_frame rfl ?_
        refine Frame.step State.addReg_frame rfl ?_
        refine Frame.step State.ckResult_frame rfl ?_
        refine Frame.step State.setSec_frame rfl ?_
        refine Frame.ite ?_ ?_
        · refine Frame.step State.memTouch_frame rfl ?_
          exact .refl
        · refine Frame.set_freeCtr rfl ?_
          exact .refl
      · refine Frame.step State.ckResult_frame rfl ?_
        refine Frame.step State.setSec_frame rfl ?_
        refine Frame.step State.setSec_frame rfl ?_
        refine Frame.ite ?_ ?_
        · refine Frame.step State.memTouch_frame rfl ?_
          exact .refl
        · refine Frame.set_freeCtr rfl ?_
          exact .refl

theorem State.ckDropOp_frame {s : State} {n : Nat} :
    Frame [.regs, .sec] s (State.ckDropOp s n) := by
  unfold State.ckDropOp
  refine Frame.ite ?_ ?_
  · exact .refl
  · refine Frame.ite ?_ ?_
    · refine Frame.step State.setSec_frame rfl ?_
      exact .refl
    · refine Frame.step State.ckResult_frame rfl ?_
      refine Frame.step State.setSec_frame rfl ?_
      exact .refl

theorem execCkDrop_frame {n : Fin8} {s : State} :
    ∃ out, execCkDrop n s = .next out ∧ Frame [.regs, .sec] s out := by
  refine ⟨_, rfl, ?_⟩
  refine Frame.step State.ckDropOp_frame rfl ?_
  exact .refl

theorem State.ckCmdWrite_frame {s : State} {v : Nat} :
    Frame [.regs, .sec] s (State.ckCmdWrite s v) := by
  unfold State.ckCmdWrite
  split
  · refine Frame.step State.ckStart_frame rfl ?_
    exact .refl
  · refine Frame.step State.ckDropOp_frame rfl ?_
    exact .refl
  · exact .refl

theorem State.ringKill_keeps {s : State} {r : Nat} : Keeps s (State.ringKill s r) := by
  unfold State.ringKill
  dsimp only
  refine Keeps.trans ?_ State.ringSync_keeps
  refine Keeps.frame State.modRing_frame rfl ?_
  split
  · refine Keeps.frame State.slotFree'_frame rfl ?_
    refine Keeps.trans ?_ (Keeps.foldl (fun s x => ?_))
    · exact .refl
    · refine Keeps.frame State.dropRec_frame rfl ?_
      exact .refl
  · refine Keeps.trans ?_ (Keeps.foldl (fun s x => ?_))
    · exact .refl
    · refine Keeps.frame State.dropRec_frame rfl ?_
      exact .refl

theorem State.ringsKill_keeps {s : State} : Keeps s (State.ringsKill s) := by
  unfold State.ringsKill
  refine Keeps.trans ?_ (Keeps.foldl (fun s x => ?_))
  · exact .refl
  · refine Keeps.trans ?_ State.ringKill_keeps
    exact .refl

theorem State.copiesKill_keeps {s : State} : Keeps s (State.copiesKill s) := by
  unfold State.copiesKill
  refine Keeps.trans ?_ (Keeps.foldl (fun s x => ?_))
  · exact .refl
  · refine Keeps.trans ?_ State.copyFail_keeps
    exact .refl

theorem State.changeStart_keeps {s : State} {stop : Bool} : Keeps s (State.changeStart s stop) := by
  unfold State.changeStart
  refine Keeps.ite ?_ ?_
  · refine Keeps.frame State.setSec_frame rfl ?_
    exact .refl
  · dsimp only
    refine Keeps.frame State.setSec_frame rfl ?_
    refine Keeps.frame State.setFlt_frame rfl ?_
    refine Keeps.trans ?_ State.ringsKill_keeps
    refine Keeps.trans ?_ State.copiesKill_keeps
    refine Keeps.trans ?_ (Keeps.foldl (fun s x => ?_))
    · refine Keeps.trans ?_ (Keeps.foldl (fun s x => ?_))
      · refine Keeps.frame State.setSec_frame rfl ?_
        exact .refl
      · refine Keeps.trans ?_ State.quiescePart_keeps
        exact .refl
    · refine Keeps.trans ?_ State.endLaunch_keeps
      exact .refl

theorem State.changeCmd_keeps {s : State} : Keeps s (State.changeCmd s) := by
  unfold State.changeCmd
  refine Keeps.ite ?_ ?_
  · refine Keeps.frame State.setSec_frame rfl ?_
    exact .refl
  · refine Keeps.ite ?_ ?_
    · refine Keeps.frame State.setSec_frame rfl ?_
      exact .refl
    · refine Keeps.trans ?_ State.changeStart_keeps
      refine Keeps.frame State.setSec_frame rfl ?_
      exact .refl

theorem execTenantChangeCmd_keeps {s : State} :
    ∃ out, execTenantChangeCmd s = .next out ∧ Keeps s out := by
  refine ⟨_, rfl, ?_⟩
  refine Keeps.trans ?_ State.changeCmd_keeps
  exact .refl

theorem execTenantChange_keeps {s : State} :
    ∃ out, execTenantChange s = .next out ∧ Keeps s out := by
  refine ⟨_, rfl, ?_⟩
  refine Keeps.ite ?_ ?_
  · refine Keeps.trans ?_ State.changeStart_keeps
    exact .refl
  · exact .refl

theorem State.tenantRotate_keeps {s : State} : Keeps s (State.tenantRotate s) := by
  unfold State.tenantRotate
  refine Keeps.set_hbm_sec id ?_
  exact .refl

theorem State.tenantScrub_keeps {s : State} : Keeps s (State.tenantScrub s) := by
  unfold State.tenantScrub
  dsimp only
  refine Keeps.set_fls_sram_sramBad (fun _ => rfl) ?_
  refine Keeps.frame State.pageReset_frame rfl ?_
  refine Keeps.trans ?_ (Keeps.foldl (fun s x => ?_))
  · refine Keeps.trans ?_ (Keeps.foldl (fun s x => ?_))
    · exact .refl
    · refine Keeps.ite ?_ ?_
      · exact .refl
      · refine Keeps.frame State.setPart_frame rfl ?_
        exact .refl
  · refine Keeps.frame State.gateUmbel_frame rfl ?_
    exact .refl

theorem State.tenantFill_keeps {s : State} : Keeps s (State.tenantFill s) := by
  unfold State.tenantFill
  refine Keeps.trans ?_ (Keeps.foldl (fun s x => ?_))
  · exact .refl
  · dsimp only
    refine Keeps.trans ?_ State.fillStart_keeps
    refine Keeps.trans ?_ State.setStk_keeps
    exact .refl

theorem execTenantQuiesceEnd_keeps {s : State} :
    ∃ out, execTenantQuiesceEnd s = .next out ∧ Keeps s out := by
  refine ⟨_, rfl, ?_⟩
  refine Keeps.ite ?_ ?_
  · dsimp only
    refine Keeps.frame State.setSec_frame rfl ?_
    refine Keeps.frame State.retune_frame rfl ?_
    refine Keeps.trans ?_ State.tenantFill_keeps
    refine Keeps.trans ?_ State.tenantScrub_keeps
    refine Keeps.trans ?_ State.tenantRotate_keeps
    refine Keeps.frame State.tenantDrop_frame rfl ?_
    exact .refl
  · exact .refl

theorem execTenantFillEnd_keeps {s : State} :
    ∃ out, execTenantFillEnd s = .next out ∧ Keeps s out := by
  refine ⟨_, rfl, ?_⟩
  refine Keeps.ite ?_ ?_
  · exact .refl
  · dsimp only
    refine Keeps.ite ?_ ?_
    · refine Keeps.trans ?_ (Keeps.foldl (fun s x => ?_))
      · exact .refl
      · refine Keeps.trans ?_ State.fillDone_keeps
        exact .refl
    · refine Keeps.ite ?_ ?_
      · refine Keeps.frame State.send_frame rfl ?_
        refine Keeps.frame State.event_frame rfl ?_
        refine Keeps.frame State.setSec_frame rfl ?_
        refine Keeps.trans ?_ (Keeps.foldl (fun s x => ?_))
        · exact .refl
        · refine Keeps.trans ?_ State.fillDone_keeps
          exact .refl
      · refine Keeps.frame State.event_frame rfl ?_
        refine Keeps.frame State.setSec_frame rfl ?_
        refine Keeps.trans ?_ (Keeps.foldl (fun s x => ?_))
        · exact .refl
        · refine Keeps.trans ?_ State.fillDone_keeps
          exact .refl

theorem State.inSession_keeps {b s : State} {sid : Nat} {k : Session → State → State} (h0 : Keeps b s)
    (hk : ∀ x t, Keeps b t → Keeps b (k x t)) : Keeps b (s.inSession sid k) := by
  unfold State.inSession
  split
  · exact h0
  · split
    · exact Keeps.frame State.send_frame rfl h0
    · exact hk _ _ (Keeps.frame State.touch_frame rfl h0)

theorem State.tdiFail_keeps {s : State} : Keeps s (State.tdiFail s) := by
  unfold State.tdiFail
  refine Keeps.ite ?_ ?_
  · exact .refl
  · dsimp only
    refine Keeps.trans ?_ State.ringsKill_keeps
    refine Keeps.trans ?_ State.copiesKill_keeps
    refine Keeps.trans ?_ (Keeps.foldl (fun s x => ?_))
    · refine Keeps.frame State.setSec_frame rfl ?_
      exact .refl
    · refine Keeps.trans ?_ State.endLaunch_keeps
      exact .refl

theorem execIdeIntegrityFailure_keeps {s : State} :
    ∃ out, execIdeIntegrityFailure s = .next out ∧ Keeps s out := by
  refine ⟨_, rfl, ?_⟩
  refine Keeps.ite ?_ ?_
  · exact .refl
  · refine Keeps.trans ?_ State.tdiFail_keeps
    exact .refl

theorem execTdiError_keeps {s : State} :
    ∃ out, execTdiError s = .next out ∧ Keeps s out := by
  refine ⟨_, rfl, ?_⟩
  refine Keeps.ite ?_ ?_
  · refine Keeps.trans ?_ State.tdiFail_keeps
    exact .refl
  · exact .refl

theorem execStopInterface_keeps {s : State} :
    ∃ out, execStopInterface s = .next out ∧ Keeps s out := by
  refine ⟨_, rfl, ?_⟩
  refine Keeps.ite ?_ ?_
  · refine Keeps.trans ?_ State.changeStart_keeps
    exact .refl
  · exact .refl

theorem execCkLoadEnd_keeps {s : State} :
    ∃ out, execCkLoadEnd s = .next out ∧ Keeps s out := by
  refine ⟨_, rfl, ?_⟩
  split
  · exact .refl
  · refine Keeps.ite ?_ ?_
    · exact .refl
    · dsimp only
      split
      · refine Keeps.frame State.event_frame rfl ?_
        refine Keeps.frame State.addReg_frame rfl ?_
        refine Keeps.frame State.ckResult_frame rfl ?_
        refine Keeps.frame State.setSec_frame rfl ?_
        refine Keeps.ite ?_ ?_
        · refine Keeps.trans ?_ State.memTouch_keeps
          exact .refl
        · refine Keeps.set_freeCtr ?_
          exact .refl
      · refine Keeps.frame State.ckResult_frame rfl ?_
        refine Keeps.frame State.setSec_frame rfl ?_
        refine Keeps.frame State.setSec_frame rfl ?_
        refine Keeps.ite ?_ ?_
        · refine Keeps.trans ?_ State.memTouch_keeps
          exact .refl
        · refine Keeps.set_freeCtr ?_
          exact .refl

end Sys2Proof.Machine
end

