-- ==== Sys2Proof/Laws/RegWrite.lean ====
section
/-! SUPPORT. What each operation and each meaning of Machine/RegWrite.lean can change at most: the pieces of the state outside
its list stay as they are. -/

namespace Sys2Proof.Machine

theorem State.plainWrite_frame {s : State} {b : Blk} {n : Nat} {off : Nat} {v : W32} :
    Frame [.regs] s (State.plainWrite s b n off v) := by
  unfold State.plainWrite
  split
  · exact .refl
  · dsimp only
    refine Frame.step State.setReg_frame rfl ?_
    exact .refl

theorem State.setCompat_frame {s : State} {pg : Nat} {c : Bool} :
    Frame [.compat] s (State.setCompat s pg c) := by
  unfold State.setCompat
  refine Frame.set_compat rfl ?_
  exact .refl

theorem State.pageCtrlWrite_frame {s : State} {b : Blk} {n : Nat} {v : W32} :
    Frame [.regs, .compat] s (State.pageCtrlWrite s b n v) := by
  unfold State.pageCtrlWrite
  dsimp only
  refine Frame.ite ?_ ?_
  · refine Frame.step State.ctlErr_frame rfl ?_
    exact .refl
  · refine Frame.step State.setCompat_frame rfl ?_
    refine Frame.step State.setReg_frame rfl ?_
    exact .refl

theorem State.evtClear_frame {s : State} {b : Blk} {n : Nat} {v : W32} {ev : W32} :
    Frame [.regs, .hostOut] s (State.evtClear s b n v ev) := by
  unfold State.evtClear
  dsimp only
  refine Frame.ite ?_ ?_
  · refine Frame.step State.msix_frame rfl ?_
    refine Frame.step State.setReg_frame rfl ?_
    refine Frame.step State.orReg_frame rfl ?_
    exact .refl
  · refine Frame.step State.setReg_frame rfl ?_
    refine Frame.step State.orReg_frame rfl ?_
    exact .refl

theorem State.compatAll_frame {s : State} {c : Bool} :
    Frame [.regs, .compat] s (State.compatAll s c) := by
  unfold State.compatAll
  dsimp only
  refine Frame.ite ?_ ?_
  · refine Frame.step State.orReg_frame rfl ?_
    refine Frame.trans ?_ (Frame.foldl (fun s x => ?_))
    · exact .refl
    · refine Frame.step State.setCompat_frame rfl ?_
      exact .refl
  · refine Frame.step State.setCompat_frame rfl ?_
    refine Frame.trans ?_ (Frame.foldl (fun s x => ?_))
    · exact .refl
    · refine Frame.step State.setCompat_frame rfl ?_
      exact .refl

theorem State.winWrite_frame {s : State} {off : Nat} {v : W32} :
    Frame [.regs] s (State.winWrite s off v) := by
  unfold State.winWrite
  refine Frame.ite ?_ ?_
  · refine Frame.step State.orReg_frame rfl ?_
    exact .refl
  · refine Frame.ite ?_ ?_
    · exact .refl
    · refine Frame.step State.plainWrite_frame rfl ?_
      exact .refl

theorem State.partCtlWrite_frame {s : State} {p : Nat} {v : W32} :
    Frame [.regs, .latch, .cnt64, .fls, .ums, .sram, .hostMem, .reports, .hostOut, .freeCtr, .hbm, .fab, .logPtr, .fe, .tr, .pw, .flt, .hostReads] s (State.partCtlWrite s p v) := by
  unfold State.partCtlWrite
  refine Frame.ite ?_ ?_
  · refine Frame.ite ?_ ?_
    · refine Frame.step State.startRecovery_frame rfl ?_
      exact .refl
    · refine Frame.step State.partErr_frame rfl ?_
      exact .refl
  · refine Frame.ite ?_ ?_
    · refine Frame.step State.partUp_frame rfl ?_
      exact .refl
    · refine Frame.step State.partDown_frame rfl ?_
      exact .refl

theorem State.seqCfgErr_frame {s : State} :
    Frame [.regs] s (State.seqCfgErr s) := by
  unfold State.seqCfgErr
  refine Frame.step State.orReg_frame rfl ?_
  exact .refl

theorem State.ringTblWrite_frame {s : State} {hi : Bool} {v : W32} :
    Frame [.regs] s (State.ringTblWrite s hi v) := by
  unfold State.ringTblWrite
  refine Frame.ite ?_ ?_
  · refine Frame.step State.ctlErr_frame rfl ?_
    exact .refl
  · refine Frame.step State.plainWrite_frame rfl ?_
    exact .refl

theorem State.ringCtlWrite_frame {s : State} {v : Nat} :
    Frame [.regs, .cnt64, .sram, .hostMem, .reports, .hostOut, .hbm, .logPtr, .fe, .pw, .hostReads] s (State.ringCtlWrite s v) := by
  unfold State.ringCtlWrite
  dsimp only
  split
  · refine Frame.step State.ringEnableOp_frame rfl ?_
    exact .refl
  · refine Frame.step State.ringDisableOp_frame rfl ?_
    exact .refl
  · refine Frame.step State.ringResumeOp_frame rfl ?_
    exact .refl
  · exact .refl

theorem State.seqTblWrite_frame {s : State} {off : Nat} {v : W32} :
    Frame [.regs] s (State.seqTblWrite s off v) := by
  unfold State.seqTblWrite
  refine Frame.ite ?_ ?_
  · refine Frame.step State.seqCfgErr_frame rfl ?_
    exact .refl
  · refine Frame.ite ?_ ?_
    · exact .refl
    · refine Frame.step State.plainWrite_frame rfl ?_
      exact .refl

theorem State.seqCmdWrite_frame {s : State} {v : Nat} :
    Frame [.regs, .cnt64, .sram, .hostMem, .reports, .hostOut, .hbm, .logPtr, .fe, .pw, .hostReads] s (State.seqCmdWrite s v) := by
  unfold State.seqCmdWrite
  dsimp only
  refine Frame.ite ?_ ?_
  · refine Frame.step State.orReg_frame rfl ?_
    exact .refl
  · split
    · exact .refl
    · refine Frame.step State.seqOpen_frame rfl ?_
      exact .refl
    · refine Frame.step State.seqClose_frame rfl ?_
      exact .refl
    · refine Frame.step State.seqRebuild_frame rfl ?_
      exact .refl
    · refine Frame.step State.seqSwitch_frame rfl ?_
      exact .refl
    · refine Frame.step State.seqBad_frame rfl ?_
      exact .refl

theorem State.zeroOwners_frame {s : State} {p : KvPool} :
    Frame [.cnt64, .hbm] s (State.zeroOwners s p) := by
  unfold State.zeroOwners
  refine Frame.trans ?_ (Frame.foldl (fun s x => ?_))
  · exact .refl
  · refine Frame.trans ?_ (Frame.foldl (fun s x => ?_))
    · exact .refl
    · refine Frame.step State.hbmWrite_frame rfl ?_
      exact .refl

theorem State.kvpWrite_frame {s : State} {n : Nat} {frames : Bool} {v : W32} :
    Frame [.regs, .cnt64, .hbm] s (State.kvpWrite s n frames v) := by
  unfold State.kvpWrite
  dsimp only
  refine Frame.ite ?_ ?_
  · refine Frame.step State.seqCfgErr_frame rfl ?_
    exact .refl
  · refine Frame.ite ?_ ?_
    · refine Frame.step State.zeroOwners_frame rfl ?_
      refine Frame.step State.plainWrite_frame rfl ?_
      exact .refl
    · refine Frame.step State.plainWrite_frame rfl ?_
      exact .refl

theorem State.grpWrite_frame {s : State} {hi : Bool} {v : W32} :
    Frame [.regs] s (State.grpWrite s hi v) := by
  unfold State.grpWrite
  refine Frame.ite ?_ ?_
  · refine Frame.step State.seqCfgErr_frame rfl ?_
    exact .refl
  · refine Frame.step State.plainWrite_frame rfl ?_
    exact .refl

theorem State.feWrite_frame {s : State} {off : Nat} {v : W32} :
    Frame [.regs, .cnt64, .sram, .hostMem, .reports, .hostOut, .hbm, .logPtr, .fe, .pw, .hostReads] s (State.feWrite s off v) := by
  unfold State.feWrite
  dsimp only
  split
  · refine Frame.step State.ringTblWrite_frame rfl ?_
    exact .refl
  · refine Frame.step State.ringTblWrite_frame rfl ?_
    exact .refl
  · refine Frame.step State.ringCtlWrite_frame rfl ?_
    exact .refl
  · refine Frame.ite ?_ ?_
    · exact .refl
    · refine Frame.step State.plainWrite_frame rfl ?_
      exact .refl
  · refine Frame.ite ?_ ?_
    · exact .refl
    · refine Frame.step State.plainWrite_frame rfl ?_
      exact .refl
  · refine Frame.step State.seqTblWrite_frame rfl ?_
    exact .refl
  · refine Frame.step State.seqTblWrite_frame rfl ?_
    exact .refl
  · refine Frame.step State.seqTblWrite_frame rfl ?_
    exact .refl
  · refine Frame.step State.seqCmdWrite_frame rfl ?_
    exact .refl
  · refine Frame.step State.grpWrite_frame rfl ?_
    exact .refl
  · refine Frame.step State.grpWrite_frame rfl ?_
    exact .refl
  · refine Frame.ite ?_ ?_
    · refine Frame.step State.kvpWrite_frame rfl ?_
      exact .refl
    · refine Frame.step State.plainWrite_frame rfl ?_
      exact .refl

theorem State.pwWrite_frame {s : State} {off : Nat} {v : W32} :
    Frame [.regs, .pw] s (State.pwWrite s off v) := by
  unfold State.pwWrite
  dsimp only
  split
  · refine Frame.ite ?_ ?_
    · refine Frame.step State.setField_frame rfl ?_
      refine Frame.ite ?_ ?_
      · refine Frame.step State.setField_frame rfl ?_
        exact .refl
      · exact .refl
    · refine Frame.ite ?_ ?_
      · refine Frame.step State.setField_frame rfl ?_
        exact .refl
      · exact .refl
  · refine Frame.ite ?_ ?_
    · exact .refl
    · refine Frame.step State.plainWrite_frame rfl ?_
      exact .refl
  · refine Frame.ite ?_ ?_
    · refine Frame.step State.setPwUmb_frame rfl ?_
      exact .refl
    · exact .refl
  · refine Frame.step State.plainWrite_frame rfl ?_
    exact .refl

theorem State.meadowWrite_frame {s : State} {v : W32} :
    Frame [.regs, .fab] s (State.meadowWrite s v) := by
  unfold State.meadowWrite
  dsimp only
  refine Frame.ite ?_ ?_
  · refine Frame.step State.setFab_frame rfl ?_
    refine Frame.ite ?_ ?_
    · refine Frame.step State.setFab_frame rfl ?_
      refine Frame.step State.plainWrite_frame rfl ?_
      exact .refl
    · refine Frame.step State.plainWrite_frame rfl ?_
      exact .refl
  · refine Frame.ite ?_ ?_
    · refine Frame.step State.setFab_frame rfl ?_
      refine Frame.step State.plainWrite_frame rfl ?_
      exact .refl
    · refine Frame.step State.plainWrite_frame rfl ?_
      exact .refl

theorem State.mctWrite_frame {s : State} {v : W32} :
    Frame [.fab] s (State.mctWrite s v) := by
  unfold State.mctWrite
  dsimp only
  refine Frame.step State.setFab_frame rfl ?_
  exact .refl

theorem State.plWrite_frame {s : State} {l : Nat} {off : Nat} {v : W32} :
    Frame [.regs, .cnt64, .hostOut, .fab] s (State.plWrite s l off v) := by
  unfold State.plWrite
  split
  · refine Frame.step State.linkCtrl_frame rfl ?_
    exact .refl
  · refine Frame.step State.meadowWrite_frame rfl ?_
    exact .refl
  · refine Frame.step State.setFab_frame rfl ?_
    exact .refl
  · refine Frame.step State.mctWrite_frame rfl ?_
    exact .refl
  · refine Frame.step State.plainWrite_frame rfl ?_
    exact .refl

theorem State.kvCmdWrite_frame {s : State} {k : Nat} {v : Nat} :
    Frame [.regs, .cnt64, .reports, .hostOut, .hbm, .logPtr, .fe] s (State.kvCmdWrite s k v) := by
  unfold State.kvCmdWrite
  dsimp only
  refine Frame.ite ?_ ?_
  · exact .refl
  · refine Frame.ite ?_ ?_
    · refine Frame.step State.kvHeld_frame rfl ?_
      exact .refl
    · split
      · refine Frame.step State.kvAllocOp_frame rfl ?_
        exact .refl
      · refine Frame.step State.kvFreeOp_frame rfl ?_
        exact .refl
      · refine Frame.step State.kvRefuse_frame rfl ?_
        exact .refl

theorem State.hcWrite_frame {s : State} {k : Nat} {off : Nat} {v : W32} :
    Frame [.regs, .cnt64, .reports, .hostOut, .hbm, .logPtr, .fe] s (State.hcWrite s k off v) := by
  unfold State.hcWrite
  split
  · refine Frame.ite ?_ ?_
    · exact .refl
    · refine Frame.step State.plainWrite_frame rfl ?_
      exact .refl
  · refine Frame.step State.mrgWrite_frame rfl ?_
    exact .refl
  · refine Frame.ite ?_ ?_
    · refine Frame.step State.fillStart_frame rfl ?_
      exact .refl
    · exact .refl
  · refine Frame.step State.kvCmdWrite_frame rfl ?_
    exact .refl
  · refine Frame.step State.plainWrite_frame rfl ?_
    exact .refl

theorem State.dmaCfg_frame {s : State} {u : Nat} {c : Nat} {bell : Bool} {v : W32} :
    Frame [.regs, .ums] s (State.dmaCfg s u c bell v) := by
  unfold State.dmaCfg
  dsimp only
  refine Frame.ite ?_ ?_
  · exact .refl
  · refine Frame.step State.setReg_frame rfl ?_
    refine Frame.step State.setUm_frame rfl ?_
    refine Frame.step State.plainWrite_frame rfl ?_
    exact .refl

theorem State.ubWrite_frame {s : State} {u : Nat} {off : Nat} {v : W32} :
    Frame [.regs, .ums] s (State.ubWrite s u off v) := by
  unfold State.ubWrite
  refine Frame.ite ?_ ?_
  · refine Frame.step State.dmaCfg_frame rfl ?_
    exact .refl
  · refine Frame.step State.plainWrite_frame rfl ?_
    exact .refl

theorem State.feedCfgWrite_frame {s : State} {f : Nat} {e : Nat} {hi : Bool} {v : W32} :
    Frame [.regs, .fls, .hostOut] s (State.feedCfgWrite s f e hi v) := by
  unfold State.feedCfgWrite
  dsimp only
  refine Frame.ite ?_ ?_
  · exact .refl
  · refine Frame.ite ?_ ?_
    · refine Frame.step State.cfgFeed_frame rfl ?_
      exact .refl
    · refine Frame.step State.cfgFeed_frame rfl ?_
      exact .refl

theorem State.flWrite_frame {s : State} {f : Nat} {off : Nat} {v : W32} :
    Frame [.regs, .fls, .hostOut] s (State.flWrite s f off v) := by
  unfold State.flWrite
  refine Frame.ite ?_ ?_
  · refine Frame.ite ?_ ?_
    · refine Frame.step State.feedCfgWrite_frame rfl ?_
      exact .refl
    · exact .refl
  · refine Frame.ite ?_ ?_
    · refine Frame.step State.modFl_frame rfl ?_
      exact .refl
    · refine Frame.step State.plainWrite_frame rfl ?_
      exact .refl

theorem State.umcWrite_frame {s : State} {off : Nat} {v : W32} :
    Frame [.regs, .flt, .snap] s (State.umcWrite s off v) := by
  unfold State.umcWrite
  split
  · refine Frame.step State.ackRecs_frame rfl ?_
    exact .refl
  · refine Frame.ite ?_ ?_
    · refine Frame.step State.snapTrigger_frame rfl ?_
      exact .refl
    · exact .refl
  · refine Frame.step State.plainWrite_frame rfl ?_
    exact .refl

theorem State.glWrite_frame {s : State} {off : Nat} {v : W32} :
    Frame [.regs, .latch, .cnt64, .fls, .ums, .sram, .hostMem, .reports, .hostOut, .freeCtr, .hbm, .fab, .logPtr, .fe, .tr, .pw, .flt, .compat, .hostReads] s (State.glWrite s off v) := by
  unfold State.glWrite
  refine Frame.ite ?_ ?_
  · refine Frame.ite ?_ ?_
    · refine Frame.step State.partMaskWrite_frame rfl ?_
      exact .refl
    · refine Frame.step State.partCtlWrite_frame rfl ?_
      exact .refl
  · split
    · refine Frame.ite ?_ ?_
      · refine Frame.step State.compatAll_frame rfl ?_
        exact .refl
      · exact .refl
    · refine Frame.step State.winWrite_frame rfl ?_
      exact .refl
    · refine Frame.step State.winWrite_frame rfl ?_
      exact .refl
    · refine Frame.step State.winWrite_frame rfl ?_
      exact .refl
    · refine Frame.ite ?_ ?_
      · refine Frame.step State.devStart_frame rfl ?_
        exact .refl
      · exact .refl
    · refine Frame.step State.plainWrite_frame rfl ?_
      exact .refl

theorem State.secWrite_frame {s : State} {off : Nat} {v : W32} :
    Frame [.regs, .latch, .cnt64, .fls, .ums, .sram, .hostMem, .reports, .hostOut, .freeCtr, .hbm, .fab, .logPtr, .fe, .tr, .pw, .flt, .sec, .hostReads] s (State.secWrite s off v) := by
  unfold State.secWrite
  split
  · refine Frame.ite ?_ ?_
    · refine Frame.step State.changeCmd_frame rfl ?_
      exact .refl
    · exact .refl
  · refine Frame.step State.ckCmdWrite_frame rfl ?_
    exact .refl
  · refine Frame.step State.plainWrite_frame rfl ?_
    exact .refl

theorem State.trWrite_frame {s : State} {off : Nat} {v : W32} :
    Frame [.regs, .tr] s (State.trWrite s off v) := by
  unfold State.trWrite
  split
  · refine Frame.ite ?_ ?_
    · refine Frame.step State.orReg_frame rfl ?_
      exact .refl
    · refine Frame.step State.plainWrite_frame rfl ?_
      exact .refl
  · refine Frame.ite ?_ ?_
    · refine Frame.step State.orReg_frame rfl ?_
      exact .refl
    · refine Frame.step State.plainWrite_frame rfl ?_
      exact .refl
  · refine Frame.step State.trCfgWrite_frame rfl ?_
    exact .refl
  · refine Frame.step State.trTailWrite_frame rfl ?_
    exact .refl
  · refine Frame.step State.plainWrite_frame rfl ?_
    exact .refl

theorem State.msixWrite_frame {s : State} {a : Nat} {v : W32} :
    Frame [.regs, .latch, .cnt64, .fls, .ums, .sram, .hostMem, .reports, .hostOut, .freeCtr, .hbm, .fab, .logPtr, .fe, .tr, .pw, .flt, .sec, .hostReads] s (State.msixWrite s a v) := by
  unfold State.msixWrite
  refine Frame.ite ?_ ?_
  · exact .refl
  · refine Frame.ite ?_ ?_
    · refine Frame.ite ?_ ?_
      · exact .refl
      · refine Frame.step State.tdiFail_frame rfl ?_
        exact .refl
    · refine Frame.ite ?_ ?_
      · refine Frame.step State.setRaw_frame rfl ?_
        exact .refl
      · dsimp only
        refine Frame.ite ?_ ?_
        · refine Frame.step State.msix_frame rfl ?_
          refine Frame.step State.setRaw_frame rfl ?_
          refine Frame.step State.setRaw_frame rfl ?_
          exact .refl
        · refine Frame.step State.setRaw_frame rfl ?_
          exact .refl

theorem State.pageWrite_frame {s : State} {b : Blk} {n : Nat} {off : Nat} {v : W32} :
    Frame [.regs, .latch, .cnt64, .fls, .ums, .sram, .hostMem, .reports, .hostOut, .freeCtr, .hbm, .fab, .logPtr, .fe, .tr, .pw, .flt, .sec, .snap, .compat, .hostReads] s (State.pageWrite s b n off v) := by
  unfold State.pageWrite
  refine Frame.ite ?_ ?_
  · exact .refl
  · refine Frame.ite ?_ ?_
    · refine Frame.step State.pageCtrlWrite_frame rfl ?_
      exact .refl
    · refine Frame.ite ?_ ?_
      · refine Frame.step State.evtClear_frame rfl ?_
        exact .refl
      · refine Frame.ite ?_ ?_
        · refine Frame.step State.plainWrite_frame rfl ?_
          exact .refl
        · split
          · refine Frame.step State.glWrite_frame rfl ?_
            exact .refl
          · refine Frame.step State.feWrite_frame rfl ?_
            exact .refl
          · refine Frame.step State.umcWrite_frame rfl ?_
            exact .refl
          · refine Frame.step State.pwWrite_frame rfl ?_
            exact .refl
          · refine Frame.step State.secWrite_frame rfl ?_
            exact .refl
          · refine Frame.step State.trWrite_frame rfl ?_
            exact .refl
          · exact .refl
          · exact .refl
          · refine Frame.step State.hcWrite_frame rfl ?_
            exact .refl
          · refine Frame.step State.plWrite_frame rfl ?_
            exact .refl
          · refine Frame.step State.ubWrite_frame rfl ?_
            exact .refl
          · refine Frame.step State.flWrite_frame rfl ?_
            exact .refl

theorem State.regWrite_frame {s : State} {q : Req} {a : Nat} {v : W32} :
    Frame [.regs, .latch, .cnt64, .fls, .ums, .sram, .hostMem, .reports, .hostOut, .freeCtr, .hbm, .fab, .logPtr, .fe, .tr, .pw, .flt, .sec, .snap, .compat, .hostReads] s (State.regWrite s q a v) := by
  unfold State.regWrite
  refine Frame.ite ?_ ?_
  · refine Frame.step State.msixWrite_frame rfl ?_
    exact .refl
  · split
    · refine Frame.step State.addrErr_frame rfl ?_
      exact .refl
    · refine Frame.ite ?_ ?_
      · refine Frame.step State.pageWrite_frame rfl ?_
        refine Frame.step State.ungatePage_frame rfl ?_
        exact .refl
      · refine Frame.step State.addrErr_frame rfl ?_
        exact .refl

/-- Register accesses of lines and packets (R469) touch only these pieces. -/
theorem regIO_within {ps : List Piece} (hw : Piece.within [.regs, .latch, .cnt64, .fls, .ums, .sram, .hostMem, .reports, .hostOut, .freeCtr, .hbm, .fab, .logPtr, .fe, .tr, .pw, .flt, .sec, .snap, .compat, .hostReads] ps = true) : regIO.Within ps :=
  ⟨fun _ _ => Frame.mono State.regRead_frame (Piece.within_trans rfl hw),
   fun _ _ _ _ => Frame.mono State.regWrite_frame (Piece.within_trans rfl hw)⟩

theorem execRegisterWrite_frame {x : HostAt26} {be : W4} {v : W32} {s : State} :
    ∃ out, execRegisterWrite x be v s = .next out ∧ Frame [.regs, .latch, .cnt64, .fls, .ums, .sram, .hostMem, .reports, .hostOut, .freeCtr, .hbm, .fab, .logPtr, .fe, .tr, .pw, .flt, .sec, .snap, .compat, .hostReads] s out := by
  refine ⟨_, rfl, ?_⟩
  dsimp only
  refine Frame.ite ?_ ?_
  · refine Frame.step State.cnt_frame rfl ?_
    exact .refl
  · refine Frame.ite ?_ ?_
    · refine Frame.step State.regWrite_frame rfl ?_
      refine Frame.step State.cnt_frame rfl ?_
      exact .refl
    · refine Frame.step State.regPartial_frame rfl ?_
      refine Frame.step State.cnt_frame rfl ?_
      exact .refl

theorem execRegWrite_frame {off : W26} {v : W32} {s : State} :
    ∃ out, execRegWrite off v s = .next out ∧ Frame [.regs, .latch, .cnt64, .fls, .ums, .sram, .hostMem, .reports, .hostOut, .freeCtr, .hbm, .fab, .logPtr, .fe, .tr, .pw, .flt, .sec, .snap, .mgmt, .compat, .hostReads] s out := by
  refine ⟨_, rfl, ?_⟩
  dsimp only
  refine Frame.ite ?_ ?_
  · exact .refl
  · split
    · refine Frame.step State.regWrite_frame rfl ?_
      exact .refl
    · refine Frame.ite ?_ ?_
      · refine Frame.step State.regWrite_frame rfl ?_
        exact .refl
      · refine Frame.step State.send_frame rfl ?_
        exact .refl

theorem State.onPage_frame {ps : List Piece} {b s : State} {blk : Blk} {n off : Nat} {k : State → State}
    (hw : Piece.within [.regs, .logPtr, .pw] ps = true) (h0 : Frame ps b s) (hk : ∀ t, Frame ps b t → Frame ps b (k t)) :
    Frame ps b (s.onPage blk n off k) := by
  unfold State.onPage
  exact Frame.ite (Frame.step State.addrErr_frame (Piece.within_trans rfl hw) h0)
    (Frame.ite h0 (hk _ (Frame.step State.ungatePage_frame (Piece.within_trans rfl hw) h0)))

theorem execFeedCfgWrite_frame {f : FloretId} {e : FeedId} {hi : Bool} {v : W32} {s : State} :
    ∃ out, execFeedCfgWrite f e hi v s = .next out ∧ Frame [.regs, .fls, .hostOut, .logPtr, .pw] s out := by
  refine ⟨_, rfl, ?_⟩
  refine State.onPage_frame rfl ?_ (fun _ _ => ?_)
  · exact .refl
  · refine Frame.step State.feedCfgWrite_frame rfl ?_
    assumption

theorem execDmaCfgWrite_frame {u : UmbelId} {c : ChannelId} {bell : Bool} {v : W32} {s : State} :
    ∃ out, execDmaCfgWrite u c bell v s = .next out ∧ Frame [.regs, .ums, .logPtr, .pw] s out := by
  refine ⟨_, rfl, ?_⟩
  refine State.onPage_frame rfl ?_ (fun _ _ => ?_)
  · exact .refl
  · refine Frame.step State.dmaCfg_frame rfl ?_
    assumption

theorem execKvpCfgWrite_frame {n : PoolId} {frames : Bool} {v : W32} {s : State} :
    ∃ out, execKvpCfgWrite n frames v s = .next out ∧ Frame [.regs, .cnt64, .hbm] s out := by
  refine ⟨_, rfl, ?_⟩
  refine Frame.step State.kvpWrite_frame rfl ?_
  exact .refl

theorem execSeqTableCfgWrite_frame {which : Fin3} {v : W32} {s : State} :
    ∃ out, execSeqTableCfgWrite which v s = .next out ∧ Frame [.regs] s out := by
  refine ⟨_, rfl, ?_⟩
  refine Frame.step State.seqTblWrite_frame rfl ?_
  exact .refl

theorem execRingTblWrite_frame {hi : Bool} {v : W32} {s : State} :
    ∃ out, execRingTblWrite hi v s = .next out ∧ Frame [.regs] s out := by
  refine ⟨_, rfl, ?_⟩
  refine Frame.step State.ringTblWrite_frame rfl ?_
  exact .refl

theorem execGrpBaseWrite_frame {hi : Bool} {v : W32} {s : State} :
    ∃ out, execGrpBaseWrite hi v s = .next out ∧ Frame [.regs] s out := by
  refine ⟨_, rfl, ?_⟩
  refine Frame.step State.grpWrite_frame rfl ?_
  exact .refl

theorem execCompatWrite_frame {page : PageIx} {v : W32} {s : State} :
    ∃ out, execCompatWrite page v s = .next out ∧ Frame [.regs, .logPtr, .compat, .pw] s out := by
  refine ⟨_, rfl, ?_⟩
  split
  · refine Frame.ite ?_ ?_
    · refine Frame.step State.pageCtrlWrite_frame rfl ?_
      refine Frame.step State.ungatePage_frame rfl ?_
      exact .refl
    · refine Frame.step State.addrErr_frame rfl ?_
      exact .refl
  · refine Frame.step State.addrErr_frame rfl ?_
    exact .refl

theorem execGlCompatAll_frame {v : Bool} {s : State} :
    ∃ out, execGlCompatAll v s = .next out ∧ Frame [.regs, .compat] s out := by
  refine ⟨_, rfl, ?_⟩
  refine Frame.step State.compatAll_frame rfl ?_
  exact .refl

theorem execEvtPendClear_frame {page : PageIx} {v : W32} {coincident : W32} {s : State} :
    ∃ out, execEvtPendClear page v coincident s = .next out ∧ Frame [.regs, .hostOut, .logPtr, .pw] s out := by
  refine ⟨_, rfl, ?_⟩
  split
  · refine State.onPage_frame rfl ?_ (fun _ _ => ?_)
    · exact .refl
    · refine Frame.step State.evtClear_frame rfl ?_
      assumption
  · refine Frame.step State.addrErr_frame rfl ?_
    exact .refl

theorem State.partCtlWrite_keeps {s : State} {p : Nat} {v : W32} : Keeps s (State.partCtlWrite s p v) := by
  unfold State.partCtlWrite
  refine Keeps.ite ?_ ?_
  · refine Keeps.ite ?_ ?_
    · refine Keeps.trans ?_ State.startRecovery_keeps
      exact .refl
    · refine Keeps.frame State.partErr_frame rfl ?_
      exact .refl
  · refine Keeps.ite ?_ ?_
    · refine Keeps.frame State.partUp_frame rfl ?_
      exact .refl
    · refine Keeps.frame State.partDown_frame rfl ?_
      exact .refl

theorem State.ringCtlWrite_keeps {s : State} {v : Nat} : Keeps s (State.ringCtlWrite s v) := by
  unfold State.ringCtlWrite
  dsimp only
  split
  · refine Keeps.trans ?_ State.ringEnableOp_keeps
    exact .refl
  · refine Keeps.trans ?_ State.ringDisableOp_keeps
    exact .refl
  · refine Keeps.trans ?_ State.ringResumeOp_keeps
    exact .refl
  · exact .refl

theorem State.seqCmdWrite_keeps {s : State} {v : Nat} : Keeps s (State.seqCmdWrite s v) := by
  unfold State.seqCmdWrite
  dsimp only
  refine Keeps.ite ?_ ?_
  · refine Keeps.frame State.orReg_frame rfl ?_
    exact .refl
  · split
    · exact .refl
    · refine Keeps.trans ?_ State.seqOpen_keeps
      exact .refl
    · refine Keeps.trans ?_ State.seqClose_keeps
      exact .refl
    · refine Keeps.trans ?_ State.seqRebuild_keeps
      exact .refl
    · refine Keeps.trans ?_ State.seqSwitch_keeps
      exact .refl
    · refine Keeps.frame State.seqBad_frame rfl ?_
      exact .refl

theorem State.zeroOwners_keeps {s : State} {p : KvPool} : Keeps s (State.zeroOwners s p) := by
  unfold State.zeroOwners
  refine Keeps.trans ?_ (Keeps.foldl (fun s x => ?_))
  · exact .refl
  · refine Keeps.trans ?_ (Keeps.foldl (fun s x => ?_))
    · exact .refl
    · refine Keeps.trans ?_ State.hbmWrite_keeps
      exact .refl

theorem State.kvpWrite_keeps {s : State} {n : Nat} {frames : Bool} {v : W32} : Keeps s (State.kvpWrite s n frames v) := by
  unfold State.kvpWrite
  dsimp only
  refine Keeps.ite ?_ ?_
  · refine Keeps.frame State.seqCfgErr_frame rfl ?_
    exact .refl
  · refine Keeps.ite ?_ ?_
    · refine Keeps.trans ?_ State.zeroOwners_keeps
      refine Keeps.frame State.plainWrite_frame rfl ?_
      exact .refl
    · refine Keeps.frame State.plainWrite_frame rfl ?_
      exact .refl

theorem State.feWrite_keeps {s : State} {off : Nat} {v : W32} : Keeps s (State.feWrite s off v) := by
  unfold State.feWrite
  dsimp only
  split
  · refine Keeps.frame State.ringTblWrite_frame rfl ?_
    exact .refl
  · refine Keeps.frame State.ringTblWrite_frame rfl ?_
    exact .refl
  · refine Keeps.trans ?_ State.ringCtlWrite_keeps
    exact .refl
  · refine Keeps.ite ?_ ?_
    · exact .refl
    · refine Keeps.frame State.plainWrite_frame rfl ?_
      exact .refl
  · refine Keeps.ite ?_ ?_
    · exact .refl
    · refine Keeps.frame State.plainWrite_frame rfl ?_
      exact .refl
  · refine Keeps.frame State.seqTblWrite_frame rfl ?_
    exact .refl
  · refine Keeps.frame State.seqTblWrite_frame rfl ?_
    exact .refl
  · refine Keeps.frame State.seqTblWrite_frame rfl ?_
    exact .refl
  · refine Keeps.trans ?_ State.seqCmdWrite_keeps
    exact .refl
  · refine Keeps.frame State.grpWrite_frame rfl ?_
    exact .refl
  · refine Keeps.frame State.grpWrite_frame rfl ?_
    exact .refl
  · refine Keeps.ite ?_ ?_
    · refine Keeps.trans ?_ State.kvpWrite_keeps
      exact .refl
    · refine Keeps.frame State.plainWrite_frame rfl ?_
      exact .refl

theorem State.kvCmdWrite_keeps {s : State} {k : Nat} {v : Nat} : Keeps s (State.kvCmdWrite s k v) := by
  unfold State.kvCmdWrite
  dsimp only
  refine Keeps.ite ?_ ?_
  · exact .refl
  · refine Keeps.ite ?_ ?_
    · refine Keeps.frame State.kvHeld_frame rfl ?_
      exact .refl
    · split
      · refine Keeps.trans ?_ State.kvAllocOp_keeps
        exact .refl
      · refine Keeps.trans ?_ State.kvFreeOp_keeps
        exact .refl
      · refine Keeps.frame State.kvRefuse_frame rfl ?_
        exact .refl

theorem State.hcWrite_keeps {s : State} {k : Nat} {off : Nat} {v : W32} : Keeps s (State.hcWrite s k off v) := by
  unfold State.hcWrite
  split
  · refine Keeps.ite ?_ ?_
    · exact .refl
    · refine Keeps.frame State.plainWrite_frame rfl ?_
      exact .refl
  · refine Keeps.trans ?_ State.mrgWrite_keeps
    exact .refl
  · refine Keeps.ite ?_ ?_
    · refine Keeps.trans ?_ State.fillStart_keeps
      exact .refl
    · exact .refl
  · refine Keeps.trans ?_ State.kvCmdWrite_keeps
    exact .refl
  · refine Keeps.frame State.plainWrite_frame rfl ?_
    exact .refl

theorem State.glWrite_keeps {s : State} {off : Nat} {v : W32} : Keeps s (State.glWrite s off v) := by
  unfold State.glWrite
  refine Keeps.ite ?_ ?_
  · refine Keeps.ite ?_ ?_
    · refine Keeps.frame State.partMaskWrite_frame rfl ?_
      exact .refl
    · refine Keeps.trans ?_ State.partCtlWrite_keeps
      exact .refl
  · split
    · refine Keeps.ite ?_ ?_
      · refine Keeps.frame State.compatAll_frame rfl ?_
        exact .refl
      · exact .refl
    · refine Keeps.frame State.winWrite_frame rfl ?_
      exact .refl
    · refine Keeps.frame State.winWrite_frame rfl ?_
      exact .refl
    · refine Keeps.frame State.winWrite_frame rfl ?_
      exact .refl
    · refine Keeps.ite ?_ ?_
      · refine Keeps.trans ?_ State.devStart_keeps
        exact .refl
      · exact .refl
    · refine Keeps.frame State.plainWrite_frame rfl ?_
      exact .refl

theorem State.secWrite_keeps {s : State} {off : Nat} {v : W32} : Keeps s (State.secWrite s off v) := by
  unfold State.secWrite
  split
  · refine Keeps.ite ?_ ?_
    · refine Keeps.trans ?_ State.changeCmd_keeps
      exact .refl
    · exact .refl
  · refine Keeps.frame State.ckCmdWrite_frame rfl ?_
    exact .refl
  · refine Keeps.frame State.plainWrite_frame rfl ?_
    exact .refl

theorem State.msixWrite_keeps {s : State} {a : Nat} {v : W32} : Keeps s (State.msixWrite s a v) := by
  unfold State.msixWrite
  refine Keeps.ite ?_ ?_
  · exact .refl
  · refine Keeps.ite ?_ ?_
    · refine Keeps.ite ?_ ?_
      · exact .refl
      · refine Keeps.trans ?_ State.tdiFail_keeps
        exact .refl
    · refine Keeps.ite ?_ ?_
      · refine Keeps.frame State.setRaw_frame rfl ?_
        exact .refl
      · dsimp only
        refine Keeps.ite ?_ ?_
        · refine Keeps.frame State.msix_frame rfl ?_
          refine Keeps.frame State.setRaw_frame rfl ?_
          refine Keeps.frame State.setRaw_frame rfl ?_
          exact .refl
        · refine Keeps.frame State.setRaw_frame rfl ?_
          exact .refl

theorem State.pageWrite_keeps {s : State} {b : Blk} {n : Nat} {off : Nat} {v : W32} : Keeps s (State.pageWrite s b n off v) := by
  unfold State.pageWrite
  refine Keeps.ite ?_ ?_
  · exact .refl
  · refine Keeps.ite ?_ ?_
    · refine Keeps.frame State.pageCtrlWrite_frame rfl ?_
      exact .refl
    · refine Keeps.ite ?_ ?_
      · refine Keeps.frame State.evtClear_frame rfl ?_
        exact .refl
      · refine Keeps.ite ?_ ?_
        · refine Keeps.frame State.plainWrite_frame rfl ?_
          exact .refl
        · split
          · refine Keeps.trans ?_ State.glWrite_keeps
            exact .refl
          · refine Keeps.trans ?_ State.feWrite_keeps
            exact .refl
          · refine Keeps.frame State.umcWrite_frame rfl ?_
            exact .refl
          · refine Keeps.frame State.pwWrite_frame rfl ?_
            exact .refl
          · refine Keeps.trans ?_ State.secWrite_keeps
            exact .refl
          · refine Keeps.frame State.trWrite_frame rfl ?_
            exact .refl
          · exact .refl
          · exact .refl
          · refine Keeps.trans ?_ State.hcWrite_keeps
            exact .refl
          · refine Keeps.frame State.plWrite_frame rfl ?_
            exact .refl
          · refine Keeps.frame State.ubWrite_frame rfl ?_
            exact .refl
          · refine Keeps.frame State.flWrite_frame rfl ?_
            exact .refl

theorem State.regWrite_keeps {s : State} {q : Req} {a : Nat} {v : W32} : Keeps s (State.regWrite s q a v) := by
  unfold State.regWrite
  refine Keeps.ite ?_ ?_
  · refine Keeps.trans ?_ State.msixWrite_keeps
    exact .refl
  · split
    · refine Keeps.frame State.addrErr_frame rfl ?_
      exact .refl
    · refine Keeps.ite ?_ ?_
      · refine Keeps.trans ?_ State.pageWrite_keeps
        refine Keeps.frame State.ungatePage_frame rfl ?_
        exact .refl
      · refine Keeps.frame State.addrErr_frame rfl ?_
        exact .refl

/-- Register accesses of lines and packets keep the canonical form of the memories. -/
theorem regIO_keeps : regIO.Keeps :=
  ⟨fun _ _ => Keeps.frame State.regRead_frame rfl .refl, fun _ _ _ _ => State.regWrite_keeps⟩

theorem execRegisterWrite_keeps {x : HostAt26} {be : W4} {v : W32} {s : State} :
    ∃ out, execRegisterWrite x be v s = .next out ∧ Keeps s out := by
  refine ⟨_, rfl, ?_⟩
  dsimp only
  refine Keeps.ite ?_ ?_
  · refine Keeps.frame State.cnt_frame rfl ?_
    exact .refl
  · refine Keeps.ite ?_ ?_
    · refine Keeps.trans ?_ State.regWrite_keeps
      refine Keeps.frame State.cnt_frame rfl ?_
      exact .refl
    · refine Keeps.frame State.regPartial_frame rfl ?_
      refine Keeps.frame State.cnt_frame rfl ?_
      exact .refl

theorem execRegWrite_keeps {off : W26} {v : W32} {s : State} :
    ∃ out, execRegWrite off v s = .next out ∧ Keeps s out := by
  refine ⟨_, rfl, ?_⟩
  dsimp only
  refine Keeps.ite ?_ ?_
  · exact .refl
  · split
    · refine Keeps.trans ?_ State.regWrite_keeps
      exact .refl
    · refine Keeps.ite ?_ ?_
      · refine Keeps.trans ?_ State.regWrite_keeps
        exact .refl
      · refine Keeps.frame State.send_frame rfl ?_
        exact .refl

theorem State.onPage_keeps {b s : State} {blk : Blk} {n off : Nat} {k : State → State} (h0 : Keeps b s)
    (hk : ∀ t, Keeps b t → Keeps b (k t)) : Keeps b (s.onPage blk n off k) := by
  unfold State.onPage
  exact Keeps.ite (Keeps.frame State.addrErr_frame rfl h0) (Keeps.ite h0 (hk _ (Keeps.frame State.ungatePage_frame rfl h0)))

theorem execKvpCfgWrite_keeps {n : PoolId} {frames : Bool} {v : W32} {s : State} :
    ∃ out, execKvpCfgWrite n frames v s = .next out ∧ Keeps s out := by
  refine ⟨_, rfl, ?_⟩
  refine Keeps.trans ?_ State.kvpWrite_keeps
  exact .refl

end Sys2Proof.Machine
end

