-- ==== Sys2Proof/Laws/LineCmds.lean ====
section
/-! SUPPORT. What each operation and each meaning of Machine/LineCmds.lean can change at most: the pieces of the state outside
its list stay as they are. -/

namespace Sys2Proof.Machine

theorem State.copyCast_frame {s : State} {w : Nat} {d : Nat} {a : Nat} {raw : Held} :
    Frame [.regs, .cnt64, .fab] s (State.copyCast s w d a raw) := by
  unfold State.copyCast
  dsimp only
  refine Frame.step State.mcSend_frame rfl ?_
  refine Frame.step State.mcOne_frame rfl ?_
  exact .refl

theorem State.copyLine_frame {s : State} {d : Nat} {i : Nat} {e : Ecc} :
    Frame [.regs, .latch, .cnt64, .fls, .ums, .sram, .sramBad, .hostMem, .reports, .hostOut, .freeCtr, .hbm, .fab, .logPtr, .fe, .tr, .pw, .flt, .sec, .snap, .compat, .hostReads] s (State.copyLine s d i e) := by
  unfold State.copyLine
  split
  · exact .refl
  · split
    · exact .refl
    · dsimp only
      refine Frame.ite ?_ ?_
      · refine Frame.step State.copyCast_frame rfl ?_
        refine Frame.trans ?_ (State.engWrite_frame (regIO_within rfl) rfl)
        exact .refl
      · refine Frame.trans ?_ (State.engWrite_frame (regIO_within rfl) rfl)
        exact .refl

theorem State.lineOut_frame {s : State} {g : Agent} {d : Nat} {i : Nat} {e : Ecc} :
    Frame [.regs, .latch, .cnt64, .fls, .ums, .sram, .sramBad, .hostMem, .reports, .hostOut, .freeCtr, .hbm, .fab, .logPtr, .fe, .tr, .pw, .flt, .sec, .snap, .compat, .hostReads] s (State.lineOut s g d i e) := by
  unfold State.lineOut
  split
  · refine Frame.step State.copyLine_frame rfl ?_
    exact .refl
  · refine Frame.trans ?_ (State.ddWrite_frame (regIO_within rfl) rfl)
    exact .refl
  · refine Frame.trans ?_ (State.engWrite_frame (regIO_within rfl) rfl)
    exact .refl

theorem execLineWrite_frame {g : Agent} {d : Nat} {i : Nat} {e : Ecc} {s : State} :
    ∃ out, execLineWrite g d i e s = .next out ∧ Frame [.regs, .latch, .cnt64, .fls, .ums, .sram, .sramBad, .hostMem, .reports, .hostOut, .freeCtr, .hbm, .fab, .logPtr, .fe, .tr, .pw, .flt, .sec, .snap, .compat, .hostReads] s out := by
  refine ⟨_, rfl, ?_⟩
  refine Frame.step State.lineOut_frame rfl ?_
  exact .refl

theorem execLineRead_frame {g : Agent} {d : Nat} {i : Nat} {e : Ecc} {s : State} :
    ∃ out, execLineRead g d i e s = .next out ∧ Frame [.regs, .latch, .cnt64, .fls, .ums, .sram, .sramBad, .hostMem, .reports, .hostOut, .freeCtr, .hbm, .fab, .logPtr, .fe, .tr, .pw, .flt, .sec, .snap, .compat, .hostReads] s out := by
  refine ⟨_, rfl, ?_⟩
  refine Frame.trans ?_ (State.engRead_frame (regIO_within rfl) rfl)
  exact .refl

theorem execLineReadReturn_frame {g : Agent} {d : Nat} {i : Nat} {s : State} :
    ∃ out, execLineReadReturn g d i s = .next out ∧ Frame [.fls, .ums, .reports, .fe] s out := by
  refine ⟨_, rfl, ?_⟩
  refine Frame.step State.engReturn_frame rfl ?_
  exact .refl

theorem execLineDropReport_frame {g : Agent} {d : Nat} {i : Nat} {s : State} :
    ∃ out, execLineDropReport g d i s = .next out ∧ Frame [.regs, .cnt64, .fls, .ums, .reports, .hostOut, .freeCtr, .fab, .logPtr, .fe, .pw] s out := by
  refine ⟨_, rfl, ?_⟩
  split
  · refine Frame.step State.ddDrop_frame rfl ?_
    exact .refl
  · refine Frame.step State.engDrop_frame rfl ?_
    exact .refl

theorem execFeedLineArrive_frame {g : Agent} {d : Nat} {i : Nat} {s : State} :
    ∃ out, execFeedLineArrive g d i s = .next out ∧ Frame [.regs, .latch, .cnt64, .fls, .ums, .sram, .sramBad, .hostMem, .reports, .hostOut, .freeCtr, .hbm, .fab, .logPtr, .fe, .tr, .pw, .flt, .sec, .snap, .compat, .hostReads] s out := by
  refine ⟨_, rfl, ?_⟩
  refine Frame.ite ?_ ?_
  · refine Frame.step State.lineOut_frame rfl ?_
    exact .refl
  · exact .refl

theorem execSorrelScanEnd_frame {x : StackReads} {s : State} :
    ∃ out, execSorrelScanEnd x s = .next out ∧ Frame [.regs, .latch, .cnt64, .fls, .ums, .sram, .sramBad, .hostMem, .reports, .hostOut, .freeCtr, .hbm, .fab, .logPtr, .fe, .tr, .pw, .flt, .sec, .snap, .compat, .hostReads] s out := by
  refine ⟨_, rfl, ?_⟩
  refine Frame.trans ?_ (State.srScan_frame (regIO_within rfl) rfl)
  exact .refl

theorem State.hostAsk_frame {s : State} {g : Agent} {d : Nat} {i : Nat} {ha : Nat} :
    Frame [.hostOut, .hostReads] s (State.hostAsk s g d i ha) := by
  unfold State.hostAsk
  refine Frame.set_hostOut_hostReads rfl ?_
  exact .refl

theorem State.hostLook_frame {s : State} {g : Agent} {d : Nat} {i : Nat} :
    Frame [.regs, .hostOut, .logPtr, .hostReads] s (State.hostLook s g d i) := by
  unfold State.hostLook
  dsimp only
  refine Frame.ite ?_ ?_
  · exact .refl
  · refine Frame.ite ?_ ?_
    · refine Frame.step State.hostAsk_frame rfl ?_
      exact .refl
    · refine Frame.step State.addrErr_frame rfl ?_
      exact .refl

theorem execHostWindowAccess_frame {g : Agent} {d : Nat} {i : Nat} {s : State} :
    ∃ out, execHostWindowAccess g d i s = .next out ∧ Frame [.regs, .latch, .cnt64, .fls, .ums, .sram, .sramBad, .hostMem, .reports, .hostOut, .freeCtr, .hbm, .fab, .logPtr, .fe, .tr, .pw, .flt, .sec, .snap, .compat, .hostReads] s out := by
  refine ⟨_, rfl, ?_⟩
  split
  · refine Frame.step State.hostLook_frame rfl ?_
    exact .refl
  · refine Frame.step State.hostLook_frame rfl ?_
    exact .refl
  · split
    · exact .refl
    · split
      · refine Frame.ite ?_ ?_
        · exact .refl
        · refine Frame.ite ?_ ?_
          · refine Frame.step State.modDesc_frame rfl ?_
            refine Frame.step State.hostAsk_frame rfl ?_
            exact .refl
          · refine Frame.trans ?_ (State.engRead_frame (regIO_within rfl) rfl)
            exact .refl
      · dsimp only
        refine Frame.ite ?_ ?_
        · refine Frame.step State.lineOut_frame rfl ?_
          exact .refl
        · exact .refl

theorem State.hostTake_frame {s : State} {r : HostRead} {data : Line} :
    Frame [.hostMem, .fe] s (State.hostTake s r data) := by
  unfold State.hostTake
  refine Frame.set_hostMem_fe rfl ?_
  exact .refl

theorem execHostReadCompletion_frame {g : Agent} {d : Nat} {i : Nat} {data : Line} {ep : Bool} {s : State} :
    ∃ out, execHostReadCompletion g d i data ep s = .next out ∧ Frame [.regs, .cnt64, .fls, .ums, .hostMem, .hostOut, .fab, .fe, .hostReads] s out := by
  refine ⟨_, rfl, ?_⟩
  split
  · exact .refl
  · dsimp only
    split
    · refine Frame.step State.hostTake_frame rfl ?_
      refine Frame.step State.cnt_frame rfl ?_
      refine Frame.set_hostReads rfl ?_
      exact .refl
    · refine Frame.step State.hostTake_frame rfl ?_
      refine Frame.step State.cnt_frame rfl ?_
      refine Frame.set_hostReads rfl ?_
      exact .refl
    · split
      · refine Frame.step State.answerTo_frame rfl ?_
        refine Frame.step State.setFab_frame rfl ?_
        refine Frame.step State.cnt_frame rfl ?_
        refine Frame.set_hostReads rfl ?_
        exact .refl
      · refine Frame.step State.cnt_frame rfl ?_
        refine Frame.set_hostReads rfl ?_
        exact .refl
    · refine Frame.step State.holdLine_frame rfl ?_
      refine Frame.step State.cnt_frame rfl ?_
      refine Frame.set_hostReads rfl ?_
      exact .refl

theorem execPktWrite_frame {l : LinkId} {h : PktHdr} {a : W52} {mask : W128} {data : Line} {psn : Bool} {tally : OptW32} {cnt : Bool} {s : State} :
    ∃ out, execPktWrite l h a mask data psn tally cnt s = .next out ∧ Frame [.regs, .latch, .cnt64, .fls, .ums, .sram, .sramBad, .hostMem, .reports, .hostOut, .freeCtr, .hbm, .fab, .logPtr, .fe, .tr, .pw, .flt, .sec, .snap, .compat, .hostReads] s out := by
  refine ⟨_, rfl, ?_⟩
  refine Frame.trans ?_ (State.pktWrite_frame (regIO_within rfl) rfl)
  exact .refl

theorem execPktRead_frame {l : LinkId} {h : PktHdr} {a : W52} {s : State} :
    ∃ out, execPktRead l h a s = .next out ∧ Frame [.regs, .latch, .cnt64, .fls, .ums, .sram, .sramBad, .hostMem, .reports, .hostOut, .freeCtr, .hbm, .fab, .logPtr, .fe, .tr, .pw, .flt, .sec, .snap, .compat, .hostReads] s out := by
  refine ⟨_, rfl, ?_⟩
  refine Frame.trans ?_ (State.pktRead_frame (regIO_within rfl) rfl)
  exact .refl

theorem execPktSignal_frame {l : LinkId} {h : PktHdr} {tally : W32} {v : W32} {s : State} :
    ∃ out, execPktSignal l h tally v s = .next out ∧ Frame [.regs, .cnt64, .fls, .ums, .hostOut, .fab, .logPtr, .pw] s out := by
  refine ⟨_, rfl, ?_⟩
  refine Frame.step State.pktSignal_frame rfl ?_
  exact .refl

theorem execPktEnd_frame {l : LinkId} {h : PktHdr} {a : W52} {e : FeedId} {s : State} :
    ∃ out, execPktEnd l h a e s = .next out ∧ Frame [.regs, .cnt64, .fls, .hostOut, .fab, .logPtr, .pw] s out := by
  refine ⟨_, rfl, ?_⟩
  refine Frame.step State.pktEnd_frame rfl ?_
  exact .refl

theorem execMcWrite_frame {l : LinkId} {h : PktHdr} {tree : TreeId} {a : W42} {data : Line} {psn : Bool} {ct : Bool} {tally : OptW32} {s : State} :
    ∃ out, execMcWrite l h tree a data psn ct tally s = .next out ∧ Frame [.regs, .latch, .cnt64, .fls, .ums, .sram, .sramBad, .hostMem, .reports, .hostOut, .freeCtr, .hbm, .fab, .logPtr, .fe, .tr, .pw, .flt, .sec, .snap, .compat, .hostReads] s out := by
  refine ⟨_, rfl, ?_⟩
  refine Frame.trans ?_ (State.mcWrite_frame (regIO_within rfl) rfl)
  exact .refl

theorem State.copyLine_keeps {s : State} {d : Nat} {i : Nat} {e : Ecc} : Keeps s (State.copyLine s d i e) := by
  unfold State.copyLine
  split
  · exact .refl
  · split
    · exact .refl
    · dsimp only
      refine Keeps.ite ?_ ?_
      · refine Keeps.frame State.copyCast_frame rfl ?_
        refine Keeps.trans ?_ (State.engWrite_keeps regIO_keeps)
        exact .refl
      · refine Keeps.trans ?_ (State.engWrite_keeps regIO_keeps)
        exact .refl

theorem State.lineOut_keeps {s : State} {g : Agent} {d : Nat} {i : Nat} {e : Ecc} : Keeps s (State.lineOut s g d i e) := by
  unfold State.lineOut
  split
  · refine Keeps.trans ?_ State.copyLine_keeps
    exact .refl
  · refine Keeps.trans ?_ (State.ddWrite_keeps regIO_keeps)
    exact .refl
  · refine Keeps.trans ?_ (State.engWrite_keeps regIO_keeps)
    exact .refl

theorem execLineWrite_keeps {g : Agent} {d : Nat} {i : Nat} {e : Ecc} {s : State} :
    ∃ out, execLineWrite g d i e s = .next out ∧ Keeps s out := by
  refine ⟨_, rfl, ?_⟩
  refine Keeps.trans ?_ State.lineOut_keeps
  exact .refl

theorem execLineRead_keeps {g : Agent} {d : Nat} {i : Nat} {e : Ecc} {s : State} :
    ∃ out, execLineRead g d i e s = .next out ∧ Keeps s out := by
  refine ⟨_, rfl, ?_⟩
  refine Keeps.trans ?_ (State.engRead_keeps regIO_keeps)
  exact .refl

theorem execFeedLineArrive_keeps {g : Agent} {d : Nat} {i : Nat} {s : State} :
    ∃ out, execFeedLineArrive g d i s = .next out ∧ Keeps s out := by
  refine ⟨_, rfl, ?_⟩
  refine Keeps.ite ?_ ?_
  · refine Keeps.trans ?_ State.lineOut_keeps
    exact .refl
  · exact .refl

theorem execSorrelScanEnd_keeps {x : StackReads} {s : State} :
    ∃ out, execSorrelScanEnd x s = .next out ∧ Keeps s out := by
  refine ⟨_, rfl, ?_⟩
  refine Keeps.trans ?_ (State.srScan_keeps regIO_keeps)
  exact .refl

theorem execHostWindowAccess_keeps {g : Agent} {d : Nat} {i : Nat} {s : State} :
    ∃ out, execHostWindowAccess g d i s = .next out ∧ Keeps s out := by
  refine ⟨_, rfl, ?_⟩
  split
  · refine Keeps.frame State.hostLook_frame rfl ?_
    exact .refl
  · refine Keeps.frame State.hostLook_frame rfl ?_
    exact .refl
  · split
    · exact .refl
    · split
      · refine Keeps.ite ?_ ?_
        · exact .refl
        · refine Keeps.ite ?_ ?_
          · refine Keeps.frame State.modDesc_frame rfl ?_
            refine Keeps.frame State.hostAsk_frame rfl ?_
            exact .refl
          · refine Keeps.trans ?_ (State.engRead_keeps regIO_keeps)
            exact .refl
      · dsimp only
        refine Keeps.ite ?_ ?_
        · refine Keeps.trans ?_ State.lineOut_keeps
          exact .refl
        · exact .refl

theorem State.hostTake_keeps {s : State} {r : HostRead} {data : Line} : Keeps s (State.hostTake s r data) := by
  unfold State.hostTake
  refine Keeps.set_hostMem_fe Memory.writeMasked_wf ?_
  exact .refl

theorem execHostReadCompletion_keeps {g : Agent} {d : Nat} {i : Nat} {data : Line} {ep : Bool} {s : State} :
    ∃ out, execHostReadCompletion g d i data ep s = .next out ∧ Keeps s out := by
  refine ⟨_, rfl, ?_⟩
  split
  · exact .refl
  · dsimp only
    split
    · refine Keeps.trans ?_ State.hostTake_keeps
      refine Keeps.frame State.cnt_frame rfl ?_
      refine Keeps.set_hostReads ?_
      exact .refl
    · refine Keeps.trans ?_ State.hostTake_keeps
      refine Keeps.frame State.cnt_frame rfl ?_
      refine Keeps.set_hostReads ?_
      exact .refl
    · split
      · refine Keeps.frame State.answerTo_frame rfl ?_
        refine Keeps.frame State.setFab_frame rfl ?_
        refine Keeps.frame State.cnt_frame rfl ?_
        refine Keeps.set_hostReads ?_
        exact .refl
      · refine Keeps.frame State.cnt_frame rfl ?_
        refine Keeps.set_hostReads ?_
        exact .refl
    · refine Keeps.frame State.holdLine_frame rfl ?_
      refine Keeps.frame State.cnt_frame rfl ?_
      refine Keeps.set_hostReads ?_
      exact .refl

theorem execPktWrite_keeps {l : LinkId} {h : PktHdr} {a : W52} {mask : W128} {data : Line} {psn : Bool} {tally : OptW32} {cnt : Bool} {s : State} :
    ∃ out, execPktWrite l h a mask data psn tally cnt s = .next out ∧ Keeps s out := by
  refine ⟨_, rfl, ?_⟩
  refine Keeps.trans ?_ (State.pktWrite_keeps regIO_keeps)
  exact .refl

theorem execPktRead_keeps {l : LinkId} {h : PktHdr} {a : W52} {s : State} :
    ∃ out, execPktRead l h a s = .next out ∧ Keeps s out := by
  refine ⟨_, rfl, ?_⟩
  refine Keeps.trans ?_ (State.pktRead_keeps regIO_keeps)
  exact .refl

theorem execMcWrite_keeps {l : LinkId} {h : PktHdr} {tree : TreeId} {a : W42} {data : Line} {psn : Bool} {ct : Bool} {tally : OptW32} {s : State} :
    ∃ out, execMcWrite l h tree a data psn ct tally s = .next out ∧ Keeps s out := by
  refine ⟨_, rfl, ?_⟩
  refine Keeps.trans ?_ (State.mcWrite_keeps regIO_keeps)
  exact .refl

end Sys2Proof.Machine
end

