-- ==== Sys2Proof/Laws/Pins.lean ====
section
/-! SUPPORT. What each operation and each meaning of Machine/Pins.lean can change at most: the pieces of the state outside
its list stay as they are. -/

namespace Sys2Proof.Machine

theorem execPerstNFall_frame {s : State} :
    ∃ out, execPerstNFall s = .next out ∧ Frame [.regs, .latch, .cnt64, .fls, .ums, .sram, .hostMem, .reports, .hostOut, .freeCtr, .hbm, .fab, .logPtr, .bme, .fe, .tr, .pw, .flt, .boot, .mse, .hostReads] s out := by
  refine ⟨_, rfl, ?_⟩
  dsimp only
  refine Frame.ite ?_ ?_
  · refine Frame.step State.devStart_frame rfl ?_
    refine Frame.set_bme_boot_mse rfl ?_
    exact .refl
  · refine Frame.set_bme_boot_mse rfl ?_
    exact .refl

theorem execPerstNRise_frame {s : State} :
    ∃ out, execPerstNRise s = .next out ∧ Frame [.boot] s out := by
  refine ⟨_, rfl, ?_⟩
  refine Frame.set_boot rfl ?_
  exact .refl

theorem execFlr_frame {s : State} :
    ∃ out, execFlr s = .next out ∧ Frame [.regs, .latch, .cnt64, .fls, .ums, .sram, .hostMem, .reports, .hostOut, .freeCtr, .hbm, .fab, .logPtr, .bme, .fe, .tr, .pw, .flt, .sec, .mse, .hostReads] s out := by
  refine ⟨_, rfl, ?_⟩
  dsimp only
  refine Frame.ite ?_ ?_
  · refine Frame.step State.changeStart_frame rfl ?_
    refine Frame.set_bme_mse rfl ?_
    exact .refl
  · refine Frame.step State.devStart_frame rfl ?_
    refine Frame.set_bme_mse rfl ?_
    exact .refl

theorem execConfigRequest_frame {q : ConfigReq} {s : State} :
    ∃ out, execConfigRequest q s = .next out ∧ Frame [.regs, .latch, .cnt64, .fls, .ums, .sram, .hostMem, .reports, .hostOut, .freeCtr, .hbm, .fab, .logPtr, .bme, .fe, .tr, .pw, .flt, .sec, .mse, .bar4, .hostReads] s out := by
  refine ⟨_, rfl, ?_⟩
  dsimp only
  refine Frame.ite ?_ ?_
  · exact .refl
  · refine Frame.ite ?_ ?_
    · refine Frame.set_hostOut rfl ?_
      exact .refl
    · split
      · refine Frame.set_hostOut rfl ?_
        refine Frame.step State.fresh_frame rfl ?_
        exact .refl
      · refine Frame.ite ?_ ?_
        · refine Frame.step State.tdiFail_frame rfl ?_
          exact .refl
        · refine Frame.set_hostOut_bme_mse rfl ?_
          exact .refl
      · refine Frame.ite ?_ ?_
        · exact .refl
        · refine Frame.ite ?_ ?_
          · refine Frame.step State.tdiFail_frame rfl ?_
            exact .refl
          · refine Frame.set_hostOut_bar4 rfl ?_
            exact .refl

theorem State.bar4Lines_frame {s : State} {e : Ecc} {n a : Nat} {r : List Line × Bool × State}
    (hr : State.bar4Lines s e n a = some r) : Frame [.regs, .cnt64, .reports, .hostOut, .hbm, .logPtr] s r.2.2 := by
  induction n generalizing a s r e with
  | zero =>
    cases hr
    exact .refl
  | succ n ih =>
    unfold State.bar4Lines at hr
    split at hr
    · rw [Option.map_eq_some_iff] at hr
      obtain ⟨y, hy, rfl⟩ := hr
      show Frame _ s y.2.2
      exact (Frame.mono State.addrErr_frame rfl).trans (ih hy)
    · split at hr
      · dsimp only at hr
        rw [Option.map_eq_some_iff] at hr
        obtain ⟨y, hy, rfl⟩ := hr
        show Frame _ s y.2.2
        exact (Frame.mono State.hbmRead_frame rfl).trans (ih hy)
      · cases hr

theorem execBar4Read_frame {x : HostAtBar4} {len : Nat} {e : Ecc} {s : State} :
    ∃ out, execBar4Read x len e s = .next out ∧ Frame [.regs, .cnt64, .reports, .hostOut, .hbm, .logPtr] s out := by
  refine ⟨_, rfl, ?_⟩
  refine Frame.ite ?_ ?_
  · exact .refl
  · refine Frame.ite ?_ ?_
    · refine Frame.step State.refuseRead_frame rfl ?_
      exact .refl
    · dsimp only
      split
      · exact .refl
      · refine Frame.set_hostOut rfl ?_
        refine Frame.step State.cnt_frame rfl ?_
        refine Frame.step (State.bar4Lines_frame (by assumption)) rfl ?_
        exact .refl

theorem execBar4Write_frame {x : HostAtBar4} {mask : W128} {data : Line} {psn : Bool} {e : Ecc} {s : State} :
    ∃ out, execBar4Write x mask data psn e s = .next out ∧ Frame [.regs, .cnt64, .reports, .hostOut, .hbm, .logPtr, .fe] s out := by
  refine ⟨_, rfl, ?_⟩
  dsimp only
  refine Frame.ite ?_ ?_
  · exact .refl
  · refine Frame.ite ?_ ?_
    · refine Frame.step State.addrErr_frame rfl ?_
      exact .refl
    · refine Frame.ite ?_ ?_
      · refine Frame.step State.cnt_frame rfl ?_
        exact .refl
      · refine Frame.ite ?_ ?_
        · refine Frame.set_fe rfl ?_
          refine Frame.step State.cnt_frame rfl ?_
          exact .refl
        · refine Frame.ite ?_ ?_
          · refine Frame.step State.hbmWrite_frame rfl ?_
            refine Frame.step State.cnt_frame rfl ?_
            exact .refl
          · refine Frame.step State.hbmPartial_frame rfl ?_
            refine Frame.step State.cnt_frame rfl ?_
            exact .refl

theorem execEntdaa_frame {addr : W7} {s : State} :
    ∃ out, execEntdaa addr s = .next out ∧ Frame [.mgmt] s out := by
  refine ⟨_, rfl, ?_⟩
  refine Frame.ite ?_ ?_
  · refine Frame.set_mgmt rfl ?_
    exact .refl
  · exact .refl

theorem execTapInstructionLoad_frame {i : TapInstr} {s : State} :
    ∃ out, execTapInstructionLoad i s = .next out ∧ Frame [.pw, .mgmt] s out := by
  refine ⟨_, rfl, ?_⟩
  dsimp only
  refine Frame.ite ?_ ?_
  · refine Frame.set_pw_mgmt rfl ?_
    exact .refl
  · refine Frame.set_pw_mgmt rfl ?_
    exact .refl

theorem execPerstNFall_keeps {s : State} :
    ∃ out, execPerstNFall s = .next out ∧ Keeps s out := by
  refine ⟨_, rfl, ?_⟩
  dsimp only
  refine Keeps.ite ?_ ?_
  · refine Keeps.trans ?_ State.devStart_keeps
    refine Keeps.set_bme_boot_mse ?_
    exact .refl
  · refine Keeps.set_bme_boot_mse ?_
    exact .refl

theorem execFlr_keeps {s : State} :
    ∃ out, execFlr s = .next out ∧ Keeps s out := by
  refine ⟨_, rfl, ?_⟩
  dsimp only
  refine Keeps.ite ?_ ?_
  · refine Keeps.trans ?_ State.changeStart_keeps
    refine Keeps.set_bme_mse ?_
    exact .refl
  · refine Keeps.trans ?_ State.devStart_keeps
    refine Keeps.set_bme_mse ?_
    exact .refl

theorem execConfigRequest_keeps {q : ConfigReq} {s : State} :
    ∃ out, execConfigRequest q s = .next out ∧ Keeps s out := by
  refine ⟨_, rfl, ?_⟩
  dsimp only
  refine Keeps.ite ?_ ?_
  · exact .refl
  · refine Keeps.ite ?_ ?_
    · refine Keeps.set_hostOut ?_
      exact .refl
    · split
      · refine Keeps.set_hostOut ?_
        refine Keeps.frame State.fresh_frame rfl ?_
        exact .refl
      · refine Keeps.ite ?_ ?_
        · refine Keeps.trans ?_ State.tdiFail_keeps
          exact .refl
        · refine Keeps.set_hostOut_bme_mse ?_
          exact .refl
      · refine Keeps.ite ?_ ?_
        · exact .refl
        · refine Keeps.ite ?_ ?_
          · refine Keeps.trans ?_ State.tdiFail_keeps
            exact .refl
          · refine Keeps.set_hostOut_bar4 ?_
            exact .refl

theorem State.bar4Lines_keeps {s : State} {e : Ecc} {n a : Nat} {r : List Line × Bool × State}
    (hr : State.bar4Lines s e n a = some r) : Keeps s r.2.2 := by
  induction n generalizing a s r e with
  | zero =>
    cases hr
    exact .refl
  | succ n ih =>
    unfold State.bar4Lines at hr
    split at hr
    · rw [Option.map_eq_some_iff] at hr
      obtain ⟨y, hy, rfl⟩ := hr
      show Keeps s y.2.2
      exact (Keeps.frame State.addrErr_frame rfl .refl).trans (ih hy)
    · split at hr
      · dsimp only at hr
        rw [Option.map_eq_some_iff] at hr
        obtain ⟨y, hy, rfl⟩ := hr
        show Keeps s y.2.2
        exact State.hbmRead_keeps.trans (ih hy)
      · cases hr

theorem execBar4Read_keeps {x : HostAtBar4} {len : Nat} {e : Ecc} {s : State} :
    ∃ out, execBar4Read x len e s = .next out ∧ Keeps s out := by
  refine ⟨_, rfl, ?_⟩
  refine Keeps.ite ?_ ?_
  · exact .refl
  · refine Keeps.ite ?_ ?_
    · refine Keeps.frame State.refuseRead_frame rfl ?_
      exact .refl
    · dsimp only
      split
      · exact .refl
      · refine Keeps.set_hostOut ?_
        refine Keeps.frame State.cnt_frame rfl ?_
        refine Keeps.trans ?_ (State.bar4Lines_keeps (by assumption))
        exact .refl

theorem execBar4Write_keeps {x : HostAtBar4} {mask : W128} {data : Line} {psn : Bool} {e : Ecc} {s : State} :
    ∃ out, execBar4Write x mask data psn e s = .next out ∧ Keeps s out := by
  refine ⟨_, rfl, ?_⟩
  dsimp only
  refine Keeps.ite ?_ ?_
  · exact .refl
  · refine Keeps.ite ?_ ?_
    · refine Keeps.frame State.addrErr_frame rfl ?_
      exact .refl
    · refine Keeps.ite ?_ ?_
      · refine Keeps.frame State.cnt_frame rfl ?_
        exact .refl
      · refine Keeps.ite ?_ ?_
        · refine Keeps.set_fe ?_
          refine Keeps.frame State.cnt_frame rfl ?_
          exact .refl
        · refine Keeps.ite ?_ ?_
          · refine Keeps.trans ?_ State.hbmWrite_keeps
            refine Keeps.frame State.cnt_frame rfl ?_
            exact .refl
          · refine Keeps.trans ?_ State.hbmPartial_keeps
            refine Keeps.frame State.cnt_frame rfl ?_
            exact .refl

end Sys2Proof.Machine
end

