-- ==== Sys2Proof/WellFormed.lean ====
section
/-! DEFINITION. Well-formed commands: operands that lie in the range the manual gives them. A meaning is total and does
not ask for it. -/

namespace Sys2Proof

/-- A 64-bit time in nanoseconds (R15). -/
def time64 (t : Nat) : Bool := decide (t < 2 ^ 64)

/-- An SPDM session number. -/
def sid32 (n : Nat) : Bool := decide (n < 2 ^ 32)

/-- The injection time of a packet fits its counter (R308). -/
def PktHdr.wf (h : PktHdr) : Bool := time64 h.inj

/-- The agents with descriptor queues (R232, R248, R190). -/
def Agent.movesByDescriptor : Agent → Bool
  | .load _ | .store _ | .seq _ | .dma _ _ => true
  | .dd _ | .sorrel _ | .copy | .frontEnd | .umc | .host => false

/-- The agent that fills feeds (R232). -/
def Agent.isFeed : Agent → Bool
  | .load _ => true
  | .store _ | .seq _ | .dma _ _ | .dd _ | .sorrel _ | .copy | .frontEnd | .umc | .host => false

/-- An LSA names 12 links with states and peers in range, and a known MSTATE (R324, R441). -/
def Lsa.wf (a : Lsa) : Bool :=
  a.links.length == 12 && a.links.all (fun l => decide (l.1 < 4) && decide (l.2.1 < 1024) && decide (l.2.2 < 16))
    && decide (a.mstate < 8) && decide (a.digest < 2 ^ 64)

/-- One reading per rail. -/
def AvsReading.wf (r : AvsReading) : Bool := decide (r.rails.map (·.rail)).Nodup

/-- The phases of rails 0 to 2 and the status of 13 regulators (R333, R334). -/
def PmbReading.wf (r : PmbReading) : Bool := r.phases.length == 3 && r.status.length == 13 && r.aux.length == 2

/-- A configuration names three phase counts and three limits (R434). -/
def ConfigInput.wf (c : ConfigInput) : Bool := c.phases.length == 3 && c.icl.length == 3

/-- One training rate for each stack. -/
def TrainInput.wf (t : TrainInput) : Bool := t.rates.length == 8 && t.fail.all (fun c => decide (c < 256))

/-- BAR4's size is a power of two below 2^64. -/
def ConfigReq.wf : ConfigReq → Bool
  | .read | .command _ _ => true
  | .bar4Size n => decide (n < 64)

/-- A command whose operands are in range. -/
def Instr.wf : Instr → Bool
  | .nop .. | .halt .. | .br .. | .loopInsn .. | .salu .. | .sli .. | .scmp .. | .twait .. | .twaitSatisfied ..
  | .tsig .. | .tset .. | .tread .. | .dfence .. | .dfenceSatisfied .. | .ftest .. | .fcfg .. | .dq .. | .mma ..
  | .mmaStart .. | .wavefrontIssue .. | .accumulatorAdd .. | .stationaryLoadStart .. | .stationaryRowCommit ..
  | .drainRowRead .. | .vxInt .. | .vxFloat .. | .vxCvt .. | .vxReduce .. | .vxSpecial .. | .vld .. | .vst ..
  | .normRms .. | .normLn .. | .rope .. | .smerge .. | .topkR .. | .topkL .. | .sample .. | .qx .. | .mark ..
  | .digestPublish .. => true
  | .tilesDesc g => g.movesByDescriptor
  | .linesDesc g => g.movesByDescriptor
  | .gather g => g.movesByDescriptor
  | .descNop g => g.movesByDescriptor
  | .descWait g => g.movesByDescriptor
  | .descWaitSatisfied g => g.movesByDescriptor
  | .descSignal g => g.movesByDescriptor
  | .descEnd g => g.movesByDescriptor
  | .drain .. | .qout .. => true
  | .lineWrite _ _ n _ => decide (n < 2 ^ 32)
  | .lineRead _ _ n _ => decide (n < 2 ^ 32)
  | .lineReadReturn _ _ n => decide (n < 2 ^ 32)
  | .lineDropReport _ _ n => decide (n < 2 ^ 32)
  | .feedLineArrive g _ n => g.isFeed && decide (n < 2 ^ 32)
  | .feedEndMarker .. | .feedSlotDeliver .. | .feedSlotRelease .. | .patchRequest .. | .patchUnitAnswer ..
  | .dmaDescriptorStart .. | .allocGran .. | .freeGran .. | .kvAlloc .. | .kvFree .. | .kvBadOp .. | .sorrelRequest ..
  | .sorrelScanEnd .. | .summaryBuild .. | .lenUpdate .. | .openSeq .. | .closeSeq .. | .rebuild .. | .switchSeq ..
  | .seqBadOp .. => true
  | .doorbell _ size _ => decide (1 ≤ size) && decide (size ≤ 8)
  | .ringEnable .. | .ringDisable .. | .ringResume .. | .cmdNop .. | .launch .. | .slotGrant .. | .launchRelease ..
  | .floretCompletionReport .. | .launchComplete .. | .slotQuarantineEnd .. | .watchdogSample .. | .copyCmd ..
  | .copyEngineComplete .. | .waitTally .. | .waitTallySatisfied .. | .waitTallyTimeout .. | .cmdSignal .. | .fenceCmd ..
  | .phaseHint .. | .phaseHoldExpiry .. | .cmdMark .. | .loadWeightsBase .. | .loadWeightsPack .. | .retiringWaitEnd ..
  | .peerTallyReached .. | .peerTimeout .. | .swapLayer .. | .swapBeginWaitEnd .. | .swapRelocate .. => true
  | .pktWrite _ h _ _ _ _ _ _ => h.wf
  | .pktRead _ h _ => h.wf
  | .pktSignal _ h _ _ => h.wf
  | .pktEnd _ h _ _ => h.wf
  | .mcWrite _ h _ _ _ _ _ _ => h.wf
  | .pktData .. | .ack .. | .lossPkt .. => true
  | .pktFence _ _ _ _ _ inj => time64 inj
  | .deadListExpiry .. => true
  | .lsa _ a => a.wf
  | .lsaTimer .. | .reachExpiry .. | .splitDeclare .. => true
  | .pktTime .. => true
  | .timeHoldover .. | .ppsEdge .. | .subtreeReport .. => true
  | .replayRequest _ crc asSender _ => !(crc && asSender)
  | .replayTimeout .. | .laneFault .. | .linkDown .. | .linkTrained .. | .linkRetireTimeout .. | .linkProbe ..
  | .linkEqTick .. | .retrain .. | .hbmRead .. | .hbmWrite .. | .hbmPartialWrite .. | .migrationCopy .. | .mapSwitch .. => true
  | .hbmThermSample _ temp => decide (temp < 256)
  | .selfRefreshEntry .. | .selfRefreshExit .. | .fillStack .. | .fillEnd .. | .marginStart .. | .marginDone .. => true
  | .avsSample rd => rd.wf
  | .pmbusSample rd => rd.wf
  | .currentFastTick est => est.length == 3
  | .marginLoopTick .. | .cpmAlarm .. | .stretchEnd .. => true
  | .thermalTick _ quarterDeg => decide (quarterDeg < 2048)
  | .dieOvertemp .. | .aclkStep .. | .voltageReached .. | .pwrwarnFall .. | .pwrwarnRise .. | .pwrwarnReleaseTick ..
  | .vrFaultFall .. | .vrStatusRead .. | .vrFault3Fall .. | .phaseHealthyExpiry .. => true
  | .pmbAlertFall sts => sts.length == 13
  | .thermtrip .. | .umbelWake .. | .umbelWakeDone .. | .clockGate .. | .faultReport .. | .faultRecordResend ..
  | .quiesceEnd .. | .recoveryResetEnd .. | .scrubPreloadEnd .. | .partLiveWrite .. | .partReset .. | .dieReset ..
  | .dieResetEnd .. | .deviceReset .. | .deviceResetRun .. | .glResetDevice .. | .oosClear .. | .mgmtDeviceReset ..
  | .sweepTestStart .. | .sweepTestEnd .. | .sweepAbort .. => true
  | .sweepRerunEnd diff => match diff with | none => true | some d => decide (d.2 < 64)
  | .umcFaultAck .. | .tenantChangeCmd .. | .tenantChange .. | .tenantQuiesceEnd .. | .tenantFillEnd ..
  | .getCertificate .. => true
  | .challenge _ nonce => decide (nonce < 2 ^ 256)
  | .getMeasurements idx nonce => decide (idx < 256) && decide (nonce < 2 ^ 256)
  | .keyExchange sid _ pub => sid32 sid && decide (pub < 2 ^ 768)
  | .endSession sid => sid32 sid
  | .heartbeat sid => sid32 sid
  | .keyUpdate sid => sid32 sid
  | .sessionExpiry sid => sid32 sid
  | .setOwner sid key => sid32 sid && decide (key < 2 ^ 768)
  | .ideKm sid _ => sid32 sid
  | .ideIntegrityFailure .. => true
  | .lockInterface sid => sid32 sid
  | .tdiRun sid => sid32 sid
  | .stopInterface .. | .tdiError .. | .ckLoad .. | .ckLoadEnd .. | .ckDrop .. | .traceWrite .. | .trCfgWrite ..
  | .trTailWrite .. | .snapshotHangRequest .. | .umcSnapStart .. | .snapshotMctp .. | .coreHeartbeatTimeout ..
  | .snapshotCaptureEnd .. | .aonRstNFall .. | .aonRstNRise .. | .railWaitTimeout .. | .alwaysOnLock .. | .umcBoot .. => true
  | .configuration c => c.wf
  | .sramBist .. => true
  | .hbmTraining t => t.wf
  | .linkTraining masks => decide (masks.map (·.link)).Nodup
  | .topoAgreeTest .. | .topoTimeout .. | .joinAdmit .. => true
  | .setEtt t => t.all (fun b => decide (b < 256))
  | .getBootStatus .. | .regWrite .. | .commitSvn .. | .recoveryImageLoad .. | .perstNFall .. | .perstNRise .. | .flr .. => true
  | .configRequest q => q.wf
  | .counterLoRead x => decide (1 ≤ x.len) && decide (x.len ≤ 4096) && decide (x.off.toNat + x.len ≤ 2 ^ 26)
  | .bar4Read x len _ => decide (x.off < 2 ^ 52) && decide (1 ≤ len) && decide (len ≤ 4096)
  | .bar4Write x _ _ _ _ => decide (x.off < 2 ^ 52) && x.off % 128 == 0
  | .hostWindowAccess _ _ n => decide (n < 2 ^ 32)
  | .hostReadCompletion _ _ n _ _ => decide (n < 2 ^ 32)
  | .feedCfgWrite .. | .dmaCfgWrite .. | .kvpCfgWrite .. | .seqTableCfgWrite .. | .ringTblWrite .. | .grpBaseWrite ..
  | .compatWrite .. | .glCompatAll .. | .evtPendClear .. | .linkCtrlWrite .. | .registerWrite ..
  | .vddAonLoss .. | .entdaa .. | .managementReplyAck .. | .tapInstructionLoad .. => true
  | .d2dLaneRepair _ lane => decide (lane < 2 ^ 16)

end Sys2Proof
end

