-- ==== Sys2Proof/Tests/Slice0.lean ====
section
/-! SUPPORT. Tests. Every obligation with hypotheses has a witness: states and operands that meet the hypotheses of each of
its clauses. A few one-step tests take their expected values from the spec. -/

namespace Sys2Proof.Tests

set_option Elab.async false

open Sys2Proof Sys2Proof.Machine Sys2Proof.Claims

/-! States. -/

/-- Reset, with umbels 0 and 1 out of their hold and floret 0 as given. -/
def dev (fl : Floret) : State :=
  { State.reset with
    ums := [(0, { Umbel.reset with held := false }), (1, { Umbel.reset with held := false })], fls := [(0, fl)] }

/-- A floret about to run instruction word `w`. -/
def flAt (w : Nat) : Floret := { Floret.reset with run := true, halted := false, istore := [(0, BitVec.ofNat 64 w)] }

/-- An instruction word of opcode `op` with the given low fields, predicate p0. -/
def insn (op x : Nat) : Nat := op * 2 ^ 58 + x

def prog (op x : Nat) : State := dev (flAt (insn op x))

/-- The floret with scalar registers as listed. -/
def withS (fl : Floret) (sr : SMap W32) : Floret := { fl with sr := sr }

def progS (op x : Nat) (sr : SMap W32) : State := dev (withS (flAt (insn op x)) sr)

/-- The word goes ahead at PC of floret 0. -/
abbrev Goes (s : State) (op x : Nat) : Prop := s.look 0 op = .go (insn op x)

/-! Well-formedness refuses each operand out of its range. -/

def anyHdr : PktHdr := ⟨0, 0, 0, false, 2 ^ 64, 0⟩

def anyLsa (n : Nat) (l : Nat × Nat × Nat) : Lsa := ⟨1, 0, List.replicate n l, 0, false, 0⟩

theorem test_wf_refuses_engines :
    ([.tilesDesc .host, .linesDesc .host, .gather .copy, .descNop .umc, .descWait .frontEnd, .descWaitSatisfied (.dd 0),
      .descSignal (.sorrel 0), .descEnd .host, .lineWrite .host 0 (2 ^ 32) .clean, .lineRead .host 0 (2 ^ 32) .clean,
      .lineReadReturn .host 0 (2 ^ 32), .lineDropReport .host 0 (2 ^ 32), .feedLineArrive (.store 0) 0 0,
      .feedLineArrive (.load 0) 0 (2 ^ 32), .doorbell ⟨0, false⟩ 0 0, .doorbell ⟨0, false⟩ 9 0, .hostWindowAccess .host 0 (2 ^ 32),
      .hostReadCompletion .host 0 (2 ^ 32) 0 false] : List Instr).all (fun c => !c.wf) = true := by decide +kernel

theorem test_wf_refuses_fabric :
    ([.pktWrite 0 anyHdr 0 0 0 false none 0, .pktRead 0 anyHdr 0, .pktSignal 0 anyHdr 0 0, .pktEnd 0 anyHdr 0 0,
      .pktFence 0 0 0 0 0 (2 ^ 64), .lsa 0 (anyLsa 11 (0, 0, 0)), .lsa 0 (anyLsa 12 (4, 0, 0)), .lsa 0 (anyLsa 12 (0, 1024, 0)),
      .lsa 0 (anyLsa 12 (0, 0, 16)), .lsa 0 { anyLsa 12 (0, 0, 0) with mstate := 8 },
      .lsa 0 { anyLsa 12 (0, 0, 0) with digest := 2 ^ 64 }, .replayRequest 0 true true 0,
      .linkTraining [⟨0, 0, 0, 0, false⟩, ⟨0, 0, 0, 0, false⟩]] : List Instr).all (fun c => !c.wf) = true := by
  decide +kernel

theorem test_wf_refuses_board :
    ([.hbmThermSample 0 256, .avsSample ⟨[⟨0, true, 0, 0, 0, 0⟩, ⟨0, true, 0, 0, 0, 0⟩], 0, 0⟩, .pmbusSample ⟨[], [], []⟩,
      .currentFastTick [], .thermalTick 0 2048, .pmbAlertFall [], .sweepRerunEnd (some (0, 64)), .challenge 0 (2 ^ 256),
      .getMeasurements 256 0, .getMeasurements 0 (2 ^ 256), .keyExchange (2 ^ 32) false 0, .keyExchange 0 false (2 ^ 768),
      .endSession (2 ^ 32), .heartbeat (2 ^ 32), .keyUpdate (2 ^ 32), .sessionExpiry (2 ^ 32), .setOwner (2 ^ 32) 0,
      .setOwner 0 (2 ^ 768), .ideKm (2 ^ 32) 0, .lockInterface (2 ^ 32), .tdiRun (2 ^ 32),
      .configuration ⟨true, true, [], [], 0, 0, false, false⟩, .hbmTraining ⟨true, [], [], false⟩,
      .hbmTraining ⟨true, List.replicate 8 0, [256], false⟩, .setEtt [256], .configRequest (.bar4Size 64), .bar4Read ⟨2 ^ 52, false⟩ 4 .clean,
      .bar4Read ⟨0, false⟩ 0 .clean, .bar4Read ⟨0, false⟩ 4097 .clean, .bar4Write ⟨1, false⟩ 0 0 false .clean,
      .bar4Write ⟨2 ^ 52, false⟩ 0 0 false .clean,
      .d2dLaneRepair false (2 ^ 16)] : List Instr).all (fun c => !c.wf) = true := by decide +kernel

/-! Sequencer. -/

/-- A step runs the command in front: with SLI at PC, s0 holds IMM32 (R143). -/
theorem test_sli_step :
    (match step { prog 0x05 0x12345678 with pending := [.sli 0, .nop 0] } with
      | .next t => decide ((t.fl 0).s 0 = 0x12345678 ∧ (t.fl 0).pc = 1 ∧ t.pending = [.nop 0])
      | _ => false) = true := by decide +kernel

theorem witness_EmptyQueuePassesTime :
    (State.reset.pending = [] ∧ State.reset.boot.aonLow = true) ∧
    (let s := { State.reset with boot := { State.reset.boot with aonLow := false } }
     s.pending = [] ∧ s.boot.aonLow = false ∧ s.fab.held = []) := by decide +kernel

theorem witness_EveryStepKeepsTheMemoriesCanonical :
    State.reset.memWf = true ∧ (match step State.reset with | .next t => t.memWf | _ => false) = true := by decide +kernel

/-- A wait for target 0xFFFFFFF0 is satisfied by 0x10 and not the reverse (R154). -/
theorem test_wait_wraps : waitOk 0x10 0xFFFFFFF0 = true ∧ waitOk 0xFFFFFFF0 0x10 = false := by decide +kernel

theorem witness_WaitComparisonIsCorrectAcrossTheWrap :
    (2 ^ 32 ≤ 2 ^ 32 + 2 ^ 31 - 1 ∧ 2 ^ 32 + 2 ^ 31 - 1 - 2 ^ 32 < 2 ^ 31) ∧ (0 < 2 ^ 31 - 1 ∧ 2 ^ 31 - 1 - 0 < 2 ^ 31) := by decide

theorem witness_ScalarInstructionsTakeEffect :
    Goes (prog 0 0) 0 0 ∧ Goes (prog 1 0) 1 0 ∧ Goes (prog 2 0xFFFF) 2 0xFFFF ∧ Goes (prog 3 0) 3 0 ∧ Goes (prog 4 (8 * 2 ^ 51)) 4 (8 * 2 ^ 51) ∧
    Goes (prog 5 0) 5 0 ∧ Goes (prog 6 (5 * 2 ^ 51)) 6 (5 * 2 ^ 51) := by decide +kernel

/-- SRA of −1 by 31 is −1 (R143). -/
theorem test_sra : (match exec (.salu 0) (progS 4 (8 * 2 ^ 51 + 1 * 2 ^ 46 + 2 * 2 ^ 41 + 2 ^ 35 + 31) [(2, 0xFFFFFFFF)]) with
    | .next t => decide ((t.fl 0).s 1 = 0xFFFFFFFF) | _ => false) = true := by decide +kernel

theorem witness_PredicatesAndIllegalWordsDecideWhatExecutes :
    ((prog 4 0).seqOn 0 = true ∧ ((prog 4 0).fl 0).pc < 8192 ∧ Isa.listed 4 = true ∧ Isa.opcode ((prog 4 0).fl 0).word = 4 ∧
      Isa.legal ((prog 4 0).fl 0) ((prog 4 0).fl 0).word = true) ∧
    (seqInsn (.salu 0) = some (0, 4) ∧ (prog 4 (2 ^ 55)).look 0 4 = .skip) ∧
    (seqInsn (.salu 0) = some (0, 4) ∧ (prog 4 (9 * 2 ^ 51)).look 0 4 = .illegal ∧ ((prog 4 (9 * 2 ^ 51)).fl 0).pc < 8192) := by
  decide +kernel

/-- TWAIT on floret tally 0 for the value of s1. -/
def twaitW : Nat := 1 * 2 ^ 41
def waiting (op x : Nat) (sr : SMap W32) (ts : SMap W32) (le : Eng) : State :=
  dev { withS (flAt (insn op x)) sr with waiting := true, tallies := ts, le := le }

theorem witness_TallyInstructionsTakeEffect :
    (Goes (progS 0x10 twaitW [(1, 0)]) 0x10 twaitW ∧ Met (namedTally (progS 0x10 twaitW [(1, 0)]) 0 (insn 0x10 twaitW)) 0) ∧
    (Goes (progS 0x10 twaitW [(1, 5)]) 0x10 twaitW ∧ ¬ Met (namedTally (progS 0x10 twaitW [(1, 5)]) 0 (insn 0x10 twaitW)) 5) ∧
    (Goes (waiting 0x10 twaitW [(1, 5)] [(0, 5)] .reset) 0x10 twaitW ∧
      ((waiting 0x10 twaitW [(1, 5)] [(0, 5)] .reset).fl 0).waiting = true ∧
      Met (namedTally (waiting 0x10 twaitW [(1, 5)] [(0, 5)] .reset) 0 (insn 0x10 twaitW)) 5) ∧
    (Goes (prog 0x14 (2 ^ 54)) 0x14 (2 ^ 54) ∧ FenceMet ((prog 0x14 (2 ^ 54)).fl 0) (insn 0x14 (2 ^ 54))) ∧
    (Goes (waiting 0x14 (2 ^ 54) [] [] { Eng.reset with enq := 1 }) 0x14 (2 ^ 54) ∧
      ¬ FenceMet ((waiting 0x14 (2 ^ 54) [] [] { Eng.reset with enq := 1 }).fl 0) (insn 0x14 (2 ^ 54))) ∧
    (Goes (waiting 0x14 (2 ^ 54) [] [] .reset) 0x14 (2 ^ 54) ∧ ((waiting 0x14 (2 ^ 54) [] [] .reset).fl 0).waiting = true ∧
      FenceMet ((waiting 0x14 (2 ^ 54) [] [] .reset).fl 0) (insn 0x14 (2 ^ 54))) ∧
    Goes (prog 0x13 0) 0x13 0 ∧ (Goes (prog 0x12 0) 0x12 0 ∧ bitN (insn 0x12 0) 54 = false) ∧
    (Goes (prog 0x12 (2 ^ 54)) 0x12 (2 ^ 54) ∧ bitN (insn 0x12 (2 ^ 54)) 54 = true) := by
  unfold FenceMet Met
  decide +kernel

/-- Floret 0's umbel in reset, its die too. -/
def heldDev : State := { dev (flAt 0) with ums := [] }

theorem witness_TallyAdditionsEndAsTheirReferenceSays :
    ((prog 0 0).tref none none 0x20105 = .um 1 5 ∧ (prog 0 0).umShut 1 = false) ∧
    (heldDev.tref none none 0x20005 = .um 0 5 ∧ heldDev.umShut 0 = true) ∧
    ((prog 0 0).tref none none 0x0005 = .fl 0 5 ∧ (prog 0 0).flPresent 0 = true ∧ (prog 0 0).umShut (0 / 16) = false ∧
      hwTally 5 = false) ∧
    ((prog 0 0).tref none none 0x0040 = .fl 0 64) ∧ (heldDev.tref none none 0x0005 = .fl 0 5 ∧ heldDev.umShut (0 / 16) = true) ∧
    (Goes (progS 0x11 (1 * 2 ^ 46) [(1, 0x20105)]) 0x11 (1 * 2 ^ 46) ∧
      (progS 0x11 (1 * 2 ^ 46) [(1, 0x20105)]).tref (some 0) (some 0) 0x20105 = .um 1 5 ∧
      (prog 0 0).tref (some 0) (some 0) 0x0005 = .fl 0 5) := by decide +kernel

/-- TSIG to tally 5 of umbel 2, which is held, and to an index that no floret has. -/
theorem witness_TallyAdditions_lost :
    (let s := progS 0x11 (1 * 2 ^ 46) [(1, 0x20205)]
     Goes s 0x11 (1 * 2 ^ 46) ∧ s.tref (some 0) (some 0) 0x20205 = .um 2 5 ∧ s.umShut 2 = true) ∧
    (let s := progS 0x11 (1 * 2 ^ 46) [(1, 0x40)]
     Goes s 0x11 (1 * 2 ^ 46) ∧ s.tref (some 0) (some 0) 0x40 = .fl 0 64) := by decide +kernel

/-- A device whose route to device 5 is link 3, which is up, about to run TSIG to tally 7 of floret 0 there. -/
def tsigRemote : State :=
  { progS 0x11 (1 * 2 ^ 46) [(1, BitVec.ofNat 32 (2 ^ 19 + 5 * 2 ^ 20 + 7))] with
    fab := { Fabric.reset with links := [(3, { Link.reset with state := 2 })], routes := [(5, 3 + 2 ^ 4)] } }

theorem witness_TallyAdditions_remote :
    Goes tsigRemote 0x11 (1 * 2 ^ 46) ∧ tsigRemote.tref (some 0) (some 0) ((tsigRemote.fl 0).s 1).toNat = .remote 5 ∧
    hop tsigRemote 5 0 (tsigRemote.fl 0).det = some (3, false) ∧ (tsigRemote.fl 0).lslot = 0 ∧
    tsigRemote.fab.closedFlows.contains (66, (tsigRemote.fl 0).lgen) = false := by decide +kernel

/-- FCFG of feed 0 with SLOTS and BASE in s1, BL in s2. -/
def fcfgW : Nat := 1 * 2 ^ 41 + 2 * 2 ^ 36

theorem witness_FeedInstructionsTakeEffect :
    Goes (prog 0x18 0) 0x18 0 ∧ Goes (progS 0x19 fcfgW [(1, 0x20010), (2, 33)]) 0x19 fcfgW ∧
    (((progS 0x19 fcfgW [(1, 0x20010), (2, 33)]).fl 0).feed 0).idle = true ∧ bitsN 0x20010 31 16 = 2 ∧ 0x10 + 2 * 33 ≤ 32768 ∧
    Goes (progS 0x19 fcfgW []) 0x19 fcfgW ∧ Goes (progS 0x19 fcfgW [(1, 0x20010), (2, 73)]) 0x19 fcfgW ∧
    (let fl := { flAt (insn 0x19 fcfgW) with feeds := [(0, { Feed.off with slots := 2, bl := 1, state := 1, present := [(0, 1)] })] }
     Goes (dev fl) 0x19 fcfgW ∧ (fl.feed 0).idle = false) := by decide +kernel

def fullQueue : Eng := { Eng.reset with queue := List.replicate 256 ⟨0, 0, 0, 0, 0⟩ }

/-- F19 MMA of feeds 0 and 1, one K step. -/
def mmaW : Nat := 4 * 2 ^ 52 + 5 * 2 ^ 47 + 2 ^ 28 + 2 ^ 18

/-- A LIVE feed of F19 slots at near-bank line `b`. -/
def liveFeed (b : Nat) : Feed := { Feed.off with base := b, slots := 2, bl := 32, state := 1 }

def mmaFl : Floret := { flAt (insn 0x20 mmaW) with feeds := [(0, liveFeed 0), (1, liveFeed 64)] }

theorem witness_DqAndMmaEnterTheirQueues :
    (Goes (prog 0x1C 0) 0x1C 0 ∧ ((prog 0x1C 0).fl 0).le.queue.length + (bitsN (insn 0x1C 0) 39 32 + 1) ≤ 256) ∧
    (Goes (waiting 0x1C 0 [] [] fullQueue) 0x1C 0 ∧
      256 < ((waiting 0x1C 0 [] [] fullQueue).fl 0).le.queue.length + (bitsN (insn 0x1C 0) 39 32 + 1)) ∧
    (Goes (dev mmaFl) 0x20 mmaW ∧ (mmaFl.mx.filter (fun m => m.issued != 15)).length < 4) := by decide +kernel

def vxF : Nat := 2 ^ 27 + 2 ^ 25

/-- With no QX instruction waiting none is held (R128). -/
theorem witness_VxGoes (fl : Floret) (wr : List Nat) (h : fl.qxq = []) : fl.vxHeld wr = false := by
  simp only [Floret.vxHeld, h, List.any_nil]
  induction wr <;> simp_all

/-- VST of half words of v0 to near-bank line 0: to a LIVE feed with room there, to one whose line stands; and past a QX instruction
that has still to read line 0. -/
def vstFl (present : Nat) (qxq : List QxJob) : Floret :=
  { flAt (insn 0x2D (9 * 2 ^ 49)) with
    feeds := [(0, { Feed.off with slots := 2, bl := 1, state := 1, present := [(0, present)] })], qxq := qxq }

theorem witness_VxDone :
    (let s := dev (vstFl 0 [])
     let r := vxOut 0 (s.fl 0) s (insn 0x2D (9 * 2 ^ 49))
     r.wr = [0] ∧ r.fl.feedLines 0 = [(0, 0, 0)] ∧ r.fl.feedFull (0, 0, 0) = false) ∧
    (let s := dev (vstFl 1 [])
     let r := vxOut 0 (s.fl 0) s (insn 0x2D (9 * 2 ^ 49))
     r.wr = [0] ∧ r.fl.feedLines 0 = [(0, 0, 0)] ∧ r.fl.feedFull (0, 0, 0) = true) ∧
    (let s := dev (vstFl 0 [⟨2 ^ 14, 64, 0, 0, 0, 0, 0⟩])
     Goes s 0x2D (9 * 2 ^ 49) ∧ (s.fl 0).vxHeld (vxOut 0 (s.fl 0) s (insn 0x2D (9 * 2 ^ 49))).wr = true) := by
  decide +kernel

theorem witness_VxInstructionsTakeEffect :
    Goes (prog 0x28 0) 0x28 0 ∧ Goes (prog 0x29 vxF) 0x29 vxF ∧ Goes (prog 0x2A 0) 0x2A 0 ∧ Goes (prog 0x2B 0) 0x2B 0 ∧
    Goes (prog 0x2C vxF) 0x2C vxF ∧ Goes (prog 0x2D 0) 0x2D 0 ∧ Goes (prog 0x2D (8 * 2 ^ 49)) 0x2D (8 * 2 ^ 49) ∧
    Goes (progS 0x2E 0 [(0, 64)]) 0x2E 0 ∧ Goes (progS 0x2E (2 ^ 49) [(0, 64)]) 0x2E (2 ^ 49) ∧
    Goes (progS 0x2E (2 * 2 ^ 49) [(1, 2), (3, 2)]) 0x2E (2 * 2 ^ 49) ∧ Goes (progS 0x2E (3 * 2 ^ 49) [(0, 1)]) 0x2E (3 * 2 ^ 49) ∧
    Goes (prog 0x2F 0) 0x2F 0 ∧ Goes (prog 0x2F (2 ^ 49)) 0x2F (2 ^ 49) ∧ Goes (prog 0x2F (2 * 2 ^ 49)) 0x2F (2 * 2 ^ 49) := by
  decide +kernel

theorem witness_Int32LanesSaturateExactly :
    Isa.opcode (insn 0x28 0) = 0x28 ∧ Isa.vxLegal (insn 0x28 0) = true ∧ Isa.vop (insn 0x28 0) < 16 := by decide +kernel

/-- 0x7FFFFFFF + 1 saturates in lane 0 and raises VI_SAT (R121). -/
theorem test_add_saturates :
    (let fl := { flAt (insn 0x28 (1 * 2 ^ 44 + 2 * 2 ^ 39 + 2 ^ 17)) with v := [(128, 0x7FFFFFFF)], sr := [(0, 1)] }
     match exec (.vxInt 0) (dev fl) with
     | .next t => decide ((t.fl 0).vreg 1 0 = 0x7FFFFFFF ∧ (t.fl 0).vreg 1 1 = 1 ∧ (t.reg .fl 0 Off.vxStat).getLsbD 0 = true)
     | _ => false) = true := by decide +kernel

/-- Lane 1 is masked, lane 0 is not. -/
def halfMask : Floret := { flAt 0 with p := [(1, 1)] }

theorem witness_MaskedLanesAndReductionsFollowTheirPredicate :
    (perLane (Isa.opcode (insn 0x28 (2 ^ 55))) ∧ (halfMask.pred (Isa.predReg (insn 0x28 (2 ^ 55)))).getLsbD 1 = false) ∧
    Isa.opcode (insn 0x2B 0) = 0x2B ∧
    (Isa.opcode (insn 0x2E (2 * 2 ^ 55)) = 0x2E ∧ (halfMask.pred (Isa.predReg (insn 0x2E (2 * 2 ^ 55)))).getLsbD 0 = false) ∧
    (Isa.opcode (insn 0x2F (2 ^ 49)) = 0x2F ∧ 1 ≤ Isa.vop (insn 0x2F (2 ^ 49))) := by
  unfold perLane
  decide +kernel

theorem witness_TopkMergeIsIndependentOfOrder :
    (([(0x3F800000, 7), (0xBF800000, 3)] : List Vec.Cand).map (·.2)).Nodup ∧
    ([(0x3F800000, 7), (0xBF800000, 3)] : List Vec.Cand).Perm [(0xBF800000, 3), (0x3F800000, 7)] :=
  ⟨by decide, .swap _ _ _⟩

/-- QX of one row of 64 from near-bank line s0. -/
def qxW : Nat := 2 ^ 14
def aJob : QxJob := ⟨qxW, 64, 0, 0, 0, 0, 0⟩
def qxFull : Floret := { withS (flAt (insn 0x30 qxW)) [(0, 64)] with qxq := [aJob, aJob, aJob, aJob] }
def qxHeld : Floret := { withS (flAt (insn 0x30 qxW)) [(0, 64)] with qx := [[], []] }

theorem witness_QxQuantisesOrHolds :
    (let s := progS 0x30 qxW [(0, 64)]
     Goes s 0x30 qxW ∧ (s.fl 0).qxq = [] ∧ (s.fl 0).qx = [] ∧ (s.fl 0).se.fly = [] ∧ Isa.qrows (insn 0x30 qxW) = 1) ∧
    (Goes (dev qxHeld) 0x30 qxW ∧ qxHeld.qxq.length < 4 ∧ 2 ≤ qxHeld.qx.length ∧ qxHeld.se.fly = []) ∧
    (Goes (dev qxFull) 0x30 qxW ∧ 4 ≤ qxFull.qxq.length) := by decide +kernel

def closedIval : Interval := { Interval.empty with closed := true }
def ivalFull : Floret := { flAt (insn 0x38 (2 ^ 54)) with ivals := List.replicate 4 closedIval ++ [Interval.empty] }

theorem witness_DigestIntervalsCloseAndAreShown :
    (Goes (prog 0x38 (2 ^ 54)) 0x38 (2 ^ 54) ∧ ((prog 0x38 (2 ^ 54)).fl 0).ivals.length < 5) ∧
    (Goes (dev ivalFull) 0x38 (2 ^ 54) ∧ 5 ≤ ivalFull.ivals.length) ∧ Goes (prog 0x38 0) 0x38 0 ∧
    (let s := { prog 0x38 (2 ^ 53) with regs := [(State.regKey .tr 0 0x100, 1), (State.regKey .tr 0 0x108, 0x000FFFFF)] }
     Goes s 0x38 (2 ^ 53) ∧ s.trOn = true ∧ bitN (s.regN .tr 0 0x108) 19 = true ∧ (SMap.get [] s.tr.qs 0).length < 16) ∧
    (ivalFull.ivals = closedIval :: ivalFull.ivals.tail ∧ closedIval.closed = true ∧ closedIval.done = closedIval.descs) := by
  decide +kernel

/-! Arrays. -/

theorem witness_AccumulatorAddSaturatesAndRounds :
    (-2147483648 ≤ (2147483647 : Int) ∧ (2147483647 : Int) ≤ 2147483647) ∧
    (let w : Wave := ⟨0, true, 0, 0, 1, false, false, 0, false, 0, 0, [[⟨0, 0, 0, 2147483648⟩]], [], []⟩
     w.res = ([⟨0, 0, 0, 2147483648⟩] : List Upd) :: [] ∧ w.isF = false ∧ w.init = false ∧
     clampZ ((SMap.get (0 : W32) (((prog 0 0).fl 0).arr 0).acc 0).toInt + 2147483648) ≠
       (SMap.get (0 : W32) (((prog 0 0).fl 0).arr 0).acc 0).toInt + 2147483648) := by
  unfold clampZ
  decide +kernel

/-- A clamped element moves back from the limit under a later add of the opposite sign (R42). -/
theorem test_accumulator_leaves_the_limit :
    let r := (addElem Arr.reset false true ⟨0, 0, 0, 2147483647⟩).1
    let r := (addElem r false false ⟨0, 0, 0, 100⟩).1
    SMap.get (0 : W32) (addElem r false false ⟨0, 0, 0, -1⟩).1.acc 0 = 0x7FFFFFFE := by decide +kernel

/-- The MMA of `mmaW` as job 0, with the given start mask and slots. -/
def job (started : Nat) (base : Option (Nat × Nat × Nat)) : Mma := ⟨0, mmaW, started, 0, base, false⟩

/-- A delivered slot of 32 lines, every row of group 0 valid. -/
def oneSlot : Slot := ⟨2 ^ 32 - 1, List.replicate 32 0, 0⟩

/-- The MMA started in array 0 with its activation slot held; its stationary tile in the buffers. -/
def waveFl (strict : Bool) (sl : Slot) (r : Arr) : Floret :=
  { flAt 0 with
    feeds := [(0, { liveFeed 0 with deliv := 1, held := [sl] }), (1, { liveFeed 64 with deliv := 1, held := [sl] })]
    mx := [job 1 (some (0, 0, 0))], strict := strict
    arrs := [(0, { r with loaded := 1, buf0 := ⟨List.replicate 8 (List.replicate 128 0), []⟩ })] }

/-- A wavefront whose first result is due, for row 0 of tile 0. -/
def dueWave : Wave := ⟨0, true, 0, 0, 1, true, true, 0, false, 0, 0, List.replicate 8 [⟨0, 0, 0, 0⟩], [], []⟩

def dueFl (closed : SMap Nat) : Floret :=
  { flAt 0 with arrs := [(0, { Arr.reset with cyc := 20, waves := [dueWave] })], closed := closed }

/-- The mask of the wavefront that is ready, its row, and the MMA's mode. -/
def readyMask (fl : Floret) : Option (Nat × Nat) :=
  match fl.look 0 (job 1 (some (0, 0, 0))) with
  | .wave sl _ _ row rows _ _ => some (Tile.rowMask mmaW sl row rows, row)
  | _ => none

def noneReady (fl : Floret) (m : Mma) : Nat :=
  match fl.look 0 m with
  | .wave .. => 0
  | .empty => 1
  | .notReady => 2

/-- The array has turned from CROSS, its last wavefront issued in cycle 4. -/
def turning : Arr := { Arr.reset with cross := true, lastIssue := 5, cyc := 5 }

theorem witness_WavefrontsIssue :
    ((dev (dueFl [(0, 1)])).flOn 0 = true ∧ (dueFl [(0, 1)]).frozen 0 = true ∧ (dueFl [(0, 1)]).mx = []) ∧
    (let fl := { flAt 0 with mx := [job 1 none] }
     canAdvance fl 0 ∧ working fl 0 (job 1 none) ∧ (Tile.isF mmaW && fl.strict) = false ∧ noneReady fl (job 1 none) = 2) ∧
    (let fl := waveFl false ⟨0, List.replicate 32 0, 0⟩ .reset
     canAdvance fl 0 ∧ working fl 0 (job 1 (some (0, 0, 0))) ∧ noneReady fl (job 1 (some (0, 0, 0))) = 1) ∧
    (let fl := waveFl false oneSlot turning
     canAdvance fl 0 ∧ working fl 0 (job 1 (some (0, 0, 0))) ∧ (Tile.isF mmaW && fl.strict) = false ∧ readyMask fl = some (1, 0) ∧
       Tile.cross mmaW ≠ turning.cross ∧ turning.lastIssue ≠ 0 ∧ turning.cyc + 1 < turning.lastIssue + 18) := by
  unfold canAdvance working
  decide +kernel

theorem witness_WavefrontsGoInFlight :
    (let fl := waveFl false oneSlot .reset
     canAdvance fl 0 ∧ working fl 0 (job 1 (some (0, 0, 0))) ∧ readyMask fl = some (1, 0) ∧ (fl.arr 0).lastIssue = 0) ∧
    (let fl := waveFl false ⟨2, List.replicate 32 0, 0⟩ .reset
     canAdvance fl 0 ∧ working fl 0 (job 1 (some (0, 0, 0))) ∧ readyMask fl = some (0, 0)) ∧
    (let fl := waveFl true oneSlot .reset
     canAdvance fl 0 ∧ working fl 0 (job 1 (some (0, 0, 0))) ∧ (Tile.isF mmaW && fl.strict) = true ∧ readyMask fl = some (1, 0) ∧
       (fl.arr 0).waves = [] ∧ fl.undrained (Tile.accIx mmaW) 0 = false) ∧
    (let fl := waveFl true ⟨2, List.replicate 32 0, 0⟩ .reset
     canAdvance fl 0 ∧ (Tile.isF mmaW && fl.strict) = true ∧ readyMask fl = some (0, 0) ∧
       fl.undrained (Tile.accIx mmaW) 0 = false) ∧
    ((dev (dueFl [])).flOn 0 = true ∧ ((dueFl []).arr 0).waves.find? (fun x => x.valid && decide (x.next ≤ 0)) = some dueWave ∧
      dueWave.next = 0 ∧ dueWave.due 20 = true ∧ (dueFl []).frozen 0 = false ∧ ((dueWave.res.headD []).map accKey).Nodup) := by
  unfold canAdvance working
  decide +kernel

/-- A load of one tile under way. -/
def aLoad (isF : Bool) (next gather : Nat) (old : Nat := 0) : Load := ⟨0, isF, next, gather, List.replicate 1024 0, [], [], [], old⟩

def loadFl (l : Load) (lastE0 loaded : Nat) : Floret :=
  { flAt 0 with arrs := [(0, { Arr.reset with load := some l, loaded := loaded, lastE0 := lastE0 })] }

theorem witness_ArraysStartAndLoadTheirStationaryRows :
    ((dev { mmaFl with mx := [job 0 none] }).flOn 0 = true ∧
      ({ mmaFl with mx := [job 0 none] } : Floret).job (({ mmaFl with mx := [job 0 none] } : Floret).arr 0).iJob = some (job 0 none) ∧
      bitN (job 0 none).started 0 = false) ∧
    (((waveFl false oneSlot .reset).arr 1).load = none ∧ ((waveFl false oneSlot .reset).arr 1).loaded ≤ ((waveFl false oneSlot .reset).arr 1).used + 2 ∧
      (waveFl false oneSlot .reset).job ((waveFl false oneSlot .reset).arr 1).pJob = some (job 1 (some (0, 0, 0))) ∧
      (waveFl false oneSlot .reset).aheadAssigned 0 = true ∧
      ((((waveFl false oneSlot .reset).assign (job 1 (some (0, 0, 0)))).job 0).bind
        (((waveFl false oneSlot .reset).assign (job 1 (some (0, 0, 0)))).loadSrc 0)).isSome = true) ∧
    (((loadFl (aLoad true 0 0) 0 1).arr 0).load = some (aLoad true 0 0) ∧ (aLoad true 0 0).gather < 3) ∧
    ((aLoad false 0 0).isF = false ∧ ((loadFl (aLoad false 0 0 5) 5 1).arr 0).rowHeld (aLoad false 0 0 5) = true) ∧
    ((aLoad false 7 0).isF = false ∧ ((loadFl (aLoad false 7 0) 0 1).arr 0).rowHeld (aLoad false 7 0) = false) := by
  decide +kernel

theorem witness_NoSkip : NoSkip { mmaFl with mx := [job 0 none] } := by
  intro m h
  cases h
  exact .inr (by decide +kernel)

/-! Access engines. -/

/-- A queue entry, and a descriptor word of kind `k` and COUNT `n`. -/
def qd (w : Nat) : QDesc := ⟨w, 0, 0, 0, 0⟩
def kw (k n : Nat) : Nat := k + 2 ^ 16 * n

def queued (w : Nat) : Eng := { Eng.reset with queue := [qd w] }
def onLoad (e : Eng) : State := dev { flAt 0 with le := e }
def onStore (e : Eng) : State := dev { flAt 0 with se := e }

/-- Channel 0 of umbel 0 with the given engine and granule pool. -/
def onDma (e : Eng) (pool : SMap Nat) : State :=
  { dev (flAt 0) with ums := [(0, { Umbel.reset with held := false, chans := [(0, ⟨0, 4, 0, 0, 0, e⟩)], pool := pool })] }

/-- A started descriptor of `n` lines. -/
def started (w n : Nat) : Desc := newDesc Eng.reset (qd w) n
def flying (d : Desc) : Eng := { Eng.reset with fly := [d] }

/-- A GATHER whose list lies on device 5. -/
def farGather : Nat := kw 3 1 + 2 ^ 64 * (5 * 2 ^ 42)

/-- DRAIN of tile 0 with its close tally at 1. -/
def drainFl : Floret := { flAt 0 with se := queued (kw 7 1), tallies := [(56, 1)] }

/-- A drain of tile 0 started, the tile closed. -/
def drainRow : Floret := { flAt 0 with se := flying (started (kw 7 1) 32), closed := [(0, 1)] }

/-- Its last row. -/
def r31 : Floret := { flAt 0 with se := flying { started (kw 7 1) 32 with rowsRead := 31 }, closed := [(0, 32)] }

theorem witness_DataDescriptorsStartAndDrainRows :
    Meets (onLoad (queued (kw 1 1))) (.load 0) 1 (qd (kw 1 1)) [] ∧ Meets (onStore (queued (kw 2 1))) (.store 0) 2 (qd (kw 2 1)) [] ∧
    Meets (onLoad (queued (kw 3 1))) (.load 0) 3 (qd (kw 3 1)) [] ∧
    (Meets (onDma (queued farGather) []) (.dma 0 0) 3 (qd farGather) [] ∧
      (onDma (queued farGather) []).isOwn (addLines (D.addrA farGather) 0) = false) ∧
    (Meets (onStore (queued (kw 8 1))) (.store 0) 8 (qd (kw 8 1)) [] ∧ ((onStore (queued (kw 8 1))).fl 0).qx = []) ∧
    (Meets (dev drainFl) (.store 0) 7 (qd (kw 7 1)) [] ∧ Met (drainFl.tally 56) (SMap.get (0 : W32) drainFl.drains 0 + 1)) ∧
    (drainRow.drainNext = some (started (kw 7 1) 32) ∧ (dev drainRow).flOn 0 = true ∧
      drainRow.se.outstanding + rowLines (kw 7 1) + 1 ≤ 1024) := by
  unfold Meets Met
  decide +kernel

/-- A load into feed 0, a QOUT with one quantised row waiting, and a DRAIN of a tile not yet closed. -/
theorem witness_DataDescriptors_more :
    (let s (k : Nat) := dev { flAt 0 with feeds := [(0, liveFeed 0)], le := queued (kw k 1 + 16) }
     Meets (s 1) (.load 0) 1 (qd (kw 1 1 + 16)) [] ∧ Meets (s 2) (.load 0) 2 (qd (kw 2 1 + 16)) [] ∧
       D.feedDst (kw 1 1 + 16) = true ∧ D.feedDst (kw 2 1 + 16) = true) ∧
    (let row : QRow := ⟨5, 64, 8, 0⟩
     let s := dev { flAt 0 with qx := [[row]], se := queued (kw 8 1) }
     Meets s (.store 0) 8 (qd (kw 8 1)) [] ∧ (s.fl 0).qxq = [] ∧ (s.fl 0).se.fly = [] ∧
       (s.fl 0).se.outstanding + (qoutOut (kw 8 1) 0 row [row.word]).length ≤ 1024) ∧
    (Meets (onStore (queued (kw 7 1))) (.store 0) 7 (qd (kw 7 1)) [] ∧
      ¬ Met (((onStore (queued (kw 7 1))).fl 0).tally 56) 1) ∧
    (r31.drainNext = some { started (kw 7 1) 32 with rowsRead := 31 } ∧ (dev r31).flOn 0 = true ∧ SMap.get 0 r31.again 0 = 0) := by
  unfold Meets Met
  decide +kernel

/-- WAIT of a load queue for target `v` of tally 0 of its own floret; SIGNAL to tally 5 of umbel 0. -/
def waitD (v : Nat) : Nat := kw 4 1 + 2 ^ 32 * 2 ^ 18 + 2 ^ 224 * v
def signalD : Nat := kw 5 1 + 2 ^ 32 * (2 ^ 17 + 5)

theorem witness_WaitAndSignalDescriptorsActInTurn :
    Meets (onLoad (queued (kw 0 1))) (.load 0) 0 (qd (kw 0 1)) [] ∧
    (Meets (onLoad (queued (waitD 0))) (.load 0) 4 (qd (waitD 0)) [] ∧ (onLoad (queued (waitD 0))).descWaitOk (.load 0) (waitD 0) = true) ∧
    (Meets (onLoad (queued (waitD 1))) (.load 0) 4 (qd (waitD 1)) [] ∧ (onLoad (queued (waitD 1))).descWaitOk (.load 0) (waitD 1) = false) ∧
    (((onLoad { queued (waitD 0) with waiting := true }).eng (.load 0)).waiting = true) ∧
    (Meets (onStore (queued signalD)) (.store 0) 5 (qd signalD) [] ∧ ((onStore (queued signalD)).eng (.store 0)).fly = [] ∧
      (onStore (queued signalD)).tref (some 0) (some 0) (D.tally signalD) = .um 0 5 ∧ (onStore (queued signalD)).umShut 0 = false) ∧
    Meets (onLoad (queued (kw 6 1))) (.load 0) 6 (qd (kw 6 1)) [] ∧
    (D.kind (started (kw 2 1) 1).w ≠ 5 ∧
      Meets (onStore { queued signalD with fly := [started (kw 2 1) 1] }) (.store 0) 5 (qd signalD) [] ∧
      Meets (onStore { queued (kw 6 1) with fly := [started (kw 2 1) 1] }) (.store 0) 6 (qd (kw 6 1)) []) := by
  unfold Meets
  decide +kernel

/-- Link 3, up, leads to device 5. -/
def linked (s : State) : State :=
  { s with fab := { Fabric.reset with links := [(3, { Link.reset with state := 2 })], routes := [(5, 3 + 2 ^ 4)] } }

/-- SIGNAL with tally reference `r`; END of feed 0 at address `a`, on the florets of `m`. -/
def signalTo (r : Nat) : Nat := kw 5 1 + 2 ^ 32 * r
def endAt (a m : Nat) : Nat := kw 6 1 + 2 ^ 64 * a + 2 ^ 176 * m

theorem witness_SignalsActAtOnce :
    (let s := onStore (queued (signalTo 5))
     Meets s (.store 0) 5 (qd (signalTo 5)) [] ∧ s.tref (some 0) (some 0) 5 = .fl 0 5 ∧ s.flPresent 0 = true ∧ s.umShut 0 = false ∧
       hwTally 5 = false) ∧
    (let s := onStore (queued (signalTo 0x20205))
     Meets s (.store 0) 5 (qd (signalTo 0x20205)) [] ∧ s.tref (some 0) (some 0) 0x20205 = .um 2 5 ∧ s.umShut 2 = true) ∧
    (let w := signalTo (2 ^ 19 + 5 * 2 ^ 20 + 7)
     let s := linked (onStore (queued w))
     Meets s (.store 0) 5 (qd w) [] ∧ s.tref (some 0) (some 0) (D.tally w) = .remote 5 ∧
       hop s 5 0 (s.flowOf (.store 0)).2.2 = some (3, false) ∧ s.fab.closedFlows = []) := by
  unfold Meets
  decide +kernel

theorem witness_EndsActAtOnce :
    (let w := endAt 0x10000000000 0
     let s := onStore (queued w)
     Meets s (.store 0) 6 (qd w) [] ∧ s.isOwn (endAddr (qd w)) = true ∧ s.placeOf (localOf (endAddr (qd w))) = .nb 0 ∧
       s.umShut 0 = false) ∧
    (let w := endAt (5 * 2 ^ 42) 0
     let s := linked (onStore (queued w))
     Meets s (.store 0) 6 (qd w) [] ∧ s.isOwn (endAddr (qd w)) = false ∧ s.fab.closedFlows = [] ∧
       hop s (devOf (endAddr (qd w))) (localOf (endAddr (qd w))) (s.flowOf (.store 0)).2.2 = some (3, false)) ∧
    (let w := endAt 0 1
     Meets (onDma (queued w) []) (.dma 0 0) 6 (qd w) [] ∧ D.flmask w ≠ 0 ∧ bitN (D.flmask w) 0 = true ∧
       (onDma (queued w) []).umShut 0 = false ∧ (onDma (queued w) []).flPresent 0 = true) := by
  unfold Meets
  decide +kernel

/-- LINES of two lines to near-bank line 0, line 1 read and returned, line 0 written or not; and one line of feed 0. -/
def toBank (dn : Nat) : Desc := { started (kw 2 2) 2 with rd := 2, ret := 2, dn := dn, data := [(1, some ⟨7, false, fullMask⟩)] }
def toFeedD : Desc := { started (kw 2 1 + 16) 1 with rd := 1, ret := 1, data := [(0, some ⟨7, false, fullMask⟩)] }
def feedLoad : State := dev { flAt 0 with feeds := [(0, { Feed.off with slots := 2, bl := 1, state := 1 })], le := flying toFeedD }

/-- HBM with every stack ACTIVE and, where `full`, every line filled with zeros. -/
def hbmUp (full : Bool) : Hbm :=
  { Hbm.reset with stk := (List.range 8).map (fun k =>
      (k, { Stack.reset with state := 1, fill := if full then some ⟨0, [], []⟩ else none })) }

/-- LINES of one line at address `a`, with its data or before its read, in a load or a store engine; link 3 leads to device 5. -/
def lineAt (a : Nat) (data : SMap (Option Held)) : Desc :=
  { started (kw 2 1 + 2 ^ 64 * a) 1 with rd := data.length, ret := data.length, data := data }
def hbmLinked (s : State) : State := { linked s with hbm := hbmUp true }
def reads (a : Nat) : State := hbmLinked (onLoad (flying (lineAt a [])))
def writes (a : Nat) : State := hbmLinked (onStore (flying (lineAt a [(0, some ⟨7, false, fullMask⟩)])))

/-- The parts of `ReadyToWrite` that are one evaluation. -/
theorem witness_LinesAreWritten_to_a_bank (dn : Nat) (h : dn = 0 ∨ dn = 1) :
    let s := onLoad (flying (toBank dn))
    ReadyToWrite s (.load 0) (toBank dn) 1 0x10000000080 ⟨7, false, fullMask⟩ ∧ s.isOwn 0x10000000080 = true ∧
      SramServes s (localOf 0x10000000080) ∧ MayArrive s (localOf 0x10000000080) ∧ popN 2 (setBitN 0 1 true) < 2 ∧
      popN 2 (setBitN 1 1 true) = 2 ∧ (s.eng (.load 0)).fly = [toBank dn] ∧ s.patchLeft (.load 0) (toBank dn) = false := by
  have hm : Mover (.load 0) := .inl ⟨0, rfl⟩
  have hp : State.placeOf (onLoad (flying (toBank dn))) (localOf 0x10000000080) = .nb 0 := by
    rcases h with h | h <;> subst h <;> decide +kernel
  refine ⟨⟨hm, ?_⟩, ?_, .inl ⟨0, hp, ?_⟩, ?_, by decide, by decide, rfl, ?_⟩
  · rcases h with h | h <;> subst h <;> decide +kernel
  · rcases h with h | h <;> subst h <;> decide +kernel
  · rcases h with h | h <;> subst h <;> decide +kernel
  · intro n hn
    rw [hp] at hn
    cases hn
    rcases h with h | h <;> subst h <;> decide +kernel
  · rcases h with h | h <;> subst h <;> decide +kernel

theorem witness_LinesAreWritten_to_a_feed :
    ReadyToWrite feedLoad (.load 0) toFeedD 0 0x10000000000 ⟨7, false, fullMask⟩ ∧ feedLoad.toFeed (.load 0) toFeedD 0 = true ∧
      feedLoad.placeOf 0x10000000000 = .nb 0 ∧ (feedLoad.fl 0).feedLines 0 = [(0, 0, 0)] ∧
      (feedLoad.fl 0).feedFull (0, 0, 0) = false :=
  ⟨⟨.inl ⟨0, rfl⟩, by decide +kernel⟩, by decide +kernel⟩

theorem witness_LinesAreWritten_to_HBM_and_away :
    (let d := lineAt 0 [(0, some ⟨7, false, fullMask⟩)]
     ReadyToWrite (writes 0) (.store 0) d 0 0 ⟨7, false, fullMask⟩ ∧ (writes 0).isOwn 0 = true ∧ HbmServes (writes 0) (localOf 0)) ∧
    (let a := 5 * 2 ^ 42
     let d := lineAt a [(0, some ⟨7, false, fullMask⟩)]
     ReadyToWrite (writes a) (.store 0) d 0 a ⟨7, false, fullMask⟩ ∧ (writes a).isOwn a = false ∧ D.tallyEn d.w = false ∧
       hop (writes a) (devOf a) (localOf a) ((writes a).flowOf (.store 0)).2.2 = some (3, false) ∧
       (writes a).fab.closedFlows = []) :=
  ⟨⟨⟨.inr (.inl ⟨0, rfl⟩), by decide +kernel⟩, by unfold HbmServes; decide +kernel⟩,
    ⟨.inr (.inl ⟨0, rfl⟩), by decide +kernel⟩, by decide +kernel⟩

theorem witness_LinesAreRead :
    (let a := 0x10000000000
     ((reads a).eng (.load 0)).desc 0 = some (lineAt a []) ∧ (reads a).readable (.load 0) (lineAt a []) 0 = true ∧
       (reads a).srcOf (.load 0) (lineAt a []) 0 = some a ∧ (reads a).isOwn a = true ∧ (reads a).placeOf (localOf a) = .nb 0 ∧
       (reads a).umShut 0 = false) ∧
    ((reads 0).readable (.load 0) (lineAt 0 []) 0 = true ∧ (reads 0).srcOf (.load 0) (lineAt 0 []) 0 = some 0 ∧
       (reads 0).isOwn 0 = true ∧ HbmServes (reads 0) 0 ∧ HoldsLine (reads 0) 0 ((reads 0).phys 0) false 0) ∧
    (let a := 5 * 2 ^ 42
     (reads a).readable (.load 0) (lineAt a []) 0 = true ∧ (reads a).srcOf (.load 0) (lineAt a []) 0 = some a ∧
       (reads a).isOwn a = false ∧ hop (reads a) (devOf a) (localOf a) ((reads a).flowOf (.load 0)).2.2 = some (3, false) ∧
       (reads a).fab.closedFlows = []) ∧
    (let d := { toBank 0 with ret := 0 }
     ((onLoad (flying d)).eng (.load 0)).desc 0 = some d ∧ (onLoad (flying d)).engOn (.load 0) = true ∧ bitN d.rd 1 = true ∧
       (SMap.get none d.data 1).isSome = true ∧ bitN d.ret 1 = false) := by
  unfold HbmServes HoldsLine
  decide +kernel

def lostLine : Desc := { started (kw 2 1) 1 with ret := 1, lost := 1 }

theorem witness_BadDescriptorsAndLostLinesStopTheirEngine :
    ((onLoad (queued 0xF)).engOn (.load 0) = true ∧ ((onLoad (queued 0xF)).eng (.load 0)).stopped = false ∧
      ((onLoad (queued 0xF)).eng (.load 0)).fly.length < flyLimit (.load 0) ∧
      ((onLoad (queued 0xF)).eng (.load 0)).queue = qd 0xF :: [] ∧ (onLoad (queued 0xF)).descBad (.load 0) 0xF = true) ∧
    (0 < lostLine.lines ∧ bitN lostLine.lost 0 = true ∧ bitN lostLine.dn 0 = false ∧ bitN lostLine.ret 0 = true ∧
      ((onStore (flying lostLine)).fl 0).se.desc 0 = some lostLine) ∧
    (let d := { lostLine with ret := 0 }
     ((onLoad (flying d)).fl 0).le.desc 0 = some d ∧ bitN d.ret 0 = false ∧ D.kind d.w < 7) ∧
    (((onDma (flying lostLine) []).um 0).chan 0).eng.desc 0 = some lostLine := by decide +kernel

/-- A patched TILES load of one tile into feed 0, the patch feed being feed 0 itself or feed 1. -/
def patchD : Desc := started (kw 1 1 + 2 ^ 9) 33

def patchFl (pack : Nat) : Floret :=
  { flAt 0 with
    feeds := [(0, { Feed.off with slots := 2, bl := 4, state := 1, patch := true })], le := flying patchD, pack := pack }

/-- A request of floret 0 for unit 0, its pack at HBM address 0; the record lines of one. -/
def unitReq : PatchReq := ⟨0, 0, 0, 0, [0], 0, 0, false⟩
def recordOut : DdOut := ⟨0, unitReq, List.replicate 4 0, 0, 0, true⟩

/-- The delta decoder of umbel 0 with that request, in a HBM whose lines read zero or are poisoned. -/
def unitDev (good : Bool) : State :=
  { dev (flAt 0) with ums := [(0, { Umbel.reset with held := false, ddq := [unitReq] })], hbm := hbmUp good }

theorem witness_PatchRequests (pack : Nat) (h : pack = 0 ∨ pack = 1) :
    (patchFl pack).patchNext = some (patchD, 0) ∧ (dev (patchFl pack)).flOn 0 = true ∧ (patchFl pack).le.stopped = false ∧
      ((patchFl pack).feed 0).patch = true ∧ ((patchFl pack).feed 0).slots ≠ 0 ∧
      ((patchFl pack).feed 0).asked < ((patchFl pack).feed 0).released + ((patchFl pack).feed 0).slots ∧
      (dev (patchFl pack)).srcOf (.load 0) patchD 0 = some 0 := by
  rcases h with h | h <;> subst h <;> decide +kernel

theorem witness_PatchUnitsAnswerTheirRequests (good : Bool) :
    ((unitDev good).um 0).ddq = unitReq :: [] ∧ unitReq.units = 0 :: [] ∧ ((unitDev good).um 0).held = false ∧
      (unitDev good).pw.trip = false ∧ (unitDev good).ddWaits 0 = false ∧
      (let x := (unitDev good).readSpan ⟨.ub, 0, 0x200⟩ (16 * (unitDev good).hbmGetN 4 0x20) 4 []
       x.2.1 = !good ∧ (good = true → ofBytes x.1 = 0)) := by
  cases good <;> decide +kernel

/-- An entry without groups for unit 0 whose CHECK is that of its bytes passes; so it does at the address that its index names. -/
def emptyEntry : List Nat :=
  let body := List.replicate 128 0
  bytesOf 8 (2 ^ 40 + 2 ^ 48 * crc16 (body.take 127)) ++ body

/-- A pack at address 0 whose index, at 0x100, names for unit 0 an entry at 0x200. -/
def packDev (entry : List Nat) : State :=
  let s := unitDev true
  let s := s.hbmPutN reqFront 4 0x20 0x10
  let s := s.hbmPutN reqFront 4 0x100 0x20
  (List.range 34).foldl (fun t i => t.hbmPutN reqFront 4 (0x200 + 4 * i) (ofBytes ((entry.drop (4 * i)).take 4))) s

theorem witness_PatchUnits_entry :
    entryOk 0 emptyEntry = true ∧ entryOk 1 emptyEntry = false ∧ (packDev emptyEntry).ddWaits 0 = false ∧
      ((packDev emptyEntry).readSpan ⟨.ub, 0, 0x200⟩ (16 * (packDev emptyEntry).hbmGetN 4 0x20) 4 []).1 = [0x20, 0, 0, 0] ∧
      ((packDev emptyEntry).readSpan ⟨.ub, 0, 0x200⟩ (16 * (packDev emptyEntry).hbmGetN 4 0x20) 4 []).2.1 = false ∧
      ((packDev emptyEntry).readSpan ⟨.ub, 0, 0x200⟩ 0x200 136 []).1 = emptyEntry ∧
      ((packDev emptyEntry).readSpan ⟨.ub, 0, 0x200⟩ 0x200 136 []).2.1 = false := by decide +kernel

theorem witness_PatchUnits_records :
    let s := { dev (flAt 0) with ums := [(0, { Umbel.reset with held := false, ddout := [recordOut] })] }
    (s.um 0).ddout.find? (fun x => x.id = recordOut.id) = some recordOut ∧ (s.um 0).held = false ∧ s.pw.trip = false ∧
      0 < recordOut.lines.length ∧ (s.um 0).ddTurn recordOut 0 = true ∧ s.placeOf (Vec.nbLine 0 0) = .nb 0 ∧ s.umShut 0 = false ∧
      (s.fl 0).feedLines 0 = [] := by decide +kernel

/-! Umbel DMA. -/

/-- Channel 0 of umbel 0 with its doorbell one past what it latched. -/
def rung : State :=
  { dev (flAt 0) with
    ums := [(0, { Umbel.reset with held := false, tallies := [(0, 1)], chans := [(0, ⟨0, 4, 0, 0, 0, .reset⟩)] })] }

/-- ALLOC and FREE of one granule for owner 3; the FREE with its list read. -/
def allocD (k : Nat) : Nat := kw k 1 + 2 ^ 176 * 3
def freeD : Desc := { started (allocD 10) 0 with ret := 1, data := [(0, some ⟨7, false, fullMask⟩)] }

/-- ALLOC of all 4,096 granules while one is taken. -/
def allocAll : Nat := kw 9 4096 + 2 ^ 176 * 3

theorem witness_UmbelChannelsFetchAndGranulesAreOwned :
    ((rung.um 0).held = false ∧ ((rung.um 0).chan 0).size ≠ 0 ∧ ((rung.um 0).chan 0).eng.queue = [] ∧
      Met ((rung.um 0).tally 0) (((rung.um 0).chan 0).b + BitVec.ofNat 32 ((rung.um 0).chan 0).next + 1)) ∧
    (Meets (onDma (queued (allocD 9)) []) (.dma 0 0) 9 (qd (allocD 9)) [] ∧
      D.count (allocD 9) ≤ ((onDma (queued (allocD 9)) []).um 0).freeList.length) ∧
    (((onDma (flying freeD) [(7, 3)]).um 0).chan 0).eng.fly.find?
      (fun d => D.kind d.w == 10 && (List.range d.listLines).all (fun i => bitN d.ret i)) = some freeD ∧
    (Meets (onDma (queued (allocD 10)) [(7, 3)]) (.dma 0 0) 10 (qd (allocD 10)) [] ∧
      (((onDma (queued (allocD 10)) [(7, 3)]).um 0).chan 0).eng.fly = []) := by
  unfold Meets Met
  decide +kernel

theorem witness_Granules_too_few_free :
    Meets (onDma (queued allocAll) [(7, 3)]) (.dma 0 0) 9 (qd allocAll) [] ∧
    ((onDma (queued allocAll) [(7, 3)]).um 0).freeList.length < D.count allocAll := by
  unfold Meets
  decide +kernel

/-! Allocators, sorrel units and sequences. -/

/-- HBM filled under the given carve-outs. -/
def hbmPools (ps : List (Nat × Nat)) : Hbm :=
  { Hbm.reset with stk := (List.range 8).map (fun k => (k, { Stack.reset with state := 1, fill := some ⟨0, ps, []⟩ })) }

/-- Pool 0 enabled at BASE8 1 with PART 1, one pair and two frames; two sequence slots in a table at HBM address 0. -/
def kvDev : State :=
  { dev (flAt 0) with
    hbm := hbmPools [(1, 1)]
    regs := [(0x1708, 2), (0x1740, BitVec.ofNat 32 (1 + 2 ^ 8 + 2 ^ 14 + 2 ^ 31)), (0x1744, 2)] }

def kvTaken : State := kvDev.setFrameOwner (kvDev.kvPool 0) 0 0 5

theorem witness_FrameAllocatorServesItsPorts :
    (kvDev.stkServes 0 = true ∧ (kvDev.kvPool 0).en = true ∧ GoodLine kvDev (ownerAddr kvDev (kvDev.kvPool 0) 0 0) ∧
      (List.range (kvDev.kvPool 0).frames).find? (fun f => kvDev.frameOwner (kvDev.kvPool 0) 0 f = 0) = some 0) ∧
    (kvTaken.stkServes 0 = true ∧ (kvTaken.kvPool 0).en = true ∧ kvTaken.frameOwner (kvTaken.kvPool 0) 0 0 = 5 ∧
      (0 : Nat) < (kvTaken.kvPool 0).frames) ∧
    ((kvTaken.kvPool 0).frames ≤ 2 ∧ kvTaken.frameOwner (kvTaken.kvPool 0) 0 0 ≠ 6) ∧
    ((dev (flAt 0)).kvPool 0).en = false ∧ (dev (flAt 0)).stkServes 0 = false ∧
    ({ dev (flAt 0) with hbm := hbmUp true } : State).stkServes 0 = true := by
  refine ⟨⟨by decide +kernel, by decide +kernel, ⟨by decide +kernel, 0, ?_⟩, by decide +kernel⟩, by decide +kernel⟩
  unfold HoldsLine
  decide +kernel

theorem witness_FrameAllocator_full :
    let s := kvTaken.setFrameOwner (kvTaken.kvPool 0) 0 1 5
    s.stkServes 0 = true ∧ (s.kvPool 0).en = true ∧ (s.kvPool 0).frames = 2 ∧ s.frameOwner (s.kvPool 0) 0 0 ≠ 0 ∧
      s.frameOwner (s.kvPool 0) 0 1 ≠ 0 := by
  decide +kernel

/-- A header of one head and one candidate, FILL, LEN 64, queries and result in near bank 0, counted on tally 5 of umbel 1 (R215);
and one without a head. -/
def goodHdr : Nat :=
  2 ^ 23 + 2 ^ (8 * 8 + 6) + 2 ^ (8 * 13) + 2 ^ (8 * 14) + 0x10000000000 * 2 ^ (8 * 16) + 0x10000000000 * 2 ^ (8 * 24) +
    0x20105 * 2 ^ (8 * 32)
def badHdr : Nat := goodHdr - 2 ^ (8 * 13)

/-- Block 0 of slot 0 has its summary's frame, and the header waits in stack 0. -/
def withHdr (h : Nat) : State :=
  let s := kvDev.hbmPutN reqFront 4 ((kvDev.kvPool 0).mapEntry 0 0 0 0) (2 ^ 31 + 1)
  { s with hbm := { s.hbm with stk := SMap.put Stack.reset s.hbm.stk 0 { s.stk 0 with srq := [⟨BitVec.ofNat 1024 h, some 0⟩] } } }

theorem witness_ResultsServe (h : Nat) (hh : h = goodHdr ∨ h = badHdr) :
    ResultsServe (withHdr h) (SrHdr.of (BitVec.ofNat 1024 h)) := by
  have hp : (withHdr h).placeOf (localOf 0x10000000000) = .nb 0 := by rcases hh with hh | hh <;> subst hh <;> decide +kernel
  have hs : (withHdr h).umShut (0 / 16) = false := by rcases hh with hh | hh <;> subst hh <;> decide +kernel
  have hr : resultAt (SrHdr.of (BitVec.ofNat 1024 h)) 0 = 0x10000000000 := by rcases hh with hh | hh <;> subst hh <;> decide +kernel
  have hn : cdiv (SrHdr.of (BitVec.ofNat 1024 h)).ncand 16 = 1 := by rcases hh with hh | hh <;> subst hh <;> decide +kernel
  refine ⟨fun i hi => ?_, 1, 5, ?_⟩
  · have h0 : i = 0 := by omega
    subst h0
    rw [hr]
    refine ⟨by rcases hh with hh | hh <;> subst hh <;> decide +kernel, .inl ⟨0, hp, hs⟩, fun n he => ?_⟩
    rw [hp] at he
    cases he
    rcases hh with hh | hh <;> subst hh <;> decide +kernel
  · rcases hh with hh | hh <;> subst hh <;> decide +kernel

theorem witness_SorrelUnitsAnswerHeadersInOrder :
    (kvDev.stk 0).srq = [] ∧ kvDev.stkServes 0 = true ∧
    (((withHdr badHdr).stk 0).srq = ⟨BitVec.ofNat 1024 badHdr, some 0⟩ :: [] ∧ (withHdr badHdr).stkServes 0 = true ∧
      (withHdr badHdr).srBad 0 (BitVec.ofNat 1024 badHdr) = true) ∧
    (let s := withHdr goodHdr
     let g := SrHdr.of (BitVec.ofNat 1024 goodHdr)
     let a := summaryAt s 0 g 0
     (s.stk 0).srq = ⟨BitVec.ofNat 1024 goodHdr, some 0⟩ :: [] ∧ s.stkServes 0 = true ∧
       s.srBad 0 (BitVec.ofNat 1024 goodHdr) = false ∧ g.nhead = 1 ∧ g.cands 0 = [0] ∧ s.placeOf (g.qaddr + 128 * 0) = .nb 0 ∧
       s.umShut (0 / 16) = false ∧ SMap.get false s.sramBad (g.qaddr + 128 * 0) = false ∧
       a + 128 < s.hbmEnd ∧ HoldsLine s a (s.phys a) false 0 ∧ HoldsLine s (a + 128) (s.phys (a + 128)) false 0) := by
  unfold HoldsLine
  decide +kernel

/-- Sequence slot 0 with the given STATE, SID, POOL and LEN, CAP 64; its tables at HBM addresses 0x1000 and 0x2000. -/
def seqAt (st sid pool len : Nat) : State :=
  kvDev.memPutN 36 0 (sid + 2 ^ 20 * st + 2 ^ 24 * pool + 2 ^ 32 * len + 2 ^ 96 * 64 + 2 ^ 128 * 0x1000 + 2 ^ 192 * 0x2000)
def seqDev (st : Nat) : State := seqAt st 1 0 0

/-- Block 0's frame and its summary's frame are there, and its build waits in stack 1. -/
def buildDev : State :=
  let s := (seqDev 1).memPutN 4 0x1000 (2 ^ 31)
  let s := s.hbmPutN reqFront 4 ((s.kvPool 0).mapEntry 1 0 0 0) (2 ^ 31 + 1)
  { s with hbm := { s.hbm with stk := SMap.put Stack.reset s.hbm.stk 1 { s.stk 1 with builds := [⟨0, 0, 0⟩] } } }

def lenDev : State := { seqDev 1 with fe := { Front.reset with lens := [⟨0, 1, 0, 0⟩] } }

/-- The lines that the build of block 0 reads and writes. -/
def buildLines : List Nat :=
  let p := buildDev.kvPool 0
  p.area 1 1 0 :: (p.area 1 1 0 + 128) :: ((p.partAt 1 + p.scaleOff buildDev.seqSlots) / 128 * 128) ::
    (List.range 33).map (fun i => p.area 1 0 0 + 128 * i)

theorem witness_Apart : Apart buildDev (fun a => a ∈ buildLines) ∧ (buildDev.kvPool 0).np = 1 := by
  have h : ∀ x ∈ buildLines, ∀ y ∈ buildLines, x ≠ y →
      buildDev.phys x ≠ buildDev.phys y ∧ buildDev.shadow x ≠ buildDev.phys y := by decide +kernel
  exact ⟨fun x y hx hy hne => h x hx y hy hne, by decide +kernel⟩

theorem witness_SummaryLines :
    (let p := buildDev.kvPool 0
     (buildDev.seqGet 0).pool = 0 ∧ p.area 1 1 0 + 128 < buildDev.hbmEnd ∧
     (p.partAt 1 + p.scaleOff buildDev.seqSlots) / 128 * 128 ≠ p.area 1 1 0 ∧
     (p.partAt 1 + p.scaleOff buildDev.seqSlots) / 128 * 128 ≠ p.area 1 1 0 + 128 ∧
     ∀ i, i < 33 → p.area 1 0 0 + 128 * i < buildDev.hbmEnd ∧
       HoldsLine buildDev (p.area 1 0 0 + 128 * i) (buildDev.phys (p.area 1 0 0 + 128 * i)) false 0) := by
  unfold HoldsLine
  decide +kernel

theorem witness_SummariesAndLengthsFollowALaunch :
    ((buildDev.stk 1).builds = ⟨0, 0, 0⟩ :: [] ∧ buildDev.stkServes 1 = true ∧
      frameOf (buildDev.memGetN 4 ((buildDev.seqGet 0).table 0 + 4 * 0)) = some 0 ∧
      frameOf (buildDev.hbmGetN 4 ((buildDev.kvPool (buildDev.seqGet 0).pool).mapEntry 1 0 0 (0 / 8 / 33))) = some 1) ∧
    (lenDev.fe.lens.find? (fun l => l.slot = 0) = some ⟨0, 1, 0, 0⟩ ∧ lenDev.filling 0 = false ∧
      lenDev.namesSeq 0 false = false ∧ lenDev.kvServes = true ∧ lenDev.seqAddr 0 % 64 = 0) := by decide +kernel

/-- The slot's entry as a command `o` finds it. -/
abbrev entryFor (s : State) (o : Nat) : SeqEntry := (taken s o 0 0).seqGet 0

theorem witness_SequenceCommands_open :
    (kvDev.fe.seqOp = none ∧ kvDev.kvServes = true ∧ kvDev.seqSlots ≤ 2) ∧
    (let s := seqDev 0
     s.fe.seqOp = none ∧ s.kvServes = true ∧ 0 < s.seqSlots ∧ (entryFor s 1).state = 0 ∧
       (taken s 1 0 0).openBad 0 (entryFor s 1) = false ∧ ((taken s 1 0 0).kvPool (entryFor s 1).pool).en = true ∧
       s.seqAddr 0 % 64 = 0) ∧
    ((entryFor (seqDev 1) 1).state ≠ 0 ∧ (entryFor (seqDev 1) 2).state = 1) ∧
    (let s := seqAt 0 0 0 0
     (entryFor s 1).state = 0 ∧ (taken s 1 0 0).openBad 0 (entryFor s 1) = true) ∧
    (let s := seqAt 0 1 1 0
     (entryFor s 1).state = 0 ∧ (taken s 1 0 0).openBad 0 (entryFor s 1) = false ∧
       ((taken s 1 0 0).kvPool (entryFor s 1).pool).en = false) := by decide +kernel

theorem witness_SequenceCommands_more :
    (let s := seqDev 1
     s.fe.seqOp = none ∧ s.kvServes = true ∧ 0 < s.seqSlots ∧ (entryFor s 2).state = 1 ∧ SeqQuiet s 0 ∧ (entryFor s 4).state = 1 ∧
       (entryFor s 4).genLen = (entryFor s 4).len ∧ (entryFor s 3).state = 1) ∧
    ((entryFor (seqDev 0) 2).state ≠ 1 ∧ (entryFor (seqDev 0) 2).state ≠ 5) ∧
    ((entryFor (seqAt 1 1 0 64) 4).state = 1 ∧ (entryFor (seqAt 1 1 0 64) 4).genLen ≠ (entryFor (seqAt 1 1 0 64) 4).len) ∧
    ((entryFor (seqDev 0) 4).state ≠ 1 ∧ (entryFor (seqDev 0) 3).state ≠ 1) ∧
    (let s := { seqDev 2 with fe := { Front.reset with seqOp := some ⟨3, 0, 64, true⟩ } }
     s.kvServes = true ∧ 0 < s.seqSlots ∧ (s.seqGet 0).state ≠ 5 ∧ (List.range 8).all (fun k => (s.stk k).builds.isEmpty) = true) := by
  unfold SeqQuiet
  decide +kernel

/-- REBUILD of 64 tokens: its one summary finds a frame, and none where both frames of the stack are owned. -/
def rebuildDev (s : State) : State := { s with regs := SMap.put 0 s.regs 0x1714 64 }

theorem witness_Rebuild :
    (let s := rebuildDev (seqDev 1)
     (State.sumFrames 0 (s.seqGet 0) 1 1 0 (taken s 3 0 64)).1 = true) ∧
    (let s := rebuildDev (seqDev 1)
     let s := (s.setFrameOwner (s.kvPool 0) 1 0 5).setFrameOwner (s.kvPool 0) 1 1 5
     (State.sumFrames 0 (s.seqGet 0) 1 1 0 (taken s 3 0 64)).1 = false) := by
  decide +kernel

/-! Rings. -/

/-- Ring 0 enabled, one command in a buffer in near bank 0, completion records to HBM. -/
def aRing : Ring :=
  { Ring.reset with state := 1, cmdBase := 0x10000100000, cmdLog2 := 4, cplBase := 0x200000, cplLog2 := 4, tail := 1, maxSlots := 2 }

/-- The device READY with ring 0 as given and `w` at its head. -/
def ringDev (x : Ring) (w : Nat) : State :=
  { ({ dev (flAt 0) with hbm := hbmUp true, fe := { Front.reset with rings := [(0, x)] } } : State).memPutN 64 0x10000100000 w with
    boot := { Boot.reset with state := 7, aonLow := false, perst := false } }

/-- A ring table entry for ring 0 (R248), at HBM address 0. -/
def entryDev : State :=
  (ringDev Ring.reset 0).memPutN 32 0 (0x100000 + 2 ^ 64 * 4 + 2 ^ 80 * 1 + 2 ^ 128 * 0x200000 + 2 ^ 192 * 4)

def stoppedRing : Ring := { aRing with state := 2 }

theorem witness_RingOperationsAndDoorbells :
    (entryDev.boot.state = 7 ∧ (entryDev.ring 0).state = 0 ∧ entryDev.ringAddr 0 = 0 ∧ entryDev.memGetN 8 0 = 0x100000 ∧
      entryDev.cmdPlace 0x100000 = true ∧ entryDev.memGetN 1 8 = 4 ∧ entryDev.memGetN 1 0x0A = 1 ∧
      entryDev.memGetN 8 0x10 = 0x200000 ∧ entryDev.memGetN 1 0x18 = 4) ∧
    (entryDev.memReady (entryDev.ringAddr 0) 64 = true ∧ State.reset.memReady (State.reset.ringAddr 0) 64 = false ∧
      (let s := { ringDev Ring.reset 0 with boot := Boot.reset }
       s.memReady (s.ringAddr 0) 64 = true ∧ s.boot.state ≠ 7)) ∧ (aRing.state ≠ 0 ∧ aRing.live = [] ∧ aRing.held = [] ∧ aRing.wait = .none) ∧
    ({ aRing with wait := .granted 0 } : Ring).state ≠ 0 ∧
    (stoppedRing.state = 2 ∧ stoppedRing.disabling = false) ∧ aRing.state ≠ 2 ∧
    ((ringDev aRing 0).fe.hostHeld = false ∧ (ringDev aRing 0).takesT false = true ∧ aRing.sigs = [] ∧ aRing.disabling = false) ∧
    ({ ringDev aRing 0 with sec := { Sec.reset with tdi := 2 } } : State).takesT false = false ∧
    ((aRing.cplTail + 2 ^ 32 - 0) % 2 ^ 32 ≤ 2 ^ aRing.cplLog2 ∧ 2 ^ aRing.cplLog2 < (aRing.cplTail + 2 ^ 32 - 1) % 2 ^ 32) ∧
    (1 % 2 ^ 32 + 2 ^ 32 - aRing.head) % 2 ^ 32 ≤ 2 ^ aRing.cmdLog2 ∧ 2 ^ aRing.cmdLog2 < (17 % 2 ^ 32 + 2 ^ 32 - aRing.head) % 2 ^ 32 ∧
    Ring.reset.state ≠ 1 := by decide +kernel

/-- The head command `w`, of opcode `op`, is good in ring 0 as given. -/
def Head (x : Ring) (op w : Nat) : Prop := AtHead (ringDev x w) 0 op w

/-- SIGNAL and WAIT_TALLY on tally 5 of umbel 1; WAIT_TALLY has a timeout of 1 ms. -/
def sigC : Nat := 4 + 2 ^ 32 * 0x20105 + 2 ^ 64
def waitC (t : Nat) : Nat := 3 + 2 ^ 32 * 0x20105 + 2 ^ 64 * t + 2 ^ 96 * 1000

def waitingRing : Ring := { aRing with wait := .tally 0 }
def liveRing : Ring := { aRing with live := [9] }

/-- PHASE_HINT `h` of umbel 0, which runs. -/
def hintW (h : Nat) : Nat := 6 + 2 ^ 32 * h + 2 ^ 64
def hinted (h : Nat) : State :=
  { ringDev aRing (hintW h) with
    pw := { Power.reset with umbs := [(0, { PwUmb.reset with state := 2 })] }
    flt := { Faults.reset with parts := [(0, { Part.reset with state := 1 })] }
    regs := [(regOff .gl 0 0x400, 3)] }

theorem witness_RingCommandsEndInOrder_idle :
    RingIdle (ringDev aRing 0) 0 ∧ Head aRing 0 0 ∧ Head aRing 5 5 ∧ Head aRing 7 7 ∧
    (Head aRing 4 sigC ∧ (ringDev aRing sigC).tref none none (bitsN sigC 63 32) = .um 1 5 ∧
      (ringDev aRing sigC).umShut 1 = false) := by
  unfold Head AtHead RingIdle
  decide +kernel

theorem witness_RingCommandsEndInOrder_traced :
    (let s := { ringDev aRing 7 with regs := [(State.regKey .tr 0 0x100, 1), (State.regKey .tr 0 0x108, 0x000FFFFF)] }
     AtHead s 0 7 7 ∧ RingIdle s 0 ∧ s.trOn = true ∧ bitN (s.regN .tr 0 0x108) 18 = true ∧ (SMap.get [] s.tr.qs 512).length < 16) ∧
    (AtHead (hinted 0) 0 6 (hintW 0) ∧ AtHead (hinted 1) 0 6 (hintW 1) ∧ AtHead (hinted 2) 0 6 (hintW 2) ∧ RingIdle (hinted 2) 0 ∧
      (hinted 2).umLive 0 = true ∧ (hinted 2).umUsed 0 = false ∧ (hinted 2).pw.warn = false) := by
  unfold AtHead RingIdle
  decide +kernel

theorem witness_RingCommandsEndInOrder_wait :
    (Head aRing 3 (waitC 0) ∧ (ringDev aRing (waitC 0)).ringWaitOk (waitC 0) = true) ∧
    (Head aRing 3 (waitC 1) ∧ (ringDev aRing (waitC 1)).ringWaitOk (waitC 1) = false) ∧
    Head waitingRing 3 (waitC 0) ∧
    (Head waitingRing 3 (waitC 1) ∧ bitsN (waitC 1) 127 96 ≠ 0 ∧ bitsN (waitC 1) 127 96 * 1000 < 1000001) := by
  unfold Head AtHead
  decide +kernel

theorem witness_RingCommandsEndInOrder_hold :
    (Head liveRing 5 5 ∧ liveRing.live ≠ []) ∧
    (ringInsn (.cmdNop 0) = some (0, 0) ∧ (ringDev aRing (2 ^ 40)).headCmd 0 = some (2 ^ 40) ∧
      (ringDev aRing (2 ^ 40)).cmdBad (2 ^ 40) = some 5) := by
  unfold Head AtHead
  decide +kernel

/-- LAUNCH of the cached image at 0x1000 with its constants in near bank 0. -/
def launchW : Nat := 1 + 2 ^ 64 * 0x1000 + 2 ^ 128 * 0x10000002000

/-- An image without florets or weight set, cached; partition 0 LIVE; constants with a batch of one token. -/
def launchDev (x : Ring) (slots : SMap LSlot) : State :=
  let s := (ringDev x launchW).memPutN 4 (0x10000002000 + 28) 1
  { s with
    fe := { s.fe with images := [⟨0x1000, 0, 0, []⟩], slots := slots }
    flt := { Faults.reset with parts := [(0, { Part.reset with state := 1 })] }
    regs := [(regOff .gl 0 0x400, 3)] }

/-- An image of version 6 without weight set: without florets, or with floret 0 alone; and one for weight set 5 of two layers. -/
def noImg : CImg := ⟨0x1000, 0, 0, []⟩
def oneImg : CImg := ⟨0x1000, 0, 0, [(4, 6), (6, 1), (0x18, 0x40)]⟩
def wsImg : CImg := ⟨0x1000, 0, 0, [(8, 5), (0x34, 2)]⟩

/-- Constants with a batch of one token. -/
def aCb : Nat := 2 ^ 224
def askRing : Ring := { aRing with wait := .request launchW aCb noImg }
def holdRing : Ring := { aRing with wait := .swapHold launchW aCb wsImg }
def heldRing : Ring := { aRing with wait := .granted 0 }
def heldSlot (m : CImg) : LSlot := { LSlot.reset with state := 1, image := 0x1000, cb := aCb, img := m }

def chkOf : Chk × Nat × CImg × State → Chk × Nat × CImg
  | (c, k, m, _) => (c, k, m)

/-- The cached image needs weight set 5, in the midst of a swap sequence or not. -/
def swapDev (x : Ring) (swapping : Bool) : State :=
  let s := launchDev x []
  { s with
    fe := { s.fe with
      images := [wsImg]
      wsets := [(0, { WSet.empty with valid := true, id := 5, nl := 2, swapping := swapping })] } }

theorem witness_LaunchesTakeASlotAndComplete_take :
    (AtHead (launchDev aRing []) 0 1 launchW ∧ aRing.wait = .none ∧ (launchDev aRing []).launchReady launchW = true ∧
      chkOf ((launchDev aRing []).launchCheck launchW) = (.ok, aCb, noImg)) ∧
    (AtHead (swapDev aRing true) 0 1 launchW ∧ (swapDev aRing true).launchReady launchW = true ∧
      chkOf ((swapDev aRing true).launchCheck launchW) = (.hold, aCb, wsImg)) ∧
    (let s := ringDev aRing launchW
     AtHead s 0 1 launchW ∧ s.launchReady launchW = true ∧ (chkOf (s.launchCheck launchW)).1 = .reject 2 0 ∧ RingIdle s 0) ∧
    (AtHead (swapDev holdRing false) 0 1 launchW ∧ holdRing.wait = .swapHold launchW aCb wsImg ∧
      (swapDev holdRing false).wsetCheck wsImg (kPack aCb) = .ok ∧ (swapDev holdRing true).wsetCheck wsImg (kPack aCb) = .hold) ∧
    ((launchDev askRing []).winner = some (0, 0) ∧ (launchDev askRing []).freeSlots = 0 :: (List.range 64).tail ∧
      (launchDev askRing []).reserved 0 < 64 ∧ askRing.wait = .request launchW aCb noImg) := by
  unfold AtHead RingIdle
  decide +kernel

/-- The slot has its frames, and umbel 0 runs with its rail at the top of its range. -/
def wokenDev : State :=
  { launchDev heldRing [(0, { heldSlot oneImg with kv := true })] with
    pw := { Power.reset with
      umbs := [(0, { PwUmb.reset with state := 2 })]
      rails := [(0, { PwRail.reset with reached := 850 })] } }

theorem witness_LaunchesTakeASlotAndComplete_release :
    (let s := launchDev heldRing [(0, heldSlot oneImg)]
     (s.lsl 0).state = 1 ∧ (s.lsl 0).ring = 0 ∧ (s.ring 0).wait = .granted 0 ∧ s.placeCheck oneImg (s.lsl 0).part = .ok ∧
       s.wsetCheck oneImg (kPack aCb) = .ok ∧ (s.lsl 0).kv = false ∧ kNseq aCb = 0 ∧ (State.allocKv aCb (kNseq aCb) 0 [] s).1 = .ok ∧
       oneImg.florets = [0] ∧ (s.pwUmb 0).state = 0 ∧ s.pw.trip = false) ∧
    (wokenDev.placeCheck oneImg (wokenDev.lsl 0).part = .ok ∧ wokenDev.wsetCheck oneImg (kPack aCb) = .ok ∧
      (wokenDev.lsl 0).kv = true ∧ wokenDev.umbelsRun oneImg.florets = true ∧ wokenDev.sweepOn oneImg.florets = false ∧
      oneImg.nflo = 1 ∧
      (wokenDev.fl (oneImg.floret 0)).prog ≠ oneImg.serial * 1024 + oneImg.get (oneImg.recOff 0 + 2) 2 + 1) := by
  refine ⟨by decide +kernel, by decide +kernel, by decide +kernel, by decide +kernel, ?_, by decide +kernel⟩
  have h : wokenDev.umNeed 0 (wokenDev.umFreq 0) ≤ 850 := Nat.min_le_left _ _
  have hf : oneImg.florets = [0] := by decide +kernel
  have hs : (wokenDev.pwUmb (0 / 16)).state = 2 ∧ (wokenDev.um (0 / 16)).held = false ∧ wokenDev.pw.trip = false ∧
      (wokenDev.rail (0 / 16 / 16)).reached = 850 := by decide +kernel
  simp only [State.umbelsRun, hf, List.all_cons, List.all_nil, Bool.and_true, State.umAtPoint, hs]
  simpa using h

/-- Slot 0 runs on floret 0, which has done its share. -/
def runSlot : LSlot := { LSlot.reset with state := 2, florets := [0], samples := [0], window := 5 }
def runDev (x : LSlot) : State :=
  { launchDev aRing [(0, x)] with fls := [(0, { Floret.reset with lslot := 1, ended := true })], ftime := 10 }

theorem witness_Tidy : Tidy (runDev runSlot) := by
  have h (n : Nat) : (runDev runSlot).ring n = if n = 0 then aRing else Ring.reset := by
    show SMap.get Ring.reset [(0, aRing)] n = _
    simp [SMap.get]
  refine ⟨fun r => ?_, fun r n => ?_⟩ <;> rw [h] <;> split <;> simp [aRing, Ring.reset]

theorem witness_LaunchesTakeASlotAndComplete_end :
    ((runDev runSlot).lsl 0).state = 2 ∧ runSlot.florets.contains 0 = true ∧ runSlot.done.contains 0 = false ∧
    ((runDev runSlot).fl 0).lslot = 0 + 1 ∧ ((runDev runSlot).fl 0).shareDone = true ∧ (runDev runSlot).floretQuiet 0 = true ∧
    (1 : W4).toNat ≠ runSlot.gen ∧
    (∀ f ∈ ({ runSlot with done := [0] } : LSlot).florets, f ∈ ({ runSlot with done := [0] } : LSlot).done) ∧
    RingIdle (runDev { runSlot with done := [0] }) 0 ∧
    ({ runSlot with state := 3, qEnd := 10 } : LSlot).qEnd ≤ (runDev runSlot).ftime ∧
    runSlot.suspended = false ∧ runSlot.ended = none ∧ runSlot.nextSample ≤ (runDev runSlot).ftime ∧
    runSlot.florets.map (fun f => (runDev runSlot).regN .fl f Off.progress) = runSlot.samples ∧
    runSlot.window ≤ (runDev runSlot).ftime - runSlot.tAdv ∧
    (runDev runSlot).ftime - runSlot.tAdv < ({ runSlot with window := 20 } : LSlot).window ∧
    runSlot.florets.map (fun f => (runDev runSlot).regN .fl f Off.progress) ≠ ({ runSlot with samples := [7] } : LSlot).samples := by
  unfold RingIdle
  decide +kernel

/-! Copy engine and weights. -/

def copyW : Nat := 2 + 2 ^ 32
def loadW (pk : Nat) : Nat := 8 + 2 ^ 32 + 2 ^ 192 * pk + 2 ^ 208 * pk + 2 ^ 256 * 5
def swapW (fl e : Nat) : Nat := 9 + 2 ^ 192 * fl + 2 ^ 208 * e + 2 ^ 256 * 5

/-- Weight set 5 in slot 0, of two layers, with a pack in variant slot 1. -/
def wset5 : WSet := { WSet.empty with valid := true, id := 5, nl := 2, packs := [(1, some ⟨0x4000, 1, false⟩)] }

def wDev (x : WSet) (w : Nat) : State := let s := ringDev aRing w; { s with fe := { s.fe with wsets := [(0, x)] } }

def WHead (x : WSet) (op w : Nat) : Prop := AtHead (wDev x w) 0 op w ∧ (wDev x w).copyRoom w = true

theorem witness_CopyAndWeightCommandsAreTaken :
    WHead wset5 2 copyW ∧ (WHead wset5 8 (loadW 0) ∧ C.pack (loadW 0) = false ∧ C.ckey (loadW 0) = 0) ∧
    (WHead { wset5 with packs := [] } 8 (loadW 1) ∧ C.pack (loadW 1) = true ∧ wset5.id = C.wsetId (loadW 1) ∧
      SMap.get none ({ wset5 with packs := [] } : WSet).packs (C.vslot (loadW 1)) = none) ∧
    (WHead wset5 8 (loadW 1) ∧ SMap.get none wset5.packs (C.vslot (loadW 1)) = some ⟨0x4000, 1, false⟩) ∧
    (WHead WSet.empty 8 (loadW 1) ∧ WSet.empty.valid = false) := by
  unfold WHead AtHead
  decide +kernel

theorem witness_CopyAndWeightCommandsAreTaken_swap :
    (WHead wset5 9 (swapW 1 0) ∧ C.reloc (swapW 1 0) = false ∧ (wDev wset5 (swapW 1 0)).swapBad (swapW 1 0) = none ∧
      C.begin (swapW 1 0) = true) ∧
    (let x := { wset5 with swapping := true, next := 1 }
     WHead x 9 (swapW 2 1) ∧ (wDev x (swapW 2 1)).swapBad (swapW 2 1) = none ∧ C.peer (swapW 2 1) = false ∧
     WHead x 9 (swapW 6 1) ∧ (wDev x (swapW 6 1)).swapBad (swapW 6 1) = none ∧ C.peer (swapW 6 1) = true) ∧
    (WHead wset5 9 (swapW 16 1) ∧ C.reloc (swapW 16 1) = true ∧ (wDev wset5 (swapW 16 1)).swapBad (swapW 16 1) = none ∧
      (wDev wset5 (swapW 16 1)).users 0 none = [] ∧ (wDev wset5 (swapW 16 1)).relocDue 0 = none ∧
      (wDev wset5 (swapW 16 1)).waitsOver [] = true) := by
  unfold WHead AtHead
  decide +kernel

theorem witness_CopyAndWeightCommandsAreTaken_refused :
    (WHead wset5 9 (swapW 1 3) ∧ ((wDev wset5 (swapW 1 3)).swapBad (swapW 1 3)).isSome = true ∧ C.reloc (swapW 1 3) = false ∧
      WHead wset5 9 (swapW 16 3) ∧ ((wDev wset5 (swapW 16 3)).swapBad (swapW 16 3)).isSome = true ∧
      (wDev wset5 (swapW 16 3)).relocDue 0 = none ∧ RingIdle (wDev wset5 (swapW 16 3)) 0) ∧
    (let s := wDev wset5 (swapW 16 1)
     let t := ({ s with fe := { s.fe with slots := [(0, { LSlot.reset with state := 2, ws := some 0 })] } } : State)
     t.users 0 none ≠ [] ∧ t.waitsOver (t.users 0 none) = false) := by
  unfold WHead AtHead RingIdle
  decide +kernel

/-- A command in the engine, numbered 0, of ring 0. -/
def inEngine (w phase : Nat) : CopyCmd :=
  { id := 0, ring := 0, head := 0, w := w, phase := phase, t0 := 0, seen := 0, seenAt := 0, waits := [], mc0 := 0 }

/-- The engine with that command and its lines complete, or line 0 lost. -/
def engDev (c : CopyCmd) (dn lost : Nat) : State :=
  let s := wDev wset5 c.w
  { s with
    fe := { s.fe with copies := [c], copyEng := flying { started (kw 2 1) 1 with dn := dn, lost := lost } }
    ftime := 200000000 }

/-- SWAP_LAYER PEER for target `t` of tally 5 of umbel 1. -/
def peerW (t : Nat) : Nat := swapW 6 1 + 2 ^ 320 * 0x20105 + 2 ^ 352 * t

/-- Its lines written, `v` at the head of what they hold. -/
def loadedDev (w v : Nat) : State := (engDev (inEngine w 1) 1 0).memPutN 32 0 v

theorem witness_CopyEngine_weights :
    (let s := loadedDev (loadW 0) (0x31535744 + 2 ^ 32 + 2 ^ 64 * 5 + 2 ^ 192 * 128)
     s.copy 0 = some (inEngine (loadW 0) 1) ∧ RingOpen s 0 ∧ GoodEnd s (inEngine (loadW 0) 1) ∧
       AllLines s (inEngine (loadW 0) 1) { started (kw 2 1) 1 with dn := 1 } ∧
       s.fe.copyEng.desc 0 = some { started (kw 2 1) 1 with dn := 1 }) := by
  unfold RingOpen GoodEnd AllLines
  decide +kernel

theorem witness_CopyEngine_pack :
    (let s := loadedDev (loadW 1) (0x314B5044 + 2 ^ 32 + 2 ^ 64 * 5)
     RingOpen s 0 ∧ GoodEnd s (inEngine (loadW 1) 1) ∧ C.pack (loadW 1) = true) ∧
    (GoodEnd (engDev (inEngine (swapW 2 1) 1) 1 0) (inEngine (swapW 2 1) 1)) := by
  unfold RingOpen GoodEnd
  decide +kernel

theorem witness_CopyEngine_relocation :
    (let s := loadedDev (loadW 0) 0
     RingOpen s 0 ∧ AllLines s (inEngine (loadW 0) 1) { started (kw 2 1) 1 with dn := 1 } ∧
       (s.readWset (C.dst (loadW 0)) (C.wsetId (loadW 0)) (C.lines (loadW 0)) (s.wset 0).g).1 = some 0) ∧
    (let s := engDev (inEngine (swapW 16 1) 0) 0 0
     s.relocDue 0 = some (inEngine (swapW 16 1) 0) ∧ RingOpen s 0) := by
  unfold RingOpen AllLines
  decide +kernel

theorem witness_CopyEngineCommandsComplete :
    ((engDev (inEngine (loadW 0) 0) 0 0).copy 0 = some (inEngine (loadW 0) 0) ∧
      (engDev (inEngine (loadW 0) 0) 0 0).waitsOver [] = true ∧ C.op (loadW 0) = 8) ∧
    (C.op (swapW 1 0) = 9 ∧ (engDev (inEngine (swapW 1 0) 0) 0 0).copy 0 = some (inEngine (swapW 1 0) 0)) ∧
    (RingOpen (engDev (inEngine copyW 1) 1 0) 0 ∧ C.op copyW = 2 ∧ C.ckey copyW = 0 ∧
      (engDev (inEngine copyW 1) 1 0).fe.copyEng.desc 0 = some { started (kw 2 1) 1 with dn := 1 } ∧ popN 1 1 = 1) ∧
    (C.op (peerW 0) = 9 ∧ C.ckey (peerW 0) = 0 ∧ (engDev (inEngine (peerW 0) 2) 0 0).copy 0 = some (inEngine (peerW 0) 2) ∧
      waitOk ((engDev (inEngine (peerW 0) 2) 0 0).tallyVal ((engDev (inEngine (peerW 0) 2) 0 0).tref none none
        (C.tally (peerW 0) % 2 ^ 18))) (BitVec.ofNat 32 (C.target (peerW 0))) = true) ∧
    (RingOpen (engDev (inEngine copyW 1) 0 1) 0 ∧
      (engDev (inEngine copyW 1) 0 1).fe.copyEng.desc 0 = some { started (kw 2 1) 1 with lost := 1 }) ∧
    (waitOk ((engDev (inEngine (peerW 1) 2) 0 0).tallyVal ((engDev (inEngine (peerW 1) 2) 0 0).tref none none
        (C.tally (peerW 1) % 2 ^ 18))) (BitVec.ofNat 32 (C.target (peerW 1))) = false ∧
      (engDev (inEngine (peerW 1) 2) 0 0).regN .fe 0 0x110 * 1000 ≤ 200000000 - 0 ∧
      (engDev (inEngine (peerW 1) 2) 0 0).tallyVal (.um 1 5) = 0 ∧ ({ inEngine (peerW 1) 2 with seen := 7 } : CopyCmd).seen ≠ 0) := by
  unfold RingOpen
  decide +kernel

/-! Fabric. -/

/-- Device 0 with links 0 and 3 up, devices 0, 1 and 5 in service, device 5 reached over link 3 and device 1 over link 0. -/
def fabUp : Fabric :=
  { Fabric.reset with
    links := [(0, { Link.reset with state := 2, lanes := 255 }), (3, { Link.reset with state := 2, lanes := 255 })]
    routes := [(1, 2 ^ 4), (5, 3 + 2 ^ 4)], service := [0, 1, 5] }

def onFab (f : Fabric) : State := { dev (flAt 0) with fab := f, ftime := 20000000 }

/-- A packet from device `v` injected at time `t`. -/
def hdr (v : DevId) (t : Nat) : PktHdr := ⟨v, 64, 0, false, t, 7⟩

/-- Tree 1 delivers here and to link 3; its parent is link 0. -/
def treeFab : Fabric := { fabUp with mct := [(0, 0x10080)], mcOwn := [(0, 300)], mcChild := [(3, 280)] }

/-- Floret 0's feed 0 takes near-bank line 0, which stands there or not. -/
def feedAt (present : Nat) : State :=
  { onFab fabUp with
    fls := [(0, { flAt 0 with feeds := [(0, { Feed.off with slots := 2, bl := 1, state := 1, present := [(0, present)] })] })] }

theorem witness_RequestPacketsTakeEffectOrTravelOn_accepted :
    Accepted (onFab fabUp) 0 (hdr 1 20000000) ∧
    (devOf 0x10000000000 = (onFab fabUp).devId ∧ localOf 0x10000000000 = 0x10000000000 ∧ (onFab fabUp).placeOf 0x10000000000 = .nb 0 ∧
      (onFab fabUp).umShut (0 / 16) = false ∧ ((onFab fabUp).fl 0).feedLines (0x10000000000 / 128 % 32768) = []) ∧
    ((feedAt 1).placeOf 0x10000000000 = .nb 0 ∧ (feedAt 1).umShut 0 = false ∧ ((feedAt 1).fl 0).feedLines 0 = [(0, 0, 0)] ∧
      ((feedAt 1).fl 0).feedFull (0, 0, 0) = true ∧ ((feedAt 0).fl 0).feedFull (0, 0, 0) = false) ∧
    ((onFab fabUp).placeOf (0x10000000000 + 0x400000 * 32) = .nb 32 ∧ (onFab fabUp).umShut (32 / 16) = true) ∧
    ((onFab fabUp).tref none none 0x20105 = .um 1 5 ∧ (onFab fabUp).umShut 1 = false ∧ bitN 0x20105 19 = false) ∧
    mcLocal ((onFab treeFab).mcEntry 0) = true ∧ mcLocal ((onFab fabUp).mcEntry 0) = false := by
  unfold Accepted
  decide +kernel

theorem witness_RequestPackets_HBM_and_host :
    (let s : State := { onFab fabUp with hbm := hbmUp true }
     Accepted s 0 (hdr 1 20000000) ∧ HbmServes s 0 ∧ HoldsLine s 0 (s.phys 0) false 0) ∧
    ({ onFab fabUp with bme := true } : State).placeOf (localOf 0x20000000000) = .host := by
  unfold Accepted HbmServes HoldsLine
  decide +kernel

theorem witness_RequestPacketsTakeEffectOrTravelOn_other :
    (reqPacket (onFab fabUp) (.pktRead 0 (hdr 9 0) 0) = some (0, hdr 9 0, 0, 0, .read 0) ∧ (onFab fabUp).outside 9 = true ∧
      (onFab fabUp).linkUp 0 = true ∧ (onFab fabUp).linkUp 1 = false) ∧
    ((onFab fabUp).outside 1 = false ∧
      (onFab { fabUp with dead := [(1, 64, 0, 30000000)] }).isDead (hdr 1 20000000) = true) ∧
    ((onFab fabUp).isDead (hdr 1 0) = false ∧ (onFab fabUp).tooOld (hdr 1 0).inj = true) ∧
    (Accepted (onFab fabUp) 0 (hdr 1 20000000) ∧ 5 ≠ (onFab fabUp).devId ∧ (onFab fabUp).pickRoute 5 0 = some (3, false) ∧
      7 ≠ (onFab fabUp).devId ∧ (onFab fabUp).pickRoute 7 0 = none) := by
  unfold Accepted
  decide +kernel

/-- A load engine's line 0 of two is asked from device 5 under token 7; a store's written to it, its SIGNAL sent there. -/
def aw (k : AwaitKind) (g : Agent) : Await := ⟨7, k, g, 0, 0, 0, 5, 3, 66, 0, none, false⟩
def askLoad : State :=
  { onLoad (flying { started (kw 2 2) 2 with rd := 1 }) with fab := { fabUp with awaits := [aw .line (.load 0)] } }
def sentDesc : Desc := { started (kw 2 2) 2 with rd := 1, ret := 1, sent := 1, data := [(0, some ⟨7, false, fullMask⟩)] }
def askStore : State := { onStore (flying sentDesc) with fab := { fabUp with awaits := [aw .line (.store 0)] } }
def askSignal : State :=
  { onStore (flying (started (signalTo (2 ^ 19 + 5 * 2 ^ 20 + 7)) 0)) with
    fab := { fabUp with awaits := [aw .sigDesc (.store 0)] } }

/-- A response of device 5 to flow 66 of this device. -/
def rsp (dst : DevId) (flow : W7) (gen : W4) : RspHdr := ⟨5, dst, flow, gen, false⟩

theorem witness_AnswersAreTaken :
    (Awaited askLoad 3 (rsp 0 66 0) 7 (aw .line (.load 0)) ∧
      (askLoad.eng (.load 0)).desc 0 = some { started (kw 2 2) 2 with rd := 1 } ∧ askLoad.flowLive 66 0 = true) ∧
    (Awaited askStore 3 (rsp 0 66 0) 7 (aw .line (.store 0)) ∧ (askStore.eng (.store 0)).desc 0 = some sentDesc ∧
      sentDesc.lineData 0 = some ⟨7, false, fullMask⟩ ∧ D.tallyEn sentDesc.w = false ∧
      popN 2 (setBitN sentDesc.dn 0 true) < sentDesc.lines) ∧
    (Awaited askSignal 3 (rsp 0 66 0) 7 (aw .sigDesc (.store 0)) ∧
      (askSignal.eng (.store 0)).fly = [started (signalTo (2 ^ 19 + 5 * 2 ^ 20 + 7)) 0]) ∧
    askLoad.flowLive 1 1 = false := by
  unfold Awaited
  decide +kernel

theorem witness_AnswersAreForwardedOrDropped :
    (rspPacket (.lossPkt 3 (rsp 0 66 0) ⟨7, .age⟩) = some (3, rsp 0 66 0, [7], .loss 7 .age) ∧ (onFab fabUp).linkUp 3 = true ∧
      (onFab fabUp).linkUp 1 = false ∧ (onFab fabUp).outside 9 = true ∧ (onFab fabUp).outside 5 = false) ∧
    ((rsp 1 66 0).dst.toNat ≠ (onFab fabUp).devId ∧ (onFab fabUp).pickRoute 1 0 = some (0, false) ∧
      (onFab fabUp).pickRoute 7 0 = none) ∧
    ((rsp 0 3 1).flow.toNat < 64 ∧ ((onFab fabUp).lsl 3).gen ≠ (rsp 0 3 1).gen.toNat) ∧
    ((1 : DevId).toNat ≠ (onFab fabUp).devId) := by decide +kernel

theorem witness_FencesAndCountsAreTaken :
    ((onFab fabUp).linkUp 0 = true ∧ (onFab fabUp).outside 1 = false ∧ (0 : DevId).toNat = (onFab fabUp).devId ∧
      (onFab fabUp).fab.dead.length < 256) ∧
    256 ≤ ({ fabUp with dead := List.replicate 256 (1, 0, 0, 0) } : Fabric).dead.length ∧
    ((mcChildren ((onFab treeFab).mcEntry 0)).contains 3 = true ∧ (onFab treeFab).linkUp 3 = true ∧
      (onFab treeFab).outside ((onFab treeFab).link 3).peerDev = false ∧
      (let f := { treeFab with links := [(3, { Link.reset with state := 2, peerDev := 9 })] }
       (onFab f).linkUp 3 = true ∧ (onFab f).outside ((onFab f).link 3).peerDev = true)) ∧
    (0 = mcParent ((onFab treeFab).mcEntry 0) ∧ (onFab treeFab).linkUp 0 = true ∧ SMap.get false treeFab.mcBroken 0 = false ∧
      SMap.get 0 treeFab.mcSent 0 + 256 ≤ (onFab treeFab).mcCount 0 (mcLocal ((onFab treeFab).mcEntry 0))) ∧
    (SMap.get false ({ treeFab with mcBroken := [(0, true)] } : Fabric).mcBroken 0 = true ∧ SMap.get 0 treeFab.mcSent 0 ≠ 2 ^ 64) := by
  decide +kernel

/-- Link 0 alone, as given. -/
def oneLink (x : Link) : State := onFab { fabUp with links := [(0, x)] }
def upLink : Link := { Link.reset with state := 2, lanes := 255 }

/-- The same with link 0 disabled. -/
def disabled : State := { oneLink Link.reset with regs := [(0x20104, 0)] }

theorem witness_LinksFollowTrainingAndFaults :
    (oneLink Link.reset).linkPresent 0 = true ∧ linkEn (oneLink Link.reset) 0 = true ∧ Link.reset.state ≤ 1 ∧
    6 ≤ (goodLanes Link.reset 0x3F).length ∧ (goodLanes Link.reset 0x1F).length < 6 ∧ Link.reset.retry = [] ∧ fabUp.held = [] ∧
    (upLink.state = 2 ∧ bitN upLink.lanes 3 = true ∧ laneCount (setBitN upLink.faults 3 true) < 3) ∧
    3 ≤ laneCount (setBitN ({ upLink with faults := 3 } : Link).faults 3 true) ∧
    (SMap.get [] upLink.lockLoss 3 = [] ∧
      2 ≤ ((SMap.get [] ({ upLink with lockLoss := [(3, [19000000, 18000000])] } : Link).lockLoss 3).filter
        (fun t => (oneLink upLink).ftime < t + 60000000000)).length) ∧
    (let x : Link := { Link.reset with wasUp := true, downAt := 1 }
     x.state ≤ 1 ∧ 10000000 < (oneLink x).ftime - x.downAt) ∧
    (disabled.linkPresent 0 = true ∧ linkEn disabled 0 = false ∧ (disabled.link 0).state = 0) ∧
    linkEn (oneLink upLink) 0 = true := by decide +kernel

/-- A packet that waits in the retry buffer, numbered 5, last sent at time 0. -/
def waitingPkt : OutPkt := ⟨0, 0, 1, 0, 66, 0, 0, 7, .signal 0 0⟩
def retryLink (ts : List (Nat × Nat)) : Link := { upLink with retry := [⟨5, 0, 64, waitingPkt⟩], replays := ts }

theorem witness_LinksReplay :
    ((∃ r ∈ (retryLink []).retry, r.seq = 5 ∧ r.at_ + 4000 ≤ (oneLink upLink).ftime) ∧
      ∀ r ∈ replayed (retryLink []) 5, timesReplayed (oneLink upLink) (retryLink []) 5 r ≤ 16) ∧
    (∃ r ∈ replayed (retryLink (List.replicate 16 (5, 20000000))) 5,
      16 < timesReplayed (oneLink upLink) (retryLink (List.replicate 16 (5, 20000000))) 5 r) ∧
    (∀ r ∈ (retryLink []).retry, r.seq = 6 → (oneLink upLink).ftime < r.at_ + 4000) := by decide +kernel

/-- An expected-topology table of devices 0 and 1 and one connection: link 0 of device 0 to link 1 of device 1 (R439). -/
def ettT : List Nat :=
  (List.range 64).map (fun i => if i = 6 then 2 else if i = 8 then 1 else 0) ++ List.replicate 24 0 ++ (1 :: List.replicate 23 0)
    ++ [0, 0, 0, 1, 0, 1, 6, 0]

/-- A running meadow device whose retired link 0 a probe may bring back. -/
def probeDev : State :=
  { oneLink { Link.reset with state := 3 } with
    fab := { fabUp with links := [(0, { Link.reset with state := 3 })], mstate := 1 }, boot := { Boot.reset with cur := ettT } }

theorem witness_LinksFollowTrainingAndFaults_probe :
    probeDev.fab.mstate = 1 ∧ probeDev.linkPresent 0 = true ∧ linkEn probeDev 0 = true ∧ (probeDev.link 0).state = 3 ∧ laneCount (probeDev.link 0).faults < 3 ∧
    (∃ e ∈ ettOf probeDev.boot.cur probeDev.devId, e.1 = 0 ∧ e.2.1 = (1 : DevId).toNat ∧ e.2.2.1 = (1 : W4).toNat) := by
  decide +kernel

/-- An LSA of device `v` with the given sequence number; one that asks to join. -/
def lsaFrom (v : DevId) (n : Nat) : Lsa := ⟨v, n, List.replicate 12 (0, 0, 0), 0, false, 0⟩
def joinLsa : Lsa := ⟨1, 1, (0, 0, 0) :: (2, 0, 0) :: List.replicate 10 (0, 0, 0), 0, true, ettDigest ettT⟩

def joinDev : State :=
  { onFab { fabUp with service := [0], mstate := 1, lsas := [(1, some (1, 20000000, joinLsa))] } with
    boot := { Boot.reset with cur := ettT } }

theorem witness_MembershipAndFabricTime :
    ((onFab fabUp).linkUp 0 = true ∧ (lsaFrom 5 1).origin.toNat ≠ (onFab fabUp).devId ∧ (onFab fabUp).lsaOf 5 = none) ∧
    (1000000 ≤ (onFab fabUp).ftime - (onFab fabUp).fab.lsaAt) ∧
    ((1 : DevId).toNat ≠ (onFab fabUp).devId ∧ (onFab fabUp).lsaFresh 1 = false) ∧
    ((onFab { fabUp with diffAt := 1 }).fab.diffAt ≠ 0 ∧ 1 + 5000000 ≤ (onFab { fabUp with diffAt := 1 }).ftime + 1 ∧
      (onFab { fabUp with diffAt := 1 }).seqSlots = 0) ∧
    (let f := { fabUp with diffAt := 1, reach := [0, 1] }
     f.service.length < 2 * f.reach.length ∧ f.mstate ≠ 2 ∧ f.reach.contains (onFab f).masterId = true ∧
       ({ onFab f with regs := [(0x20184, 5 * 2 ^ 16)] } : State).fab.reach.contains
         ({ onFab f with regs := [(0x20184, 5 * 2 ^ 16)] } : State).masterId = false) ∧
    (let f := { fabUp with diffAt := 1, reach := [0] }
     ¬ (f.service.length < 2 * f.reach.length ∨ (2 * f.reach.length = f.service.length ∧
       f.reach.contains (bitsN ((onFab f).regN .pl 0 0x184) 9 0) = true))) := by decide +kernel

theorem witness_MembershipAndFabricTime_join : joinDev.mayJoin (1 : DevId).toNat = true ∧ joinDev.fab.service.contains (1 : DevId).toNat = false := by
  refine ⟨?_, by decide +kernel⟩
  have h : joinDev.mayJoin 1 = ((ettDigest ettT == ettDigest ettT) && true) := rfl
  show joinDev.mayJoin 1 = true
  rw [h]
  simp

/-- Device 0 is not the master: device 5 is, and its time comes over link 3. -/
def timeDev (st : Nat) (f : Fabric) : State :=
  { onFab f with regs := [(0x20184, 5 * 2 ^ 16)], boot := { Boot.reset with state := st } }

theorem witness_MembershipAndFabricTime_time :
    ((timeDev 0 fabUp).linkUp 3 = true ∧ fabUp.master = false ∧ fabUp.mstate ≠ 2 ∧ fabUp.timeSent + 10000 ≤ (timeDev 0 fabUp).ftime ∧
      (timeDev 0 { fabUp with timeSent := 20000000 }).ftime < ({ fabUp with timeSent := 20000000 } : Fabric).timeSent + 10000 ∧ (timeDev 0 fabUp).parentLink = some 3 ∧ fabUp.firstLock = false ∧
      (timeDev 0 fabUp).boot.state ≠ 7) ∧
    ((timeDev 7 fabUp).parentLink = some 3 ∧ (timeDev 7 fabUp).boot.state = 7) ∧
    ((timeDev 0 fabUp).linkUp 0 = true ∧ (timeDev 0 fabUp).parentLink ≠ some 0) ∧
    100000 < (timeDev 0 fabUp).ftime - fabUp.timeAt ∧
    (let s := { onFab { fabUp with master := true } with regs := [(0x20184, 2 ^ 28)] }
     s.fab.master = true ∧ (s.reg .pl 0 0x184).getLsbD 28 = true ∧ s.fab.ppsAt = 0 ∧ 0 < s.ftime % 1000000000 ∧
       s.ftime % 1000000000 < 500000000) ∧
    ((onFab { fabUp with ppsAt := 20000000 }).fab.ppsAt ≠ 0 ∧
      (onFab { fabUp with ppsAt := 20000000 }).ftime + 1 - (onFab { fabUp with ppsAt := 20000000 }).fab.ppsAt ≤ 1000000) := by
  decide +kernel

/-! HBM. -/

/-- Every stack ACTIVE and filled; channel 0 retiring, its granule `g` next. -/
def hbmDev : State := { dev (flAt 0) with hbm := hbmUp true }
def retDev (g : Nat) : State := { dev (flAt 0) with hbm := { hbmUp true with retiring := some 0, migNext := g, failing := [1] } }

theorem witness_HbmLinesAreStoredCheckedAndMoved :
    (HbmServes hbmDev 0 ∧ hbmDev.lineTag 0 (hbmDev.phys 0) = some false ∧ HoldsLine hbmDev 0 (hbmDev.phys 0) false 0) ∧
    (let s := { dev (flAt 0) with hbm := hbmUp false }
     s.lineTag 0 (s.phys 0) = none ∧ HbmServes s 0) ∧
    (let s := hbmDev.putPhys 0 (hbmDev.phys 0) 0 true
     s.lineTag 0 (s.phys 0) = some true ∧ HbmServes s 0) ∧
    (0 < (dev (flAt 0)).hbmEnd ∧ (dev (flAt 0)).hbmReady 0 = false) ∧
    (hbmDev.hbmEnd ≤ (0x3FFFFFFFFFF : W42).toNat / 128 * 128 ∧ (hbmDev.reg .hc 0 Off.errCnt).toNat < 0xFFFFFFFF) := by
  unfold HbmServes HoldsLine
  decide +kernel

theorem witness_HbmLinesAreStoredCheckedAndMoved_migration :
    ((retDev 0).hbm.retiring = some 0 ∧ 256 * 0 < (retDev 0).hbmEnd ∧ (retDev 0).flt.dieRst = [] ∧
      (retDev 0).phys 0 ≠ (retDev 0).shadow 0 ∧ (retDev 0).hbmReady 0 = true ∧
      (retDev 0).stkTakes (physChan ((retDev 0).shadow 0) / 32) = true ∧
      (retDev 0).lineTag 0 ((retDev 0).phys 0) = some false) ∧
    ((retDev (2 ^ 34)).hbm.retiring = some 0 ∧ (retDev (2 ^ 34)).hbmEnd ≤ 256 * 2 ^ 34 ∧ (retDev (2 ^ 34)).hbm.failing = [1] ∧
      (retDev (2 ^ 34)).hbm.ret.length + 1 < 8) ∧
    (let s := { retDev (2 ^ 34) with hbm := { (retDev (2 ^ 34)).hbm with failing := [] } }
     s.hbm.retiring = some 0 ∧ s.hbmEnd ≤ 256 * 2 ^ 34 ∧ s.hbm.failing = []) ∧
    (let g := (retDev 0).hbmEnd / 256 - 1
     min 512 (((retDev g).hbmEnd + 255) / 256 - g) = 1 ∧ (retDev g).phys (256 * g) = (retDev g).shadow (256 * g)) := by decide +kernel

/-- Stack 0 as given, at 100,000 ns. -/
def oneStack (x : Stack) : State := { dev (flAt 0) with hbm := { Hbm.reset with stk := [(0, x)] }, ftime := 100000 }

theorem witness_HbmStacksFollowHeatFillAndMargin :
    (let x := { Stack.reset with state := 1, half := true, cap := 20 }
     ((oneStack x).stk 0).state ≠ 0 ∧ ((oneStack x).stk 0).state ≠ 3 ∧ x.state = 1 ∧
       (∀ u, u < 16 → ((oneStack x).pwUmb (16 * (0 / 4) + u)).state = 0) ∧ 100000 ≤ (oneStack x).ftime - x.lastReq ∧
       x.filling = false ∧ (oneStack x).hbm.retiring = none ∧ x.builds = [] ∧
       inStack 0 ((oneStack x).phys 0) = true ∧ inStack 0 (2 ^ 31 / 128 * 2 ^ 10) = false) ∧
    ((oneStack { Stack.reset with state := 2 }).stk 0).state = 2 ∧
    (((oneStack { Stack.reset with state := 1, filling := true }).stk 0).filling = true ∧
      (oneStack { Stack.reset with state := 1, filling := true }).stkTakes 0 = true) ∧
    (oneStack { Stack.reset with filling := true }).stkTakes 0 = false ∧
    (((oneStack Stack.reset).stk 0).marginOn = false ∧ ((oneStack Stack.reset).stk 0).state = 0) ∧
    (let s := { oneStack { Stack.reset with state := 1 } with hbm := { hbmUp true with ret := [3] } }
     (s.stk 0).marginOn = false ∧ s.hbm.ret.contains (32 * 0 + bitsN (3 : W32).toNat 4 0) = true ∧
       ((s.stk 0).state ≠ 0 ∧ s.hbm.ret.contains (32 * 0 + bitsN (2 : W32).toNat 4 0) = false)) ∧
    ((oneStack { Stack.reset with marginOn := true }).stk 0).marginOn = true := by decide +kernel

/-! Power. -/

def onPow (p : Power) : State := { dev (flAt 0) with pw := p, ftime := 2000000000 }
def onUmb (x : PwUmb) : State := onPow { Power.reset with umbs := [(0, x)] }
def onRail (x : PwRail) : State := onPow { Power.reset with rails := (0, x) :: railsReset.drop 1 }

/-- Rail 0 reports 1 V and `ma`. -/
def avsAt (ma : Nat) : AvsReading := ⟨[⟨0, true, 1000, ma, 1000, 1000⟩], 1000, 100⟩

/-- What the power limit loop compares after this sample: the power and the limit. -/
def loopSees (s : State) (rd : AvsReading) : Nat × Nat :=
  match exec (.avsSample rd) s with
  | .next t => (if t.pw.fallback then rd.estMw else t.sensedMw,
      (if t.pw.fallback then 800 else 1000) * bitsN (s.regN .pw 0 0x100) 10 0)
  | _ => (0, 0)

theorem witness_SamplesDriveTheControlLoops_power :
    (let s := onPow { Power.reset with fPwr := 17 }
     let x := loopSees s (avsAt 1600000)
     (avsAt 1600000).rails = [⟨0, true, 1000, 1600000, 1000, 1000⟩] ∧ x.2 < x.1 ∧ 16 < s.pw.fPwr) ∧
    (let s := onPow { Power.reset with fPwr := 16 }
     let x := loopSees s (avsAt 1600000)
     x.2 < x.1 ∧ s.pw.fPwr ≤ 16) ∧
    (let s := onPow { Power.reset with rate := 15 }
     let x := loopSees s (avsAt 0)
     100 * x.1 < 98 * x.2 ∧ s.pw.rate < 16) ∧
    (let s := onPow Power.reset
     let x := loopSees s (avsAt 0)
     100 * x.1 < 98 * x.2 ∧ 16 ≤ s.pw.rate) ∧
    (let s := onPow Power.reset
     let x := loopSees s (avsAt (1000 * bitsN (s.regN .pw 0 0x100) 10 0))
     x.1 ≤ x.2 ∧ 98 * x.2 ≤ 100 * x.1) := by decide +kernel

theorem witness_SamplesDriveTheControlLoops_rails :
    (let rd : PmbReading := ⟨[[1000, 1000000, 1000000]], [], [(900, 5)]⟩
     let s := onRail { PwRail.reset with icl := 1100, phases := 3, openCnt := [(0, 1)] }
     rd.aux[0]? = some (900, 5) ∧ rd.phases[0]? = some [1000, 1000000, 1000000] ∧
       phaseLow (1000 * (s.rail 0).icl) ([1000, 1000000, 1000000].take (s.rail 0).phases) 0 = true ∧
       1 ≤ SMap.get 0 (s.rail 0).openCnt 0) ∧
    (let sts : List VrStatus := ⟨false, false, false, 0⟩ :: List.replicate 12 ⟨true, false, false, 0⟩
     (∀ i, i < 4 → ∃ st, sts[9 + i]? = some st ∧ st.ok = true ∧ st.fault = false) ∧ ∃ st, sts[0]? = some st ∧ st.ok = false) ∧
    (let s := onRail PwRail.reset
     [1000][0]? = some 1000 ∧ s.capI 0 * (s.rail 0).g.2 < (s.rail 0).g.1 * 1000) ∧
    (let s := onRail { PwRail.reset with icl := 1100, duty := 3 }
     (s.rail 0).g.1 * 1000 ≤ s.capI 0 * (s.rail 0).g.2) ∧
    fabUp.links ≠ [] ∧ (onFab fabUp).linkUp 0 = true := by
  refine ⟨by decide +kernel, ⟨?_, by decide⟩, by decide +kernel, by decide +kernel, by decide +kernel, by decide +kernel⟩
  intro i h
  match i, h with
  | 0, _ => exact ⟨_, rfl, rfl, rfl⟩
  | 1, _ => exact ⟨_, rfl, rfl, rfl⟩
  | 2, _ => exact ⟨_, rfl, rfl, rfl⟩
  | 3, _ => exact ⟨_, rfl, rfl, rfl⟩

theorem witness_SamplesDriveTheControlLoops_umbel :
    (((onUmb { PwUmb.reset with state := 2 }).pwUmb 0).state = 2 ∧ (onUmb { PwUmb.reset with state := 2 }).pw.trip = false ∧
      ((onUmb { PwUmb.reset with state := 2 }).pwUmb 0).alarm = false) ∧
    (((onUmb { PwUmb.reset with state := 2, hot := 1990000001 }).pwUmb 0).hot ≠ 0 ∧
      10000000 ≤ (onUmb { PwUmb.reset with state := 2 }).ftime + 1 - 1990000001) := by decide +kernel

theorem witness_RegulatorFaultsCapTheirRail :
    ((onRail { PwRail.reset with fault := 1 }).rail 0).fault = 1 ∧ (⟨true, true, false, 2⟩ : VrStatus).ok = true ∧
    3 ≤ (9 : Fin 13).val ∧
    (((onRail { PwRail.reset with healthyAt := 1, fault := 2 }).rail 0).healthyAt ≠ 0 ∧
      1000000000 ≤ (onRail { PwRail.reset with healthyAt := 1, fault := 2 }).ftime + 1 -
        ((onRail { PwRail.reset with healthyAt := 1, fault := 2 }).rail 0).healthyAt) := by decide +kernel

/-- Umbel 0 runs at 17; rail 0 and rail 2 are at what 18 needs, or low. -/
def umb17 : PwUmb := { PwUmb.reset with state := 2, freq := 17 }
def atNeed : State :=
  onPow { Power.reset with
    umbs := [(0, umb17)]
    rails := [(0, { PwRail.reset with icl := 1100, reached := ceil5 ((onUmb umb17).umNeed 0 18) }), (1, { PwRail.reset with icl := 1100 }),
      (2, { PwRail.reset with icl := 250, reached := sramVolt 18 })] }

theorem witness_ClocksVoltagesAndGatingMove_clock :
    (let s := onUmb { umb17 with fTherm := 16 }
     s.pw.trip = false ∧ (s.pwUmb 0).state = 2 ∧ max 16 (s.umCap 0) < (s.pwUmb 0).freq) ∧
    ((atNeed.pw.trip = false ∧ (atNeed.pwUmb 0).state = 2 ∧ (atNeed.pwUmb 0).freq < max 16 (atNeed.umCap 0)) ∧
      ceil5 (atNeed.umNeed 0 18) ≤ (atNeed.rail 0).reached ∧ sramVolt 18 ≤ (atNeed.rail 2).reached) ∧
    ((onUmb umb17).pwUmb 0).freq < max 16 ((onUmb umb17).umCap 0) ∧
    ((onUmb umb17).rail 0).reached < ceil5 ((onUmb umb17).umNeed 0 18) := by
  refine ⟨by decide +kernel, ⟨by decide +kernel, Nat.le_refl _, Nat.le_refl _⟩, by decide +kernel, ?_⟩
  have h : (onUmb umb17).umNeed 0 18 = min 850 (vfV 0 (vfEntry 0 18) - 5 * 0 + 0 + 0) := rfl
  have g : ((onUmb umb17).rail 0).reached = 0 := rfl
  rw [h, g]
  unfold vfV ceil5 cdiv
  omega

/-- Partition 0 in state `st` with umbels 0 and 1; umbel 0 as given. -/
def partDev (st : Nat) (x : PwUmb) : State :=
  { onUmb x with
    flt := { Faults.reset with parts := [(0, { Part.reset with state := st })], avail := 3 }
    regs := [(regOff .gl 0 0x400, 3)] }

theorem witness_ClocksVoltagesAndGatingMove_gating :
    (let s := partDev 1 { PwUmb.reset with lastEnd := 1 }
     s.umLive 0 = true ∧ (s.pwUmb 0).state ≤ 1 ∧ s.pw.trip = false) ∧
    ((partDev 1 { PwUmb.reset with state := 3 }).pwUmb 0).state = 3 ∧
    (let s := partDev 1 { PwUmb.reset with state := 2, lastEnd := 1 }
     (s.pwUmb 0).state = 2 ∧ s.umLive 0 = true ∧ s.umUsed 0 = false ∧ (s.um 0).dmaBusy = false ∧ (s.pwUmb 0).hold = 0 ∧
       s.pw.warn = false ∧ 1000 * bitsN (s.regN .pw 0 0x108) 15 0 ≤ s.ftime - (s.pwUmb 0).lastEnd) ∧
    (let s := onUmb { PwUmb.reset with hold := 1, lastEnd := 1 }
     s.umUsed 0 = false ∧ (s.pwUmb 0).hold = 1 ∧ (s.pwUmb 0).lastEnd ≠ 0 ∧ 100000 ≤ s.ftime - (s.pwUmb 0).lastEnd) ∧
    (let s := onUmb { PwUmb.reset with hold := 2, lastEnd := 1 }
     s.umUsed 0 = false ∧ (s.pwUmb 0).hold = 2 ∧ 10000000 ≤ s.ftime - (s.pwUmb 0).lastEnd) := by decide +kernel

theorem witness_ClocksVoltagesAndGatingMove_package :
    (let s := onRail { PwRail.reset with raiseAt := 1999990000 }
     (s.rail 0).raiseAt ≠ 0 ∧ s.ftime + 1 - (s.rail 0).raiseAt ≤ 50000) ∧
    (let s := onRail { PwRail.reset with raiseAt := 1 }
     (s.rail 0).raiseAt ≠ 0 ∧ 50000 < s.ftime + 1 - (s.rail 0).raiseAt) ∧
    (let s := { onPow Power.reset with boot := { Boot.reset with aonLow := false } }
     s.pw.warnLow = false ∧ s.pw.trip = false ∧ s.boot.aonLow = false) ∧
    (onPow { Power.reset with warnLow := true }).pw.warnLow = true ∧
    (let s := onPow { Power.reset with warn := true, riseAt := 1, k := 14 }
     s.pw.warn = true ∧ s.pw.warnLow = false ∧ s.pw.riseAt ≠ 0 ∧
       s.pw.riseAt - 1 + 1000 * bitsN (s.regN .pw 0 0x104) 15 0 ≤ s.ftime ∧ s.pw.stepAt + 20000 ≤ s.ftime ∧ s.pw.k < 15) ∧
    15 ≤ ({ Power.reset with warn := true, riseAt := 1, k := 15 } : Power).k := by decide +kernel

/-! Faults and recovery. -/

def onFlt (st : Nat) (f : Faults) : State := { partDev st PwUmb.reset with flt := { f with parts := [(0, { Part.reset with state := st })] } }
def reported (c src : Nat) : State := { partDev 1 PwUmb.reset with reports := [⟨c, src, 0, 0, none⟩] }
def frec : FRec := ⟨4, 0, 0, false, 0⟩

theorem witness_NoLaunch (st : Nat) (x : PwUmb) : NoLaunch (partDev st x) := fun _ => by
  show ¬ (0 : Nat) = 2
  decide

theorem witness_FaultsAreRecordedAndTakeEffect :
    (takenReport (reported 1 0) none = some (⟨1, 0, 0, 0, none⟩, []) ∧
      (takenReport (reported 1 0) (some (.umbelParity 0))).isSome = true ∧
      faultClass 1 = 0 ∧ (reportUnit ⟨1, 0, 0, 0, none⟩).umbel.bind (reported 1 0).partOf = some 0 ∧
      ((reported 1 0).part 0).state = 1 ∧ ((reported 1 0).culprit ⟨1, 0, 0, 0, none⟩).2 = false ∧
      (reported 1 0).flt.flog.length < 1024) ∧
    (NoLaunch (reported 1 0) ∧ Tidy (reported 1 0)) ∧
    ((reportUnit ⟨1, 0x202, 0, 0, none⟩).umbel.bind (reported 1 0x202).partOf = none ∧
      (let s := { partDev 2 PwUmb.reset with reports := [⟨1, 0, 0, 0, none⟩] }
       (reportUnit ⟨1, 0, 0, 0, none⟩).umbel.bind s.partOf = some 0 ∧ (s.part 0).state ≠ 1 ∧
         (s.culprit ⟨1, 0, 0, 0, none⟩).2 = false)) ∧
    (faultClass 0x10 = 1 ∧ takenReport (reported 0x10 0x220) none ≠ none) ∧ faultClass 0x20 = 2 ∧ 3 ≤ faultClass 0x30 ∧
    (let s := { onFlt 1 { Faults.reset with flog := [frec] } with mgmt := { State.reset.mgmt with addr := some 9 } }
     s.flt.flog.find? (fun r => r.n = 4) = some frec ∧ frec.acked = false ∧ s.mgmt.addr = some 9 ∧ frec.sentAt = 0) :=
  ⟨by decide +kernel, ⟨fun n => witness_NoLaunch 1 PwUmb.reset n, fun _ _ h => (by cases h), fun _ _ h => by cases h⟩,
    by decide +kernel, by decide +kernel, by decide, by decide, by decide +kernel⟩

/-- Partition 0 LIVE with a launch running on floret 0 in slot 0, whose fault is reported. -/
def blamed : State :=
  { reported 1 0 with
    reports := [⟨1, 0, 0, 0, some (0, 0)⟩], fe := { Front.reset with slots := [(0, { LSlot.reset with state := 2, img := oneImg })] } }

theorem witness_FaultsAreRecordedAndTakeEffect_launch :
    takenReport blamed none = some (⟨1, 0, 0, 0, some (0, 0)⟩, []) ∧ (blamed.culprit ⟨1, 0, 0, 0, some (0, 0)⟩).2 = false ∧
    (blamed.part 0).state = 1 ∧ Running blamed 0 ∧ (blamed.lsl 0).part = 0 ∧ Tidy blamed :=
  ⟨by decide +kernel, by decide +kernel, by decide +kernel, ⟨by decide, by decide +kernel, by decide +kernel⟩, by decide +kernel,
    fun _ _ h => (by cases h), fun _ _ h => by cases h⟩

theorem witness_FaultsAreRecordedAndTakeEffect_stale :
    let s : State := { blamed with fe := { Front.reset with slots := [(0, { LSlot.reset with state := 3 })] } }
    (reportUnit ⟨1, 0, 0, 0, some (0, 0)⟩).umbel.bind s.partOf = some 0 ∧ (s.culprit ⟨1, 0, 0, 0, some (0, 0)⟩).2 = true := by
  decide +kernel

def recovering (step : Nat) (retire : Bool) : State :=
  { partDev 2 PwUmb.reset with
    flt := { Faults.reset with parts := [(0, { Part.reset with state := 2, step := step, retire := retire })], retired := 3 } }

theorem witness_PartitionsGoThroughRecovery :
    (let s := { partDev 0 PwUmb.reset with boot := { Boot.reset with state := 7 } }
     (s.part 0).state = 0 ∧ s.boot.state = 7 ∧ s.flt.oos = false ∧ s.maskOk 0 (s.partMask 0) = true ∧
       0 ∈ s.partUmbels 0 ∧ (s.pwUmb 0).state ≤ 1) ∧
    ((partDev 0 PwUmb.reset).part 0).state ≠ 1 ∧ (partDev 0 PwUmb.reset).boot.state ≠ 7 ∧
    (((partDev 1 PwUmb.reset).part 0).state = 1 ∧ (partDev 1 PwUmb.reset).partHeld 0 = false) ∧
    (((recovering 1 false).part 0).state = 2 ∧ ((recovering 1 false).part 0).step = 1 ∧
      300000 ≤ (recovering 1 false).ftime - ((recovering 1 false).part 0).stepAt) ∧
    (((recovering 2 false).part 0).step = 2 ∧ ((recovering 2 false).part 0).retire = false) ∧
    (((recovering 2 true).part 0).retire = true ∧ 3 ≤ (recovering 2 true).flt.retired) ∧
    ((recovering 3 false).part 0).step = 3 ∧ NoLaunch (partDev 1 PwUmb.reset) ∧
    ∀ f, SMap.get 0 (recovering 3 false).fe.lastImg f = 0 :=
  ⟨by decide +kernel, by decide +kernel, by decide +kernel, by decide +kernel, by decide +kernel, by decide +kernel,
    by decide +kernel, by decide +kernel, witness_NoLaunch 1 PwUmb.reset, fun _ => rfl⟩

/-- Partition 0 in recovery at its reset step, its umbels clocked, with weight set slot 0 of gate tally 9. -/
theorem witness_PartitionsGoThroughRecovery_later :
    (let s := { recovering 2 false with pw := { Power.reset with umbs := [(0, { PwUmb.reset with state := 2 })] },
                                        fe := { Front.reset with wsets := [(0, { WSet.empty with valid := true, gate := 9, g := 3 })] } }
     (s.part 0).state = 2 ∧ (s.part 0).step = 2 ∧ (s.part 0).retire = false ∧ 0 ∈ s.partUmbels 0 ∧ (s.pwUmb 0).state = 2 ∧
       (s.wset 0).valid = true ∧ ∀ j, j < 16 → j ≠ 0 → (s.wset j).valid = true → (s.wset j).gate ≠ (s.wset 0).gate) ∧
    (0 ∈ (recovering 3 false).partUmbels 0 ∧ (recovering 3 false).flt.flog.length < 1024) ∧
    (1 < ((partDev 2 PwUmb.reset).part 0).state ∧ ((partDev 3 PwUmb.reset).part 0).state ≠ 0) ∧
    ((blamed.part 0).state = 1 ∧ Running blamed 0 ∧ (blamed.lsl 0).part = 0 ∧ Tidy blamed) :=
  ⟨by decide +kernel, by decide +kernel, by decide +kernel, by decide +kernel, ⟨by decide, by decide +kernel, by decide +kernel⟩,
    by decide +kernel, fun _ _ h => (by cases h), fun _ _ h => by cases h⟩

/-- Partition 0 LIVE; a reset of die 0 is called for; the times of earlier ones. -/
def dieDev (ts : List Nat) : State :=
  { onFlt 1 { Faults.reset with dieReq := [(0, 0, 0x10)], dieTimes := [(0, ts)] } with
    fab := { fabUp with service := [0] }, boot := { Boot.reset with aonLow := false } }

theorem witness_DieAndDeviceResetsRun :
    ((dieDev []).flt.dieReq.find? (fun r => r.1 = 0) = some (0, 0, 0x10) ∧ (dieDev []).flt.devRst = 0 ∧
      (dieDev []).boot.aonLow = false ∧ (dieDev []).linkUp 0 = true ∧ ((dieDev []).part 0).state = 1 ∧
      (∃ u ∈ (dieDev []).partUmbels 0, u / 16 = 0) ∧
      ((dieDev []).ftime :: recent (dieDev []).ftime 600000000000 (SMap.get [] (dieDev []).flt.dieTimes 0)).length < 3) ∧
    3 ≤ ((dieDev [5, 4]).ftime :: recent (dieDev [5, 4]).ftime 600000000000 (SMap.get [] (dieDev [5, 4]).flt.dieTimes 0)).length ∧
    NoLaunch (dieDev []) ∧ (onFlt 1 { Faults.reset with devReq := true }).flt.devReq = true ∧
    ((onFlt 1 { Faults.reset with devRst := 1, devAt := 3 }).flt.devRst = 1 ∧
      100000 ≤ (onFlt 1 { Faults.reset with devRst := 1, devAt := 3 }).ftime - 3) ∧
    ((onFlt 1 { Faults.reset with devRst := 1, devCounted := true, devTimes := [3, 2, 1] }).flt.devCounted = true ∧
      3 ≤ (onFlt 1 { Faults.reset with devRst := 1, devCounted := true, devTimes := [3, 2, 1] }).flt.devTimes.length) ∧
    SMap.get 0 Faults.reset.d2dUsed 0 < 16 ∧ 16 ≤ SMap.get 0 ({ Faults.reset with d2dUsed := [(0, 16)] } : Faults).d2dUsed 0 :=
  ⟨by decide +kernel, by decide +kernel, fun n => witness_NoLaunch 1 PwUmb.reset n, by decide +kernel, by decide +kernel,
    by decide +kernel, by decide, by decide⟩

/-- SWEEP on, a test as given, partition 0 LIVE. -/
def sweepDev (w : Option SweepTest) : State :=
  { onFlt 1 { Faults.reset with sweep := w } with regs := [(regOff .gl 0 0x400, 7), (regOff .umc 0 0x100, 1)] }
def stage (n : Nat) : SweepTest := ⟨0, 16, 0, 0, n, [0], 32, 0, 0, 0⟩

/-- Slot 0 holds a launch of the image of floret 0. -/
def abortDev : State :=
  let s := launchDev heldRing [(0, heldSlot oneImg)]
  { s with flt := { s.flt with sweep := some (stage 1) } }

theorem witness_SweepComparesPairsOfFlorets :
    (bitN ((sweepDev none).regN .umc 0 0x100) 0 = true ∧ (sweepDev none).flt.sweep = none ∧ 0 / 16 ≠ 16 / 16 ∧
      (sweepDev none).sweepable 0 = true ∧ (sweepDev none).sweepable 16 = true ∧ (sweepDev none).pw.warn = false) ∧
    ((sweepDev (some (stage 1))).flt.sweep = some (stage 1) ∧ (stage 1).stage = 1 ∧ (sweepDev (some (stage 1))).flPresent 32 = true ∧
      (sweepDev (some (stage 1))).umLive (32 / 16) = true ∧ 32 / 16 ≠ (stage 1).a / 16 ∧ 32 / 16 ≠ (stage 1).b / 16) ∧
    ((sweepDev (some (stage 2))).flt.sweep = some (stage 2) ∧ (stage 2).stage = 2) ∧
    (abortDev.flt.sweep = some (stage 1) ∧ (abortDev.lsl 0).state = 1 ∧
      abortDev.sweepOn (abortDev.lsl 0).img.florets = true) := by decide +kernel

/-! Tenancy. -/

/-- The UMC runs; the secure state as given; 100 s. -/
def onSec (x : Sec) : State :=
  { dev (flAt 0) with boot := { Boot.reset with aonLow := false, image := 1 }, sec := x, ftime := 100000000000 }
def withSession (doe : Bool) (st tdi : Nat) : Sec :=
  { Sec.reset with sessions := [⟨5, doe, 0, 0, 0⟩], state := st, tdi := tdi, owner := some 0, ownerSid := some 5 }

theorem witness_NoLaunch_sec (x : Sec) : NoLaunch (onSec x) := fun _ => by
  show ¬ (0 : Nat) = 2
  decide

theorem witness_TenantChangesRunToVacant :
    (onSec { Sec.reset with tdi := 1 }).sec.tdi ≠ 0 ∧
    ((onSec Sec.reset).sec.tdi = 0 ∧ (onSec Sec.reset).workRuns = false ∧ (onSec Sec.reset).sec.change = 0 ∧
      (onSec Sec.reset).umcUp = true) ∧
    ((partDev 1 PwUmb.reset).sec.tdi = 0 ∧ (partDev 1 PwUmb.reset).workRuns = true) ∧ NoWork (onSec Sec.reset) ∧
    (let s := { onSec { Sec.reset with change := 1 } with hbm := hbmUp false }
     s.sec.change = 1 ∧ 300000 ≤ s.ftime - s.sec.changeAt ∧ (s.part 0).state ≠ 3 ∧ (s.stk 0).state = 1) ∧
    (onSec { Sec.reset with change := 2 }).sec.change = 2 ∧ (onSec { Sec.reset with tdi := 2 }).sec.tdi = 2 ∧
    ((onSec { Sec.reset with ide := [(0, 1)] }).sec.ide ≠ [] ∧ (onSec { Sec.reset with ide := [(0, 1)] }).sec.tdi ≠ 3) :=
  ⟨by decide +kernel, by decide +kernel, by decide +kernel, ⟨witness_NoLaunch_sec Sec.reset, rfl⟩, by decide +kernel,
    by decide +kernel, by decide +kernel, by decide +kernel⟩

theorem witness_TenantChangesRunToVacant_fill (st : Nat) (h : st = 1 ∨ st = 3) :
    let s := { onSec { Sec.reset with change := 2 } with
               hbm := { Hbm.reset with stk := [(0, { Stack.reset with state := st, filling := true })] } }
    s.sec.change = 2 ∧ (s.stk 0).filling = true ∧ s.stkTakes 0 = decide (st = 1) ∧
      ∀ k, k < 8 → k ≠ 0 → (s.stk k).filling = false := by
  rcases h with h | h <;> subst h <;> decide +kernel

theorem witness_SecureSessionsAnswerTheirRequests :
    ((onSec Sec.reset).umcUp = true ∧ (onSec Sec.reset).sec.sessions.length < 4 ∧ (onSec Sec.reset).session 5 = none ∧
      sessionCmd (.heartbeat 5) = some 5 ∧ (8 < 9 ∧ 9 ≠ 0xFF)) ∧
    4 ≤ (onSec { Sec.reset with sessions := List.replicate 4 ⟨5, true, 0, 0, 0⟩ }).sec.sessions.length ∧
    (let s := onSec (withSession true 0 0)
     s.session 5 = some ⟨5, true, 0, 0, 0⟩ ∧ s.sec.state = 0 ∧ s.umcUp = true ∧ 60000000000 ≤ s.ftime - 0) ∧
    (onSec (withSession false 0 0)).session 5 = some ⟨5, false, 0, 0, 0⟩ ∧
    (let s := onSec (withSession true 1 0)
     s.session 5 = some ⟨5, true, 0, 0, 0⟩ ∧ s.sec.state = 1 ∧ s.sec.ownerSid = some 5 ∧ s.sec.tdi = 0) ∧
    (onSec (withSession true 1 1)).sec.tdi = 1 := by decide +kernel

theorem witness_ContentKeysLoadAndDrop :
    ((onSec Sec.reset).sec.ckCmd = none ∧ (onSec Sec.reset).ckNamed 0 = false) ∧
    ((onSec { Sec.reset with ckCmd := some 0 }).sec.ckCmd = some 0 ∧ (onSec { Sec.reset with ckCmd := some 0 }).ckCheck 0 = .fail 1) ∧
    (let s := { onSec { Sec.reset with ckCmd := some 8 } with fe := { Front.reset with copies := [inEngine (swapW 6 1 + 2 ^ 384) 0] } }
     s.sec.ckCmd = some (0 + 8) ∧ s.ckNamed 0 = true) ∧
    ((onSec { Sec.reset with ckCmd := some 0 }).ckReady = false ∧
      ({ onSec { Sec.reset with ckCmd := some 0 } with hbm := hbmUp true } : State).ckReady = true ∧
      ({ onSec { Sec.reset with ckCmd := some 0 } with hbm := hbmUp true } : State).ckCheck 0 = .fail 1) := by decide +kernel

/-- OWNED, with a manifest of one device and one layer in floret 0's near bank. -/
def mfDev : State :=
  { onSec { Sec.reset with ckCmd := some 0, state := 1, owner := some 0 } with
    sram := [(0x10000000000, 0x44), (0x10000000001, 0x4D), (0x10000000002, 0x46), (0x10000000003, 0x31), (0x10000000004, 1),
      (0x10000000006, 1), (0x10000000010, 9), (0x10000000014, 1)]
    regs := [(regOff .sec 0 0x118, 0x100)] }

/-- Fingerprint, signature and wrapped key are free values; where they fit the manifest, the LOAD's checks pass. -/
theorem witness_ContentKeysLoadAndDrop_passes (k : Nat) (hfp : devFp = 0)
    (hsig : Config.ecdsaVerify 0 ((List.range 320).map (fun i => BitVec.ofNat 8 (mfDev.mfByte i))) (mfN mfDev.mfByte 320 96) = true)
    (hkey : Config.keyUnwrap (Config.hkdf (Config.ecdh 0 (mfN mfDev.mfByte 0x20 96)) (keyBytes 8 0 ++ keyBytes 16 0))
      (mfN mfDev.mfByte 248 72) = some k) :
    mfDev.sec.ckCmd = some 0 ∧ mfDev.ckReady = true ∧ ∃ x, mfDev.ckCheck 0 = .ok x 9 := by
  have hnl : mfN mfDev.mfByte 0x14 2 = 1 := by decide +kernel
  have hnd : mfN mfDev.mfByte 0x06 2 = 1 := by decide +kernel
  have hw : mfN mfDev.mfByte 0x08 8 = 0 := by decide +kernel
  have hs : mfN mfDev.mfByte 0x10 4 = 9 := by decide +kernel
  have hm : mfN mfDev.mfByte 0 4 = 0x31464D44 := by decide +kernel
  have hv : mfN mfDev.mfByte 4 2 = 1 := by decide +kernel
  have hd : mfN mfDev.mfByte 224 2 = 0 := by decide +kernel
  have hf : mfN mfDev.mfByte 232 16 = 0 := by decide +kernel
  have hid : mfDev.devId = 0 := by decide +kernel
  have ho : mfDev.sec.owner = some 0 := rfl
  have hst : mfDev.sec.state = 1 := rfl
  have hn : mfDev.ckNamed 0 = false := rfl
  have hr : mfDev.sec.rollback = [] := rfl
  have h1 : List.range 1 = [0] := rfl
  refine ⟨rfl, by decide +kernel, ?_⟩
  unfold State.ckCheck
  simp [hnl, hnd, hw, hs, hm, hv, ho, hst, hn, hr, hsig, hid, hd, hf, hfp, hkey, h1]

/-! Trace and snapshot. -/

/-- The trace ring of 2^24 bytes at HBM address 0, on; its state as given. -/
def onTrace (full : Bool) (x : Trace) : State :=
  { dev (flAt 0) with
    hbm := hbmUp full, tr := x
    regs := [(regOff .tr 0 0x100, 0), (regOff .tr 0 0x104, 0), (regOff .tr 0 0x108, 24 + 2 ^ 8)] }

theorem witness_TraceAndSnapshots_trace :
    (let y : Trace := { Trace.reset with qs := [(513, [7])], gather := [1, 2, 3] }
     let s := onTrace true y
     s.trOn = true ∧ s.hbmReady s.trBase = true ∧ y.d = 0 ∧ y.pick = some 513 ∧ SMap.get [] y.qs 513 = 7 :: [] ∧ 2 ≤ s.trFree ∧
       y.gather.length = 3) ∧
    (let y : Trace := { Trace.reset with qs := [(513, [7])], w := 2 ^ 19 - 1 }
     y.pick = some 513 ∧ (onTrace true y).trFree < 2) ∧
    (let y : Trace := { Trace.reset with d := 1 }
     0 < y.d ∧ 2 ≤ (onTrace true y).trFree) ∧
    (dev (flAt 0)).trOn = false ∧
    bitsN (25 : W32).toNat 5 0 ≠ bitsN ((onTrace true Trace.reset).regN .tr 0 0x108) 5 0 ∧
    (((0 : W32).toNat + 2 ^ 32 - (onTrace true Trace.reset).regN .tr 0 0x110) % 2 ^ 32 ≤
      ((onTrace true Trace.reset).trHead + 2 ^ 32 - (onTrace true Trace.reset).regN .tr 0 0x110) % 2 ^ 32) ∧
    ((onTrace true Trace.reset).trHead + 2 ^ 32 - (onTrace true Trace.reset).regN .tr 0 0x110) % 2 ^ 32 <
      ((4 : W32).toNat + 2 ^ 32 - (onTrace true Trace.reset).regN .tr 0 0x110) % 2 ^ 32 := by decide +kernel

def onSnap (x : Snap) : State :=
  { onSec Sec.reset with
    snap := x, flt := { Faults.reset with parts := [(0, { Part.reset with state := 1 })], hangs := [(3, 0)] } }

theorem witness_TraceAndSnapshots_above :
    let y : Trace := { Trace.reset with qs := [(513, [7])], gather := [1, 2, 3] }
    let s := { onTrace true y with regs := [(regOff .tr 0 0x100, 0), (regOff .tr 0 0x104, 1000), (regOff .tr 0 0x108, 24 + 2 ^ 8)] }
    s.trOn = true ∧ s.hbmReady s.trBase = true ∧ y.pick = some 513 ∧ 2 ≤ s.trFree ∧ y.gather.length = 3 ∧
      s.hbmEnd ≤ s.trBase + (y.w / 4 * 4 % s.trN) * 32 ∧ (s.reg .tr 0 Off.errCnt).toNat < 0xFFFFFFFF := by decide +kernel

theorem witness_TraceAndSnapshots_snapshots :
    ((∃ h ∈ (onSnap Snap.reset).flt.hangs, h.1 = 3) ∧ 3 ∉ (onSnap Snap.reset).snap.asks ∧ (onSnap Snap.reset).boot.aonLow = false ∧
      (onSnap Snap.reset).boot.recovery = false ∧ (onSnap Snap.reset).snap.busy = false) ∧
    ((onSnap { Snap.reset with busy := true }).snap.busy = true ∧ (onSnap { Snap.reset with busy := true }).snap.asks = []) ∧
    (let s := onSnap { Snap.reset with busy := true, asks := [3] }
     s.snap.busy = true ∧ s.snap.asks = [3] ∧ s.flt.hangs.find? (fun h => h.1 = 3) = some (3, 0) ∧ (s.part 0).state = 1) ∧
    NoLaunch (onSnap { Snap.reset with busy := true, asks := [3] }) :=
  ⟨by decide +kernel, by decide +kernel, by decide +kernel, fun n => witness_NoLaunch_sec Sec.reset n⟩

/-! Bring-up. -/

def onBoot (x : Boot) : State := { dev (flAt 0) with boot := x, ftime := 100000000000 }
def booting (n : Nat) : Boot := { Boot.reset with aonLow := false, state := n, perst := false }

/-- This device's fingerprint, byte by byte, and a table of this device alone. -/
def fpBytes : List Nat := (List.range 16).map (fun i => devFp / 256 ^ i % 256)
def ownEtt : List Nat :=
  [0x44, 0x54, 0x54, 0x31, 1, 0, 1, 0] ++ List.replicate 56 0 ++ [0, 0, 0, 0, 0, 0, 0, 0] ++ fpBytes

theorem digits_of (n : Nat) : ∀ x, ofBytes ((List.range n).map (fun i => x / 256 ^ i % 256)) = x % 256 ^ n := by
  induction n with
  | zero => intro x; simp [ofBytes, Nat.mod_one]
  | succ n ih =>
    intro x
    have h : (List.range n).map ((fun i => x / 256 ^ i % 256) ∘ Nat.succ) =
        (List.range n).map (fun i => x / 256 / 256 ^ i % 256) := by
      apply List.map_congr_left
      intro i _
      simp [Nat.pow_succ, Nat.div_div_eq_div_mul, Nat.mul_comm]
    rw [List.range_succ_eq_map, List.map_cons, List.map_map, h]
    simp only [ofBytes, ih]
    rw [Nat.pow_succ, Nat.mul_comm (256 ^ n) 256, Nat.mod_mul]
    simp

theorem devFp_lt : devFp < 256 ^ 16 := by
  have h0 := (Config.devId 0).isLt
  have h1 := (Config.devId 1).isLt
  have h2 := (Config.devId 2).isLt
  have h3 := (Config.devId 3).isLt
  show packN 32 [(Config.devId 0).toNat, (Config.devId 1).toNat, (Config.devId 2).toNat, (Config.devId 3).toNat] < _
  simp only [packN]
  omega

theorem ownEtt_fp : (ettDev ownEtt 0).2 = devFp := by
  have h : (ettDev ownEtt 0).2 = ofBytes fpBytes := rfl
  rw [h, fpBytes, digits_of, Nat.mod_eq_of_lt devFp_lt]

theorem ownEtt_good : ettBad ownEtt = false := by
  have h : ownEtt.all (fun b => decide (b < 256)) = true := by simp [ownEtt, fpBytes, Nat.mod_lt]
  unfold ettBad
  rw [h]
  rfl

theorem witness_BringUpReachesReadyByItsSteps_start :
    ((onBoot Boot.reset).boot.aonLow = true) ∧
    ((onBoot (booting 0)).boot.aonLow = false ∧ (onBoot (booting 0)).boot.state = 0 ∧ 200000000 ≤ (onBoot (booting 0)).elapsed) ∧
    (onBoot (booting 1)).boot.state = 1 ∧ (onBoot { booting 1 with recovery := true }).boot.recovery = true ∧
    ((onBoot (booting 2)).boot.state = 2 ∧ (onBoot (booting 2)).boot.ett = [] ∧ (onBoot (booting 2)).sec.keySet = 0) ∧
    ({ onBoot (booting 2) with sec := { Sec.reset with keySet := 1 } } : State).sec.keySet ≠ 0 ∧
    ((onBoot { booting 2 with ett := ettT }).boot.ett ≠ []) ∧
    ettBad [] = true ∧ (onBoot { booting 7 with image := 1 }).boot.image ≠ 0 := by decide +kernel

theorem witness_BringUpReachesReadyByItsSteps_start_table :
    (List.range (ettDevs ownEtt)).find? (fun i => (ettDev ownEtt i).2 == devFp) = some 0 ∧ ettBad ownEtt = false ∧
    (∃ i, i < ettDevs ownEtt ∧ (ettDev ownEtt i).2 = devFp) ∧ ownEtt ≠ [] ∧ (onBoot { booting 5 with ett := ownEtt }).boot.state = 5 ∧
    ettDevs [0] = 0 := by
  have h1 : ettDevs ownEtt = 1 := rfl
  refine ⟨?_, ownEtt_good, ⟨0, by rw [h1]; decide, ownEtt_fp⟩, List.cons_ne_nil _ _, rfl, rfl⟩
  rw [h1]
  show (match (ettDev ownEtt 0).2 == devFp with | true => some 0 | false => none) = some 0
  rw [ownEtt_fp]
  simp

/-- A table of another device alone. -/
def otherEtt : List Nat :=
  [0x44, 0x54, 0x54, 0x31, 1, 0, 1, 0] ++ List.replicate 56 0 ++ [0, 0, 0, 0, 0, 0, 0, 0] ++
    (List.range 16).map (fun i => (devFp + 1) / 256 ^ i % 256)

theorem otherEtt_fp : (ettDev otherEtt 0).2 ≠ devFp := by
  have h : (ettDev otherEtt 0).2 = ofBytes ((List.range 16).map (fun i => (devFp + 1) / 256 ^ i % 256)) := rfl
  have := devFp_lt
  rw [h, digits_of]
  omega

theorem witness_BringUpReachesReadyByItsSteps_other_table :
    ettBad otherEtt = false ∧ (∀ i, ¬ (i < ettDevs otherEtt ∧ (ettDev otherEtt i).2 = devFp)) ∧
    ((onBoot (booting 5)).boot.recovery = false ∧ 3 ≤ (onBoot (booting 5)).boot.state ∧ (onBoot (booting 5)).boot.state < 7 ∧
      7 < (onBoot (booting 8)).boot.state) := by
  refine ⟨?_, ?_, by decide⟩
  · have h : otherEtt.all (fun b => decide (b < 256)) = true := by simp [otherEtt, Nat.mod_lt]
    unfold ettBad
    rw [h]
    rfl
  · have h1 : ettDevs otherEtt = 1 := rfl
    rintro i ⟨h, g⟩
    rw [h1] at h
    obtain rfl : i = 0 := by omega
    exact otherEtt_fp g

theorem witness_BringUpReachesReadyByItsSteps_later :
    ((onBoot (booting 3)).boot.aonLow = false ∧ (onBoot (booting 3)).boot.state = 3 ∧ (onBoot (booting 3)).boot.perst = false) ∧
    ((onBoot (booting 4)).boot.state = 4 ∧ (onBoot (booting 4)).hbm.ret.length ≤ 8 ∧
      (∀ k, k < 8 → ((onBoot (booting 4)).stk k).filling = false) ∧ physChan ((onBoot (booting 4)).phys 0) < 256) ∧
    8 < ({ onBoot (booting 4) with hbm := { Hbm.reset with ret := List.range 9 } } : State).hbm.ret.length ∧
    ((onBoot { booting 5 with standalone := true }).boot.standalone = true) ∧
    ((onBoot (booting 5)).boot.state = 5 ∧ (onBoot (booting 5)).boot.standalone = false ∧ (onBoot (booting 5)).boot.cur = []) ∧
    ((onBoot { booting 5 with cur := ettT }).boot.cur ≠ [] ∧ (onBoot { booting 5 with cur := ettT }).fab.awaits = []) ∧
    (onBoot { booting 6 with standalone := true }).agree = some [0] ∧
    (let s := onBoot { booting 6 with cur := ettT }
     s.boot.state = 6 ∧ s.boot.topoWait = false ∧ 1000000000 * s.boot.topoTimeout ≤ s.elapsed - s.boot.step7 ∧ s.agree = none ∧
       (∃ e ∈ ettOf s.boot.cur s.devId, s.ettLinkOk e = false)) := by decide +kernel

/-! Pins and the host's port. -/

def onPins (x : Boot) (tdi : Nat) : State :=
  { onBoot x with hbm := hbmUp true, sec := { Sec.reset with tdi := tdi }, bme := true, mse := true }

theorem witness_NoLaunch_pins (x : Boot) (tdi : Nat) : NoLaunch (onPins x tdi) := fun _ => by
  show ¬ (0 : Nat) = 2
  decide

theorem witness_PinsAndTheHostPort :
    (let s := onPins (booting 7) 0
     NoWork s ∧ s.flt.devRst = 0 ∧ s.boot.aonLow = false ∧ s.boot.perst = false ∧ 3 ≤ s.boot.state ∧ s.boot.state ≤ 7 ∧
       s.sec.tdi = 0 ∧ s.sec.change = 0) ∧
    ((onPins (booting 2) 0).boot.state < 3 ∧ (onPins (booting 8) 0).boot.state > 7 ∧ Boot.reset.aonLow = true) ∧
    ((onPins (booting 7) 1).sec.tdi = 1 ∧ NoWork (onPins (booting 7) 1) ∧ false ≠ (onPins (booting 7) 1).bme ∧ 30 ≤ 39) :=
  ⟨⟨⟨witness_NoLaunch_pins _ _, rfl⟩, by decide +kernel⟩, by decide +kernel,
    ⟨by decide +kernel, ⟨witness_NoLaunch_pins _ _, rfl⟩, by decide +kernel⟩⟩

theorem witness_PinsAndTheHostPort_bar4 :
    (let s := onPins (booting 7) 0
     s.bar4Addr 0 / 128 * 128 < s.hbmEnd ∧ s.hbmReady (s.bar4Addr 0 / 128 * 128) = true ∧ 0 < 2 ^ s.bar4 ∧
       HoldsLine s (s.bar4Addr 0 / 128 * 128) (s.phys (s.bar4Addr 0 / 128 * 128)) false 0 ∧
       (0 : W128) ≠ BitVec.allOnes 128 ∧ s.bar4Addr 0 % 128 + 128 ≤ 128 ∧ 0 + 128 ≤ 2 ^ s.bar4) ∧
    (let s := (onPins (booting 7) 0).putPhys 0 ((onPins (booting 7) 0).phys 0) 0 true
     s.bar4Addr 0 / 128 * 128 = 0 ∧ s.lineTag 0 (s.phys 0) = some true ∧ s.hbmReady 0 = true) ∧
    ((onSec Sec.reset).umcUp = true ∧ (onSec Sec.reset).mgmt.addr = none) := by
  unfold HoldsLine
  decide +kernel

theorem witness_PinsAndTheHostPort_bar4_waits :
    (let s := { onPins (booting 7) 0 with flt := { Faults.reset with dieRst := [(0, 2)] } }
     s.fe.hostHeld = false ∧ s.takesT false = true ∧ s.bar4Addr 0 / 128 * 128 < s.hbmEnd ∧ s.hbmDown 0 = true) ∧
    (let s := { onPins (booting 7) 0 with hbm := Hbm.reset }
     s.bar4Addr 0 / 128 * 128 < s.hbmEnd ∧ s.hbmDown 0 = false ∧ s.hbmReady 0 = false) ∧
    (let s := { onPins (booting 7) 0 with regs := [(regOff .gl 0 Off.glBar4, 1000)] }
     s.hbmEnd ≤ s.bar4Addr 0 / 128 * 128 ∧ 0 < 2 ^ s.bar4 ∧ (s.reg .ct 0 Off.errCnt).toNat < 0xFFFFFFFF) ∧
    ((onPins (booting 7) 2).takesT false = false ∧ (onPins (booting 7) 2).takesT true = true) := by decide +kernel

/-- A load engine's one line lies at the start of the host window; the same with the read out. -/
def hostLine : Desc := started (kw 2 1 + 2 ^ 64 * 0x20000000000) 1
def hostLoad : State := { onLoad (flying hostLine) with bme := true }

def hostRd1 (g : Agent) : HostRead := ⟨g, 0, 0, 0, 0⟩

/-- A store engine's line, its data read, on the way to the start of the host window. -/
def hostPut : Desc := lineAt 0x20000000000 [(0, some ⟨0, false, fullMask⟩)]

theorem witness_PinsAndTheHostPort_window :
    (inWindow (128 * 2 ^ 34) = true ∧ hostLoad.bme = true ∧ hostLoad.sec.tdi ≠ 3 ∧ (dev (flAt 0)).bme = false ∧
      (dev (flAt 0)).hbmEnd ≤ 128 * 2 ^ 34 ∧ ((dev (flAt 0)).reg .fe 0 Off.errCnt).toNat < 0xFFFFFFFF) ∧
    ((hostLoad.eng (.load 0)).desc hostLine.id = some hostLine ∧ hostLoad.readable (.load 0) hostLine 0 = true ∧
      hostLoad.srcOf (.load 0) hostLine 0 = some 0x20000000000 ∧ hostLoad.isOwn 0x20000000000 = true ∧
      inWindow (localOf 0x20000000000) = true ∧ hostLoad.placeOf (localOf 0x20000000000) = .host) ∧
    (let s := { onLoad (flying { hostLine with rd := 1 }) with hostReads := [hostRd1 (.load 0)] }
     s.hostReads.find? (fun x => x.agent == .load 0 && x.d == 0 && x.i == 0) = some (hostRd1 (.load 0)) ∧
       (s.eng (.load 0)).desc 0 = some { hostLine with rd := 1 }) ∧
    (let s := { dev (flAt 0) with hostReads := [hostRd1 .frontEnd, hostRd1 .host],
                                  fab := { fabUp with hostRd := [(0, hdr 0 1)] } }
     s.hostReads.find? (fun x => x.agent == .frontEnd && x.d == 0 && x.i == 0) = some (hostRd1 .frontEnd) ∧
       s.hostReads.find? (fun x => x.agent == .host && x.d == 0 && x.i == 0) = some (hostRd1 .host) ∧
       s.fab.hostRd.find? (fun e => e.1 = 0) = some (0, hdr 0 1)) := by decide +kernel

theorem witness_PinsAndTheHostPort_windowWrite :
      let s := { onStore (flying hostPut) with bme := true }
    (ReadyToWrite s (.store 0) hostPut 0 0x20000000000 ⟨0, false, fullMask⟩ ∧ s.readable (.store 0) hostPut 0 = false) ∧
      s.isOwn 0x20000000000 = true ∧ inWindow (localOf 0x20000000000) = true ∧ s.placeOf (localOf 0x20000000000) = .host :=
  ⟨⟨⟨.inr (.inl ⟨0, rfl⟩), by decide +kernel⟩, by decide +kernel⟩, by decide +kernel⟩

/-! Feeds. -/

/-- Feed 0 of floret 0 as given; its end marker, when `ends` is 1. -/
def feedDev (fd : Feed) (ends : Nat) : State := dev { flAt 0 with feeds := [(0, fd)], ends := ends }

theorem witness_FeedSlotsAreDeliveredAndReleasedInOrder :
    (let s := feedDev (liveFeed 0) 1
     bitN (s.fl 0).ends 0 = true ∧ ((s.fl 0).feed 0).state = 1) ∧
    (let s := feedDev { liveFeed 0 with present := [(0, 2 ^ 32 - 1)] } 0
     s.flOn 0 = true ∧ ((s.fl 0).feed 0).deliverable = true) ∧
    (let s := feedDev { liveFeed 0 with deliv := 1, held := [oneSlot], nextBase := 1 } 0
     s.flOn 0 = true ∧ (s.fl 0).releasable 0 = true) := by decide +kernel

/-! Registers. -/

/-- READY with ring 0 as given, and the registers listed. -/
def regDev (x : Ring) (rs : SMap W32) : State := { ringDev x 0 with regs := rs, boot := { booting 7 with image := 1 } }

theorem witness_RegisterWritesAndPageControl :
    (let s := regDev Ring.reset []
     s.boot.state = 7 ∧ RegAt s 0x4114 .sec 0 ∧ acting .sec 0x114 = false ∧ (regSpec .sec 0x114).isSome = true ∧
       s.regPresent 0x7000 = false ∧ s.fe.hostHeld = false ∧ s.takesT false = true ∧ s.umcUp = true ∧ s.loValue .gl 0 0x120 = some 0 ∧ RegAt s 0x120 .gl 0 ∧
       s.loValue .sec 0 0x114 = none) ∧
    (RegAt (regDev Ring.reset []) 0x20030 .pl 0 ∧ acting .pl 0x30 = false ∧ (regSpec .pl 0x30).isSome = true) ∧
    (∀ n, pageOf (0x4114 / 4096) ≠ some (.pl, n)) ∧
    (let s := regDev Ring.reset []
     pageOf 1 = some (.fe, 0) ∧ s.pagePresent 1 = true ∧ s.anyRing = false) ∧
    ((regDev aRing []).anyRing = true ∧ (regDev aRing []).compatOf 1 ≠ (1 : W32).getLsbD 0) := by
  refine ⟨by unfold RegAt; decide +kernel, by unfold RegAt; decide +kernel, fun n => ?_, by decide +kernel, by decide +kernel⟩
  show ¬ some (Blk.sec, 0) = some (Blk.pl, n)
  simp

theorem witness_RegisterWritesAndPageControl_events :
    let s := regDev Ring.reset [(regOff .sec 0 Off.pageCtrl, 0x100), (0x300000C, 0)]
    RegAt s 0x4000 .sec 0 ∧ bitN (s.regN .sec 0 Off.pageCtrl) 8 = true ∧ s.sec.tdi ≠ 3 ∧
      (s.rawReg (0x3000000 + 16 * bitsN (s.regN .sec 0 Off.pageCtrl) 26 16 + 12)).getLsbD 0 = false ∧
      (2 : W32) &&& ~~~(s.reg .sec 0 Off.evtMask) &&& (~~~(s.reg .sec 0 Off.evtPend) ||| 0) ≠ 0 := by
  unfold RegAt
  decide +kernel

theorem witness_CompatAllSkipsTheFrontEndWhileARingIsEnabled :
    (regDev aRing []).anyRing = true ∧ (regDev aRing []).pagePresent 4 = true ∧ 4 ≠ Blk.page .fe 0 ∧
      (regDev aRing []).pagePresent 7 = false := by decide +kernel

/-- Pool 0 as in `kvDev` but disabled. -/
def kvOff : State := { kvDev with regs := [(0x1708, 2), (0x1744, 2)] }
def kvWord : W32 := BitVec.ofNat 32 (1 + 2 ^ 8 + 2 ^ 14 + 2 ^ 31)

theorem witness_TableRegistersTakeAWriteWhileUnused :
    ((regDev Ring.reset []).anyRing = false ∧ (regDev aRing []).anyRing = true) ∧
    ((¬ ∃ q, q < (dev (flAt 0)).seqSlots ∧ ((dev (flAt 0)).seqGet q).state ≠ 0) ∧
      ∃ q, q < (seqDev 1).seqSlots ∧ ((seqDev 1).seqGet q).state ≠ 0) ∧
    ((dev (flAt 0)).pools = [] ∧ kvDev.pools ≠ [] ∧ (16384 : W32).toNat % 2 ^ 15 ≤ 16384) ∧
    (∃ k f, k < 8 ∧ f < (kvTaken.kvPool 0).frames ∧ kvTaken.frameOwner (kvTaken.kvPool 0) k f ≠ 0) ∧
    ((kvOff.kvPool 0).en = false ∧ bitN kvWord.toNat 31 = true ∧
      kvOff.kvpOk 0 ⟨bitsN kvWord.toNat 5 0, bitsN kvWord.toNat 13 8, bitsN kvWord.toNat 25 14, bitN kvWord.toNat 30, true,
        (kvOff.kvPool 0).frames⟩ = true) ∧
    (bitN (0x80000000 : W32).toNat 31 = true ∧ bitsN (0x80000000 : W32).toNat 13 8 = 0) :=
  ⟨by decide +kernel, ⟨by rintro ⟨q, h, _⟩; exact absurd h (Nat.not_lt_zero q), ⟨0, by decide +kernel⟩⟩, by decide +kernel,
    ⟨0, 0, by decide +kernel⟩, by decide +kernel, by decide⟩

theorem witness_TableRegistersTakeAWriteWhileUnused_units :
    ((dev (flAt 0)).pageHeld .ub 0 = false ∧ (((dev (flAt 0)).um 0).chan 0).size = 0 ∧ bitsN (0 : W32).toNat 28 16 = 0) ∧
    (rung.pageHeld .ub 0 = false ∧ ((rung.um 0).chan 0).eng.stopped = false ∧ ((rung.um 0).chan 0).size ≠ 0 ∧
      Met ((rung.um 0).tally ((rung.um 0).chan 0).bell) (((rung.um 0).chan 0).b + BitVec.ofNat 32 ((rung.um 0).chan 0).next + 1)) ∧
    ((dev (flAt 0)).flPresent 0 = true ∧ (dev (flAt 0)).pageHeld .fl 0 = false ∧ (((dev (flAt 0)).fl 0).feed 0).idle = true ∧
      (let fd := ((feedDev { liveFeed 0 with present := [] } 0).fl 0).feed 0
       fd.idle = true ∧ fd.slots ≠ 0 ∧ 1 ≤ fd.bl ∧ fd.bl ≤ 72 ∧ fd.base + fd.slots * fd.bl ≤ 32768 ∧ fd.base < 2 ^ 15 ∧
         fd.slots < 2 ^ 16 ∧ fd.bl < 2 ^ 7) ∧
      (((feedDev { liveFeed 0 with present := [(0, 1)] } 0).fl 0).feed 0).idle = false) := by
  unfold Met
  decide +kernel

theorem witness_ResetLeavesEveryRegisterAtItsTableValue :
    pageOf (Blk.page .fe 0) = some (.fe, 0) ∧ 0x110 < 4096 ∧ regSpec .fe 0x110 = some ⟨0xFFFFFFFF, 0, 200000⟩ := by decide +kernel


end Sys2Proof.Tests
end

section
/-! SUPPORT. The canonical form of the byte memories is an invariant: every command keeps it, and so does the tick. -/

namespace Sys2Proof.Machine

/-- A command that touches no memory keeps the memories' canonical form, by its frame. -/
theorem keeps_of_frame {ps : List Piece} {s : State} {o : Host.Outcome State Fault Refusal}
    (h : ∃ out, o = .next out ∧ Frame ps s out) (hd : Piece.dry ps = true) : ∃ out, o = .next out ∧ Keeps s out := by
  obtain ⟨out, ho, hf⟩ := h
  exact ⟨out, ho, Keeps.frame hf hd .refl⟩

theorem exec_keeps {c : Instr} {s : State} : ∃ out, exec c s = .next out ∧ Keeps s out := by
  cases c with
  | nop => exact keeps_of_frame execNop_frame rfl
  | halt => exact keeps_of_frame execHalt_frame rfl
  | br => exact keeps_of_frame execBr_frame rfl
  | loopInsn => exact keeps_of_frame execLoopInsn_frame rfl
  | salu => exact keeps_of_frame execSalu_frame rfl
  | sli => exact keeps_of_frame execSli_frame rfl
  | scmp => exact keeps_of_frame execScmp_frame rfl
  | twait => exact keeps_of_frame execTwait_frame rfl
  | twaitSatisfied => exact keeps_of_frame execTwaitSatisfied_frame rfl
  | tsig => exact keeps_of_frame execTsig_frame rfl
  | tset => exact keeps_of_frame execTset_frame rfl
  | tread => exact keeps_of_frame execTread_frame rfl
  | dfence => exact keeps_of_frame execDfence_frame rfl
  | dfenceSatisfied => exact keeps_of_frame execDfenceSatisfied_frame rfl
  | ftest => exact keeps_of_frame execFtest_frame rfl
  | fcfg => exact keeps_of_frame execFcfg_frame rfl
  | dq => exact keeps_of_frame execDq_frame rfl
  | mma => exact keeps_of_frame execMma_frame rfl
  | mmaStart => exact keeps_of_frame execMmaStart_frame rfl
  | wavefrontIssue => exact keeps_of_frame execWavefrontIssue_frame rfl
  | accumulatorAdd => exact keeps_of_frame execAccumulatorAdd_frame rfl
  | stationaryLoadStart => exact keeps_of_frame execStationaryLoadStart_frame rfl
  | stationaryRowCommit => exact keeps_of_frame execStationaryRowCommit_frame rfl
  | drainRowRead => exact keeps_of_frame execDrainRowRead_frame rfl
  | vxInt => exact execVxInt_keeps
  | vxFloat => exact execVxFloat_keeps
  | vxCvt => exact execVxCvt_keeps
  | vxReduce => exact execVxReduce_keeps
  | vxSpecial => exact execVxSpecial_keeps
  | vld => exact execVld_keeps
  | vst => exact execVst_keeps
  | normRms => exact execNormRms_keeps
  | normLn => exact execNormLn_keeps
  | rope => exact execRope_keeps
  | smerge => exact execSmerge_keeps
  | topkR => exact execTopkR_keeps
  | topkL => exact execTopkL_keeps
  | sample => exact execSample_keeps
  | qx => exact keeps_of_frame execQx_frame rfl
  | mark => exact keeps_of_frame execMark_frame rfl
  | digestPublish => exact keeps_of_frame execDigestPublish_frame rfl
  | tilesDesc => exact keeps_of_frame execTilesDesc_frame rfl
  | linesDesc => exact keeps_of_frame execLinesDesc_frame rfl
  | gather => exact keeps_of_frame execGather_frame rfl
  | descNop => exact keeps_of_frame execDescNop_frame rfl
  | descWait => exact keeps_of_frame execDescWait_frame rfl
  | descWaitSatisfied => exact keeps_of_frame execDescWaitSatisfied_frame rfl
  | descSignal => exact keeps_of_frame execDescSignal_frame rfl
  | descEnd => exact keeps_of_frame execDescEnd_frame rfl
  | drain => exact keeps_of_frame execDrain_frame rfl
  | qout => exact keeps_of_frame execQout_frame rfl
  | lineWrite => exact execLineWrite_keeps
  | lineRead => exact execLineRead_keeps
  | lineReadReturn => exact keeps_of_frame execLineReadReturn_frame rfl
  | lineDropReport => exact keeps_of_frame execLineDropReport_frame rfl
  | feedLineArrive => exact execFeedLineArrive_keeps
  | feedEndMarker => exact keeps_of_frame execFeedEndMarker_frame rfl
  | feedSlotDeliver => exact keeps_of_frame execFeedSlotDeliver_frame rfl
  | feedSlotRelease => exact keeps_of_frame execFeedSlotRelease_frame rfl
  | patchRequest => exact execPatchRequest_keeps
  | patchUnitAnswer => exact execPatchUnitAnswer_keeps
  | dmaDescriptorStart => exact keeps_of_frame execDmaDescriptorStart_frame rfl
  | allocGran => exact keeps_of_frame execAllocGran_frame rfl
  | freeGran => exact keeps_of_frame execFreeGran_frame rfl
  | kvAlloc => exact execKvAlloc_keeps
  | kvFree => exact execKvFree_keeps
  | kvBadOp => exact keeps_of_frame execKvBadOp_frame rfl
  | sorrelRequest => exact execSorrelRequest_keeps
  | sorrelScanEnd => exact execSorrelScanEnd_keeps
  | summaryBuild => exact execSummaryBuild_keeps
  | lenUpdate => exact execLenUpdate_keeps
  | openSeq => exact execOpenSeq_keeps
  | closeSeq => exact execCloseSeq_keeps
  | rebuild => exact execRebuild_keeps
  | switchSeq => exact execSwitchSeq_keeps
  | seqBadOp op q => exact keeps_of_frame (execSeqBadOp_frame (_q := q)) rfl
  | doorbell => exact execDoorbell_keeps
  | ringEnable => exact execRingEnable_keeps
  | ringDisable => exact execRingDisable_keeps
  | ringResume => exact execRingResume_keeps
  | cmdNop => exact execCmdNop_keeps
  | launch => exact execLaunch_keeps
  | launchRelease => exact execLaunchRelease_keeps
  | floretCompletionReport => exact keeps_of_frame execFloretCompletionReport_frame rfl
  | launchComplete => exact execLaunchComplete_keeps
  | slotQuarantineEnd => exact keeps_of_frame execSlotQuarantineEnd_frame rfl
  | watchdogSample => exact execWatchdogSample_keeps
  | copyCmd => exact execCopyCmd_keeps
  | copyEngineComplete => exact execCopyEngineComplete_keeps
  | waitTally => exact execWaitTally_keeps
  | waitTallySatisfied => exact execWaitTallySatisfied_keeps
  | waitTallyTimeout => exact execWaitTallyTimeout_keeps
  | cmdSignal => exact execCmdSignal_keeps
  | fenceCmd => exact execFenceCmd_keeps
  | phaseHint => exact execPhaseHint_keeps
  | phaseHoldExpiry => exact keeps_of_frame execPhaseHoldExpiry_frame rfl
  | cmdMark => exact execCmdMark_keeps
  | loadWeightsBase => exact execLoadWeightsBase_keeps
  | loadWeightsPack => exact execLoadWeightsPack_keeps
  | retiringWaitEnd => exact keeps_of_frame execRetiringWaitEnd_frame rfl
  | peerTallyReached => exact execPeerTallyReached_keeps
  | peerTimeout => exact execPeerTimeout_keeps
  | swapLayer => exact execSwapLayer_keeps
  | swapBeginWaitEnd => exact keeps_of_frame execSwapBeginWaitEnd_frame rfl
  | swapRelocate => exact execSwapRelocate_keeps
  | pktWrite => exact execPktWrite_keeps
  | pktRead => exact execPktRead_keeps
  | pktSignal => exact keeps_of_frame execPktSignal_frame rfl
  | pktEnd => exact keeps_of_frame execPktEnd_frame rfl
  | mcWrite => exact execMcWrite_keeps
  | pktData => exact keeps_of_frame execPktData_frame rfl
  | ack => exact execAck_keeps
  | lossPkt => exact execLossPkt_keeps
  | pktFence => exact keeps_of_frame execPktFence_frame rfl
  | lsa => exact keeps_of_frame execLsa_frame rfl
  | reachExpiry => exact keeps_of_frame execReachExpiry_frame rfl
  | pktTime => exact keeps_of_frame execPktTime_frame rfl
  | subtreeReport => exact keeps_of_frame execSubtreeReport_frame rfl
  | replayRequest => exact keeps_of_frame execReplayRequest_frame rfl
  | replayTimeout => exact keeps_of_frame execReplayTimeout_frame rfl
  | laneFault => exact execLaneFault_keeps
  | linkDown => exact keeps_of_frame execLinkDown_frame rfl
  | linkTrained => exact execLinkTrained_keeps
  | linkRetireTimeout => exact execLinkRetireTimeout_keeps
  | linkProbe => exact execLinkProbe_keeps
  | linkEqTick => exact keeps_of_frame execLinkEqTick_frame rfl
  | retrain => exact keeps_of_frame execRetrain_frame rfl
  | hbmRead => exact execHbmRead_keeps
  | hbmWrite => exact execHbmWrite_keeps
  | hbmPartialWrite => exact execHbmPartialWrite_keeps
  | migrationCopy => exact execMigrationCopy_keeps
  | hbmThermSample => exact execHbmThermSample_keeps
  | selfRefreshEntry => exact execSelfRefreshEntry_keeps
  | selfRefreshExit => exact execSelfRefreshExit_keeps
  | fillStack => exact execFillStack_keeps
  | fillEnd => exact execFillEnd_keeps
  | marginStart => exact execMarginStart_keeps
  | marginDone => exact execMarginDone_keeps
  | avsSample => exact keeps_of_frame execAvsSample_frame rfl
  | pmbusSample => exact keeps_of_frame execPmbusSample_frame rfl
  | currentFastTick => exact keeps_of_frame execCurrentFastTick_frame rfl
  | marginLoopTick => exact keeps_of_frame execMarginLoopTick_frame rfl
  | cpmAlarm => exact keeps_of_frame execCpmAlarm_frame rfl
  | stretchEnd => exact keeps_of_frame execStretchEnd_frame rfl
  | thermalTick => exact keeps_of_frame execThermalTick_frame rfl
  | dieOvertemp => exact keeps_of_frame execDieOvertemp_frame rfl
  | aclkStep => exact keeps_of_frame execAclkStep_frame rfl
  | voltageReached => exact keeps_of_frame execVoltageReached_frame rfl
  | pwrwarnFall => exact keeps_of_frame execPwrwarnFall_frame rfl
  | vrFaultFall => exact keeps_of_frame execVrFaultFall_frame rfl
  | vrStatusRead => exact keeps_of_frame execVrStatusRead_frame rfl
  | vrFault3Fall => exact keeps_of_frame execVrFault3Fall_frame rfl
  | phaseHealthyExpiry => exact keeps_of_frame execPhaseHealthyExpiry_frame rfl
  | pmbAlertFall => exact keeps_of_frame execPmbAlertFall_frame rfl
  | thermtrip => exact keeps_of_frame execThermtrip_frame rfl
  | umbelWake => exact keeps_of_frame execUmbelWake_frame rfl
  | umbelWakeDone => exact keeps_of_frame execUmbelWakeDone_frame rfl
  | clockGate => exact keeps_of_frame execClockGate_frame rfl
  | faultReport => exact execFaultReport_keeps
  | faultRecordResend => exact keeps_of_frame execFaultRecordResend_frame rfl
  | quiesceEnd => exact keeps_of_frame execQuiesceEnd_frame rfl
  | recoveryResetEnd => exact keeps_of_frame execRecoveryResetEnd_frame rfl
  | scrubPreloadEnd => exact execScrubPreloadEnd_keeps
  | partLiveWrite => exact keeps_of_frame execPartLiveWrite_frame rfl
  | partReset => exact execPartReset_keeps
  | dieReset => exact execDieReset_keeps
  | dieResetEnd => exact keeps_of_frame execDieResetEnd_frame rfl
  | sweepTestStart => exact keeps_of_frame execSweepTestStart_frame rfl
  | sweepTestEnd => exact keeps_of_frame execSweepTestEnd_frame rfl
  | sweepAbort => exact keeps_of_frame execSweepAbort_frame rfl
  | sweepRerunEnd => exact keeps_of_frame execSweepRerunEnd_frame rfl
  | umcFaultAck => exact keeps_of_frame execUmcFaultAck_frame rfl
  | getCertificate => exact keeps_of_frame execGetCertificate_frame rfl
  | challenge => exact keeps_of_frame execChallenge_frame rfl
  | getMeasurements => exact keeps_of_frame execGetMeasurements_frame rfl
  | keyExchange => exact keeps_of_frame execKeyExchange_frame rfl
  | endSession => exact keeps_of_frame execEndSession_frame rfl
  | heartbeat => exact keeps_of_frame execHeartbeat_frame rfl
  | keyUpdate => exact keeps_of_frame execKeyUpdate_frame rfl
  | sessionExpiry => exact keeps_of_frame execSessionExpiry_frame rfl
  | setOwner => exact keeps_of_frame execSetOwner_frame rfl
  | ideKm => exact keeps_of_frame execIdeKm_frame rfl
  | lockInterface => exact keeps_of_frame execLockInterface_frame rfl
  | tdiRun => exact keeps_of_frame execTdiRun_frame rfl
  | ckLoad => exact keeps_of_frame execCkLoad_frame rfl
  | ckDrop => exact keeps_of_frame execCkDrop_frame rfl
  | trCfgWrite => exact keeps_of_frame execTrCfgWrite_frame rfl
  | trTailWrite => exact keeps_of_frame execTrTailWrite_frame rfl
  | snapshotHangRequest => exact keeps_of_frame execSnapshotHangRequest_frame rfl
  | coreHeartbeatTimeout core => exact keeps_of_frame (execCoreHeartbeatTimeout_frame (_core := core)) rfl
  | snapshotCaptureEnd => exact execSnapshotCaptureEnd_keeps
  | railWaitTimeout rail => exact keeps_of_frame (execRailWaitTimeout_frame (_rail := rail)) rfl
  | umcBoot => exact keeps_of_frame execUmcBoot_frame rfl
  | configuration => exact execConfiguration_keeps
  | sramBist => exact execSramBist_keeps
  | hbmTraining => exact execHbmTraining_keeps
  | linkTraining => exact execLinkTraining_keeps
  | joinAdmit => exact execJoinAdmit_keeps
  | setEtt => exact keeps_of_frame execSetEtt_frame rfl
  | regWrite => exact execRegWrite_keeps
  | configRequest => exact execConfigRequest_keeps
  | bar4Read => exact execBar4Read_keeps
  | bar4Write => exact execBar4Write_keeps
  | hostWindowAccess => exact execHostWindowAccess_keeps
  | hostReadCompletion => exact execHostReadCompletion_keeps
  | feedCfgWrite => exact keeps_of_frame execFeedCfgWrite_frame rfl
  | dmaCfgWrite => exact keeps_of_frame execDmaCfgWrite_frame rfl
  | kvpCfgWrite => exact execKvpCfgWrite_keeps
  | seqTableCfgWrite => exact keeps_of_frame execSeqTableCfgWrite_frame rfl
  | ringTblWrite => exact keeps_of_frame execRingTblWrite_frame rfl
  | grpBaseWrite => exact keeps_of_frame execGrpBaseWrite_frame rfl
  | compatWrite => exact keeps_of_frame execCompatWrite_frame rfl
  | glCompatAll => exact keeps_of_frame execGlCompatAll_frame rfl
  | evtPendClear => exact keeps_of_frame execEvtPendClear_frame rfl
  | linkCtrlWrite => exact keeps_of_frame execLinkCtrlWrite_frame rfl
  | counterLoRead => exact keeps_of_frame execCounterLoRead_frame rfl
  | registerWrite => exact execRegisterWrite_keeps
  | entdaa => exact keeps_of_frame execEntdaa_frame rfl
  | managementReplyAck => exact keeps_of_frame execManagementReplyAck_frame rfl
  | tapInstructionLoad => exact keeps_of_frame execTapInstructionLoad_frame rfl
  | d2dLaneRepair half lane => exact keeps_of_frame (execD2dLaneRepair_frame (_lane := lane)) rfl
  | slotGrant => exact keeps_of_frame execSlotGrant_frame rfl
  | deadListExpiry => exact keeps_of_frame execDeadListExpiry_frame rfl
  | lsaTimer => exact keeps_of_frame execLsaTimer_frame rfl
  | splitDeclare => exact execSplitDeclare_keeps
  | timeHoldover => exact keeps_of_frame execTimeHoldover_frame rfl
  | ppsEdge => exact keeps_of_frame execPpsEdge_frame rfl
  | mapSwitch => exact execMapSwitch_keeps
  | pwrwarnRise => exact keeps_of_frame execPwrwarnRise_frame rfl
  | pwrwarnReleaseTick => exact keeps_of_frame execPwrwarnReleaseTick_frame rfl
  | deviceReset => exact execDeviceReset_keeps
  | deviceResetRun => exact execDeviceResetRun_keeps
  | glResetDevice => exact execGlResetDevice_keeps
  | oosClear => exact execOosClear_keeps
  | mgmtDeviceReset => exact execMgmtDeviceReset_keeps
  | tenantChangeCmd => exact execTenantChangeCmd_keeps
  | tenantChange => exact execTenantChange_keeps
  | tenantQuiesceEnd => exact execTenantQuiesceEnd_keeps
  | tenantFillEnd => exact execTenantFillEnd_keeps
  | ideIntegrityFailure => exact execIdeIntegrityFailure_keeps
  | stopInterface => exact execStopInterface_keeps
  | tdiError => exact execTdiError_keeps
  | ckLoadEnd => exact execCkLoadEnd_keeps
  | traceWrite => exact execTraceWrite_keeps
  | umcSnapStart => exact keeps_of_frame execUmcSnapStart_frame rfl
  | snapshotMctp => exact keeps_of_frame execSnapshotMctp_frame rfl
  | aonRstNFall => exact execAonRstNFall_keeps
  | aonRstNRise => exact keeps_of_frame execAonRstNRise_frame rfl
  | alwaysOnLock => exact keeps_of_frame execAlwaysOnLock_frame rfl
  | topoAgreeTest => exact keeps_of_frame execTopoAgreeTest_frame rfl
  | topoTimeout => exact keeps_of_frame execTopoTimeout_frame rfl
  | getBootStatus => exact keeps_of_frame execGetBootStatus_frame rfl
  | commitSvn => exact keeps_of_frame execCommitSvn_frame rfl
  | recoveryImageLoad => exact keeps_of_frame execRecoveryImageLoad_frame rfl
  | perstNFall => exact execPerstNFall_keeps
  | perstNRise => exact keeps_of_frame execPerstNRise_frame rfl
  | flr => exact execFlr_keeps
  | vddAonLoss => exact execVddAonLoss_keeps

/-- Taking the command off the queue touches no memory. -/
theorem memWf_dequeue {s : State} {rest : List Instr} : State.memWf { s with pending := rest } = s.memWf := rfl

end Sys2Proof.Machine

open Sys2Proof Sys2Proof.Machine Sys2Proof.Claims

/-- Settles O4: each command keeps the canonical form, by its own lemma where it writes a memory and by its frame where it
writes none; so does the tick. -/
theorem everyStepKeepsTheMemoriesCanonical : Obligations.EveryStepKeepsTheMemoriesCanonical := by
  intro s t hwf hstep
  unfold step at hstep
  split at hstep
  case h_1 =>
    cases hstep
    exact State.tick_keeps hwf
  case h_2 c rest _ =>
    obtain ⟨out, hout, hk⟩ := exec_keeps (c := c) (s := { s with pending := rest })
    rw [hout] at hstep
    cases hstep
    exact hk (memWf_dequeue.trans hwf)

/-- Settles O5: every memory is empty at reset, and the empty memory is canonical. -/
theorem resetMemoriesAreCanonical : Obligations.ResetMemoriesAreCanonical := by
  have hempty : Memory.wf [] = true := rfl
  show (Memory.wf [] && Memory.wf [] && Memory.wf []) = true
  simp only [hempty, Bool.and_self]

end

section
/-! SUPPORT. Where a register of a page lies, and what it holds at reset. -/

namespace Sys2Proof.Machine

theorem page_lt_of_pageOf {b : Blk} {n : Nat} (h : pageOf (b.page n) = some (b, n)) : b.page n < 0x400 := by
  by_contra hi
  generalize b.page n = i at h hi
  have hnone : pageOf i = none := by
    unfold pageOf
    repeat rw [if_neg (by omega)]
  rw [hnone] at h
  cases h

theorem sharedPage_blk {b : Blk} {off : Nat} (h : sharedPage b off = true) : b = .hc ∨ b = .pl := by
  cases b <;> simp_all [sharedPage]

/-- The page that holds a register's value: the block's first for a device-wide register, else its own. -/
theorem regKey_cases {b : Blk} {n off : Nat} (h : pageOf (b.page n) = some (b, n)) :
    ∃ m, State.regKey b n off = regOff b m off ∧ pageOf (b.page m) = some (b, m) := by
  unfold State.regKey
  split
  case isTrue hs =>
    refine ⟨0, rfl, ?_⟩
    obtain rfl | rfl := sharedPage_blk hs <;> rfl
  case isFalse => exact ⟨n, rfl, h⟩

theorem regOff_page {b : Blk} {n off : Nat} (ho : off < 4096) : regOff b n off / 4096 = b.page n := by
  unfold regOff; omega

theorem regOff_offset {b : Blk} {n off : Nat} (ho : off < 4096) : regOff b n off % 4096 = off := by
  unfold regOff; omega

/-- The reset word of a listed register is the one of its table. -/
theorem regReset_regKey {b : Blk} {n off : Nat} {r : RegSpec} (h : pageOf (b.page n) = some (b, n)) (ho : off < 4096)
    (hr : regSpec b off = some r) : regReset (State.regKey b n off) = BitVec.ofNat 32 r.reset := by
  obtain ⟨m, hk, hm⟩ := regKey_cases (off := off) h
  have hlt := page_lt_of_pageOf hm
  have hmsix : ¬ (0x3000000 ≤ regOff b m off ∧ regOff b m off < 0x3008000) := by unfold regOff; omega
  simp [hk, regReset, hmsix, regOff_page ho, regOff_offset ho, hm, hr]

end Sys2Proof.Machine

open Sys2Proof Sys2Proof.Machine Sys2Proof.Claims

/-- Settles O60: at reset no register word is stored, so each reads its reset word, which is that of its table. -/
theorem resetLeavesEveryRegisterAtItsTableValue : Obligations.ResetLeavesEveryRegisterAtItsTableValue := by
  refine ⟨fun b n off r h ho hr => regReset_regKey h ho hr, ?_, ?_, ?_, ?_, ?_, fun f => ⟨rfl, rfl, fun e => rfl⟩,
    fun r => rfl, fun n => rfl, fun u => rfl⟩ <;> decide +kernel

end

section
/-! SUPPORT. Register words: which keys are distinct, and what a message, an event and a sticky bit leave of them. -/

namespace Sys2Proof.Machine

variable {s : State} {b c : Blk} {n m off o k : Nat}

theorem regKey_offset (ho : off < 4096) : State.regKey b n off % 4096 = off := by
  unfold State.regKey
  split <;> exact regOff_offset ho

/-- Registers at different offsets are different words, whatever their pages. -/
theorem regKey_ne_of_offset (hk : o < 4096) (ho : off < 4096) (h : o ≠ off) : State.regKey c m o ≠ State.regKey b n off := by
  intro he
  have := congrArg (· % 4096) he
  simp only [regKey_offset hk, regKey_offset ho] at this
  exact h this

/-- A key of the register pages, below the MSI-X tables. -/
def PageKey (k : Nat) : Prop := k < 0x3000000

theorem pageKey_regKey (h : pageOf (b.page n) = some (b, n)) (ho : off < 4096) : PageKey (State.regKey b n off) := by
  obtain ⟨m, hk, hm⟩ := regKey_cases (off := off) h
  have := page_lt_of_pageOf hm
  unfold PageKey
  rw [hk]
  unfold regOff
  omega

theorem State.rawReg_of_regs {t : State} (h : t.regs = s.regs) (k : Nat) : t.rawReg k = s.rawReg k := by
  unfold State.rawReg
  rw [h]

theorem State.reg_setReg_ne {v : W32} (hk : o < 4096) (ho : off < 4096) (h : o ≠ off) :
    (s.setReg b n off v).reg c m o = s.reg c m o :=
  State.rawReg_setRaw_ne _ v (regKey_ne_of_offset hk ho h)

theorem State.reg_orReg {v : W32} : (s.orReg b n off v).reg b n off = s.reg b n off ||| v := State.reg_setReg ..

theorem State.rawReg_orReg_ne {v : W32} (h : k ≠ State.regKey b n off) : (s.orReg b n off v).rawReg k = s.rawReg k :=
  State.rawReg_setRaw_ne _ _ h

theorem State.reg_orReg_ne {v : W32} (hk : o < 4096) (ho : off < 4096) (h : o ≠ off) :
    (s.orReg b n off v).reg c m o = s.reg c m o :=
  State.reg_setReg_ne hk ho h

/-- A message changes a pending bit at most. -/
theorem State.rawReg_msix {v : Nat} (h : PageKey k) : (s.msix v).rawReg k = s.rawReg k := by
  unfold State.msix PageKey at *
  dsimp only
  split
  · rfl
  · split
    · exact State.rawReg_setRaw_ne _ _ (by omega)
    · rfl

theorem State.event_cases {e : Nat} :
    let s1 := s.orReg b n Off.evtRaw (BitVec.ofNat 32 (2 ^ e))
    let s2 := s1.orReg b n Off.evtPend (BitVec.ofNat 32 (2 ^ e))
    s.event b n e = s1 ∨ s.event b n e = s2 ∨ ∃ v, s.event b n e = s2.msix v := by
  unfold State.event
  dsimp only
  split
  · exact .inl rfl
  · split
    · exact .inr (.inr ⟨_, rfl⟩)
    · exact .inr (.inl rfl)

/-- An event changes its page's EVT_RAW and EVT_PEND, and of the pages nothing else. -/
theorem State.rawReg_event {e : Nat} (hk : PageKey k) (hr : k ≠ State.regKey b n Off.evtRaw)
    (hp : k ≠ State.regKey b n Off.evtPend) : (s.event b n e).rawReg k = s.rawReg k := by
  obtain h | h | ⟨v, h⟩ := State.event_cases (s := s) (b := b) (n := n) (e := e) <;>
    simp only [h, State.rawReg_msix hk, State.rawReg_orReg_ne hr, State.rawReg_orReg_ne hp]

theorem State.reg_event_evtRaw {e : Nat} (h : PageKey (State.regKey b n Off.evtRaw)) :
    (s.event b n e).reg b n Off.evtRaw = s.reg b n Off.evtRaw ||| BitVec.ofNat 32 (2 ^ e) := by
  have hne : State.regKey b n Off.evtRaw ≠ State.regKey b n Off.evtPend :=
    regKey_ne_of_offset (by decide) (by decide) (by decide)
  obtain h1 | h1 | ⟨v, h1⟩ := State.event_cases (s := s) (b := b) (n := n) (e := e) <;>
    simp only [h1, State.reg, State.rawReg_msix h, State.rawReg_orReg_ne hne] <;> exact State.reg_orReg

/-- After an event its bit of EVT_RAW is set. -/
theorem State.event_sets_evtRaw {e : Nat} (h : PageKey (State.regKey b n Off.evtRaw)) (he : e < 32) :
    ((s.event b n e).reg b n Off.evtRaw).getLsbD e = true := by
  have hbit : (BitVec.ofNat 32 (2 ^ e)).getLsbD e = true := by
    rw [BitVec.getLsbD_ofNat, Nat.testBit_two_pow_self]
    simpa using he
  rw [State.reg_event_evtRaw h, BitVec.getLsbD_or, hbit, Bool.or_true]

/-- The set bits of every page register stay set. -/
def BitsStay (s t : State) : Prop := ∀ k i, PageKey k → (s.rawReg k).getLsbD i = true → (t.rawReg k).getLsbD i = true

theorem BitsStay.refl : BitsStay s s := fun _ _ _ h => h

theorem BitsStay.trans {t u : State} (h : BitsStay s t) (k : BitsStay t u) : BitsStay s u :=
  fun j i hj hb => k j i hj (h j i hj hb)

theorem BitsStay.reg {t : State} {i : Nat} (h : BitsStay s t) (hk : PageKey (State.regKey b n off))
    (hb : (s.reg b n off).getLsbD i = true) : (t.reg b n off).getLsbD i = true := h _ _ hk hb

theorem BitsStay.of_regs {t : State} (h : t.regs = s.regs) : BitsStay s t := by
  intro k i _ hb
  rwa [State.rawReg_of_regs h]

theorem BitsStay.of_frame {ps : List Piece} {t : State} (h : Frame ps s t) (hp : ps.contains .regs = false) : BitsStay s t :=
  .of_regs (h .regs hp)

theorem State.orReg_bitsStay {v : W32} : BitsStay s (s.orReg b n off v) := by
  intro k i _ hb
  by_cases hk : k = State.regKey b n off
  · subst hk
    show ((s.orReg b n off v).reg b n off).getLsbD i = true
    rw [State.reg_orReg, BitVec.getLsbD_or]
    exact Bool.or_eq_true_iff.mpr (.inl hb)
  · rwa [State.rawReg_orReg_ne hk]

theorem State.msix_bitsStay {v : Nat} : BitsStay s (s.msix v) := by
  intro k i hk hb
  rwa [State.rawReg_msix hk]

theorem State.event_bitsStay {e : Nat} : BitsStay s (s.event b n e) := by
  obtain h | h | ⟨v, h⟩ := State.event_cases (s := s) (b := b) (n := n) (e := e) <;> rw [h]
  · exact State.orReg_bitsStay
  · exact State.orReg_bitsStay.trans State.orReg_bitsStay
  · exact (State.orReg_bitsStay.trans State.orReg_bitsStay).trans State.msix_bitsStay

theorem BitsStay.foldl {α : Type} {f : State → α → State} {xs : List α} (h : ∀ s x, BitsStay s (f s x)) :
    BitsStay s (xs.foldl f s) := by
  induction xs generalizing s with
  | nil => exact .refl
  | cons x xs ih => exact (h s x).trans ih

end Sys2Proof.Machine

end

section
/-! SUPPORT. The power controller's loops: what a reading leaves of a rail, of the loops' state and of the events. -/

namespace Sys2Proof.Machine

variable {s t : State} {r : Nat}

/-- A frame of the answered state, from the frame of the command. -/
theorem frame_of_next {ps : List Piece} {o : Host.Outcome State Fault Refusal} (ho : o = .next t)
    (h : ∃ out, o = .next out ∧ Frame ps s out) : Frame ps s t := by
  obtain ⟨out, hout, hf⟩ := h
  rw [ho] at hout
  cases hout
  exact hf

/-! Rails and umbels of the power controller. -/

@[simp] theorem State.rail_setRail (x : PwRail) : (s.setRail r x).rail r = x := SMap.get_put_same
theorem State.rail_setRail_ne {q : Nat} (x : PwRail) (h : q ≠ r) : (s.setRail r x).rail q = s.rail q := SMap.get_put_ne h
@[simp] theorem State.pwUmb_setPwUmb (u : Nat) (x : PwUmb) : (s.setPwUmb u x).pwUmb u = x := SMap.get_put_same
theorem State.pwUmb_setPwUmb_ne {u v : Nat} (x : PwUmb) (h : v ≠ u) : (s.setPwUmb u x).pwUmb v = s.pwUmb v := SMap.get_put_ne h
@[simp] theorem State.rail_setPwUmb (u : Nat) (x : PwUmb) : (s.setPwUmb u x).rail r = s.rail r := rfl
@[simp] theorem State.pwUmb_setRail (u : Nat) (x : PwRail) : (s.setRail r x).pwUmb u = s.pwUmb u := rfl
@[simp] theorem State.setRail_regs (x : PwRail) : (s.setRail r x).regs = s.regs := rfl
@[simp] theorem State.setRail_ftime (x : PwRail) : (s.setRail r x).ftime = s.ftime := rfl

theorem State.rail_of_pw (h : t.pw = s.pw) (q : Nat) : t.rail q = s.rail q := by
  unfold State.rail
  rw [h]

theorem State.rail_of_frame {ps : List Piece} (h : Frame ps s t) (hp : ps.contains .pw = false) (q : Nat) :
    t.rail q = s.rail q :=
  State.rail_of_pw (h .pw hp) q

@[simp] theorem State.event_pw {b : Blk} {n e : Nat} : (s.event b n e).pw = s.pw := State.event_frame .pw rfl
@[simp] theorem State.rail_event {b : Blk} {n e : Nat} : (s.event b n e).rail r = s.rail r := State.rail_of_pw State.event_pw r
@[simp] theorem State.orReg_pw {b : Blk} {n o : Nat} {v : W32} : (s.orReg b n o v).pw = s.pw := rfl
@[simp] theorem State.rail_orReg {b : Blk} {n o : Nat} {v : W32} : (s.orReg b n o v).rail r = s.rail r := rfl

/-- A rail's current limit depends on the rail's record alone. -/
theorem State.capI_congr {x : PwRail} (hs : s.rail r = x) (hicl : (t.rail r).icl = x.icl) (hf : (t.rail r).fault = x.fault)
    (hp : (t.rail r).phases = x.phases) (ho : (t.rail r).opened = x.opened) : t.capI r = s.capI r := by
  unfold State.capI State.capTerms
  simp only [hs, hicl, hf, hp, ho]

/-- The power controller's page. -/
theorem pageKey_pw {o : Nat} (ho : o < 4096) : PageKey (State.regKey .pw 0 o) := pageKey_regKey rfl ho

/-- The loops' frequency and rate, and the limit that they follow, stay. -/
def LoopStays (s t : State) : Prop :=
  t.pw.fPwr = s.pw.fPwr ∧ t.pw.rate = s.pw.rate ∧ t.reg .pw 0 0x100 = s.reg .pw 0 0x100

theorem LoopStays.refl : LoopStays s s := ⟨rfl, rfl, rfl⟩

theorem LoopStays.trans {u : State} (h : LoopStays s t) (k : LoopStays t u) : LoopStays s u :=
  ⟨k.1.trans h.1, k.2.1.trans h.2.1, k.2.2.trans h.2.2⟩

theorem LoopStays.foldl {α : Type} {f : State → α → State} {xs : List α} (h : ∀ s x, LoopStays s (f s x)) :
    LoopStays s (xs.foldl f s) := by
  induction xs generalizing s with
  | nil => exact .refl
  | cons x xs ih => exact (h s x).trans ih

theorem State.setRail_loopStays {x : PwRail} : LoopStays s (s.setRail r x) := ⟨rfl, rfl, rfl⟩

theorem State.reg_pw_event {o e : Nat} (ho : o < 4096) (hr : o ≠ Off.evtRaw) (hp : o ≠ Off.evtPend) :
    (s.event .pw 0 e).reg .pw 0 o = s.reg .pw 0 o :=
  State.rawReg_event (pageKey_pw ho) (regKey_ne_of_offset ho (by decide) hr) (regKey_ne_of_offset ho (by decide) hp)

theorem State.event_loopStays {e : Nat} : LoopStays s (s.event .pw 0 e) :=
  ⟨by rw [State.event_pw], by rw [State.event_pw], State.reg_pw_event (by decide) (by decide) (by decide)⟩

theorem State.orReg_110_loopStays {v : W32} : LoopStays s (s.orReg .pw 0 0x110 v) :=
  ⟨rfl, rfl, State.reg_orReg_ne (by decide) (by decide) (by decide)⟩

/-! AVSBus samples. -/

/-- What the sensing of reading `y` leaves of the rail `x` that it names, before the slow path. -/
structure RailSensed (x : PwRail) (y : RailReading) (x' : PwRail) : Prop where
  mv : x'.mv = if y.ok then y.mv else x.mv
  icl : x'.icl = x.icl
  fault : x'.fault = x.fault
  phases : x'.phases = x.phases
  opened : x'.opened = x.opened
  duty : x'.duty = x.duty
  fcur : x'.fcur = x.fcur
  lost : y.ok = false → 4 ≤ x.miss → x'.failed = true ∧ x'.good = 0
  used : x'.est = false → y.ok = true ∧ x'.failed = false

theorem State.senseRail_sensed (y : RailReading) : RailSensed (s.rail y.rail.val) y ((s.senseRail y).rail y.rail.val) := by
  unfold State.senseRail
  rw [State.rail_setRail]
  generalize s.rail y.rail.val = x
  refine ⟨rfl, rfl, rfl, rfl, rfl, rfl, rfl, fun hok hm => ?_, fun hest => ?_⟩
  · have hmiss : 5 ≤ x.miss + 1 := by omega
    simp only [hok, Bool.false_eq_true, ↓reduceIte, decide_eq_true hmiss, Bool.or_true, Bool.true_or, Bool.and_false,
      Bool.false_and, and_self]
  · simpa only [Bool.not_eq_false', Bool.and_eq_true, Bool.not_eq_true'] using hest

theorem State.rail_senseRail_ne {y : RailReading} (h : r ≠ y.rail.val) : (s.senseRail y).rail r = s.rail r :=
  State.rail_setRail_ne _ h

/-- A raise's reading changes at most the voltage reached and the time of the raise. -/
theorem State.raiseRead_cases {near : Bool} :
    s.raiseRead r near = s ∨ (∃ v a, s.raiseRead r near = s.setRail r { s.rail r with reached := v, raiseAt := a }) ∨
      ∃ v a, s.raiseRead r near = ((s.setRail r { s.rail r with reached := v, raiseAt := a }).orReg .pw 0 0x110 0x400).event .pw 0 6 := by
  unfold State.raiseRead
  dsimp only
  split
  · exact .inl rfl
  · split
    · exact .inr (.inr ⟨_, _, rfl⟩)
    · split
      · exact .inr (.inl ⟨_, _, rfl⟩)
      · exact .inl rfl

theorem State.rail_raiseRead_ne {q : Nat} {near : Bool} (h : q ≠ r) : (s.raiseRead r near).rail q = s.rail q := by
  obtain e | ⟨v, a, e⟩ | ⟨v, a, e⟩ := State.raiseRead_cases (s := s) (r := r) (near := near) <;>
    simp [e, State.rail_setRail_ne _ h]

theorem State.raiseRead_loopStays {near : Bool} : LoopStays s (s.raiseRead r near) := by
  obtain e | ⟨v, a, e⟩ | ⟨v, a, e⟩ := State.raiseRead_cases (s := s) (r := r) (near := near) <;> rw [e]
  · exact .refl
  · exact State.setRail_loopStays
  · exact (State.setRail_loopStays.trans State.orReg_110_loopStays).trans State.event_loopStays

theorem State.raiseRead_sensed {y : RailReading} {x : PwRail} {near : Bool} (h : RailSensed x y (s.rail r)) :
    RailSensed x y ((s.raiseRead r near).rail r) := by
  obtain e | ⟨v, a, e⟩ | ⟨v, a, e⟩ := State.raiseRead_cases (s := s) (r := r) (near := near) <;> rw [e]
  · exact h
  · simpa using ⟨h.mv, h.icl, h.fault, h.phases, h.opened, h.duty, h.fcur, h.lost, h.used⟩
  · simpa using ⟨h.mv, h.icl, h.fault, h.phases, h.opened, h.duty, h.fcur, h.lost, h.used⟩

/-- In a pass over items of different rails, each rail changes at its own item only; `P` is kept along the way. -/
theorem rail_of_pass {α : Type} {key : α → Nat} {f : State → α → State} {P : State → Prop}
    (hf : ∀ s a r, r ≠ key a → (f s a).rail r = s.rail r) (hP : ∀ s a, P s → P (f s a)) (h0 : P s)
    {xs : List α} (hn : (xs.map key).Nodup) {a : α} (ha : a ∈ xs) :
    ∃ s', P s' ∧ s'.rail (key a) = s.rail (key a) ∧ (xs.foldl f s).rail (key a) = (f s' a).rail (key a) := by
  induction xs generalizing s with
  | nil => cases ha
  | cons z zs ih =>
    rw [List.map_cons, List.nodup_cons] at hn
    obtain ⟨hz, hzs⟩ := hn
    have hrest : ∀ (zs : List α) (s : State), key z ∉ zs.map key → (zs.foldl f s).rail (key z) = s.rail (key z) := by
      intro zs
      induction zs with
      | nil => exact fun _ _ => rfl
      | cons w ws ih =>
        intro s hw
        rw [List.map_cons, List.mem_cons, not_or] at hw
        rw [List.foldl_cons, ih _ hw.2, hf _ _ _ hw.1]
    rw [List.foldl_cons]
    rcases List.mem_cons.mp ha with rfl | hmem
    · exact ⟨s, h0, rfl, hrest zs _ hz⟩
    · have hne : key a ≠ key z := fun h => hz (h ▸ List.mem_map_of_mem hmem)
      obtain ⟨s', hp, h1, h2⟩ := ih (s := f s z) (hP _ _ h0) hzs hmem
      exact ⟨s', hp, h1.trans (hf _ _ _ hne), h2⟩

/-- The same, for a pass over rails 0 to `n - 1`. -/
theorem rail_of_range {f : State → Nat → State} {P : State → Prop} (hf : ∀ s a r, r ≠ a → (f s a).rail r = s.rail r)
    (hP : ∀ s a, P s → P (f s a)) (h0 : P s) {n : Nat} (hr : r < n) :
    ∃ s', P s' ∧ s'.rail r = s.rail r ∧ ((List.range n).foldl f s).rail r = (f s' r).rail r :=
  rail_of_pass (key := id) hf hP h0 (by simpa using List.nodup_range) (List.mem_range.mpr hr)

/-- The same, for a pass over readings. -/
theorem rail_of_readings {f : State → RailReading → State} (hf : ∀ s y r, r ≠ y.rail.val → (f s y).rail r = s.rail r)
    {ys : List RailReading} (hn : (ys.map (·.rail)).Nodup) {y : RailReading} (hy : y ∈ ys) :
    ∃ s', s'.rail y.rail.val = s.rail y.rail.val ∧ (ys.foldl f s).rail y.rail.val = (f s' y).rail y.rail.val := by
  have hn' : (ys.map (fun y => y.rail.val)).Nodup := by
    have h := hn.map Fin.val_injective
    rwa [List.map_map] at h
  obtain ⟨s', -, h⟩ := rail_of_pass (s := s) (P := fun _ => True) hf (fun _ _ h => h) trivial hn' hy
  exact ⟨s', h⟩

/-- The rails whose sense has failed. -/
def State.failedRails (s : State) : List Nat := (List.range 13).filter (fun r => (s.rail r).failed)

theorem State.mem_failedRails (hr : r < 13) : r ∈ s.failedRails ↔ (s.rail r).failed = true := by
  simp [State.failedRails, hr]

/-- A rail whose sense is good again (R355). -/
def PwRail.recovered (x : PwRail) : PwRail := { x with failed := false, good := 0, miss := 0, diff := 0 }

/-- The rails of a list recover; the others stay. -/
def State.recoverRails (s : State) (rs : List Nat) : State := rs.foldl (fun s r => s.setRail r (s.rail r).recovered) s

theorem State.rail_recoverRails {rs : List Nat} :
    (s.recoverRails rs).rail r = if r ∈ rs then (s.rail r).recovered else s.rail r := by
  unfold State.recoverRails
  induction rs generalizing s with
  | nil => simp
  | cons q rs ih =>
    rw [List.foldl_cons, ih]
    by_cases hq : r = q
    · subst hq
      simp [PwRail.recovered]
    · simp [hq, State.rail_setRail_ne _ hq]

theorem State.recoverRails_loopStays {rs : List Nat} : LoopStays s (s.recoverRails rs) :=
  LoopStays.foldl fun _ _ => State.setRail_loopStays

def State.setFallback (s : State) (b : Bool) : State := s.setPw { s.pw with fallback := b }

@[simp] theorem State.rail_setFallback {b : Bool} : (s.setFallback b).rail r = s.rail r := rfl
theorem State.setFallback_loopStays {b : Bool} : LoopStays s (s.setFallback b) := ⟨rfl, rfl, rfl⟩

/-- Fallback stays as it is, ends with every failed rail good for 64 samples, or begins with a failed rail (R355). -/
theorem State.fallbackStep_cases :
    (s.fallbackStep = s ∧ (s.pw.fallback = true ∨ s.failedRails = [])) ∨
      (s.pw.fallback = true ∧ (∀ q ∈ s.failedRails, 64 ≤ (s.rail q).good) ∧
        s.fallbackStep = (s.recoverRails s.failedRails).setFallback false) ∨
      (s.pw.fallback = false ∧ s.fallbackStep = (s.setFallback true).event .pw 0 3) := by
  unfold State.fallbackStep
  dsimp only
  split
  case isTrue hfb =>
    split
    case isTrue hall =>
      refine .inr (.inl ⟨hfb, fun q hq => ?_, rfl⟩)
      simpa using List.all_eq_true.mp hall q hq
    case isFalse => exact .inl ⟨rfl, .inl hfb⟩
  case isFalse hfb =>
    split
    case isTrue hempty => exact .inl ⟨rfl, .inr (List.isEmpty_iff.mp hempty)⟩
    case isFalse => exact .inr (.inr ⟨by simpa using hfb, rfl⟩)

theorem State.fallbackStep_loopStays : LoopStays s s.fallbackStep := by
  obtain ⟨e, -⟩ | ⟨-, -, e⟩ | ⟨-, e⟩ := State.fallbackStep_cases (s := s) <;> rw [e]
  · exact .refl
  · exact State.recoverRails_loopStays.trans State.setFallback_loopStays
  · exact State.setFallback_loopStays.trans State.event_loopStays

theorem State.fallbackStep_sensed {x : PwRail} {y : RailReading} (hr : r < 13) (h : RailSensed x y (s.rail r)) :
    RailSensed x y (s.fallbackStep.rail r) := by
  obtain ⟨e, -⟩ | ⟨-, hall, e⟩ | ⟨-, e⟩ := State.fallbackStep_cases (s := s) <;> rw [e]
  · exact h
  · rw [State.rail_setFallback, State.rail_recoverRails]
    split
    case isFalse => exact h
    case isTrue hmem =>
      have hgood := hall r hmem
      have hfailed := (State.mem_failedRails hr).mp hmem
      refine ⟨h.mv, h.icl, h.fault, h.phases, h.opened, h.duty, h.fcur, fun hok hm => ?_, fun hest => ?_⟩
      · have := (h.lost hok hm).2
        omega
      · have := (h.used hest).2
        rw [hfailed] at this
        cases this
  · rw [State.rail_event, State.rail_setFallback]
    exact h

/-- A rail that has lost its reply five times is in fallback from then on. -/
theorem State.fallbackStep_of_lost (hr : r < 13) (hf : (s.rail r).failed = true) (hg : (s.rail r).good = 0) :
    s.fallbackStep.pw.fallback = true ∧
      (s.pw.fallback = false → (s.fallbackStep.reg .pw 0 Off.evtRaw).getLsbD 3 = true) := by
  have hmem := (State.mem_failedRails hr).mpr hf
  obtain ⟨e, hfb | hempty⟩ | ⟨-, hall, -⟩ | ⟨-, e⟩ := State.fallbackStep_cases (s := s)
  · rw [e]
    exact ⟨hfb, fun h => by rw [hfb] at h; cases h⟩
  · rw [hempty] at hmem
    cases hmem
  · have := hall r hmem
    omega
  · rw [e]
    exact ⟨by rw [State.event_pw]; rfl, fun _ => State.event_sets_evtRaw (pageKey_pw (by decide)) (by decide)⟩

/-- The slow path moves F_cur and nothing else of the rail. -/
theorem State.rail_slowRail {y : RailReading} : ∃ f, (s.slowRail y).rail y.rail.val = { s.rail y.rail.val with fcur := f } := by
  unfold State.slowRail
  dsimp only
  split
  · exact ⟨_, rfl⟩
  · exact ⟨_, State.rail_setRail _⟩

theorem State.rail_slowRail_ne {y : RailReading} (h : r ≠ y.rail.val) : (s.slowRail y).rail r = s.rail r := by
  unfold State.slowRail
  dsimp only
  split
  · rfl
  · exact State.rail_setRail_ne _ h

theorem State.slowRail_loopStays {y : RailReading} : LoopStays s (s.slowRail y) := by
  unfold State.slowRail
  dsimp only
  split
  · exact .refl
  · exact State.setRail_loopStays

theorem State.slowRail_fallback {y : RailReading} : (s.slowRail y).pw.fallback = s.pw.fallback := by
  unfold State.slowRail
  dsimp only
  split <;> rfl

/-- The slow path of a rail with a reading, at full duty (R345). -/
theorem State.fcur_slowRail {y : RailReading} (h3 : y.rail.val < 3) (hok : y.ok = true)
    (hf : (s.rail y.rail.val).failed = false) (hd : (s.rail y.rail.val).duty = 16) :
    ((s.slowRail y).rail y.rail.val).fcur =
      fcurStep (s.capI y.rail.val) y.ma.toNat 1 16 y.dynMa (s.fTop y.rail.val) (s.rail y.rail.val).fcur := by
  unfold State.slowRail
  rw [if_neg (by omega), State.rail_setRail]
  simp [hok, hf, hd]

theorem fcurStep_full {cap n dyn ftop f : Nat} :
    let f' := fcurStep cap n 1 16 dyn ftop f
    (cap < n → 16 ≤ f' ∧ (f' < f ∨ f' = 16)) ∧ (100 * n < 95 * cap → f' = min 60 (f + 1)) ∧
      (n ≤ cap → 95 * cap ≤ 100 * n → f' = f) := by
  unfold fcurStep
  simp only [Nat.lt_irrefl, ↓reduceIte, Nat.mul_one, Nat.one_mul]
  refine ⟨fun h => ?_, fun h => ?_, fun h1 h2 => ?_⟩
  · rw [if_pos h]
    omega
  · rw [if_neg (by omega), if_pos h]
  · rw [if_neg (by omega), if_neg (by omega)]

/-- The power limit loop's cases (R345). -/
theorem powerStep_cases {p lim step f rate : Nat} :
    let q := powerStep p lim step f rate
    (lim < p → 16 < f → q.1 = max 16 (f - max 1 (cdiv (p - lim) (max 1 step))) ∧ q.2 = rate) ∧
    (lim < p → f ≤ 16 → q.1 = f ∧ q.2 = max 1 (rate - 1)) ∧
    (100 * p < 98 * lim → rate < 16 → q.1 = f ∧ q.2 = rate + 1) ∧
    (100 * p < 98 * lim → 16 ≤ rate → q.1 = min 60 (f + 1) ∧ q.2 = rate) ∧
    (p ≤ lim → 98 * lim ≤ 100 * p → q.1 = f ∧ q.2 = rate) := by
  unfold powerStep
  refine ⟨fun h1 h2 => ?_, fun h1 h2 => ?_, fun h1 h2 => ?_, fun h1 h2 => ?_, fun h1 h2 => ?_⟩
  · rw [if_pos h1, if_pos h2]
    exact ⟨rfl, rfl⟩
  · rw [if_pos h1, if_neg (by omega)]
    exact ⟨rfl, rfl⟩
  · rw [if_neg (by omega), if_pos h1, if_pos h2]
    exact ⟨rfl, rfl⟩
  · rw [if_neg (by omega), if_pos h1, if_neg (by omega)]
    exact ⟨rfl, rfl⟩
  · rw [if_neg (by omega), if_neg (by omega)]
    exact ⟨rfl, rfl⟩

/-- What the PWRWARN step changes of the power controller is k and the time of its last step (R350). -/
theorem State.warnStep_cases {p : Nat} :
    (∃ k a, s.warnStep p = s.setPw { s.pw with k := k, stepAt := a }) ∨
      s.warnStep p = (s.orReg .pw 0 0x110 0x100).event .pw 0 5 := by
  unfold State.warnStep
  split
  · exact .inl ⟨s.pw.k, s.pw.stepAt, rfl⟩
  · split
    · exact .inl ⟨s.pw.k, s.ftime, rfl⟩
    · split
      · exact .inl ⟨s.pw.k - 1, s.pw.stepAt, rfl⟩
      · exact .inr rfl

/-- Fields of the power controller that the PWRWARN step leaves. -/
theorem State.warnStep_stays {p : Nat} :
    let t := s.warnStep p
    (∀ q, t.rail q = s.rail q) ∧ t.pw.sensedW = s.pw.sensedW ∧ t.pw.estW = s.pw.estW ∧ t.pw.fPwr = s.pw.fPwr ∧
      t.pw.rate = s.pw.rate ∧ t.pw.fallback = s.pw.fallback ∧ BitsStay s t := by
  obtain ⟨k, a, e⟩ | e := State.warnStep_cases (s := s) (p := p) <;> rw [e]
  · exact ⟨fun _ => rfl, rfl, rfl, rfl, rfl, rfl, .refl⟩
  · simp only [State.event_pw, State.orReg_pw, State.rail_event, State.rail_orReg, implies_true, true_and]
    exact State.orReg_bitsStay.trans State.event_bitsStay

theorem State.sensedMw_congr (h : ∀ q, t.rail q = s.rail q) : t.sensedMw = s.sensedMw := by
  unfold State.sensedMw
  simp only [h]

def State.raiseBy (s : State) (y : RailReading) : State :=
  s.raiseRead y.rail.val (y.ok && decide (y.mv ≤ (s.rail y.rail.val).set + 5) && decide ((s.rail y.rail.val).set ≤ y.mv + 5))

/-- An AVSBus sample up to the slow path: sense, raises under way, fallback. -/
def State.sensePass (s : State) (ys : List RailReading) : State :=
  (ys.foldl State.raiseBy (ys.foldl State.senseRail s)).fallbackStep

/-- The end of an AVSBus sample: the power limit loop and the PWRWARN step. -/
def State.loopStep (s : State) (rd : AvsReading) : State :=
  let q := powerStep (if s.pw.fallback then rd.estMw else s.sensedMw) s.powerLim rd.stepMw s.pw.fPwr s.pw.rate
  (s.setPw { s.pw with sensedW := s.sensedMw / 1000, estW := rd.estMw / 1000, fPwr := q.1, rate := q.2 }).warnStep s.sensedMw

/-- The readings that AVSBus gives: every rail's but those of 3 and 4. -/
def avsReadings (rd : AvsReading) : List RailReading := rd.rails.filter (fun x => x.rail.val != 3 && x.rail.val != 4)

theorem execAvsSample_eq {rd : AvsReading} :
    execAvsSample rd s = .next (((avsReadings rd).foldl State.slowRail (s.sensePass (avsReadings rd))).loopStep rd) := rfl

theorem State.sensePass_sensed {ys : List RailReading} (hn : (ys.map (·.rail)).Nodup) {y : RailReading} (hy : y ∈ ys) :
    RailSensed (s.rail y.rail.val) y ((s.sensePass ys).rail y.rail.val) := by
  obtain ⟨s1, h1, e1⟩ := rail_of_readings (s := s) (fun s y r h => State.rail_senseRail_ne (s := s) (r := r) h) hn hy
  obtain ⟨s2, h2, e2⟩ := rail_of_readings (s := ys.foldl State.senseRail s) (f := State.raiseBy)
    (fun s y r h => State.rail_raiseRead_ne (s := s) h) hn hy
  refine State.fallbackStep_sensed y.rail.isLt ?_
  rw [e2]
  refine State.raiseRead_sensed ?_
  rw [h2, e1, ← h1]
  exact State.senseRail_sensed y

theorem State.sensePass_loopStays {ys : List RailReading} : LoopStays s (s.sensePass ys) :=
  ((LoopStays.foldl fun _ _ => State.setRail_loopStays).trans
    (LoopStays.foldl fun _ _ => State.raiseRead_loopStays)).trans State.fallbackStep_loopStays

theorem State.foldl_raiseBy_fallback {ys : List RailReading} : (ys.foldl State.raiseBy s).pw.fallback = s.pw.fallback := by
  induction ys generalizing s with
  | nil => rfl
  | cons y ys ih =>
    rw [List.foldl_cons, ih, State.raiseBy]
    obtain e | ⟨v, a, e⟩ | ⟨v, a, e⟩ := State.raiseRead_cases (s := s) (r := y.rail.val)
      (near := y.ok && decide (y.mv ≤ (s.rail y.rail.val).set + 5) && decide ((s.rail y.rail.val).set ≤ y.mv + 5)) <;> rw [e]
    · rfl
    · rw [State.event_pw]
      rfl

theorem State.foldl_senseRail_fallback {ys : List RailReading} : (ys.foldl State.senseRail s).pw.fallback = s.pw.fallback := by
  induction ys generalizing s with
  | nil => rfl
  | cons y ys ih => exact ih

/-- A rail whose fifth reply is missing brings fallback. -/
theorem State.sensePass_of_lost {ys : List RailReading} (hn : (ys.map (·.rail)).Nodup) {y : RailReading} (hy : y ∈ ys)
    (hok : y.ok = false) (hm : 4 ≤ (s.rail y.rail.val).miss) :
    (s.sensePass ys).pw.fallback = true ∧
      (s.pw.fallback = false → ((s.sensePass ys).reg .pw 0 Off.evtRaw).getLsbD 3 = true) := by
  obtain ⟨s1, h1, e1⟩ := rail_of_readings (s := s) (fun s y r h => State.rail_senseRail_ne (s := s) (r := r) h) hn hy
  obtain ⟨s2, h2, e2⟩ := rail_of_readings (s := ys.foldl State.senseRail s) (f := State.raiseBy)
    (fun s y r h => State.rail_raiseRead_ne (s := s) h) hn hy
  have hsensed : RailSensed (s.rail y.rail.val) y ((ys.foldl State.raiseBy (ys.foldl State.senseRail s)).rail y.rail.val) := by
    rw [e2]
    refine State.raiseRead_sensed ?_
    rw [h2, e1, ← h1]
    exact State.senseRail_sensed y
  obtain ⟨hf, hg⟩ := hsensed.lost hok hm
  have h := State.fallbackStep_of_lost y.rail.isLt hf hg
  rw [State.foldl_raiseBy_fallback, State.foldl_senseRail_fallback] at h
  exact h

theorem State.foldl_slowRail_fallback {ys : List RailReading} : (ys.foldl State.slowRail s).pw.fallback = s.pw.fallback := by
  induction ys generalizing s with
  | nil => rfl
  | cons y ys ih => rw [List.foldl_cons, ih, State.slowRail_fallback]

theorem State.foldl_slowRail_regs {ys : List RailReading} : (ys.foldl State.slowRail s).regs = s.regs :=
  Frame.foldl (ps := [.pw]) (fun _ _ => State.slowRail_frame) .regs rfl

theorem State.loopStep_stays {rd : AvsReading} :
    let t := s.loopStep rd
    (∀ q, t.rail q = s.rail q) ∧ t.pw.fallback = s.pw.fallback ∧ BitsStay s t := by
  obtain ⟨hr, -, -, -, -, hfb, hb⟩ := State.warnStep_stays (p := s.sensedMw) (s := s.setPw { s.pw with
    sensedW := s.sensedMw / 1000, estW := rd.estMw / 1000
    fPwr := (powerStep (if s.pw.fallback then rd.estMw else s.sensedMw) s.powerLim rd.stepMw s.pw.fPwr s.pw.rate).1
    rate := (powerStep (if s.pw.fallback then rd.estMw else s.sensedMw) s.powerLim rd.stepMw s.pw.fPwr s.pw.rate).2 })
  exact ⟨hr, hfb, hb⟩

theorem State.loopStep_loop {rd : AvsReading} :
    let t := s.loopStep rd
    let q := powerStep (if s.pw.fallback then rd.estMw else s.sensedMw) s.powerLim rd.stepMw s.pw.fPwr s.pw.rate
    t.pw.sensedW = s.sensedMw / 1000 ∧ t.pw.estW = rd.estMw / 1000 ∧ t.pw.fPwr = q.1 ∧ t.pw.rate = q.2 := by
  obtain ⟨-, hs, he, hf, hr, -, -⟩ := State.warnStep_stays (p := s.sensedMw) (s := s.setPw { s.pw with
    sensedW := s.sensedMw / 1000, estW := rd.estMw / 1000
    fPwr := (powerStep (if s.pw.fallback then rd.estMw else s.sensedMw) s.powerLim rd.stepMw s.pw.fPwr s.pw.rate).1
    rate := (powerStep (if s.pw.fallback then rd.estMw else s.sensedMw) s.powerLim rd.stepMw s.pw.fPwr s.pw.rate).2 })
  exact ⟨hs, he, hf, hr⟩

/-- What an AVSBus sample leaves of a rail that it reads. -/
theorem avsSample_rail {rd : AvsReading} (hn : (rd.rails.map (·.rail)).Nodup) (ht : execAvsSample rd s = .next t)
    {y : RailReading} (hy : y ∈ rd.rails) (h3 : y.rail.val ≠ 3) (h4 : y.rail.val ≠ 4) :
    let r := y.rail.val
    let x := s.rail r
    (t.rail r).mv = (if y.ok then y.mv else x.mv) ∧
    (y.ok = false → 4 ≤ x.miss → t.pw.fallback = true ∧ (s.pw.fallback = false → (t.reg .pw 0 Off.evtRaw).getLsbD 3 = true)) ∧
    (r < 3 → (t.rail r).est = false → x.duty = 16 →
      (s.capI r < y.ma.toNat → 16 ≤ (t.rail r).fcur ∧ ((t.rail r).fcur < x.fcur ∨ (t.rail r).fcur = 16)) ∧
      (100 * y.ma.toNat < 95 * s.capI r → (t.rail r).fcur = min 60 (x.fcur + 1)) ∧
      (y.ma.toNat ≤ s.capI r → 95 * s.capI r ≤ 100 * y.ma.toNat → (t.rail r).fcur = x.fcur)) := by
  rw [execAvsSample_eq, Host.Outcome.next.injEq] at ht
  subst ht
  have hys : y ∈ avsReadings rd := by simp [avsReadings, hy, h3, h4]
  have hnd : ((avsReadings rd).map (·.rail)).Nodup := hn.sublist (List.filter_sublist.map _)
  generalize avsReadings rd = ys at hys hnd
  obtain ⟨hrail, hfb, hbits⟩ := State.loopStep_stays (s := ys.foldl State.slowRail (s.sensePass ys)) (rd := rd)
  have hsensed := State.sensePass_sensed (s := s) hnd hys
  obtain ⟨s3, h3', e3⟩ := rail_of_readings (s := s.sensePass ys) (f := State.slowRail)
    (fun s y r h => State.rail_slowRail_ne (s := s) h) hnd hys
  obtain ⟨f, hf⟩ := State.rail_slowRail (s := s3) (y := y)
  dsimp only
  rw [hrail, e3]
  refine ⟨?_, fun hok hm => ?_, fun hlt hest hd => ?_⟩
  · rw [hf, h3']
    exact hsensed.mv
  · obtain ⟨hl, hev⟩ := State.sensePass_of_lost (s := s) hnd hys hok hm
    rw [hfb, State.foldl_slowRail_fallback]
    exact ⟨hl, fun h => (BitsStay.of_regs State.foldl_slowRail_regs).trans hbits |>.reg (pageKey_pw (by decide)) (hev h)⟩
  · rw [hf, h3'] at hest
    obtain ⟨hok, hfail⟩ := hsensed.used hest
    have hcap : s3.capI y.rail.val = s.capI y.rail.val := by
      refine State.capI_congr rfl ?_ ?_ ?_ ?_ <;> rw [h3']
      · exact hsensed.icl
      · exact hsensed.fault
      · exact hsensed.phases
      · exact hsensed.opened
    rw [State.fcur_slowRail hlt hok (by rw [h3']; exact hfail) (by rw [h3', hsensed.duty]; exact hd), hcap, h3', hsensed.fcur]
    exact fcurStep_full

/-- What an AVSBus sample leaves of the power limit loop. -/
theorem avsSample_loop {rd : AvsReading} (ht : execAvsSample rd s = .next t) :
    let p := if t.pw.fallback then rd.estMw else t.sensedMw
    let lim := (if t.pw.fallback then 800 else 1000) * bitsN (s.regN .pw 0 0x100) 10 0
    let q := powerStep p lim rd.stepMw s.pw.fPwr s.pw.rate
    t.pw.sensedW = t.sensedMw / 1000 ∧ t.pw.estW = rd.estMw / 1000 ∧ t.pw.fPwr = q.1 ∧ t.pw.rate = q.2 := by
  rw [execAvsSample_eq, Host.Outcome.next.injEq] at ht
  subst ht
  generalize avsReadings rd = ys
  obtain ⟨hrail, hfb, -⟩ := State.loopStep_stays (s := ys.foldl State.slowRail (s.sensePass ys)) (rd := rd)
  obtain ⟨hs, he, hf, hr⟩ := State.loopStep_loop (s := ys.foldl State.slowRail (s.sensePass ys)) (rd := rd)
  have hloop : LoopStays s (ys.foldl State.slowRail (s.sensePass ys)) :=
    State.sensePass_loopStays.trans (LoopStays.foldl fun _ _ => State.slowRail_loopStays)
  obtain ⟨hpwr, hrate, hreg⟩ := hloop
  have hlim : (ys.foldl State.slowRail (s.sensePass ys)).powerLim =
      (if (ys.foldl State.slowRail (s.sensePass ys)).pw.fallback then 800 else 1000) * bitsN (s.regN .pw 0 0x100) 10 0 := by
    unfold State.powerLim State.regN
    rw [hreg]
    dsimp only
    split <;> rfl
  rw [hpwr, hrate, hlim] at hf hr
  dsimp only
  rw [hfb, State.sensedMw_congr hrail]
  exact ⟨hs, he, hf, hr⟩

/-! PMBus samples and the fast loop. -/

theorem SMap.get_foldl_put {α : Type} [DecidableEq α] {d : α} {g : Nat → α} {xs : List Nat} {m : SMap α} {j : Nat} :
    SMap.get d (xs.foldl (fun c j => SMap.put d c j (g j)) m) j = if j ∈ xs then g j else SMap.get d m j := by
  induction xs generalizing m with
  | nil => simp
  | cons x xs ih =>
    rw [List.foldl_cons, ih, SMap.get_put]
    by_cases hx : j = x
    · subst hx
      simp
    · simp [hx]

theorem State.foldl_event_rail {b : Blk} {n e : Nat} {xs : List Nat} :
    (xs.foldl (fun s _ => s.event b n e) s).rail r = s.rail r :=
  State.rail_of_frame (ps := [.regs, .hostOut]) (Frame.foldl fun _ _ => State.event_frame) rfl r

/-- The counts of R354 after a read: reads in a row that found phase `j` open, at most two. -/
def openCounts (x : PwRail) (ps : List Nat) : SMap Nat :=
  (List.range x.phases).foldl (fun c j =>
    SMap.put 0 c j (if phaseLow (1000 * x.icl) ps j then min 2 (SMap.get 0 x.openCnt j + 1) else 0)) []

/-- The phases that a read finds open and that were not known to be. -/
def newOpen (x : PwRail) (ps : List Nat) : List Nat :=
  (List.range x.phases).filter (fun j => SMap.get 0 (openCounts x ps) j == 2 && !x.opened.contains j)

theorem State.phaseRead_eq {all : List Nat} :
    let x := s.rail r
    let new := newOpen x (all.take x.phases)
    s.phaseRead r all = new.foldl (fun s _ => s.event .pw 0 2) (s.setRail r { x with
      openCnt := openCounts x (all.take x.phases), opened := x.opened ++ new
      healthy := min x.healthy (x.phases - (x.opened ++ new).length) }) := rfl

theorem State.rail_phaseRead_ne {q : Nat} {all : List Nat} (h : q ≠ r) : (s.phaseRead r all).rail q = s.rail q := by
  rw [State.phaseRead_eq, State.foldl_event_rail, State.rail_setRail_ne _ h]

theorem State.phaseRead_bitsStay {all : List Nat} : BitsStay s (s.phaseRead r all) := by
  rw [State.phaseRead_eq]
  exact (BitsStay.of_regs (State.setRail_regs _)).trans (.foldl fun _ _ => State.event_bitsStay)

theorem mem_newOpen {x : PwRail} {ps : List Nat} {j : Nat} (hj : j < x.phases)
    (hlow : phaseLow (1000 * x.icl) ps j = true) (hc : 1 ≤ SMap.get 0 x.openCnt j) (ho : x.opened.contains j = false) :
    j ∈ newOpen x ps := by
  have hget : SMap.get 0 (openCounts x ps) j = 2 := by
    unfold openCounts
    rw [SMap.get_foldl_put, if_pos (List.mem_range.mpr hj), if_pos hlow]
    omega
  rw [newOpen, List.mem_filter]
  exact ⟨List.mem_range.mpr hj, by rw [hget, ho]; rfl⟩

theorem foldl_event_sets {xs : List Nat} {e : Nat} (he : e < 32) (hx : xs ≠ []) :
    ((xs.foldl (fun s _ => s.event .pw 0 e) s).reg .pw 0 Off.evtRaw).getLsbD e = true := by
  cases xs with
  | nil => exact absurd rfl hx
  | cons x xs =>
    exact BitsStay.reg (s := s.event .pw 0 e) (BitsStay.foldl fun _ _ => State.event_bitsStay) (pageKey_pw (by decide))
      (State.event_sets_evtRaw (s := s) (pageKey_pw (by decide)) he)

/-- A phase that a second read in a row finds open is marked, with an event (R354). -/
theorem State.phaseRead_open {all : List Nat} {j : Nat} (hj : j < (s.rail r).phases)
    (hlow : phaseLow (1000 * (s.rail r).icl) (all.take (s.rail r).phases) j = true)
    (hc : 1 ≤ SMap.get 0 (s.rail r).openCnt j) :
    j ∈ ((s.phaseRead r all).rail r).opened ∧
      ((s.rail r).opened.contains j = false → ((s.phaseRead r all).reg .pw 0 Off.evtRaw).getLsbD 2 = true) := by
  rw [State.phaseRead_eq, State.foldl_event_rail, State.rail_setRail]
  dsimp only
  rw [List.mem_append]
  refine ⟨?_, fun ho => foldl_event_sets (by decide) (List.ne_nil_of_mem (mem_newOpen hj hlow hc ho))⟩
  by_cases ho : (s.rail r).opened.contains j = true
  · exact .inl (List.contains_iff_mem.mp ho)
  · exact .inr (mem_newOpen hj hlow hc (by simpa using ho))

/-- The status of one rail in a round of reads (R352). -/
def State.railStatus (s : State) (sts : List VrStatus) (r : Nat) : State :=
  match sts[r]? with
  | none => s
  | some st =>
    let x := s.rail r
    let well := st.ok && !st.fault && decide (x.phases ≤ st.healthy) && (List.range x.phases).all (fun j => SMap.get 0 x.openCnt j == 0)
    s.setRail r { x with healthyAt := if well then (if x.healthyAt = 0 then s.ftime + 1 else x.healthyAt) else 0 }

/-- Regulators 9 to 12 all answer without a fault (R353). -/
def regulatorsClear (sts : List VrStatus) : Bool :=
  (List.range 4).all (fun i => match sts[9 + i]? with
    | some st => st.ok && !st.fault
    | none => false)

theorem State.statusRead_eq {sts : List VrStatus} :
    let u := (List.range 3).foldl (fun s r => s.railStatus sts r) s
    s.statusRead sts = if regulatorsClear sts then u.setPw { u.pw with vr3 := false } else u := by
  rfl

theorem State.railStatus_frame {sts : List VrStatus} : Frame [.pw] s (s.railStatus sts r) := by
  unfold State.railStatus
  split
  · exact .refl
  · exact State.setRail_frame

theorem State.rail_railStatus_ne {q : Nat} {sts : List VrStatus} (h : q ≠ r) : (s.railStatus sts r).rail q = s.rail q := by
  unfold State.railStatus
  split
  · rfl
  · exact State.rail_setRail_ne _ h

theorem State.rail_railStatus {sts : List VrStatus} : ∃ h, (s.railStatus sts r).rail r = { s.rail r with healthyAt := h } := by
  unfold State.railStatus
  split
  · exact ⟨_, rfl⟩
  · exact ⟨_, State.rail_setRail _⟩

theorem State.rail_statusRead {sts : List VrStatus} (q : Nat) :
    (s.statusRead sts).rail q = ((List.range 3).foldl (fun s r => s.railStatus sts r) s).rail q := by
  rw [State.statusRead_eq]
  dsimp only
  split <;> rfl

/-- A round of status reads changes at most the time since when a rail is healthy. -/
theorem State.opened_statusRead {sts : List VrStatus} (hr : r < 3) :
    ((s.statusRead sts).rail r).opened = (s.rail r).opened := by
  obtain ⟨s', -, h1, h2⟩ := rail_of_range (s := s) (f := fun s r => s.railStatus sts r) (P := fun _ => True)
    (fun _ _ _ h => State.rail_railStatus_ne h) (fun _ _ h => h) trivial hr
  obtain ⟨a, ha⟩ := State.rail_railStatus (s := s') (r := r) (sts := sts)
  rw [State.rail_statusRead, h2, ha, h1]

/-- What a round of status reads leaves of a rail that it reads. -/
theorem State.healthyAt_statusRead {sts : List VrStatus} {st : VrStatus} (hr : r < 3) (hst : sts[r]? = some st) :
    let x := s.rail r
    let well := st.ok && !st.fault && decide (x.phases ≤ st.healthy) && (List.range x.phases).all (fun j => SMap.get 0 x.openCnt j == 0)
    ((s.statusRead sts).rail r).healthyAt = if well then (if x.healthyAt = 0 then s.ftime + 1 else x.healthyAt) else 0 := by
  obtain ⟨s', ht, h1, h2⟩ := rail_of_range (s := s) (f := fun s r => s.railStatus sts r) (P := fun u => u.ftime = s.ftime)
    (fun _ _ _ h => State.rail_railStatus_ne h) (fun _ _ h => (State.railStatus_frame .ftime rfl).trans h) rfl hr
  rw [State.rail_statusRead, h2, State.railStatus, hst]
  dsimp only
  rw [State.rail_setRail, h1, ht]

theorem State.statusRead_clear {sts : List VrStatus}
    (h : ∀ i, i < 4 → ∃ st, sts[9 + i]? = some st ∧ st.ok = true ∧ st.fault = false) : (s.statusRead sts).pw.vr3 = false := by
  have hclear : regulatorsClear sts = true := by
    refine List.all_eq_true.mpr fun i hi => ?_
    obtain ⟨st, hst, hok, hf⟩ := h i (List.mem_range.mp hi)
    rw [hst]
    simp [hok, hf]
  rw [State.statusRead_eq]
  dsimp only
  rw [if_pos hclear]
  rfl

/-- The phase currents of one rail, where the sample has them. -/
def State.phasesOf (rd : PmbReading) (s : State) (r : Nat) : State :=
  match rd.phases[r]? with
  | some ps => s.phaseRead r ps
  | none => s

/-- Rail 3 or 4 takes its reading. -/
def State.auxOf (rd : PmbReading) (s : State) (i : Nat) : State :=
  match rd.aux[i]? with
  | some (mv, ma) => s.setRail (3 + i) { s.rail (3 + i) with mv := mv, ma := ma }
  | none => s

theorem execPmbusSample_eq {rd : PmbReading} :
    execPmbusSample rd s =
      .next ((List.range 2).foldl (State.auxOf rd) (((List.range 3).foldl (State.phasesOf rd) s).statusRead rd.status)) := by
  rfl

theorem State.rail_phasesOf_ne {rd : PmbReading} {q : Nat} (h : q ≠ r) : (s.phasesOf rd r).rail q = s.rail q := by
  unfold State.phasesOf
  split
  · exact State.rail_phaseRead_ne h
  · rfl

theorem State.phasesOf_bitsStay {rd : PmbReading} : BitsStay s (s.phasesOf rd r) := by
  unfold State.phasesOf
  split
  · exact State.phaseRead_bitsStay
  · exact .refl

theorem State.rail_auxOf_ne {rd : PmbReading} {q i : Nat} (h : q ≠ 3 + i) : (State.auxOf rd s i).rail q = s.rail q := by
  unfold State.auxOf
  split
  · exact State.rail_setRail_ne _ h
  · rfl

theorem State.auxOf_regs {rd : PmbReading} {i : Nat} : (State.auxOf rd s i).regs = s.regs := by
  unfold State.auxOf
  split <;> rfl

/-- A pass over rails 0 to 2 leaves the others. -/
theorem rail_of_range_ge {f : State → Nat → State} (hf : ∀ s a r, r ≠ a → (f s a).rail r = s.rail r) {n : Nat} (hr : n ≤ r) :
    ((List.range n).foldl f s).rail r = s.rail r := by
  induction n with
  | zero => rfl
  | succ n ih =>
    rw [List.range_succ, List.foldl_append, List.foldl_cons, List.foldl_nil, hf _ _ _ (by omega), ih (by omega)]

/-- A PMBus sample gives rails 3 and 4 their readings. -/
theorem pmbusSample_aux {rd : PmbReading} (ht : execPmbusSample rd s = .next t) {i mv ma : Nat} (hi : i < 2)
    (ha : rd.aux[i]? = some (mv, ma)) : t.rail (3 + i) = { s.rail (3 + i) with mv := mv, ma := ma } := by
  rw [execPmbusSample_eq, Host.Outcome.next.injEq] at ht
  subst ht
  obtain ⟨s', -, h1, h2⟩ := rail_of_pass (s := ((List.range 3).foldl (State.phasesOf rd) s).statusRead rd.status)
    (key := fun i => 3 + i) (f := State.auxOf rd) (P := fun _ => True) (fun _ _ _ h => State.rail_auxOf_ne h)
    (fun _ _ h => h) trivial (xs := List.range 2) (by decide) (List.mem_range.mpr hi)
  rw [h2, State.auxOf, ha]
  dsimp only
  rw [State.rail_setRail, h1, State.rail_statusRead, rail_of_range_ge (fun _ _ _ h => State.rail_railStatus_ne h) (by omega),
    rail_of_range_ge (fun _ _ _ h => State.rail_phasesOf_ne h) (by omega)]

/-- A PMBus sample marks a phase that it finds open a second time. -/
theorem pmbusSample_open {rd : PmbReading} (ht : execPmbusSample rd s = .next t) {ps : List Nat} {j : Nat} (hr : r < 3)
    (hps : rd.phases[r]? = some ps) (hj : j < (s.rail r).phases)
    (hlow : phaseLow (1000 * (s.rail r).icl) (ps.take (s.rail r).phases) j = true) (hc : 1 ≤ SMap.get 0 (s.rail r).openCnt j) :
    j ∈ (t.rail r).opened ∧ ((s.rail r).opened.contains j = false → (t.reg .pw 0 Off.evtRaw).getLsbD 2 = true) := by
  rw [execPmbusSample_eq, Host.Outcome.next.injEq] at ht
  subst ht
  have haux : ∀ u : State, ((List.range 2).foldl (State.auxOf rd) u).rail r = u.rail r := fun u => by
    rw [List.range_succ, List.range_one]
    show (State.auxOf rd (State.auxOf rd u 0) 1).rail r = _
    rw [State.rail_auxOf_ne (by omega), State.rail_auxOf_ne (by omega)]
  have hauxb : ∀ u : State, BitsStay u ((List.range 2).foldl (State.auxOf rd) u) := fun u =>
    .foldl fun _ _ => .of_regs State.auxOf_regs
  have hstat : ∀ u : State, BitsStay u (u.statusRead rd.status) := fun u => .of_frame State.statusRead_frame rfl
  rw [haux, State.opened_statusRead hr]
  suffices h : j ∈ (((List.range 3).foldl (State.phasesOf rd) s).rail r).opened ∧
      ((s.rail r).opened.contains j = false → (((List.range 3).foldl (State.phasesOf rd) s).reg .pw 0 Off.evtRaw).getLsbD 2 = true) from
    ⟨h.1, fun ho => ((hstat _).trans (hauxb _)).reg (pageKey_pw (by decide)) (h.2 ho)⟩
  have hsplit : List.range 3 = List.range r ++ r :: (List.range 3).drop (r + 1) := by
    interval_cases r <;> rfl
  have hlater : ∀ a ∈ (List.range 3).drop (r + 1), r ≠ a := by
    interval_cases r <;> decide
  have hbefore : ((List.range r).foldl (State.phasesOf rd) s).rail r = s.rail r :=
    rail_of_range_ge (fun _ _ _ h => State.rail_phasesOf_ne h) le_rfl
  have hrest : ∀ (xs : List Nat) (u : State), (∀ a ∈ xs, r ≠ a) → (xs.foldl (State.phasesOf rd) u).rail r = u.rail r := by
    intro xs
    induction xs with
    | nil => exact fun _ _ => rfl
    | cons x xs ih =>
      intro u h
      rw [List.foldl_cons, ih _ fun a ha => h a (List.mem_cons_of_mem _ ha), State.rail_phasesOf_ne (h x (List.mem_cons_self ..))]
  rw [hsplit, List.foldl_append, List.foldl_cons, hrest _ _ hlater]
  have hopen := State.phaseRead_open (s := (List.range r).foldl (State.phasesOf rd) s) (r := r) (all := ps) (j := j)
  rw [hbefore] at hopen
  have hread : ∀ u : State, u.phasesOf rd r = u.phaseRead r ps := fun u => by
    rw [State.phasesOf, hps]
  rw [hread]
  obtain ⟨hmem, hev⟩ := hopen hj hlow hc
  exact ⟨hmem, fun ho => (BitsStay.foldl fun _ _ => State.phasesOf_bitsStay).reg (pageKey_pw (by decide)) (hev ho)⟩

/-- The fast loop sets the duty of a rail that has an estimate (R345). -/
theorem currentFastTick_duty {est : List Nat} {e : Nat} (ht : execCurrentFastTick est s = .next t) (hr : r < 3)
    (he : est[r]? = some e) :
    (t.rail r).duty = dutyStep (s.capI r) ((s.rail r).g.1 * e) (s.rail r).g.2 (s.rail r).duty := by
  rw [execCurrentFastTick, Host.Outcome.next.injEq] at ht
  subst ht
  obtain ⟨s', -, h1, h2⟩ := rail_of_range (s := s) (P := fun _ => True) (f := fun s r =>
    match est[r]? with
    | none => s
    | some e => s.setRail r { s.rail r with duty := dutyStep (s.capI r) ((s.rail r).g.1 * e) (s.rail r).g.2 (s.rail r).duty })
    (fun s a r h => by
      dsimp only
      split
      · rfl
      · exact State.rail_setRail_ne _ h) (fun _ _ h => h) trivial hr
  have hcap : s'.capI r = s.capI r := State.capI_congr rfl (by rw [h1]) (by rw [h1]) (by rw [h1]) (by rw [h1])
  rw [he] at h2
  dsimp only at h2
  rw [State.rail_setRail, hcap, h1] at h2
  exact congrArg PwRail.duty h2

theorem dutyStep_cases {cap n d duty : Nat} :
    (cap * d < n → dutyStep cap n d duty = max 1 (16 * (cap * d) / n)) ∧
    (n ≤ cap * d → dutyStep cap n d duty = if duty < 16 ∧ n * (duty + 1) ≤ cap * d * duty then duty + 1 else duty) := by
  unfold dutyStep
  refine ⟨fun h => ?_, fun h => ?_⟩
  · rw [if_pos h, Nat.mul_assoc]
  · rw [if_neg (by omega)]

/-! Umbels: margin, droop, temperature. -/

theorem State.pwUmb_of_umbs (h : t.pw.umbs = s.pw.umbs) (u : Nat) : t.pwUmb u = s.pwUmb u := by
  unfold State.pwUmb
  rw [h]

/-- Setting a rail's voltage changes rails alone. -/
theorem State.setVolt_umbs {v : Nat} : (s.setVolt r v).pw.umbs = s.pw.umbs := by
  unfold State.setVolt
  dsimp only
  split
  · rfl
  · split <;> rfl

theorem State.retune_umbs : s.retune.pw.umbs = s.pw.umbs := by
  have hfold : ∀ (xs : List Nat) (u : State), (xs.foldl (fun s r => s.setVolt r (s.railNeed r)) u).pw.umbs = u.pw.umbs := by
    intro xs
    induction xs with
    | nil => exact fun _ => rfl
    | cons x xs ih => exact fun u => (ih _).trans State.setVolt_umbs
  unfold State.retune
  split
  · rfl
  · exact hfold _ _

@[simp] theorem State.pwUmb_retune {u : Nat} : s.retune.pwUmb u = s.pwUmb u := State.pwUmb_of_umbs State.retune_umbs u

/-- The margin loop's sample (R341): one more for the entry, its trim, and the count of high samples. -/
theorem marginLoopTick_cases {u : UmbelId} {slack : Slack} (hst : (s.pwUmb u.val).state = 2) (htrip : s.pw.trip = false) :
    let x := s.pwUmb u.val
    let i := vfEntry u.val x.freq
    let n := min 64 (SMap.get 0 x.samples i + 1)
    let tr := SMap.get 0 x.trim i
    ∃ t high, execMarginLoopTick u slack s = .next t ∧ (∀ v, v ≠ u.val → t.pwUmb v = s.pwUmb v) ∧
      t.pwUmb u.val = { x with
        samples := SMap.put 0 x.samples i n, high := high
        trim := if n < 64 then x.trim else if slack = .low then SMap.put 0 x.trim i (tr - 1)
          else if slack = .high ∧ 7 ≤ x.high then SMap.put 0 x.trim i (min 12 (tr + 1)) else x.trim } := by
  unfold execMarginLoopTick
  simp only [hst, htrip, ne_eq, not_true_eq_false, Bool.false_eq_true, or_self, ↓reduceIte]
  generalize s.pwUmb u.val = x
  split
  case isTrue hn => exact ⟨_, _, rfl, fun v hv => State.pwUmb_setPwUmb_ne _ hv, State.pwUmb_setPwUmb ..⟩
  case isFalse hn =>
    split
    case isTrue hl =>
      exact ⟨_, 0, rfl, fun v hv => State.pwUmb_retune.trans (State.pwUmb_setPwUmb_ne _ hv),
        State.pwUmb_retune.trans (State.pwUmb_setPwUmb ..)⟩
    case isFalse hl =>
      have hhigh : 8 ≤ (if slack = .high then x.high + 1 else 0) ↔ slack = .high ∧ 7 ≤ x.high := by
        split <;> simp_all
      simp only [hhigh]
      split
      · exact ⟨_, 0, rfl, fun v hv => State.pwUmb_retune.trans (State.pwUmb_setPwUmb_ne _ hv),
          State.pwUmb_retune.trans (State.pwUmb_setPwUmb ..)⟩
      · exact ⟨_, _, rfl, fun v hv => State.pwUmb_setPwUmb_ne _ hv, State.pwUmb_setPwUmb ..⟩

theorem State.pwUmb_stopClocks {n v : Nat} :
    ((List.range n).foldl (fun s v => s.setPwUmb v { s.pwUmb v with freq := 0 }) s).pwUmb v =
      if v < n then { s.pwUmb v with freq := 0 } else s.pwUmb v := by
  induction n with
  | zero => rfl
  | succ n ih =>
    rw [List.range_succ, List.foldl_append, List.foldl_cons, List.foldl_nil]
    by_cases hv : v = n
    · subst hv
      rw [State.pwUmb_setPwUmb, ih]
      simp
    · rw [State.pwUmb_setPwUmb_ne _ hv, ih]
      have : v < n + 1 ↔ v < n := by omega
      simp only [this]

/-- Every aclk stops (R357). -/
def State.stopClocks (s : State) : State := (List.range 32).foldl (fun s v => s.setPwUmb v { s.pwUmb v with freq := 0 }) s

/-- Rails 0 to 2 go to their minimum (R357). -/
def State.dropRails (s : State) : State :=
  (List.range 3).foldl (fun s r => let v := if r = 2 then 600 else 550; s.setRail r { s.rail r with set := v, reached := v, raiseAt := 0 }) s

/-- The clocks and rails of a trip, before its event and report. -/
def State.tripStop (s : State) : State := (s.setPw { s.pw with trip := true }).stopClocks.dropRails

theorem State.tripNow_eq {u : Nat} :
    s.tripNow u = if s.pw.trip then s else (s.tripStop.event .pw 0 7).report Code.thermtrip (0x200 + u) 0 0 := rfl

theorem State.tripStop_frame : Frame [.pw] s s.tripStop :=
  (State.setPw_frame.trans (Frame.foldl fun _ _ => State.setPwUmb_frame)).trans (Frame.foldl fun _ _ => State.setRail_frame)

theorem State.dropRails_pw : s.dropRails.pw.umbs = s.pw.umbs ∧ s.dropRails.pw.trip = s.pw.trip := by
  unfold State.dropRails
  generalize List.range 3 = xs
  induction xs generalizing s with
  | nil => exact ⟨rfl, rfl⟩
  | cons x xs ih => exact ih

theorem State.stopClocks_trip : s.stopClocks.pw.trip = s.pw.trip := by
  unfold State.stopClocks
  generalize List.range 32 = xs
  induction xs generalizing s with
  | nil => rfl
  | cons x xs ih => exact ih

theorem State.pwUmb_tripStop {v : Nat} : s.tripStop.pwUmb v = if v < 32 then { s.pwUmb v with freq := 0 } else s.pwUmb v := by
  rw [State.tripStop, State.pwUmb_of_umbs State.dropRails_pw.1]
  exact State.pwUmb_stopClocks

theorem State.tripStop_trip : s.tripStop.pw.trip = true := by
  rw [State.tripStop, State.dropRails_pw.2, State.stopClocks_trip]
  rfl

theorem State.launchOf_of_frame {ps : List Piece} {src : Nat} (h : Frame ps s t) (hfl : ps.contains .fls = false)
    (hfe : ps.contains .fe = false) : t.launchOf src = s.launchOf src := by
  have h1 : t.fls = s.fls := h .fls hfl
  have h2 : t.fe = s.fe := h .fe hfe
  unfold State.launchOf State.fl
  rw [h1, h2]

/-- What a trip leaves (R8, R357). -/
theorem State.tripNow_effect {u : Nat} :
    let t := s.tripNow u
    t.pw.trip = true ∧ BitsStay s t ∧ (∀ v, t.pwUmb v = s.pwUmb v ∨ t.pwUmb v = { s.pwUmb v with freq := 0 }) ∧
      (s.pw.trip = false → (t.reg .pw 0 Off.evtRaw).getLsbD 7 = true ∧ (∀ v, v < 32 → (t.pwUmb v).freq = 0) ∧
        t.reports = s.reports ++ [⟨Code.thermtrip, 0x200 + u, 0, 0, s.launchOf (0x200 + u)⟩]) := by
  dsimp only
  rw [State.tripNow_eq]
  split
  case isTrue htrip => exact ⟨htrip, .refl, fun v => .inl rfl, fun h => by rw [htrip] at h; cases h⟩
  case isFalse htrip =>
    have hframe : Frame [.pw, .regs, .hostOut] s (s.tripStop.event .pw 0 7) :=
      (State.tripStop_frame.mono rfl).trans (State.event_frame.mono rfl)
    have hpw : ((s.tripStop.event .pw 0 7).report Code.thermtrip (0x200 + u) 0 0).pw = s.tripStop.pw := State.event_pw
    have humb : ∀ v, ((s.tripStop.event .pw 0 7).report Code.thermtrip (0x200 + u) 0 0).pwUmb v =
        if v < 32 then { s.pwUmb v with freq := 0 } else s.pwUmb v := fun v => by
      rw [State.pwUmb_of_umbs (congrArg Power.umbs hpw), State.pwUmb_tripStop]
    refine ⟨by rw [hpw, State.tripStop_trip], ?_, fun v => ?_, fun _ => ⟨?_, fun v hv => ?_, ?_⟩⟩
    · exact (BitsStay.of_frame State.tripStop_frame rfl).trans (State.event_bitsStay.trans (BitsStay.of_frame State.report_frame rfl))
    · rw [humb]
      split
      · exact .inr rfl
      · exact .inl rfl
    · exact State.event_sets_evtRaw (s := s.tripStop) (pageKey_pw (by decide)) (by decide)
    · rw [humb, if_pos hv]
    · show (s.tripStop.event .pw 0 7).reports ++ _ = _
      rw [hframe .reports rfl, State.launchOf_of_frame hframe rfl rfl]

/-- The reading of a junction and what follows at 105 °C (R356), before a trip. -/
def State.junction (s : State) (u q : Nat) : State :=
  let x := s.pwUmb u
  let hot := decide (420 ≤ q)
  let s := s.setPwUmb u { x with
    temp := q, fTherm := thermStep q x.fTherm, hot := if hot then (if x.hot = 0 then s.ftime + 1 else x.hot) else 0 }
  if hot then (s.orReg .pw 0 0x110 0x200).event .pw 0 4 else s

theorem execThermalTick_eq {u : UmbelId} {q : Nat} :
    execThermalTick u q s = .next (if 460 ≤ q then (s.junction u.val q).tripNow u.val else s.junction u.val q) := rfl

theorem State.junction_frame {u q : Nat} : Frame [.pw, .regs, .hostOut] s (s.junction u q) := by
  unfold State.junction
  dsimp only
  split
  · exact (State.setPwUmb_frame.mono rfl).trans ((State.orReg_frame.mono rfl).trans (State.event_frame.mono rfl))
  · exact State.setPwUmb_frame.mono rfl

theorem State.junction_pw {u q : Nat} :
    (s.junction u q).pw = (s.setPwUmb u { s.pwUmb u with
      temp := q, fTherm := thermStep q (s.pwUmb u).fTherm
      hot := if 420 ≤ q then (if (s.pwUmb u).hot = 0 then s.ftime + 1 else (s.pwUmb u).hot) else 0 }).pw := by
  unfold State.junction
  simp only [decide_eq_true_eq]
  split
  · rw [State.event_pw, State.orReg_pw]
  · rfl

theorem State.pwUmb_junction {u q : Nat} :
    (s.junction u q).pwUmb u = { s.pwUmb u with
      temp := q, fTherm := thermStep q (s.pwUmb u).fTherm
      hot := if 420 ≤ q then (if (s.pwUmb u).hot = 0 then s.ftime + 1 else (s.pwUmb u).hot) else 0 } := by
  rw [State.pwUmb_of_umbs (congrArg Power.umbs State.junction_pw), State.pwUmb_setPwUmb]

theorem State.pwUmb_junction_ne {u v q : Nat} (h : v ≠ u) : (s.junction u q).pwUmb v = s.pwUmb v := by
  rw [State.pwUmb_of_umbs (congrArg Power.umbs State.junction_pw), State.pwUmb_setPwUmb_ne _ h]

/-- At 105 °C the reading sets its error bit, with an event (R356). -/
theorem State.junction_hot {u q : Nat} (h : 420 ≤ q) :
    ((s.junction u q).reg .pw 0 Off.evtRaw).getLsbD 4 = true ∧ ((s.junction u q).reg .pw 0 0x110).getLsbD 9 = true := by
  unfold State.junction
  simp only [decide_eq_true_eq, if_pos h]
  refine ⟨State.event_sets_evtRaw (pageKey_pw (by decide)) (by decide), ?_⟩
  refine State.event_bitsStay.reg (pageKey_pw (by decide)) ?_
  rw [State.reg_orReg, BitVec.getLsbD_or]
  exact Bool.or_eq_true_iff.mpr (.inr (by decide))

open Sys2Proof.Claims

theorem thermalTick_effect {s : State} {u : UmbelId} {q : Nat} :
    let x := s.pwUmb u.val
    ∃ t, exec (.thermalTick u q) s = .next t ∧ Frame (.pw :: .reports :: evtPieces) s t ∧
      (t.pwUmb u.val).temp = q ∧
      (t.pwUmb u.val).fTherm = (if q < 372 then min 60 (x.fTherm + 1) else if q < 380 then x.fTherm
        else if q < 420 then max 16 (x.fTherm - 1) else 16) ∧
      (q < 420 → (t.pwUmb u.val).hot = 0) ∧ (420 ≤ q → (t.pwUmb u.val).hot ≠ 0 ∧ PwEvent t 4 ∧
        (t.reg .pw 0 0x110).getLsbD 9 = true) ∧
      (q < 460 → OnlyPwUmb u.val s t ∧ t.pw.trip = s.pw.trip ∧ t.reports = s.reports) ∧
      (460 ≤ q → t.pw.trip = true ∧ (s.pw.trip = false → PwEvent t 7 ∧ (∀ v, v < 32 → (t.pwUmb v).freq = 0) ∧
        t.reports = s.reports ++ [⟨Code.thermtrip, 0x200 + u.val, 0, 0, s.launchOf (0x200 + u.val)⟩])) := by
  have hj := State.pwUmb_junction (s := s) (u := u.val) (q := q)
  have htrip : (s.junction u.val q).pw.trip = s.pw.trip := by
    rw [State.junction_pw]
    rfl
  have hjreports : (s.junction u.val q).reports = s.reports := State.junction_frame .reports rfl
  have hhot : ∀ f, 420 ≤ q → { s.pwUmb u.val with
      freq := f, temp := q, fTherm := thermStep q (s.pwUmb u.val).fTherm
      hot := if 420 ≤ q then (if (s.pwUmb u.val).hot = 0 then s.ftime + 1 else (s.pwUmb u.val).hot) else 0 }.hot ≠ 0 := by
    intro _ h
    dsimp only
    rw [if_pos h]
    split <;> omega
  refine ⟨_, execThermalTick_eq, (frame_of_next execThermalTick_eq execThermalTick_frame).mono rfl, ?_⟩
  by_cases h460 : 460 ≤ q
  · obtain ⟨ht, hbits, humb, hfresh⟩ := State.tripNow_effect (s := s.junction u.val q) (u := u.val)
    rw [if_pos h460]
    refine ⟨?_, ?_, fun h => by omega, fun h => ⟨?_, ?_, ?_⟩, fun h => by omega, fun _ => ⟨ht, fun hs => ?_⟩⟩
    · obtain h | h := humb u.val <;> rw [h, hj]
    · obtain h | h := humb u.val <;> rw [h, hj] <;> rfl
    · obtain h' | h' := humb u.val <;> rw [h', hj] <;> exact hhot _ h
    · exact hbits.reg (pageKey_pw (by decide)) (State.junction_hot h).1
    · exact hbits.reg (pageKey_pw (by decide)) (State.junction_hot h).2
    · rw [htrip, hjreports, State.launchOf_of_frame State.junction_frame rfl rfl] at hfresh
      exact hfresh hs
  · rw [if_neg h460]
    refine ⟨by rw [hj], by rw [hj]; rfl, fun h => ?_, fun h => ⟨?_, State.junction_hot h⟩, fun _ => ?_, fun h => by omega⟩
    · rw [hj]
      exact if_neg (by omega)
    · rw [hj]
      exact hhot _ h
    · exact ⟨fun v hv => State.pwUmb_junction_ne hv, htrip, hjreports⟩

/-- The alarm and the stretch of an umbel's clock (R343). -/
theorem cpmAlarm_effect {s : State} {u : UmbelId} :
    let x := s.pwUmb u.val
    (x.state = 2 → ∃ t, exec (.cpmAlarm u true) s = .next t ∧ Frame [.pw] s t ∧
      t.pwUmb u.val = { x with alarm := true, stretch := if x.alarm then 2 else max 1 x.stretch } ∧ OnlyPwUmb u.val s t) ∧
    (x.state = 2 → ∃ t, exec (.cpmAlarm u false) s = .next t ∧ Frame [.pw] s t ∧
      t.pwUmb u.val = { x with alarm := false } ∧ OnlyPwUmb u.val s t) ∧
    (x.alarm = false → ∃ t, exec (.stretchEnd u) s = .next t ∧ Frame [.pw] s t ∧
      t.pwUmb u.val = { x with stretch := 0 } ∧ OnlyPwUmb u.val s t) := by
  have hset : ∀ y, Frame [.pw] s (s.setPwUmb u.val y) ∧ (s.setPwUmb u.val y).pwUmb u.val = y ∧
      OnlyPwUmb u.val s (s.setPwUmb u.val y) := fun y =>
    ⟨State.setPwUmb_frame, State.pwUmb_setPwUmb .., fun v hv => State.pwUmb_setPwUmb_ne y hv⟩
  refine ⟨fun h => ⟨_, ?_, hset _⟩, fun h => ⟨_, ?_, hset _⟩, fun h => ⟨_, ?_, hset _⟩⟩
  · show execCpmAlarm u true s = _
    simp [execCpmAlarm, h]
  · show execCpmAlarm u false s = _
    simp [execCpmAlarm, h]
  · show execStretchEnd u s = _
    simp [execStretchEnd, h]

end Sys2Proof.Machine

open Sys2Proof Sys2Proof.Machine Sys2Proof.Claims

/-- Settles O44, command by command. -/
theorem samplesDriveTheControlLoops : Obligations.SamplesDriveTheControlLoops := by
  intro s
  refine ⟨fun rd hn => ?_, fun rd => ?_, fun sts => ?_, fun est => ?_, fun u slack hst htrip => ?_, fun u => ?_, fun l lane hup => ?_⟩
  · refine ⟨_, execAvsSample_eq, (frame_of_next execAvsSample_eq execAvsSample_frame).mono rfl, ?_⟩
    obtain ⟨hs, he, hf, hr⟩ := avsSample_loop (s := s) (rd := rd) execAvsSample_eq
    refine ⟨hs, he, fun y hy h3 h4 => avsSample_rail hn execAvsSample_eq hy h3 h4, ?_⟩
    dsimp only
    rw [hf, hr]
    exact powerStep_cases
  · refine ⟨_, execPmbusSample_eq, (frame_of_next execPmbusSample_eq execPmbusSample_frame).mono rfl, ?_⟩
    exact ⟨fun i mv ma hi ha => pmbusSample_aux execPmbusSample_eq hi ha,
      fun r ps j hr hps hj hlow hc => pmbusSample_open execPmbusSample_eq hr hps hj hlow hc⟩
  · refine ⟨_, rfl, State.statusRead_frame, State.statusRead_clear, fun r st hr hst hbad => ?_, fun r st hr hst hok hf hph hopen => ?_⟩
    · rw [State.healthyAt_statusRead hr hst, if_neg]
      obtain h | h := hbad <;> simp [h]
    · rw [State.healthyAt_statusRead hr hst, if_pos]
      simpa [hok, hf, hph] using hopen
  · refine ⟨_, rfl, frame_of_next rfl execCurrentFastTick_frame, fun r e hr he => ?_⟩
    rw [currentFastTick_duty rfl hr he]
    exact dutyStep_cases
  · obtain ⟨t, high, ht, honly, hu⟩ := marginLoopTick_cases (slack := slack) hst htrip
    refine ⟨t, ht, frame_of_next ht execMarginLoopTick_frame, honly, ?_, ?_⟩ <;> rw [hu]
    · exact SMap.get_put_same
    · dsimp only
      split_ifs <;> simp
  · obtain ⟨hon, hoff, hend⟩ := cpmAlarm_effect (s := s) (u := u)
    refine ⟨hon, hoff, hend, fun q => thermalTick_effect, fun hhot hlong => ⟨_, ?_, rfl, State.report_frame⟩⟩
    show execDieOvertemp u s = _
    simp only [execDieOvertemp, hhot, hlong, ne_eq, not_false_eq_true, and_self, ↓reduceIte]
  · refine ⟨s.setPw { s.pw with eq := SMap.put 0 s.pw.eq (l.val * 8 + lane.val) (min 64 (SMap.get 0 s.pw.eq (l.val * 8 + lane.val) + 1)) },
      ?_, State.setPw_frame, SMap.get_put_same⟩
    show execLinkEqTick l lane s = _
    exact congrArg Host.Outcome.next (if_pos hup)

end

section
/-! SUPPORT. What the end of a launch leaves alone: the links' states, the stacks' queues, the registers of the GL, UMC and PW
pages, the retirement list, the flows closed before, the copy engine's commands. -/

namespace Sys2Proof.Machine

variable {s t u : State}

/-- The GL, UMC and PW blocks, whose registers no launch's end changes. -/
def Blk.low : Blk → Bool
  | .gl => true
  | .umc => true
  | .pw => true
  | _ => false

/-- A key of their pages. -/
def LowKey (k : Nat) : Prop := k / 4096 = 0 ∨ k / 4096 = 2 ∨ k / 4096 = 3

/-- Nothing changes of the links' states, the queues and sensors of the stacks, the low pages' registers, the retirement list and the
copy engine's commands, and a flow that was closed stays closed. -/
structure Aside (s t : State) : Prop where
  links : ∀ l, (t.link l).state = (s.link l).state
  stks : ∀ k, (t.stk k).srq = (s.stk k).srq ∧ (t.stk k).filling = (s.stk k).filling ∧ (t.stk k).temp = (s.stk k).temp
  low : ∀ k, LowKey k → t.rawReg k = s.rawReg k
  ret : t.hbm.ret = s.hbm.ret
  closed : ∀ e ∈ s.fab.closedFlows, e ∈ t.fab.closedFlows
  copies : t.fe.copies = s.fe.copies

theorem Aside.refl : Aside s s := ⟨fun _ => rfl, fun _ => ⟨rfl, rfl, rfl⟩, fun _ _ => rfl, rfl, fun _ h => h, rfl⟩

theorem Aside.trans (h : Aside s t) (k : Aside t u) : Aside s u where
  links l := (k.links l).trans (h.links l)
  stks n := ⟨(k.stks n).1.trans (h.stks n).1, (k.stks n).2.1.trans (h.stks n).2.1, (k.stks n).2.2.trans (h.stks n).2.2⟩
  low n hn := (k.low n hn).trans (h.low n hn)
  ret := k.ret.trans h.ret
  closed e he := k.closed e (h.closed e he)
  copies := k.copies.trans h.copies

/-- An operation after those that came before: a proof goes from the last operation to the first. -/
theorem Aside.step (h : Aside t u) (k : Aside s t) : Aside s u := k.trans h

theorem Aside.foldl {α : Type} {f : State → α → State} {xs : List α} (h : ∀ s x, Aside s (f s x)) : Aside s (xs.foldl f s) := by
  induction xs generalizing s with
  | nil => exact .refl
  | cons x xs ih => exact (h s x).trans ih

theorem Aside.ite {c : Prop} [Decidable c] {a b : State} (ha : Aside s a) (hb : Aside s b) : Aside s (if c then a else b) := by
  split
  · exact ha
  · exact hb

/-- None of the pieces that `Aside` speaks of. -/
def Piece.aside (ps : List Piece) : Bool := !ps.contains .regs && !ps.contains .hbm && !ps.contains .fab && !ps.contains .fe

/-- Registers apart, nothing that `Aside` speaks of changes. -/
theorem Aside.of_low {ps : List Piece} (h : Frame ps s t) (hd : Piece.aside (ps.filter (· ≠ .regs)) = true)
    (hl : ∀ k, LowKey k → t.rawReg k = s.rawReg k) : Aside s t := by
  have hc : ∀ p, p ≠ Piece.regs → (ps.filter (· ≠ .regs)).contains p = false → ps.contains p = false := by
    intro p hp h
    simpa [hp] using h
  simp only [Piece.aside, Bool.and_eq_true, Bool.not_eq_true'] at hd
  obtain ⟨⟨⟨-, hhbm⟩, hfab⟩, hfe⟩ := hd
  have h1 : t.hbm = s.hbm := h .hbm (hc _ (by decide) hhbm)
  have h2 : t.fab = s.fab := h .fab (hc _ (by decide) hfab)
  have h3 : t.fe = s.fe := h .fe (hc _ (by decide) hfe)
  refine ⟨fun l => ?_, fun k => ?_, hl, by rw [h1], fun e he => by rwa [h2], by rw [h3]⟩
  · unfold State.link
    rw [h2]
  · unfold State.stk
    rw [h1]
    exact ⟨rfl, rfl, rfl⟩

theorem Aside.of_frame {ps : List Piece} (h : Frame ps s t) (hd : Piece.aside ps = true) : Aside s t := by
  have hregs : ps.contains .regs = false := by
    simp only [Piece.aside, Bool.and_eq_true, Bool.not_eq_true'] at hd
    exact hd.1.1.1
  have hfilter : ps.filter (· ≠ .regs) = ps :=
    List.filter_eq_self.mpr fun p hp => decide_eq_true fun he => by
      subst he
      rw [List.contains_iff_mem.mpr hp] at hregs
      cases hregs
  refine .of_low h (by rwa [hfilter]) fun k _ => State.rawReg_of_regs (h .regs hregs) k

theorem Aside.frame {ps : List Piece} (h : Frame ps t u) (hd : Piece.aside ps = true) (k : Aside s t) : Aside s u :=
  k.trans (.of_frame h hd)

/-! Registers. -/

theorem lowKey_ne_regKey {b : Blk} {n off k : Nat} (hb : b.low = false) (ho : off < 4096) (hk : LowKey k) :
    k ≠ State.regKey b n off := by
  have hpage : ∀ m, b.page m ≠ 0 ∧ b.page m ≠ 2 ∧ b.page m ≠ 3 := by
    intro m
    cases b <;> simp_all [Blk.low, Blk.page] <;> omega
  have hkey : ∀ m, k ≠ regOff b m off := by
    intro m he
    have := hpage m
    rw [he] at hk
    unfold LowKey at hk
    rw [regOff_page ho] at hk
    omega
  unfold State.regKey
  split
  · exact hkey 0
  · exact hkey n

theorem State.setReg_aside {b : Blk} {n off : Nat} {v : W32} (hb : b.low = false) (ho : off < 4096) :
    Aside s (s.setReg b n off v) :=
  .of_low State.setReg_frame rfl fun _ hk => State.rawReg_setRaw_ne _ _ (lowKey_ne_regKey hb ho hk)

theorem State.orReg_aside {b : Blk} {n off : Nat} {v : W32} (hb : b.low = false) (ho : off < 4096) :
    Aside s (s.orReg b n off v) := State.setReg_aside hb ho

theorem State.addReg_aside {b : Blk} {n off v : Nat} (hb : b.low = false) (ho : off < 4096) :
    Aside s (s.addReg b n off v) := State.setReg_aside hb ho

theorem LowKey.pageKey {k : Nat} (h : LowKey k) : PageKey k := by
  unfold LowKey at h
  unfold PageKey
  omega

theorem State.msix_aside {v : Nat} : Aside s (s.msix v) :=
  .of_low State.msix_frame rfl fun _ hk => State.rawReg_msix hk.pageKey

theorem State.event_aside {b : Blk} {n e : Nat} (hb : b.low = false) : Aside s (s.event b n e) :=
  .of_low State.event_frame rfl fun _ hk =>
    State.rawReg_event hk.pageKey (lowKey_ne_regKey hb (by decide) hk) (lowKey_ne_regKey hb (by decide) hk)

theorem State.sticky_aside {b : Blk} {n off bit : Nat} {e : Option Nat} (hb : b.low = false) (ho : off < 4096) :
    Aside s (s.sticky b n off bit e) := by
  unfold State.sticky
  dsimp only
  split
  · exact (State.orReg_aside hb ho).trans (State.event_aside hb)
  · exact State.orReg_aside hb ho

theorem errLog_lt (n o : Nat) (ho : o ≤ 12) : Off.errLog + 16 * (n % 4) + o < 4096 := by
  have : Off.errLog = 64 := rfl
  omega

theorem State.logErr_aside {b : Blk} {n code addr src info : Nat} (hb : b.low = false) :
    Aside s (s.logErr b n code addr src info) := by
  unfold State.logErr
  dsimp only
  refine Aside.frame (Frame.set_logPtr (ps := [.logPtr]) rfl .refl) rfl ?_
  refine Aside.step (State.setReg_aside hb (errLog_lt _ _ (by decide))) ?_
  refine Aside.step (State.setReg_aside hb (errLog_lt _ _ (by decide))) ?_
  refine Aside.step (State.setReg_aside hb (errLog_lt _ _ (by decide))) ?_
  refine Aside.step (State.setReg_aside hb (errLog_lt _ 0 (by decide))) ?_
  have hcnt : ∀ v, Aside s (s.setReg b n Off.errCnt v) := fun _ => State.setReg_aside hb (by decide)
  exact .ite (Aside.step (State.orReg_aside hb (by decide)) (hcnt _)) (hcnt _)

/-! The stacks' counters and the front end's writes. -/

theorem State.setStk_aside {k : Nat} {x : Stack} (h1 : x.srq = (s.stk k).srq) (h2 : x.filling = (s.stk k).filling)
    (h3 : x.temp = (s.stk k).temp) : Aside s (s.setStk k x) := by
  refine ⟨fun _ => rfl, fun j => ?_, fun _ _ => rfl, rfl, fun _ h => h, rfl⟩
  by_cases hj : j = k
  · subst hj
    rw [State.stk_setStk]
    exact ⟨h1, h2, h3⟩
  · rw [State.stk_setStk_ne _ _ hj]
    exact ⟨rfl, rfl, rfl⟩

theorem State.cnt_aside {b : Blk} {n off v : Nat} : Aside s (s.cnt b n off v) := .of_frame State.cnt_frame rfl

theorem State.hbmBytes_aside {p : Nat} {wr : Bool} : Aside s (s.hbmBytes p wr) := by
  unfold State.hbmBytes State.stkTouch
  dsimp only
  refine Aside.frame (Frame.set_cnt64 (ps := [.cnt64]) rfl .refl) rfl ?_
  exact Aside.step State.cnt_aside (State.setStk_aside rfl rfl rfl)

theorem State.putPhys_aside {a p : Nat} {l : Line} {poison : Bool} : Aside s (s.putPhys a p l poison) :=
  ⟨fun _ => rfl, fun _ => ⟨rfl, rfl, rfl⟩, fun _ _ => rfl, rfl, fun _ h => h, rfl⟩

theorem State.hbmWrite_aside {a : Nat} {l : Line} {poison : Bool} : Aside s (s.hbmWrite a l poison) := by
  unfold State.hbmWrite
  have h : Aside s ((s.hbmBytes (s.phys a) true).putPhys a (s.phys a) l poison) :=
    Aside.step State.putPhys_aside State.hbmBytes_aside
  exact .ite h (Aside.step State.putPhys_aside (Aside.step State.hbmBytes_aside h))

theorem State.countTag_aside {q : Req} {a p : Nat} : Aside s (s.countTag q a p) := by
  unfold State.countTag
  exact Aside.step (State.sticky_aside rfl (by decide))
    (Aside.step (State.logErr_aside rfl) (State.addReg_aside rfl (by decide)))

theorem State.hbmRead_clean_aside {q : Req} {a : Nat} : Aside s (s.hbmRead q a .clean).2 := by
  unfold State.hbmRead State.physRead State.decodeLine
  have h : Aside s ((List.range (s.lineReads a (s.phys a) .clean)).foldl (fun u _ => u.hbmBytes (s.phys a) false) s) :=
    .foldl fun _ _ => State.hbmBytes_aside
  dsimp only
  split
  · exact h
  · exact .ite h (Aside.step State.countTag_aside h)

theorem State.hbmPartial_clean_aside {q : Req} {a mask : Nat} {l : Line} {poison : Bool} :
    Aside s (s.hbmPartial q a mask l poison .clean) := by
  unfold State.hbmPartial
  refine .ite ?_ (Aside.step State.hbmWrite_aside State.hbmRead_clean_aside)
  exact Aside.step (State.sticky_aside rfl (by decide)) (Aside.step (State.logErr_aside rfl)
    (Aside.step (State.addReg_aside rfl (by decide)) (Aside.step State.hbmWrite_aside State.hbmRead_clean_aside)))

theorem State.addrErr_aside {q : Req} {a : Nat} {w : Bool} (hq : q.blk.low = false) : Aside s (s.addrErr q a w) :=
  State.logErr_aside hq

theorem State.memPutN_aside {n a v : Nat} : Aside s (s.memPutN n a v) := by
  unfold State.memPutN State.hbmPutN
  dsimp only
  split
  · exact .ite (State.addrErr_aside rfl) State.hbmPartial_clean_aside
  · exact Aside.step State.cnt_aside (.of_frame State.hostPut_frame rfl)
  · exact Aside.frame State.sramBytes_frame rfl (.frame (Frame.set_sram (ps := [.sram]) rfl .refl) rfl .refl)
  · exact Aside.frame State.sramBytes_frame rfl (.frame (Frame.set_sram (ps := [.sram]) rfl .refl) rfl .refl)
  · exact State.addrErr_aside rfl

theorem State.ringSync_aside {r : Nat} : Aside s (s.ringSync r) := State.memPutN_aside

/-! Rings and slots of the front end. -/

theorem State.setRing_aside {r : Nat} {x : Ring} : Aside s (s.setRing r x) :=
  ⟨fun _ => rfl, fun _ => ⟨rfl, rfl, rfl⟩, fun _ _ => rfl, rfl, fun _ h => h, rfl⟩

theorem State.modRing_aside {r : Nat} {f : Ring → Ring} : Aside s (s.modRing r f) := State.setRing_aside

theorem State.setLsl_aside {k : Nat} {x : LSlot} : Aside s (s.setLsl k x) :=
  ⟨fun _ => rfl, fun _ => ⟨rfl, rfl, rfl⟩, fun _ _ => rfl, rfl, fun _ h => h, rfl⟩

theorem State.trDrop_aside {time : Nat} : Aside s (s.trDrop time) := by
  unfold State.trDrop
  have h : Aside s ((s.setTr { s.tr with d := s.tr.d + 1, first := if s.tr.d = 0 then time else s.tr.first, last := time }).addReg .tr 0 0x114 1) :=
    Aside.step (State.addReg_aside rfl (by decide)) (.of_frame State.setTr_frame rfl)
  exact .ite (Aside.step (State.event_aside rfl) h) h

theorem State.trace_aside {q ty flags source lid slot payload : Nat} : Aside s (s.trace q ty flags source lid slot payload) := by
  unfold State.trace
  exact .ite .refl (.ite State.trDrop_aside (.of_frame State.setTr_frame rfl))

theorem State.queueBuilds_aside {q : Nat} {e : SeqEntry} {g lo hi : Nat} : Aside s (s.queueBuilds q e g lo hi) := by
  unfold State.queueBuilds
  exact .foldl fun _ _ => State.setStk_aside rfl rfl rfl

theorem State.afterLaunch_aside {k : Nat} : Aside s (s.afterLaunch k) := by
  unfold State.afterLaunch
  have hlens : ∀ (u : State) xs, Aside u { u with fe := { u.fe with lens := xs } } := fun _ _ =>
    ⟨fun _ => rfl, fun _ => ⟨rfl, rfl, rfl⟩, fun _ _ => rfl, rfl, fun _ h => h, rfl⟩
  exact .foldl fun s b => Aside.step (hlens _ _) State.queueBuilds_aside

theorem State.slotFree'_aside {k : Nat} {q : Bool} : Aside s (s.slotFree' k q) := State.setLsl_aside

theorem State.writeRec_aside {r : Nat} {h : HeldRec} : Aside s (s.writeRec r h) := by
  unfold State.writeRec
  dsimp only
  split
  · refine .ite (Aside.step State.msix_aside ?_) ?_ <;>
      exact Aside.step State.trace_aside (Aside.step State.ringSync_aside (Aside.step State.setRing_aside State.memPutN_aside))
  · refine Aside.step State.slotFree'_aside (.ite (Aside.step State.afterLaunch_aside ?_) ?_) <;>
    · refine .ite (Aside.step State.msix_aside ?_) ?_ <;>
        exact Aside.step State.trace_aside (Aside.step State.ringSync_aside (Aside.step State.setRing_aside State.memPutN_aside))

theorem State.flushRecs_aside {n r : Nat} : Aside s (State.flushRecs n s r) := by
  induction n generalizing s with
  | zero => exact .refl
  | succ n ih =>
    unfold State.flushRecs
    dsimp only
    split
    · exact .refl
    · exact .ite (Aside.step ih (Aside.step State.writeRec_aside State.setRing_aside)) .refl

theorem State.dropRec_aside {r : Nat} {h : HeldRec} : Aside s (s.dropRec r h) := by
  unfold State.dropRec
  dsimp only
  split
  · exact State.modRing_aside
  · exact Aside.step State.slotFree'_aside State.modRing_aside

theorem State.postRec_aside {r : Nat} {h : HeldRec} : Aside s (s.postRec r h) := by
  unfold State.postRec
  exact .ite State.dropRec_aside (.ite (Aside.step State.writeRec_aside State.flushRecs_aside)
    (Aside.step State.setRing_aside State.flushRecs_aside))

theorem State.ringStop_aside {r code : Nat} {n : Option Nat} : Aside s (s.ringStop r code n) := by
  unfold State.ringStop
  exact .ite .refl (Aside.step (State.event_aside rfl) (Aside.step State.ringSync_aside State.modRing_aside))

theorem State.ringIdle_aside {r : Nat} : Aside s (s.ringIdle r) := by
  unfold State.ringIdle
  dsimp only
  split
  · exact .refl
  · exact .ite (Aside.step State.ringSync_aside State.setRing_aside) .refl

theorem State.launchRec_aside {r n w lid status detail : Nat} {slot : Option Nat} {t0 ver : Nat} {q : Bool} :
    Aside s (s.launchRec r n w lid status detail slot t0 ver q) := by
  unfold State.launchRec
  exact .ite (Aside.step State.ringStop_aside State.postRec_aside) State.postRec_aside

theorem State.endRec_aside {r n w status detail t0 ver : Nat} : Aside s (s.endRec r n w status detail t0 ver) := by
  unfold State.endRec
  exact .ite (Aside.step State.ringStop_aside (.ite State.postRec_aside State.modRing_aside))
    (.ite State.postRec_aside State.modRing_aside)

/-! Packets. -/

theorem Aside.of_fab {x : Fabric} (hl : x.links = s.fab.links) (hc : x.closedFlows = s.fab.closedFlows) : Aside s (s.setFab x) := by
  refine ⟨fun l => ?_, fun _ => ⟨rfl, rfl, rfl⟩, fun _ _ => rfl, rfl, fun e he => ?_, rfl⟩
  · unfold State.link State.setFab
    rw [hl]
  · show e ∈ x.closedFlows
    rwa [hc]

theorem State.setLink_aside {l : Nat} {x : Link} (h : x.state = (s.link l).state) : Aside s (s.setLink l x) := by
  refine ⟨fun m => ?_, fun _ => ⟨rfl, rfl, rfl⟩, fun _ _ => rfl, rfl, fun _ h => h, rfl⟩
  by_cases hm : m = l
  · subst hm
    rw [State.link_setLink, h]
  · rw [State.link_setLink_ne _ _ hm]

theorem State.sendPkt_aside {p : OutPkt} : Aside s (s.sendPkt p) := by
  unfold State.sendPkt
  dsimp only
  refine Aside.step (Aside.of_fab rfl rfl) (Aside.step (State.setLink_aside rfl) ?_)
  exact .ite (Aside.step (State.addReg_aside rfl (by decide)) (Aside.step State.cnt_aside State.cnt_aside))
    (Aside.step State.cnt_aside State.cnt_aside)

theorem State.emit_aside {p : OutPkt} : Aside s (s.emit p) := by
  unfold State.emit
  split
  · exact State.sendPkt_aside
  · exact .refl
  · exact Aside.of_fab rfl rfl

theorem State.pickFirst_aside {dev a : Nat} {adapt : Bool} : Aside s (s.pickFirst dev a adapt).2 :=
  .of_frame State.pickFirst_frame rfl

theorem State.inject_aside {g : Agent} {kind : AwaitKind} {d i flow gen dev a : Nat} {det : Bool} {b : Body} :
    Aside s (s.inject g kind d i flow gen dev a det b).2 := by
  unfold State.inject
  dsimp only
  split
  · exact Aside.step (State.event_aside rfl) (Aside.step (State.addReg_aside rfl (by decide)) State.pickFirst_aside)
  · split
    · exact Aside.step (State.event_aside rfl) (Aside.step (State.addReg_aside rfl (by decide)) State.pickFirst_aside)
    · exact Aside.step (Aside.of_fab rfl rfl) (Aside.step State.emit_aside State.pickFirst_aside)

theorem State.tallyAdd_aside {q : Req} {f v : Option Nat} {r : Nat} {x : W32} (hq : q.blk.low = false) :
    Aside s (s.tallyAdd q f v r x).2 := by
  unfold State.tallyAdd
  split
  · exact .refl
  · split
    · exact .refl
    · exact Aside.frame State.modUm_frame rfl (.of_frame State.ungate_frame rfl)
  · dsimp only
    split
    · exact State.addrErr_aside hq
    · split
      · exact .refl
      · split
        · exact State.addrErr_aside rfl
        · exact Aside.frame State.modFl_frame rfl (.of_frame State.ungate_frame rfl)

theorem State.sigAct_aside {r : RingId} {p : PendSig} : Aside s (s.sigAct r p).2 := by
  unfold State.sigAct
  dsimp only
  split
  · exact State.tallyAdd_aside rfl
  · exact State.tallyAdd_aside rfl
  · split <;> exact Aside.step State.inject_aside (State.tallyAdd_aside rfl)

theorem State.runSigs_aside {n : Nat} {r : RingId} : Aside s (State.runSigs n s r) := by
  induction n generalizing s with
  | zero => exact .refl
  | succ n ih =>
    unfold State.runSigs
    dsimp only
    split
    · exact .refl
    · split
      · exact .refl
      · split
        · exact Aside.step State.modRing_aside State.sigAct_aside
        · exact Aside.step ih (Aside.step State.endRec_aside (Aside.step State.modRing_aside State.sigAct_aside))

theorem State.ringSettle_aside {r : RingId} : Aside s (s.ringSettle r) := Aside.step State.ringIdle_aside State.runSigs_aside

/-! Resets of umbels. -/

theorem State.rawReg_pageReset {g k : Nat} {keep : Nat → Bool} :
    (s.pageReset g keep).rawReg k = if k / 4096 = g ∧ keep (k % 4096) = false then regReset k else s.rawReg k := by
  unfold State.pageReset State.rawReg
  dsimp only
  induction s.regs with
  | nil => simp [SMap.eraseIf]
  | cons e m ih =>
    unfold SMap.eraseIf at *
    rw [List.filter_cons]
    by_cases he : k = e.1
    · subst he
      by_cases hp : e.1 / 4096 = g ∧ keep (e.1 % 4096) = false
      · rw [if_pos hp] at ih ⊢
        simpa [hp] using ih
      · have hq : (e.1 / 4096 == g && !keep (e.1 % 4096)) = false := by
          simpa using hp
        simp [hq, hp, SMap.get]
    · rw [SMap.get, if_neg he, ← ih]
      split
      · rw [SMap.get, if_neg he]
      · rfl

theorem State.pageReset_aside {b : Blk} {n : Nat} {keep : Nat → Bool} (hb : b.low = false) :
    Aside s (s.pageReset (b.page n) keep) := by
  refine .of_low State.pageReset_frame rfl fun k hk => ?_
  rw [State.rawReg_pageReset, if_neg]
  rintro ⟨hp, -⟩
  have : regOff b n 0 / 4096 = b.page n := regOff_page (by decide)
  unfold LowKey at hk
  cases b <;> simp_all [Blk.low, Blk.page] <;> omega

theorem State.dropAgents_aside {p : Agent → Bool} : Aside s (s.dropAgents p) :=
  ⟨fun _ => rfl, fun _ => ⟨rfl, rfl, rfl⟩, fun _ _ => rfl, rfl, fun _ h => h, rfl⟩

theorem State.floretReset_aside {f : Nat} : Aside s (s.floretReset f) := by
  unfold State.floretReset
  refine Aside.step State.dropAgents_aside (Aside.step (State.pageReset_aside rfl) ?_)
  exact Aside.frame State.modUm_frame rfl (.of_frame (Frame.set_fls (ps := [.fls]) rfl .refl) rfl)

theorem State.umbelReset_aside {v : Nat} : Aside s (s.umbelReset v) := by
  unfold State.umbelReset
  refine Aside.step State.dropAgents_aside (Aside.step (State.pageReset_aside rfl) ?_)
  exact Aside.frame State.setUm_frame rfl (.foldl fun _ _ => State.floretReset_aside)

theorem State.gateUmbel_aside {v : Nat} : Aside s (s.gateUmbel v) := by
  unfold State.gateUmbel
  exact Aside.frame State.setPwUmb_frame rfl (Aside.frame State.setUm_frame rfl State.umbelReset_aside)

theorem State.idleGateAll_aside : Aside s s.idleGateAll := by
  unfold State.idleGateAll
  refine .foldl fun s v => ?_
  unfold State.idleGate
  exact .ite (Aside.frame State.retune_frame rfl State.gateUmbel_aside) .refl

/-! The end of a launch. -/

theorem State.sendFences_aside {k gen : Nat} : Aside s (s.sendFences k gen) := by
  unfold State.sendFences
  refine .foldl fun s d => ?_
  split
  · exact .refl
  · exact State.emit_aside

theorem State.closeFlow_aside {e : Nat × Nat} : Aside s (s.setFab { s.fab with closedFlows := s.fab.closedFlows ++ [e] }) :=
  ⟨fun _ => rfl, fun _ => ⟨rfl, rfl, rfl⟩, fun _ _ => rfl, rfl, fun _ h => List.mem_append_left _ h, rfl⟩

theorem State.endLaunch_aside {k status detail : Nat} : Aside s (s.endLaunch k status detail) := by
  unfold State.endLaunch
  dsimp only
  refine .ite ?_ .refl
  refine Aside.step State.idleGateAll_aside (Aside.step State.ringSettle_aside (Aside.step State.launchRec_aside ?_))
  refine Aside.step State.setLsl_aside (Aside.frame State.leaveFlorets_frame rfl ?_)
  exact Aside.step State.sendFences_aside State.closeFlow_aside

end Sys2Proof.Machine
end

section
/-! SUPPORT. A launch that is ended from outside stays ended (R256, R259, R317): its slot changes only by its own record, which
frees it into quarantine, and no other operation of the front end's rings touches it. -/

namespace Sys2Proof.Machine

variable {s t : State} {k : Nat} {Q : HeldRec → Prop} {L : LSlot → Prop}

/-- A law for the records that rings hold and for slot `k` that the writing of records keeps: a record of another slot meets it, and
one of slot `k` leaves the slot as `L` wants it. -/
structure SlotLaw (k : Nat) (Q : HeldRec → Prop) (L : LSlot → Prop) : Prop where
  other : ∀ h : HeldRec, h.slot ≠ some k → Q h
  freed : ∀ h : HeldRec, Q h → h.slot = some k → ∀ (x : LSlot) (e : Nat),
    L (if h.quarantine then { x with state := 3, qEnd := e, ended := none, batch := [] } else { LSlot.reset with gen := x.gen })

/-- The law holds of every held record and of slot `k`, which no ring's head has been granted. -/
structure SlotInv (k : Nat) (Q : HeldRec → Prop) (L : LSlot → Prop) (s : State) : Prop where
  held : ∀ r, ∀ h ∈ (s.ring r).held, Q h
  wait : ∀ r, (s.ring r).wait ≠ .granted k
  slot : L (s.lsl k)

theorem SlotInv.of_fe (hi : SlotInv k Q L s) (hr : t.fe.rings = s.fe.rings) (hs : t.fe.slots = s.fe.slots) : SlotInv k Q L t := by
  have hring : ∀ r, t.ring r = s.ring r := fun r => by
    unfold State.ring
    rw [hr]
  refine ⟨fun r => by rw [hring]; exact hi.held r, fun r => by rw [hring]; exact hi.wait r, ?_⟩
  unfold State.lsl
  rw [hs]
  exact hi.slot

theorem SlotInv.frame {ps : List Piece} (h : Frame ps s t) (hd : ps.contains .fe = false) (hi : SlotInv k Q L s) : SlotInv k Q L t :=
  hi.of_fe (congrArg Front.rings (h .fe hd)) (congrArg Front.slots (h .fe hd))

theorem SlotInv.ite {c : Prop} [Decidable c] {a b : State} (ha : SlotInv k Q L a) (hb : SlotInv k Q L b) :
    SlotInv k Q L (if c then a else b) := by
  split
  · exact ha
  · exact hb

theorem SlotInv.foldl {α : Type} {f : State → α → State} {xs : List α} (h : ∀ s x, SlotInv k Q L s → SlotInv k Q L (f s x))
    (hi : SlotInv k Q L s) : SlotInv k Q L (xs.foldl f s) := by
  induction xs generalizing s with
  | nil => exact hi
  | cons x xs ih => exact ih (h s x hi)

theorem State.ring_setRing_ne {r q : Nat} (x : Ring) (h : q ≠ r) : (s.setRing r x).ring q = s.ring q := SMap.get_put_ne h
theorem State.lsl_setLsl_ne {j m : Nat} (x : LSlot) (h : j ≠ m) : (s.setLsl m x).lsl j = s.lsl j := SMap.get_put_ne h

theorem SlotInv.setRing {r : Nat} {x : Ring} (hi : SlotInv k Q L s) (hh : ∀ h ∈ x.held, Q h) (hw : x.wait ≠ .granted k) :
    SlotInv k Q L (s.setRing r x) := by
  refine ⟨fun q => ?_, fun q => ?_, hi.slot⟩ <;> by_cases hq : q = r
  · rw [hq, State.ring_setRing]
    exact hh
  · rw [State.ring_setRing_ne _ hq]
    exact hi.held q
  · rw [hq, State.ring_setRing]
    exact hw
  · rw [State.ring_setRing_ne _ hq]
    exact hi.wait q

/-- A change of a ring that keeps its records and its wait. -/
theorem SlotInv.setRing_same {r : Nat} {x : Ring} (hi : SlotInv k Q L s) (hh : x.held = (s.ring r).held)
    (hw : x.wait = (s.ring r).wait) : SlotInv k Q L (s.setRing r x) :=
  hi.setRing (by rw [hh]; exact hi.held r) (by rw [hw]; exact hi.wait r)

theorem SlotInv.modRing_same {r : Nat} {f : Ring → Ring} (hi : SlotInv k Q L s) (hh : ∀ x, (f x).held = x.held)
    (hw : ∀ x, (f x).wait = x.wait) : SlotInv k Q L (s.modRing r f) :=
  hi.setRing_same (hh _) (hw _)

theorem SlotInv.setLsl_ne {j : Nat} {x : LSlot} (hi : SlotInv k Q L s) (hj : j ≠ k) : SlotInv k Q L (s.setLsl j x) :=
  ⟨hi.held, hi.wait, by rw [State.lsl_setLsl_ne _ (Ne.symm hj)]; exact hi.slot⟩

theorem SlotInv.slotFree' (law : SlotLaw k Q L) {j : Nat} {h : HeldRec} (hi : SlotInv k Q L s) (hq : Q h) (hs : h.slot = some j) :
    SlotInv k Q L (s.slotFree' j h.quarantine) := by
  by_cases hj : j = k
  · subst hj
    refine ⟨hi.held, hi.wait, ?_⟩
    unfold State.slotFree'
    rw [State.lsl_setLsl]
    exact law.freed h hq hs _ _
  · exact hi.setLsl_ne hj

theorem SlotInv.ringSync {r : Nat} (hi : SlotInv k Q L s) : SlotInv k Q L (s.ringSync r) := hi.frame State.ringSync_frame rfl

theorem SlotInv.event {b : Blk} {n e : Nat} (hi : SlotInv k Q L s) : SlotInv k Q L (s.event b n e) := hi.frame State.event_frame rfl

theorem SlotInv.afterLaunch {j : Nat} (hi : SlotInv k Q L s) : SlotInv k Q L (s.afterLaunch j) := by
  unfold State.afterLaunch
  refine SlotInv.foldl (fun s b hs => ?_) hi
  exact SlotInv.of_fe (s := s.queueBuilds b.slot (s.seqGet b.slot) (s.seqGet b.slot).gen (b.len / 64) ((b.len + b.a) / 64))
    (hs.frame State.queueBuilds_frame rfl) rfl rfl

/-- A record's bytes, its trace record and its message; its slot is still as it was. -/
def State.putRec (s : State) (r : Nat) (h : HeldRec) : State :=
  let x := s.ring r
  let n := s.ringUnit x
  let u := s.memPutN n (x.cplBase + n * (x.cplTail % 2 ^ x.cplLog2)) (h.bytes % 2 ^ (8 * n))
  let u := (u.setRing r { x with cplTail := (x.cplTail + 1) % 2 ^ 32, live := x.live.erase (bitsN h.bytes 63 32) }).ringSync r
  let u := u.trace 512 0x02 0 0x1000 (bitsN h.bytes 15 0) (bitsN h.bytes 103 96) (bitsN h.bytes 31 24 + 2 ^ 32 * bitsN h.bytes 95 64)
  if h.irq then u.msix x.msix else u

theorem State.writeRec_none {r : Nat} {h : HeldRec} (hs : h.slot = none) : s.writeRec r h = s.putRec r h := by
  unfold State.writeRec
  rw [hs]
  rfl

theorem State.writeRec_some {r j : Nat} {h : HeldRec} (hs : h.slot = some j) :
    s.writeRec r h =
      (if bitsN h.bytes 31 24 = 0 then (s.putRec r h).afterLaunch j else s.putRec r h).slotFree' j h.quarantine := by
  unfold State.writeRec
  rw [hs]
  rfl

theorem SlotInv.putRec {r : Nat} {h : HeldRec} (hi : SlotInv k Q L s) : SlotInv k Q L (s.putRec r h) := by
  unfold State.putRec
  dsimp only
  have hput : SlotInv k Q L (s.memPutN (s.ringUnit (s.ring r))
      ((s.ring r).cplBase + s.ringUnit (s.ring r) * ((s.ring r).cplTail % 2 ^ (s.ring r).cplLog2))
      (h.bytes % 2 ^ (8 * s.ringUnit (s.ring r)))) := hi.frame State.memPutN_frame rfl
  generalize s.memPutN _ _ _ = u at hput
  have hset := hput.setRing (r := r) (x := { s.ring r with
    cplTail := ((s.ring r).cplTail + 1) % 2 ^ 32, live := (s.ring r).live.erase (bitsN h.bytes 63 32) }) (hi.held r) (hi.wait r)
  generalize u.setRing r _ = v at hset
  have htrace := (hset.ringSync (r := r)).frame (State.trace_frame (q := 512) (ty := 0x02) (flags := 0) (source := 0x1000)
    (lid := bitsN h.bytes 15 0) (slot := bitsN h.bytes 103 96) (payload := bitsN h.bytes 31 24 + 2 ^ 32 * bitsN h.bytes 95 64)) rfl
  exact .ite (htrace.frame State.msix_frame rfl) htrace

theorem SlotInv.writeRec (law : SlotLaw k Q L) {r : Nat} {h : HeldRec} (hi : SlotInv k Q L s) (hq : Q h) :
    SlotInv k Q L (s.writeRec r h) := by
  cases hs : h.slot with
  | none =>
    rw [State.writeRec_none hs]
    exact hi.putRec
  | some j =>
    rw [State.writeRec_some hs]
    exact SlotInv.slotFree' law (.ite hi.putRec.afterLaunch hi.putRec) hq hs

theorem SlotInv.flushRecs (law : SlotLaw k Q L) {n r : Nat} (hi : SlotInv k Q L s) : SlotInv k Q L (State.flushRecs n s r) := by
  induction n generalizing s with
  | zero => exact hi
  | succ n ih =>
    unfold State.flushRecs
    dsimp only
    split
    · exact hi
    · rename_i h rest hheld
      have hmem := hi.held r
      rw [hheld] at hmem
      have hset : SlotInv k Q L (s.setRing r { s.ring r with held := rest }) :=
        hi.setRing (fun x hx => hmem x (List.mem_cons_of_mem _ hx)) (hi.wait r)
      exact .ite (ih (hset.writeRec law (hmem h (List.mem_cons_self ..)))) hi

theorem SlotInv.dropRec (law : SlotLaw k Q L) {r : Nat} {h : HeldRec} (hi : SlotInv k Q L s) (hq : Q h) :
    SlotInv k Q L (s.dropRec r h) := by
  unfold State.dropRec State.modRing
  dsimp only
  split
  · exact hi.setRing_same rfl rfl
  · rename_i j hs
    exact SlotInv.slotFree' law (hi.setRing_same rfl rfl) hq hs

theorem SlotInv.postRec (law : SlotLaw k Q L) {r : Nat} {h : HeldRec} (hi : SlotInv k Q L s) (hq : Q h) :
    SlotInv k Q L (s.postRec r h) := by
  unfold State.postRec
  have hf : SlotInv k Q L (State.flushRecs ((s.ring r).held.length + 1) s r) := hi.flushRecs law
  refine .ite (hi.dropRec law hq) (.ite (hf.writeRec law hq) (hf.setRing (fun x hx => ?_) (hf.wait r)))
  rcases List.mem_append.mp hx with hx | hx
  · exact hf.held r x hx
  · rw [List.mem_singleton.mp hx]
    exact hq

theorem SlotInv.ringStop {r code : Nat} {n : Option Nat} (hi : SlotInv k Q L s) : SlotInv k Q L (s.ringStop r code n) := by
  unfold State.ringStop State.modRing
  refine .ite hi (SlotInv.event (SlotInv.ringSync (hi.setRing (hi.held r) ?_)))
  have hw := hi.wait r
  dsimp only
  split
  · rename_i j hj
    rwa [hj] at hw
  · simp

theorem SlotInv.ringIdle {r : Nat} (hi : SlotInv k Q L s) : SlotInv k Q L (s.ringIdle r) := by
  unfold State.ringIdle
  dsimp only
  split
  · exact hi
  · exact .ite (SlotInv.ringSync (hi.setRing (hi.held r) (by simp))) hi

theorem SlotInv.launchRec (law : SlotLaw k Q L) {r n w lid status detail : Nat} {slot : Option Nat} {t0 ver : Nat} {q : Bool}
    (hi : SlotInv k Q L s)
    (hq : Q ⟨recBytes lid 1 status n detail (slot.getD 0xFF) t0 s.ftime ver, bitN w 9, slot, q⟩) :
    SlotInv k Q L (s.launchRec r n w lid status detail slot t0 ver q) := by
  unfold State.launchRec
  exact .ite (hi.postRec law hq).ringStop (hi.postRec law hq)

theorem SlotInv.endRec (law : SlotLaw k Q L) {r n w status detail t0 ver : Nat} (hi : SlotInv k Q L s) :
    SlotInv k Q L (s.endRec r n w status detail t0 ver) := by
  unfold State.endRec State.modRing
  have hrec : SlotInv k Q L (if status ≠ 0 ∨ bitN w 8 = true then
      s.postRec r ⟨recBytes (bitsN w 27 16) (bitsN w 7 0) status n detail 0xFF t0 s.ftime ver, bitN w 9, none, false⟩
      else s.setRing r { s.ring r with live := (s.ring r).live.erase n }) :=
    .ite (hi.postRec law (law.other _ (by simp))) (hi.setRing_same rfl rfl)
  exact .ite hrec.ringStop hrec

theorem SlotInv.runSigs (law : SlotLaw k Q L) {n : Nat} {r : RingId} (hi : SlotInv k Q L s) : SlotInv k Q L (State.runSigs n s r) := by
  induction n generalizing s with
  | zero => exact hi
  | succ n ih =>
    unfold State.runSigs
    dsimp only
    split
    · exact hi
    · split
      · exact hi
      · have hact : ∀ p, SlotInv k Q L (s.sigAct r p).2 := fun _ => hi.frame State.sigAct_frame rfl
        split
        · refine SlotInv.modRing_same (hact _) (fun x => ?_) (fun x => ?_) <;> rfl
        · refine ih (SlotInv.endRec law (SlotInv.modRing_same (hact _) (fun x => ?_) (fun x => ?_))) <;> rfl

theorem SlotInv.ringSettle (law : SlotLaw k Q L) {r : RingId} (hi : SlotInv k Q L s) : SlotInv k Q L (s.ringSettle r) :=
  (hi.runSigs law).ringIdle

theorem SlotInv.cmdEnd (law : SlotLaw k Q L) {r : RingId} {n w status detail t0 ver : Nat} (hi : SlotInv k Q L s) :
    SlotInv k Q L (s.cmdEnd r n w status detail t0 ver) :=
  (hi.endRec law).ringSettle law

/-- The state of a launch's end before its record: the flow is closed, the florets are free. -/
def State.endFlow (s : State) (j : Nat) : State :=
  ((s.setFab { s.fab with closedFlows := s.fab.closedFlows ++ [(j, (s.lsl j).gen)] }).sendFences j (s.lsl j).gen).leaveFlorets j

theorem State.endFlow_fe {j : Nat} : (s.endFlow j).fe = s.fe :=
  (State.leaveFlorets_frame .fe rfl).trans (State.sendFences_frame .fe rfl)

theorem State.endLaunch_eq {j status detail : Nat} :
    s.endLaunch j status detail = if (s.lsl j).state = 2 ∧ (s.lsl j).ended = none then
      let r : RingId := ⟨(s.lsl j).ring % 32768, Nat.mod_lt _ (by decide)⟩
      (((((s.endFlow j).setLsl j { s.lsl j with ended := some (status, detail) }).launchRec r.val (s.lsl j).head (s.lsl j).w (s.lsl j).id
        status detail (some j) (s.lsl j).tRel (s.lsl j).wsVer true).ringSettle r).idleGateAll)
    else s := rfl

/-- The end of another launch. -/
theorem SlotInv.endLaunch_ne (law : SlotLaw k Q L) {j status detail : Nat} (hi : SlotInv k Q L s) (hj : j ≠ k) :
    SlotInv k Q L (s.endLaunch j status detail) := by
  rw [State.endLaunch_eq]
  refine .ite ?_ hi
  refine SlotInv.frame State.idleGateAll_frame rfl (SlotInv.ringSettle law (SlotInv.launchRec law (SlotInv.setLsl_ne ?_ hj) ?_))
  · exact hi.of_fe (congrArg Front.rings State.endFlow_fe) (congrArg Front.slots State.endFlow_fe)
  · exact law.other _ (by simpa using hj)

/-! Before and after the end of slot `k`'s launch. -/

/-- The slot holds `x` and no record of it waits. -/
def Away (k : Nat) (x : LSlot) : State → Prop := SlotInv k (fun h => h.slot ≠ some k) (· = x)

/-- The slot's launch is over, and a record of it that waits frees the slot into quarantine. -/
def Over (k : Nat) : State → Prop :=
  SlotInv k (fun h => h.slot = some k → h.quarantine = true) (fun x => x.state = 3 ∨ x.ended.isSome = true)

theorem away_law {x : LSlot} : SlotLaw k (fun h => h.slot ≠ some k) (· = x) :=
  ⟨fun _ h => h, fun _ h hs => absurd hs h⟩

theorem over_law : SlotLaw k (fun h => h.slot = some k → h.quarantine = true) (fun x => x.state = 3 ∨ x.ended.isSome = true) := by
  refine ⟨fun _ h hs => absurd hs h, fun h hq hs x e => ?_⟩
  rw [if_pos (hq hs)]
  exact .inl rfl

/-- The end of slot `k`'s own running launch. -/
theorem Away.endLaunch {x : LSlot} {status detail : Nat} (ha : Away k x s) (hr : x.state = 2) (he : x.ended = none) :
    Over k (s.endLaunch k status detail) := by
  have hx : s.lsl k = x := ha.slot
  rw [State.endLaunch_eq, if_pos ⟨by rw [hx]; exact hr, by rw [hx]; exact he⟩]
  refine SlotInv.frame State.idleGateAll_frame rfl (SlotInv.ringSettle over_law (SlotInv.launchRec over_law ⟨?_, ?_, ?_⟩ fun _ => rfl))
  · intro r h hh hs
    exact absurd hs (ha.held r h (by rwa [State.ring, show (((s.endFlow k).setLsl k _).fe.rings) = (s.endFlow k).fe.rings from rfl,
      State.endFlow_fe] at hh))
  · intro r
    have := ha.wait r
    rwa [State.ring, show (((s.endFlow k).setLsl k _).fe.rings) = (s.endFlow k).fe.rings from rfl, State.endFlow_fe]
  · rw [State.lsl_setLsl]
    exact .inr rfl

/-- The end of a launch closes its flow (R317). -/
theorem State.endLaunch_closes {status detail : Nat} (hr : (s.lsl k).state = 2) (he : (s.lsl k).ended = none) :
    (k, (s.lsl k).gen) ∈ (s.endLaunch k status detail).fab.closedFlows := by
  rw [State.endLaunch_eq, if_pos ⟨hr, he⟩]
  have h : Aside (s.setFab { s.fab with closedFlows := s.fab.closedFlows ++ [(k, (s.lsl k).gen)] }) (s.endFlow k) :=
    Aside.frame State.leaveFlorets_frame rfl State.sendFences_aside
  have hmem : (k, (s.lsl k).gen) ∈ (s.endFlow k).fab.closedFlows :=
    h.closed _ (List.mem_append_right _ (List.mem_singleton.mpr rfl))
  generalize s.endFlow k = u at hmem
  refine Aside.closed (s := u) ?_ _ hmem
  exact Aside.step State.idleGateAll_aside (Aside.step State.ringSettle_aside (Aside.step State.launchRec_aside
    State.setLsl_aside))

/-- Slot `k`, which held `x`, still does, or its launch has ended and its flow is closed. -/
def AwayOrOver (k : Nat) (x : LSlot) (s : State) : Prop := Away k x s ∨ (Over k s ∧ (k, x.gen) ∈ s.fab.closedFlows)

/-- An operation that keeps every slot law and the closed flows keeps `AwayOrOver`. -/
theorem AwayOrOver.keep {x : LSlot} (h : AwayOrOver k x s) (hs : ∀ Q L, SlotLaw k Q L → SlotInv k Q L s → SlotInv k Q L t)
    (hc : ∀ e ∈ s.fab.closedFlows, e ∈ t.fab.closedFlows) : AwayOrOver k x t :=
  h.elim (fun ha => .inl (hs _ _ away_law ha)) (fun ho => .inr ⟨hs _ _ over_law ho.1, hc _ ho.2⟩)

theorem AwayOrOver.frame {x : LSlot} {ps : List Piece} (h : AwayOrOver k x s) (hf : Frame ps s t) (hfe : ps.contains .fe = false)
    (hfab : ps.contains .fab = false) : AwayOrOver k x t :=
  h.keep (fun _ _ _ hi => hi.frame hf hfe) fun e he => by rwa [show t.fab = s.fab from hf .fab hfab]

theorem AwayOrOver.endLaunch {x : LSlot} {j status detail : Nat} (hx : x.state = 2 ∧ x.ended = none) (h : AwayOrOver k x s) :
    AwayOrOver k x (s.endLaunch j status detail) := by
  by_cases hj : j = k
  · subst hj
    obtain ha | ⟨ho, hc⟩ := h
    · have hl : s.lsl j = x := ha.slot
      refine .inr ⟨ha.endLaunch hx.1 hx.2, ?_⟩
      rw [← hl] at hx ⊢
      exact State.endLaunch_closes hx.1 hx.2
    · have hend : ¬ ((s.lsl j).state = 2 ∧ (s.lsl j).ended = none) := by
        rintro ⟨h2, hn⟩
        obtain h3 | he := ho.slot
        · omega
        · rw [hn] at he
          cases he
      rw [State.endLaunch_eq, if_neg hend]
      exact .inr ⟨ho, hc⟩
  · exact h.keep (fun _ _ law hi => hi.endLaunch_ne law hj) State.endLaunch_aside.closed

/-- After its own end slot `k`'s launch is over. -/
theorem AwayOrOver.endLaunch_self {x : LSlot} {status detail : Nat} (hx : x.state = 2 ∧ x.ended = none) (h : AwayOrOver k x s) :
    Over k (s.endLaunch k status detail) ∧ (k, x.gen) ∈ (s.endLaunch k status detail).fab.closedFlows := by
  obtain ha | ho := h.endLaunch (j := k) (status := status) (detail := detail) hx
  · obtain ha' | ⟨ho, hc⟩ := h
    · have hl : s.lsl k = x := ha'.slot
      refine ⟨ha'.endLaunch hx.1 hx.2, ?_⟩
      rw [← hl] at hx ⊢
      exact State.endLaunch_closes hx.1 hx.2
    · have hl : (s.endLaunch k status detail).lsl k = x := ha.slot
      have hend : ¬ ((s.lsl k).state = 2 ∧ (s.lsl k).ended = none) := by
        rintro ⟨h2, hn⟩
        obtain h3 | he := ho.slot
        · omega
        · rw [hn] at he
          cases he
      rw [State.endLaunch_eq, if_neg hend]
      exact ⟨ho, hc⟩
  · exact ho

end Sys2Proof.Machine

namespace Sys2Proof.Machine
open Sys2Proof.Claims

/-- A tidy state holds the running launch of slot `k` away from every ring. -/
theorem away_of_tidy {s : State} {k : Nat} (ht : Tidy s) (hr : Running s k) : Away k (s.lsl k) s := by
  obtain ⟨hheld, hgrant⟩ := ht
  obtain ⟨-, h2, -⟩ := hr
  refine ⟨fun r h hh => ?_, fun r hw => hgrant r k hw h2, rfl⟩
  rw [hheld r h hh]
  simp

theorem ended_of_over {s t : State} {k : Nat} (ho : Over k t) (hc : (k, (s.lsl k).gen) ∈ t.fab.closedFlows) : Ended s t k :=
  ⟨hc, ho.slot⟩

/-- Ending every launch ends each of them, whatever order the slots come in. -/
theorem AwayOrOver.endAll {s : State} {k : Nat} {x : LSlot} (hx : x.state = 2 ∧ x.ended = none) {js : List Nat} (hk : k ∈ js)
    (h : AwayOrOver k x s) :
    let t := js.foldl (fun s j => s.endLaunch j 0x12 0) s
    Over k t ∧ (k, x.gen) ∈ t.fab.closedFlows := by
  have hrest : ∀ (js : List Nat) (s : State), (Over k s ∧ (k, x.gen) ∈ s.fab.closedFlows) →
      Over k (js.foldl (fun s j => s.endLaunch j 0x12 0) s) ∧
        (k, x.gen) ∈ (js.foldl (fun s j => s.endLaunch j 0x12 0) s).fab.closedFlows := by
    intro js
    induction js with
    | nil => exact fun _ h => h
    | cons j js ih =>
      intro s h
      refine ih _ ?_
      by_cases hj : j = k
      · subst hj
        exact AwayOrOver.endLaunch_self hx (.inr h)
      · exact ⟨h.1.endLaunch_ne over_law hj, State.endLaunch_aside.closed _ h.2⟩
  induction js generalizing s with
  | nil => cases hk
  | cons j js ih =>
    by_cases hj : j = k
    · subst hj
      exact hrest js _ (AwayOrOver.endLaunch_self hx h)
    · exact ih ((List.mem_cons.mp hk).resolve_left (Ne.symm hj)) (h.endLaunch hx)

end Sys2Proof.Machine
end

section
/-! SUPPORT. Resets of a die and of the device (R18, R302, R332, R370 to R372): what each stage of a die's reset leaves, and how a
device reset starts and runs. -/

namespace Sys2Proof.Machine

variable {s t u : State}

/-! What the end of a launch and a quiesce leave of the fault state. -/

/-- Of the fault state only the florets' idle times and the sweep test change. -/
def FltQuiet (s t : State) : Prop := ∃ i w, t.flt = { s.flt with idleAt := i, sweep := w }

theorem FltQuiet.refl : FltQuiet s s := ⟨_, _, rfl⟩

theorem FltQuiet.of_flt (h : t.flt = s.flt) : FltQuiet s t := ⟨s.flt.idleAt, s.flt.sweep, h⟩

theorem FltQuiet.trans (h : FltQuiet s t) (k : FltQuiet t u) : FltQuiet s u := by
  obtain ⟨i, w, h⟩ := h
  obtain ⟨j, x, k⟩ := k
  exact ⟨j, x, by rw [k, h]⟩

theorem FltQuiet.frame {ps : List Piece} (h : Frame ps s t) (hd : ps.contains .flt = false) : FltQuiet s t := .of_flt (h .flt hd)

theorem FltQuiet.step {ps : List Piece} (h : Frame ps t u) (hd : ps.contains .flt = false) (k : FltQuiet s t) : FltQuiet s u :=
  k.trans (.frame h hd)

theorem FltQuiet.foldl {α : Type} {f : State → α → State} {xs : List α} (h : ∀ s x, FltQuiet s (f s x)) :
    FltQuiet s (xs.foldl f s) := by
  induction xs generalizing s with
  | nil => exact .refl
  | cons x xs ih => exact (h s x).trans ih

theorem FltQuiet.part (h : FltQuiet s t) (p : Nat) : t.part p = s.part p := by
  obtain ⟨i, w, h⟩ := h
  unfold State.part
  rw [h]

theorem State.leaveFlorets_fltQuiet {j : Nat} : FltQuiet s (s.leaveFlorets j) := by
  have hp : ∀ (xs : List Nat) (v : State),
      (xs.foldl (fun s f => s.setPwUmb (f / 16) { s.pwUmb (f / 16) with lastEnd := s.ftime }) v).flt = v.flt := by
    intro xs
    induction xs with
    | nil => exact fun _ => rfl
    | cons x xs ih => exact fun v => ih _
  refine ⟨(s.lsl j).florets.foldl (fun i f => SMap.put 0 i f
    ((s.lsl j).florets.foldl (fun s f => s.setPwUmb (f / 16) { s.pwUmb (f / 16) with lastEnd := s.ftime }) s).ftime) s.flt.idleAt,
    s.flt.sweep, ?_⟩
  unfold State.leaveFlorets
  dsimp only
  rw [hp]

theorem State.endFlow_fltQuiet {j : Nat} : FltQuiet s (s.endFlow j) := by
  unfold State.endFlow
  refine FltQuiet.trans ?_ State.leaveFlorets_fltQuiet
  exact FltQuiet.step State.sendFences_frame rfl (.of_flt rfl)

theorem State.endLaunch_fltQuiet {j status detail : Nat} : FltQuiet s (s.endLaunch j status detail) := by
  rw [State.endLaunch_eq]
  dsimp only
  split
  · refine .step State.idleGateAll_frame rfl (.step State.ringSettle_frame rfl (.step State.launchRec_frame rfl ?_))
    exact .step State.setLsl_frame rfl State.endFlow_fltQuiet
  · exact .refl

theorem State.endPart_fltQuiet {p : Nat} {why : Option (Nat × Nat)} : FltQuiet s (s.endPart p why) := by
  unfold State.endPart
  refine .foldl fun s j => ?_
  dsimp only
  split
  · split
    · split <;> exact State.endLaunch_fltQuiet
    · exact State.endLaunch_fltQuiet
  · exact .refl

theorem State.dropSweep_fltQuiet {us : List Nat} : FltQuiet s (s.dropSweep us) := by
  unfold State.dropSweep
  split
  · split
    · exact ⟨_, _, rfl⟩
    · exact .refl
  · exact .refl

theorem State.quiescePart_fltQuiet {p : Nat} {why : Option (Nat × Nat)} : FltQuiet s (s.quiescePart p why) := by
  unfold State.quiescePart
  exact (State.endPart_fltQuiet.trans State.dropSweep_fltQuiet).trans
    (.foldl fun _ _ => .frame State.haltUmbel_frame rfl)

/-! What they leave of links and stacks. -/

/-- The links' states stay, and the stacks' queues, fills and temperatures. -/
def PeersStay (s t : State) : Prop :=
  (∀ l, (t.link l).state = (s.link l).state) ∧
    ∀ k, (t.stk k).srq = (s.stk k).srq ∧ (t.stk k).filling = (s.stk k).filling ∧ (t.stk k).temp = (s.stk k).temp

theorem PeersStay.refl : PeersStay s s := ⟨fun _ => rfl, fun _ => ⟨rfl, rfl, rfl⟩⟩

theorem PeersStay.trans (h : PeersStay s t) (k : PeersStay t u) : PeersStay s u :=
  ⟨fun l => (k.1 l).trans (h.1 l), fun n => ⟨(k.2 n).1.trans (h.2 n).1, (k.2 n).2.1.trans (h.2 n).2.1, (k.2 n).2.2.trans (h.2 n).2.2⟩⟩

theorem Aside.peersStay (h : Aside s t) : PeersStay s t := ⟨h.links, h.stks⟩

theorem State.link_of_fab (h : t.fab = s.fab) (l : Nat) : t.link l = s.link l := by
  unfold State.link
  rw [h]

theorem State.stk_of_hbm (h : t.hbm = s.hbm) (k : Nat) : t.stk k = s.stk k := by
  unfold State.stk
  rw [h]

theorem PeersStay.frame {ps : List Piece} (h : Frame ps s t) (hf : ps.contains .fab = false) (hh : ps.contains .hbm = false) :
    PeersStay s t :=
  ⟨fun l => by rw [State.link_of_fab (h .fab hf)], fun k => by rw [State.stk_of_hbm (h .hbm hh)]; exact ⟨rfl, rfl, rfl⟩⟩

theorem PeersStay.foldl {α : Type} {f : State → α → State} {xs : List α} (h : ∀ s x, PeersStay s (f s x)) :
    PeersStay s (xs.foldl f s) := by
  induction xs generalizing s with
  | nil => exact .refl
  | cons x xs ih => exact (h s x).trans ih

theorem State.endPart_aside {p : Nat} {why : Option (Nat × Nat)} : Aside s (s.endPart p why) := by
  unfold State.endPart
  refine .foldl fun s j => ?_
  dsimp only
  split
  · split
    · split <;> exact State.endLaunch_aside
    · exact State.endLaunch_aside
  · exact .refl

theorem State.quiescePart_aside {p : Nat} {why : Option (Nat × Nat)} : Aside s (s.quiescePart p why) := by
  unfold State.quiescePart
  exact (State.endPart_aside.trans (.of_frame State.dropSweep_frame rfl)).trans
    (.foldl fun _ _ => .of_frame State.haltUmbel_frame rfl)

/-- A recovery's own record of its partition. -/
def Part.recovering (x : Part) (now code : Nat) (counted : Bool) : Part :=
  let ts := recent now 60000000000 x.times
  let ts := if counted then now :: ts else ts
  { x with state := 2, times := ts, cause := code, step := 1, stepAt := now, retire := counted && decide (4 ≤ ts.length) }

theorem State.startRecovery_eq {p code : Nat} {counted : Bool} {why : Option (Nat × Nat)} :
    s.startRecovery p code counted why =
      let v := s.setPart p ((s.part p).recovering s.ftime code counted)
      (if (s.part p).state = 2 then v else v.event .gl 0 0).quiescePart p why := rfl

theorem State.part_setPart {p q : Nat} {x : Part} : (s.setPart p x).part q = if q = p then x else s.part q := SMap.get_put

/-- Of the partitions a recovery changes its own alone (R364). -/
theorem State.part_startRecovery {p q code : Nat} {counted : Bool} {why : Option (Nat × Nat)} :
    (s.startRecovery p code counted why).part q = if q = p then (s.part p).recovering s.ftime code counted else s.part q := by
  rw [State.startRecovery_eq]
  dsimp only
  rw [State.quiescePart_fltQuiet.part, ← State.part_setPart]
  split
  · rfl
  · exact FltQuiet.part (.frame State.event_frame rfl) q

/-- A recovery leaves the fault state but for its partition. -/
theorem State.startRecovery_flt {p code : Nat} {counted : Bool} {why : Option (Nat × Nat)} :
    ∃ x i w, (s.startRecovery p code counted why).flt = { s.flt with parts := x, idleAt := i, sweep := w } := by
  rw [State.startRecovery_eq]
  dsimp only
  obtain ⟨i, w, h⟩ := State.quiescePart_fltQuiet (p := p) (why := why)
    (s := if (s.part p).state = 2 then s.setPart p ((s.part p).recovering s.ftime code counted)
      else (s.setPart p ((s.part p).recovering s.ftime code counted)).event .gl 0 0)
  refine ⟨SMap.put Part.reset s.flt.parts p ((s.part p).recovering s.ftime code counted), i, w, h.trans ?_⟩
  split
  · rfl
  · rw [show ((s.setPart p ((s.part p).recovering s.ftime code counted)).event .gl 0 0).flt =
      (s.setPart p ((s.part p).recovering s.ftime code counted)).flt from State.event_frame .flt rfl]
    rfl

theorem State.startRecovery_peersStay {p code : Nat} {counted : Bool} {why : Option (Nat × Nat)} :
    PeersStay s (s.startRecovery p code counted why) := by
  rw [State.startRecovery_eq]
  dsimp only
  refine PeersStay.trans ?_ State.quiescePart_aside.peersStay
  split
  · exact .frame State.setPart_frame rfl rfl
  · exact (PeersStay.frame State.setPart_frame rfl rfl).trans (.frame State.event_frame rfl rfl)

/-! Folds that reach every member of a list. -/

/-- What the step of one member establishes from an invariant and every step keeps holds after a fold over a list with that member. -/
theorem foldl_establishes {α : Type} {f : State → α → State} {I P : State → Prop} {xs : List α} {a : α}
    (hI : ∀ s x, I s → I (f s x)) (he : ∀ s, I s → P (f s a)) (hP : ∀ s x, P s → P (f s x)) (ha : a ∈ xs) (hs : I s) :
    P (xs.foldl f s) := by
  have hkeep : ∀ (xs : List α) s, P s → P (xs.foldl f s) := by
    intro xs
    induction xs with
    | nil => exact fun _ h => h
    | cons x xs ih => exact fun s h => ih _ (hP s x h)
  induction xs generalizing s with
  | nil => cases ha
  | cons x xs ih =>
    rcases List.mem_cons.mp ha with rfl | h
    · exact hkeep xs _ (he s hs)
    · exact ih h (hI s x hs)

/-! The stages of a die's reset (R370). -/

/-- The stacks of half `h` lose their queues and registers. -/
def State.stacksDown (s : State) (h : Nat) : State :=
  ((List.range 4).map (fun i => 4 * h + i)).foldl (fun s k => (s.fillDone k).stkDieReset k) s

/-- The links of half `h` that are UP go DOWN. -/
def State.linksDown (s : State) (h : Nat) : State :=
  ((List.range 6).map (fun i => 6 * h + i)).foldl (fun s l => if s.linkUp l then s.downLink l else s) s

/-- The die is down, and its reset counted. -/
def State.dieMark (s : State) (h : Nat) : State :=
  s.setFlt { s.flt with
    dieRst := SMap.put 0 s.flt.dieRst h (s.ftime + 1), dieCnt := SMap.upd 0 s.flt.dieCnt h (fun n => (n + 1) % 2 ^ 32) }

/-- The launches whose accesses the die's stacks held end. -/
def State.sendersEnd (s : State) (js : List Nat) (code : Nat) : State := js.foldl (fun s t => s.endLaunch t 0x11 code) s

/-- Partitions begin to recover, uncounted. -/
def State.partsRecover (s : State) (ps : List Nat) (code : Nat) (why : Option (Nat × Nat)) : State :=
  ps.foldl (fun s p => s.startRecovery p code false why) s

/-- The pages of some instances of a block take their reset values but for their shared part. -/
def State.pagesReset (s : State) (b : Blk) (ns : List Nat) : State :=
  ns.foldl (fun s n => s.pageReset (b.page n) (keepShared b)) s

/-- The partitions that a reset of half `h` quiesces. -/
def State.diePartitions (s : State) (h : Nat) : List Nat :=
  (List.range 16).filter (fun p => (s.part p).state != 0 && (s.part p).state != 3 && (s.partUmbels p).any (fun u => u / 16 == h))

/-- The launches whose accesses lie in the queues of the stacks of half `h`. -/
def State.queueSenders (s : State) (h : Nat) : List Nat :=
  ((((List.range 4).map (fun i => 4 * h + i)).flatMap (fun k => (s.stk k).srq.filterMap (·.src))).filterMap (fun f =>
    let fl := s.fl f
    if fl.lslot = 0 then none else some (fl.lslot - 1)))

/-- The far end of a die's reset: its registers. -/
def State.dieRegsReset (s : State) (h : Nat) : State :=
  let s := (s.pagesReset .hc ((List.range 4).map (fun i => 4 * h + i))).pagesReset .pl ((List.range 6).map (fun i => 6 * h + i))
  let s := { s with cnt64 := SMap.eraseIf (fun k => decide (0x4000000 + 256 * h ≤ k) && decide (k < 0x4000000 + 256 * (h + 1))) s.cnt64 }
  (s.pageReset (Blk.page .die h) (fun _ => false)).event .die h 2

theorem State.resetDie_eq {h t code : Nat} :
    s.resetDie h t code =
      let v := (((s.stacksDown h).linksDown h).dieMark h).sendersEnd (s.queueSenders h) code
      (v.partsRecover (v.diePartitions h) code (if t = 0 then none else some (t - 1, code))).dieRegsReset h := rfl

/-! What the stages leave alone. -/

/-- The low pages' registers and the fault state stay. -/
def LowFlt (s t : State) : Prop := (∀ k, LowKey k → t.rawReg k = s.rawReg k) ∧ t.flt = s.flt

theorem LowFlt.refl : LowFlt s s := ⟨fun _ _ => rfl, rfl⟩

theorem LowFlt.trans (h : LowFlt s t) (k : LowFlt t u) : LowFlt s u :=
  ⟨fun n hn => (k.1 n hn).trans (h.1 n hn), k.2.trans h.2⟩

theorem LowFlt.foldl {α : Type} {f : State → α → State} {xs : List α} (h : ∀ s x, LowFlt s (f s x)) : LowFlt s (xs.foldl f s) := by
  induction xs generalizing s with
  | nil => exact .refl
  | cons x xs ih => exact (h s x).trans ih

theorem LowFlt.frame {ps : List Piece} (h : Frame ps s t) (hr : ps.contains .regs = false) (hf : ps.contains .flt = false) :
    LowFlt s t := ⟨fun k _ => State.rawReg_of_regs (h .regs hr) k, h .flt hf⟩

theorem Aside.lowFlt {ps : List Piece} (h : Aside s t) (hf : Frame ps s t) (hd : ps.contains .flt = false) : LowFlt s t :=
  ⟨h.low, hf .flt hd⟩

theorem LowFlt.step {ps : List Piece} (h : Frame ps t u) (hr : ps.contains .regs = false) (hf : ps.contains .flt = false)
    (k : LowFlt s t) : LowFlt s u := k.trans (.frame h hr hf)

theorem State.fillDone_low {k : Nat} : LowFlt s (s.fillDone k) := by
  unfold State.fillDone
  dsimp only
  split
  · exact .refl
  · refine .step State.setStk_frame rfl rfl (LowFlt.trans ?_ ((State.setReg_aside rfl (by decide)).lowFlt State.setReg_frame rfl))
    refine .step State.cnt_frame rfl rfl (LowFlt.trans ?_ (.foldl fun _ _ =>
      .frame (Frame.set_cnt64 (ps := [.cnt64]) rfl .refl) rfl rfl))
    refine .foldl fun s p => ?_
    split
    · exact .step (Frame.set_hbm (ps := [.hbm]) rfl .refl) rfl rfl (.frame State.fresh_frame rfl rfl)
    · exact .frame State.fresh_frame rfl rfl

theorem State.stacksDown_low {h : Nat} : LowFlt s (s.stacksDown h) :=
  .foldl fun _ _ => .step State.stkDieReset_frame rfl rfl State.fillDone_low

theorem State.floodLsa_aside : Aside s s.floodLsa := by
  unfold State.floodLsa
  exact Aside.step (.foldl fun _ _ => .ite State.emit_aside .refl) (Aside.of_fab rfl rfl)

/-- The link itself as it goes DOWN, before its event and its link-state report. -/
def State.unlink (s : State) (l : Nat) : State :=
  let x := s.link l
  s.setLink l { x with state := 0, downAt := if x.state = 2 then s.ftime else x.downAt, wasUp := x.wasUp || x.state == 2 }

theorem State.downLink_eq {l : Nat} :
    s.downLink l = (if (s.link l).state = 2 then (s.unlink l).event .pl l 1 else s.unlink l).floodLsa := rfl

theorem State.downLink_rest {l : Nat} : Aside (s.unlink l) (s.downLink l) := by
  rw [State.downLink_eq]
  exact Aside.step State.floodLsa_aside (.ite (State.event_aside rfl) .refl)

theorem State.unlink_state {l m : Nat} : ((s.unlink l).link m).state = if m = l then 0 else (s.link m).state := by
  unfold State.unlink
  split
  · next h =>
    subst h
    rw [State.link_setLink]
  · next h => rw [State.link_setLink_ne _ _ h]

theorem State.downLink_state {l m : Nat} : ((s.downLink l).link m).state = if m = l then 0 else (s.link m).state := by
  rw [State.downLink_rest.links, State.unlink_state]

theorem State.downLink_stk {l : Nat} (k : Nat) : ((s.downLink l).stk k).srq = (s.stk k).srq ∧
    ((s.downLink l).stk k).filling = (s.stk k).filling ∧ ((s.downLink l).stk k).temp = (s.stk k).temp :=
  State.downLink_rest.stks k

theorem State.linksDown_low {h : Nat} : LowFlt s (s.linksDown h) := by
  refine .foldl fun s l => ?_
  split
  · exact ⟨fun k hk => State.downLink_rest.low k hk, State.downLink_frame .flt rfl⟩
  · exact .refl

theorem State.dieMark_frame {h : Nat} : Frame [.flt] s (s.dieMark h) := State.setFlt_frame

theorem State.sendersEnd_aside {js : List Nat} {code : Nat} : Aside s (s.sendersEnd js code) := .foldl fun _ _ => State.endLaunch_aside

theorem State.sendersEnd_fltQuiet {js : List Nat} {code : Nat} : FltQuiet s (s.sendersEnd js code) :=
  .foldl fun _ _ => State.endLaunch_fltQuiet

theorem State.partsRecover_peersStay {ps : List Nat} {code : Nat} {why : Option (Nat × Nat)} :
    PeersStay s (s.partsRecover ps code why) := .foldl fun _ _ => State.startRecovery_peersStay

theorem State.pagesReset_frame {b : Blk} {ns : List Nat} : Frame [.regs, .latch, .cnt64, .logPtr] s (s.pagesReset b ns) :=
  Frame.foldl fun _ _ => State.pageReset_frame

theorem State.dieRegsReset_frame {h : Nat} : Frame [.regs, .latch, .cnt64, .logPtr, .hostOut] s (s.dieRegsReset h) := by
  unfold State.dieRegsReset
  dsimp only
  refine Frame.step State.event_frame rfl (Frame.step State.pageReset_frame rfl (Frame.set_cnt64 rfl ?_))
  exact Frame.step State.pagesReset_frame rfl (State.pagesReset_frame.mono rfl)

/-! What they reach. -/

/-- The stack's queue, fill and temperature are gone. -/
def StackDown (k : Nat) (s : State) : Prop := (s.stk k).srq = [] ∧ (s.stk k).filling = false ∧ (s.stk k).temp = 0

theorem StackDown.of_peersStay {k : Nat} (h : StackDown k s) (hp : PeersStay s t) : StackDown k t := by
  obtain ⟨h1, h2, h3⟩ := h
  obtain ⟨e1, e2, e3⟩ := hp.2 k
  exact ⟨e1.trans h1, e2.trans h2, e3.trans h3⟩

theorem State.stk_stkDieReset {k : Nat} : StackDown k (s.stkDieReset k) := by
  have h : (s.stkDieReset k).stk k = _ := State.stk_setStk s k _
  unfold StackDown
  rw [h]
  exact ⟨rfl, rfl, rfl⟩

theorem State.stk_stkDieReset_ne {j k : Nat} (h : k ≠ j) : (s.stkDieReset j).stk k = s.stk k := State.stk_setStk_ne _ _ h

theorem State.stk_fold_hbm {α : Type} {f : State → α → State} {xs : List α} (h : ∀ s x, (f s x).hbm.stk = s.hbm.stk) :
    (xs.foldl f s).hbm.stk = s.hbm.stk := by
  induction xs generalizing s with
  | nil => rfl
  | cons x xs ih => exact ih.trans (h s x)

theorem State.stk_fillDone_ne {j k : Nat} (h : k ≠ j) : (s.fillDone j).stk k = s.stk k := by
  unfold State.fillDone
  dsimp only
  split
  · rfl
  · rw [State.stk_setStk_ne _ _ h]
    unfold State.stk
    have hset : ∀ (t : State) v, (t.setReg .hc j 0x244 v).hbm.stk = t.hbm.stk := fun _ _ => rfl
    have hcnt : ∀ (t : State) v, (t.cnt .hc j Off.hcWr v).hbm.stk = t.hbm.stk := fun _ _ => rfl
    rw [hset, hcnt, State.stk_fold_hbm, State.stk_fold_hbm]
    · intro u p
      split <;> rfl
    · exact fun _ _ => rfl

theorem StackDown.stkDieReset {j k : Nat} (h : StackDown k s) : StackDown k ((s.fillDone j).stkDieReset j) := by
  by_cases hk : k = j
  · subst hk
    exact State.stk_stkDieReset
  · unfold StackDown
    rwa [State.stk_stkDieReset_ne hk, State.stk_fillDone_ne hk]

theorem mem_half {n h k : Nat} (h1 : n * h ≤ k) (h2 : k < n * h + n) : k ∈ (List.range n).map (fun i => n * h + i) :=
  List.mem_map.mpr ⟨k - n * h, List.mem_range.mpr (by omega), by omega⟩

theorem State.stacksDown_down {h k : Nat} (h1 : 4 * h ≤ k) (h2 : k < 4 * h + 4) : StackDown k (s.stacksDown h) :=
  foldl_establishes (I := fun _ => True) (fun _ _ _ => trivial) (fun _ _ => State.stk_stkDieReset) (fun _ _ => StackDown.stkDieReset)
    (mem_half h1 h2) trivial

theorem StackDown.linksDown {h k : Nat} (hs : StackDown k s) : StackDown k (s.linksDown h) := by
  have hfold : ∀ (xs : List Nat) (s : State), StackDown k s →
      StackDown k (xs.foldl (fun s l => if s.linkUp l then s.downLink l else s) s) := by
    intro xs
    induction xs with
    | nil => exact fun _ h => h
    | cons l xs ih =>
      refine fun s hs => ih _ ?_
      dsimp only
      split
      · obtain ⟨e1, e2, e3⟩ := State.downLink_stk (s := s) (l := l) k
        obtain ⟨h1, h2, h3⟩ := hs
        exact ⟨e1.trans h1, e2.trans h2, e3.trans h3⟩
      · exact hs
  exact hfold _ _ hs

theorem State.stacksDown_frame {h : Nat} : Frame [.regs, .cnt64, .freeCtr, .hbm] s (s.stacksDown h) :=
  Frame.foldl fun _ _ => Frame.step State.stkDieReset_frame rfl State.fillDone_frame

/-- Every link of the half that was UP is DOWN. -/
theorem State.linksDown_state {h l : Nat} (h1 : 6 * h ≤ l) (h2 : l < 6 * h + 6) (hu : s.linkUp l = true) :
    ((s.linksDown h).link l).state = 0 := by
  refine foldl_establishes (I := fun s => s.linkUp l = true ∨ (s.link l).state = 0) (P := fun s => (s.link l).state = 0)
    (fun s m hi => ?_) (fun s hi => ?_) (fun s m hp => ?_) (mem_half h1 h2) (.inl hu)
  · split
    · by_cases hm : l = m
      · exact .inr (by rw [State.downLink_state, if_pos hm])
      · refine hi.imp (fun hu => ?_) (fun h0 => by rw [State.downLink_state, if_neg hm, h0])
        unfold State.linkUp State.linkPresent at *
        rwa [State.downLink_state, if_neg hm, show (s.downLink m).variant = s.variant from State.downLink_frame .variant rfl]
    · exact hi
  · rcases hi with hu | h0
    · rw [if_pos hu, State.downLink_state, if_pos rfl]
    · split
      · rw [State.downLink_state, if_pos rfl]
      · exact h0
  · split
    · rw [State.downLink_state]
      split
      · rfl
      · exact hp
    · exact hp

/-- The own registers of a page hold their reset values. -/
def PageFresh (b : Blk) (n : Nat) (s : State) : Prop :=
  ∀ key, key / 4096 = Blk.page b n → sharedPage b (key % 4096) = false → s.rawReg key = regReset key

theorem State.pageReset_fresh {b : Blk} {n : Nat} : PageFresh b n (s.pageReset (b.page n) (keepShared b)) := fun key hk hs => by
  rw [State.rawReg_pageReset, if_pos ⟨hk, hs⟩]

theorem PageFresh.pageReset {b : Blk} {n g : Nat} {keep : Nat → Bool} (h : PageFresh b n s) : PageFresh b n (s.pageReset g keep) := by
  intro key hk hs
  rw [State.rawReg_pageReset]
  split
  · rfl
  · exact h key hk hs

theorem State.pagesReset_fresh {b : Blk} {n : Nat} {ns : List Nat} (hn : n ∈ ns) : PageFresh b n (s.pagesReset b ns) :=
  foldl_establishes (I := fun _ => True) (fun _ _ _ => trivial) (fun _ _ => State.pageReset_fresh) (fun _ _ => PageFresh.pageReset)
    hn trivial

theorem PageFresh.pagesReset {b c : Blk} {n : Nat} {ns : List Nat} (h : PageFresh b n s) : PageFresh b n (s.pagesReset c ns) := by
  induction ns generalizing s with
  | nil => exact h
  | cons m ns ih => exact ih h.pageReset

theorem PageFresh.regs {b : Blk} {n : Nat} (h : PageFresh b n s) (hr : t.regs = s.regs) : PageFresh b n t :=
  fun key hk hs => (State.rawReg_of_regs hr key).trans (h key hk hs)

/-- An event of the die's page changes no register of a page that lies elsewhere. -/
theorem PageFresh.dieEvent {b : Blk} {n h e : Nat} (hb : b.page n < 0x1000) (hd : b.page n ≠ 8 + h) (hf : PageFresh b n s) :
    PageFresh b n (s.event .die h e) := by
  intro key hk hs
  have hne : ∀ off, off < 4096 → key ≠ State.regKey .die h off := by
    intro off ho he
    have hp : key / 4096 = 8 + h := by
      rw [he]
      exact regOff_page ho
    omega
  rw [State.rawReg_event (by unfold PageKey; omega) (hne _ (by decide)) (hne _ (by decide)), hf key hk hs]

theorem State.dieRegsReset_hc {h k : Nat} (hh : h < 2) (h1 : 4 * h ≤ k) (h2 : k < 4 * h + 4) : PageFresh .hc k (s.dieRegsReset h) := by
  unfold State.dieRegsReset
  refine PageFresh.dieEvent (show 0x10 + k < 0x1000 by omega) (show 0x10 + k ≠ 8 + h by omega) (PageFresh.pageReset ?_)
  exact (PageFresh.pagesReset (State.pagesReset_fresh (mem_half h1 h2))).regs rfl

theorem State.dieRegsReset_pl {h l : Nat} (hh : h < 2) (h1 : 6 * h ≤ l) (h2 : l < 6 * h + 6) : PageFresh .pl l (s.dieRegsReset h) := by
  unfold State.dieRegsReset
  refine PageFresh.dieEvent (show 0x20 + l < 0x1000 by omega) (show 0x20 + l ≠ 8 + h by omega) (PageFresh.pageReset ?_)
  exact (State.pagesReset_fresh (mem_half h1 h2)).regs rfl

theorem State.partUmbels_of_low (h : ∀ k, LowKey k → t.rawReg k = s.rawReg k) {p : Nat} (hp : p < 16) :
    t.partUmbels p = s.partUmbels p := by
  unfold State.partUmbels State.partMask State.reg
  have hk : LowKey (State.regKey .gl 0 (0x400 + 8 * p)) := by
    left
    exact regOff_page (b := .gl) (n := 0) (by omega)
  rw [h _ hk]

/-- Each listed partition recovers. -/
theorem State.partsRecover_state {ps : List Nat} {code p : Nat} {why : Option (Nat × Nat)} (hp : p ∈ ps) :
    ((s.partsRecover ps code why).part p).state = 2 := by
  refine foldl_establishes (I := fun _ => True) (P := fun s => (s.part p).state = 2)
    (fun _ _ _ => trivial) (fun s _ => ?_) (fun s q h => ?_) hp trivial
  · rw [State.part_startRecovery, if_pos rfl]
    rfl
  · rw [State.part_startRecovery]
    split
    · rfl
    · exact h

/-- The records of partitions, the idle times and the sweep test apart, the fault state stays. -/
theorem State.partsRecover_flt {ps : List Nat} {code : Nat} {why : Option (Nat × Nat)} :
    ∃ x i w, (s.partsRecover ps code why).flt = { s.flt with parts := x, idleAt := i, sweep := w } := by
  unfold State.partsRecover
  induction ps generalizing s with
  | nil => exact ⟨_, _, _, rfl⟩
  | cons p ps ih =>
    obtain ⟨x, i, w, h⟩ := ih (s := s.startRecovery p code false why)
    obtain ⟨y, j, v, h'⟩ := State.startRecovery_flt (s := s) (p := p) (code := code) (counted := false) (why := why)
    exact ⟨x, i, w, by rw [List.foldl_cons, h, h']⟩

/-! The device reset's start (R371). -/

/-- The fault state of a device reset that has started. -/
def Faults.devStarted (f : Faults) (now : Nat) (counted : Bool) : Faults :=
  { f with
    devRst := 1, devAt := now, devReq := false, devCounted := counted
    devTimes := if counted then now :: recent now 600000000000 f.devTimes else recent now 600000000000 f.devTimes }

/-- Every slot's launch ends for the reset. -/
def State.endAll (s : State) : State := (List.range 64).foldl (fun s j => s.endLaunch j 0x12 0) s

theorem State.devStart_eq {counted : Bool} :
    s.devStart counted = if s.flt.devRst ≠ 0 ∨ s.boot.aonLow = true then s
      else (s.setFlt (s.flt.devStarted s.ftime counted)).endAll := rfl

theorem State.devStart_calm {counted : Bool} (h : s.flt.devRst = 0 ∧ s.boot.aonLow = false) :
    s.devStart counted = (s.setFlt (s.flt.devStarted s.ftime counted)).endAll := by
  rw [State.devStart_eq, if_neg (by simp [h.1, h.2])]

theorem State.endAll_fltQuiet : FltQuiet s s.endAll := .foldl fun _ _ => State.endLaunch_fltQuiet

theorem State.devStart_flt {counted : Bool} (h : s.flt.devRst = 0 ∧ s.boot.aonLow = false) :
    ∃ i w, (s.devStart counted).flt = { s.flt.devStarted s.ftime counted with idleAt := i, sweep := w } := by
  rw [State.devStart_calm h]
  exact State.endAll_fltQuiet

theorem State.endAll_noLaunch (h : Sys2Proof.Claims.NoLaunch s) : s.endAll = s := by
  have hfold : ∀ xs : List Nat, xs.foldl (fun s j => s.endLaunch j 0x12 0) s = s := by
    intro xs
    induction xs with
    | nil => rfl
    | cons j xs ih =>
      rw [List.foldl_cons, State.endLaunch_eq, if_neg fun he => h j he.1]
      exact ih
  exact hfold _

end Sys2Proof.Machine

namespace Sys2Proof.Claims
open Sys2Proof.Machine

variable {s t : State}

/-- What every start of a device reset does: it begins, and the launches end. -/
structure ResetStarts (s t : State) (counted : Bool) : Prop where
  starts : DevStarts s t counted
  taken : t.flt.devReq = false
  idle : NoLaunch s → Frame [.flt] s t
  ends : Tidy s → ∀ k, Running s k → Ended s t k

theorem devStart_starts {counted : Bool} (h : s.flt.devRst = 0 ∧ s.boot.aonLow = false) : ResetStarts s (s.devStart counted) counted where
  starts := by
    obtain ⟨i, w, hf⟩ := State.devStart_flt (counted := counted) h
    unfold DevStarts
    rw [hf]
    exact ⟨rfl, rfl, rfl⟩
  taken := by
    obtain ⟨i, w, hf⟩ := State.devStart_flt (counted := counted) h
    rw [hf]
    rfl
  idle hn := by
    rw [State.devStart_calm h, State.endAll_noLaunch (s := s.setFlt (s.flt.devStarted s.ftime counted)) hn]
    exact State.setFlt_frame
  ends ht k hr := by
    rw [State.devStart_calm h]
    unfold State.endAll
    have ha : Away k (s.lsl k) (s.setFlt (s.flt.devStarted s.ftime counted)) := (away_of_tidy ht hr).frame State.setFlt_frame rfl
    generalize s.setFlt (s.flt.devStarted s.ftime counted) = u at ha
    obtain ⟨ho, hc⟩ := AwayOrOver.endAll hr.2 (List.mem_range.mpr hr.1) (.inl ha)
    exact ended_of_over ho hc

/-- A die's reset takes down its stacks, its links, its partitions and its registers (R18, R302, R332, R370). -/
theorem resetDie_effect {h c code : Nat} (hh : h < 2) :
    let t := s.resetDie h c code
    t.dieDown h = true ∧ t.flt.dieReq = s.flt.dieReq ∧
    (∀ l, 6 * h ≤ l → l < 6 * h + 6 → s.linkUp l = true → (t.link l).state = 0) ∧
    (∀ k, 4 * h ≤ k → k < 4 * h + 4 → StackDown k t ∧ PageFresh .hc k t) ∧
    (∀ l, 6 * h ≤ l → l < 6 * h + 6 → PageFresh .pl l t) ∧
    (∀ p, p < 16 → (s.part p).state = 1 → (∃ u ∈ s.partUmbels p, u / 16 = h) → (t.part p).state = 2) := by
  rw [State.resetDie_eq]
  generalize s.queueSenders h = js
  generalize (if c = 0 then none else some (c - 1, code)) = why
  dsimp only
  have hlow1 : LowFlt s ((s.stacksDown h).linksDown h) := State.stacksDown_low.trans State.linksDown_low
  have hup : ∀ l, s.linkUp l = true → (s.stacksDown h).linkUp l = true := fun l hl => by
    unfold State.linkUp State.linkPresent State.link at *
    rwa [show (s.stacksDown h).fab = s.fab from State.stacksDown_frame .fab rfl,
      show (s.stacksDown h).variant = s.variant from State.stacksDown_frame .variant rfl]
  have hlink : ∀ l, 6 * h ≤ l → l < 6 * h + 6 → s.linkUp l = true → (((s.stacksDown h).linksDown h).link l).state = 0 :=
    fun l h1 h2 hl => State.linksDown_state h1 h2 (hup l hl)
  have hstk : ∀ k, 4 * h ≤ k → k < 4 * h + 4 → StackDown k ((s.stacksDown h).linksDown h) :=
    fun k h1 h2 => (State.stacksDown_down h1 h2).linksDown
  generalize (s.stacksDown h).linksDown h = s1 at *
  have hflt2 : FltQuiet (s1.dieMark h) ((s1.dieMark h).sendersEnd js code) := State.sendersEnd_fltQuiet
  have hside2 : Aside s1 ((s1.dieMark h).sendersEnd js code) :=
    Aside.step State.sendersEnd_aside (.of_frame State.dieMark_frame rfl)
  generalize (s1.dieMark h).sendersEnd js code = s2 at *
  have hpeers : PeersStay s1 ((s2.partsRecover (s2.diePartitions h) code why).dieRegsReset h) :=
    (hside2.peersStay.trans State.partsRecover_peersStay).trans (.frame State.dieRegsReset_frame rfl rfl)
  have hflt : ((s2.partsRecover (s2.diePartitions h) code why).dieRegsReset h).flt = (s2.partsRecover (s2.diePartitions h) code why).flt :=
    State.dieRegsReset_frame .flt rfl
  obtain ⟨x, i, w, hrec⟩ := State.partsRecover_flt (s := s2) (ps := s2.diePartitions h) (code := code) (why := why)
  obtain ⟨j, v, hq⟩ := hflt2
  refine ⟨?_, ?_, fun l h1 h2 hl => (hpeers.1 l).trans (hlink l h1 h2 hl),
    fun k h1 h2 => ⟨(hstk k h1 h2).of_peersStay hpeers, State.dieRegsReset_hc hh h1 h2⟩,
    fun l h1 h2 => State.dieRegsReset_pl hh h1 h2, fun p hp hlive hu => ?_⟩
  · unfold State.dieDown
    rw [hflt, hrec, hq]
    unfold State.dieMark State.setFlt
    simp
  · rw [hflt, hrec, hq]
    exact show s1.flt.dieReq = s.flt.dieReq by rw [hlow1.2]
  · unfold State.part
    rw [hflt]
    refine State.partsRecover_state ?_
    have hpart : s2.part p = s.part p := by
      unfold State.part
      rw [hq, ← hlow1.2]
      rfl
    have humb : s2.partUmbels p = s.partUmbels p :=
      State.partUmbels_of_low (fun k hk => (hside2.low k hk).trans (hlow1.1 k hk)) hp
    unfold State.diePartitions
    refine List.mem_filter.mpr ⟨List.mem_range.mpr hp, ?_⟩
    obtain ⟨u, hmem, hu⟩ := hu
    rw [hpart, humb, hlive]
    simpa using ⟨u, hmem, hu⟩

end Sys2Proof.Claims

namespace Sys2Proof.Machine

variable {s t : State}

/-! The device reset itself (R371). -/

theorem SMap.get_eraseIf {α : Type} {d : α} {m : SMap α} {p : Nat → Bool} {k : Nat} :
    SMap.get d (SMap.eraseIf p m) k = if p k = true then d else SMap.get d m k := by
  unfold SMap.eraseIf
  induction m with
  | nil => simp
  | cons e m ih =>
    obtain ⟨j, v⟩ := e
    rw [List.filter_cons]
    by_cases hk : k = j
    · subst hk
      by_cases hp : p k = true
      · simpa [hp] using ih
      · simp [hp, SMap.get]
    · rw [SMap.get, if_neg hk, ← ih]
      split
      · rw [SMap.get, if_neg hk]
      · rfl

/-- What a map gives is its default or one of its cells. -/
theorem SMap.get_cases {α : Type} {d : α} {m : SMap α} {k : Nat} : SMap.get d m k = d ∨ ∃ e ∈ m, SMap.get d m k = e.2 := by
  induction m with
  | nil => exact .inl rfl
  | cons e m ih =>
    obtain ⟨j, v⟩ := e
    rw [SMap.get]
    split
    · exact .inr ⟨_, List.mem_cons_self, rfl⟩
    · exact ih.imp_right fun ⟨e, he, h⟩ => ⟨e, List.mem_cons_of_mem _ he, h⟩

/-- The state of every sequence slot becomes 0. -/
def State.seqsFree (s : State) : State :=
  (List.range s.seqSlots).foldl (fun s q => let e := s.seqGet q; if e.state = 0 then s else s.seqSet q 0 e.gen) s

theorem State.seqsFree_aside : Aside s s.seqsFree := by
  refine .foldl fun s q => ?_
  dsimp only
  exact .ite .refl State.memPutN_aside

theorem State.seqsFree_frame :
    Frame [.regs, .cnt64, .sram, .hostMem, .reports, .hostOut, .hbm, .logPtr, .pw, .hostReads] s s.seqsFree :=
  Frame.foldl fun _ _ => Frame.ite .refl State.seqSet_frame

/-- A device reset leaves the low pages of the always-on domain and gives every other register its reset value. -/
theorem State.rawReg_deviceReset {k : Nat} :
    s.deviceReset.rawReg k = if k / 4096 = 2 ∨ k / 4096 = 3 then s.rawReg k else regReset k := by
  have h : s.deviceReset.regs = SMap.eraseIf (fun k => !(k / 4096 == 2 || k / 4096 == 3)) s.seqsFree.regs := rfl
  unfold State.rawReg
  rw [h, SMap.get_eraseIf]
  by_cases hk : k / 4096 = 2 ∨ k / 4096 = 3
  · rw [if_pos hk, if_neg (by simp; omega)]
    exact State.seqsFree_aside.low k (.inr hk)
  · rw [if_neg hk, if_pos (by simp; omega)]

theorem State.stk_deviceReset {k : Nat} : (s.deviceReset.stk k).state = 0 := by
  have h : s.deviceReset.hbm.stk = s.seqsFree.hbm.stk.map (fun x => (x.1, { Stack.reset with fill := x.2.fill })) := rfl
  unfold State.stk
  rw [h]
  obtain h0 | ⟨e, he, h0⟩ := SMap.get_cases (d := Stack.reset) (k := k)
    (m := s.seqsFree.hbm.stk.map (fun x => (x.1, { Stack.reset with fill := x.2.fill })))
  · rw [h0]
    rfl
  · rw [h0]
    obtain ⟨x, -, rfl⟩ := List.mem_map.mp he
    rfl

/-- An umbel's power state at a device reset: gated, its clock forgotten. -/
def PwUmb.off (x : PwUmb) : PwUmb :=
  { x with state := 0, freq := 0, guard := false, hold := 0, idleSoon := false, stretch := 0, alarm := false }

theorem State.pwUmb_deviceReset {u : Nat} : (s.deviceReset.pwUmb u).state = 0 := by
  have h : s.deviceReset.pw.umbs = (s.seqsFree.pw.umbs.map (fun x => (x.1, x.2.off))).filter (fun x => x.2 ≠ PwUmb.reset) := rfl
  unfold State.pwUmb
  rw [h]
  obtain h0 | ⟨e, he, h0⟩ := SMap.get_cases (d := PwUmb.reset) (k := u)
    (m := (s.seqsFree.pw.umbs.map (fun x => (x.1, x.2.off))).filter (fun x => x.2 ≠ PwUmb.reset))
  · rw [h0]
    rfl
  · rw [h0]
    obtain ⟨x, -, rfl⟩ := List.mem_map.mp (List.mem_filter.mp he).1
    rfl

/-- The device reset's state with the boot record of a warm start. -/
def State.warmStart (s : State) : State :=
  { s.deviceReset with boot := { s.deviceReset.boot with
      warm := true, fail := 0, topoWait := false, trainValid := false, startAt := s.deviceReset.ftime, base := 0, ms := 0, step7 := 0, cur := []
      recovery := false } }

theorem execDeviceResetRun_eq :
    execDeviceResetRun s = .next (if s.flt.devRst ≠ 1 ∨ s.ftime - s.flt.devAt < 100000 then s
      else if (s.flt.oos || (s.flt.devCounted && decide (3 ≤ s.flt.devTimes.length))) = true then
        ((s.warmStart.setFlt { s.warmStart.flt with oos := true }).bootTo 9).event .gl 0 2
      else s.warmStart.bootTo 2) := rfl

end Sys2Proof.Machine

namespace Sys2Proof.Claims
open Sys2Proof.Machine

variable {s t : State}

/-- What a device reset has made of the device, in service or out of it (R371). -/
structure Restarted (s t : State) : Prop where
  fls : t.fls = []
  ums : t.ums = []
  fe : t.fe = Front.reset
  sec : t.sec.state = 0
  keys : t.sec.keySet = s.sec.keySet
  ret : t.hbm.ret = s.hbm.ret
  devRst : t.flt.devRst = 0
  stk : ∀ k, (t.stk k).state = 0
  umb : ∀ u, (t.pwUmb u).state = 0

theorem warmStart_restarted : Restarted s s.warmStart where
  fls := rfl
  ums := rfl
  fe := rfl
  sec := rfl
  keys := show s.seqsFree.sec.keySet = s.sec.keySet from congrArg Sec.keySet (State.seqsFree_frame .sec rfl)
  ret := State.seqsFree_aside.ret
  devRst := rfl
  stk _ := State.stk_deviceReset
  umb _ := State.pwUmb_deviceReset

theorem Restarted.frame {ps : List Piece} (h : Restarted s t) {u : State} (hf : Frame ps t u) (hfl : ps.contains .fls = false)
    (hum : ps.contains .ums = false) (hfe : ps.contains .fe = false) (hsec : ps.contains .sec = false) (hhbm : ps.contains .hbm = false)
    (hpw : ps.contains .pw = false) (hd : u.flt.devRst = t.flt.devRst) : Restarted s u where
  fls := (hf .fls hfl : u.fls = t.fls).trans h.fls
  ums := (hf .ums hum : u.ums = t.ums).trans h.ums
  fe := (hf .fe hfe : u.fe = t.fe).trans h.fe
  sec := (congrArg Sec.state (hf .sec hsec : u.sec = t.sec)).trans h.sec
  keys := (congrArg Sec.keySet (hf .sec hsec : u.sec = t.sec)).trans h.keys
  ret := (congrArg Hbm.ret (hf .hbm hhbm : u.hbm = t.hbm)).trans h.ret
  devRst := hd.trans h.devRst
  stk k := by rw [State.stk_of_hbm (hf .hbm hhbm : u.hbm = t.hbm), h.stk]
  umb v := by
    have hp : u.pwUmb v = t.pwUmb v := by
      unfold State.pwUmb
      rw [show u.pw = t.pw from hf .pw hpw]
    rw [hp, h.umb]

theorem deviceResetRun_effect (h1 : s.flt.devRst = 1) (h2 : 100000 ≤ s.ftime - s.flt.devAt) :
    ∃ t, execDeviceResetRun s = .next t ∧ Restarted s t ∧
      ((s.flt.oos = true ∨ (s.flt.devCounted = true ∧ 3 ≤ s.flt.devTimes.length)) → t.boot.state = 9 ∧ t.flt.oos = true) ∧
      (¬ (s.flt.oos = true ∨ (s.flt.devCounted = true ∧ 3 ≤ s.flt.devTimes.length)) → t.boot.state = 2 ∧ t.boot.warm = true ∧
        ∀ k, t.rawReg k = (if k / 4096 = 2 ∨ k / 4096 = 3 then s.rawReg k else regReset k)) := by
  have hout : (s.flt.oos || (s.flt.devCounted && decide (3 ≤ s.flt.devTimes.length))) = true ↔
      (s.flt.oos = true ∨ (s.flt.devCounted = true ∧ 3 ≤ s.flt.devTimes.length)) := by simp
  rw [execDeviceResetRun_eq, if_neg (by omega)]
  refine ⟨_, rfl, ?_⟩
  by_cases ho : s.flt.oos = true ∨ (s.flt.devCounted = true ∧ 3 ≤ s.flt.devTimes.length)
  · rw [if_pos (hout.mpr ho)]
    have hb : Restarted s ((s.warmStart.setFlt { s.warmStart.flt with oos := true }).bootTo 9) :=
      warmStart_restarted.frame (ps := [.flt, .boot, .mgmt])
        (Frame.step State.bootTo_frame rfl (State.setFlt_frame.mono rfl)) rfl rfl rfl rfl rfl rfl rfl
    generalize hu : (s.warmStart.setFlt { s.warmStart.flt with oos := true }).bootTo 9 = u at hb
    have hboot : u.boot.state = 9 := by rw [← hu]; rfl
    have hoos : u.flt.oos = true := by rw [← hu]; rfl
    have he : Frame [.regs, .hostOut] u (u.event .gl 0 2) := State.event_frame
    have hboot' : (u.event .gl 0 2).boot = u.boot := he .boot rfl
    have hflt' : (u.event .gl 0 2).flt = u.flt := he .flt rfl
    refine ⟨hb.frame he rfl rfl rfl rfl rfl rfl (by rw [hflt']), fun _ => ⟨?_, ?_⟩, fun hn => absurd ho hn⟩
    · rw [hboot', hboot]
    · rw [hflt', hoos]
  · rw [if_neg (mt hout.mp ho)]
    exact ⟨warmStart_restarted.frame State.bootTo_frame rfl rfl rfl rfl rfl rfl rfl, fun h => absurd h ho,
      fun _ => ⟨rfl, rfl, fun k => State.rawReg_deviceReset⟩⟩

theorem dieReset_none {half : Bool} (h : s.flt.dieReq.find? (fun r => r.1 = b2n half) = none) :
    exec (.dieReset half) s = .next s := by
  show execDieReset half s = _
  unfold execDieReset
  dsimp only
  rw [h]

/-- The state in which a called-for reset of a die begins: its calls are taken, its time is noted. -/
def dieCalled (s : State) (h : Nat) : State :=
  s.setFlt { s.flt with
    dieReq := s.flt.dieReq.filter (fun r => r.1 ≠ h)
    dieTimes := SMap.put [] s.flt.dieTimes h (s.ftime :: recent s.ftime 600000000000 (SMap.get [] s.flt.dieTimes h)) }

theorem dieReset_some {half : Bool} {r : Nat × Nat × Nat} (h : s.flt.dieReq.find? (fun r => r.1 = b2n half) = some r) :
    exec (.dieReset half) s = .next (
      if 3 ≤ (s.ftime :: recent s.ftime 600000000000 (SMap.get [] s.flt.dieTimes (b2n half))).length then
        (dieCalled s (b2n half)).devStart true
      else (dieCalled s (b2n half)).resetDie (b2n half) r.2.1 r.2.2) := by
  show execDieReset half s = _
  unfold execDieReset
  dsimp only
  rw [h]
  rfl

theorem d2dLaneRepair_spare {half : Bool} {lane : Nat} (h : SMap.get 0 s.flt.d2dUsed (b2n half) < 16) :
    exec (.d2dLaneRepair half lane) s =
      .next (s.setFlt { s.flt with
        d2dUsed := SMap.put 0 s.flt.d2dUsed (b2n half) (SMap.get 0 s.flt.d2dUsed (b2n half) + 1) }) := by
  show execD2dLaneRepair half lane s = _
  unfold execD2dLaneRepair
  rw [if_pos h]

theorem d2dLaneRepair_report {half : Bool} {lane : Nat} (h : 16 ≤ SMap.get 0 s.flt.d2dUsed (b2n half)) :
    exec (.d2dLaneRepair half lane) s =
      .next ((s.event .die (b2n half) 1).report Code.d2dFail (0x200 + 16 * b2n half) 0 0) := by
  show execD2dLaneRepair half lane s = _
  unfold execD2dLaneRepair
  rw [if_neg (by omega)]

end Sys2Proof.Claims

open Sys2Proof Sys2Proof.Machine

/-- Settles O49: a die's reset stage by stage, the start that all device resets share, and the restart. -/
theorem dieAndDeviceResetsRun : Obligations.DieAndDeviceResetsRun := by
  unfold Obligations.DieAndDeviceResetsRun
  intro half s
  dsimp only
  have hh : b2n half < 2 := by cases half <;> decide
  refine ⟨fun r hr hcalm => ?_, Claims.dieReset_none, ⟨_, rfl, ?_, fun k hk => ?_, State.setFlt_frame⟩, fun hcalm hreq => ?_,
    fun hcalm => ?_, fun hcalm => ?_, fun hcalm => ?_, fun h1 h2 => ?_, fun lane => ⟨fun h => ?_, fun h => ?_⟩⟩
  · have hcalm' : (Claims.dieCalled s (b2n half)).flt.devRst = 0 ∧ (Claims.dieCalled s (b2n half)).boot.aonLow = false := hcalm
    refine ⟨fun hlt => ⟨_, (Claims.dieReset_some hr).trans (by rw [if_neg (by omega)]), ?_⟩,
      fun hle => ⟨_, (Claims.dieReset_some hr).trans (by rw [if_pos hle]), (Claims.devStart_starts hcalm').starts, ?_⟩⟩
    · obtain ⟨hdown, hreq, hlinks, hstks, hpls, hparts⟩ :=
        Claims.resetDie_effect (s := Claims.dieCalled s (b2n half)) (c := r.2.1) (code := r.2.2) hh
      refine ⟨hdown, fun x => ?_, hlinks, fun k h1 h2 => ?_, fun l key h1 h2 => hpls l h1 h2 key, hparts⟩
      · rw [hreq]
        simp [Claims.dieCalled, State.setFlt]
      · obtain ⟨⟨hsrq, hfill, htemp⟩, hfresh⟩ := hstks k h1 h2
        exact ⟨hsrq, hfill, htemp, hfresh⟩
    · obtain ⟨i, w, hf⟩ := State.devStart_flt (counted := true) hcalm'
      unfold State.dieDown
      rw [hf]
      rfl
  · unfold State.dieDown State.setFlt
    simp
  · unfold State.dieDown State.setFlt
    rw [SMap.get_put_ne hk]
  · obtain ⟨hstarts, htaken, hidle, hends⟩ := Claims.devStart_starts (counted := true) hcalm
    exact ⟨_, congrArg Host.Outcome.next (if_pos (c := s.flt.devReq = true) hreq), hstarts, htaken, hidle, hends⟩
  · obtain ⟨hstarts, -, hidle, hends⟩ := Claims.devStart_starts (counted := false) hcalm
    exact ⟨_, rfl, hstarts, hidle, hends⟩
  · obtain ⟨hstarts, -, hidle, hends⟩ := Claims.devStart_starts (counted := false) hcalm
    exact ⟨_, rfl, hstarts, hidle, hends⟩
  · obtain ⟨i, w, hf⟩ := State.devStart_flt (counted := false)
      (s := s.setFlt { s.flt with oos := false, retired := 0, devTimes := [], dieTimes := [] }) hcalm
    obtain ⟨hstarts, -, hidle, hends⟩ := Claims.devStart_starts (counted := false)
      (s := s.setFlt { s.flt with oos := false, retired := 0, devTimes := [], dieTimes := [] }) hcalm
    exact ⟨_, rfl, hstarts, by rw [hf]; rfl, by rw [hf]; rfl, fun hn => Frame.trans State.setFlt_frame (hidle hn), hends⟩
  · obtain ⟨t, ht, hr, hout, hin⟩ := Claims.deviceResetRun_effect h1 h2
    exact ⟨t, ht, hr.fls, hr.ums, hr.fe, hr.sec, hr.keys, hr.ret, hr.devRst, hr.stk, hr.umb, hout, hin⟩
  · refine ⟨_, Claims.d2dLaneRepair_spare h, ?_, State.setFlt_frame⟩
    unfold State.setFlt
    simp
  · refine ⟨_, Claims.d2dLaneRepair_report h, ?_, Frame.step State.report_frame rfl (State.event_frame.mono rfl)⟩
    have he : Frame [.regs, .hostOut] s (s.event .die (b2n half) 1) := State.event_frame
    have hrep : (s.event .die (b2n half) 1).reports = s.reports := he .reports rfl
    rw [← State.launchOf_of_frame he rfl rfl, ← hrep]
    rfl
end

section
/-! SUPPORT. Register pages (R13, R16, R17, R467, R476 to R478): which page an address names, what a plain write, an error entry and
a read leave. -/

namespace Sys2Proof.Machine

variable {s t : State} {b c : Blk} {n m off o : Nat}

/-- The block and number that page `i` is given lie on it. -/
def liesOn (i : Nat) (p : Blk × Nat) : Bool := decide (p.1.page p.2 = i)

theorem all_ite {α : Type} {c : Prop} [Decidable c] {p : α → Bool} {x : α} {y : Option α} (hy : y.all p = true)
    (hx : c → p x = true) : (if c then some x else y).all p = true := by
  split
  · exact hx ‹c›
  · exact hy

/-- A unit of a block lies on the page that names it. -/
theorem page_of_pageOf {i : Nat} (h : pageOf i = some (b, n)) : b.page n = i := by
  have hall : (pageOf i).all (liesOn i) = true := by
    unfold pageOf
    iterate 12 refine all_ite ?_ (fun hi => decide_eq_true ?_)
    · rfl
    all_goals simp only [Blk.page]; omega
  rw [h] at hall
  simpa [liesOn] using hall

theorem pageOf_page {i : Nat} (h : pageOf i = some (b, n)) : pageOf (b.page n) = some (b, n) := by rw [page_of_pageOf h, h]

theorem lt_of_pageOf {i : Nat} (h : pageOf i = some (b, n)) : i < 0x400 := by
  have := page_lt_of_pageOf (pageOf_page h)
  rwa [page_of_pageOf h] at this

/-! Access codes (R16). -/

/-- No bit of the register is both written and cleared. -/
def RegSpec.apart (r : RegSpec) : Bool := r.rw &&& r.w1c == 0


theorem headSpec_apart : (headSpec off).all RegSpec.apart = true := by
  unfold headSpec
  repeat' split
  all_goals rfl

theorem glSpec_apart : (glSpec off).all RegSpec.apart = true := by
  unfold glSpec
  repeat' split
  all_goals rfl

theorem feSpec_apart : (feSpec off).all RegSpec.apart = true := by
  unfold feSpec
  repeat' split
  all_goals rfl

theorem umcSpec_apart : (umcSpec off).all RegSpec.apart = true := by
  unfold umcSpec
  repeat' split
  all_goals rfl

theorem pwSpec_apart : (pwSpec off).all RegSpec.apart = true := by
  unfold pwSpec
  repeat' split
  all_goals rfl

theorem secSpec_apart : (secSpec off).all RegSpec.apart = true := by
  unfold secSpec
  repeat' split
  all_goals rfl

theorem trSpec_apart : (trSpec off).all RegSpec.apart = true := by
  unfold trSpec
  repeat' split
  all_goals rfl

theorem hcSpec_apart : (hcSpec off).all RegSpec.apart = true := by
  unfold hcSpec
  repeat' split
  all_goals rfl

theorem plSpec_apart : (plSpec off).all RegSpec.apart = true := by
  unfold plSpec
  repeat' split
  all_goals rfl

theorem ubSpec_apart : (ubSpec off).all RegSpec.apart = true := by
  unfold ubSpec
  repeat' split
  all_goals rfl

theorem flSpec_apart : (flSpec off).all RegSpec.apart = true := by
  unfold flSpec
  repeat' split
  all_goals rfl

theorem ctSpec_apart : (ctSpec off).all RegSpec.apart = true := by
  unfold ctSpec
  split <;> rfl

theorem dieSpec_apart : (dieSpec off).all RegSpec.apart = true := by
  unfold dieSpec
  split <;> rfl

theorem regSpec_apart {r : RegSpec} (h : regSpec b off = some r) : r.apart = true := by
  have hall : (regSpec b off).all RegSpec.apart = true := by
    unfold regSpec
    split
    · rfl
    · split
      · exact headSpec_apart
      · cases b with
        | gl => exact glSpec_apart
        | fe => exact feSpec_apart
        | umc => exact umcSpec_apart
        | pw => exact pwSpec_apart
        | sec => exact secSpec_apart
        | tr => exact trSpec_apart
        | ct => exact ctSpec_apart
        | die => exact dieSpec_apart
        | hc => exact hcSpec_apart
        | pl => exact plSpec_apart
        | ub => exact ubSpec_apart
        | fl => exact flSpec_apart
  rw [h] at hall
  simpa using hall

/-- The own registers of the CT and DIE pages are read-only. -/
theorem regSpec_readOnly {r : RegSpec} (h : regSpec b off = some r) (hb : b = .ct ∨ b = .die) (ho : 0x100 ≤ off) : r = ro := by
  unfold regSpec at h
  split at h
  · cases h
  · rw [if_neg (by omega)] at h
    obtain rfl | rfl := hb
    · exact (Option.some.inj (Option.ite_none_right_eq_some.mp h).2).symm
    · exact (Option.some.inj (Option.ite_none_right_eq_some.mp h).2).symm

theorem bitN_eq_testBit {w i : Nat} : bitN w i = w.testBit i := by
  rw [Nat.testBit_eq_decide_div_mod_eq]
  rfl

theorem RegSpec.not_both {r : RegSpec} (h : r.apart = true) {i : Nat} (hc : bitN r.w1c i = true) : bitN r.rw i = false := by
  unfold RegSpec.apart at h
  have hb : (r.rw &&& r.w1c).testBit i = false := by
    rw [eq_of_beq h]
    exact Nat.zero_testBit i
  rw [bitN_eq_testBit] at *
  simpa [Nat.testBit_and, hc] using hb

/-- The word that a plain write leaves (R16). -/
def RegSpec.written (r : RegSpec) (old v : W32) : W32 :=
  ((old &&& ~~~(BitVec.ofNat 32 r.rw)) ||| (v &&& BitVec.ofNat 32 r.rw)) &&& ~~~(v &&& BitVec.ofNat 32 r.w1c)

theorem State.plainWrite_eq {r : RegSpec} {v : W32} (h : regSpec b off = some r) :
    s.plainWrite b n off v = s.setReg b n off (r.written (s.reg b n off) v) := by
  unfold State.plainWrite
  rw [h]
  rfl

theorem getLsbD_written {r : RegSpec} (h : r.apart = true) {old v : W32} {i : Nat} (hi : i < 32) :
    (r.written old v).getLsbD i = Sys2Proof.Claims.writtenBit r old v i := by
  unfold RegSpec.written Sys2Proof.Claims.writtenBit
  simp only [BitVec.getLsbD_and, BitVec.getLsbD_or, BitVec.getLsbD_not, BitVec.getLsbD_ofNat, hi, decide_true, Bool.true_and,
    ← bitN_eq_testBit]
  cases hc : bitN r.w1c i
  · cases bitN r.rw i <;> simp
  · rw [RegSpec.not_both h hc]
    simp

/-! Registers whose write is plain (R16): what each block's own write does there. -/

section
open Sys2Proof.Claims

theorem State.glWrite_plain {v : W32} (h : acting .gl off = false) : s.glWrite off v = s.plainWrite .gl 0 off v := by
  simp only [acting, Bool.or_eq_false_iff, Bool.and_eq_false_iff, decide_eq_false_iff_not] at h
  obtain ⟨-, hlist, hrange⟩ := h
  unfold State.glWrite
  rw [if_neg (by omega)]
  split <;> simp_all

theorem State.feWrite_plain {v : W32} (h : acting .fe off = false) : s.feWrite off v = s.plainWrite .fe 0 off v := by
  simp only [acting, Bool.or_eq_false_iff, Bool.and_eq_false_iff, decide_eq_false_iff_not] at h
  obtain ⟨-, hlist, hrange⟩ := h
  unfold State.feWrite
  dsimp only
  have hrest : (if 0x740 ≤ off ∧ off < 0x760 then s.kvpWrite ((off - 0x740) / 8) (off % 8 == 4) v else s.plainWrite .fe 0 off v) =
      s.plainWrite .fe 0 off v := if_neg (by omega)
  split <;> simp_all

theorem State.umcWrite_plain {v : W32} (h : acting .umc off = false) : s.umcWrite off v = s.plainWrite .umc 0 off v := by
  simp only [acting, Bool.or_eq_false_iff] at h
  unfold State.umcWrite
  split <;> simp_all

theorem State.pwWrite_plain {v : W32} (h : acting .pw off = false) : s.pwWrite off v = s.plainWrite .pw 0 off v := by
  simp only [acting, Bool.or_eq_false_iff] at h
  unfold State.pwWrite
  dsimp only
  split <;> simp_all

theorem State.secWrite_plain {v : W32} (h : acting .sec off = false) : s.secWrite off v = s.plainWrite .sec 0 off v := by
  simp only [acting, Bool.or_eq_false_iff] at h
  unfold State.secWrite
  split <;> simp_all

theorem State.trWrite_plain {v : W32} (h : acting .tr off = false) : s.trWrite off v = s.plainWrite .tr 0 off v := by
  simp only [acting, Bool.or_eq_false_iff] at h
  unfold State.trWrite
  split <;> simp_all

theorem State.hcWrite_plain {v : W32} (h : acting .hc off = false) : s.hcWrite n off v = s.plainWrite .hc n off v := by
  simp only [acting, Bool.or_eq_false_iff] at h
  unfold State.hcWrite
  split <;> simp_all

theorem State.plWrite_plain {v : W32} (h : acting .pl off = false) : s.plWrite n off v = s.plainWrite .pl n off v := by
  simp only [acting, Bool.or_eq_false_iff] at h
  unfold State.plWrite
  split <;> simp_all

theorem State.ubWrite_plain {v : W32} (h : acting .ub off = false) : s.ubWrite n off v = s.plainWrite .ub n off v := by
  simp only [acting, Bool.or_eq_false_iff, Bool.and_eq_false_iff, decide_eq_false_iff_not] at h
  unfold State.ubWrite
  rw [if_neg (by omega)]

theorem State.flWrite_plain {v : W32} (h : acting .fl off = false) : s.flWrite n off v = s.plainWrite .fl n off v := by
  simp only [acting, Bool.or_eq_false_iff, Bool.and_eq_false_iff, decide_eq_false_iff_not] at h
  unfold State.flWrite
  rw [if_neg (by omega), if_neg (by omega)]

/-- A write by the access codes, of register `off` of the page: its bits, no other register, nothing else. -/
structure WrittenBy (s t : State) (b : Blk) (n off : Nat) (r : RegSpec) (v : W32) : Prop where
  only : OnlyRegs [State.regKey b n off] s t
  bits : ∀ i, i < 32 → (t.reg b n off).getLsbD i = writtenBit r (s.reg b n off) v i
  frame : Frame [.regs] s t

theorem onlyRegs_setReg {v : W32} : OnlyRegs [State.regKey b n off] s (s.setReg b n off v) := fun k hk =>
  State.rawReg_setRaw_ne _ _ (by simpa using hk)

theorem plainWrite_writtenBy {r : RegSpec} {v : W32} (h : regSpec b off = some r) : WrittenBy s (s.plainWrite b n off v) b n off r v where
  only := by
    rw [State.plainWrite_eq h]
    exact onlyRegs_setReg
  bits i hi := by
    rw [State.plainWrite_eq h, State.reg_setReg]
    exact getLsbD_written (regSpec_apart h) hi
  frame := State.plainWrite_frame

theorem readOnly_writtenBy {v : W32} : WrittenBy s s b n off ro v where
  only _ _ := rfl
  bits i _ := by simp [writtenBit, ro, bitN]
  frame := .refl

/-- A write of a listed register that has no rule of its own, on a page that is not held, goes by the access codes (R16). -/
theorem pageWrite_writtenBy {r : RegSpec} {v : W32} (h : regSpec b off = some r) (hheld : s.pageHeld b n = false)
    (ha : acting b off = false) : WrittenBy s (s.pageWrite b n off v) b n off r v := by
  have hctl : off ≠ Off.pageCtrl ∧ off ≠ Off.evtPend := by
    unfold acting at ha
    simp only [Bool.or_eq_false_iff, beq_eq_false_iff_ne] at ha
    exact ⟨ha.1.1, ha.1.2⟩
  have hplain : WrittenBy s (s.plainWrite b n off v) b n off r v := plainWrite_writtenBy h
  unfold State.pageWrite
  rw [if_neg (by simp [h, hheld]), if_neg hctl.1, if_neg hctl.2]
  split
  · exact hplain
  · next ho =>
    cases b with
    | gl => exact State.glWrite_plain ha ▸ hplain
    | fe => exact State.feWrite_plain ha ▸ hplain
    | umc => exact State.umcWrite_plain ha ▸ hplain
    | pw => exact State.pwWrite_plain ha ▸ hplain
    | sec => exact State.secWrite_plain ha ▸ hplain
    | tr => exact State.trWrite_plain ha ▸ hplain
    | ct =>
      rw [regSpec_readOnly h (.inl rfl) (by omega)]
      exact readOnly_writtenBy
    | die =>
      rw [regSpec_readOnly h (.inr rfl) (by omega)]
      exact readOnly_writtenBy
    | hc => exact State.hcWrite_plain ha ▸ hplain
    | pl => exact State.plWrite_plain ha ▸ hplain
    | ub => exact State.ubWrite_plain ha ▸ hplain
    | fl => exact State.flWrite_plain ha ▸ hplain

/-! Addresses of pages. -/

theorem State.pageHeld_of_frame {ps : List Piece} (h : Frame ps s t) (hu : ps.contains .ums = false) (hf : ps.contains .flt = false) :
    t.pageHeld b n = s.pageHeld b n := by
  have h1 : t.ums = s.ums := h .ums hu
  have h2 : t.flt = s.flt := h .flt hf
  unfold State.pageHeld State.um State.dieDown
  rw [h1, h2]

theorem State.pagePresent_of_frame {ps : List Piece} {i : Nat} (h : Frame ps s t) (hv : ps.contains .variant = false) :
    t.pagePresent i = s.pagePresent i := by
  have h1 : t.variant = s.variant := h .variant hv
  unfold State.pagePresent State.flPresent State.linkPresent
  rw [h1]

theorem State.ungatePage_other (h1 : b ≠ .fl) (h2 : b ≠ .ub) : s.ungatePage b n = s := by
  unfold State.ungatePage
  split <;> simp_all

theorem State.rawReg_ungatePage {k : Nat} : (s.ungatePage b n).rawReg k = s.rawReg k :=
  State.rawReg_of_regs (State.ungatePage_frame .regs rfl) k

theorem State.reg_ungatePage : (s.ungatePage b n).reg c m o = s.reg c m o := State.rawReg_ungatePage

/-- A write at the address of a present page is one of that page's register, its umbel running. -/
theorem State.regWrite_page {q : Req} {a : Nat} {v : W32} (h : pageOf (a / 4096) = some (b, n)) (hp : s.pagePresent (a / 4096) = true) :
    s.regWrite q a v = (s.ungatePage b n).pageWrite b n (a % 4096) v := by
  have := lt_of_pageOf h
  unfold State.regWrite
  rw [if_neg (by omega), h]
  dsimp only
  rw [if_pos hp]

/-- A write of a whole register of a page that is not held, where no rule of its own applies (R16, R337). -/
theorem regWrite_writtenBy {q : Req} {a : Nat} {v : W32} {r : RegSpec} (h : RegAt s a b n) (ha : acting b (a % 4096) = false)
    (hr : regSpec b (a % 4096) = some r) :
    let t := s.regWrite q a v
    OnlyRegs [State.regKey b n (a % 4096)] s t ∧
      (∀ i, i < 32 → (t.reg b n (a % 4096)).getLsbD i = writtenBit r (s.reg b n (a % 4096)) v i) ∧
      (b ≠ .fl → b ≠ .ub → Frame [.regs] s t) ∧ Frame [.regs, .pw] s t := by
  obtain ⟨hpage, hpres, hheld⟩ := h
  dsimp only
  rw [State.regWrite_page hpage hpres]
  have hgate : Frame [.pw] s (s.ungatePage b n) := State.ungatePage_frame
  obtain ⟨honly, hbits, hframe⟩ := pageWrite_writtenBy (s := s.ungatePage b n) (n := n) (v := v) hr
    ((State.pageHeld_of_frame hgate rfl rfl).trans hheld) ha
  refine ⟨fun k hk => (honly k hk).trans State.rawReg_ungatePage, fun i hi => ?_, fun h1 h2 => ?_,
    Frame.step hframe rfl (hgate.mono rfl)⟩
  · rw [hbits i hi, State.reg_ungatePage]
  · rwa [State.ungatePage_other h1 h2] at hframe ⊢

/-! The error log (R13, R480). -/

/-- The entry of the page's log that is written next. -/
def State.errEntry (s : State) (b : Blk) (n : Nat) : Nat := Off.errLog + 16 * (SMap.get 0 s.logPtr (b.page n) % 4)

theorem errEntry_range : 0x40 ≤ s.errEntry b n ∧ s.errEntry b n + 12 < 0x80 := by
  have : Off.errLog = 0x40 := rfl
  unfold State.errEntry
  omega

/-- ERR_CNT after one more error. -/
def State.errCount (s : State) (b : Blk) (n : Nat) : Nat :=
  if s.regN b n Off.errCnt < 0xFFFFFFFF then s.regN b n Off.errCnt + 1 else s.regN b n Off.errCnt

/-- The state with the error counted, and marked as lost where its entry was in use. -/
def State.errCounted (s : State) (b : Blk) (n : Nat) : State :=
  let s1 := s.setReg b n Off.errCnt (BitVec.ofNat 32 (s.errCount b n))
  if (s1.reg b n (s.errEntry b n)).getLsbD 31 then s1.orReg b n Off.pageStat 0x100 else s1

/-- The four words of an error's entry (R480), from offset `o` on. -/
def State.putErr (s : State) (b : Blk) (n o count code addr src info : Nat) : State :=
  (((s.setReg b n o (BitVec.ofNat 32 (count % 2 ^ 16 + 2 ^ 16 * (code % 256) + 2 ^ 31))).setReg b n (o + 4)
    (BitVec.ofNat 32 addr)).setReg b n (o + 8) (BitVec.ofNat 32 (addr / 2 ^ 32 % 2 ^ 20 + 2 ^ 20 * (src % 4096)))).setReg b n (o + 12)
    (BitVec.ofNat 32 info)

/-- The next error of the page goes into entry `e`. -/
def State.setErrPtr (s : State) (b : Blk) (n e : Nat) : State := { s with logPtr := SMap.put 0 s.logPtr (b.page n) e }

theorem State.reg_setErrPtr {e : Nat} : (s.setErrPtr b n e).reg c m o = s.reg c m o := rfl

theorem State.logErr_eq {code addr src info : Nat} :
    s.logErr b n code addr src info = ((s.errCounted b n).putErr b n (s.errEntry b n) (s.errCount b n) code addr src info).setErrPtr b n
      ((SMap.get 0 s.logPtr (b.page n) % 4 + 1) % 4) := rfl

/-- An error goes into the log of its page. -/
theorem logErr_noted {code addr src info : Nat} (hc : code < 256) (hs : src < 4096) :
    Noted s (s.logErr b n code addr src info) b n code addr src info := by
  have hlt := (errEntry_range (s := s) (b := b) (n := n)).2
  rw [State.logErr_eq]
  unfold Noted State.putErr
  dsimp only
  have ho : Off.errLog + 16 * (SMap.get 0 s.logPtr (b.page n) % 4) = s.errEntry b n := rfl
  rw [ho]
  generalize s.errEntry b n = o at hlt
  generalize s.errCounted b n = u
  have hne : ∀ (t : State) {i j : Nat} (v : W32), i < 4096 → j < 4096 → i ≠ j → (t.setReg b n j v).reg b n i = t.reg b n i :=
    fun t _ _ v hi hj h => State.reg_setReg_ne hi hj h
  have hfirst : (BitVec.ofNat 32 (s.errCount b n % 2 ^ 16 + 2 ^ 16 * (code % 256) + 2 ^ 31)).toNat =
      s.errCount b n % 2 ^ 16 + 2 ^ 16 * code + 2 ^ 31 := by
    rw [BitVec.toNat_ofNat]
    omega
  refine ⟨?_, ?_, ?_, ?_, ?_⟩
  · rw [State.reg_setErrPtr, hne _ _ (by omega) (by omega) (by omega), hne _ _ (by omega) (by omega) (by omega),
      hne _ _ (by omega) (by omega) (by omega), State.reg_setReg, BitVec.getLsbD, hfirst, Nat.testBit_eq_decide_div_mod_eq]
    simp only [decide_eq_true_eq]
    omega
  · unfold State.regN
    rw [State.reg_setErrPtr, hne _ _ (by omega) (by omega) (by omega), hne _ _ (by omega) (by omega) (by omega),
      hne _ _ (by omega) (by omega) (by omega), State.reg_setReg, hfirst]
    unfold bitsN
    omega
  · rw [State.reg_setErrPtr, hne _ _ (by omega) (by omega) (by omega), hne _ _ (by omega) (by omega) (by omega), State.reg_setReg]
  · rw [State.reg_setErrPtr, hne _ _ (by omega) (by omega) (by omega), State.reg_setReg, Nat.mod_eq_of_lt hs]
  · rw [State.reg_setErrPtr, State.reg_setReg]

/-- An error counts on ERR_CNT until it is full. -/
theorem logErr_counts {code addr src info : Nat} (h : (s.reg b n Off.errCnt).toNat < 0xFFFFFFFF) :
    (s.logErr b n code addr src info).reg b n Off.errCnt = s.reg b n Off.errCnt + 1 := by
  obtain ⟨hlo, hlt⟩ := errEntry_range (s := s) (b := b) (n := n)
  have hoff : Off.errCnt = 0x30 := rfl
  have hne : ∀ (t : State) {j : Nat} (v : W32), j < 4096 → j ≠ Off.errCnt →
      (t.setReg b n j v).reg b n Off.errCnt = t.reg b n Off.errCnt :=
    fun t _ v hj hn => State.reg_setReg_ne (by omega) hj hn.symm
  have hcounted : (s.errCounted b n).reg b n Off.errCnt = s.reg b n Off.errCnt + 1 := by
    have hc : BitVec.ofNat 32 (s.errCount b n) = s.reg b n Off.errCnt + 1 := by
      unfold State.errCount State.regN
      rw [if_pos h, BitVec.ofNat_add, BitVec.ofNat_toNat, BitVec.setWidth_eq]
      rfl
    unfold State.errCounted
    dsimp only
    split
    · rw [State.orReg, hne _ _ (by decide) (by decide), State.reg_setReg, hc]
    · rw [State.reg_setReg, hc]
  rw [State.logErr_eq, State.reg_setErrPtr]
  unfold State.putErr
  generalize s.errEntry b n = o at hlo hlt
  rw [hne _ _ (by omega) (by omega), hne _ _ (by omega) (by omega), hne _ _ (by omega) (by omega), hne _ _ (by omega) (by omega),
    hcounted]

/-- An address error of the host is noted in the CT page, with the device in its address (R13, R467). -/
theorem addrErr_host_noted {a : Nat} {w : Bool} (ha : a < 2 ^ 42) :
    Noted s (s.addrErr reqHost a w) .ct 0 0x01 (2 ^ 42 * s.devId + a) reqHost.src (b2n w) := by
  unfold State.addrErr
  rw [Nat.mod_eq_of_lt ha]
  exact logErr_noted (by decide) (by decide)

end

end Sys2Proof.Machine
end

section
/-! SUPPORT. Reads of registers by the host (R414, R467, R470): the count of a read changes no value that is read. -/

namespace Sys2Proof.Machine
open Sys2Proof.Claims

variable {s t : State} {b c : Blk} {n m off o : Nat}

/-- No 64-bit counter outside the CT page lies in the CT page. -/
theorem loKey_ne_ct {k j : Nat} (hp : pageOf (b.page n) = some (b, n)) (hb : b ≠ .ct) (ho : off < 4096) (hj : j < 4096)
    (h : s.loKey b n off = some k) : k ≠ regOff .ct 0 j := by
  have hown : ∀ {i}, i = regOff b n off → i ≠ regOff .ct 0 j := by
    intro i hi he
    have hpage : b.page n = 6 := by
      rw [← regOff_page (n := n) ho, ← hi, he]
      exact regOff_page hj
    rw [hpage] at hp
    cases hp
    exact hb rfl
  have hct : regOff .ct 0 j < 0x4000000 := by
    show 6 * 4096 + j < 0x4000000
    omega
  have hite : ∀ {p : Prop} [Decidable p], (if p then some (regOff b n off) else none) = some k → k ≠ regOff .ct 0 j := fun hi =>
    hown (Option.some.inj (Option.ite_none_right_eq_some.mp hi).2).symm
  unfold State.loKey at h
  dsimp only at h
  cases b with
  | ct => exact absurd rfl hb
  | pw => exact hite h
  | ub => exact hite h
  | fl => exact hite h
  | pl => exact hite h
  | hc =>
    dsimp only at h
    split_ifs at h with h1 h2 h3
    · exact hown (Option.some.inj h).symm
    · have := Option.some.inj h
      omega
    · have := Option.some.inj h
      omega
  | _ => cases h

theorem loValue_cnt {j v : Nat} (hp : pageOf (b.page n) = some (b, n)) (hb : b ≠ .ct) (ho : off < 4096) (hj : j < 4096) :
    (s.cnt .ct 0 j v).loValue b n off = s.loValue b n off := by
  unfold State.loValue
  have hkey : (s.cnt .ct 0 j v).loKey b n off = s.loKey b n off := rfl
  rw [hkey]
  split
  · rfl
  · cases hk : s.loKey b n off with
    | none => rfl
    | some k => exact congrArg some (SMap.get_put_ne (loKey_ne_ct hp hb ho hj hk))

theorem peek_cnt {j v : Nat} (hp : pageOf (b.page n) = some (b, n)) (hb : b ≠ .ct) (ho : off < 4096) (hj : j < 4096) :
    (s.cnt .ct 0 j v).peek b n off = s.peek b n off := by
  have hhi : (s.cnt .ct 0 j v).isHi b n off = s.isHi b n off := by
    unfold State.isHi
    rw [loValue_cnt hp hb (by omega) hj]
  unfold State.peek
  rw [hhi, loValue_cnt hp hb ho hj]
  rfl

theorem regPresent_of_page {a : Nat} (hp : pageOf (a / 4096) = some (b, n)) (h : s.pagePresent (a / 4096) = true) : s.regPresent a = true := by
  unfold State.regPresent
  rw [hp, h]
  simp

theorem regPresent_of_frame {ps : List Piece} {a : Nat} (h : Frame ps s t) (hv : ps.contains .variant = false) :
    t.regPresent a = s.regPresent a := by
  unfold State.regPresent
  rw [State.pagePresent_of_frame h hv]

theorem readAbsent_present {a : Nat} (h : s.regPresent a = true) : s.readAbsent 1 a = s := by
  unfold State.readAbsent
  simp [List.range_one, h]

theorem readAbsent_absent {a : Nat} (h : s.regPresent a = false) : s.readAbsent 1 a = s.addrErr reqHost (0x18000000000 + a) false := by
  unfold State.readAbsent
  simp [List.range_one, h]

theorem regReads_present {a : Nat} (h : s.regPresent a = true) : s.regReads 1 a = ((s.regRead a).1.toNat, (s.regRead a).2) := by
  unfold State.regReads State.regReads
  simp [h]

theorem regReads_absent {a : Nat} (h : s.regPresent a = false) : s.regReads 1 a = (0, s) := by
  unfold State.regReads State.regReads
  simp [h]

/-- The read's completion goes out. -/
def State.answerRead (s : State) (v : Nat) : State := { s with hostOut := s.hostOut ++ [.completion v 4 false .sc] }

/-- A host read of one whole register (R470). -/
theorem counterLoRead_word {x : W26} {tb : Bool} (hx : x.toNat = x.toNat / 4 * 4) (hh : s.fe.hostHeld = false) (ht : s.takesT tb = true) :
    exec (.counterLoRead ⟨x, 4, tb⟩) s = .next (
      let r := ((s.cnt .ct 0 0x108 4).readAbsent 1 x.toNat).regReads 1 x.toNat
      r.2.answerRead (r.1 % 2 ^ 32)) := by
  have hlt : x.toNat < 2 ^ 26 := x.isLt
  have hmod : x.toNat % 4 = 0 := by omega
  show execCounterLoRead ⟨x, 4, tb⟩ s = _
  unfold execCounterLoRead
  dsimp only
  have hopen : ¬ (4 = 0 ∨ 4096 < 4 ∨ 2 ^ 26 < x.toNat + 4 ∨ s.fe.hostHeld = true) := by
    rw [hh]
    simp
    omega
  rw [if_neg hopen, ht, hmod, ← hx]
  simp [cdiv, State.answerRead]

/-- The HI register after `a` latches what the counter holds. -/
def State.latchHi (s : State) (a x : Nat) : State := { s with latch := SMap.put (0 : W32) s.latch (a + 4) (BitVec.ofNat 32 (x / 2 ^ 32)) }

theorem regRead_lo {a x : Nat} (h : RegAt s a b n) (hx : s.loValue b n (a % 4096) = some x) :
    s.regRead a = (BitVec.ofNat 32 (s.peek b n (a % 4096)), (s.ungatePage b n).latchHi a x) := by
  obtain ⟨hp, hpres, hheld⟩ := h
  have := lt_of_pageOf hp
  unfold State.regRead
  rw [if_neg (by omega), hp]
  dsimp only
  rw [hpres, hheld, hx]
  rfl

theorem regRead_plain {a : Nat} (h : RegAt s a b n) (hx : s.loValue b n (a % 4096) = none) :
    s.regRead a = (BitVec.ofNat 32 (s.peek b n (a % 4096)), s.ungatePage b n) := by
  obtain ⟨hp, hpres, hheld⟩ := h
  have := lt_of_pageOf hp
  unfold State.regRead
  rw [if_neg (by omega), hp]
  dsimp only
  rw [hpres, hheld, hx]
  rfl

/-- The count of a read leaves the page as it is. -/
theorem regAt_cnt {a v : Nat} (h : RegAt s a b n) : RegAt (s.cnt .ct 0 0x108 v) a b n := h

end Sys2Proof.Machine

namespace Sys2Proof.Claims
open Sys2Proof.Machine

variable {s t : State} {b : Blk} {n : Nat}

theorem counted_cnt {k off v : Nat} : Counted s (s.cnt b k off v) b k off v := SMap.get_put_same

theorem Counted.frame {k off v : Nat} {u : State} {ps : List Piece} (h : Counted s t b k off v) (hf : Frame ps t u)
    (hd : ps.contains .cnt64 = false) : Counted s u b k off v := by
  unfold Counted
  rwa [show u.cnt64 = t.cnt64 from hf .cnt64 hd]

/-- A host read of a present register that is not of the CT page: what it returns, counts and latches (R414, R470). -/
theorem counterLoRead_present {x : W26} {tb : Bool} (hx : x.toNat = x.toNat / 4 * 4) (hh : s.fe.hostHeld = false)
    (ht : s.takesT tb = true) (h : RegAt s x.toNat b n) (hb : b ≠ .ct) :
    ∃ t, exec (.counterLoRead ⟨x, 4, tb⟩) s = .next t ∧ Counted s t .ct 0 0x108 4 ∧
      t.hostOut = s.hostOut ++ [.completion (s.peek b n (x.toNat % 4096) % 2 ^ 32) 4 false .sc] ∧
      (∀ c, s.loValue b n (x.toNat % 4096) = some c → SMap.get (0 : W32) t.latch (x.toNat + 4) = BitVec.ofNat 32 (c / 2 ^ 32) ∧
        Frame [.latch, .cnt64, .hostOut, .pw] s t) ∧
      (s.loValue b n (x.toNat % 4096) = none → Frame [.cnt64, .hostOut, .pw] s t) := by
  have hp := pageOf_page h.1
  have hoff : x.toNat % 4096 < 4096 := Nat.mod_lt _ (by decide)
  have hpresent : (s.cnt .ct 0 0x108 4).regPresent x.toNat = true := regPresent_of_page h.1 h.2.1
  have hcnt : Frame [.cnt64] s (s.cnt .ct 0 0x108 4) := State.cnt_frame
  have hpeek : (s.cnt .ct 0 0x108 4).peek b n (x.toNat % 4096) = s.peek b n (x.toNat % 4096) := peek_cnt hp hb hoff (by decide)
  have hlo : (s.cnt .ct 0 0x108 4).loValue b n (x.toNat % 4096) = s.loValue b n (x.toNat % 4096) := loValue_cnt hp hb hoff (by decide)
  have hval : (BitVec.ofNat 32 (s.peek b n (x.toNat % 4096))).toNat % 2 ^ 32 = s.peek b n (x.toNat % 4096) % 2 ^ 32 := by
    rw [BitVec.toNat_ofNat, Nat.mod_mod]
  have hreg : RegAt (s.cnt .ct 0 0x108 4) x.toNat b n := regAt_cnt h
  have hcounted : Counted s (s.cnt .ct 0 0x108 4) .ct 0 0x108 4 := counted_cnt
  rw [counterLoRead_word hx hh ht, readAbsent_present hpresent, regReads_present hpresent]
  dsimp only
  have hout : (s.cnt .ct 0 0x108 4).hostOut = s.hostOut := rfl
  generalize s.cnt .ct 0 0x108 4 = u at *
  have hgate : Frame [.pw] u (u.ungatePage b n) := State.ungatePage_frame
  have hgout : (u.ungatePage b n).hostOut = s.hostOut := (hgate .hostOut rfl : _ = u.hostOut).trans hout
  cases hc : s.loValue b n (x.toNat % 4096) with
  | none =>
    rw [regRead_plain hreg (hlo.trans hc)]
    dsimp only
    rw [hpeek, hval]
    refine ⟨_, rfl, hcounted.frame (ps := [.hostOut, .pw]) (Frame.set_hostOut rfl (hgate.mono rfl)) rfl, by rw [← hgout]; rfl,
      (fun _ h => nomatch h), fun _ => Frame.set_hostOut rfl (Frame.step hgate rfl (hcnt.mono rfl))⟩
  | some c =>
    rw [regRead_lo hreg (hlo.trans hc)]
    dsimp only
    rw [hpeek, hval]
    have hlatch : Frame [.latch, .pw] u ((u.ungatePage b n).latchHi x.toNat c) := Frame.set_latch rfl (hgate.mono rfl)
    refine ⟨_, rfl, hcounted.frame (ps := [.hostOut, .latch, .pw]) (Frame.set_hostOut rfl (hlatch.mono rfl)) rfl, by rw [← hgout]; rfl,
      fun d hd => ?_, (fun h => nomatch h)⟩
    cases hd
    exact ⟨SMap.get_put_same, Frame.set_hostOut rfl (Frame.step hlatch rfl (hcnt.mono rfl))⟩

theorem Noted.of_logPtr {u : State} {code addr src info : Nat} (h : Noted u t b n code addr src info) (hp : u.logPtr = s.logPtr) :
    Noted s t b n code addr src info := by
  unfold Noted at *
  rwa [hp] at h

theorem Noted.frame {u : State} {ps : List Piece} {code addr src info : Nat} (h : Noted s t b n code addr src info) (hf : Frame ps t u)
    (hd : ps.contains .regs = false) : Noted s u b n code addr src info := by
  have hreg : ∀ o, u.reg b n o = t.reg b n o := fun o => State.rawReg_of_regs (hf .regs hd) _
  unfold Noted State.regN at *
  dsimp only at *
  rwa [hreg, hreg, hreg, hreg]

/-- An address error of the host after operations that left the log's place and the device's number. -/
theorem addrErr_noted_after {u : State} {ps : List Piece} {a : Nat} {w : Bool} (hf : Frame ps s u) (hl : ps.contains .logPtr = false)
    (hd : u.devId = s.devId) (ha : a < 2 ^ 42) :
    Noted s (u.addrErr reqHost a w) .ct 0 0x01 (2 ^ 42 * s.devId + a) reqHost.src (b2n w) := by
  have h : Noted u (u.addrErr reqHost a w) .ct 0 0x01 (2 ^ 42 * u.devId + a) reqHost.src (b2n w) := addrErr_host_noted ha
  rw [hd] at h
  exact h.of_logPtr (hf .logPtr hl)

/-- A host read of a register that is not there (R467). -/
theorem counterLoRead_absent {x : W26} {tb : Bool} (hx : x.toNat = x.toNat / 4 * 4) (hh : s.fe.hostHeld = false)
    (ht : s.takesT tb = true) (h : s.regPresent x.toNat = false) :
    ∃ t, exec (.counterLoRead ⟨x, 4, tb⟩) s = .next t ∧
      Noted s t .ct 0 0x01 (2 ^ 42 * s.devId + (0x18000000000 + x.toNat)) reqHost.src 0 ∧
      Counted s t .ct 0 0x108 4 ∧ t.hostOut = s.hostOut ++ [.completion 0 4 false .sc] ∧
      Frame [.regs, .cnt64, .logPtr, .hostOut] s t := by
  have hlt : x.toNat < 2 ^ 26 := x.isLt
  have hcounted : Counted s (s.cnt .ct 0 0x108 4) .ct 0 0x108 4 := counted_cnt
  have hcnt : Frame [.cnt64] s (s.cnt .ct 0 0x108 4) := State.cnt_frame
  have hdev : (s.cnt .ct 0 0x108 4).devId = s.devId := rfl
  rw [counterLoRead_word hx hh ht]
  generalize s.cnt .ct 0 0x108 4 = u at *
  have habsent : u.regPresent x.toNat = false := (regPresent_of_frame hcnt rfl).trans h
  rw [readAbsent_absent habsent]
  have hnoted := addrErr_noted_after (w := false) hcnt rfl hdev (a := 0x18000000000 + x.toNat) (by omega)
  have herr : Frame [.regs, .logPtr] u (u.addrErr reqHost (0x18000000000 + x.toNat) false) := State.addrErr_frame
  generalize u.addrErr reqHost (0x18000000000 + x.toNat) false = e at *
  rw [regReads_absent ((regPresent_of_frame herr rfl).trans habsent)]
  have hout : e.hostOut = s.hostOut := (herr .hostOut rfl : _ = u.hostOut).trans (hcnt .hostOut rfl)
  have hans : Frame [.hostOut] e (e.answerRead 0) := Frame.set_hostOut rfl .refl
  exact ⟨_, rfl, hnoted.frame hans rfl, (hcounted.frame herr rfl).frame hans rfl, by rw [← hout]; rfl,
    Frame.step hans rfl (Frame.step herr rfl (hcnt.mono rfl))⟩

end Sys2Proof.Claims
end

section
/-! SUPPORT. Host and management writes of registers, PAGE_CTRL, COMPAT and EVT_PEND (R16, R445, R467, R476 to R478, R482). -/

namespace Sys2Proof.Claims
open Sys2Proof.Machine

variable {s t : State} {b : Blk} {n : Nat}

/-- The host's write before its bytes are counted is let through. -/
theorem registerWrite_open {x : W26} {tb : Bool} {be : W4} {v : W32} (hbe : be ≠ 0) (hrun : s.boot.state = 7)
    (hh : s.fe.hostHeld = false) (ht : s.takesT tb = true) :
    exec (.registerWrite ⟨x, tb⟩ be v) s = .next (
      let u := s.cnt .ct 0 0x100 (popN 4 be.toNat)
      if be = 15 then u.regWrite reqHost (x.toNat / 4 * 4) v else u.regPartial reqHost (x.toNat / 4 * 4) be.toNat) := by
  show execRegisterWrite ⟨x, tb⟩ be v s = _
  unfold execRegisterWrite
  dsimp only
  have hok : (s.cnt .ct 0 0x100 (popN 4 be.toNat)).hostWriteOk (x.toNat / 4 * 4) = true := by
    unfold State.hostWriteOk
    rw [show (s.cnt .ct 0 0x100 (popN 4 be.toNat)).boot.state = 7 from hrun]
    rfl
  have hfe : (s.cnt .ct 0 0x100 (popN 4 be.toNat)).fe.hostHeld = false := hh
  have htt : (s.cnt .ct 0 0x100 (popN 4 be.toNat)).takesT tb = true := ht
  rw [if_neg]
  rw [hok, hfe, htt]
  simpa using hbe

/-- The host's write is not let through: its bytes count all the same. -/
theorem registerWrite_shut {x : W26} {tb : Bool} {be : W4} {v : W32} (h : be = 0 ∨ s.takesT tb = false) :
    exec (.registerWrite ⟨x, tb⟩ be v) s = .next (s.cnt .ct 0 0x100 (popN 4 be.toNat)) := by
  show execRegisterWrite ⟨x, tb⟩ be v s = _
  unfold execRegisterWrite
  dsimp only
  have htt : (s.cnt .ct 0 0x100 (popN 4 be.toNat)).takesT tb = s.takesT tb := rfl
  rw [if_pos]
  rw [htt]
  rcases h with h | h <;> simp [h]

/-- Something of a register that is there but not whole: an error in its page's log (R467). -/
theorem regPartial_present {a be : Nat} {q : Req} (h : RegAt s a b n) :
    s.regPartial q a be = s.logErr b n 0x02 (0x18000000000 + a) q.src be := by
  unfold State.regPartial
  rw [h.1]
  dsimp only
  rw [if_pos h.2.1]

theorem regPresent_false {a : Nat} (h : s.regPresent a = false) :
    ¬ (0x3000000 ≤ a ∧ a < 0x3008100) ∧ ∀ b n, pageOf (a / 4096) = some (b, n) → s.pagePresent (a / 4096) = false := by
  unfold State.regPresent at h
  simp only [Bool.or_eq_false_iff, Bool.and_eq_false_iff, decide_eq_false_iff_not] at h
  refine ⟨by omega, fun b n hp => ?_⟩
  rw [hp] at h
  simpa using h.2

theorem regPartial_absent {a be : Nat} {q : Req} (h : s.regPresent a = false) : s.regPartial q a be = s.addrErr q (0x18000000000 + a) true := by
  unfold State.regPartial
  split
  · next hp => rw [if_neg (by simp [(regPresent_false h).2 _ _ hp])]
  · rfl

theorem regWrite_absent {a : Nat} {v : W32} {q : Req} (h : s.regPresent a = false) :
    s.regWrite q a v = s.addrErr q (0x18000000000 + a) true := by
  unfold State.regWrite
  rw [if_neg (regPresent_false h).1]
  split
  · rfl
  · next hp => rw [if_neg (by simp [(regPresent_false h).2 _ _ hp])]

/-- A host write of a register that is not there is an address error (R13, R467). -/
theorem registerWrite_absent {x : W26} {tb : Bool} {be : W4} {v : W32} (hbe : be ≠ 0) (hrun : s.boot.state = 7)
    (hh : s.fe.hostHeld = false) (ht : s.takesT tb = true) (h : s.regPresent (x.toNat / 4 * 4) = false) :
    ∃ t, exec (.registerWrite ⟨x, tb⟩ be v) s = .next t ∧
      Noted s t .ct 0 0x01 (2 ^ 42 * s.devId + (0x18000000000 + x.toNat / 4 * 4)) reqHost.src 1 ∧ Frame [.regs, .cnt64, .logPtr] s t := by
  have hlt : x.toNat < 2 ^ 26 := x.isLt
  have hcnt : Frame [.cnt64] s (s.cnt .ct 0 0x100 (popN 4 be.toNat)) := State.cnt_frame
  have hdev : (s.cnt .ct 0 0x100 (popN 4 be.toNat)).devId = s.devId := rfl
  rw [registerWrite_open hbe hrun hh ht]
  generalize s.cnt .ct 0 0x100 (popN 4 be.toNat) = u at *
  have habsent : u.regPresent (x.toNat / 4 * 4) = false := (regPresent_of_frame hcnt rfl).trans h
  dsimp only
  rw [regWrite_absent habsent, regPartial_absent habsent, ite_self]
  exact ⟨_, rfl, addrErr_noted_after (w := true) hcnt rfl hdev (by omega), Frame.step State.addrErr_frame rfl (hcnt.mono rfl)⟩

/-- A host write of a whole register without a rule of its own (R16, R414). -/
theorem registerWrite_whole {x : W26} {tb : Bool} {v : W32} {r : RegSpec} (hrun : s.boot.state = 7)
    (hh : s.fe.hostHeld = false) (ht : s.takesT tb = true) (h : RegAt s (x.toNat / 4 * 4) b n)
    (ha : acting b (x.toNat / 4 * 4 % 4096) = false) (hr : regSpec b (x.toNat / 4 * 4 % 4096) = some r) :
    ∃ t, exec (.registerWrite ⟨x, tb⟩ 15 v) s = .next t ∧ OnlyRegs [State.regKey b n (x.toNat / 4 * 4 % 4096)] s t ∧
      (∀ i, i < 32 → (t.reg b n (x.toNat / 4 * 4 % 4096)).getLsbD i = writtenBit r (s.reg b n (x.toNat / 4 * 4 % 4096)) v i) ∧
      Counted s t .ct 0 0x100 4 ∧ (b ≠ .fl → b ≠ .ub → t.pw = s.pw) ∧ Frame [.regs, .cnt64, .pw] s t := by
  have hcnt : Frame [.cnt64] s (s.cnt .ct 0 0x100 4) := State.cnt_frame
  have hcounted : Counted s (s.cnt .ct 0 0x100 4) .ct 0 0x100 4 := counted_cnt
  have hreg : RegAt (s.cnt .ct 0 0x100 4) (x.toNat / 4 * 4) b n := h
  rw [registerWrite_open (by decide) hrun hh ht]
  have hbytes : popN 4 (15 : W4).toNat = 4 := by decide
  rw [hbytes]
  generalize s.cnt .ct 0 0x100 4 = u at *
  obtain ⟨honly, hbits, hpw, hframe⟩ := regWrite_writtenBy (q := reqHost) (v := v) hreg ha hr
  have hsame : ∀ k, u.rawReg k = s.rawReg k := State.rawReg_of_regs (hcnt .regs rfl)
  refine ⟨_, rfl, fun k hk => (honly k hk).trans (hsame k), fun i hi => ?_, hcounted.frame hframe rfl, fun h1 h2 => ?_,
    Frame.step hframe rfl (hcnt.mono rfl)⟩
  · rw [if_pos rfl, hbits i hi, State.reg, hsame]
    rfl
  · exact (hpw h1 h2 .pw rfl : _ = u.pw).trans (hcnt .pw rfl)

/-- A host write of a part of a register (R467). -/
theorem registerWrite_part {x : W26} {tb : Bool} {be : W4} {v : W32} (hrun : s.boot.state = 7) (hh : s.fe.hostHeld = false)
    (ht : s.takesT tb = true) (h : RegAt s (x.toNat / 4 * 4) b n) (h0 : be ≠ 0) (h15 : be ≠ 15) :
    ∃ t, exec (.registerWrite ⟨x, tb⟩ be v) s = .next t ∧
      Noted s t b n 0x02 (0x18000000000 + x.toNat / 4 * 4) reqHost.src be.toNat ∧ Counted s t .ct 0 0x100 (popN 4 be.toNat) ∧
      Frame [.regs, .cnt64, .logPtr] s t := by
  have hcnt : Frame [.cnt64] s (s.cnt .ct 0 0x100 (popN 4 be.toNat)) := State.cnt_frame
  have hcounted : Counted s (s.cnt .ct 0 0x100 (popN 4 be.toNat)) .ct 0 0x100 (popN 4 be.toNat) := counted_cnt
  have hreg : RegAt (s.cnt .ct 0 0x100 (popN 4 be.toNat)) (x.toNat / 4 * 4) b n := h
  rw [registerWrite_open h0 hrun hh ht]
  generalize s.cnt .ct 0 0x100 (popN 4 be.toNat) = u at *
  dsimp only
  rw [if_neg h15, regPartial_present hreg]
  have hlog : Frame [.regs, .logPtr] u (u.logErr b n 0x02 (0x18000000000 + x.toNat / 4 * 4) reqHost.src be.toNat) := State.logErr_frame
  exact ⟨_, rfl, (logErr_noted (by decide) (by decide)).of_logPtr (hcnt .logPtr rfl), hcounted.frame hlog rfl,
    Frame.step hlog rfl (hcnt.mono rfl)⟩

/-! Management (R445). -/

theorem mgmtWrite_pl {x : W26} {v : W32} (hu : s.umcUp = true) (h : pageOf (x.toNat / 4 * 4 / 4096) = some (.pl, n)) :
    exec (.regWrite x v) s = .next (s.regWrite ⟨.umc, 0, 0xFF1⟩ (x.toNat / 4 * 4) v) := by
  show execRegWrite x v s = _
  unfold execRegWrite
  dsimp only
  rw [if_neg (by simp [hu]), h]

theorem mgmtWrite_other {x : W26} {v : W32} (hu : s.umcUp = true) (h : ∀ n, pageOf (x.toNat / 4 * 4 / 4096) ≠ some (.pl, n)) :
    exec (.regWrite x v) s = .next (if x.toNat / 4 * 4 = 0x5108 then s.regWrite ⟨.umc, 0, 0xFF1⟩ (x.toNat / 4 * 4) v
      else s.send (.refused 2 0)) := by
  show execRegWrite x v s = _
  unfold execRegWrite
  dsimp only
  rw [if_neg (by simp [hu])]
  split
  · next hp => exact absurd hp (h _)
  · rfl

/-- The write of TR_CFG is the trace's own. -/
theorem regWrite_trCfg {q : Req} {v : W32} : s.regWrite q 0x5108 v = s.trCfgWrite v.toNat := rfl

/-! PAGE_CTRL and COMPAT (R476, R477, R481, R482). -/

theorem compatWrite_present {p : PageIx} {v : W32} (hp : pageOf p.val = some (b, n)) (h : s.pagePresent p.val = true) :
    exec (.compatWrite p v) s = .next ((s.ungatePage b n).pageCtrlWrite b n v) := by
  show execCompatWrite p v s = _
  unfold execCompatWrite
  rw [hp]
  dsimp only
  rw [if_pos h]

theorem page_offset {i : Nat} (h : pageOf i = some (b, n)) (off : Nat) : regOff b n off = 4096 * i + off := by
  unfold regOff
  rw [page_of_pageOf h]
  omega

theorem compatWrite_absent {p : PageIx} {v : W32} (h : s.pagePresent p.val = false) :
    exec (.compatWrite p v) s = .next (s.addrErr reqHost (0x18000000000 + 4096 * p.val + Off.pageCtrl) true) := by
  show execCompatWrite p v s = _
  unfold execCompatWrite
  split
  · next hp => rw [if_neg (by simp [h]), page_offset hp, Nat.add_assoc]
  · rfl

theorem evtPendClear_absent {p : PageIx} {v ev : W32} (h : s.pagePresent p.val = false) :
    exec (.evtPendClear p v ev) s = .next (s.addrErr reqHost (0x18000000000 + 4096 * p.val + Off.evtPend) true) := by
  show execEvtPendClear p v ev s = _
  unfold execEvtPendClear
  split
  · next hp =>
    unfold State.onPage
    rw [page_of_pageOf hp, h, page_offset hp, Nat.add_assoc]
    rfl
  · rfl

theorem compatOf_setCompat {p q : Nat} {c : Bool} : (s.setCompat p c).compatOf q = if q = p then c else s.compatOf q := SMap.get_put

/-- A write of PAGE_CTRL that the page takes. -/
theorem pageCtrlWrite_taken {p : Nat} {v : W32} (hp : pageOf p = some (b, n))
    (h : b ≠ .fe ∨ s.anyRing = false ∨ s.compatOf p = v.getLsbD 0) :
    let t := s.pageCtrlWrite b n v
    t.compatOf p = v.getLsbD 0 ∧ (∀ q, q ≠ p → t.compatOf q = s.compatOf q) ∧ Sets s t b n Off.pageCtrl (v &&& 0x07FF0100) ∧
      Frame [.regs, .compat] s t := by
  have heq : s.pageCtrlWrite b n v = (s.setReg b n Off.pageCtrl (v &&& 0x07FF0100)).setCompat p (v.getLsbD 0) := by
    unfold State.pageCtrlWrite
    dsimp only
    rw [page_of_pageOf hp, if_neg]
    rintro ⟨h1, h2, h3⟩
    rcases h with h | h | h
    · exact h h1
    · rw [h3] at h
      cases h
    · exact h2 h.symm
  dsimp only
  rw [heq]
  refine ⟨?_, fun q hq => ?_, ⟨State.reg_setReg .., onlyRegs_setReg⟩, Frame.step State.setCompat_frame rfl (State.setReg_frame.mono rfl)⟩
  · rw [compatOf_setCompat, if_pos rfl]
  · rw [compatOf_setCompat, if_neg hq]
    rfl

/-- One of the FE page that would change COMPAT while a ring is enabled (R477). -/
theorem pageCtrlWrite_refused {p : Nat} {v : W32} (hp : pageOf p = some (.fe, n)) (hr : s.anyRing = true)
    (h : s.compatOf p ≠ v.getLsbD 0) : s.pageCtrlWrite .fe n v = s.orReg .fe 0 0x10C 1 := by
  unfold State.pageCtrlWrite
  dsimp only
  rw [page_of_pageOf hp, if_pos ⟨rfl, h.symm, hr⟩]
  rfl

theorem compatOf_setAll {c : Bool} {q : Nat} {xs : List (Nat × Blk × Nat)} :
    (xs.foldl (fun s p => s.setCompat p.1 c) s).compatOf q = if q ∈ xs.map (·.1) then c else s.compatOf q := by
  induction xs generalizing s with
  | nil => simp
  | cons x xs ih =>
    rw [List.foldl_cons, ih, compatOf_setCompat, List.map_cons]
    by_cases h : q ∈ xs.map (·.1)
    · rw [if_pos h, if_pos (List.mem_cons_of_mem _ h)]
    · rw [if_neg h]
      exact if_congr (by simp [h]) rfl rfl

theorem mem_presentPages {x : Nat × Blk × Nat} : x ∈ s.presentPages ↔ pageOf x.1 = some x.2 ∧ s.pagePresent x.1 = true := by
  unfold State.presentPages allPages
  rw [List.mem_filter, List.mem_filterMap]
  refine and_congr ⟨?_, fun h => ⟨x.1, List.mem_range.mpr (lt_of_pageOf h), by rw [h]; rfl⟩⟩ Iff.rfl
  rintro ⟨i, -, hi⟩
  obtain ⟨p, hp, rfl⟩ := Option.map_eq_some_iff.mp hi
  exact hp

theorem pageOf_of_present {p : Nat} (h : s.pagePresent p = true) : ∃ b n, pageOf p = some (b, n) := by
  unfold State.pagePresent at h
  cases hp : pageOf p with
  | none =>
    rw [hp] at h
    cases h
  | some x => exact ⟨x.1, x.2, rfl⟩

/-- The pages other than the FE page that GL_COMPAT.ALL writes. -/
theorem mem_othersThanFe {p : Nat} :
    p ∈ (s.presentPages.filter (fun p => p.2.1 != .fe)).map (·.1) ↔ s.pagePresent p = true ∧ p ≠ Blk.page .fe 0 := by
  rw [List.mem_map]
  constructor
  · rintro ⟨x, hx, rfl⟩
    obtain ⟨hmem, hfe⟩ := List.mem_filter.mp hx
    obtain ⟨hp, hpres⟩ := mem_presentPages.mp hmem
    refine ⟨hpres, fun he => ?_⟩
    rw [he] at hp
    have h2 : x.2 = (.fe, 0) := (Option.some.inj hp).symm
    rw [h2] at hfe
    cases hfe
  · rintro ⟨hpres, hne⟩
    obtain ⟨b, n, hp⟩ := pageOf_of_present hpres
    refine ⟨(p, b, n), List.mem_filter.mpr ⟨mem_presentPages.mpr ⟨hp, hpres⟩, ?_⟩, rfl⟩
    have hb : b ≠ .fe := by
      rintro rfl
      exact hne (page_of_pageOf hp).symm
    simpa using hb

/-- GL_COMPAT.ALL with no ring enabled (R481). -/
theorem compatAll_open {c : Bool} (h : s.anyRing = false) :
    let t := s.compatAll c
    (∀ p, s.pagePresent p = true → t.compatOf p = c) ∧ (∀ p, s.pagePresent p = false → t.compatOf p = s.compatOf p) ∧
      Frame [.compat] s t := by
  have hfold : Frame [.compat] s ((s.presentPages.filter (fun p => p.2.1 != .fe)).foldl (fun s p => s.setCompat p.1 c) s) :=
    Frame.foldl fun _ _ => State.setCompat_frame
  have heq : s.compatAll c =
      ((s.presentPages.filter (fun p => p.2.1 != .fe)).foldl (fun s p => s.setCompat p.1 c) s).setCompat (Blk.page .fe 0) c := by
    unfold State.compatAll
    dsimp only
    rw [if_neg]
    unfold State.anyRing at h ⊢
    rw [show State.fe _ = s.fe from hfold .fe rfl, h]
    decide
  dsimp only
  rw [heq]
  refine ⟨fun p hp => ?_, fun p hp => ?_, Frame.step State.setCompat_frame rfl hfold⟩
  · rw [compatOf_setCompat, compatOf_setAll]
    split
    · rfl
    · next hne => rw [if_pos (mem_othersThanFe.mpr ⟨hp, hne⟩)]
  · have hne : p ≠ Blk.page .fe 0 := by
      rintro rfl
      cases hp
    rw [compatOf_setCompat, if_neg hne, compatOf_setAll, if_neg]
    intro hmem
    rw [(mem_othersThanFe.mp hmem).1] at hp
    cases hp

/-! EVT_PEND (R478). -/

/-- The events of the cycle and the cleared bits are in; the message has still to go out. -/
def evtTaken (s : State) (b : Blk) (n : Nat) (v ev : W32) : State :=
  (s.orReg b n Off.evtRaw ev).setReg b n Off.evtPend
    ((s.reg b n Off.evtPend &&& ~~~v) ||| (ev &&& ~~~(s.reg b n Off.evtMask)))

theorem evtClear_eq {v ev : W32} :
    s.evtClear b n v ev =
      if ((ev &&& ~~~(s.reg b n Off.evtMask)) &&& (~~~(s.reg b n Off.evtPend) ||| v)) ≠ 0 ∧ bitN (s.regN b n Off.pageCtrl) 8 = true then
        (evtTaken s b n v ev).msix (bitsN (s.regN b n Off.pageCtrl) 26 16)
      else evtTaken s b n v ev := by
  have hctl : (evtTaken s b n v ev).regN b n Off.pageCtrl = s.regN b n Off.pageCtrl := by
    unfold evtTaken State.regN
    rw [State.reg_setReg_ne (by decide) (by decide) (by decide), State.reg_orReg_ne (by decide) (by decide) (by decide)]
  rw [← hctl]
  unfold State.evtClear
  dsimp only
  exact if_congr (by simp only [Bool.and_eq_true, bne_iff_ne]; rfl) rfl rfl

theorem evtTaken_only {v ev : W32} :
    OnlyRegs [State.regKey b n Off.evtPend, State.regKey b n Off.evtRaw] s (evtTaken s b n v ev) := by
  intro k hk
  simp only [List.contains_cons, List.contains_nil, Bool.or_false, Bool.or_eq_false_iff, beq_eq_false_iff_ne] at hk
  unfold evtTaken
  exact (State.rawReg_setRaw_ne _ _ hk.1).trans (State.rawReg_orReg_ne hk.2)

theorem evtTaken_frame {v ev : W32} : Frame [.regs] s (evtTaken s b n v ev) :=
  Frame.step State.setReg_frame rfl State.orReg_frame

theorem evtTaken_raw {v ev : W32} : (evtTaken s b n v ev).reg b n Off.evtRaw = s.reg b n Off.evtRaw ||| ev := by
  unfold evtTaken
  rw [State.reg_setReg_ne (by decide) (by decide) (by decide), State.reg_orReg]

theorem evtTaken_pend {v ev : W32} : (evtTaken s b n v ev).reg b n Off.evtPend =
    (s.reg b n Off.evtPend &&& ~~~v) ||| (ev &&& ~~~(s.reg b n Off.evtMask)) := State.reg_setReg ..

theorem msix_error {vec : Nat} (h : s.sec.tdi = 3) : s.msix vec = s := by
  unfold State.msix
  dsimp only
  rw [if_pos h]

/-- A message of a vector that is not masked goes out (R475). -/
theorem msix_sent {vec : Nat} (hv : vec < 2048) (h3 : s.sec.tdi ≠ 3) (hm : (s.rawReg (0x3000000 + 16 * vec + 12)).getLsbD 0 = false) :
    (s.msix vec).hostOut = s.hostOut ++ [.msix ((s.rawReg (0x3000000 + 16 * vec)).toNat + 2 ^ 32 * (s.rawReg (0x3000000 + 16 * vec + 4)).toNat)
      (s.rawReg (0x3000000 + 16 * vec + 8)) s.tdiRuns] ∧ (s.msix vec).regs = s.regs := by
  unfold State.msix
  rw [Nat.mod_eq_of_lt hv]
  dsimp only
  rw [if_neg h3, hm]
  exact ⟨rfl, rfl⟩

/-- A write of EVT_PEND with the events of its cycle, on a page that is there and not held. -/
theorem evtPendClear_effect {p : PageIx} {v ev : W32} (h : RegAt s (4096 * p.val) b n) :
    let old := s.reg b n Off.evtPend
    let new := ev &&& ~~~(s.reg b n Off.evtMask)
    let ctl := s.regN b n Off.pageCtrl
    let sends := new &&& (~~~old ||| v) ≠ 0 ∧ bitN ctl 8 = true ∧ s.sec.tdi ≠ 3
    let e := 0x3000000 + 16 * bitsN ctl 26 16
    ∃ t, exec (.evtPendClear p v ev) s = .next t ∧ t.reg b n Off.evtPend = (old &&& ~~~v) ||| new ∧
      t.reg b n Off.evtRaw = s.reg b n Off.evtRaw ||| ev ∧ Frame [.regs, .hostOut, .pw] s t ∧
      (¬ sends → t.hostOut = s.hostOut ∧ OnlyRegs [State.regKey b n Off.evtPend, State.regKey b n Off.evtRaw] s t) ∧
      (sends → (s.rawReg (e + 12)).getLsbD 0 = false →
        t.hostOut = s.hostOut ++ [.msix ((s.rawReg e).toNat + 2 ^ 32 * (s.rawReg (e + 4)).toNat) (s.rawReg (e + 8)) s.tdiRuns] ∧
        OnlyRegs [State.regKey b n Off.evtPend, State.regKey b n Off.evtRaw] s t) := by
  obtain ⟨hp, hpres, hheld⟩ := h
  rw [Nat.mul_div_cancel_left _ (by decide)] at hp hpres
  have hexec : exec (.evtPendClear p v ev) s = .next ((s.ungatePage b n).evtClear b n v ev) := by
    show execEvtPendClear p v ev s = _
    unfold execEvtPendClear
    rw [hp]
    dsimp only
    unfold State.onPage
    rw [page_of_pageOf hp, hpres, hheld]
    rfl
  have hgate : Frame [.pw] s (s.ungatePage b n) := State.ungatePage_frame
  have hreg : ∀ o, (s.ungatePage b n).reg b n o = s.reg b n o := fun _ => State.reg_ungatePage
  have hraw : ∀ k, (s.ungatePage b n).rawReg k = s.rawReg k := fun _ => State.rawReg_ungatePage
  have hsec : (s.ungatePage b n).sec = s.sec := hgate .sec rfl
  have hout : (s.ungatePage b n).hostOut = s.hostOut := hgate .hostOut rfl
  rw [hexec]
  generalize s.ungatePage b n = u at *
  have hpend := evtTaken_pend (s := u) (b := b) (n := n) (v := v) (ev := ev)
  have hraised := evtTaken_raw (s := u) (b := b) (n := n) (v := v) (ev := ev)
  have honly := evtTaken_only (s := u) (b := b) (n := n) (v := v) (ev := ev)
  have hframe := evtTaken_frame (s := u) (b := b) (n := n) (v := v) (ev := ev)
  have hu : OnlyRegs [State.regKey b n Off.evtPend, State.regKey b n Off.evtRaw] s (evtTaken u b n v ev) := fun k hk =>
    (honly k hk).trans (hraw k)
  have hbelow : ∀ off, off < 4096 → PageKey (State.regKey b n off) := fun off ho => pageKey_regKey (pageOf_page hp) ho
  have hsent : (evtTaken u b n v ev).sec = s.sec := (hframe .sec rfl : _ = u.sec).trans hsec
  have houtT : (evtTaken u b n v ev).hostOut = s.hostOut := (hframe .hostOut rfl : _ = u.hostOut).trans hout
  have hmsixKeys : ∀ k, 0x3000000 ≤ k → (evtTaken u b n v ev).rawReg k = s.rawReg k := fun k hk => hu k (by
    have h1 := hbelow Off.evtPend (by decide)
    have h2 := hbelow Off.evtRaw (by decide)
    unfold PageKey at h1 h2
    simp only [List.contains_cons, List.contains_nil, Bool.or_false, Bool.or_eq_false_iff, beq_eq_false_iff_ne]
    omega)
  rw [evtClear_eq]
  unfold State.regN at *
  rw [hreg, hreg, hreg] at *
  generalize evtTaken u b n v ev = w at *
  dsimp only
  by_cases hs : ev &&& ~~~(s.reg b n Off.evtMask) &&& (~~~(s.reg b n Off.evtPend) ||| v) ≠ 0 ∧ bitN (s.reg b n Off.pageCtrl).toNat 8 = true
  · rw [if_pos hs]
    have hmsix : ∀ k, PageKey k → (w.msix (bitsN (s.reg b n Off.pageCtrl).toNat 26 16)).rawReg k = w.rawReg k :=
      fun k hk => State.rawReg_msix hk
    refine ⟨_, rfl, (hmsix _ (hbelow _ (by decide))).trans hpend, (hmsix _ (hbelow _ (by decide))).trans hraised,
      Frame.step State.msix_frame rfl (Frame.step hframe rfl (hgate.mono rfl)), fun hn => ?_, fun hsends hm => ?_⟩
    · have h3 : w.sec.tdi = 3 := by
        rw [hsent]
        by_contra h3
        exact hn ⟨hs.1, hs.2, h3⟩
      rw [msix_error h3]
      exact ⟨houtT, hu⟩
    · have hvec : bitsN (s.reg b n Off.pageCtrl).toNat 26 16 < 2048 := Nat.mod_lt _ (by decide)
      generalize bitsN (s.reg b n Off.pageCtrl).toNat 26 16 = vec at *
      obtain ⟨ho, hr⟩ := msix_sent (s := w) hvec (by rw [hsent]; exact hsends.2.2) (by rwa [hmsixKeys _ (by omega)])
      rw [hmsixKeys _ (by omega), hmsixKeys _ (by omega), hmsixKeys _ (by omega), houtT] at ho
      refine ⟨ho.trans ?_, fun k hk => (State.rawReg_of_regs hr k).trans (hu k hk)⟩
      unfold State.tdiRuns
      rw [hsent]
  · rw [if_neg hs]
    exact ⟨_, rfl, hpend, hraised, Frame.step hframe rfl (hgate.mono rfl), fun _ => ⟨houtT, hu⟩,
      fun hsends => absurd ⟨hsends.1, hsends.2.1⟩ hs⟩

end Sys2Proof.Claims

open Sys2Proof Sys2Proof.Machine Sys2Proof.Claims

/-- Settles O57: each form of a register access by the lemma that names it. -/
theorem registerWritesAndPageControl : Obligations.RegisterWritesAndPageControl := by
  unfold Obligations.RegisterWritesAndPageControl
  refine ⟨fun s x v tb => ?_, fun s v => ?_⟩
  · dsimp only
    have hlt : x.toNat < 2 ^ 26 := x.isLt
    refine ⟨fun b n r hrun hopen hat ha hr => ⟨registerWrite_whole hrun hopen.1 hopen.2 hat ha hr,
        fun be h0 h15 => registerWrite_part hrun hopen.1 hopen.2 hat h0 h15⟩,
      ⟨_, registerWrite_shut (.inl rfl), State.cnt_frame⟩, fun be ht => ⟨_, registerWrite_shut (.inr ht), State.cnt_frame⟩,
      fun len ht hh h1 h2 h3 => ?_, fun hopen habsent => ⟨fun be hbe hrun => registerWrite_absent hbe hrun hopen.1 hopen.2 habsent,
        fun hx => ?_⟩, fun hup => ⟨fun n r hat ha hr => ?_, fun ha => ?_, fun hpl ha => ?_⟩, fun b n hopen hat hb hx => ?_⟩
    · refine ⟨s.refuseRead len, ?_, rfl, Frame.set_hostOut rfl .refl⟩
      show execCounterLoRead ⟨x, len, tb⟩ s = _
      unfold execCounterLoRead
      dsimp only
      rw [if_neg (by rw [hh]; simp; omega), ht]
      rfl
    · rw [← hx] at habsent ⊢
      exact counterLoRead_absent hx hopen.1 hopen.2 habsent
    · obtain ⟨honly, hbits, hframe, -⟩ := regWrite_writtenBy (q := ⟨.umc, 0, 0xFF1⟩) (v := v) hat ha hr
      exact ⟨_, mgmtWrite_pl hup hat.1, honly, hbits, hframe (by decide) (by decide)⟩
    · refine ⟨s.trCfgWrite v.toNat, ?_, rfl⟩
      rw [mgmtWrite_other hup (by rw [ha]; intro n hn; cases hn), if_pos ha, ha, regWrite_trCfg]
    · exact ⟨s.send (.refused 2 0), (mgmtWrite_other hup hpl).trans (by rw [if_neg ha]), rfl, State.send_frame⟩
    · rw [← hx] at hat ⊢
      exact counterLoRead_present hx hopen.1 hopen.2 hat hb
  · refine ⟨fun p b n hp hpres => ⟨fun h => ?_, fun hb hr hc => ?_⟩, fun p hpres c o hc => ?_,
      fun c hr => ⟨_, rfl, compatAll_open hr⟩, fun p b n ev hat => evtPendClear_effect hat⟩
    · have hgate : Frame [.pw] s (s.ungatePage b n) := State.ungatePage_frame
      have hcompat : ∀ q, (s.ungatePage b n).compatOf q = s.compatOf q := fun q => by
        unfold State.compatOf
        rw [show (s.ungatePage b n).compat = s.compat from hgate .compat rfl, show (s.ungatePage b n).strap = s.strap from hgate .strap rfl]
      have hring : (s.ungatePage b n).anyRing = s.anyRing := by
        unfold State.anyRing
        rw [show (s.ungatePage b n).fe = s.fe from hgate .fe rfl]
      obtain ⟨htaken, hothers, hsets, hframe⟩ := pageCtrlWrite_taken (s := s.ungatePage b n) (v := v) hp (by rwa [hcompat, hring])
      exact ⟨_, compatWrite_present hp hpres, htaken, fun q hq => (hothers q hq).trans (hcompat q),
        ⟨hsets.1, fun k hk => (hsets.2 k hk).trans State.rawReg_ungatePage⟩, Frame.step hframe rfl (hgate.mono rfl)⟩
    · subst hb
      refine ⟨_, (compatWrite_present hp hpres).trans ?_, ⟨State.reg_orReg, onlyRegs_setReg⟩, State.orReg_frame⟩
      rw [State.ungatePage_other (by decide) (by decide), pageCtrlWrite_refused hp hr hc]
    · have hp : p.val < 2 ^ 14 := p.isLt
      rcases hc with ⟨rfl, rfl⟩ | ⟨⟨ev, rfl⟩, rfl⟩
      · exact ⟨_, compatWrite_absent hpres, addrErr_host_noted (w := true) (by have : Off.pageCtrl = 0x10 := rfl; omega), State.addrErr_frame⟩
      · exact ⟨_, evtPendClear_absent hpres, addrErr_host_noted (w := true) (by have : Off.evtPend = 0x28 := rfl; omega), State.addrErr_frame⟩

end

section
/-! SUPPORT. Work ended from outside (R385, R395): the copy engine's commands, the rings, and the launches, however a tenant change or
the TDI's failure ends them. -/

namespace Sys2Proof.Machine

variable {s t u : State} {k : Nat} {Q : HeldRec → Prop} {L : LSlot → Prop}

/-! What ending a copy command or a ring leaves of the slots. -/

theorem State.copyUndo_fe {c : CopyCmd} : ∃ w, s.copyUndo c = { s with fe := { s.fe with wsets := w } } := by
  unfold State.copyUndo
  dsimp only
  split
  · exact ⟨s.fe.wsets, rfl⟩
  · split
    · exact ⟨_, rfl⟩
    · exact ⟨_, rfl⟩

/-- A copy command's own record and its lines are gone; its end has still to be recorded. -/
def State.copyGone (s : State) (c : CopyCmd) : State :=
  let e := s.fe.copyEng
  let s := { s with fe := { s.fe with
    copies := s.fe.copies.filter (fun x => x.id ≠ c.id), copyEng := { e with fly := e.fly.filter (fun d => d.id ≠ c.id) } } }
  s.setFab { s.fab with awaits := s.fab.awaits.map (fun w => if w.agent == .copy && w.d == c.id then { w with orphan := true } else w) }

theorem State.copyFail_eq {c : CopyCmd} {status detail : Nat} :
    s.copyFail c status detail = ((s.copyUndo c).copyGone c).cmdEnd ⟨c.ring % 32768, Nat.mod_lt _ (by decide)⟩ c.head c.w status detail c.t0
      (if C.op c.w = 9 then (s.wset (C.ws c.w)).ver else 0) := rfl

theorem SlotInv.copyFail (law : SlotLaw k Q L) {c : CopyCmd} {status detail : Nat} (hi : SlotInv k Q L s) :
    SlotInv k Q L (s.copyFail c status detail) := by
  rw [State.copyFail_eq]
  refine SlotInv.cmdEnd law (SlotInv.of_fe (s := s.copyUndo c) ?_ rfl rfl)
  obtain ⟨w, hw⟩ := State.copyUndo_fe (s := s) (c := c)
  rw [hw]
  exact hi.of_fe rfl rfl

theorem SlotInv.copiesKill (law : SlotLaw k Q L) (hi : SlotInv k Q L s) : SlotInv k Q L s.copiesKill :=
  SlotInv.foldl (fun _ _ h => h.copyFail law) hi

/-- The ring's held records are dropped, and the slot that its head holds is freed. -/
def State.ringDropped (s : State) (r : Nat) : State :=
  let x := s.ring r
  let s := x.held.foldl (fun s h => s.dropRec r h) s
  match x.wait with
  | .granted t => s.slotFree' t false
  | _ => s

/-- A ring that is DISABLED at once. -/
def Ring.killed (x : Ring) : Ring := { x with state := 0, disabling := false, wait := .none, sigs := [], live := [], held := [] }

theorem State.ringKill_eq {r : Nat} : s.ringKill r = ((s.ringDropped r).modRing r Ring.killed).ringSync r := rfl

theorem SlotInv.dropRecs (law : SlotLaw k Q L) {r : Nat} {hs : List HeldRec} (hq : ∀ h ∈ hs, Q h) (hi : SlotInv k Q L s) :
    SlotInv k Q L (hs.foldl (fun s h => s.dropRec r h) s) := by
  induction hs generalizing s with
  | nil => exact hi
  | cons h hs ih => exact ih (fun x hx => hq x (List.mem_cons_of_mem _ hx)) (hi.dropRec law (hq h List.mem_cons_self))

theorem SlotInv.ringKill (law : SlotLaw k Q L) {r : Nat} (hi : SlotInv k Q L s) : SlotInv k Q L (s.ringKill r) := by
  rw [State.ringKill_eq]
  have hdrop : SlotInv k Q L (s.ringDropped r) := by
    have hrecs : SlotInv k Q L ((s.ring r).held.foldl (fun s h => s.dropRec r h) s) := hi.dropRecs law (hi.held r)
    unfold State.ringDropped
    dsimp only
    split
    · next j hj => exact hrecs.setLsl_ne fun he => hi.wait r (by rw [hj, he])
    · exact hrecs
  exact SlotInv.ringSync (hdrop.setRing (fun _ h => nomatch h) (by simp [Ring.killed]))

theorem SlotInv.ringsKill (law : SlotLaw k Q L) (hi : SlotInv k Q L s) : SlotInv k Q L s.ringsKill :=
  SlotInv.foldl (fun _ _ h => h.ringKill law) hi

/-! What it leaves of the closed flows and of the commands. -/

theorem State.cmdEnd_aside {r : RingId} {n w status detail t0 ver : Nat} : Aside s (s.cmdEnd r n w status detail t0 ver) :=
  Aside.step State.ringSettle_aside State.endRec_aside

/-- A command that fails leaves the engine, alone. -/
theorem State.copies_copyFail {c : CopyCmd} {status detail : Nat} :
    (s.copyFail c status detail).fe.copies = s.fe.copies.filter (fun x => x.id ≠ c.id) := by
  obtain ⟨w, hw⟩ := State.copyUndo_fe (s := s) (c := c)
  rw [State.copyFail_eq, State.cmdEnd_aside.copies, hw]
  rfl

theorem State.closed_copyFail {c : CopyCmd} {status detail : Nat} : ∀ e ∈ s.fab.closedFlows, e ∈ (s.copyFail c status detail).fab.closedFlows := by
  obtain ⟨w, hw⟩ := State.copyUndo_fe (s := s) (c := c)
  rw [State.copyFail_eq]
  refine fun e he => State.cmdEnd_aside.closed e ?_
  rw [hw]
  exact he

theorem State.copies_copiesKill : s.copiesKill.fe.copies = [] := by
  have hfold : ∀ (cs : List CopyCmd) (s : State), (cs.foldl (fun s c => s.copyFail c 0x12 0) s).fe.copies =
      s.fe.copies.filter (fun x => decide (∀ c ∈ cs, x.id ≠ c.id)) := by
    intro cs
    induction cs with
    | nil => simp
    | cons c cs ih =>
      intro s
      rw [List.foldl_cons, ih, State.copies_copyFail, List.filter_filter]
      refine List.filter_congr fun x _ => ?_
      simp [Bool.and_comm]
  unfold State.copiesKill
  rw [hfold, List.filter_eq_nil_iff]
  intro x hx
  simp only [decide_eq_true_eq]
  exact fun h => h x hx rfl

theorem State.closed_copiesKill : ∀ e ∈ s.fab.closedFlows, e ∈ s.copiesKill.fab.closedFlows := by
  have hfold : ∀ (cs : List CopyCmd) (s : State), ∀ e ∈ s.fab.closedFlows, e ∈ (cs.foldl (fun s c => s.copyFail c 0x12 0) s).fab.closedFlows := by
    intro cs
    induction cs with
    | nil => exact fun _ _ h => h
    | cons c cs ih => exact fun s e he => ih _ e (State.closed_copyFail e he)
  exact hfold _ _

theorem State.ringDropped_aside {r : Nat} : Aside s (s.ringDropped r) := by
  unfold State.ringDropped
  dsimp only
  have hrecs : Aside s ((s.ring r).held.foldl (fun s h => s.dropRec r h) s) := .foldl fun _ _ => State.dropRec_aside
  split
  · exact Aside.step State.slotFree'_aside hrecs
  · exact hrecs

theorem State.ringKill_aside {r : Nat} : Aside s (s.ringKill r) := by
  rw [State.ringKill_eq]
  exact Aside.step State.ringSync_aside (Aside.step State.modRing_aside State.ringDropped_aside)

theorem State.ringsKill_aside : Aside s s.ringsKill := .foldl fun _ _ => State.ringKill_aside

/-! The rings. -/

theorem State.ring_of_fe (h : t.fe.rings = s.fe.rings) (r : Nat) : t.ring r = s.ring r := by
  unfold State.ring
  rw [h]

theorem State.ring_dropRec_ne {r q : Nat} {h : HeldRec} (hq : q ≠ r) : (s.dropRec r h).ring q = s.ring q := by
  unfold State.dropRec State.modRing
  dsimp only
  split
  · exact State.ring_setRing_ne _ hq
  · exact State.ring_setRing_ne _ hq

theorem State.ring_ringDropped_ne {r q : Nat} (hq : q ≠ r) : (s.ringDropped r).ring q = s.ring q := by
  have hrecs : ∀ (hs : List HeldRec) (s : State), (hs.foldl (fun s h => s.dropRec r h) s).ring q = s.ring q := by
    intro hs
    induction hs with
    | nil => exact fun _ => rfl
    | cons h hs ih => exact fun s => (ih _).trans (State.ring_dropRec_ne hq)
  unfold State.ringDropped
  dsimp only
  split
  · exact hrecs _ _
  · exact hrecs _ _

theorem State.ring_ringSync {r q : Nat} : (s.ringSync r).ring q = s.ring q :=
  State.ring_of_fe (congrArg Front.rings (State.ringSync_frame .fe rfl)) q

theorem State.ringState_ringKill {r q : Nat} : ((s.ringKill r).ring q).state = if q = r then 0 else (s.ring q).state := by
  rw [State.ringKill_eq, State.ring_ringSync]
  unfold State.modRing
  split
  · next h =>
    rw [h, State.ring_setRing]
    rfl
  · next h => rw [State.ring_setRing_ne _ h, State.ring_ringDropped_ne h]

/-- Every ring is DISABLED. -/
theorem State.ringsKill_noRings : Sys2Proof.Claims.NoRings s.ringsKill := by
  intro r
  have hkeep : ∀ (rs : List Nat) (s : State), (s.ring r).state = 0 → ((rs.foldl (fun s r => s.ringKill r) s).ring r).state = 0 := by
    intro rs
    induction rs with
    | nil => exact fun _ h => h
    | cons q rs ih =>
      refine fun s h => ih _ ?_
      rw [State.ringState_ringKill]
      split
      · rfl
      · exact h
  by_cases h0 : (s.ring r).state = 0
  · exact hkeep _ _ h0
  · have hmem : r ∈ (s.fe.rings.filter (fun e => e.2.state != 0)).map (·.1) := by
      have hentry : ∀ m : SMap Ring, (SMap.get Ring.reset m r).state ≠ 0 → (r, SMap.get Ring.reset m r) ∈ m := by
        intro m
        induction m with
        | nil => exact fun h => absurd rfl h
        | cons e m ih =>
          intro h
          rw [SMap.get] at h ⊢
          split at h
          · next he =>
            rw [if_pos he, he]
            exact List.mem_cons_self
          · next he =>
            rw [if_neg he]
            exact List.mem_cons_of_mem _ (ih h)
      exact List.mem_map.mpr ⟨_, List.mem_filter.mpr ⟨hentry _ h0, by simpa [State.ring] using h0⟩, rfl⟩
    exact foldl_establishes (I := fun _ => True) (P := fun s => (s.ring r).state = 0) (fun _ _ _ => trivial)
      (fun s _ => by rw [State.ringState_ringKill, if_pos rfl])
      (fun s q h => by
        rw [State.ringState_ringKill]
        split
        · rfl
        · exact h) hmem trivial

/-! All of it. -/

/-- Every launch, every copy command and every ring ends. -/
def State.workKill (s : State) : State := s.endAll.copiesKill.ringsKill

theorem State.workKill_frame :
    Frame [.regs, .latch, .cnt64, .fls, .ums, .sram, .hostMem, .reports, .hostOut, .freeCtr, .hbm, .fab, .logPtr, .fe, .tr, .pw, .flt, .hostReads]
      s s.workKill := by
  have hends : Frame [.regs, .latch, .cnt64, .fls, .ums, .sram, .hostMem, .reports, .hostOut, .freeCtr, .hbm, .fab, .logPtr, .fe, .tr, .pw,
      .flt, .hostReads] s s.endAll := Frame.foldl fun _ _ => State.endLaunch_frame
  unfold State.workKill
  generalize s.endAll = u at hends
  exact Frame.step State.ringsKill_frame rfl (Frame.step State.copiesKill_frame rfl hends)

theorem State.workKill_copies : s.workKill.fe.copies = [] := by
  unfold State.workKill
  rw [State.ringsKill_aside.copies, State.copies_copiesKill]

/-- A launch that ran, or that has ended already, has ended. -/
theorem State.workKill_over {x : LSlot} (hx : x.state = 2 ∧ x.ended = none) (hk : k < 64) (h : AwayOrOver k x s) :
    Over k s.workKill ∧ (k, x.gen) ∈ s.workKill.fab.closedFlows := by
  obtain ⟨ho, hc⟩ : Over k s.endAll ∧ (k, x.gen) ∈ s.endAll.fab.closedFlows := by
    unfold State.endAll
    exact AwayOrOver.endAll hx (List.mem_range.mpr hk) h
  unfold State.workKill
  generalize s.endAll = u at ho hc
  exact ⟨SlotInv.ringsKill over_law (SlotInv.copiesKill over_law ho), State.ringsKill_aside.closed _ (State.closed_copiesKill _ hc)⟩

/-- A quiesce keeps what is known of a launch. -/
theorem AwayOrOver.quiescePart {x : LSlot} (hx : x.state = 2 ∧ x.ended = none) {p : Nat} {why : Option (Nat × Nat)}
    (h : AwayOrOver k x s) : AwayOrOver k x (s.quiescePart p why) := by
  have hend : AwayOrOver k x (s.endPart p why) := by
    unfold State.endPart
    generalize List.range 64 = js
    induction js generalizing s with
    | nil => exact h
    | cons j js ih =>
      refine ih ?_
      dsimp only
      split
      · split
        · split <;> exact h.endLaunch hx
        · exact h.endLaunch hx
      · exact h
  unfold State.quiescePart
  exact (hend.frame State.dropSweep_frame rfl rfl).frame (Frame.foldl fun _ _ => State.haltUmbel_frame) rfl rfl

/-- The partitions that serve, or recover, stop their umbels. -/
def State.quiesceAll (s : State) : State :=
  ((List.range 16).filter (fun p => (s.part p).state == 1 || (s.part p).state == 2)).foldl (fun s p => s.quiescePart p none) s

theorem State.quiesceAll_frame :
    Frame [.regs, .latch, .cnt64, .fls, .ums, .sram, .hostMem, .reports, .hostOut, .freeCtr, .hbm, .fab, .logPtr, .fe, .tr, .pw, .flt, .hostReads]
      s s.quiesceAll := Frame.foldl fun _ _ => State.quiescePart_frame

theorem AwayOrOver.quiesceAll {x : LSlot} (hx : x.state = 2 ∧ x.ended = none) (h : AwayOrOver k x s) : AwayOrOver k x s.quiesceAll := by
  unfold State.quiesceAll
  generalize (List.range 16).filter (fun p => (s.part p).state == 1 || (s.part p).state == 2) = ps
  induction ps generalizing s with
  | nil => exact h
  | cons p ps ih => exact ih (h.quiescePart hx)

/-- The tenancy's record of a change that starts. -/
def Sec.changing (x : Sec) (now : Nat) (stop : Bool) : Sec := { x with state := 2, change := 1, changeAt := now, stop := stop, done := false }

theorem State.changeStart_eq {stop : Bool} (h : s.sec.change = 0) :
    s.changeStart stop =
      let v := (s.setSec (s.sec.changing s.ftime stop)).quiesceAll.workKill
      (v.setFlt { v.flt with sweep := none }).setSec { v.sec with shut := true } := by
  unfold State.changeStart State.workKill State.endAll State.quiesceAll
  rw [if_neg (by omega)]
  generalize List.range 64 = js
  generalize List.range 16 = ps
  rfl

theorem State.tdiFail_eq (h : s.sec.tdi ≠ 3) : s.tdiFail = (s.setSec { s.sec with tdi := 3 }).workKill := by
  unfold State.tdiFail State.workKill State.endAll
  rw [if_neg h]

end Sys2Proof.Machine

namespace Sys2Proof.Claims
open Sys2Proof.Machine

variable {s t : State}

theorem workKill_workEnds (h : ∀ k, Tidy s → Running s k → AwayOrOver k (s.lsl k) t) : WorkEnds s t.workKill := by
  refine ⟨State.workKill_copies, fun ht k hr => ?_⟩
  obtain ⟨ho, hc⟩ := State.workKill_over hr.2 hr.1 (h k ht hr)
  exact ended_of_over ho hc

/-- The TDI fails: ERROR, the work ended, every ring DISABLED (R395). -/
theorem tdiFail_effect (h : s.sec.tdi ≠ 3) :
    s.tdiFail.sec = { s.sec with tdi := 3 } ∧ NoRings s.tdiFail ∧ WorkEnds s s.tdiFail := by
  rw [State.tdiFail_eq h]
  refine ⟨State.workKill_frame .sec rfl, State.ringsKill_noRings, workKill_workEnds fun k ht hr => ?_⟩
  exact .inl ((away_of_tidy ht hr).frame State.setSec_frame rfl)

/-- A tenant change starts (R385, R386). -/
theorem changeStart_effect {stop : Bool} (h : s.sec.change = 0) :
    ChangeStarts s (s.changeStart stop) stop ∧ NoRings (s.changeStart stop) ∧ WorkEnds s (s.changeStart stop) := by
  rw [State.changeStart_eq h]
  have hsec : (s.setSec (s.sec.changing s.ftime stop)).quiesceAll.workKill.sec = s.sec.changing s.ftime stop :=
    (State.workKill_frame .sec rfl : _ = (s.setSec (s.sec.changing s.ftime stop)).quiesceAll.sec).trans (State.quiesceAll_frame .sec rfl)
  have hrings : NoRings (s.setSec (s.sec.changing s.ftime stop)).quiesceAll.workKill := State.ringsKill_noRings
  have hends : WorkEnds s (s.setSec (s.sec.changing s.ftime stop)).quiesceAll.workKill := workKill_workEnds fun k ht hr => by
    have ha : AwayOrOver k (s.lsl k) (s.setSec (s.sec.changing s.ftime stop)) := .inl ((away_of_tidy ht hr).frame State.setSec_frame rfl)
    exact ha.quiesceAll hr.2
  generalize (s.setSec (s.sec.changing s.ftime stop)).quiesceAll.workKill = v at *
  dsimp only
  refine ⟨?_, hrings, hends⟩
  unfold ChangeStarts State.setSec
  dsimp only
  rw [hsec]
  exact ⟨rfl, rfl, rfl, rfl, rfl, rfl⟩

end Sys2Proof.Claims
end

section
/-! SUPPORT. Lines of HBM as the host's BAR4 meets them (R239, R286 to R289, R296, R473): what a write, a partial write and a clean read
leave. -/

namespace Sys2Proof.Machine

variable {s t : State}

/-! Bytes of a line. -/

/-- A byte of a line, bit by bit. -/
theorem testBit_lineByte {l : Line} {i j : Nat} : (lineByte l i).testBit j = (decide (j < 8) && l.getLsbD (8 * i + j)) := by
  unfold lineByte bitsN
  rw [Nat.testBit_mod_two_pow, Nat.testBit_div_two_pow, show 8 * i + 7 + 1 - 8 * i = 8 by omega, Nat.add_comm j]
  rfl

/-- The enabled bytes among the first `n`, as ones. -/
def byteMask (mask n : Nat) : Nat := (List.range n).foldl (fun acc i => acc + (if bitN mask i then 255 * 2 ^ (8 * i) else 0)) 0

theorem byteMask_succ {mask n : Nat} : byteMask mask (n + 1) = 2 ^ (8 * n) * (if bitN mask n then 255 else 0) + byteMask mask n := by
  unfold byteMask
  rw [List.range_succ, List.foldl_append, List.foldl_cons, List.foldl_nil]
  split <;> omega

theorem byteMask_lt {mask n : Nat} : byteMask mask n < 2 ^ (8 * n) := by
  induction n with
  | zero => simp [byteMask]
  | succ n ih =>
    rw [byteMask_succ, show 8 * (n + 1) = 8 * n + 8 by omega, Nat.pow_add]
    split <;> omega

theorem testBit_byteMask {mask n j : Nat} : (byteMask mask n).testBit j = (decide (j < 8 * n) && bitN mask (j / 8)) := by
  induction n with
  | zero => simp [byteMask]
  | succ n ih =>
    rw [byteMask_succ, Nat.testBit_two_pow_mul_add _ byteMask_lt, ih]
    split
    · next h => simp [h, show j < 8 * (n + 1) by omega]
    · next h =>
      by_cases h8 : j < 8 * (n + 1)
      · have hq : j / 8 = n := by omega
        have h255 : (255 : Nat).testBit (j - 8 * n) = true := by
          rw [show (255 : Nat) = 2 ^ 8 - 1 by rfl, Nat.testBit_two_pow_sub_one]
          simp
          omega
        rw [hq]
        cases bitN mask n <;> simp [h8, h255]
      · have h255 : (255 : Nat).testBit (j - 8 * n) = false := by
          rw [show (255 : Nat) = 2 ^ 8 - 1 by rfl, Nat.testBit_two_pow_sub_one]
          simp
          omega
        cases bitN mask n <;> simp [h8, h255]

/-- A merge takes the enabled bytes from the new line, the others from the old one (R289). -/
theorem lineByte_mergeLine {old new : Line} {mask i : Nat} (hi : i < 128) :
    lineByte (mergeLine old new mask) i = if bitN mask i then lineByte new i else lineByte old i := by
  apply Nat.eq_of_testBit_eq
  intro j
  have hm : mergeLine old new mask = (old &&& ~~~(BitVec.ofNat 1024 (byteMask mask 128))) ||| (new &&& BitVec.ofNat 1024 (byteMask mask 128)) := rfl
  rw [testBit_lineByte, hm]
  by_cases hj : j < 8
  · have hlt : 8 * i + j < 1024 := by omega
    have hq : (8 * i + j) / 8 = i := by omega
    simp only [BitVec.getLsbD_or, BitVec.getLsbD_and, BitVec.getLsbD_not, BitVec.getLsbD_ofNat, testBit_byteMask, hq, hlt]
    cases bitN mask i <;> simp [testBit_lineByte, hj, hlt]
  · cases bitN mask i <;> simp [testBit_lineByte, hj]

/-! Lines of HBM. -/

section
open Sys2Proof.Claims

/-- Everything that says where a line lies and what it holds is the same. -/
structure SameLines (s t : State) : Prop where
  variant : t.variant = s.variant
  regs : t.regs = s.regs
  data : t.hbm.data = s.hbm.data
  info : t.hbm.info = s.hbm.info
  epoch : t.hbm.epoch = s.hbm.epoch
  ret : t.hbm.ret = s.hbm.ret
  retiring : t.hbm.retiring = s.hbm.retiring
  fill : ∀ k, (t.stk k).fill = (s.stk k).fill

namespace SameLines

theorem of_frame {ps : List Piece} (h : Frame ps s t) (hv : ps.contains .variant = false) (hr : ps.contains .regs = false)
    (hh : ps.contains .hbm = false) : SameLines s t := by
  have hhbm : t.hbm = s.hbm := h .hbm hh
  exact ⟨h .variant hv, h .regs hr, by rw [hhbm], by rw [hhbm], by rw [hhbm], by rw [hhbm], by rw [hhbm], fun k => by rw [State.stk_of_hbm hhbm]⟩

theorem trans {u : State} (h : SameLines s t) (k : SameLines t u) : SameLines s u :=
  ⟨k.variant.trans h.variant, k.regs.trans h.regs, k.data.trans h.data, k.info.trans h.info, k.epoch.trans h.epoch, k.ret.trans h.ret,
    k.retiring.trans h.retiring, fun j => (k.fill j).trans (h.fill j)⟩

theorem cap (h : SameLines s t) : t.cap = s.cap := by
  unfold State.cap
  rw [h.variant]

theorem pools (h : SameLines s t) : t.pools = s.pools := by
  unfold State.pools State.kvPool State.regN State.reg
  simp only [State.rawReg_of_regs h.regs]

theorem phys (h : SameLines s t) (a : Nat) : t.phys a = s.phys a := by
  unfold State.phys
  rw [h.cap, h.pools, h.ret]

theorem shadow (h : SameLines s t) (a : Nat) : t.shadow a = s.shadow a := by
  unfold State.shadow
  rw [h.cap, h.pools, h.ret, h.retiring, h.phys]

theorem hbmEnd (h : SameLines s t) : t.hbmEnd = s.hbmEnd := by
  unfold State.hbmEnd
  rw [h.cap, h.ret, h.retiring]

theorem lineTag (h : SameLines s t) (a p : Nat) : t.lineTag a p = s.lineTag a p := by
  unfold State.lineTag
  rw [h.info, h.epoch, h.fill, h.cap]

theorem physData (h : SameLines s t) (p : Nat) : t.physData p = s.physData p := by
  unfold State.physData
  rw [h.data]

theorem holdsLine (h : SameLines s t) {a p : Nat} {poison : Bool} {l : Line} (hl : HoldsLine s a p poison l) : HoldsLine t a p poison l :=
  ⟨(h.lineTag a p).trans hl.1, (h.physData p).trans hl.2⟩

end SameLines

theorem State.stk_stkTouch_fill {k j : Nat} : ((s.stkTouch k).stk j).fill = (s.stk j).fill := by
  unfold State.stkTouch
  by_cases h : j = k
  · rw [h, State.stk_setStk]
  · rw [State.stk_setStk_ne _ _ h]

/-- The count of a line's bytes changes no line and no check bits. -/
theorem State.hbmBytes_sameLines {q : Nat} {wr : Bool} : SameLines s (s.hbmBytes q wr) where
  variant := State.hbmBytes_frame .variant rfl
  regs := State.hbmBytes_frame .regs rfl
  data := rfl
  info := rfl
  epoch := rfl
  ret := rfl
  retiring := rfl
  fill _ := (State.stk_of_hbm (s := s.stkTouch (physChan q / 32)) rfl _ ▸ State.stk_stkTouch_fill)

theorem State.putPhys_holds {a p : Nat} {poison : Bool} {l : Line} :
    HoldsLine (s.putPhys a p l poison) a p poison (if poison then 0 else l) := by
  refine ⟨?_, Memory.readLine_writeLine⟩
  unfold State.lineTag State.putPhys
  dsimp only
  rw [SMap.get_put_same]
  simp

theorem holdsLine_putPhys_ne {a b p q : Nat} {poison psn : Bool} {l m : Line} (h : HoldsLine s a p poison l) (hne : p ≠ q) :
    HoldsLine (s.putPhys b q m psn) a p poison l := by
  refine ⟨?_, ?_⟩
  · rw [← h.1]
    unfold State.lineTag State.putPhys
    dsimp only
    rw [SMap.get_put_ne hne]
    rfl
  · rw [← h.2]
    show Memory.readLine (Memory.writeLine s.hbm.data (q * 128) _) (p * 128) = Memory.readLine s.hbm.data (p * 128)
    unfold Memory.readLine Memory.writeLine
    rw [Memory.readN_writeN_other (by omega)]

theorem State.putPhys_only {a p : Nat} {poison : Bool} {l : Line} {b : Nat} (h : b / 128 ≠ p) :
    Memory.read (s.putPhys a p l poison).hbm.data b = Memory.read s.hbm.data b :=
  Memory.read_writeN_other (by omega)

/-- A whole line is written at its place, and at its shadow's, and nowhere else. -/
theorem State.hbmWrite_stores {a : Nat} {poison : Bool} {l : Line} :
    HoldsLine (s.hbmWrite a l poison) a (s.phys a) poison (if poison then 0 else l) ∧
      OnlyPhys (s.phys a) (s.shadow a) s (s.hbmWrite a l poison) := by
  have hfirst : HoldsLine ((s.hbmBytes (s.phys a) true).putPhys a (s.phys a) l poison) a (s.phys a) poison (if poison then 0 else l) :=
    State.putPhys_holds
  have honly : ∀ b, b / 128 ≠ s.phys a →
      Memory.read ((s.hbmBytes (s.phys a) true).putPhys a (s.phys a) l poison).hbm.data b = Memory.read s.hbm.data b :=
    fun b hb => State.putPhys_only hb
  unfold State.hbmWrite
  dsimp only
  generalize (s.hbmBytes (s.phys a) true).putPhys a (s.phys a) l poison = u at *
  split
  · exact ⟨hfirst, fun b hb _ => honly b hb⟩
  · next hne =>
    exact ⟨holdsLine_putPhys_ne (State.hbmBytes_sameLines.holdsLine hfirst) (Ne.symm hne),
      fun b hb hb' => (State.putPhys_only hb').trans (honly b hb)⟩

/-- The 64-bit counters of the CT page are not those of a stack or a channel. -/
theorem State.ctCount_hbmBytes {p off : Nat} {wr : Bool} (ho : off < 4096) :
    SMap.get 0 (s.hbmBytes p wr).cnt64 (regOff .ct 0 off) = SMap.get 0 s.cnt64 (regOff .ct 0 off) := by
  have hct : regOff .ct 0 off = 6 * 4096 + off := rfl
  have hhc : ∀ k o, regOff .hc k o = (0x10 + k) * 4096 + o := fun _ _ => rfl
  unfold State.hbmBytes
  dsimp only
  rw [SMap.get_put_ne (by omega)]
  exact SMap.get_put_ne (by rw [hct, hhc]; omega)

theorem State.ctCount_hbmWrite {a off : Nat} {l : Line} {poison : Bool} (ho : off < 4096) :
    SMap.get 0 (s.hbmWrite a l poison).cnt64 (regOff .ct 0 off) = SMap.get 0 s.cnt64 (regOff .ct 0 off) := by
  have hput : ∀ (v : State) (b q : Nat), (v.putPhys b q l poison).cnt64 = v.cnt64 := fun _ _ _ => rfl
  unfold State.hbmWrite
  dsimp only
  split
  · rw [hput, State.ctCount_hbmBytes ho]
  · rw [hput, State.ctCount_hbmBytes ho, hput, State.ctCount_hbmBytes ho]

/-- A clean read of a good line gives its data (R288). -/
theorem State.hbmRead_good {q : Req} {a : Nat} {l : Line} (h : HoldsLine s a (s.phys a) false l) :
    s.hbmRead q a .clean = ((l, false), s.hbmBytes (s.phys a) false) := by
  have hn : s.lineReads a (s.phys a) .clean = 1 := by
    unfold State.lineReads
    rw [h.1]
    rfl
  obtain ⟨htag, hdata⟩ := (State.hbmBytes_sameLines (q := s.phys a) (wr := false)).holdsLine h
  unfold State.hbmRead State.physRead State.decodeLine
  rw [hn]
  dsimp only
  have hone : (List.range 1).foldl (fun v _ => v.hbmBytes (s.phys a) false) s = s.hbmBytes (s.phys a) false := rfl
  rw [hone, htag, hdata]
  rfl

/-- A read of a poisoned line gives poison, and counts nothing (R287). -/
theorem State.hbmRead_poisoned {q : Req} {a : Nat} (h : s.lineTag a (s.phys a) = some true) :
    s.hbmRead q a .clean = ((0, true), s.hbmBytes (s.phys a) false) := by
  have hn : s.lineReads a (s.phys a) .clean = 1 := by
    unfold State.lineReads
    rw [h]
    rfl
  unfold State.hbmRead State.physRead State.decodeLine
  rw [hn]
  dsimp only
  have hone : (List.range 1).foldl (fun v _ => v.hbmBytes (s.phys a) false) s = s.hbmBytes (s.phys a) false := rfl
  rw [hone, State.hbmBytes_sameLines.lineTag, h]
  rfl

/-- A partial write of a good line merges (R289). -/
theorem State.hbmPartial_good {q : Req} {a mask : Nat} {l new : Line} (h : HoldsLine s a (s.phys a) false l) :
    s.hbmPartial q a mask new false .clean = (s.hbmBytes (s.phys a) false).hbmWrite a (mergeLine l new mask) false := by
  unfold State.hbmPartial
  rw [State.hbmRead_good h]
  rfl

end

end Sys2Proof.Machine

namespace Sys2Proof.Claims
open Sys2Proof.Machine

variable {s t : State}

/-- The write meets HBM: it is within the BAR, behind no held write, with the T bit where the TDI runs. -/
theorem bar4Write_open {x : Nat} {tb psn : Bool} {mask : W128} {data : Line} {e : Ecc} (hx : x < 2 ^ s.bar4) (hh : s.fe.hostHeld = false)
    (ht : s.takesT tb = true) :
    exec (.bar4Write ⟨x, tb⟩ mask data psn e) s = .next (
      let a := s.bar4Addr x / 128 * 128
      if s.hbmEnd ≤ a then s.addrErr reqHost a true
      else
        let s := s.cnt .ct 0 0x100 (popN 128 mask.toNat)
        if s.hbmDown a then s
        else if !s.hbmReady a then { s with fe := { s.fe with hostHeld := true } }
        else if mask.toNat = fullMask then s.hbmWrite a data psn
        else s.hbmPartial reqHost a mask.toNat data psn e) := by
  show execBar4Write ⟨x, tb⟩ mask data psn e s = _
  unfold execBar4Write
  dsimp only
  rw [if_neg (by rw [hh, ht]; simp; omega)]

/-- A write that a stack takes. -/
theorem bar4Write_serves {x : Nat} {tb psn : Bool} {mask : W128} {data : Line} {e : Ecc} (hx : x < 2 ^ s.bar4) (hh : s.fe.hostHeld = false)
    (ht : s.takesT tb = true) (hs : HbmServes s (s.bar4Addr x / 128 * 128)) :
    exec (.bar4Write ⟨x, tb⟩ mask data psn e) s = .next (
      if mask.toNat = fullMask then (s.cnt .ct 0 0x100 (popN 128 mask.toNat)).hbmWrite (s.bar4Addr x / 128 * 128) data psn
      else (s.cnt .ct 0 0x100 (popN 128 mask.toNat)).hbmPartial reqHost (s.bar4Addr x / 128 * 128) mask.toNat data psn e) := by
  obtain ⟨hend, hdown, hready⟩ := hs
  rw [bar4Write_open hx hh ht]
  dsimp only
  generalize popN 128 mask.toNat = n
  have hd : (s.cnt .ct 0 0x100 n).hbmDown (s.bar4Addr x / 128 * 128) = false := hdown
  have hr : (s.cnt .ct 0 0x100 n).hbmReady (s.bar4Addr x / 128 * 128) = true := hready
  rw [if_neg (by omega), hd, hr]
  simp

theorem toNat_allOnes : (BitVec.allOnes 128).toNat = fullMask := by
  rw [fullMask, BitVec.toNat_allOnes]

theorem popN_ones {n : Nat} : popN n (2 ^ n - 1) = n := by
  induction n with
  | zero => rfl
  | succ n ih =>
    have hpos : 0 < 2 ^ n := Nat.two_pow_pos n
    rw [popN, show (2 ^ (n + 1) - 1) % 2 = 1 by omega, show (2 ^ (n + 1) - 1) / 2 = 2 ^ n - 1 by omega, ih]
    omega

theorem popN_fullMask : popN 128 fullMask = 128 := popN_ones

/-- A line written after the host's bytes are counted: what `hbmWrite` leaves, seen from before the count. -/
theorem hbmWrite_after {u : State} {a n : Nat} {l : Line} {psn : Bool} (hlines : SameLines s u) (hcounted : Counted s u .ct 0 0x100 n)
    (hframe : Frame [.hbm, .cnt64] s u) :
    HoldsLine (u.hbmWrite a l psn) a (s.phys a) psn (if psn then 0 else l) ∧ OnlyPhys (s.phys a) (s.shadow a) s (u.hbmWrite a l psn) ∧
      Counted s (u.hbmWrite a l psn) .ct 0 0x100 n ∧ Frame [.hbm, .cnt64] s (u.hbmWrite a l psn) := by
  obtain ⟨hholds, honly⟩ := State.hbmWrite_stores (s := u) (a := a) (l := l) (poison := psn)
  rw [hlines.phys] at hholds honly
  rw [hlines.shadow] at honly
  refine ⟨hholds, fun b h1 h2 => by rw [honly b h1 h2, hlines.data], ?_, Frame.step State.hbmWrite_frame rfl hframe⟩
  unfold Counted
  rw [State.ctCount_hbmWrite (by decide)]
  exact hcounted

theorem bar4Write_whole {x : Nat} {tb psn : Bool} {data : Line} (hx : x < 2 ^ s.bar4) (hh : s.fe.hostHeld = false)
    (ht : s.takesT tb = true) (hs : HbmServes s (s.bar4Addr x / 128 * 128)) :
    let a := s.bar4Addr x / 128 * 128
    ∃ t, exec (.bar4Write ⟨x, tb⟩ (BitVec.allOnes 128) data psn .clean) s = .next t ∧
      HoldsLine t a (s.phys a) psn (if psn then 0 else data) ∧ OnlyPhys (s.phys a) (s.shadow a) s t ∧ Counted s t .ct 0 0x100 128 ∧
      Frame [.hbm, .cnt64] s t := by
  rw [bar4Write_serves hx hh ht hs, toNat_allOnes, if_pos rfl, popN_fullMask]
  exact ⟨_, rfl, hbmWrite_after (.of_frame State.cnt_frame rfl rfl rfl) counted_cnt (State.cnt_frame.mono rfl)⟩

theorem bar4Write_part {x : Nat} {tb : Bool} {mask : W128} {data l : Line} (hx : x < 2 ^ s.bar4) (hh : s.fe.hostHeld = false)
    (ht : s.takesT tb = true) (hs : HbmServes s (s.bar4Addr x / 128 * 128))
    (hl : HoldsLine s (s.bar4Addr x / 128 * 128) (s.phys (s.bar4Addr x / 128 * 128)) false l) (hm : mask ≠ BitVec.allOnes 128) :
    let a := s.bar4Addr x / 128 * 128
    ∃ t m, exec (.bar4Write ⟨x, tb⟩ mask data false .clean) s = .next t ∧ HoldsLine t a (s.phys a) false m ∧
      (∀ i, i < 128 → lineByte m i = if bitN mask.toNat i then lineByte data i else lineByte l i) ∧
      OnlyPhys (s.phys a) (s.shadow a) s t ∧ Counted s t .ct 0 0x100 (popN 128 mask.toNat) ∧ Frame [.hbm, .cnt64] s t := by
  have hmask : mask.toNat ≠ fullMask := fun h => hm (BitVec.eq_of_toNat_eq (h.trans toNat_allOnes.symm))
  rw [bar4Write_serves hx hh ht hs, if_neg hmask]
  generalize popN 128 mask.toNat = n
  have hcnt : Frame [.cnt64] s (s.cnt .ct 0 0x100 n) := State.cnt_frame
  have hcounted : Counted s (s.cnt .ct 0 0x100 n) .ct 0 0x100 n := counted_cnt
  have hlines : SameLines s (s.cnt .ct 0 0x100 n) := .of_frame hcnt rfl rfl rfl
  generalize s.cnt .ct 0 0x100 n = u at *
  generalize s.bar4Addr x / 128 * 128 = a at *
  rw [State.hbmPartial_good (by rw [hlines.phys]; exact hlines.holdsLine hl)]
  have hread : Frame [.cnt64, .hbm] u (u.hbmBytes (u.phys a) false) := State.hbmBytes_frame
  have hcounted' : Counted s (u.hbmBytes (u.phys a) false) .ct 0 0x100 n := by
    unfold Counted
    rw [State.ctCount_hbmBytes (by decide)]
    exact hcounted
  obtain ⟨hholds, hrest⟩ := hbmWrite_after (a := a) (l := mergeLine l data mask.toNat) (psn := false)
    (hlines.trans State.hbmBytes_sameLines) hcounted' (Frame.step hread rfl (hcnt.mono rfl))
  exact ⟨_, _, rfl, hholds, fun i hi => lineByte_mergeLine hi, hrest⟩

end Sys2Proof.Claims
end

section
/-! SUPPORT. BAR4 where no stack takes the line, its reads, and requests without the T bit (R13, R239, R244, R298, R395, R473). -/

namespace Sys2Proof.Machine

variable {s : State}

theorem addrErr_counts {q : Req} {a : Nat} {w : Bool} (h : (s.reg q.blk q.n Off.errCnt).toNat < 0xFFFFFFFF) :
    (s.addrErr q a w).reg q.blk q.n Off.errCnt = s.reg q.blk q.n Off.errCnt + 1 := logErr_counts h

theorem cdiv_eq_one {n m : Nat} (h0 : 1 ≤ n) (hm : n ≤ m) : cdiv n m = 1 := by
  unfold cdiv
  exact Nat.div_eq_of_lt_le (by omega) (by omega)

theorem packN_one (l : Line) : packN 1024 [l.toNat] = l.toNat := by
  unfold packN packN
  rw [Nat.mul_zero, Nat.add_zero, Nat.mod_eq_of_lt l.isLt]

end Sys2Proof.Machine

namespace Sys2Proof.Claims
open Sys2Proof.Machine

variable {s : State} {x : Nat} {tb : Bool}

theorem bar4Write_down {mask : W128} {data : Line} {psn : Bool} {e : Ecc} (hx : x < 2 ^ s.bar4) (hh : s.fe.hostHeld = false)
    (ht : s.takesT tb = true) (hend : s.bar4Addr x / 128 * 128 < s.hbmEnd) (hdown : s.hbmDown (s.bar4Addr x / 128 * 128) = true) :
    ∃ t, exec (.bar4Write ⟨x, tb⟩ mask data psn e) s = .next t ∧ Counted s t .ct 0 0x100 (popN 128 mask.toNat) ∧ Frame [.cnt64] s t := by
  rw [bar4Write_open hx hh ht]
  dsimp only
  generalize popN 128 mask.toNat = n
  have hd : (s.cnt .ct 0 0x100 n).hbmDown (s.bar4Addr x / 128 * 128) = true := hdown
  rw [if_neg (by omega), if_pos hd]
  exact ⟨_, rfl, counted_cnt, State.cnt_frame⟩

theorem bar4Write_held {mask : W128} {data : Line} {psn : Bool} {e : Ecc} (hx : x < 2 ^ s.bar4) (hh : s.fe.hostHeld = false)
    (ht : s.takesT tb = true) (hend : s.bar4Addr x / 128 * 128 < s.hbmEnd) (hdown : s.hbmDown (s.bar4Addr x / 128 * 128) = false)
    (hready : s.hbmReady (s.bar4Addr x / 128 * 128) = false) :
    ∃ t, exec (.bar4Write ⟨x, tb⟩ mask data psn e) s = .next t ∧ t.fe = { s.fe with hostHeld := true } ∧
      Counted s t .ct 0 0x100 (popN 128 mask.toNat) ∧ Frame [.fe, .cnt64] s t := by
  rw [bar4Write_open hx hh ht]
  dsimp only
  generalize popN 128 mask.toNat = n
  have hd : (s.cnt .ct 0 0x100 n).hbmDown (s.bar4Addr x / 128 * 128) = false := hdown
  have hr : (s.cnt .ct 0 0x100 n).hbmReady (s.bar4Addr x / 128 * 128) = false := hready
  have hcounted : Counted s (s.cnt .ct 0 0x100 n) .ct 0 0x100 n := counted_cnt
  have hfe : (s.cnt .ct 0 0x100 n).fe = s.fe := rfl
  have hframe : Frame [.cnt64] s (s.cnt .ct 0 0x100 n) := State.cnt_frame
  rw [if_neg (by omega), hd, hr]
  simp only [Bool.false_eq_true, if_false, Bool.not_false, if_true]
  generalize s.cnt .ct 0 0x100 n = u at *
  exact ⟨_, rfl, by rw [hfe], hcounted, Frame.set_fe rfl (hframe.mono rfl)⟩

theorem bar4Write_beyond {mask : W128} {data : Line} {psn : Bool} {e : Ecc} (hx : x < 2 ^ s.bar4) (hh : s.fe.hostHeld = false)
    (ht : s.takesT tb = true) (hend : s.hbmEnd ≤ s.bar4Addr x / 128 * 128) (hcnt : (s.reg .ct 0 Off.errCnt).toNat < 0xFFFFFFFF) :
    ∃ t, exec (.bar4Write ⟨x, tb⟩ mask data psn e) s = .next t ∧ t.reg .ct 0 Off.errCnt = s.reg .ct 0 Off.errCnt + 1 ∧
      Frame [.regs, .logPtr] s t := by
  rw [bar4Write_open hx hh ht]
  dsimp only
  rw [if_pos hend]
  exact ⟨_, rfl, addrErr_counts (q := reqHost) hcnt, State.addrErr_frame⟩

/-! Reads. -/

/-- A read of one line or a part of it, from a stack that takes requests. -/
theorem bar4Read_serves {len : Nat} (hh : s.fe.hostHeld = false) (ht : s.takesT tb = true) (hlen : 1 ≤ len)
    (hline : s.bar4Addr x % 128 + len ≤ 128) (hx : x + len ≤ 2 ^ s.bar4) (hs : HbmServes s (s.bar4Addr x / 128 * 128)) {l : Line} {psn : Bool}
    {u : State} (hread : s.hbmRead reqHost (s.bar4Addr x / 128 * 128) .clean = ((l, psn), u)) :
    exec (.bar4Read ⟨x, tb⟩ len .clean) s = .next { u.cnt .ct 0 0x108 len with
      hostOut := (u.cnt .ct 0 0x108 len).hostOut ++
        [.completion (l.toNat / 2 ^ (8 * (s.bar4Addr x % 128)) % 2 ^ (8 * len)) len psn .sc] } := by
  obtain ⟨hend, hdown, hready⟩ := hs
  show execBar4Read ⟨x, tb⟩ len .clean s = _
  have hlines : s.bar4Lines .clean 1 (s.bar4Addr x / 128 * 128) = some ([l], psn, u) := by
    rw [State.bar4Lines, if_neg (by omega), if_pos (by rw [hready, hdown]; rfl), hread]
    simp [State.bar4Lines]
  unfold execBar4Read
  dsimp only
  rw [if_neg (by rw [hh]; simp; omega), ht, cdiv_eq_one (by omega) hline]
  simp only [Bool.not_true, Bool.false_eq_true, if_false]
  rw [hlines]
  simp only [List.map_cons, List.map_nil]
  rw [packN_one]

theorem bar4Read_good {len : Nat} {l : Line} (hh : s.fe.hostHeld = false) (ht : s.takesT tb = true) (hlen : 1 ≤ len)
    (hline : s.bar4Addr x % 128 + len ≤ 128) (hx : x + len ≤ 2 ^ s.bar4) (hs : HbmServes s (s.bar4Addr x / 128 * 128))
    (hl : HoldsLine s (s.bar4Addr x / 128 * 128) (s.phys (s.bar4Addr x / 128 * 128)) false l) :
    ∃ t, exec (.bar4Read ⟨x, tb⟩ len .clean) s = .next t ∧
      t.hostOut = s.hostOut ++ [.completion (l.toNat / 2 ^ (8 * (s.bar4Addr x % 128)) % 2 ^ (8 * len)) len false .sc] ∧
      Counted s t .ct 0 0x108 len ∧ t.hbm.data = s.hbm.data ∧ t.hbm.info = s.hbm.info ∧ Frame [.hbm, .cnt64, .hostOut] s t := by
  rw [bar4Read_serves hh ht hlen hline hx hs (State.hbmRead_good hl)]
  generalize s.phys (s.bar4Addr x / 128 * 128) = p
  have hread : Frame [.cnt64, .hbm] s (s.hbmBytes p false) := State.hbmBytes_frame
  have hlines : SameLines s (s.hbmBytes p false) := State.hbmBytes_sameLines
  have hct : SMap.get 0 (s.hbmBytes p false).cnt64 (regOff .ct 0 0x108) = SMap.get 0 s.cnt64 (regOff .ct 0 0x108) :=
    State.ctCount_hbmBytes (by decide)
  generalize s.hbmBytes p false = u at *
  have hcounted : Counted u (u.cnt .ct 0 0x108 len) .ct 0 0x108 len := counted_cnt
  have hframe : Frame [.cnt64] u (u.cnt .ct 0 0x108 len) := State.cnt_frame
  have hhbm : (u.cnt .ct 0 0x108 len).hbm = u.hbm := hframe .hbm rfl
  have hout : (u.cnt .ct 0 0x108 len).hostOut = s.hostOut := (hframe .hostOut rfl).trans (hread .hostOut rfl)
  generalize u.cnt .ct 0 0x108 len = v at *
  refine ⟨_, rfl, by rw [hout], ?_, by rw [hhbm, hlines.data], by rw [hhbm, hlines.info],
    Frame.set_hostOut rfl (Frame.step hframe rfl (hread.mono rfl))⟩
  unfold Counted at *
  rw [hcounted, hct]

theorem bar4Read_poisoned {len : Nat} (hh : s.fe.hostHeld = false) (ht : s.takesT tb = true) (hlen : 1 ≤ len)
    (hline : s.bar4Addr x % 128 + len ≤ 128) (hx : x + len ≤ 2 ^ s.bar4) (hs : HbmServes s (s.bar4Addr x / 128 * 128))
    (htag : s.lineTag (s.bar4Addr x / 128 * 128) (s.phys (s.bar4Addr x / 128 * 128)) = some true) :
    ∃ t, exec (.bar4Read ⟨x, tb⟩ len .clean) s = .next t ∧ t.hostOut = s.hostOut ++ [.completion 0 len true .sc] ∧
      t.hbm.data = s.hbm.data ∧ t.hbm.info = s.hbm.info := by
  rw [bar4Read_serves hh ht hlen hline hx hs (State.hbmRead_poisoned htag)]
  generalize s.phys (s.bar4Addr x / 128 * 128) = p
  have hread : Frame [.cnt64, .hbm] s (s.hbmBytes p false) := State.hbmBytes_frame
  have hlines : SameLines s (s.hbmBytes p false) := State.hbmBytes_sameLines
  generalize s.hbmBytes p false = u at *
  have hframe : Frame [.cnt64] u (u.cnt .ct 0 0x108 len) := State.cnt_frame
  have hhbm : (u.cnt .ct 0 0x108 len).hbm = u.hbm := hframe .hbm rfl
  have hout : (u.cnt .ct 0 0x108 len).hostOut = s.hostOut := (hframe .hostOut rfl).trans (hread .hostOut rfl)
  generalize u.cnt .ct 0 0x108 len = v at *
  refine ⟨_, rfl, ?_, by rw [hhbm, hlines.data], by rw [hhbm, hlines.info]⟩
  have hzero : (0 : Line).toNat = 0 := BitVec.toNat_zero
  rw [hout, hzero, Nat.zero_div, Nat.zero_mod]

/-! Requests without the T bit, of a TDI that runs (R395). -/

theorem bar4Read_untrusted {len : Nat} {e : Ecc} (ht : s.takesT false = false) (hh : s.fe.hostHeld = false) (hlen : 1 ≤ len) (hmax : len ≤ 4096)
    (hx : x + len ≤ 2 ^ s.bar4) :
    ∃ t, exec (.bar4Read ⟨x, false⟩ len e) s = .next t ∧ t.hostOut = s.hostOut ++ [.completion 0 len false .ur] ∧ Frame [.hostOut] s t := by
  show ∃ t, execBar4Read ⟨x, false⟩ len e s = .next t ∧ _
  unfold execBar4Read
  dsimp only
  rw [if_neg (by rw [hh]; simp; omega), ht]
  simp only [Bool.not_false, if_true]
  exact ⟨_, rfl, rfl, Frame.set_hostOut rfl .refl⟩

theorem bar4Write_untrusted {mask : W128} {data : Line} {psn : Bool} {e : Ecc} (ht : s.takesT false = false) :
    exec (.bar4Write ⟨x, false⟩ mask data psn e) s = .next s := by
  show execBar4Write ⟨x, false⟩ mask data psn e s = _
  unfold execBar4Write
  dsimp only
  rw [if_pos (by rw [ht]; simp)]

end Sys2Proof.Claims
end

section
/-! SUPPORT. PERST_N, FLR, configuration requests, the management address and the test port (R385, R395, R444, R449, R450, R453, R457, R458). -/

namespace Sys2Proof.Claims
open Sys2Proof.Machine

variable {s : State}

/-! PERST_N and FLR (R385, R449, R450). -/

/-- PERST_N is low: the host's enables are off. -/
def perstLow (s : State) : State := { s with boot := { s.boot with perst := true }, bme := false, mse := false }

/-- The host's enables are off. -/
def enablesOff (s : State) : State := { s with bme := false, mse := false }

theorem perstLow_frame : Frame [.boot, .bme, .mse] s (perstLow s) := fun p hp => by
  cases p with
  | boot | bme | mse => exact absurd hp (by decide)
  | _ => rfl

theorem enablesOff_frame : Frame [.bme, .mse] s (enablesOff s) := fun p hp => by
  cases p with
  | bme | mse => exact absurd hp (by decide)
  | _ => rfl

theorem devStart_frame_host {counted : Bool} :
    (s.devStart counted).boot = s.boot ∧ (s.devStart counted).bme = s.bme ∧ (s.devStart counted).mse = s.mse :=
  ⟨State.devStart_frame .boot rfl, State.devStart_frame .bme rfl, State.devStart_frame .mse rfl⟩

theorem perstNFall_runs (h : s.flt.devRst = 0 ∧ s.boot.aonLow = false) (h3 : 3 ≤ s.boot.state) (h7 : s.boot.state ≤ 7) :
    ∃ t, exec .perstNFall s = .next t ∧ t.boot.perst = true ∧ t.bme = false ∧ t.mse = false ∧ DevStarts s t false ∧
      (NoLaunch s → Frame [.boot, .bme, .mse, .flt] s t) ∧ (Tidy s → ∀ k, Running s k → Ended s t k) := by
  have hstep : exec .perstNFall s = .next ((perstLow s).devStart false) := by
    show execPerstNFall s = _
    unfold execPerstNFall
    dsimp only
    rw [if_pos (by rw [decide_eq_true h3, decide_eq_true h7, h.2]; rfl)]
    rfl
  have hreset : ResetStarts (perstLow s) ((perstLow s).devStart false) false := devStart_starts h
  obtain ⟨hboot, hbme, hmse⟩ := devStart_frame_host (s := perstLow s) (counted := false)
  refine ⟨_, hstep, by rw [hboot]; rfl, by rw [hbme]; rfl, by rw [hmse]; rfl, hreset.starts, fun hn => ?_, hreset.ends⟩
  exact Frame.step (hreset.idle hn) rfl (perstLow_frame.mono rfl)

theorem perstNFall_still (h : s.boot.state < 3 ∨ 7 < s.boot.state ∨ s.boot.aonLow = true) :
    ∃ t, exec .perstNFall s = .next t ∧ t.boot = { s.boot with perst := true } ∧ t.bme = false ∧ t.mse = false ∧
      Frame [.boot, .bme, .mse] s t := by
  have hstep : exec .perstNFall s = .next (perstLow s) := by
    show execPerstNFall s = _
    unfold execPerstNFall
    dsimp only
    rw [if_neg]
    · rfl
    · simp
      intro h3 h7
      obtain h | h | h := h
      · omega
      · omega
      · exact h
  exact ⟨_, hstep, rfl, rfl, rfl, perstLow_frame⟩

theorem flr_resets (h : s.flt.devRst = 0 ∧ s.boot.aonLow = false) (htdi : s.sec.tdi = 0) :
    ∃ t, exec .flr s = .next t ∧ t.bme = false ∧ t.mse = false ∧ DevStarts s t false ∧
      (NoLaunch s → Frame [.bme, .mse, .flt] s t) ∧ (Tidy s → ∀ k, Running s k → Ended s t k) := by
  have hstep : exec .flr s = .next ((enablesOff s).devStart false) := by
    show execFlr s = _
    unfold execFlr
    dsimp only
    rw [if_neg (by omega)]
    rfl
  have hreset : ResetStarts (enablesOff s) ((enablesOff s).devStart false) false := devStart_starts h
  obtain ⟨-, hbme, hmse⟩ := devStart_frame_host (s := enablesOff s) (counted := false)
  refine ⟨_, hstep, by rw [hbme]; rfl, by rw [hmse]; rfl, hreset.starts, fun hn => ?_, hreset.ends⟩
  exact Frame.step (hreset.idle hn) rfl (enablesOff_frame.mono rfl)

theorem flr_changes (htdi : s.sec.tdi ≠ 0) (hc : s.sec.change = 0) :
    ∃ t, exec .flr s = .next t ∧ t.bme = false ∧ t.mse = false ∧ ChangeStarts s t false ∧ NoRings t ∧ WorkEnds s t := by
  have hstep : exec .flr s = .next ((enablesOff s).changeStart false) := by
    show execFlr s = _
    unfold execFlr
    dsimp only
    rw [if_pos htdi]
    rfl
  obtain ⟨hstarts, hrings, hends⟩ := changeStart_effect (s := enablesOff s) (stop := false) hc
  refine ⟨_, hstep, ?_, ?_, hstarts, hrings, hends⟩
  · exact (State.changeStart_frame .bme rfl : _ = (enablesOff s).bme)
  · exact (State.changeStart_frame .mse rfl : _ = (enablesOff s).mse)

/-! Configuration requests (R395, R444, R450). -/

/-- What a configuration request does once neither PERST_N nor the always-on reset holds the port. -/
theorem configRequest_retry {q : ConfigReq} (hp : s.boot.perst = false) (ha : s.boot.aonLow = false) (h : s.boot.state < 3 ∨ s.flt.devRst ≠ 0) :
    ∃ t, exec (.configRequest q) s = .next t ∧ t.hostOut = s.hostOut ++ [.completion 0 4 false .rrs] ∧ Frame [.hostOut] s t := by
  show ∃ t, execConfigRequest q s = .next t ∧ _
  unfold execConfigRequest
  dsimp only
  rw [hp, ha, if_pos h]
  exact ⟨_, rfl, rfl, Frame.set_hostOut rfl .refl⟩

section
variable (hp : s.boot.perst = false) (ha : s.boot.aonLow = false) (h3 : 3 ≤ s.boot.state) (hr : s.flt.devRst = 0)
include hp ha h3 hr

theorem configRequest_read :
    ∃ t d, exec (.configRequest .read) s = .next t ∧ t.hostOut = s.hostOut ++ [.completion d 4 false .sc] ∧ Frame [.hostOut, .freeCtr] s t := by
  show ∃ t d, execConfigRequest .read s = .next t ∧ _
  unfold execConfigRequest
  dsimp only
  rw [hp, ha, if_neg (show ¬ (s.boot.state < 3 ∨ s.flt.devRst ≠ 0) by omega)]
  exact ⟨_, _, rfl, rfl, Frame.set_hostOut rfl (State.fresh_frame.mono rfl)⟩

theorem configRequest_command {b m : Bool} :
    exec (.configRequest (.command b m)) s = .next (
      if (s.sec.tdi == 1 || s.sec.tdi == 2) && (b != s.bme || m != s.mse) then s.tdiFail
      else { s with bme := b, mse := m, hostOut := s.hostOut ++ [.completion 0 0 false .sc] }) := by
  show execConfigRequest (.command b m) s = _
  unfold execConfigRequest
  dsimp only
  rw [hp, ha, if_neg (show ¬ (s.boot.state < 3 ∨ s.flt.devRst ≠ 0) by omega)]
  rfl

theorem configRequest_bar4Size {n : Nat} (h30 : 30 ≤ n) (h39 : n ≤ 39) :
    exec (.configRequest (.bar4Size n)) s = .next (
      if (s.sec.tdi == 1 || s.sec.tdi == 2) && n != s.bar4 then s.tdiFail
      else { s with bar4 := n, hostOut := s.hostOut ++ [.completion 0 0 false .sc] }) := by
  show execConfigRequest (.bar4Size n) s = _
  unfold execConfigRequest
  dsimp only
  rw [hp, ha, if_neg (show ¬ (s.boot.state < 3 ∨ s.flt.devRst ≠ 0) by omega), if_neg (show ¬ (n < 30 ∨ 39 < n) by omega)]
  rfl

theorem configRequest_command_taken {b m : Bool} (h : ¬ (s.sec.tdi = 1 ∨ s.sec.tdi = 2) ∨ (b = s.bme ∧ m = s.mse)) :
    ∃ t, exec (.configRequest (.command b m)) s = .next t ∧ t.bme = b ∧ t.mse = m ∧
      t.hostOut = s.hostOut ++ [.completion 0 0 false .sc] ∧ Frame [.bme, .mse, .hostOut] s t := by
  rw [configRequest_command hp ha h3 hr, if_neg]
  · refine ⟨_, rfl, rfl, rfl, rfl, fun p hq => ?_⟩
    cases p with
    | bme | mse | hostOut => exact absurd hq (by decide)
    | _ => rfl
  · simp
    obtain h | ⟨rfl, rfl⟩ := h
    · exact fun hl => absurd hl h
    · simp

theorem configRequest_bar4Size_taken {n : Nat} (h30 : 30 ≤ n) (h39 : n ≤ 39) (h : ¬ (s.sec.tdi = 1 ∨ s.sec.tdi = 2) ∨ n = s.bar4) :
    ∃ t, exec (.configRequest (.bar4Size n)) s = .next t ∧ t.bar4 = n ∧
      t.hostOut = s.hostOut ++ [.completion 0 0 false .sc] ∧ Frame [.bar4, .hostOut] s t := by
  rw [configRequest_bar4Size hp ha h3 hr h30 h39, if_neg]
  · refine ⟨_, rfl, rfl, rfl, fun p hq => ?_⟩
    cases p with
    | bar4 | hostOut => exact absurd hq (by decide)
    | _ => rfl
  · simp
    obtain h | rfl := h
    · exact fun hl => absurd hl h
    · simp

/-- A change of what is locked fails the TDI (R395). -/
theorem configRequest_locked {q : ConfigReq} (hl : s.sec.tdi = 1 ∨ s.sec.tdi = 2)
    (hq : (∃ b m, q = .command b m ∧ (b ≠ s.bme ∨ m ≠ s.mse)) ∨ ∃ n, q = .bar4Size n ∧ 30 ≤ n ∧ n ≤ 39 ∧ n ≠ s.bar4) :
    ∃ t, exec (.configRequest q) s = .next t ∧ t.sec = { s.sec with tdi := 3 } ∧ t.bme = s.bme ∧ t.mse = s.mse ∧ t.bar4 = s.bar4 ∧
      NoRings t ∧ WorkEnds s t := by
  have hstep : exec (.configRequest q) s = .next s.tdiFail := by
    obtain ⟨b, m, rfl, h⟩ | ⟨n, rfl, h30, h39, h⟩ := hq
    · rw [configRequest_command hp ha h3 hr, if_pos]
      simp [hl, h]
    · rw [configRequest_bar4Size hp ha h3 hr h30 h39, if_pos]
      simp [hl, h]
  obtain ⟨hsec, hrings, hends⟩ := tdiFail_effect (s := s) (by omega)
  exact ⟨_, hstep, hsec, State.tdiFail_frame .bme rfl, State.tdiFail_frame .mse rfl, State.tdiFail_frame .bar4 rfl, hrings, hends⟩

end

/-! The management address and the test port (R453, R457, R458). -/

theorem entdaa_takes {addr : W7} (hup : s.umcUp = true) (hn : s.mgmt.addr = none) :
    ∃ t, exec (.entdaa addr) s = .next t ∧ t.mgmt = { s.mgmt with addr := some addr.toNat } ∧ Frame [.mgmt] s t := by
  show ∃ t, execEntdaa addr s = .next t ∧ _
  unfold execEntdaa
  rw [hup, hn]
  exact ⟨_, rfl, rfl, Frame.set_mgmt rfl .refl⟩

/-- The instruction that a load brings in force. -/
def loadedTap (s : State) (i : TapInstr) : TapInstr :=
  let live := (List.range 16).any (fun p => (s.part p).state == 1)
  if (TapInstr.boundary i && (s.boot.state == 7 || live)) || (i == .debug && s.sec.state == 1) then .bypass else i

/-- The test port holds `ir`, and the debug domain is on or off. -/
def tapSet (s : State) (ir : TapInstr) (tlr on : Bool) : State :=
  { s with mgmt := { s.mgmt with ir := ir, tlr := tlr }, pw := { s.pw with debugOn := on } }

theorem tapSet_frame {ir : TapInstr} {tlr on : Bool} : Frame [.mgmt, .pw] s (tapSet s ir tlr on) := fun p hp => by
  cases p with
  | mgmt | pw => exact absurd hp (by decide)
  | _ => rfl

theorem tapInstructionLoad_reset :
    ∃ t, exec (.tapInstructionLoad .testLogicReset) s = .next t ∧ Frame [.mgmt, .pw] s t ∧ t.mgmt.ir = .idcode ∧ t.mgmt.tlr = true ∧
      t.pw.debugOn = s.trOn :=
  ⟨tapSet s .idcode true s.trOn, rfl, tapSet_frame, rfl, rfl, rfl⟩

theorem tapInstructionLoad_other {i : TapInstr} (h : i ≠ .testLogicReset) :
    ∃ t, exec (.tapInstructionLoad i) s = .next t ∧ Frame [.mgmt, .pw] s t ∧ t.mgmt.ir = loadedTap s i ∧ t.mgmt.tlr = false ∧
      t.pw.debugOn = true := by
  show ∃ t, execTapInstructionLoad i s = .next t ∧ _
  unfold execTapInstructionLoad
  dsimp only
  rw [if_neg h]
  exact ⟨tapSet s (loadedTap s i) false true, rfl, tapSet_frame, rfl, rfl, rfl⟩

/-- A boundary instruction is taken with READY low and no partition LIVE (R458). -/
theorem loadedTap_boundary {i : TapInstr} (hb : TapInstr.boundary i = true) (hd : i ≠ .debug) :
    ((s.boot.state = 7 ∨ ∃ p, p < 16 ∧ (s.part p).state = 1) → loadedTap s i = .bypass) ∧
      (¬ (s.boot.state = 7 ∨ ∃ p, p < 16 ∧ (s.part p).state = 1) → loadedTap s i = i) := by
  unfold loadedTap
  dsimp only
  rw [hb]
  constructor
  · intro h
    rw [if_pos]
    simpa using .inl h
  · intro h
    rw [if_neg]
    simpa [hd] using h

theorem loadedTap_debug : loadedTap s .debug = if s.sec.state = 1 then .bypass else .debug := by
  simp [loadedTap, TapInstr.boundary]

/-- An instruction that neither takes the lands nor debugs is taken as it is. -/
theorem loadedTap_plain {i : TapInstr} (hb : TapInstr.boundary i = false) (hd : i ≠ .debug) : loadedTap s i = i := by
  simp [loadedTap, hb, hd]

theorem tapInstructionLoad_effect (i : TapInstr) :
    let shut := s.boot.state = 7 ∨ ∃ p, p < 16 ∧ (s.part p).state = 1
    ∃ t, exec (.tapInstructionLoad i) s = .next t ∧ Frame [.mgmt, .pw] s t ∧
      (i = .testLogicReset → t.mgmt.ir = .idcode ∧ t.mgmt.tlr = true ∧ t.pw.debugOn = s.trOn) ∧
      (i ≠ .testLogicReset → t.mgmt.tlr = false ∧ t.pw.debugOn = true) ∧
      ((i = .extest ∨ i = .extestPulse ∨ i = .extestTrain ∨ i = .highz ∨ i = .clamp) →
        (shut → t.mgmt.ir = .bypass) ∧ (¬ shut → t.mgmt.ir = i)) ∧
      (i = .debug → t.mgmt.ir = if s.sec.state = 1 then .bypass else .debug) ∧
      ((i = .bypass ∨ i = .idcode ∨ i = .samplePreload) → t.mgmt.ir = i) := by
  intro shut
  by_cases hi : i = .testLogicReset
  · subst hi
    obtain ⟨t, hstep, hframe, hir, htlr, hdebug⟩ := tapInstructionLoad_reset (s := s)
    exact ⟨t, hstep, hframe, fun _ => ⟨hir, htlr, hdebug⟩, fun h => absurd rfl h, by simp, by simp, by simp⟩
  · obtain ⟨t, hstep, hframe, hir, htlr, hdebug⟩ := tapInstructionLoad_other (s := s) hi
    refine ⟨t, hstep, hframe, fun h => absurd h hi, fun _ => ⟨htlr, hdebug⟩, fun hb => ?_, ?_, fun hb => ?_⟩
    · rw [hir]
      obtain rfl | rfl | rfl | rfl | rfl := hb <;> exact loadedTap_boundary rfl (by simp)
    · rintro rfl
      rw [hir, loadedTap_debug]
    · rw [hir]
      obtain rfl | rfl | rfl := hb <;> exact loadedTap_plain rfl (by simp)

end Sys2Proof.Claims
end

section
/-! SUPPORT. The host window: what lies there, and the reads that the front end, a sorrel unit or an engine makes of it (R230, R240, R468). -/

namespace Sys2Proof.Machine

variable {s t : State}

/-- The usable HBM ends below the host window (R294). -/
theorem State.hbmEnd_lt_window : s.hbmEnd < 0x20000000000 := by
  have hcap : s.cap ≤ 48 := by
    unfold State.cap capGiB
    split <;> omega
  unfold State.hbmEnd usableEnd
  generalize s.hbm.ret.length + _ = r
  have hle : 2 ^ 33 * s.cap * (256 - r) / 256 ≤ 2 ^ 33 * s.cap := by
    calc 2 ^ 33 * s.cap * (256 - r) / 256 ≤ 2 ^ 33 * s.cap * 256 / 256 := Nat.div_le_div_right (Nat.mul_le_mul_left _ (by omega))
      _ = 2 ^ 33 * s.cap := Nat.mul_div_cancel _ (by omega)
  omega

/-- An address of the host window is host memory while the device may master the bus. -/
theorem State.placeOf_window {a : Nat} (h : inWindow a = true) :
    s.placeOf a = if s.bme && s.sec.tdi != 3 then .host else .bad := by
  obtain ⟨hlo, hhi⟩ : 0x20000000000 ≤ a ∧ a < 0x40000000000 := by simpa [inWindow] using h
  have hend : s.hbmEnd < 0x20000000000 := State.hbmEnd_lt_window
  unfold State.placeOf
  rw [if_neg (by omega), if_neg (by omega), if_neg (by omega), if_neg (by omega), if_pos ⟨hlo, hhi⟩]

end Sys2Proof.Machine

namespace Sys2Proof.Claims
open Sys2Proof.Machine

variable {s : State}

theorem hostWindowAccess_look {g : Agent} {d i : Nat} (hg : g = .frontEnd ∨ ∃ k, g = .sorrel k) :
    exec (.hostWindowAccess g d i) s = .next (s.hostLook g d i) := by
  obtain rfl | ⟨k, rfl⟩ := hg <;> rfl

theorem hostWindowAccess_asks {g : Agent} {d i : Nat} (hg : g = .frontEnd ∨ ∃ k, g = .sorrel k) (hw : inWindow (128 * d) = true)
    (hbme : s.bme = true) (htdi : s.sec.tdi ≠ 3) :
    ∃ t, exec (.hostWindowAccess g d i) s = .next t ∧
      t.hostOut = s.hostOut ++ [.read (s.hostAddr (128 * d)) g d i s.tdiRuns] ∧
      t.hostReads = s.hostReads ++ [⟨g, d, i, s.hostAddr (128 * d), 0⟩] ∧ Frame [.hostOut, .hostReads] s t := by
  have hplace : s.placeOf (128 * d) = .host := by
    rw [State.placeOf_window hw, if_pos (by simp [hbme, htdi])]
  have hlook : s.hostLook g d i = s.hostAsk g d i (s.hostAddr (128 * d)) := by
    unfold State.hostLook
    dsimp only
    rw [hw, if_neg (by simp), if_pos hplace]
  rw [hostWindowAccess_look hg, hlook]
  exact ⟨_, rfl, rfl, rfl, State.hostAsk_frame⟩

theorem hostWindowAccess_refused {g : Agent} {d i : Nat} (hg : g = .frontEnd ∨ ∃ k, g = .sorrel k) (hw : inWindow (128 * d) = true)
    (h : s.bme = false ∨ s.sec.tdi = 3) (hcnt : (s.reg (reqOf g).blk (reqOf g).n Off.errCnt).toNat < 0xFFFFFFFF) :
    ∃ t, exec (.hostWindowAccess g d i) s = .next t ∧
      t.reg (reqOf g).blk (reqOf g).n Off.errCnt = s.reg (reqOf g).blk (reqOf g).n Off.errCnt + 1 ∧ Frame [.regs, .logPtr] s t := by
  have hplace : s.placeOf (128 * d) ≠ .host := by
    rw [State.placeOf_window hw, if_neg (by simp; intro hb; simpa [hb] using h)]
    simp
  have hlook : s.hostLook g d i = s.addrErr (reqOf g) (128 * d) false := by
    unfold State.hostLook
    dsimp only
    rw [hw, if_neg (by simp), if_neg hplace]
  rw [hostWindowAccess_look hg, hlook]
  exact ⟨_, rfl, addrErr_counts hcnt, State.addrErr_frame⟩

end Sys2Proof.Claims
end

section
/-! SUPPORT. The descriptors of an engine (R168, R240): what a change of one leaves to read back, and an engine's read of the host window. -/

namespace Sys2Proof.Machine
open Sys2Proof.Claims

variable {s t : State}

/-- An agent that has an engine. -/
def HasEngine (g : Agent) : Prop := Mover g ∨ g = .copy

theorem State.eng_setEng {g : Agent} {x : Eng} (hg : HasEngine g) : (s.setEng g x).eng g = x := by
  obtain (⟨f, rfl⟩ | ⟨f, rfl⟩ | ⟨u, c, rfl⟩) | rfl := hg
  · exact congrArg Floret.le (State.fl_setFl _ _ _)
  · exact congrArg Floret.se (State.fl_setFl _ _ _)
  · have hum : (s.setEng (.dma u c) x).um u.val = (s.um u.val).setChan c.val { (s.um u.val).chan c.val with eng := x } := State.um_setUm _ _ _
    show (((s.setEng (.dma u c) x).um u.val).chan c.val).eng = x
    rw [hum]
    exact congrArg Chan.eng SMap.get_put_same
  · rfl

/-- A change of a descriptor that keeps its number shows when it is read again. -/
theorem State.desc_modDesc {g : Agent} {d : Nat} {h : Desc → Desc} {q : Desc} (hg : HasEngine g) (hid : ∀ q, (h q).id = q.id)
    (hq : (s.eng g).desc d = some q) : ((s.modDesc g d h).eng g).desc d = some (h q) := by
  have hqid : q.id = d := by
    simpa using List.find?_some hq
  unfold State.modDesc State.modEng
  rw [State.eng_setEng hg]
  unfold Eng.desc at *
  have hcond : (fun x => decide (x.id = d)) ∘ (fun q => if q.id = d then h q else q) = fun x => decide (x.id = d) := by
    funext x
    dsimp only [Function.comp]
    split
    · rw [hid]
    · rfl
  rw [List.find?_map, hcond, hq]
  simp [hqid]

theorem bitN_setBitN {n i : Nat} : bitN (setBitN n i true) i = true := by
  unfold bitN setBitN setBitsN
  dsimp only
  have hpow : 2 ^ (i + 1) = 2 ^ i * 2 := Nat.pow_succ ..
  have hlt : n % 2 ^ i < 2 ^ i := Nat.mod_lt _ (Nat.two_pow_pos i)
  rw [show i + 1 - i = 1 by omega, if_pos rfl, hpow]
  have hval : n % 2 ^ i + 2 ^ i * (1 % 2 ^ 1) + 2 ^ i * 2 * (n / (2 ^ i * 2)) = n % 2 ^ i + 2 ^ i * (1 + 2 * (n / (2 ^ i * 2))) := by ring
  rw [hval, Nat.add_mul_div_left _ _ (Nat.two_pow_pos i), Nat.div_eq_of_lt hlt]
  simp

end Sys2Proof.Machine

namespace Sys2Proof.Claims
open Sys2Proof.Machine

variable {s : State}

/-- What an engine's access to the host window does with a line that it may read. -/
theorem hostWindowAccess_toRead {g : Agent} {q : Desc} {i a : Nat} (hg : HasEngine g) (hq : (s.eng g).desc q.id = some q)
    (hread : s.readable g q i = true) (hsrc : s.srcOf g q i = some a) :
    exec (.hostWindowAccess g q.id i) s = .next (
      if !s.isOwn a || !inWindow (localOf a) then s
      else if s.placeOf (localOf a) = .host then
        (s.hostAsk g q.id i (s.hostAddr (localOf a))).modDesc g q.id (fun q => { q with rd := setBitN q.rd i true })
      else s.engRead regIO g q.id i .clean) := by
  show execHostWindowAccess g q.id i s = _
  unfold execHostWindowAccess
  obtain (⟨f, rfl⟩ | ⟨f, rfl⟩ | ⟨u, c, rfl⟩) | rfl := hg
  all_goals
    dsimp only
    rw [hq]
    dsimp only
    rw [hread, if_pos rfl, hsrc]

/-- What it does with a line that it may not read. -/
theorem hostWindowAccess_toWrite {g : Agent} {q : Desc} {i x : Nat} (hg : HasEngine g) (hq : (s.eng g).desc q.id = some q)
    (hread : s.readable g q i = false) (hdst : s.dstOf g q i = [x]) :
    exec (.hostWindowAccess g q.id i) s = .next (if s.isOwn x && inWindow (localOf x) then s.lineOut g q.id i .clean else s) := by
  show execHostWindowAccess g q.id i s = _
  unfold execHostWindowAccess
  obtain (⟨f, rfl⟩ | ⟨f, rfl⟩ | ⟨u, c, rfl⟩) | rfl := hg
  all_goals
    dsimp only
    rw [hq]
    dsimp only
    rw [hread, if_neg Bool.false_ne_true, hdst]
    rfl

theorem hostWindowAccess_reads {g : Agent} {q : Desc} {i a : Nat} (hg : Mover g ∨ g = .copy) (hq : (s.eng g).desc q.id = some q)
    (hread : s.readable g q i = true) (hsrc : s.srcOf g q i = some a) (hown : s.isOwn a = true) (hw : inWindow (localOf a) = true)
    (hplace : s.placeOf (localOf a) = .host) :
    ∃ t, exec (.hostWindowAccess g q.id i) s = .next t ∧
      t.hostOut = s.hostOut ++ [.read (s.hostAddr (localOf a)) g q.id i s.tdiRuns] ∧
      t.hostReads = s.hostReads ++ [⟨g, q.id, i, s.hostAddr (localOf a), 0⟩] ∧
      ∃ q', (t.eng g).desc q.id = some q' ∧ bitN q'.rd i = true := by
  rw [hostWindowAccess_toRead hg hq hread hsrc, hown, hw, if_neg (by simp), if_pos hplace]
  have hmod := State.modDesc_frame (s := s.hostAsk g q.id i (s.hostAddr (localOf a))) (g := g) (d := q.id)
    (h := fun q => { q with rd := setBitN q.rd i true })
  have heng : ((s.hostAsk g q.id i (s.hostAddr (localOf a))).eng g).desc q.id = some q := by
    rw [← hq]
    obtain (⟨f, rfl⟩ | ⟨f, rfl⟩ | ⟨u, c, rfl⟩) | rfl := hg <;> rfl
  exact ⟨_, rfl, (hmod .hostOut rfl).trans rfl, (hmod .hostReads rfl).trans rfl, _,
    State.desc_modDesc (h := fun q => { q with rd := setBitN q.rd i true }) hg (fun _ => rfl) heng, bitN_setBitN⟩

end Sys2Proof.Claims
end

section
/-! SUPPORT. What runs beside a line of the host: it appends to what the host is sent and does not count the host's bytes (R235, R414). -/

namespace Sys2Proof.Machine
open Sys2Proof.Claims

variable {s t u : State}

/-- What the host was sent stays, and the 64-bit counters of the CT page stay. -/
structure Beside (s t : State) : Prop where
  sent : s.hostOut <+: t.hostOut
  counts : ∀ off, off < 4096 → SMap.get 0 t.cnt64 (regOff .ct 0 off) = SMap.get 0 s.cnt64 (regOff .ct 0 off)

namespace Beside

theorem refl : Beside s s := ⟨⟨[], List.append_nil _⟩, fun _ _ => rfl⟩

theorem trans (h : Beside s t) (k : Beside t u) : Beside s u :=
  ⟨h.sent.trans k.sent, fun off ho => (k.counts off ho).trans (h.counts off ho)⟩

/-- A step whose frame holds neither what the host is sent nor the counters. -/
theorem frame {ps : List Piece} (k : Beside s t) (h : Frame ps t u) (ho : ps.contains .hostOut = false) (hc : ps.contains .cnt64 = false) :
    Beside s u := by
  have hout : u.hostOut = t.hostOut := h .hostOut ho
  have hcnt : u.cnt64 = t.cnt64 := h .cnt64 hc
  exact k.trans ⟨by rw [hout], fun _ _ => by rw [hcnt]⟩

theorem ite {c : Prop} [Decidable c] {a b : State} (ha : Beside s a) (hb : Beside s b) : Beside s (if c then a else b) := by
  split
  · exact ha
  · exact hb

theorem foldl_at {α β : Type} (g : β → State) {f : β → α → β} {xs : List α} (h : ∀ a x, Beside (g a) (g (f a x))) {b : β} :
    Beside (g b) (g (xs.foldl f b)) := by
  induction xs generalizing b with
  | nil => exact .refl
  | cons x xs ih => exact (h b x).trans ih

theorem counted {off v : Nat} (h : Counted s t .ct 0 off v) (k : Beside t u) (ho : off < 4096) : Counted s u .ct 0 off v :=
  (k.counts off ho).trans h

end Beside

/-! Counters and events. -/

theorem State.cnt_beside {b : Blk} {n off v : Nat} (hb : b.page n ≠ 6) (ho : off < 4096) : Beside s (s.cnt b n off v) := by
  refine ⟨⟨[], List.append_nil _⟩, fun o h => ?_⟩
  have hct : regOff .ct 0 o = 6 * 4096 + o := rfl
  have hkey : regOff b n off = b.page n * 4096 + off := rfl
  exact SMap.get_put_ne (by omega)

theorem State.msix_beside {vec : Nat} : Beside s (s.msix vec) := by
  unfold State.msix
  dsimp only
  refine Beside.ite .refl (Beside.ite (Beside.refl.frame (State.setRaw_frame) rfl rfl) ?_)
  exact ⟨⟨_, rfl⟩, fun _ _ => rfl⟩

theorem State.event_beside {b : Blk} {n e : Nat} : Beside s (s.event b n e) := by
  have hraw : Beside s (s.orReg b n Off.evtRaw (BitVec.ofNat 32 (2 ^ e))) := Beside.refl.frame State.orReg_frame rfl rfl
  unfold State.event
  dsimp only
  generalize s.orReg b n Off.evtRaw (BitVec.ofNat 32 (2 ^ e)) = v at *
  have hpend : Beside s (v.orReg b n Off.evtPend (BitVec.ofNat 32 (2 ^ e))) := hraw.frame State.orReg_frame rfl rfl
  exact .ite hraw (.ite (hpend.trans State.msix_beside) hpend)

theorem State.sticky_beside {b : Blk} {n off bit : Nat} {e : Option Nat} : Beside s (s.sticky b n off bit e) := by
  have hset : Beside s (s.orReg b n off (BitVec.ofNat 32 (2 ^ bit))) := Beside.refl.frame State.orReg_frame rfl rfl
  unfold State.sticky
  dsimp only
  split
  · exact hset.trans State.event_beside
  · exact hset

theorem State.stickies_beside {b : Blk} {n off : Nat} {bits : W32} {evs : List (Nat × Nat)} : Beside s (s.stickies b n off bits evs) := by
  have hset : Beside s (s.orReg b n off bits) := Beside.refl.frame State.orReg_frame rfl rfl
  unfold State.stickies
  refine hset.trans (Beside.foldl_at id fun v x => ?_)
  exact .ite State.event_beside .refl

/-! Packets. -/

theorem State.sendPkt_beside {p : OutPkt} : Beside s (s.sendPkt p) := by
  unfold State.sendPkt
  dsimp only
  refine Beside.frame ?_ State.setFab_frame rfl rfl
  refine Beside.frame ?_ State.setLink_frame rfl rfl
  have hpl : Blk.pl.page p.link ≠ 6 := by
    show 0x20 + p.link ≠ 6
    omega
  have hcnt : ∀ v w, Beside s ((s.cnt .pl p.link 0x140 v).cnt .pl p.link 0x150 w) := fun v w =>
    (State.cnt_beside hpl (by decide)).trans (State.cnt_beside hpl (by decide))
  exact .ite ((hcnt _ _).frame State.addReg_frame rfl rfl) (hcnt _ _)

theorem State.emit_beside {p : OutPkt} : Beside s (s.emit p) := by
  unfold State.emit
  split
  · exact State.sendPkt_beside
  · exact .refl
  · exact Beside.refl.frame State.setFab_frame rfl rfl

/-- A packet without a route or of a closed flow is counted, with an event. -/
theorem State.addReg_event_beside {b : Blk} {n off v e : Nat} : Beside s ((s.addReg b n off v).event b n e) :=
  (Beside.refl.frame State.addReg_frame rfl rfl).trans State.event_beside

theorem State.inject_beside {g : Agent} {kind : AwaitKind} {d i flow gen dev a : Nat} {det : Bool} {b : Body} :
    Beside s (s.inject g kind d i flow gen dev a det b).2 := by
  have hpick : ∀ adapt, Beside s (s.pickFirst dev a adapt).2 := fun _ => Beside.refl.frame State.pickFirst_frame rfl rfl
  unfold State.inject
  dsimp only
  split
  · exact (hpick _).trans State.addReg_event_beside
  · split
    · exact (hpick _).trans State.addReg_event_beside
    · exact ((hpick _).trans State.emit_beside).frame State.setFab_frame rfl rfl

theorem State.answer_beside {dev flow gen tok : Nat} {b : Body} : Beside s (s.answer dev flow gen tok b) := by
  unfold State.answer
  split
  · exact State.addReg_event_beside
  · exact State.emit_beside

/-! The quantiser's output (R83). -/

theorem State.qxTake_beside {f : Nat} (h : s.qxTake f = some t) : Beside s t := by
  have hfl : Blk.fl.page f ≠ 6 := by
    show 0x200 + f ≠ 6
    omega
  unfold State.qxTake at h
  extract_lets fl at h
  split at h
  · cases h
  · split at h
    · cases h
    · extract_lets x bad k g taken read flagged nonfin zero counted at h
      have htaken : Beside s taken := Beside.refl.frame State.setFl_frame rfl rfl
      have hread : Beside s read := htaken.trans (State.cnt_beside hfl (by decide))
      have hflagged : Beside s flagged := hread.trans State.stickies_beside
      have hnonfin : Beside s nonfin := .ite (hflagged.frame State.orReg_frame rfl rfl) hflagged
      have hzero : Beside s zero := .ite (hnonfin.frame State.orReg_frame rfl rfl) hnonfin
      have hcounted : Beside s counted := (hzero.frame State.addReg_frame rfl rfl).frame State.addReg_frame rfl rfl
      obtain rfl := Option.some.inj h
      exact .ite (hcounted.frame State.flFault_frame rfl rfl) hcounted

theorem State.qoutPull_beside {n : Nat} {f : FloretId} : Beside s (State.qoutPull n s f) := by
  induction n generalizing s with
  | zero => exact .refl
  | succ n ih =>
    unfold State.qoutPull
    split
    · next h => exact (Beside.refl.frame (State.qoutTake_frame h) rfl rfl).trans ih
    · split
      · next h => exact (State.qxTake_beside h).trans ih
      · exact .refl

theorem State.roomMade_beside {g : Agent} : Beside s (s.roomMade g) := by
  unfold State.roomMade
  split
  · exact State.qoutPull_beside
  · exact .refl

/-! Completion of a line (R151, R153, R169, R235). -/

theorem State.engLoss_beside {g : Agent} {write : Bool} : Beside s (s.engLoss g write) := by
  unfold State.engLoss
  extract_lets stopped
  have hstopped : Beside s stopped := by
    dsimp only [stopped]
    split
    · exact .refl
    · exact Beside.refl.frame State.modEng_frame rfl rfl
  split
  · exact (hstopped.trans State.sticky_beside).frame State.flFault_frame rfl rfl
  · exact (hstopped.trans State.sticky_beside).frame State.flFault_frame rfl rfl
  · exact (hstopped.trans State.sticky_beside).frame State.report_frame rfl rfl
  · exact hstopped

theorem State.tallyAdd_beside {q : Req} {f w : Option Nat} {r : Nat} {v : W32} : Beside s (s.tallyAdd q f w r v).2 :=
  Beside.refl.frame State.tallyAdd_frame rfl rfl

theorem State.doSignal_beside {g : Agent} {d : Desc} : Beside s (s.doSignal g d).2 := by
  unfold State.doSignal
  extract_lets v r fw
  have hr : Beside s r.2 := State.tallyAdd_beside
  split
  · exact hr
  · exact hr
  · extract_lets i
    have hi : Beside s i.2 := hr.trans State.inject_beside
    split
    · exact hi
    · exact hi

theorem State.endTo_beside {q : Req} {a e : Nat} : Beside s (s.endTo q a e).2 := Beside.refl.frame State.endTo_frame rfl rfl

theorem State.doEnd_beside {g : Agent} {d : Desc} : Beside s (s.doEnd g d).2 := by
  unfold State.doEnd
  dsimp only
  split
  · exact Beside.refl.frame State.modFl_frame rfl rfl
  · split
    · refine Beside.foldl_at (fun a : SigOut × State => a.2) (b := (SigOut.done, s)) fun a k => ?_
      split
      · exact State.endTo_beside
      · exact .refl
    · split
      · exact State.endTo_beside
      · exact State.inject_beside
  · split
    · exact State.endTo_beside
    · exact State.inject_beside

theorem State.complete_beside {g : Agent} {d : Desc} : Beside s (s.complete g d) := Beside.refl.frame State.complete_frame rfl rfl

theorem State.cascade_beside {n : Nat} {g : Agent} : Beside s (State.cascade n s g) := by
  induction n generalizing s with
  | zero => exact .refl
  | succ n ih =>
    unfold State.cascade
    extract_lets x
    split
    · next d _ _ =>
      extract_lets k r
      split
      · exact .refl
      · have hr : Beside s r.2 := by
          dsimp only [r]
          split
          · exact State.doSignal_beside
          · exact State.doEnd_beside
        split
        · exact (hr.trans State.complete_beside).trans ih
        · exact hr.frame State.modDesc_frame rfl rfl
        · exact (hr.trans State.complete_beside).trans State.engLoss_beside
    · exact .refl

theorem State.settle_beside {g : Agent} {id : Nat} : Beside s (s.settle g id) := by
  unfold State.settle
  split
  · exact .refl
  · extract_lets v
    have hv : Beside s v := State.roomMade_beside
    split
    · exact .ite ((hv.trans State.complete_beside).trans State.cascade_beside) hv
    · exact hv

theorem State.lineDone_beside {g : Agent} {d : Desc} {i : Nat} : Beside s (s.lineDone g d i) := by
  unfold State.lineDone
  extract_lets v w
  have hv : Beside s v := Beside.refl.frame State.modDesc_frame rfl rfl
  have hw : Beside s w := by
    dsimp only [w]
    split
    · exact hv.frame State.addReg_frame rfl rfl
    · exact hv.frame State.addReg_frame rfl rfl
    · exact hv
  exact hw.trans State.settle_beside

theorem State.countRef_beside {g : Agent} {d i ref : Nat} {f w : Option Nat} {v : W32} : Beside s (s.countRef g d i ref f w v).2 := by
  unfold State.countRef
  extract_lets r fw
  have hr : Beside s r.2 := State.tallyAdd_beside
  split
  · exact hr
  · exact hr
  · extract_lets x
    have hx : Beside s x.2 := hr.trans State.inject_beside
    split
    · exact hx
    · exact hx

theorem State.countTally_beside {g : Agent} {d : Desc} {i mask : Nat} : Beside s (s.countTally g d i mask).2 := by
  unfold State.countTally
  split
  · exact .refl
  · exact State.countRef_beside

theorem State.lineCounted_beside {g : Agent} {d : Desc} {i : Nat} {h : Held} {tally : Bool} : Beside s (s.lineCounted g d i h tally) := by
  unfold State.lineCounted
  extract_lets v r w
  have hv : Beside s v := Beside.refl.frame State.digestLine_frame rfl rfl
  have hr : Beside s r.2 := by
    dsimp only [r]
    split
    · exact hv.trans State.countTally_beside
    · exact hv
  have hw : Beside s w := .ite ((hr.frame State.modDesc_frame rfl rfl).trans State.engLoss_beside) hr
  exact hw.trans State.lineDone_beside

end Sys2Proof.Machine
end

section
/-! SUPPORT. Lines of host memory (R240, R314, R468): masked writes byte by byte, an engine's line written there, and a completion's data on
their way to the reader. -/

namespace Sys2Proof.Machine
open Sys2Proof.Claims

variable {s t u : State}

/-! Masked writes. -/

theorem Memory.read_writeMasked_other {m : Memory} {n a v mask b : Nat} (h : b < a ∨ a + n ≤ b) :
    Memory.read (Memory.writeMasked m n a v mask) b = Memory.read m b := by
  induction n generalizing m a v mask with
  | zero => rfl
  | succ n ih =>
    rw [Memory.writeMasked, ih (by omega)]
    split
    · exact Memory.read_write_ne (by omega)
    · rfl

/-- An enabled byte takes its byte of the value, another keeps what it held. -/
theorem Memory.read_writeMasked {m : Memory} {n a v mask j : Nat} (h : j < n) :
    Memory.read (Memory.writeMasked m n a v mask) (a + j) = if bitN mask j then BitVec.ofNat 8 (v / 256 ^ j) else Memory.read m (a + j) := by
  induction n generalizing m a v mask j with
  | zero => omega
  | succ n ih =>
    rw [Memory.writeMasked]
    cases j with
    | zero =>
      rw [Nat.add_zero, Memory.read_writeMasked_other (by omega)]
      by_cases hm : mask % 2 = 1
      · simp [bitN, hm]
      · simp [bitN, hm]
    | succ j =>
      have hbit : bitN (mask / 2) j = bitN mask (j + 1) := by
        unfold bitN
        rw [Nat.div_div_eq_div_mul, ← Nat.pow_succ']
      have hdiv : v / 256 / 256 ^ j = v / 256 ^ (j + 1) := by
        rw [Nat.div_div_eq_div_mul, ← Nat.pow_succ']
      have hstay : Memory.read (if mask % 2 = 1 then Memory.write m a (BitVec.ofNat 8 v) else m) (a + (j + 1)) = Memory.read m (a + (j + 1)) := by
        split
        · exact Memory.read_write_ne (by omega)
        · rfl
      rw [show a + (j + 1) = a + 1 + j by omega, ih (by omega), hbit, hdiv, show a + 1 + j = a + (j + 1) by omega, hstay]

theorem Memory.writeMasked_ones {m : Memory} {n a v : Nat} : Memory.writeMasked m n a v (2 ^ n - 1) = Memory.writeN m n a v := by
  induction n generalizing m a v with
  | zero => rfl
  | succ n ih =>
    have hpos : 0 < 2 ^ n := Nat.two_pow_pos n
    rw [Memory.writeMasked, if_pos (by omega), show (2 ^ (n + 1) - 1) / 2 = 2 ^ n - 1 by omega, ih]
    rfl

/-- A whole line written under a full mask is read back. -/
theorem Memory.readLine_writeMasked {m : Memory} {a : Nat} {l : Line} : Memory.readLine (Memory.writeMasked m 128 a l.toNat fullMask) a = l := by
  rw [fullMask, Memory.writeMasked_ones]
  exact Memory.readLine_writeLine

theorem bitN_fullMask_xor {w j : Nat} (h : j < 128) : bitN (fullMask ^^^ w) j = !bitN w j := by
  rw [bitN_eq_testBit, bitN_eq_testBit, Nat.testBit_xor, fullMask, Nat.testBit_two_pow_sub_one, decide_eq_true h, Bool.true_xor]

theorem ofNat_lineByte {l : Line} {j : Nat} : BitVec.ofNat 8 (l.toNat / 256 ^ j) = BitVec.ofNat 8 (lineByte l j) := by
  have hpow : 256 ^ j = 2 ^ (8 * j) := by rw [Nat.pow_mul]
  unfold lineByte bitsN
  rw [show 8 * j + 7 + 1 - 8 * j = 8 by omega, hpow]
  apply BitVec.eq_of_toNat_eq
  simp

/-! A line of an engine for host memory. -/

/-- A full line of a mover goes to the one address that it names. -/
theorem lineOut_writes {g : Agent} {q : Desc} {i x : Nat} {h : Held} (hr : ReadyToWrite s g q i x h) (hown : s.isOwn x = true)
    (hdone : (s.writeLocal regIO (reqOf g) (localOf x) h.mask h.line h.poison .clean).1 = .done) :
    s.lineOut g q.id i .clean = (s.writeLocal regIO (reqOf g) (localOf x) h.mask h.line h.poison .clean).2.lineCounted g q i h true := by
  obtain ⟨hmover, hcast, hdesc, hon, hi, hdn, hsent, hlost, hdata, hmask, hdst, hturn⟩ := hr
  have hengine : s.lineOut g q.id i .clean = s.engWrite regIO g q.id i .clean := by
    obtain ⟨f, rfl⟩ | ⟨f, rfl⟩ | ⟨u, c, rfl⟩ := hmover <;> rfl
  rw [hengine]
  unfold State.engWrite
  rw [hdesc]
  dsimp -zeta only
  rw [if_neg (by simp [hon, hdn, hsent, hlost, hturn]; omega), hdata]
  dsimp -zeta only
  extract_lets held r a r'
  have hheld : held = h := by
    obtain ⟨f, rfl⟩ | ⟨f, rfl⟩ | ⟨u, c, rfl⟩ := hmover <;> rfl
  have ha : a = x := by
    dsimp only [a]
    rw [hdst, List.headD_cons]
  have hr' : r' = s.writeLocal regIO (reqOf g) (localOf x) h.mask h.line h.poison .clean := by
    dsimp only [r']
    rw [hheld, ha]
  rw [if_neg (by simp [hcast]), ha, if_pos hown, hr', hdone, hheld]

theorem State.hostMem_hostPut {ha mask : Nat} {l : Line} {poison : Bool} :
    (s.hostPut ha mask l poison).hostMem = Memory.writeMasked s.hostMem 128 ha l.toNat mask := by
  dsimp only [State.hostPut]

theorem State.hostOut_hostPut {ha mask : Nat} {l : Line} {poison : Bool} :
    (s.hostPut ha mask l poison).hostOut = s.hostOut ++ [.line ha mask l poison s.tdiRuns] := rfl

theorem writeLocal_host {q : Req} {a mask : Nat} {l : Line} {poison : Bool} {e : Ecc} (h : s.placeOf a = .host) :
    s.writeLocal regIO q a mask l poison e = (.done, (s.hostPut (s.hostAddr a) mask l poison).cnt .ct 0 0x108 (popN 128 mask)) := by
  unfold State.writeLocal
  dsimp only
  rw [h]

end Sys2Proof.Machine

namespace Sys2Proof.Claims
open Sys2Proof.Machine

variable {s : State}

/-- An engine's line leaves for the host as a posted request (R240, R468). -/
theorem hostWindowAccess_writes {g : Agent} {q : Desc} {i x : Nat} {h : Held} (hr : ReadyToWrite s g q i x h) (hread : s.readable g q i = false)
    (hown : s.isOwn x = true) (hw : inWindow (localOf x) = true) (hplace : s.placeOf (localOf x) = .host) :
    ∃ t, exec (.hostWindowAccess g q.id i) s = .next t ∧
      (∃ ms, t.hostOut = s.hostOut ++ .line (s.hostAddr (localOf x)) fullMask h.line h.poison s.tdiRuns :: ms) ∧
      Memory.readLine t.hostMem (s.hostAddr (localOf x)) = h.line ∧ Counted s t .ct 0 0x108 128 ∧ t.sram = s.sram ∧ t.hbm = s.hbm := by
  have hwrite := writeLocal_host (q := reqOf g) (mask := h.mask) (l := h.line) (poison := h.poison) (e := .clean) hplace
  have hout := lineOut_writes hr hown (by rw [hwrite])
  obtain ⟨hmover, -, hdesc, -, -, -, -, -, -, hmask, hdst, -⟩ := hr
  rw [hwrite, hmask, popN_fullMask] at hout
  rw [hostWindowAccess_toWrite (.inl hmover) hdesc hread hdst, hown, hw, hout]
  simp only [Bool.and_self, if_true]
  have hput : Frame [.hostMem, .hostOut, .hostReads] s (s.hostPut (s.hostAddr (localOf x)) fullMask h.line h.poison) := State.hostPut_frame
  have hmem : (s.hostPut (s.hostAddr (localOf x)) fullMask h.line h.poison).hostMem =
      Memory.writeMasked s.hostMem 128 (s.hostAddr (localOf x)) h.line.toNat fullMask := State.hostMem_hostPut
  have hmsg : (s.hostPut (s.hostAddr (localOf x)) fullMask h.line h.poison).hostOut =
      s.hostOut ++ [.line (s.hostAddr (localOf x)) fullMask h.line h.poison s.tdiRuns] := State.hostOut_hostPut
  generalize s.hostPut (s.hostAddr (localOf x)) fullMask h.line h.poison = u at *
  have hcnt : Frame [.cnt64] u (u.cnt .ct 0 0x108 128) := State.cnt_frame
  have hcounted : Counted u (u.cnt .ct 0 0x108 128) .ct 0 0x108 128 := counted_cnt
  generalize u.cnt .ct 0 0x108 128 = v at *
  have hbeside : Beside v (v.lineCounted g q i h true) := State.lineCounted_beside
  have hline := State.lineCounted_frame (s := v) (g := g) (d := q) (i := i) (h := h) (tally := true)
  generalize v.lineCounted g q i h true = t at *
  have hsent : v.hostOut = s.hostOut ++ [.line (s.hostAddr (localOf x)) fullMask h.line h.poison s.tdiRuns] := (hcnt .hostOut rfl).trans hmsg
  refine ⟨t, rfl, ?_, ?_, ?_, ?_, ?_⟩
  · obtain ⟨ms, hms⟩ := hbeside.sent
    exact ⟨ms, by rw [← hms, hsent, List.append_assoc, List.singleton_append]⟩
  · have hlast : t.hostMem = u.hostMem := (hline .hostMem rfl).trans (hcnt .hostMem rfl)
    rw [hlast, hmem, Memory.readLine_writeMasked]
  · have hkeep : u.cnt64 = s.cnt64 := hput .cnt64 rfl
    unfold Counted at *
    rw [hbeside.counts _ (by decide), hcounted, hkeep]
  · exact (hline .sram rfl).trans ((hcnt .sram rfl).trans (hput .sram rfl))
  · exact (hline .hbm rfl).trans ((hcnt .hbm rfl).trans (hput .hbm rfl))

end Sys2Proof.Claims
end

section
/-! SUPPORT. A completion's data on their way to the reader (R240, R314). -/

namespace Sys2Proof.Machine
open Sys2Proof.Claims

variable {s t u : State}

/-! Routes and answers (R311, R313). -/

/-- The choice of a link follows from the routes, the links' states and the registers. -/
theorem State.pickRoute_congr (hroutes : t.fab.routes = s.fab.routes) (hlinks : ∀ l, t.link l = s.link l) (hregs : t.regs = s.regs)
    (hvar : t.variant = s.variant) (dev a : Nat) : t.pickRoute dev a = s.pickRoute dev a := by
  have hroute : t.route dev = s.route dev := by
    unfold State.route
    rw [hroutes]
  have husable : ∀ e i, t.posUsable e i = s.posUsable e i := fun e i => by
    unfold State.posUsable State.linkPresent State.reg
    simp only [hlinks, hvar, State.rawReg_of_regs hregs]
  unfold State.pickRoute
  rw [hroute]
  simp only [husable]

theorem State.sendPkt_out {p : OutPkt} : (s.sendPkt p).fab.out = s.fab.out ++ [p] := by
  have hreg : ∀ (c : Bool) (v : State), (if c then v.addReg .pl p.link 0x12C 1 else v).fab = v.fab := fun c v => by
    cases c
    · rfl
    · exact State.addReg_frame .fab rfl
  unfold State.sendPkt
  dsimp only
  show ((if _ then _ else _ : State).fab.out) ++ [p] = _
  rw [hreg]
  rfl

theorem State.sendPkt_hostRd {p : OutPkt} : (s.sendPkt p).fab.hostRd = s.fab.hostRd := by
  have hreg : ∀ (c : Bool) (v : State), (if c then v.addReg .pl p.link 0x12C 1 else v).fab = v.fab := fun c v => by
    cases c
    · rfl
    · exact State.addReg_frame .fab rfl
  unfold State.sendPkt
  dsimp only
  show ((if _ then _ else _ : State).fab.hostRd) = _
  rw [hreg]
  rfl

theorem State.emit_goesOut {p : OutPkt} : GoesOut s (s.emit p) p.link p := by
  unfold State.emit
  refine ⟨rfl, fun hup => ?_, fun hwaits => ?_⟩
  · rw [hup]
    exact State.sendPkt_out
  · split
    · omega
    · omega
    · rfl

theorem State.emit_hostRd {p : OutPkt} : (s.emit p).fab.hostRd = s.fab.hostRd := by
  unfold State.emit
  split
  · exact State.sendPkt_hostRd
  · rfl
  · rfl

theorem State.answerTo_hostRd {h : PktHdr} {tok : Nat} {b : Body} : (s.answerTo h tok b).fab.hostRd = s.fab.hostRd := by
  unfold State.answerTo State.answer
  split
  · have hfab : ((s.addReg .pl 0 0x1B8 1).event .pl 0 5).fab = s.fab := (State.event_frame .fab rfl).trans (State.addReg_frame .fab rfl)
    rw [hfab]
  · exact State.emit_hostRd

theorem State.answerTo_answers {h : PktHdr} {tok : Nat} {b : Body} : Answers s (s.answerTo h tok b) h tok b := by
  intro o dl hroute
  unfold State.answerTo State.answer
  rw [hroute]
  exact ⟨_, State.emit_goesOut, rfl, rfl, rfl, rfl, rfl, rfl, rfl⟩

/-- What an answer depends on is the same. -/
theorem Answers.congr {h : PktHdr} {tok : Nat} {b : Body} (k : Answers u t h tok b) (hroute : ∀ dev a, u.pickRoute dev a = s.pickRoute dev a)
    (hlinks : ∀ l, u.link l = s.link l) (hout : u.fab.out = s.fab.out) (hheld : u.fab.held = s.fab.held) (hdev : u.devId = s.devId) :
    Answers s t h tok b := by
  intro o dl hs
  obtain ⟨p, ⟨hlink, hup, hwait⟩, hsub, hdst, hsrc, hrest⟩ := k o dl ((hroute _ _).trans hs)
  rw [hlinks, hout] at hup
  rw [hlinks, hheld] at hwait
  exact ⟨p, ⟨hlink, hup, hwait⟩, hsub, hdst, hsrc.trans hdev, hrest⟩

/-! What a completion's data do. -/

/-- The completion is taken: its read is no longer outstanding, and its bytes are counted. -/
def State.readTaken (s : State) (r : HostRead) : State := ({ s with hostReads := s.hostReads.erase r } : State).cnt .ct 0 0x100 128

/-- The data reach the agent that asked. -/
def State.giveRead (s : State) (r : HostRead) (data : Line) (ep : Bool) : State :=
  match r.agent with
  | .frontEnd => s.hostTake r data
  | .sorrel _ => s.hostTake r data
  | .host => match s.fab.hostRd.find? (fun e => e.1 = r.d) with
    | some e => (s.setFab { s.fab with hostRd := s.fab.hostRd.filter (fun e => e.1 ≠ r.d) }).answerTo e.2 e.2.token (.data data ep)
    | none => s
  | g => s.holdLine g r.d r.i data ep

theorem hostReadCompletion_step {r : HostRead} {data : Line} {ep : Bool}
    (h : s.hostReads.find? (fun x => x.agent == r.agent && x.d == r.d && x.i == r.i) = some r) :
    exec (.hostReadCompletion r.agent r.d r.i data ep) s = .next ((s.readTaken r).giveRead r data ep) := by
  show execHostReadCompletion r.agent r.d r.i data ep s = _
  unfold execHostReadCompletion
  rw [h]
  unfold State.giveRead
  generalize r.agent = g
  cases g <;> rfl

theorem State.readTaken_frame {r : HostRead} : Frame [.cnt64, .hostReads] s (s.readTaken r) :=
  Frame.step State.cnt_frame rfl (Frame.set_hostReads rfl .refl)

theorem State.readTaken_counted {r : HostRead} : Counted s (s.readTaken r) .ct 0 0x100 128 := counted_cnt (s := { s with hostReads := s.hostReads.erase r })

theorem State.giveRead_frame {r : HostRead} {data : Line} {ep : Bool} :
    Frame [.regs, .cnt64, .fls, .ums, .hostMem, .hostOut, .fab, .fe] s (s.giveRead r data ep) := by
  unfold State.giveRead
  split
  · exact State.hostTake_frame.mono rfl
  · exact State.hostTake_frame.mono rfl
  · split
    · exact Frame.step State.answerTo_frame rfl (State.setFab_frame.mono rfl)
    · exact .refl
  · exact State.holdLine_frame.mono rfl

theorem State.giveRead_beside {r : HostRead} {data : Line} {ep : Bool} : Beside s (s.giveRead r data ep) := by
  unfold State.giveRead
  split
  · exact Beside.refl.frame State.hostTake_frame rfl rfl
  · exact Beside.refl.frame State.hostTake_frame rfl rfl
  · split
    · exact (Beside.refl.frame State.setFab_frame rfl rfl).trans State.answer_beside
    · exact .refl
  · exact Beside.refl.frame State.holdLine_frame rfl rfl

/-- The front end and the sorrel units find the line in the host's memory, but for the bytes written since (R240). -/
theorem State.giveRead_look {r : HostRead} {data : Line} {ep : Bool} (hg : r.agent = .frontEnd ∨ ∃ k, r.agent = .sorrel k) :
    s.giveRead r data ep = s.hostTake r data := by
  unfold State.giveRead
  obtain hg | ⟨k, hg⟩ := hg <;> rw [hg]

theorem State.giveRead_engine {r : HostRead} {data : Line} {ep : Bool} (hg : HasEngine r.agent) :
    s.giveRead r data ep = s.holdLine r.agent r.d r.i data ep := by
  unfold State.giveRead
  obtain (⟨f, hg⟩ | ⟨f, hg⟩ | ⟨u, c, hg⟩) | hg := hg <;> rw [hg]

theorem State.giveRead_host {r : HostRead} {data : Line} {ep : Bool} {h : PktHdr} (hg : r.agent = .host)
    (hfind : s.fab.hostRd.find? (fun e => e.1 = r.d) = some (r.d, h)) :
    s.giveRead r data ep =
      (s.setFab { s.fab with hostRd := s.fab.hostRd.filter (fun e => e.1 ≠ r.d) }).answerTo h h.token (.data data ep) := by
  unfold State.giveRead
  rw [hg]
  dsimp only
  rw [hfind]

theorem State.hostTake_bytes {r : HostRead} {data : Line} {j : Nat} (hj : j < 128) :
    Memory.read (s.hostTake r data).hostMem (r.addr + j) =
      if bitN r.wr j then Memory.read s.hostMem (r.addr + j) else BitVec.ofNat 8 (lineByte data j) := by
  unfold State.hostTake
  dsimp only
  rw [Memory.read_writeMasked hj, bitN_fullMask_xor hj, ofNat_lineByte]
  cases bitN r.wr j <;> rfl

theorem State.hostTake_fresh {r : HostRead} {data : Line} : ((reqOf r.agent).src, r.addr) ∈ (s.hostTake r data).fe.fresh := by
  unfold State.hostTake
  dsimp only
  split
  · next h => simpa using h
  · simp

theorem State.desc_holdLine {g : Agent} {d i : Nat} {l : Line} {p : Bool} {q : Desc} (hg : HasEngine g) (hq : (s.eng g).desc d = some q) :
    ∃ q', ((s.holdLine g d i l p).eng g).desc d = some q' ∧ SMap.get none q'.data i = some ⟨l, p, fullMask⟩ := by
  refine ⟨_, State.desc_modDesc hg (fun _ => rfl) hq, ?_⟩
  dsimp only
  exact SMap.get_put_same

end Sys2Proof.Machine

namespace Sys2Proof.Claims
open Sys2Proof.Machine

variable {s : State}

theorem hostReadCompletion_effect {r : HostRead} {data : Line} {ep : Bool}
    (hfind : s.hostReads.find? (fun x => x.agent == r.agent && x.d == r.d && x.i == r.i) = some r) :
    ∃ t, exec (.hostReadCompletion r.agent r.d r.i data ep) s = .next t ∧ t.hostReads = s.hostReads.erase r ∧
      Counted s t .ct 0 0x100 128 ∧ t.sram = s.sram ∧ t.hbm = s.hbm ∧
      ((r.agent = .frontEnd ∨ ∃ k, r.agent = .sorrel k) →
        (∀ j, j < 128 → Memory.read t.hostMem (r.addr + j) =
          if bitN r.wr j then Memory.read s.hostMem (r.addr + j) else BitVec.ofNat 8 (lineByte data j)) ∧
        ((reqOf r.agent).src, r.addr) ∈ t.fe.fresh) ∧
      (r.agent = .host → ∀ h, s.fab.hostRd.find? (fun e => e.1 = r.d) = some (r.d, h) →
        t.fab.hostRd = s.fab.hostRd.filter (fun e => e.1 ≠ r.d) ∧ Answers s t h h.token (.data data ep)) ∧
      (∀ q, (Mover r.agent ∨ r.agent = .copy) → (s.eng r.agent).desc r.d = some q →
        t.hostMem = s.hostMem ∧
        ∃ q', (t.eng r.agent).desc r.d = some q' ∧ SMap.get none q'.data r.i = some ⟨data, ep, fullMask⟩) := by
  rw [hostReadCompletion_step hfind]
  have htaken : Frame [.cnt64, .hostReads] s (s.readTaken r) := State.readTaken_frame
  have hreads : (s.readTaken r).hostReads = s.hostReads.erase r := rfl
  have hcounted : Counted s (s.readTaken r) .ct 0 0x100 128 := State.readTaken_counted
  have heng : (s.readTaken r).eng r.agent = s.eng r.agent := by
    cases r.agent <;> rfl
  generalize s.readTaken r = u at *
  have hgive : Frame [.regs, .cnt64, .fls, .ums, .hostMem, .hostOut, .fab, .fe] u (u.giveRead r data ep) := State.giveRead_frame
  have hbeside : Beside u (u.giveRead r data ep) := State.giveRead_beside
  have hfab : u.fab = s.fab := htaken .fab rfl
  have hmem : u.hostMem = s.hostMem := htaken .hostMem rfl
  refine ⟨_, rfl, (hgive .hostReads rfl).trans hreads, hbeside.counted hcounted (by decide), (hgive .sram rfl).trans (htaken .sram rfl),
    (hgive .hbm rfl).trans (htaken .hbm rfl), fun hg => ?_, fun hg h hrd => ?_, fun q hg hq => ?_⟩
  · rw [State.giveRead_look hg]
    exact ⟨fun j hj => by rw [State.hostTake_bytes hj, hmem], State.hostTake_fresh⟩
  · rw [State.giveRead_host hg (by rw [hfab]; exact hrd), State.answerTo_hostRd]
    have hregs : u.regs = s.regs := htaken .regs rfl
    have hlinks : ∀ l, u.link l = s.link l := State.link_of_fab hfab
    have hdev : u.devId = s.devId := by
      unfold State.devId State.regN State.reg
      rw [State.rawReg_of_regs hregs]
    refine ⟨by rw [← hfab]; rfl, Answers.congr State.answerTo_answers ?_ hlinks (by rw [← hfab]; rfl) (by rw [← hfab]; rfl) hdev⟩
    exact State.pickRoute_congr (by rw [← hfab]; rfl) hlinks hregs (htaken .variant rfl)
  · rw [State.giveRead_engine hg]
    exact ⟨(State.holdLine_frame .hostMem rfl).trans hmem, State.desc_holdLine hg (by rw [heng]; exact hq)⟩

end Sys2Proof.Claims
end

section
/-! SUPPORT. Pins and the host's port: O56. -/

open Sys2Proof Sys2Proof.Machine Sys2Proof.Claims

/-- Settles O56: each pin, configuration request, BAR4 request, test-port load and host-window access is met by the lemma that says what it
does; the resets and the tenant change are those of O49 and of the kill of work. -/
theorem pinsAndTheHostPort : Obligations.PinsAndTheHostPort := by
  unfold Obligations.PinsAndTheHostPort
  refine ⟨fun s => ?_, fun s => ?_⟩
  · refine ⟨perstNFall_runs, perstNFall_still, ⟨_, rfl, rfl, Frame.set_boot rfl .refl⟩, flr_resets, flr_changes, fun hp ha => ?_, fun x tb hh ht => ?_,
      fun x len mask data psn e ht hh => ?_, fun addr => entdaa_takes, tapInstructionLoad_effect⟩
    · refine ⟨fun q => configRequest_retry hp ha, fun h3 hr => ⟨configRequest_read hp ha h3 hr, fun b m => configRequest_command_taken hp ha h3 hr,
        fun n => configRequest_bar4Size_taken hp ha h3 hr, fun q => configRequest_locked hp ha h3 hr⟩⟩
    · refine ⟨fun hx hs => ⟨fun data psn => bar4Write_whole hx hh ht hs, fun mask data l hl hm => bar4Write_part hx hh ht hs hl hm⟩,
        fun mask data psn e hx => ⟨bar4Write_down hx hh ht, bar4Write_held hx hh ht, bar4Write_beyond hx hh ht⟩,
        fun len hlen hline hx hs => ⟨fun l hl => bar4Read_good hh ht hlen hline hx hs hl, bar4Read_poisoned hh ht hlen hline hx hs⟩⟩
    · exact ⟨bar4Read_untrusted ht hh, bar4Write_untrusted ht⟩
  · refine ⟨fun g d i hg hw => ⟨hostWindowAccess_asks hg hw, hostWindowAccess_refused hg hw⟩, fun g q i a => hostWindowAccess_reads,
      fun g q i x h => hostWindowAccess_writes, fun r data ep => hostReadCompletion_effect⟩

end

section
/-! SUPPORT. The add stage (R42): one add, a run of adds element by element, and the sticky bit ACC_SAT of a clamped one. -/

namespace Sys2Proof.Machine
open Sys2Proof.Claims

variable {s : State} {r : Arr} {u : Upd} {us : List Upd} {isF init : Bool}

/-! One add. -/

theorem satI32_eq {z : Int} : Fp.satI32 z = (clampZ z, decide (clampZ z ≠ z)) := by
  unfold Fp.satI32 clampZ
  split
  · exact Prod.ext (by dsimp only; omega) (by rw [eq_comm, decide_eq_true_eq]; omega)
  · split
    · exact Prod.ext (by dsimp only; omega) (by rw [eq_comm, decide_eq_true_eq]; omega)
    · exact Prod.ext (by dsimp only; omega) (by rw [eq_comm, decide_eq_false_iff_not]; omega)

theorem toInt_clamp32 {z : Int} : (clamp32 z).toInt = clampZ z := by
  unfold clamp32 clampZ
  rw [BitVec.toInt_ofInt, Int.bmod_def]
  omega

theorem addElem_acc : (addElem r isF init u).1.acc =
    SMap.put 0 r.acc (accKey u) (added isF init (SMap.get 0 r.acc (accKey u)) u.val) := by
  unfold addElem added
  dsimp only
  rw [satI32_eq]
  cases init <;> cases isF <;> rfl

/-- Only a clamped integer add without INIT is due to set ACC_SAT. -/
theorem addElem_clamps : (addElem r isF init u).2.2 =
    (!init && !isF && decide (clampZ ((SMap.get (0 : W32) r.acc (accKey u)).toInt + u.val) ≠
      (SMap.get (0 : W32) r.acc (accKey u)).toInt + u.val)) := by
  unfold addElem
  dsimp only
  rw [satI32_eq]
  cases init <;> cases isF <;> rfl

theorem addElem_flags_of_int : (addElem r false init u).2.1 = 0 := by
  unfold addElem
  cases init <;> rfl

/-! A run of adds. -/

/-- One add of a run: the array, the flags raised so far, and whether an add has clamped. -/
def addNext (isF init : Bool) (acc : Arr × W32 × Bool) (u : Upd) : Arr × W32 × Bool :=
  let x := addElem acc.1 isF init u
  (x.1, acc.2.1 ||| x.2.1, acc.2.2 || x.2.2)

/-- The adds of one result, in order. -/
def addAll (isF init : Bool) (us : List Upd) (b : Arr × W32 × Bool) : Arr × W32 × Bool := us.foldl (addNext isF init) b

theorem addNext_acc {b : Arr × W32 × Bool} : (addNext isF init b u).1.acc =
    SMap.put 0 b.1.acc (accKey u) (added isF init (SMap.get 0 b.1.acc (accKey u)) u.val) := addElem_acc

theorem addNext_clamped {b : Arr × W32 × Bool} : (addNext isF init b u).2.2 = (b.2.2 || (addElem b.1 isF init u).2.2) := rfl

theorem addAll_clamped {b : Arr × W32 × Bool} (h : b.2.2 = true) : (addAll isF init us b).2.2 = true := by
  induction us generalizing b with
  | nil => exact h
  | cons u us ih => exact ih (b := addNext isF init b u) (by rw [addNext_clamped, h, Bool.true_or])

/-- A fold whose every step gives one key a value that depends on the one it had: a key outside its keys keeps its value. -/
theorem SMap.get_foldl_other {α β γ : Type} [DecidableEq γ] {d : γ} {g : β → SMap γ} {key : α → Nat} {v : α → γ → γ}
    {f : β → α → β} {xs : List α} {b : β} {k : Nat} (hf : ∀ b x, g (f b x) = SMap.put d (g b) (key x) (v x (SMap.get d (g b) (key x))))
    (hk : k ∉ xs.map key) : SMap.get d (g (xs.foldl f b)) k = SMap.get d (g b) k := by
  induction xs generalizing b with
  | nil => rfl
  | cons x xs ih =>
    rw [List.map_cons, List.mem_cons, not_or] at hk
    rw [List.foldl_cons, ih hk.2, hf, SMap.get_put_ne hk.1]

/-- Where no key comes twice, each key takes the value that its own step gives the one it had before the fold. -/
theorem SMap.get_foldl_own {α β γ : Type} [DecidableEq γ] {d : γ} {g : β → SMap γ} {key : α → Nat} {v : α → γ → γ}
    {f : β → α → β} {xs : List α} {b : β} {x : α} (hf : ∀ b x, g (f b x) = SMap.put d (g b) (key x) (v x (SMap.get d (g b) (key x))))
    (hn : (xs.map key).Nodup) (hx : x ∈ xs) : SMap.get d (g (xs.foldl f b)) (key x) = v x (SMap.get d (g b) (key x)) := by
  induction xs generalizing b with
  | nil => cases hx
  | cons y ys ih =>
    rw [List.map_cons, List.nodup_cons] at hn
    rw [List.foldl_cons]
    obtain rfl | hy := List.mem_cons.mp hx
    · rw [SMap.get_foldl_other hf hn.1, hf, SMap.get_put_same]
    · have hne : key x ≠ key y := fun he => hn.1 (he ▸ List.mem_map_of_mem hy)
      rw [ih hn.2 hy, hf, SMap.get_put_ne hne]

theorem addAll_acc_own {b : Arr × W32 × Bool} (hn : (us.map accKey).Nodup) (hu : u ∈ us) :
    SMap.get 0 (addAll isF init us b).1.acc (accKey u) = added isF init (SMap.get 0 b.1.acc (accKey u)) u.val :=
  SMap.get_foldl_own (d := (0 : W32)) (g := fun b : Arr × W32 × Bool => b.1.acc) (v := fun u old => added isF init old u.val)
    (f := addNext isF init) (key := accKey) (fun _ _ => addNext_acc) hn hu

theorem addAll_acc_other {b : Arr × W32 × Bool} {k : Nat} (hk : k ∉ us.map accKey) :
    SMap.get 0 (addAll isF init us b).1.acc k = SMap.get 0 b.1.acc k :=
  SMap.get_foldl_other (d := (0 : W32)) (g := fun b : Arr × W32 × Bool => b.1.acc) (v := fun u old => added isF init old u.val)
    (f := addNext isF init) (key := accKey) (fun _ _ => addNext_acc) hk

/-! Bits of a register word, wherever it lies, that stay set. -/

section Bits
variable {b : Blk} {n off k i : Nat}

theorem State.orReg_keeps_bit {v : W32} (h : (s.rawReg k).getLsbD i = true) : ((s.orReg b n off v).rawReg k).getLsbD i = true := by
  by_cases hk : k = State.regKey b n off
  · subst hk
    show ((s.orReg b n off v).reg b n off).getLsbD i = true
    rw [State.reg_orReg, BitVec.getLsbD_or]
    exact Bool.or_eq_true_iff.mpr (.inl h)
  · rwa [State.rawReg_orReg_ne hk]

theorem State.msix_keeps_bit {v : Nat} (h : (s.rawReg k).getLsbD i = true) : ((s.msix v).rawReg k).getLsbD i = true := by
  unfold State.msix
  dsimp only
  split
  · exact h
  · split
    · by_cases hk : k = 0x3008000 + 4 * (v % 2048 / 32)
      · subst hk
        rw [State.rawReg_setRaw, BitVec.getLsbD_or]
        exact Bool.or_eq_true_iff.mpr (.inl h)
      · rwa [State.rawReg_setRaw_ne _ _ hk]
    · exact h

theorem State.event_keeps_bit {e : Nat} (h : (s.rawReg k).getLsbD i = true) : ((s.event b n e).rawReg k).getLsbD i = true := by
  obtain he | he | ⟨v, he⟩ := State.event_cases (s := s) (b := b) (n := n) (e := e) <;> rw [he]
  · exact State.orReg_keeps_bit h
  · exact State.orReg_keeps_bit (State.orReg_keeps_bit h)
  · exact State.msix_keeps_bit (State.orReg_keeps_bit (State.orReg_keeps_bit h))

theorem State.sticky_cases {bit : Nat} {e : Option Nat} :
    let s1 := s.orReg b n off (BitVec.ofNat 32 (2 ^ bit))
    s.sticky b n off bit e = s1 ∨ ∃ j, s.sticky b n off bit e = s1.event b n j := by
  unfold State.sticky
  dsimp only
  split
  · exact .inr ⟨_, rfl⟩
  · exact .inl rfl

theorem State.sticky_keeps_bit {bit : Nat} {e : Option Nat} (h : (s.rawReg k).getLsbD i = true) :
    ((s.sticky b n off bit e).rawReg k).getLsbD i = true := by
  obtain he | ⟨j, he⟩ := State.sticky_cases (s := s) (b := b) (n := n) (off := off) (bit := bit) (e := e) <;> rw [he]
  · exact State.orReg_keeps_bit h
  · exact State.event_keeps_bit (State.orReg_keeps_bit h)

theorem State.sticky_sets {bit : Nat} {e : Option Nat} (hb : bit < 32) :
    ((s.sticky b n off bit e).rawReg (State.regKey b n off)).getLsbD bit = true := by
  have hset : ((s.orReg b n off (BitVec.ofNat 32 (2 ^ bit))).rawReg (State.regKey b n off)).getLsbD bit = true := by
    show ((s.orReg b n off (BitVec.ofNat 32 (2 ^ bit))).reg b n off).getLsbD bit = true
    rw [State.reg_orReg, BitVec.getLsbD_or, BitVec.getLsbD_ofNat, Nat.testBit_two_pow_self]
    simp [hb]
  obtain he | ⟨j, he⟩ := State.sticky_cases (s := s) (b := b) (n := n) (off := off) (bit := bit) (e := e) <;> rw [he]
  · exact hset
  · exact State.event_keeps_bit hset

/-- The count of differing scale words changes no bit of a register at another offset that was set. -/
theorem State.scaleMm_keeps_bit {f c : Nat} (ho : off < 4096) (hne : off ≠ Off.scaleMmCnt) (h : (s.reg b n off).getLsbD i = true) :
    ((s.scaleMm f c).reg b n off).getLsbD i = true := by
  unfold State.scaleMm
  split
  · exact h
  · refine State.sticky_keeps_bit ?_
    show ((s.addReg .fl f Off.scaleMmCnt c).reg b n off).getLsbD i = true
    unfold State.addReg
    rwa [State.reg_setReg_ne ho (by decide) hne]

end Bits

/-! The add stage. -/

/-- The array once its sums stand: the latched words, and the wavefront `w` on to its next result. -/
def Arr.withResult (r : Arr) (w : Wave) (rl cl : SMap Nat) : Arr :=
  { r with
    rowW := rl, colW := cl
    waves := r.waves.map (fun x => if x.cyc = w.cyc then { w with next := w.next + 1, res := w.res.tail } else x) }

/-- The stage adds the elements of the result, sets flags and ACC_SAT, and counts the scale words that differ. -/
theorem State.addResult_eq {f a : Nat} {w : Wave} : ∃ rl cl n,
    let x := addAll w.isF w.init (w.res.headD []) ((s.fl f).arr a, 0, false)
    let t := (s.setFl f ((s.fl f).setArr a (x.1.withResult w rl cl))).fpFlags f x.2.1
    s.addResult f a w = (if x.2.2 then t.sticky .fl f Off.mxStat 0 (some 4) else t).scaleMm f n :=
  ⟨_, _, _, rfl⟩

/-- A result with a clamped add sets ACC_SAT. -/
theorem State.addResult_sets_accSat {f a : Nat} {w : Wave}
    (h : (addAll w.isF w.init (w.res.headD []) ((s.fl f).arr a, 0, false)).2.2 = true) :
    ((s.addResult f a w).reg .fl f Off.mxStat).getLsbD 0 = true := by
  obtain ⟨rl, cl, n, heq⟩ := State.addResult_eq (s := s) (f := f) (a := a) (w := w)
  rw [heq, if_pos h]
  exact State.scaleMm_keeps_bit (by decide) (by decide) (State.sticky_sets (by decide))

end Sys2Proof.Machine

open Sys2Proof Sys2Proof.Machine Sys2Proof.Claims

/-- Settles O19: each branch of one add; a clamped add of a result makes the stage set the sticky bit, which the count of
differing scale words after it leaves set. -/
theorem accumulatorAddSaturatesAndRounds : Obligations.AccumulatorAddSaturatesAndRounds := by
  unfold Obligations.AccumulatorAddSaturatesAndRounds
  refine ⟨fun r u isF init => ?_, fun s f a w us u rest => ?_⟩
  · have hnew : SMap.get (0 : W32) (addElem r isF init u).1.acc (accKey u) =
        added isF init (SMap.get 0 r.acc (accKey u)) u.val := by
      rw [addElem_acc, SMap.get_put_same]
    refine ⟨fun hinit => ?_, fun hinit hF _ _ => ?_, fun hinit hF => ?_, fun n hn => ?_⟩
    · subst hinit
      exact ⟨hnew, addElem_clamps⟩
    · subst hinit hF
      exact ⟨(congrArg BitVec.toInt hnew).trans toInt_clamp32, by
        rw [addElem_clamps]; exact decide_eq_true_iff, addElem_flags_of_int⟩
    · subst hinit hF
      exact ⟨hnew, addElem_clamps⟩
    · rw [addElem_acc]
      exact SMap.get_put_ne hn
  · intro old hres hF hinit hclamp
    refine State.addResult_sets_accSat ?_
    rw [hres, hF, hinit]
    refine addAll_clamped (b := addNext false false ((s.fl f).arr a, 0, false) u) ?_
    rw [addNext_clamped, addElem_clamps]
    exact decide_eq_true hclamp

end

section
/-! SUPPORT. What the arrays of a floret hold of their flow (R27 to R36, R42): which operations leave it, and which florets a cycle or a
result leaves. -/

namespace Sys2Proof.Machine
open Sys2Proof.Claims

variable {s t : State} {fl : Floret} {f a : Nat} {m : Mma} {r : Arr}

/-- Of an array: its cycle, its orientation, its last valid issue, the tiles used, the wavefronts in flight and the accumulators. -/
structure Flow where
  cyc : Nat
  cross : Bool
  lastIssue : Nat
  used : Nat
  waves : List Wave
  acc : SMap W32

def Arr.flow (r : Arr) : Flow := ⟨r.cyc, r.cross, r.lastIssue, r.used, r.waves, r.acc⟩

/-- The flow of each array of a floret. -/
def Floret.flow (fl : Floret) (a : Nat) : Flow := (fl.arr a).flow

/-! Operations that leave the flow of every array. -/

/-- A fold leaves what none of its steps changes. -/
theorem foldl_keeps {α β γ : Type} {p : β → γ} {g : β → α → β} {xs : List α} {b : β} (h : ∀ b x, p (g b x) = p b) :
    p (xs.foldl g b) = p b := by
  induction xs generalizing b with
  | nil => rfl
  | cons x xs ih => exact ih.trans (h b x)

@[simp] theorem Floret.flow_setArr : (fl.setArr a r).flow a = r.flow := congrArg Arr.flow SMap.get_put_same

theorem Floret.flow_modArr {g : Arr → Arr} {b : Nat} (h : ∀ r, (g r).flow = r.flow) : (fl.modArr b g).flow = fl.flow := by
  funext a
  by_cases hab : a = b
  · subst hab
    exact Floret.flow_setArr.trans (h _)
  · exact congrArg Arr.flow (SMap.get_put_ne hab)

theorem Arr.flow_latch {n : Nat} : (r.latch n).flow = r.flow := foldl_keeps (p := Arr.flow) fun _ _ => rfl

theorem Floret.flow_openDrain {n : Nat} : (fl.openDrain n).flow = fl.flow := by
  unfold Floret.openDrain
  split
  · rfl
  · have hlatch : ((List.range 4).foldl (fun fl a => fl.modArr a (fun r => r.latch n)) fl).flow = fl.flow :=
      foldl_keeps (p := Floret.flow) fun _ _ => Floret.flow_modArr fun _ => Arr.flow_latch
    generalize (List.range 4).foldl (fun fl a => fl.modArr a (fun r => r.latch n)) fl = gl at *
    exact hlatch

@[simp] theorem Floret.flow_setTally {i : Nat} {x : W32} : (fl.setTally i x).flow = fl.flow := rfl

theorem Floret.flow_closeTile {n : Nat} {pair : Bool} : (fl.closeTile n pair).flow = fl.flow := by
  unfold Floret.closeTile
  dsimp only
  rw [Floret.flow_setTally]
  split
  · rw [Floret.flow_openDrain, Floret.flow_openDrain]
  · exact Floret.flow_openDrain

theorem Floret.flow_checkClose : fl.checkClose.flow = fl.flow := foldl_keeps (p := Floret.flow) fun _ _ => Floret.flow_closeTile

/-- Closing the tiles that are complete and dropping the MMAs that are done. -/
@[simp] theorem Floret.flow_tidied : fl.checkClose.dropJobs.flow = fl.flow := Floret.flow_checkClose

/-! The floret of a state after operations on registers. -/

theorem State.fl_of_frame {ps : List Piece} (h : Frame ps s t) (hp : ps.contains .fls = false) (n : Nat) : t.fl n = s.fl n := by
  unfold State.fl
  rw [h .fls hp]

@[simp] theorem State.fl_addReg {b : Blk} {n o v : Nat} : (s.addReg b n o v).fl f = s.fl f :=
  State.fl_of_frame State.addReg_frame rfl f
@[simp] theorem State.fl_orReg {b : Blk} {n o : Nat} {v : W32} : (s.orReg b n o v).fl f = s.fl f :=
  State.fl_of_frame State.orReg_frame rfl f
@[simp] theorem State.fl_sticky {b : Blk} {n o i : Nat} {e : Option Nat} : (s.sticky b n o i e).fl f = s.fl f :=
  State.fl_of_frame State.sticky_frame rfl f
@[simp] theorem State.fl_fpFlags {n : Nat} {x : W32} : (s.fpFlags n x).fl f = s.fl f := State.fl_of_frame State.fpFlags_frame rfl f
@[simp] theorem State.fl_scaleMm {n c : Nat} : (s.scaleMm n c).fl f = s.fl f := State.fl_of_frame State.scaleMm_frame rfl f

@[simp] theorem State.flow_setFl : ((s.setFl f fl).fl f).flow = fl.flow := congrArg Floret.flow (s.fl_setFl f fl)
@[simp] theorem State.flow_addReg {b : Blk} {n o v : Nat} : ((s.addReg b n o v).fl f).flow = (s.fl f).flow :=
  congrArg Floret.flow State.fl_addReg

theorem State.reg_addReg_one {b : Blk} {n o : Nat} : (s.addReg b n o 1).reg b n o = s.reg b n o + 1 := State.reg_setReg ..

/-! The skip of an MMA at a DONE feed (R150). -/

theorem Floret.flow_unassign : (fl.unassign m).flow = fl.flow := by
  unfold Floret.unassign
  split
  · rfl
  · dsimp only
    split <;> rfl

/-- The skip changes no array's flow, and of the registers FL_SQ_STAT at most. -/
theorem State.mxSkip_cases : s.mxSkip f = s ∨
    ∃ x, x.flow = (s.fl f).flow ∧ s.mxSkip f = (s.setFl f x).orReg .fl f Off.sqStat 0x10 := by
  unfold State.mxSkip
  dsimp only
  split
  · exact .inl rfl
  · split
    · exact .inl rfl
    · refine .inr ⟨_, ?_, rfl⟩
      refine (foldl_keeps (p := Floret.flow) fun _ _ => ?_).trans ?_
      · exact Floret.flow_modArr fun _ => rfl
      · exact Floret.flow_unassign

@[simp] theorem State.flow_mxSkip : ((s.mxSkip f).fl f).flow = (s.fl f).flow := by
  obtain h | ⟨x, hx, h⟩ := State.mxSkip_cases (s := s) (f := f) <;> rw [h]
  rwa [State.fl_orReg, State.fl_setFl]

theorem State.reg_mxSkip {b : Blk} {n o : Nat} (ho : o < 4096) (hne : o ≠ Off.sqStat) : (s.mxSkip f).reg b n o = s.reg b n o := by
  obtain h | ⟨x, _, h⟩ := State.mxSkip_cases (s := s) (f := f) <;> rw [h]
  exact State.reg_orReg_ne ho (by decide) hne

theorem State.mxSkip_of_noSkip (h : NoSkip (s.fl f)) : s.mxSkip f = s := by
  unfold State.mxSkip
  dsimp only
  split
  · rfl
  · next m hm =>
    refine if_pos ?_
    obtain hany | hlive := h m hm
    · rw [hany, Bool.true_or]
    · rw [Bool.or_eq_true, bne_iff_ne]
      exact .inr hlive

/-! The feeder goes on (R27, R160). -/

theorem Floret.flow_nextTile : (fl.nextTile a m).flow a = { fl.flow a with used := (fl.flow a).used + 1 } := by
  unfold Floret.nextTile
  dsimp only
  split
  · rw [Floret.flow_tidied]
    exact Floret.flow_setArr
  · exact Floret.flow_setArr

/-- With the last wavefront of its tile passed on, the tile is used. -/
def Flow.passed (F : Flow) (last : Bool) : Flow := { F with used := if last then F.used + 1 else F.used }

theorem Floret.flow_passed {last : Bool} : (fl.passed a m last).flow a = (fl.flow a).passed last := by
  have hmod : ((fl.modArr a (fun r => { r with iWave := r.iWave + 1 })).setJob { m with any := true }).flow = fl.flow :=
    Floret.flow_modArr (fl := fl) (g := fun r => { r with iWave := r.iWave + 1 }) fun _ => rfl
  cases last with
  | false => exact congrFun hmod a
  | true => exact Floret.flow_nextTile.trans (by rw [hmod]; rfl)

end Sys2Proof.Machine

namespace Sys2Proof.Claims
open Sys2Proof.Machine

variable {s t u : State} {f a : Nat}

/-! Only the floret itself changes. -/

namespace OnlyFl

theorem refl : OnlyFl f s s := fun _ _ => rfl

theorem trans (h : OnlyFl f s t) (k : OnlyFl f t u) : OnlyFl f s u := fun n hn => (k n hn).trans (h n hn)

theorem setFl {x : Floret} : OnlyFl f s (s.setFl f x) := fun _ hn => s.fl_setFl_ne x hn

theorem frame {ps : List Piece} (k : OnlyFl f s t) (h : Frame ps t u) (hp : ps.contains .fls = false) : OnlyFl f s u :=
  k.trans fun n _ => State.fl_of_frame h hp n

theorem ite {c : Prop} [Decidable c] {x y : State} (hx : OnlyFl f s x) (hy : OnlyFl f s y) : OnlyFl f s (if c then x else y) := by
  split
  · exact hx
  · exact hy

end OnlyFl

theorem mxSkip_onlyFl : OnlyFl f s (s.mxSkip f) := by
  obtain h | ⟨x, _, h⟩ := State.mxSkip_cases (s := s) (f := f) <;> rw [h]
  · exact .refl
  · exact OnlyFl.setFl.frame State.orReg_frame rfl

theorem arrCycle_onlyFl : OnlyFl f s (s.arrCycle f a) := .setFl

theorem bubble_onlyFl : OnlyFl f s (s.bubble f a) := OnlyFl.setFl.frame State.addReg_frame rfl

section
variable {m : Mma} {sl : Slot} {st : List Int} {words : List Nat} {row rows half : Nat} {last : Bool}

theorem issueWave_onlyFl : OnlyFl f s (s.issueWave f a m sl st words row rows half last) :=
  .ite .setFl (OnlyFl.setFl.frame State.fpFlags_frame rfl)

theorem strictRow_onlyFl : OnlyFl f s (s.strictRow f a m sl st words row last) :=
  .ite .setFl ((OnlyFl.setFl.frame State.fpFlags_frame rfl).frame State.scaleMm_frame rfl)

end

theorem arrayStep_onlyFl : OnlyFl f s (s.arrayStep f a) := by
  unfold State.arrayStep
  dsimp only
  refine .ite (OnlyFl.refl.frame State.addReg_frame rfl) (.ite .refl ?_)
  split
  · exact .ite arrCycle_onlyFl .refl
  · split
    · exact .ite (.ite arrCycle_onlyFl .refl) bubble_onlyFl
    · exact .setFl
    · exact .ite (.ite arrCycle_onlyFl (.ite .refl strictRow_onlyFl))
        (.ite (arrCycle_onlyFl.frame State.addReg_frame rfl) issueWave_onlyFl)

theorem addResult_onlyFl {w : Wave} : OnlyFl f s (s.addResult f a w) := by
  obtain ⟨rl, cl, n, heq⟩ := State.addResult_eq (s := s) (f := f) (a := a) (w := w)
  have hset := fun x y => (OnlyFl.setFl (s := s) (f := f) (x := x)).frame (State.fpFlags_frame (n := f) (f := y)) rfl
  rw [heq]
  exact (OnlyFl.ite ((hset _ _).frame State.sticky_frame rfl) (hset _ _)).frame State.scaleMm_frame rfl

end Sys2Proof.Claims
end

section
/-! SUPPORT. One cycle of an array (R27, R33 to R36, R44, R46, R61): which step the feeder takes, and what the step leaves of the flow. -/

namespace Sys2Proof.Machine
open Sys2Proof.Claims

variable {s : State} {fl : Floret} {f a : Nat} {m : Mma} {sl : Slot} {st : List Int} {words : List Nat} {row rows half : Nat} {last : Bool}

/-! Steps without an issue. -/

theorem State.flow_arrCycle : ((s.arrCycle f a).fl f).flow a =
    { (s.fl f).flow a with cyc := ((s.fl f).arr a).cyc + 1, waves := stillIn ((s.fl f).arr a) } := by
  unfold State.arrCycle State.modFl
  rw [State.flow_setFl, Floret.flow_tidied]
  exact Floret.flow_setArr

theorem State.flow_bubble : ((s.bubble f a).fl f).flow a =
    { (s.fl f).flow a with
      cyc := ((s.fl f).arr a).cyc + 1, waves := stillIn ((s.fl f).arr a) ++ [((s.fl f).arr a).tag false] } := by
  unfold State.bubble State.modFl
  rw [State.flow_addReg, State.flow_setFl, Floret.flow_tidied]
  exact Floret.flow_setArr

/-! A wavefront's issue. -/

/-- The tag of the wavefront that the feeder issues, its block data aside. -/
def Floret.waveTag (fl : Floret) (a : Nat) (m : Mma) (sl : Slot) (row rows half : Nat) : Wave :=
  { (fl.arr a).tag (Tile.rowMask m.word sl row rows != 0) with
    half := half, rowMask := Tile.rowMask m.word sl row rows, isF := Tile.isF m.word
    init := waveInit m.word (fl.arr a).iTile half, acc := Tile.accIx m.word, pair := Tile.cross m.word, jid := m.jid }

/-- A wavefront with a valid row: its tag, its results and its scale words. -/
def Floret.waveOf (fl : Floret) (a : Nat) (m : Mma) (sl : Slot) (st : List Int) (words : List Nat) (row rows half : Nat) : Wave :=
  { fl.waveTag a m sl row rows half with
    res := (waveRes m.word sl st (Tile.src m.word a (fl.arr a).iTile).k0 row rows half).1
    rows := Tile.rowWords m.word fl.c6 sl row rows, cols := allCols m.word words half }

theorem State.issueWave_masked (h : Tile.rowMask m.word sl row rows = 0) :
    s.issueWave f a m sl st words row rows half last =
      s.setFl f ((((s.fl f).setArr a (((s.fl f).arr a).issueEmpty
        ((s.fl f).waveTag a m sl row rows half))).passed a m last).checkClose.dropJobs) :=
  if_pos h

theorem State.issueWave_valid (h : Tile.rowMask m.word sl row rows ≠ 0) : ∃ r' x,
    r'.flow = { (s.fl f).flow a with
      cyc := ((s.fl f).arr a).cyc + 1, cross := Tile.cross m.word, lastIssue := ((s.fl f).arr a).cyc + 1
      waves := stillIn ((s.fl f).arr a) ++ [(s.fl f).waveOf a m sl st words row rows half] } ∧
    s.issueWave f a m sl st words row rows half last =
      (s.setFl f ((((s.fl f).setArr a r').passed a m last).checkClose.dropJobs)).fpFlags f x := by
  refine ⟨_, _, ?_, if_neg h⟩
  rfl

/-- What the feeder leaves of the flow when the floret takes array `r'` and the wavefront is passed on. -/
theorem Floret.flow_passed_tidied {r' : Arr} :
    (((fl.setArr a r').passed a m last).checkClose.dropJobs).flow a = r'.flow.passed last := by
  rw [Floret.flow_tidied, Floret.flow_passed, Floret.flow_setArr]

theorem State.flow_issueWave_masked (h : Tile.rowMask m.word sl row rows = 0) :
    ((s.issueWave f a m sl st words row rows half last).fl f).flow a = Flow.passed { (s.fl f).flow a with
      cyc := ((s.fl f).arr a).cyc + 1
      waves := stillIn ((s.fl f).arr a) ++ [(s.fl f).waveTag a m sl row rows half] } last := by
  rw [State.issueWave_masked h, State.flow_setFl]
  exact Floret.flow_passed_tidied

theorem State.flow_issueWave_valid (h : Tile.rowMask m.word sl row rows ≠ 0) :
    ((s.issueWave f a m sl st words row rows half last).fl f).flow a = Flow.passed { (s.fl f).flow a with
      cyc := ((s.fl f).arr a).cyc + 1, cross := Tile.cross m.word, lastIssue := ((s.fl f).arr a).cyc + 1
      waves := stillIn ((s.fl f).arr a) ++ [(s.fl f).waveOf a m sl st words row rows half] } last := by
  obtain ⟨r', x, hr, heq⟩ :=
    State.issueWave_valid (s := s) (f := f) (a := a) (st := st) (words := words) (half := half) (last := last) h
  rw [heq, State.fl_fpFlags, State.flow_setFl, Floret.flow_passed_tidied, hr]

/-! A strict row (R61). -/

/-- One element of a strict row, from its stored value or, with INIT, from +0. -/
def strictNext (w : Nat) (sl : Slot) (st : List Int) (row : Nat) (init : Bool) (b : SMap W32 × W32) (n : Nat) : SMap W32 × W32 :=
  let k := Tile.accIx w * 1024 + row * 32 + n
  let x := Tile.strictElem w sl st row n (if init then 0 else SMap.get (0 : W32) b.1 k)
  (SMap.put (0 : W32) b.1 k x.1, b.2 ||| x.2)

/-- The accumulators after a strict row. -/
def strictAcc (w : Nat) (sl : Slot) (st : List Int) (row : Nat) (init : Bool) (acc : SMap W32) : SMap W32 :=
  ((List.range 32).foldl (strictNext w sl st row init) (acc, 0)).1

theorem strictAcc_own {w n : Nat} {init : Bool} {acc : SMap W32} (hn : n < 32) :
    SMap.get 0 (strictAcc w sl st row init acc) (Tile.accIx w * 1024 + row * 32 + n) =
      (Tile.strictElem w sl st row n (if init then 0 else SMap.get 0 acc (Tile.accIx w * 1024 + row * 32 + n))).1 :=
  SMap.get_foldl_own (d := (0 : W32)) (g := fun b : SMap W32 × W32 => b.1) (key := fun n => Tile.accIx w * 1024 + row * 32 + n)
    (v := fun n old => (Tile.strictElem w sl st row n (if init then 0 else old)).1) (f := strictNext w sl st row init) (fun _ _ => rfl)
    (List.nodup_range.map fun _ _ h => Nat.add_left_cancel h) (List.mem_range.mpr hn)

theorem strictAcc_other {w k : Nat} {init : Bool} {acc : SMap W32} (hk : ∀ n, n < 32 → k ≠ Tile.accIx w * 1024 + row * 32 + n) :
    SMap.get 0 (strictAcc w sl st row init acc) k = SMap.get 0 acc k := by
  refine SMap.get_foldl_other (d := (0 : W32)) (g := fun b : SMap W32 × W32 => b.1) (key := fun n => Tile.accIx w * 1024 + row * 32 + n)
    (v := fun n old => (Tile.strictElem w sl st row n (if init then 0 else old)).1) (f := strictNext w sl st row init) (fun _ _ => rfl) ?_
  rw [List.mem_map]
  rintro ⟨n, hn, he⟩
  exact hk n (List.mem_range.mp hn) he.symm

theorem State.strictRow_masked (h : Tile.rowValid m.word sl row = false) :
    s.strictRow f a m sl st words row last =
      s.setFl f (((s.fl f).setArr a { (s.fl f).arr a with cyc := ((s.fl f).arr a).cyc + 1 }).passed a m last) :=
  if_pos (by rw [h]; rfl)

theorem State.strictRow_valid (h : Tile.rowValid m.word sl row = true) : ∃ r' x n,
    r'.flow = { (s.fl f).flow a with
      cyc := ((s.fl f).arr a).cyc + 1
      acc := strictAcc m.word sl st row (waveInit m.word ((s.fl f).arr a).iTile 0) ((s.fl f).arr a).acc } ∧
    s.strictRow f a m sl st words row last = ((s.setFl f (((s.fl f).setArr a r').passed a m last)).fpFlags f x).scaleMm f n := by
  refine ⟨_, _, _, ?_, if_neg (by rw [h]; decide)⟩
  rfl

theorem State.flow_strictRow_masked (h : Tile.rowValid m.word sl row = false) :
    ((s.strictRow f a m sl st words row last).fl f).flow a =
      Flow.passed { (s.fl f).flow a with cyc := ((s.fl f).arr a).cyc + 1 } last := by
  rw [State.strictRow_masked h, State.flow_setFl, Floret.flow_passed, Floret.flow_setArr]
  rfl

theorem State.flow_strictRow_valid (h : Tile.rowValid m.word sl row = true) :
    ((s.strictRow f a m sl st words row last).fl f).flow a = Flow.passed { (s.fl f).flow a with
      cyc := ((s.fl f).arr a).cyc + 1
      acc := strictAcc m.word sl st row (waveInit m.word ((s.fl f).arr a).iTile 0) ((s.fl f).arr a).acc } last := by
  obtain ⟨r', x, c, hr, heq⟩ := State.strictRow_valid (s := s) (f := f) (a := a) (st := st) (words := words) (last := last) h
  rw [heq, State.fl_scaleMm, State.fl_fpFlags, State.flow_setFl, Floret.flow_passed, Floret.flow_setArr, hr]

/-! Which step a cycle is. -/

/-- The array is about to turn, within 18 cycles of its last valid wavefront (R33). -/
def Turns (r : Arr) (m : Mma) : Prop := Tile.cross m.word ≠ r.cross ∧ r.lastIssue ≠ 0 ∧ r.cyc + 1 < r.lastIssue + 18

theorem State.arrayStep_frozen (h : (s.fl f).frozen a = true) : s.arrayStep f a = s.addReg .fl f Off.mxFreeze 1 := if_pos h

theorem Floret.filter_of_working (h : working fl a m) : (fl.job (fl.arr a).iJob).filter (fun m => bitN m.started a) = some m := by
  obtain ⟨hjob, hstart⟩ := h
  rw [hjob, Option.filter_some, if_pos hstart]

section Advancing
variable (hadv : canAdvance (s.fl f) a) (hwork : working (s.fl f) a m)
include hadv hwork

theorem State.arrayStep_notReady (hstrict : (Tile.isF m.word && (s.fl f).strict) = false) (hlook : (s.fl f).look a m = .notReady) :
    s.arrayStep f a = s.bubble f a := by
  obtain ⟨hfrozen, hdue⟩ := hadv
  simp [State.arrayStep, hfrozen, hdue, Floret.filter_of_working hwork, hlook, hstrict]

theorem State.arrayStep_empty (hlook : (s.fl f).look a m = .empty) : s.arrayStep f a = s.setFl f ((s.fl f).nextTile a m) := by
  obtain ⟨hfrozen, hdue⟩ := hadv
  simp [State.arrayStep, hfrozen, hdue, Floret.filter_of_working hwork, hlook]

section
variable (hlook : (s.fl f).look a m = .wave sl st words row rows half last)
include hlook

theorem State.arrayStep_turns (hstrict : (Tile.isF m.word && (s.fl f).strict) = false) (hmask : Tile.rowMask m.word sl row rows ≠ 0)
    (hturn : Turns ((s.fl f).arr a) m) :
    s.arrayStep f a = (s.arrCycle f a).addReg .fl f Off.mxOrient 1 := by
  obtain ⟨hfrozen, hdue⟩ := hadv
  obtain ⟨hcross, hissued, hsoon⟩ := hturn
  simp [State.arrayStep, hfrozen, hdue, Floret.filter_of_working hwork, hlook, hstrict, hmask, hcross, hissued, hsoon]

theorem State.arrayStep_issues (hstrict : (Tile.isF m.word && (s.fl f).strict) = false)
    (hgo : Tile.rowMask m.word sl row rows = 0 ∨ ¬ Turns ((s.fl f).arr a) m) :
    s.arrayStep f a = s.issueWave f a m sl st words row rows half last := by
  obtain ⟨hfrozen, hdue⟩ := hadv
  have hno : (Tile.rowMask m.word sl row rows != 0 && Tile.cross m.word != ((s.fl f).arr a).cross &&
      decide (((s.fl f).arr a).lastIssue ≠ 0) && decide (((s.fl f).arr a).cyc + 1 < ((s.fl f).arr a).lastIssue + 18)) = false := by
    rw [Bool.eq_false_iff]
    simp only [ne_eq, Bool.and_eq_true, bne_iff_ne, decide_eq_true_eq]
    unfold Turns at hgo
    tauto
  simp only [State.arrayStep, hfrozen, hdue, Floret.filter_of_working hwork, hlook, hstrict, hno, Bool.false_eq_true, if_false]

theorem State.arrayStep_strict (hstrict : (Tile.isF m.word && (s.fl f).strict) = true)
    (hidle : ((s.fl f).arr a).waves.any (·.valid) = false)
    (hdrained : (s.fl f).undrained (Tile.accIx m.word) row = false) :
    s.arrayStep f a = s.strictRow f a m sl st words row last := by
  obtain ⟨hfrozen, hdue⟩ := hadv
  have hflow : ((s.fl f).arr a).flowing = false := hidle
  simp [State.arrayStep, hfrozen, hdue, Floret.filter_of_working hwork, hlook, hstrict, hflow, hdrained]

end
end Advancing

end Sys2Proof.Machine
end

section
/-! SUPPORT. The results of an integer wavefront in NORMAL (R24 to R26, R30, R31): the dot products of its valid rows. -/

namespace Sys2Proof.Claims
open Sys2Proof.Machine

variable {w half rows row k0 j : Nat} {sl : Slot} {st : List Int} {fl : Floret}

/-- Only INT8 × INT4 wavefronts come in halves, 0 and 1 (R30). -/
theorem half_lt_of_mem_wavefronts (h : (row, rows, half) ∈ Tile.wavefronts w sl) : half < 2 := by
  obtain ⟨q, -, hq⟩ := List.mem_flatMap.mp h
  split at hq
  · obtain ⟨x, -, hx⟩ := List.mem_map.mp hq
    cases hx
    decide
  · split at hq
    · obtain hx | hx := List.mem_pair.mp hq <;> cases hx <;> decide
    · cases List.mem_singleton.mp hq
      decide

theorem half_lt_of_look {a : Nat} {m : Mma} {words : List Nat} {last : Bool}
    (h : fl.look a m = .wave sl st words row rows half last) : half < 2 := by
  unfold Floret.look at h
  dsimp only at h
  split at h
  · cases h
  · split at h
    · split at h
      · cases h
      · next hget =>
        split at h
        · cases h
        · cases h
          exact half_lt_of_mem_wavefronts (List.mem_of_getElem? hget)
    · cases h

/-- The K indices of a half, in the order in which the model takes them. -/
theorem halfKs_eq (hh : half < 2) :
    Tile.halfKs w half = (List.range (Tile.tileK w)).filter (fun k => Tile.mode w ≠ 2 || k % 8 / 4 = half) := by
  unfold Tile.halfKs Tile.tileK Tile.stat4
  by_cases hm : Tile.mode w = 2
  · obtain rfl | rfl : half = 0 ∨ half = 1 := by omega
    all_goals
      rw [hm]
      rfl
  · rw [if_neg (by rwa [beq_iff_eq])]
    exact (List.filter_eq_self.mpr fun k _ => by simp [hm]).symm

theorem sumI_eq_dot {r c : Nat} (hh : half < 2) :
    Tile.sumI ((Tile.halfKs w half).map fun kk => Tile.act w sl r (k0 + kk) * Tile.stElem st kk c) = dot w sl st k0 half r c := by
  unfold dot
  rw [halfKs_eq hh, List.sum_eq_foldl]
  rfl

theorem mem_intNormal {u : Upd} (hh : half < 2) : u ∈ Tile.intNormal w sl st k0 row rows half j ↔
    ∃ x y, x < rows ∧ y < 4 ∧ Tile.rowValid w sl (row + x) = true ∧
      u = ⟨Tile.accIx w, row + x, 4 * j + y, dot w sl st k0 half (row + x) (4 * j + y)⟩ := by
  unfold Tile.intNormal
  simp only [sumI_eq_dot hh, List.mem_flatMap, List.mem_filter, List.mem_map, List.mem_range]
  constructor
  · rintro ⟨x, ⟨hx, hv⟩, y, hy, rfl⟩
    exact ⟨x, y, hx, hy, hv, rfl⟩
  · rintro ⟨x, y, hx, hy, hv, rfl⟩
    exact ⟨x, ⟨hx, hv⟩, y, hy, rfl⟩

theorem foldl_append_singleton {β γ : Type} {g : Nat → β} {c : γ} {ys : List β} {xs : List Nat} :
    xs.foldl (fun acc j => (acc.1 ++ [g j], acc.2)) (ys, c) = (ys ++ xs.map g, c) := by
  induction xs generalizing ys with
  | nil => rw [List.map_nil, List.append_nil]; rfl
  | cons x xs ih => rw [List.foldl_cons, ih, List.append_assoc]; rfl

/-- In NORMAL an integer wavefront has one list of results for each of the eight column groups. -/
theorem waveRes_normal (hF : Tile.isF w = false) (hC : Tile.cross w = false) (hj : j < 8) :
    (waveRes w sl st k0 row rows half).1.getD j [] = Tile.intNormal w sl st k0 row rows half j := by
  unfold waveRes
  simp only [hF, hC, Bool.false_eq_true, if_false, foldl_append_singleton, List.nil_append]
  simp [List.getD_eq_getElem?_getD, hj]

end Sys2Proof.Claims
end

section
/-! SUPPORT. The two commands of an array's cycle (R27, R28, R33 to R36, R40, R42 to R44, R46, R61): what each leaves. -/

namespace Sys2Proof.Machine
open Sys2Proof.Claims

variable {s : State} {f : FloretId} {a : ArrayId} {j : Fin8} {w : Wave}

theorem wavefrontIssue_step (hon : s.flOn f.val = true) :
    exec (.wavefrontIssue f a) s = .next ((s.arrayStep f.val a.val).mxSkip f.val) := by
  show execWavefrontIssue f a s = _
  unfold execWavefrontIssue
  rw [if_pos hon]

/-- What a cycle leaves: of the array's flow and of the counters what its step leaves, and the other florets as they were. -/
theorem wavefrontIssue_leaves {x : State} {F : Flow} (hon : s.flOn f.val = true) (hstep : s.arrayStep f.val a.val = x)
    (hF : (x.fl f.val).flow a.val = F) : ∃ t, exec (.wavefrontIssue f a) s = .next t ∧ ((t.fl f.val).arr a.val).flow = F ∧
      OnlyFl f.val s t ∧ ∀ o, o < 4096 → o ≠ Off.sqStat → t.reg .fl f.val o = x.reg .fl f.val o := by
  subst hstep
  exact ⟨_, wavefrontIssue_step hon, (congrFun State.flow_mxSkip a.val).trans hF, arrayStep_onlyFl.trans mxSkip_onlyFl,
    fun _ => State.reg_mxSkip⟩

theorem accumulatorAdd_step (hon : s.flOn f.val = true)
    (hfind : ((s.fl f.val).arr a.val).waves.find? (fun x => x.valid && decide (x.next ≤ j.val)) = some w) (hnext : w.next = j.val)
    (hdue : w.due ((s.fl f.val).arr a.val).cyc = true) (hfree : (s.fl f.val).frozen a.val = false) :
    exec (.accumulatorAdd f a j) s = .next ((s.addResult f.val a.val w).mxSkip f.val) := by
  show execAccumulatorAdd f a j s = _
  simp [execAccumulatorAdd, hon, hfind, hnext, hdue, hfree]

theorem flow_addAll {isF init : Bool} {us : List Upd} {b : Arr × W32 × Bool} :
    (addAll isF init us b).1.flow = { b.1.flow with acc := (addAll isF init us b).1.acc } := by
  induction us generalizing b with
  | nil => rfl
  | cons u us ih => exact ih (b := addNext isF init b u)

theorem Arr.flow_withResult {r : Arr} {rl cl : SMap Nat} : (r.withResult w rl cl).flow =
    { r.flow with
      waves := r.flow.waves.map (fun x => if x.cyc = w.cyc then { w with next := w.next + 1, res := w.res.tail } else x) } := rfl

theorem State.flow_addResult {f a : Nat} : ((s.addResult f a w).fl f).flow a =
    { (s.fl f).flow a with
      waves := ((s.fl f).arr a).waves.map (fun x => if x.cyc = w.cyc then { w with next := w.next + 1, res := w.res.tail } else x)
      acc := (addAll w.isF w.init (w.res.headD []) ((s.fl f).arr a, 0, false)).1.acc } := by
  obtain ⟨rl, cl, n, heq⟩ := State.addResult_eq (s := s) (f := f) (a := a) (w := w)
  have hfl : (s.addResult f a w).fl f =
      (s.fl f).setArr a ((addAll w.isF w.init (w.res.headD []) ((s.fl f).arr a, 0, false)).1.withResult w rl cl) := by
    rw [heq, State.fl_scaleMm]
    split <;> simp only [State.fl_sticky, State.fl_fpFlags, State.fl_setFl]
  rw [hfl, Floret.flow_setArr, Arr.flow_withResult, flow_addAll]
  rfl

end Sys2Proof.Machine

namespace Sys2Proof.Claims
open Sys2Proof.Machine

variable {s : State} {f : FloretId} {a : ArrayId} {m : Mma}

/-! The add of a result. -/

theorem accumulatorAdd_adds {j : Fin8} {w : Wave} (hon : s.flOn f.val = true)
    (hfind : ((s.fl f.val).arr a.val).waves.find? (fun x => x.valid && decide (x.next ≤ j.val)) = some w) (hnext : w.next = j.val)
    (hdue : w.due ((s.fl f.val).arr a.val).cyc = true) (hfree : (s.fl f.val).frozen a.val = false)
    (hkeys : ((w.res.headD []).map accKey).Nodup) :
    ∃ t, exec (.accumulatorAdd f a j) s = .next t ∧
      (∀ u ∈ w.res.headD [], SMap.get (0 : W32) ((t.fl f.val).arr a.val).acc (accKey u) =
        added w.isF w.init (SMap.get (0 : W32) ((s.fl f.val).arr a.val).acc (accKey u)) u.val) ∧
      (∀ k, k ∉ (w.res.headD []).map accKey →
        SMap.get (0 : W32) ((t.fl f.val).arr a.val).acc k = SMap.get (0 : W32) ((s.fl f.val).arr a.val).acc k) ∧
      ((t.fl f.val).arr a.val).waves = ((s.fl f.val).arr a.val).waves.map
        (fun x => if x.cyc = w.cyc then { w with next := w.next + 1, res := w.res.tail } else x) ∧
      ((t.fl f.val).arr a.val).cyc = ((s.fl f.val).arr a.val).cyc ∧ OnlyFl f.val s t ∧ Frame [.fls, .regs, .hostOut] s t := by
  have hstep := accumulatorAdd_step hon hfind hnext hdue hfree
  have hF := (congrFun State.flow_mxSkip a.val).trans (State.flow_addResult (s := s) (f := f.val) (a := a.val) (w := w))
  have hacc := congrArg Flow.acc hF
  refine ⟨_, hstep, fun u hu => ?_, fun k hk => ?_, congrArg Flow.waves hF, congrArg Flow.cyc hF, addResult_onlyFl.trans mxSkip_onlyFl,
    (frame_of_next hstep execAccumulatorAdd_frame).mono rfl⟩
  · exact (congrArg (SMap.get 0 · (accKey u)) hacc).trans (addAll_acc_own hkeys hu)
  · exact (congrArg (SMap.get 0 · k) hacc).trans (addAll_acc_other hk)

/-! The forms of a cycle. -/

variable (hon : s.flOn f.val = true)
include hon

theorem wavefrontIssue_frozen (hfrozen : (s.fl f.val).frozen a.val = true) : ∃ t, exec (.wavefrontIssue f a) s = .next t ∧
    t.reg .fl f.val Off.mxFreeze = s.reg .fl f.val Off.mxFreeze + 1 ∧
    ((t.fl f.val).arr a.val).cyc = ((s.fl f.val).arr a.val).cyc ∧ ((t.fl f.val).arr a.val).waves = ((s.fl f.val).arr a.val).waves ∧
    ((t.fl f.val).arr a.val).acc = ((s.fl f.val).arr a.val).acc ∧ OnlyFl f.val s t ∧
    (NoSkip (s.fl f.val) → t.fl f.val = s.fl f.val) := by
  have hstep := State.arrayStep_frozen hfrozen
  obtain ⟨t, ht, hF, honly, hreg⟩ := wavefrontIssue_leaves hon hstep (congrFun State.flow_addReg a.val)
  refine ⟨t, ht, ?_, congrArg Flow.cyc hF, congrArg Flow.waves hF, congrArg Flow.acc hF, honly, fun hskip => ?_⟩
  · exact (hreg _ (by decide) (by decide)).trans State.reg_addReg_one
  · have hrun := (wavefrontIssue_step (a := a) hon).symm.trans ht
    rw [hstep, State.mxSkip_of_noSkip (by rwa [State.fl_addReg])] at hrun
    cases hrun
    exact State.fl_addReg

section Advancing
variable (hadv : canAdvance (s.fl f.val) a.val) (hwork : working (s.fl f.val) a.val m)
include hadv hwork

theorem wavefrontIssue_bubble (hstrict : (Tile.isF m.word && (s.fl f.val).strict) = false)
    (hlook : (s.fl f.val).look a.val m = .notReady) : ∃ t, exec (.wavefrontIssue f a) s = .next t ∧
      t.reg .fl f.val Off.mxBubble = s.reg .fl f.val Off.mxBubble + 1 ∧
      ((t.fl f.val).arr a.val).cyc = ((s.fl f.val).arr a.val).cyc + 1 ∧
      (∃ w, ((t.fl f.val).arr a.val).waves = stillIn ((s.fl f.val).arr a.val) ++ [w] ∧ w.valid = false ∧
        w.cyc = ((s.fl f.val).arr a.val).cyc) ∧
      ((t.fl f.val).arr a.val).acc = ((s.fl f.val).arr a.val).acc ∧ OnlyFl f.val s t := by
  obtain ⟨t, ht, hF, honly, hreg⟩ :=
    wavefrontIssue_leaves hon (State.arrayStep_notReady hadv hwork hstrict hlook) State.flow_bubble
  exact ⟨t, ht, (hreg _ (by decide) (by decide)).trans State.reg_addReg_one, congrArg Flow.cyc hF,
    ⟨_, congrArg Flow.waves hF, rfl, rfl⟩, congrArg Flow.acc hF, honly⟩

theorem wavefrontIssue_passes_over (hlook : (s.fl f.val).look a.val m = .empty) : ∃ t, exec (.wavefrontIssue f a) s = .next t ∧
    ((t.fl f.val).arr a.val).cyc = ((s.fl f.val).arr a.val).cyc ∧ ((t.fl f.val).arr a.val).waves = ((s.fl f.val).arr a.val).waves ∧
    ((t.fl f.val).arr a.val).used = ((s.fl f.val).arr a.val).used + 1 ∧
    ((t.fl f.val).arr a.val).acc = ((s.fl f.val).arr a.val).acc ∧ OnlyFl f.val s t := by
  obtain ⟨t, ht, hF, honly, -⟩ := wavefrontIssue_leaves hon (State.arrayStep_empty hadv hwork hlook)
    ((congrFun State.flow_setFl a.val).trans Floret.flow_nextTile)
  exact ⟨t, ht, congrArg Flow.cyc hF, congrArg Flow.waves hF, congrArg Flow.used hF, congrArg Flow.acc hF, honly⟩

section Ready
variable {sl : Slot} {st : List Int} {words : List Nat} {row rows half : Nat} {last : Bool}
  (hlook : (s.fl f.val).look a.val m = .wave sl st words row rows half last)
include hlook

section Streamed
variable (hstrict : (Tile.isF m.word && (s.fl f.val).strict) = false)
include hstrict

theorem wavefrontIssue_turns (hmask : Tile.rowMask m.word sl row rows ≠ 0) (hturn : Turns ((s.fl f.val).arr a.val) m) :
    ∃ t, exec (.wavefrontIssue f a) s = .next t ∧ t.reg .fl f.val Off.mxOrient = s.reg .fl f.val Off.mxOrient + 1 ∧
      ((t.fl f.val).arr a.val).cyc = ((s.fl f.val).arr a.val).cyc + 1 ∧
      ((t.fl f.val).arr a.val).waves = stillIn ((s.fl f.val).arr a.val) ∧
      ((t.fl f.val).arr a.val).acc = ((s.fl f.val).arr a.val).acc ∧ OnlyFl f.val s t := by
  obtain ⟨t, ht, hF, honly, hreg⟩ := wavefrontIssue_leaves hon (State.arrayStep_turns hadv hwork hlook hstrict hmask hturn)
    ((congrFun State.flow_addReg a.val).trans State.flow_arrCycle)
  exact ⟨t, ht, (hreg _ (by decide) (by decide)).trans State.reg_addReg_one, congrArg Flow.cyc hF, congrArg Flow.waves hF,
    congrArg Flow.acc hF, honly⟩

theorem wavefrontIssue_valid (hmask : Tile.rowMask m.word sl row rows ≠ 0) (hturn : ¬ Turns ((s.fl f.val).arr a.val) m) :
    ∃ t, exec (.wavefrontIssue f a) s = .next t ∧ ((t.fl f.val).arr a.val).cyc = ((s.fl f.val).arr a.val).cyc + 1 ∧
      ((t.fl f.val).arr a.val).lastIssue = ((s.fl f.val).arr a.val).cyc + 1 ∧ ((t.fl f.val).arr a.val).cross = Tile.cross m.word ∧
      ((t.fl f.val).arr a.val).waves = stillIn ((s.fl f.val).arr a.val) ++ [(s.fl f.val).waveOf a.val m sl st words row rows half] ∧
      ((t.fl f.val).arr a.val).acc = ((s.fl f.val).arr a.val).acc ∧ OnlyFl f.val s t := by
  obtain ⟨t, ht, hF, honly, -⟩ := wavefrontIssue_leaves hon (State.arrayStep_issues hadv hwork hlook hstrict (.inr hturn))
    (State.flow_issueWave_valid hmask)
  exact ⟨t, ht, congrArg Flow.cyc hF, congrArg Flow.lastIssue hF, congrArg Flow.cross hF, congrArg Flow.waves hF,
    congrArg Flow.acc hF, honly⟩

theorem wavefrontIssue_masked (hmask : Tile.rowMask m.word sl row rows = 0) :
    ∃ t w, exec (.wavefrontIssue f a) s = .next t ∧ ((t.fl f.val).arr a.val).cyc = ((s.fl f.val).arr a.val).cyc + 1 ∧
      ((t.fl f.val).arr a.val).lastIssue = ((s.fl f.val).arr a.val).lastIssue ∧
      ((t.fl f.val).arr a.val).waves = stillIn ((s.fl f.val).arr a.val) ++ [w] ∧ w.valid = false ∧
      w.cyc = ((s.fl f.val).arr a.val).cyc ∧ ((t.fl f.val).arr a.val).acc = ((s.fl f.val).arr a.val).acc ∧ OnlyFl f.val s t := by
  obtain ⟨t, ht, hF, honly, -⟩ := wavefrontIssue_leaves hon (State.arrayStep_issues hadv hwork hlook hstrict (.inl hmask))
    (State.flow_issueWave_masked hmask)
  exact ⟨t, _, ht, congrArg Flow.cyc hF, congrArg Flow.lastIssue hF, congrArg Flow.waves hF, bne_eq_false_iff_eq.mpr hmask, rfl,
    congrArg Flow.acc hF, honly⟩

end Streamed

section Strict
variable (hstrict : (Tile.isF m.word && (s.fl f.val).strict) = true) (hidle : ((s.fl f.val).arr a.val).waves.any (·.valid) = false)
  (hdrained : (s.fl f.val).undrained (Tile.accIx m.word) row = false)
include hstrict hidle hdrained

/-- With STRICT set: the row that is valid takes its elements' new values, the masked one changes nothing. -/
theorem wavefrontIssue_strict : ∃ t, exec (.wavefrontIssue f a) s = .next t ∧
    ((t.fl f.val).arr a.val).cyc = ((s.fl f.val).arr a.val).cyc + 1 ∧ ((t.fl f.val).arr a.val).waves = ((s.fl f.val).arr a.val).waves ∧
    OnlyFl f.val s t ∧ ((t.fl f.val).arr a.val).acc = if Tile.rowValid m.word sl row then
        strictAcc m.word sl st row (waveInit m.word ((s.fl f.val).arr a.val).iTile 0) ((s.fl f.val).arr a.val).acc
      else ((s.fl f.val).arr a.val).acc := by
  have hstep := State.arrayStep_strict hadv hwork hlook hstrict hidle hdrained
  cases hvalid : Tile.rowValid m.word sl row with
  | true =>
    obtain ⟨t, ht, hF, honly, -⟩ := wavefrontIssue_leaves hon hstep (State.flow_strictRow_valid hvalid)
    exact ⟨t, ht, congrArg Flow.cyc hF, congrArg Flow.waves hF, honly, congrArg Flow.acc hF⟩
  | false =>
    obtain ⟨t, ht, hF, honly, -⟩ := wavefrontIssue_leaves hon hstep (State.flow_strictRow_masked hvalid)
    exact ⟨t, ht, congrArg Flow.cyc hF, congrArg Flow.waves hF, honly, congrArg Flow.acc hF⟩

end Strict
end Ready
end Advancing

end Sys2Proof.Claims
end

section
/-! SUPPORT. Wavefronts issue and accumulate: O20. -/

open Sys2Proof Sys2Proof.Machine Sys2Proof.Claims

/-- Settles O20: each form of a cycle, and the add of a result, by the lemma that says what it leaves; the results of an integer
wavefront in NORMAL are its dot products, and a strict row changes its own 32 elements. -/
theorem wavefrontsIssueAndAccumulate : Obligations.WavefrontsIssueAndAccumulate := by
  unfold Obligations.WavefrontsIssueAndAccumulate
  refine ⟨fun f a s => ?_, fun f a j s w => accumulatorAdd_adds⟩
  intro fl r r' hon
  refine ⟨wavefrontIssue_frozen hon, fun m hadv hwork => wavefrontIssue_bubble hon hadv hwork,
    fun m hadv hwork => wavefrontIssue_passes_over hon hadv hwork, fun m sl st words row rows half last hadv hwork hlook => ?_⟩
  intro mask k0 turns
  refine ⟨wavefrontIssue_turns hon hadv hwork hlook, fun hstrict hmask hturn => ?_, wavefrontIssue_masked hon hadv hwork hlook,
    fun hstrict hidle hdrained => ?_⟩
  · obtain ⟨t, ht, hcyc, hlast, hcross, hwaves, hacc, honly⟩ := wavefrontIssue_valid hon hadv hwork hlook hstrict hmask hturn
    refine ⟨t, _, ht, hcyc, hlast, hcross, hwaves, hacc, rfl, bne_iff_ne.mpr hmask, rfl, rfl, rfl, rfl, rfl, rfl, rfl, rfl, rfl,
      fun hint hnormal j u hj => ?_, honly⟩
    show u ∈ (waveRes m.word sl st k0 row rows half).1.getD j [] ↔ _
    rw [waveRes_normal hint hnormal hj]
    exact mem_intNormal (half_lt_of_look hlook)
  · intro k from0
    obtain ⟨t, ht, hcyc, hwaves, honly, hacc⟩ := wavefrontIssue_strict hon hadv hwork hlook hstrict hidle hdrained
    have hinit : waveInit m.word r.iTile 0 = from0 := Bool.and_true _
    rw [hinit] at hacc
    refine ⟨t, ht, hcyc, hwaves, honly, fun hvalid => ?_, fun hvalid => ?_⟩
    · rw [hacc, if_pos hvalid]
      exact ⟨fun n hn => strictAcc_own hn, fun i hi => strictAcc_other hi⟩
    · rw [hacc, hvalid]
      rfl

end

section
/-! SUPPORT. Register words that an operation leaves, and the retirement of an instruction (R172, R173). -/

namespace Sys2Proof.Machine

/-- Every word of the register pages stays, but those at the offsets listed. -/
def RegsStay (os : List Nat) (s t : State) : Prop := ∀ k, PageKey k → k % 4096 ∉ os → t.rawReg k = s.rawReg k

namespace RegsStay

variable {os qs : List Nat} {s t u : State} {b : Blk} {n off : Nat}

theorem refl : RegsStay os s s := fun _ _ _ => rfl

theorem trans (h : RegsStay os s t) (k : RegsStay os t u) : RegsStay os s u :=
  fun j hp hn => (k j hp hn).trans (h j hp hn)

theorem mono (h : RegsStay os s t) (hsub : os ⊆ qs) : RegsStay qs s t := fun k hp hn => h k hp fun hin => hn (hsub hin)

theorem frame {ps : List Piece} (h : RegsStay os s t) (k : Frame ps t u) (hp : ps.contains .regs = false) : RegsStay os s u :=
  h.trans fun _ _ _ => State.rawReg_of_regs (k .regs hp) _

theorem ite {c : Prop} [Decidable c] {x y : State} (hx : RegsStay os s x) (hy : RegsStay os s y) :
    RegsStay os s (if c then x else y) := by
  split
  · exact hx
  · exact hy

theorem foldl {α : Type} {f : State → α → State} {xs : List α} (h : ∀ s x, RegsStay os s (f s x)) :
    RegsStay os s (xs.foldl f s) := by
  induction xs generalizing s with
  | nil => exact .refl
  | cons x xs ih => exact (h s x).trans ih

/-- A register of a floret at none of the offsets reads what it read. -/
theorem reg {f : Nat} (h : RegsStay os s t) (hf : f < 512) (ho : off < 4096) (hn : off ∉ os) :
    t.reg .fl f off = s.reg .fl f off := by
  refine h _ ?_ (by rwa [regKey_offset ho])
  have hkey : State.regKey .fl f off = (0x200 + f) * 4096 + off := rfl
  unfold PageKey
  omega

theorem key_ne {k : Nat} (hn : k % 4096 ∉ os) (ho : off < 4096) (hin : off ∈ os) : k ≠ State.regKey b n off := by
  rintro rfl
  rw [regKey_offset ho] at hn
  exact hn hin

theorem setReg {v : W32} (ho : off < 4096) (hin : off ∈ os) : RegsStay os s (s.setReg b n off v) :=
  fun _ _ hn => State.rawReg_setRaw_ne _ v (key_ne hn ho hin)

theorem orReg {v : W32} (ho : off < 4096) (hin : off ∈ os) : RegsStay os s (s.orReg b n off v) := setReg ho hin

theorem addReg {v : Nat} (ho : off < 4096) (hin : off ∈ os) : RegsStay os s (s.addReg b n off v) := setReg ho hin

theorem event {e : Nat} (hr : Off.evtRaw ∈ os) (hp : Off.evtPend ∈ os) : RegsStay os s (s.event b n e) :=
  fun _ hk hn => State.rawReg_event hk (key_ne hn (by decide) hr) (key_ne hn (by decide) hp)

theorem stickies {bits : W32} {evs : List (Nat × Nat)} (ho : off < 4096) (hin : off ∈ os) (hr : Off.evtRaw ∈ os)
    (hp : Off.evtPend ∈ os) : RegsStay os s (s.stickies b n off bits evs) := by
  unfold State.stickies
  exact (orReg ho hin).trans (foldl fun _ _ => .ite (event hr hp) .refl)

end RegsStay

end Sys2Proof.Machine

namespace Sys2Proof.Claims
open Sys2Proof.Machine

variable {s : State} {f pc : Nat} {p : Bool} {fl : Floret}

theorem issueCnt_ne_progress : State.regKey .fl f Off.issueCnt ≠ State.regKey .fl f Off.progress :=
  regKey_ne_of_offset (by decide) (by decide) (by decide)

/-- A floret that has taken an instruction's effect and retires it. -/
theorem retireTo_retires : Retires f pc p fl s ((s.setFl f fl).retireTo f pc p) := by
  unfold State.retireTo State.modFl
  dsimp only
  rw [State.fl_setFl]
  generalize hu : (s.setFl f fl).setFl f { fl with pc := pc, waiting := false, qfull := false } = u
  have hfl : u.fl f = { fl with pc := pc, waiting := false, qfull := false } := by rw [← hu, State.fl_setFl]
  have honly : OnlyFl f s u := hu ▸ OnlyFl.setFl.trans .setFl
  have hframe : Frame [.fls, .regs] s u := hu ▸ .step State.setFl_frame rfl (.step State.setFl_frame rfl .refl)
  have hregs : ∀ k, u.rawReg k = s.rawReg k := by rw [← hu]; exact fun _ => rfl
  have hother : ∀ k, (issueRegs f).contains k = false →
      k ≠ State.regKey .fl f Off.issueCnt ∧ k ≠ State.regKey .fl f Off.progress := by
    simp [issueRegs]
  have hissue : (u.addReg .fl f Off.issueCnt 1).reg .fl f Off.issueCnt = s.reg .fl f Off.issueCnt + 1 := by
    rw [State.reg_addReg_one, State.reg, hregs, State.reg]
  have hprog : (u.addReg .fl f Off.issueCnt 1).reg .fl f Off.progress = s.reg .fl f Off.progress :=
    (State.rawReg_setRaw_ne _ _ issueCnt_ne_progress.symm).trans (hregs _)
  have hrest : OnlyRegs (issueRegs f) s (u.addReg .fl f Off.issueCnt 1) := fun k hk =>
    (State.rawReg_setRaw_ne _ _ (hother k hk).1).trans (hregs k)
  cases p with
  | false =>
    exact ⟨⟨State.fl_addReg.trans hfl, honly.frame State.addReg_frame rfl, hissue, hprog⟩, hrest,
      .step State.addReg_frame rfl hframe⟩
  | true =>
    refine ⟨⟨?_, ?_, ?_, ?_⟩, fun k hk => ?_, ?_⟩
    · exact State.fl_addReg.trans (State.fl_addReg.trans hfl)
    · exact (honly.frame State.addReg_frame rfl).frame State.addReg_frame rfl
    · exact (State.rawReg_setRaw_ne _ _ issueCnt_ne_progress).trans hissue
    · rw [if_pos rfl, ← hprog]
      exact State.reg_addReg_one
    · exact (State.rawReg_setRaw_ne _ _ (hother k hk).2).trans (hrest k hk)
    · exact .step State.addReg_frame rfl (.step State.addReg_frame rfl hframe)

/-- A register of the floret apart from the two counts of retirements stays. -/
theorem reg_of_issueRegs {t : State} {off : Nat} (h : OnlyRegs (issueRegs f) s t) (ho : off < 4096) (hi : off ≠ Off.issueCnt)
    (hp : off ≠ Off.progress) : t.reg .fl f off = s.reg .fl f off := by
  refine h _ ?_
  have hissue : State.regKey .fl f off ≠ State.regKey .fl f Off.issueCnt := regKey_ne_of_offset ho (by decide) hi
  have hprog : State.regKey .fl f off ≠ State.regKey .fl f Off.progress := regKey_ne_of_offset ho (by decide) hp
  simp [issueRegs, hissue, hprog]

theorem retire_retires : Retires f (fl.pc + 1) p fl s ((s.setFl f fl).retire f p) := by
  unfold State.retire
  rw [State.fl_setFl]
  exact retireTo_retires

end Sys2Proof.Claims
end

section
/-! SUPPORT. The quantiser (R78 to R83): what a row taken leaves, when no row moves, and what its moves leave of the floret. -/

namespace Sys2Proof.Machine
open Sys2Proof.Claims

variable {s t u : State} {f : Nat} {j : QxJob} {js : List QxJob}

/-- The output rows of the next row of an instruction. -/
def QxJob.rows (j : QxJob) (s : State) (f : Nat) : List QRow :=
  qRows (Isa.qt j.w) (if Isa.gexp j.w = 0 then j.r else 2 ^ Isa.gexp j.w) (j.next s f).1

/-- What a row gives depends on the near bank, STRICT and C6 alone. -/
theorem QxJob.next_congr (hmem : t.sram = s.sram) (hstrict : (t.fl f).strict = (s.fl f).strict) (hc6 : (t.fl f).c6 = (s.fl f).c6) :
    j.next t f = j.next s f := by
  simp only [QxJob.next, qxRow, hmem, hstrict, hc6]

/-- The registers that the flags of a row change. -/
def flagRegs : List Nat := [Off.evtRaw, Off.evtPend, Off.fpStat, Off.qxStat]

/-- The registers that a row changes: its flags and its counts. -/
def rowRegs : List Nat := flagRegs ++ [Off.qzSegCnt, Off.qzZeroCnt]

/-- From `s` to `t` the quantiser of floret `f` takes the next row of instruction `j`. -/
structure RowTaken (f : Nat) (j : QxJob) (s t : State) : Prop where
  floret : t.fl f = (s.fl f).tookRow j (j.rows s f)
  others : OnlyFl f s t
  regs : RegsStay rowRegs s t
  counted : t.reg .fl f Off.qzSegCnt = s.reg .fl f Off.qzSegCnt + BitVec.ofNat 32 (j.next s f).1.length

/-! A row taken. -/

theorem Floret.qxq_tookRow_last {fl : Floret} {rows : List QRow} (h : Isa.qrows j.w = j.row + 1) :
    (fl.tookRow j rows).qxq = fl.qxq.tail :=
  if_neg (by omega)

theorem Floret.qx_tookRow {fl : Floret} {rows : List QRow} :
    (fl.tookRow j rows).qx = if rows = [] then fl.qx else fl.qx ++ [rows] := by
  unfold Floret.tookRow
  cases rows <;> rfl

/-- The flags of a row, before it is counted. -/
def State.rowFlagged (s : State) (f : Nat) (x : List Quant.Seg × W32) : State :=
  let s := s.fpFlags f x.2
  let s := if x.1.any (·.nonfin) then s.orReg .fl f Off.qxStat 4 else s
  if x.1.any (·.zero) then s.orReg .fl f Off.qxStat 8 else s

theorem State.rowFlagged_frame {x : List Quant.Seg × W32} : Frame [.regs, .hostOut] s (s.rowFlagged f x) := by
  unfold State.rowFlagged
  extract_lets flagged nonfin
  have hflagged : Frame [.regs, .hostOut] s flagged := State.fpFlags_frame
  have hnonfin : Frame [.regs, .hostOut] s nonfin := .ite (.step State.orReg_frame rfl hflagged) hflagged
  exact .ite (.step State.orReg_frame rfl hnonfin) hnonfin

theorem State.rowFlagged_regsStay {x : List Quant.Seg × W32} : RegsStay flagRegs s (s.rowFlagged f x) := by
  unfold State.rowFlagged
  extract_lets flagged nonfin
  have hflagged : RegsStay flagRegs s flagged := .stickies (by decide) (by decide) (by decide) (by decide)
  have hnonfin : RegsStay flagRegs s nonfin := .ite (hflagged.trans (.orReg (by decide) (by decide))) hflagged
  exact .ite (hnonfin.trans (.orReg (by decide) (by decide))) hnonfin

/-- A row taken from the head of the queue into a free buffer: bytes, flags and counts follow, and the report of a poisoned line. -/
theorem State.qxTake_eq (hq : (s.fl f).qxq = j :: js) (hroom : (s.fl f).qx.length < 2) : ∃ n m,
    let t := ((((s.setFl f ((s.fl f).tookRow j (j.rows s f))).cnt .fl f Off.nbRd n).rowFlagged f (j.next s f)).addReg
      .fl f Off.qzSegCnt (j.next s f).1.length).addReg .fl f Off.qzZeroCnt m
    s.qxTake f = some (if j.poisoned s f then t.flFault f Code.poisonUse 0 else t) := by
  unfold State.qxTake
  simp only [hq, not_le.mpr hroom, if_false]
  exact ⟨_, _, rfl⟩

theorem State.qxTake_takes (hf : f < 512) (hq : (s.fl f).qxq = j :: js) (hroom : (s.fl f).qx.length < 2) :
    ∃ t, s.qxTake f = some t ∧ RowTaken f j s t := by
  obtain ⟨n, m, heq⟩ := State.qxTake_eq hq hroom
  refine ⟨_, heq, ?_⟩
  generalize hv : ((s.setFl f ((s.fl f).tookRow j (j.rows s f))).cnt .fl f Off.nbRd n).rowFlagged f (j.next s f) = v
  have hfl : v.fl f = (s.fl f).tookRow j (j.rows s f) := by
    rw [← hv, State.fl_of_frame State.rowFlagged_frame rfl, State.fl_of_frame State.cnt_frame rfl, State.fl_setFl]
  have honly : OnlyFl f s v := hv ▸ (OnlyFl.setFl.frame State.cnt_frame rfl).frame State.rowFlagged_frame rfl
  have hregs : RegsStay flagRegs s v :=
    hv ▸ ((RegsStay.refl.frame State.setFl_frame rfl).frame State.cnt_frame rfl).trans State.rowFlagged_regsStay
  have hcounted : RowTaken f j s ((v.addReg .fl f Off.qzSegCnt (j.next s f).1.length).addReg .fl f Off.qzZeroCnt m) := by
    refine ⟨?_, (honly.frame State.addReg_frame rfl).frame State.addReg_frame rfl, ?_, ?_⟩
    · exact State.fl_addReg.trans (State.fl_addReg.trans hfl)
    · exact ((hregs.mono (List.subset_append_left _ _)).trans (.addReg (by decide) (by decide))).trans
        (.addReg (by decide) (by decide))
    · refine (State.reg_setReg_ne (by decide) (by decide) (by decide)).trans ((State.reg_setReg ..).trans ?_)
      rw [hregs.reg hf (by decide) (by decide)]
  cases j.poisoned s f with
  | false => exact hcounted
  | true =>
    exact ⟨(State.fl_of_frame State.flFault_frame rfl f).trans hcounted.floret, hcounted.others.frame State.flFault_frame rfl,
      hcounted.regs.frame State.flFault_frame rfl, (State.rawReg_of_regs (State.flFault_frame .regs rfl) _).trans hcounted.counted⟩

theorem State.qxTake_of_full (hfull : 2 ≤ (s.fl f).qx.length) : s.qxTake f = none := by
  unfold State.qxTake
  dsimp only
  split
  · rfl
  · exact if_pos hfull

theorem State.qxTake_of_empty (hq : (s.fl f).qxq = []) : s.qxTake f = none := by
  unfold State.qxTake
  simp only [hq]

/-! When no row moves. -/

/-- No QOUT descriptor is under way in the floret's store engine. -/
def Floret.noQout (fl : Floret) : Prop := ∀ d ∈ fl.se.fly, D.kind d.w ≠ 8

theorem State.qoutTake_of_noQout {f : FloretId} (h : (s.fl f.val).noQout) : s.qoutTake f = none := by
  have hfind : (s.fl f.val).se.fly.find? (fun d => D.kind d.w == 8 && decide (d.rowsRead < D.count d.w)) = none := by
    rw [List.find?_eq_none]
    intro d hd
    simp [h d hd]
  unfold State.qoutTake
  simp only [hfind]

/-- With no QOUT, and no free buffer or no instruction that waits, the quantiser rests. -/
theorem State.qoutPull_rests {f : FloretId} {n : Nat} (hout : (s.fl f.val).noQout) (htake : s.qxTake f.val = none) :
    State.qoutPull n s f = s := by
  cases n with
  | zero => rfl
  | succ n =>
    unfold State.qoutPull
    simp only [State.qoutTake_of_noQout hout, htake]

/-- With no QOUT, and nothing in the queue behind the row it takes, the quantiser takes that row and rests. -/
theorem State.pullQout_single {f : FloretId} (hout : (s.fl f.val).noQout) (ht : s.qxTake f.val = some t)
    (hrow : RowTaken f.val j s t) (hempty : (t.fl f.val).qxq = []) : s.pullQout f = t := by
  have hstill : (t.fl f.val).noQout := by
    rw [hrow.floret]
    exact hout
  unfold State.pullQout State.qoutPull
  simp only [State.qoutTake_of_noQout hout, ht]
  exact State.qoutPull_rests hstill (State.qxTake_of_empty hempty)

/-! The quantiser's moves. -/

/-- Rows that moved: the PC and the other florets stay, and of the registers those that a row does not change. -/
structure RowsMoved (f : Nat) (s t : State) : Prop where
  pc : (t.fl f).pc = (s.fl f).pc
  others : OnlyFl f s t
  regs : RegsStay rowRegs s t
  frame : Frame [.fls, .regs, .cnt64, .hostOut, .reports] s t

theorem RowsMoved.refl : RowsMoved f s s := ⟨rfl, .refl, .refl, .refl⟩

theorem RowsMoved.trans (h : RowsMoved f s t) (k : RowsMoved f t u) : RowsMoved f s u :=
  ⟨k.pc.trans h.pc, h.others.trans k.others, h.regs.trans k.regs, h.frame.trans k.frame⟩

theorem State.qxTake_moves (hf : f < 512) (h : s.qxTake f = some t) : RowsMoved f s t := by
  cases hq : (s.fl f).qxq with
  | nil =>
    rw [State.qxTake_of_empty hq] at h
    cases h
  | cons j js =>
    obtain hroom | hfull := lt_or_ge (s.fl f).qx.length 2
    · obtain ⟨u, hu, hrow⟩ := State.qxTake_takes hf hq hroom
      obtain rfl : u = t := Option.some.inj (hu.symm.trans h)
      exact ⟨by rw [hrow.floret]; rfl, hrow.others, hrow.regs, (State.qxTake_frame h).mono rfl⟩
    · rw [State.qxTake_of_full hfull] at h
      cases h

theorem Floret.popRow_pc {fl fl' : Floret} {row : QRow} (h : fl.popRow = some (row, fl')) : fl'.pc = fl.pc := by
  unfold Floret.popRow at h
  split at h
  · cases h
  · split at h
    · cases h
    · split at h <;> cases h
      rfl
  · cases h
    rfl

/-- A change of a descriptor of the store engine changes the floret alone, and not its PC. -/
theorem State.modDesc_store_moves {f : FloretId} {d : Nat} {g : Desc → Desc} :
    RowsMoved f.val s (s.modDesc (.store f) d g) := by
  refine ⟨?_, .setFl, RegsStay.refl.frame State.setFl_frame rfl, State.setFl_frame.mono rfl⟩
  exact (congrArg Floret.pc (State.fl_setFl s f.val _) :)

theorem State.qoutTake_moves {f : FloretId} (h : s.qoutTake f = some t) : RowsMoved f.val s t := by
  unfold State.qoutTake at h
  extract_lets fl at h
  split at h
  · next d row fl' _ hpop =>
    have hset : RowsMoved f.val s (s.setFl f.val fl') :=
      ⟨(congrArg Floret.pc (State.fl_setFl ..)).trans (Floret.popRow_pc hpop), .setFl,
        RegsStay.refl.frame State.setFl_frame rfl, State.setFl_frame.mono rfl⟩
    extract_lets k words out ls popped at h
    split at h
    · cases h
    · obtain rfl := Option.some.inj h
      exact hset.trans State.modDesc_store_moves
  · cases h

theorem State.qoutPull_moves {f : FloretId} {n : Nat} : RowsMoved f.val s (State.qoutPull n s f) := by
  induction n generalizing s with
  | zero => exact .refl
  | succ n ih =>
    unfold State.qoutPull
    split
    · next hout => exact (State.qoutTake_moves hout).trans ih
    · split
      · next hrow => exact (State.qxTake_moves f.isLt hrow).trans ih
      · exact .refl

end Sys2Proof.Machine
end

section
/-! SUPPORT. QX quantises or holds: O17. -/

namespace Sys2Proof.Claims
open Sys2Proof.Machine

variable {f : FloretId} {s : State} {w : Nat}

/-- The floret once a QX instruction has entered its queue. -/
def qxEntered (fl : Floret) (w : Nat) : Floret := { fl with qxq := fl.qxq ++ [QxJob.of fl w] }

/-- The state once the instruction has entered the queue and retired, before the quantiser runs. -/
def qxIssued (f : FloretId) (s : State) (w : Nat) : State :=
  (s.setFl f.val (qxEntered (s.fl f.val) w)).retire f.val true

theorem qxIssued_retires : Retires f.val ((s.fl f.val).pc + 1) true (qxEntered (s.fl f.val) w) s (qxIssued f s w) :=
  retire_retires

theorem fl_qxIssued : (qxIssued f s w).fl f.val =
    { qxEntered (s.fl f.val) w with pc := (s.fl f.val).pc + 1, waiting := false, qfull := false } :=
  qxIssued_retires.1.1

theorem qxq_qxIssued : ((qxIssued f s w).fl f.val).qxq = (s.fl f.val).qxq ++ [.of (s.fl f.val) w] := by
  rw [fl_qxIssued]
  rfl

theorem qx_qxIssued : ((qxIssued f s w).fl f.val).qx = (s.fl f.val).qx := by
  rw [fl_qxIssued]
  rfl

theorem se_qxIssued : ((qxIssued f s w).fl f.val).se = (s.fl f.val).se := by
  rw [fl_qxIssued]
  rfl

theorem noQout_qxIssued (h : (s.fl f.val).noQout) : ((qxIssued f s w).fl f.val).noQout := by
  unfold Floret.noQout
  rwa [se_qxIssued]

/-- Issue changes nothing that the rows of an instruction depend on. -/
theorem next_qxIssued {j : QxJob} : j.next (qxIssued f s w) f.val = j.next s f.val := by
  obtain ⟨-, -, hframe⟩ := qxIssued_retires (f := f) (s := s) (w := w)
  exact QxJob.next_congr (hframe .sram rfl) (by rw [fl_qxIssued]; rfl) (by rw [fl_qxIssued]; rfl)

theorem qx_enters (hlook : s.look f.val 0x30 = .go w) (hroom : (s.fl f.val).qxq.length < 4) :
    exec (.qx f) s = .next ((qxIssued f s w).pullQout f) := by
  show execQx f s = _
  simp only [execQx, State.issue, hlook, not_le.mpr hroom, if_false]
  rfl

theorem qx_holds (hlook : s.look f.val 0x30 = .go w) (hfull : 4 ≤ (s.fl f.val).qxq.length) : exec (.qx f) s = .next s := by
  show execQx f s = _
  simp only [execQx, State.issue, hlook, hfull, if_true]

/-- With both buffers taken and no QOUT the instruction waits whole. -/
theorem qxIssued_waits (hfull : 2 ≤ (s.fl f.val).qx.length) (hout : (s.fl f.val).noQout) :
    (qxIssued f s w).pullQout f = qxIssued f s w :=
  State.qoutPull_rests (noQout_qxIssued hout) (State.qxTake_of_full (by rwa [qx_qxIssued]))

/-- With both buffers free and no QOUT an instruction of a single row is taken at once. -/
theorem qxIssued_quantises (hq : (s.fl f.val).qxq = []) (hqx : (s.fl f.val).qx = []) (hout : (s.fl f.val).noQout)
    (hone : Isa.qrows w = 1) :
    RowTaken f.val (.of (s.fl f.val) w) (qxIssued f s w) ((qxIssued f s w).pullQout f) ∧
      (((qxIssued f s w).pullQout f).fl f.val).qxq = [] := by
  have hqueue : ((qxIssued f s w).fl f.val).qxq = [.of (s.fl f.val) w] := by rw [qxq_qxIssued, hq, List.nil_append]
  have hfree : ((qxIssued f s w).fl f.val).qx.length < 2 := by simp [qx_qxIssued, hqx]
  obtain ⟨t, ht, hrow⟩ := State.qxTake_takes f.isLt hqueue hfree
  have hempty : (t.fl f.val).qxq = [] := by
    rw [hrow.floret, Floret.qxq_tookRow_last (by rw [QxJob.of, hone]), hqueue, List.tail_cons]
  rw [State.pullQout_single (noQout_qxIssued hout) ht hrow hempty]
  exact ⟨hrow, hempty⟩

end Sys2Proof.Claims

open Sys2Proof Sys2Proof.Machine Sys2Proof.Claims

/-- Settles O17: the instruction enters the queue and retires, and then the quantiser's rows move: none with both buffers taken, the
single one of the instruction with both free. -/
theorem qxQuantisesOrHolds : Obligations.QxQuantisesOrHolds := by
  unfold Obligations.QxQuantisesOrHolds
  intro f s w fl j noQout segs rows hlook
  refine ⟨fun hroom => ?_, qx_holds hlook⟩
  obtain ⟨⟨hfl, honly, hissue, hprog⟩, hregs, hframe⟩ := qxIssued_retires (f := f) (s := s) (w := w)
  have hmoved : RowsMoved f.val (qxIssued f s w) ((qxIssued f s w).pullQout f) := State.qoutPull_moves
  refine ⟨_, qx_enters hlook hroom, ?_, ?_, ?_, honly.trans hmoved.others, (hframe.mono rfl).trans hmoved.frame, ?_, ?_⟩
  · rw [hmoved.pc, hfl]
  · exact (hmoved.regs.reg f.isLt (by decide) (by decide)).trans hissue
  · exact (hmoved.regs.reg f.isLt (by decide) (by decide)).trans hprog
  · intro hfull hout
    rw [qxIssued_waits hfull hout]
    exact qxIssued_retires
  · intro hq hqx hout hone
    obtain ⟨hrow, hempty⟩ := qxIssued_quantises hq hqx hout hone
    have hrows : j.rows (qxIssued f s w) f.val = rows := by
      unfold QxJob.rows
      rw [next_qxIssued]
      rfl
    refine ⟨hempty, ?_, ?_, ?_⟩
    · rw [hrow.floret, Floret.qx_tookRow, hrows, qx_qxIssued, hqx, List.nil_append]
    · rw [hrow.floret]
      exact se_qxIssued
    · rw [hrow.counted, next_qxIssued, reg_of_issueRegs hregs (by decide) (by decide) (by decide)]

end

section
/-! SUPPORT. The front end's own accesses to its tables (R230, R248, R286 to R289): where local addresses lead, and whether what lies there
serves, is the same afterwards. -/

namespace Sys2Proof.Machine

variable {s t u : State}

/-- Offsets of the registers that an error's log entry writes (R479). -/
def logOffs : List Nat := Off.errCnt :: Off.pageStat :: (List.range 16).map (fun i => Off.errLog + 4 * i)

/-- Offsets of the registers that an access to HBM whose ECC is clean can change. -/
def accessOffs : List Nat := [Off.evtRaw, Off.evtPend, Off.hcErr, Off.hcTag, Off.hcPw] ++ logOffs

theorem errLog_mem {n i : Nat} (hi : i < 4) : Off.errLog + 16 * (n % 4) + 4 * i ∈ logOffs :=
  List.mem_cons_of_mem _ (List.mem_cons_of_mem _ (List.mem_map.mpr ⟨4 * (n % 4) + i, List.mem_range.mpr (by omega), by omega⟩))

theorem RegsStay.logErr {os : List Nat} (hsub : logOffs ⊆ os) {b : Blk} {n code addr src info : Nat} :
    RegsStay os s (s.logErr b n code addr src info) := by
  unfold State.logErr
  dsimp only
  have hentry : ∀ {v : State} {e i : Nat} {x : W32}, i < 4 → RegsStay os v (v.setReg b n (Off.errLog + 16 * (e % 4) + 4 * i) x) := fun hi =>
    .setReg (by have : Off.errLog = 64 := rfl; omega) (hsub (errLog_mem hi))
  have hcnt : ∀ {x : W32}, RegsStay os s (s.setReg b n Off.errCnt x) := .setReg (by decide) (hsub (by decide))
  have hover : ∀ {v : State} {x : W32}, RegsStay os v (v.orReg b n Off.pageStat x) := .orReg (by decide) (hsub (by decide))
  refine RegsStay.frame ?_ (Frame.set_logPtr (ps := [.logPtr]) rfl .refl) rfl
  exact ((((RegsStay.ite (hcnt.trans hover) hcnt).trans (hentry (i := 0) (by decide))).trans (hentry (i := 1) (by decide))).trans
    (hentry (i := 2) (by decide))).trans (hentry (i := 3) (by decide))

theorem RegsStay.sticky {os : List Nat} {b : Blk} {n off bit : Nat} {e : Option Nat} (ho : off < 4096) (hin : off ∈ os)
    (hr : Off.evtRaw ∈ os) (hp : Off.evtPend ∈ os) : RegsStay os s (s.sticky b n off bit e) := by
  unfold State.sticky
  dsimp only
  split
  · exact (RegsStay.orReg ho hin).trans (RegsStay.event hr hp)
  · exact .orReg ho hin

/-- A register at none of the offsets, of a page that is assigned, reads what it read. -/
theorem RegsStay.reg_of_page {os : List Nat} {b : Blk} {n off : Nat} (h : RegsStay os s t) (hb : pageOf (b.page n) = some (b, n))
    (ho : off < 4096) (hn : off ∉ os) : t.reg b n off = s.reg b n off :=
  h _ (pageKey_regKey hb ho) (by rwa [regKey_offset ho])

/-- Where each local address leads, and whether a stack there serves, is the same: what placement depends on stays. -/
structure SameSpace (s t : State) : Prop where
  low : ∀ k, LowKey k → t.rawReg k = s.rawReg k
  regs : RegsStay accessOffs s t
  ret : t.hbm.ret = s.hbm.ret
  retiring : t.hbm.retiring = s.hbm.retiring
  takes : ∀ k, t.stkTakes k = s.stkTakes k
  variant : t.variant = s.variant
  strap : t.strap = s.strap
  compat : t.compat = s.compat
  bme : t.bme = s.bme
  sec : t.sec = s.sec
  flt : t.flt = s.flt

/-- None of the pieces that placement depends on. -/
def Piece.outsideSpace (ps : List Piece) : Bool :=
  [Piece.regs, .hbm, .variant, .strap, .compat, .bme, .sec, .flt].all (fun p => !ps.contains p)

namespace SameSpace

theorem refl : SameSpace s s := ⟨fun _ _ => rfl, .refl, rfl, rfl, fun _ => rfl, rfl, rfl, rfl, rfl, rfl, rfl⟩

theorem trans (h : SameSpace s t) (k : SameSpace t u) : SameSpace s u :=
  ⟨fun j hj => (k.low j hj).trans (h.low j hj), h.regs.trans k.regs, k.ret.trans h.ret, k.retiring.trans h.retiring,
    fun j => (k.takes j).trans (h.takes j), k.variant.trans h.variant, k.strap.trans h.strap, k.compat.trans h.compat, k.bme.trans h.bme,
    k.sec.trans h.sec, k.flt.trans h.flt⟩

theorem of_frame {ps : List Piece} (h : Frame ps s t) (hp : Piece.outsideSpace ps = true) : SameSpace s t := by
  simp only [Piece.outsideSpace, List.all_cons, List.all_nil, Bool.and_true, Bool.and_eq_true, Bool.not_eq_true'] at hp
  obtain ⟨hregs, hhbm, hvariant, hstrap, hcompat, hbme, hsec, hflt⟩ := hp
  have hh : t.hbm = s.hbm := h .hbm hhbm
  refine ⟨fun k _ => State.rawReg_of_regs (h .regs hregs) k, RegsStay.refl.frame h hregs, by rw [hh], by rw [hh], fun k => ?_,
    h .variant hvariant, h .strap hstrap, h .compat hcompat, h .bme hbme, h .sec hsec, h .flt hflt⟩
  unfold State.stkTakes
  rw [State.stk_of_hbm hh]

theorem frame {ps : List Piece} (k : SameSpace s t) (h : Frame ps t u) (hp : Piece.outsideSpace ps = true) : SameSpace s u :=
  k.trans (of_frame h hp)

theorem cap (h : SameSpace s t) : t.cap = s.cap := by
  unfold State.cap
  rw [h.variant]

theorem kvPool (h : SameSpace s t) {n : Nat} (hn : n < 4) : t.kvPool n = s.kvPool n := by
  have hoff : ∀ n, n < 4 → 0x740 + 8 * n ∉ accessOffs ∧ 0x744 + 8 * n ∉ accessOffs := by decide
  unfold State.kvPool State.regN
  rw [h.regs.reg_of_page rfl (by omega) (hoff n hn).1, h.regs.reg_of_page rfl (by omega) (hoff n hn).2]

theorem pools (h : SameSpace s t) : t.pools = s.pools := by
  unfold State.pools
  refine List.filterMap_congr fun n hn => ?_
  rw [h.kvPool (List.mem_range.mp hn)]

theorem phys (h : SameSpace s t) (a : Nat) : t.phys a = s.phys a := by
  unfold State.phys
  rw [h.cap, h.pools, h.ret]

theorem hbmEnd (h : SameSpace s t) : t.hbmEnd = s.hbmEnd := by
  unfold State.hbmEnd
  rw [h.cap, h.ret, h.retiring]

theorem flPresent (h : SameSpace s t) (n : Nat) : t.flPresent n = s.flPresent n := by
  unfold State.flPresent
  rw [h.variant]

theorem pagePresent (h : SameSpace s t) (i : Nat) : t.pagePresent i = s.pagePresent i := by
  unfold State.pagePresent State.linkPresent
  simp only [h.flPresent, h.variant]

theorem placeOf (h : SameSpace s t) (a : Nat) : t.placeOf a = s.placeOf a := by
  unfold State.placeOf
  simp only [h.hbmEnd, h.flPresent, h.pagePresent, h.bme, h.sec]

theorem spanReady (h : SameSpace s t) (a n : Nat) : t.spanReady a n = s.spanReady a n := by
  unfold State.spanReady State.hbmReady State.hbmDown State.dieDown
  simp only [h.hbmEnd, h.phys, h.takes, h.flt]

theorem hostAddr (h : SameSpace s t) (a : Nat) : t.hostAddr a = s.hostAddr a := by
  have hgl : ∀ off, off < 4096 → t.regN .gl 0 off = s.regN .gl 0 off := fun off ho =>
    congrArg BitVec.toNat (h.low _ (.inl (regOff_page (b := .gl) (n := 0) ho)))
  unfold State.hostAddr
  rw [hgl _ (by decide), hgl _ (by decide)]

theorem own (h : SameSpace s t) (a : Nat) : t.own a = s.own a := by
  unfold State.own State.devId State.regN
  rw [h.regs.reg_of_page rfl (by decide) (by decide)]

theorem tdiRuns (h : SameSpace s t) : t.tdiRuns = s.tdiRuns := by
  unfold State.tdiRuns
  rw [h.sec]

theorem ringUnit (h : SameSpace s t) (x : Ring) : t.ringUnit x = s.ringUnit x := by
  unfold State.ringUnit State.ringC6 State.compatOf
  rw [h.strap, h.compat]

theorem cplReady (h : SameSpace s t) (x : Ring) : t.cplReady x = s.cplReady x := by
  unfold State.cplReady
  simp only [h.ringUnit, h.placeOf, h.spanReady]

end SameSpace

/-- An access of the front end to its tables: placement stays, what the host was sent stays, and of the front end's own state at most
the host lines that it still has to use change (R230). -/
structure Accesses (s t : State) : Prop where
  space : SameSpace s t
  sent : s.hostOut <+: t.hostOut
  fe : ∃ fr, t.fe = { s.fe with fresh := fr }
  frame : Frame [.regs, .cnt64, .sram, .hostMem, .reports, .hostOut, .hbm, .logPtr, .fe, .pw, .hostReads] s t

namespace Accesses

theorem refl : Accesses s s := ⟨.refl, List.prefix_rfl, ⟨_, rfl⟩, .refl⟩

theorem trans (h : Accesses s t) (k : Accesses t u) : Accesses s u := by
  obtain ⟨fr, hfe⟩ := k.fe
  obtain ⟨gr, hge⟩ := h.fe
  exact ⟨h.space.trans k.space, h.sent.trans k.sent, ⟨fr, by rw [hfe, hge]⟩, h.frame.trans k.frame⟩

theorem ite {c : Prop} [Decidable c] {a b : State} (ha : Accesses s a) (hb : Accesses s b) : Accesses s (if c then a else b) := by
  split
  · exact ha
  · exact hb

theorem foldl_at {α β : Type} (g : β → State) {f : β → α → β} {xs : List α} (h : ∀ a x, Accesses (g a) (g (f a x))) {b : β} :
    Accesses (g b) (g (xs.foldl f b)) := by
  induction xs generalizing b with
  | nil => exact .refl
  | cons x xs ih => exact (h b x).trans ih

/-- A step outside placement, the front end's state and what the host is sent. -/
theorem of_frame {ps : List Piece} (h : Frame ps s t) (hp : Piece.outsideSpace ps = true) (ho : ps.contains .hostOut = false)
    (hf : ps.contains .fe = false)
    (hw : Piece.within ps [.regs, .cnt64, .sram, .hostMem, .reports, .hostOut, .hbm, .logPtr, .fe, .pw, .hostReads] = true) :
    Accesses s t :=
  ⟨.of_frame h hp, by rw [show t.hostOut = s.hostOut from h .hostOut ho], ⟨s.fe.fresh, h .fe hf⟩, h.mono hw⟩

theorem step_frame {ps : List Piece} (k : Accesses s t) (h : Frame ps t u) (hp : Piece.outsideSpace ps = true)
    (ho : ps.contains .hostOut = false) (hf : ps.contains .fe = false)
    (hw : Piece.within ps [.regs, .cnt64, .sram, .hostMem, .reports, .hostOut, .hbm, .logPtr, .fe, .pw, .hostReads] = true) :
    Accesses s u :=
  k.trans (of_frame h hp ho hf hw)

/-- A step that writes register words of the HC or FE pages, at the offsets of errors and events. -/
theorem of_regs {ps : List Piece} (h : Frame ps s t) (hp : Piece.outsideSpace (ps.filter (· ≠ .regs)) = true) (hf : ps.contains .fe = false)
    (hw : Piece.within ps [.regs, .cnt64, .sram, .hostMem, .reports, .hostOut, .hbm, .logPtr, .fe, .pw, .hostReads] = true)
    (hl : Aside s t) (hr : RegsStay accessOffs s t) (ho : s.hostOut <+: t.hostOut) : Accesses s t := by
  have hin : ∀ p, p ≠ Piece.regs → (ps.filter (· ≠ .regs)).contains p = false → ps.contains p = false := by
    intro p hne hc
    simpa [hne] using hc
  simp only [Piece.outsideSpace, List.all_cons, List.all_nil, Bool.and_true, Bool.and_eq_true, Bool.not_eq_true'] at hp
  obtain ⟨-, hhbm, hvariant, hstrap, hcompat, hbme, hsec, hflt⟩ := hp
  have hh : t.hbm = s.hbm := h .hbm (hin _ (by decide) hhbm)
  refine ⟨⟨hl.low, hr, hl.ret, by rw [hh], fun k => ?_, h .variant (hin _ (by decide) hvariant), h .strap (hin _ (by decide) hstrap),
    h .compat (hin _ (by decide) hcompat), h .bme (hin _ (by decide) hbme), h .sec (hin _ (by decide) hsec),
    h .flt (hin _ (by decide) hflt)⟩, ho, ⟨s.fe.fresh, h .fe hf⟩, h.mono hw⟩
  unfold State.stkTakes
  rw [State.stk_of_hbm hh]

end Accesses

/-! The lines of HBM. -/

theorem State.stkTouch_takes {k j : Nat} : (s.stkTouch k).stkTakes j = s.stkTakes j := by
  unfold State.stkTouch State.stkTakes
  by_cases hj : j = k
  · subst hj
    rw [State.stk_setStk]
    by_cases h2 : (s.stk j).state = 2 <;> simp [h2]
  · rw [State.stk_setStk_ne _ _ hj]

theorem State.stkTouch_accesses {k : Nat} : Accesses s (s.stkTouch k) :=
  ⟨⟨fun _ _ => rfl, .refl, rfl, rfl, fun _ => State.stkTouch_takes, rfl, rfl, rfl, rfl, rfl, rfl⟩, List.prefix_rfl, ⟨s.fe.fresh, rfl⟩,
    State.stkTouch_frame.mono rfl⟩

theorem State.hbmBytes_accesses {p : Nat} {wr : Bool} : Accesses s (s.hbmBytes p wr) := by
  unfold State.hbmBytes
  dsimp only
  refine Accesses.step_frame ?_ (Frame.set_cnt64 (ps := [.cnt64]) rfl .refl) rfl rfl rfl rfl
  exact State.stkTouch_accesses.step_frame State.cnt_frame rfl rfl rfl rfl

theorem State.putPhys_accesses {a p : Nat} {l : Line} {poison : Bool} : Accesses s (s.putPhys a p l poison) :=
  ⟨⟨fun _ _ => rfl, .refl, rfl, rfl, fun _ => rfl, rfl, rfl, rfl, rfl, rfl, rfl⟩, List.prefix_rfl, ⟨s.fe.fresh, rfl⟩,
    State.putPhys_frame.mono rfl⟩

theorem State.hbmWrite_accesses {a : Nat} {l : Line} {poison : Bool} : Accesses s (s.hbmWrite a l poison) := by
  unfold State.hbmWrite
  have h : Accesses s ((s.hbmBytes (s.phys a) true).putPhys a (s.phys a) l poison) :=
    State.hbmBytes_accesses.trans State.putPhys_accesses
  exact .ite h ((h.trans State.hbmBytes_accesses).trans State.putPhys_accesses)

/-! Errors. -/

theorem State.addReg_accesses {b : Blk} {n off v : Nat} (hb : b.low = false) (ho : off < 4096) (hin : off ∈ accessOffs) :
    Accesses s (s.addReg b n off v) :=
  .of_regs State.addReg_frame rfl rfl rfl (State.addReg_aside hb ho) (.addReg ho hin) (Beside.refl.frame State.addReg_frame rfl rfl).sent

theorem State.sticky_accesses {b : Blk} {n off bit : Nat} {e : Option Nat} (hb : b.low = false) (ho : off < 4096)
    (hin : off ∈ accessOffs) : Accesses s (s.sticky b n off bit e) :=
  .of_regs State.sticky_frame rfl rfl rfl (State.sticky_aside hb ho) (.sticky ho hin (by decide) (by decide)) State.sticky_beside.sent

theorem State.logErr_accesses {b : Blk} {n code addr src info : Nat} (hb : b.low = false) :
    Accesses s (s.logErr b n code addr src info) :=
  .of_regs State.logErr_frame rfl rfl rfl (State.logErr_aside hb) (.logErr fun _ h => List.mem_append_right _ h)
    (Beside.refl.frame State.logErr_frame rfl rfl).sent

theorem State.countTag_accesses {q : Req} {a p : Nat} : Accesses s (s.countTag q a p) := by
  unfold State.countTag
  exact ((State.addReg_accesses rfl (by decide) (by decide)).trans (State.logErr_accesses rfl)).trans
    (State.sticky_accesses rfl (by decide) (by decide))

/-! Reads and writes. -/

theorem State.hbmRead_clean_accesses {q : Req} {a : Nat} : Accesses s (s.hbmRead q a .clean).2 := by
  unfold State.hbmRead State.physRead State.decodeLine
  have h : Accesses s ((List.range (s.lineReads a (s.phys a) .clean)).foldl (fun u _ => u.hbmBytes (s.phys a) false) s) :=
    Accesses.foldl_at id fun _ _ => State.hbmBytes_accesses
  dsimp only
  split
  · exact h
  · exact .ite h (h.trans State.countTag_accesses)

theorem State.hbmPartial_clean_accesses {q : Req} {a mask : Nat} {l : Line} {poison : Bool} :
    Accesses s (s.hbmPartial q a mask l poison .clean) := by
  unfold State.hbmPartial
  have h : ∀ l p, Accesses s ((s.hbmRead q a .clean).2.hbmWrite a l p) := fun _ _ =>
    State.hbmRead_clean_accesses.trans State.hbmWrite_accesses
  refine .ite ?_ (h _ _)
  exact (((h _ _).trans (State.addReg_accesses rfl (by decide) (by decide))).trans (State.logErr_accesses rfl)).trans
    (State.sticky_accesses rfl (by decide) (by decide))

theorem State.memPutN_accesses {n a v : Nat} : Accesses s (s.memPutN n a v) := by
  unfold State.memPutN State.hbmPutN
  dsimp only
  split
  · exact .ite (State.logErr_accesses rfl) State.hbmPartial_clean_accesses
  · refine Accesses.trans (t := s.hostPut _ _ _ _) ?_ (.of_frame State.cnt_frame rfl rfl rfl rfl)
    exact ⟨.of_frame State.hostPut_frame rfl, ⟨_, rfl⟩, ⟨s.fe.fresh, rfl⟩, State.hostPut_frame.mono rfl⟩
  · exact (Accesses.of_frame (Frame.set_sram (ps := [.sram]) rfl .refl) rfl rfl rfl rfl).trans (.of_frame State.sramBytes_frame rfl rfl rfl rfl)
  · exact (Accesses.of_frame (Frame.set_sram (ps := [.sram]) rfl .refl) rfl rfl rfl rfl).trans (.of_frame State.sramBytes_frame rfl rfl rfl rfl)
  · exact State.logErr_accesses rfl

theorem State.readSpan_clean_accesses {a n : Nat} : Accesses s (s.readSpan reqFront a n []).2.2.2 := by
  unfold State.readSpan
  dsimp only
  refine Accesses.foldl_at (b := ([], false, s)) (fun acc : List Nat × Bool × State => acc.2.2) fun acc i => ?_
  dsimp only
  split
  · exact State.logErr_accesses rfl
  · exact State.hbmRead_clean_accesses

theorem State.memTouch_accesses {n a : Nat} : Accesses s (s.memTouch n a) := by
  unfold State.memTouch
  split
  · exact State.readSpan_clean_accesses
  · exact ⟨.of_frame (Frame.set_fe (ps := [.fe]) rfl .refl) rfl, List.prefix_rfl, ⟨_, rfl⟩, Frame.set_fe rfl .refl⟩
  · exact State.logErr_accesses rfl
  · exact .refl

theorem State.ringSync_accesses {r : Nat} : Accesses s (s.ringSync r) := State.memPutN_accesses

end Sys2Proof.Machine
end

section
/-! SUPPORT. Rings (R251, R254, R256, R257): what taking a command and ending it leave of its ring, and that nothing else of the front end's
state changes. -/

namespace Sys2Proof.Machine
open Sys2Proof.Claims

variable {s t u : State} {r q n w status detail t0 ver : Nat}

/-- Handling of rings: what the host was sent stays, and of the front end's state at most the rings change, and the host lines that it
still has to use. -/
structure RingWork (s t : State) : Prop where
  sent : s.hostOut <+: t.hostOut
  fe : ∃ m fr, t.fe = { s.fe with rings := m, fresh := fr }
  frame : Frame [.regs, .cnt64, .sram, .hostMem, .reports, .hostOut, .hbm, .logPtr, .fe, .tr, .pw, .hostReads] s t

namespace RingWork

theorem refl : RingWork s s := ⟨List.prefix_rfl, ⟨_, _, rfl⟩, .refl⟩

theorem trans (h : RingWork s t) (k : RingWork t u) : RingWork s u := by
  obtain ⟨m, fr, hfe⟩ := k.fe
  obtain ⟨m', fr', hfe'⟩ := h.fe
  exact ⟨h.sent.trans k.sent, ⟨m, fr, by rw [hfe, hfe']⟩, h.frame.trans k.frame⟩

theorem ite {c : Prop} [Decidable c] {a b : State} (ha : RingWork s a) (hb : RingWork s b) : RingWork s (if c then a else b) := by
  split
  · exact ha
  · exact hb

theorem of_accesses (h : Accesses s t) : RingWork s t := by
  obtain ⟨fr, hfe⟩ := h.fe
  exact ⟨h.sent, ⟨s.fe.rings, fr, hfe⟩, h.frame.mono rfl⟩

theorem setRing {x : Ring} : RingWork s (s.setRing r x) := ⟨List.prefix_rfl, ⟨_, s.fe.fresh, rfl⟩, State.setRing_frame.mono rfl⟩

/-- A step outside the front end's state that sends the host nothing but more. -/
theorem of_beside {ps : List Piece} (h : Frame ps s t) (hf : ps.contains .fe = false) (ho : s.hostOut <+: t.hostOut)
    (hw : Piece.within ps [.regs, .cnt64, .sram, .hostMem, .reports, .hostOut, .hbm, .logPtr, .fe, .tr, .pw, .hostReads] = true) :
    RingWork s t := ⟨ho, ⟨s.fe.rings, s.fe.fresh, h .fe hf⟩, h.mono hw⟩

theorem wset (h : RingWork s t) (k : Nat) : t.wset k = s.wset k := by
  obtain ⟨m, fr, hfe⟩ := h.fe
  unfold State.wset
  rw [hfe]

theorem lsl (h : RingWork s t) (k : Nat) : t.lsl k = s.lsl k := by
  obtain ⟨m, fr, hfe⟩ := h.fe
  unfold State.lsl
  rw [hfe]

theorem copies (h : RingWork s t) : t.fe.copies = s.fe.copies := by
  obtain ⟨m, fr, hfe⟩ := h.fe
  rw [hfe]

theorem copyEng (h : RingWork s t) : t.fe.copyEng = s.fe.copyEng := by
  obtain ⟨m, fr, hfe⟩ := h.fe
  rw [hfe]

theorem um (h : RingWork s t) (v : Nat) : t.um v = s.um v := by
  unfold State.um
  rw [show t.ums = s.ums from h.frame .ums rfl]

theorem ftime (h : RingWork s t) : t.ftime = s.ftime := h.frame .ftime rfl

theorem waitsOver (h : RingWork s t) (ws : List (Nat × Nat)) : t.waitsOver ws = s.waitsOver ws := by
  unfold State.waitsOver
  simp only [h.lsl]

theorem posts {v : Nat} (h : RingWork t u) (hp : Posts s t r v) : Posts s u r v := fun hhost => h.sent.subset (hp hhost)

end RingWork

theorem State.ring_of_accesses (h : Accesses s t) (q : Nat) : t.ring q = s.ring q := by
  obtain ⟨fr, hfe⟩ := h.fe
  exact State.ring_of_fe (by rw [hfe]) q

theorem State.ring_setRing_eq {x : Ring} : (s.setRing r x).ring q = if q = r then x else s.ring q := by
  split
  · next h => rw [h, State.ring_setRing]
  · next h => exact State.ring_setRing_ne x h

/-! The command at the head is taken. -/

/-- The ring once its head command has been taken. -/
def Ring.taken (x : Ring) : Ring := { x with head := (x.head + 1) % 2 ^ 32, live := x.live ++ [x.head], wait := .none }

theorem State.take_work : RingWork s (s.take r).2 :=
  ((RingWork.of_accesses State.memTouch_accesses).trans .setRing).trans (.of_accesses State.ringSync_accesses)

theorem State.take_space : SameSpace s (s.take r).2 :=
  (State.memTouch_accesses.space.frame State.setRing_frame rfl).trans State.ringSync_accesses.space

theorem State.ring_take : (s.take r).2.ring q = if q = r then (s.ring r).taken else s.ring q := by
  have htouch : ∀ {m a}, (s.memTouch m a).ring q = s.ring q := State.ring_of_accesses State.memTouch_accesses q
  refine State.ring_ringSync.trans (State.ring_setRing_eq.trans ?_)
  rw [htouch]
  rfl

theorem take_takes : Takes s (s.take r).2 r := by
  unfold Takes
  simp only [State.ring_take, ↓reduceIte]
  exact ⟨rfl, rfl, rfl, fun q hq => if_neg hq⟩

/-! A command ends. -/

/-- The ring once the record of the command numbered `n` has gone out, where one is due. -/
def Ring.recorded (x : Ring) (n w status : Nat) : Ring :=
  { x with cplTail := if status ≠ 0 ∨ bitN w 8 then (x.cplTail + 1) % 2 ^ 32 else x.cplTail, live := x.live.erase n }

/-- The ring once it STOPS, if it was ACTIVE (R254). -/
def Ring.stopped (x : Ring) (code n : Nat) : Ring :=
  if x.state ≠ 1 then x
  else { x with state := 2, stopCode := code, stopHead := n, wait := match x.wait with
    | .granted t => .granted t
    | _ => .none }

/-- The ring once the command numbered `n` has ended. -/
def Ring.ended (x : Ring) (n w status : Nat) : Ring :=
  if status ≠ 0 ∧ (bitN w 10 ∨ status = 0x13) then (x.recorded n w status).stopped status n else x.recorded n w status

theorem bitsN_recBytes {lid op slot t1 : Nat} (hn : n < 2 ^ 32) :
    bitsN (recBytes lid op status n detail slot t0 t1 ver) 63 32 = n := by
  have hsplit : recBytes lid op status n detail slot t0 t1 ver =
      (lid % 2 ^ 16 + 2 ^ 16 * (op % 256) + 2 ^ 24 * (status % 256)) + 2 ^ 32 * (n + 2 ^ 32 * (detail % 2 ^ 32 + 2 ^ 32 * (slot % 256)
        + 2 ^ 64 * (t0 % 2 ^ 64) + 2 ^ 128 * (t1 % 2 ^ 64) + 2 ^ 192 * (ver % 2 ^ 32))) := by
    unfold recBytes
    rw [Nat.mod_eq_of_lt hn]
    ring
  rw [hsplit]
  generalize detail % 2 ^ 32 + _ + _ + _ + _ = x
  show (_ + 2 ^ 32 * (n + 2 ^ 32 * x)) / 2 ^ 32 % 2 ^ 32 = n
  omega

theorem State.trDrop_beside {time : Nat} : Beside s (s.trDrop time) := by
  unfold State.trDrop
  have hdrop : ∀ x : Trace, Beside s ((s.setTr x).addReg .tr 0 0x114 1) := fun _ =>
    (Beside.refl.frame State.setTr_frame rfl rfl).frame State.addReg_frame rfl rfl
  exact .ite ((hdrop _).trans State.event_beside) (hdrop _)

theorem State.trace_beside {ty flags source lid slot payload : Nat} : Beside s (s.trace q ty flags source lid slot payload) := by
  unfold State.trace
  exact .ite .refl (.ite State.trDrop_beside (Beside.refl.frame State.setTr_frame rfl rfl))

theorem State.trace_work {ty flags source lid slot payload : Nat} : RingWork s (s.trace q ty flags source lid slot payload) :=
  .of_beside State.trace_frame rfl State.trace_beside.sent rfl

theorem State.msix_work {vec : Nat} : RingWork s (s.msix vec) := .of_beside State.msix_frame rfl State.msix_beside.sent rfl

theorem State.event_work {b : Blk} {m e : Nat} : RingWork s (s.event b m e) := .of_beside State.event_frame rfl State.event_beside.sent rfl

/-- The state once the bytes of a record have been written. -/
def State.wroteRec (s : State) (r : Nat) (h : HeldRec) : State :=
  s.memPutN (s.ringUnit (s.ring r)) ((s.ring r).cplBase + s.ringUnit (s.ring r) * ((s.ring r).cplTail % 2 ^ (s.ring r).cplLog2))
    (h.bytes % 2 ^ (8 * s.ringUnit (s.ring r)))

theorem wroteRec_posts {h : HeldRec} : Posts s (s.wroteRec r h) r h.bytes := by
  unfold Posts State.wroteRec
  intro n a hhost
  unfold State.memPutN
  rw [hhost]
  have hmod : h.bytes % 2 ^ (8 * n) % 2 ^ (8 * n) = h.bytes % 2 ^ (8 * n) := Nat.mod_mod _ _
  rw [hmod]
  exact List.mem_append_right _ (List.mem_singleton.mpr rfl)

/-- The ring once a record has gone out. -/
def Ring.put (x : Ring) (n : Nat) : Ring := { x with cplTail := (x.cplTail + 1) % 2 ^ 32, live := x.live.erase n }

/-- What follows the bytes of a record (R257, R417): the ring's counts, the trace record. -/
def State.countRec (s : State) (r : Nat) (x : Ring) (h : HeldRec) : State :=
  ((s.setRing r (x.put (bitsN h.bytes 63 32))).ringSync r).trace 512 0x02 0 0x1000 (bitsN h.bytes 15 0) (bitsN h.bytes 103 96)
    (bitsN h.bytes 31 24 + 2 ^ 32 * bitsN h.bytes 95 64)

theorem State.putRec_eq {h : HeldRec} : s.putRec r h = (let u := (s.wroteRec r h).countRec r (s.ring r) h
    if h.irq then u.msix (s.ring r).msix else u) := rfl

theorem State.countRec_work {x : Ring} {h : HeldRec} : RingWork s (s.countRec r x h) :=
  (RingWork.setRing.trans (.of_accesses State.ringSync_accesses)).trans State.trace_work

theorem State.ring_countRec {x : Ring} {h : HeldRec} :
    (s.countRec r x h).ring q = if q = r then x.put (bitsN h.bytes 63 32) else s.ring q :=
  (State.ring_of_fe (congrArg Front.rings (State.trace_frame .fe rfl)) q).trans (State.ring_ringSync.trans State.ring_setRing_eq)

theorem State.wroteRec_putRec {h : HeldRec} : RingWork (s.wroteRec r h) (s.putRec r h) := by
  rw [State.putRec_eq]
  exact .ite (State.countRec_work.trans State.msix_work) State.countRec_work

theorem State.putRec_work {h : HeldRec} : RingWork s (s.putRec r h) :=
  (RingWork.of_accesses State.memPutN_accesses).trans State.wroteRec_putRec

theorem State.ring_putRec {h : HeldRec} :
    (s.putRec r h).ring q = if q = r then (s.ring r).put (bitsN h.bytes 63 32) else s.ring q := by
  have hcount : ((s.wroteRec r h).countRec r (s.ring r) h).ring q = if q = r then (s.ring r).put (bitsN h.bytes 63 32) else s.ring q := by
    rw [State.ring_countRec]
    split
    · rfl
    · exact State.ring_of_accesses State.memPutN_accesses q
  rw [State.putRec_eq, ← hcount]
  dsimp only
  split
  · exact State.ring_of_fe (congrArg Front.rings (State.msix_frame .fe rfl)) q
  · rfl

theorem putRec_posts {h : HeldRec} : Posts s (s.putRec r h) r h.bytes := State.wroteRec_putRec.posts wroteRec_posts

theorem State.ringStop_work {code : Nat} {m : Option Nat} : RingWork s (s.ringStop r code m) := by
  unfold State.ringStop State.modRing
  exact .ite .refl ((RingWork.setRing.trans (.of_accesses State.ringSync_accesses)).trans State.event_work)

theorem State.ring_ringStop {code : Nat} : (s.ringStop r code (some n)).ring q = if q = r then (s.ring r).stopped code n else s.ring q := by
  unfold State.ringStop Ring.stopped
  by_cases h1 : (s.ring r).state ≠ 1
  · rw [if_pos h1, if_pos h1]
    split
    · next h => rw [h]
    · rfl
  · rw [if_neg h1, if_neg h1]
    exact (State.ring_of_fe (congrArg Front.rings (State.event_frame .fe rfl)) q).trans (State.ring_ringSync.trans State.ring_setRing_eq)

/-! The end of a command of a ring that can take its record. -/

theorem postRec_eq_putRec (ho : RingOpen s r) {h : HeldRec} (hs : h.slot = none) : s.postRec r h = s.putRec r h := by
  obtain ⟨hheld, hsigs, hroom, hready, hdis, htdi⟩ := ho
  have hflush : State.flushRecs ((s.ring r).held.length + 1) s r = s := by
    unfold State.flushRecs
    dsimp only
    rw [hheld]
  unfold State.postRec
  rw [if_neg htdi, hflush]
  simp only [hheld, hroom, hready, List.isEmpty_nil, Bool.and_self, ↓reduceIte]
  exact State.writeRec_none hs

/-- The record of the command numbered `n`, where one is due. -/
def State.putDue (s : State) (r n w status detail t0 ver : Nat) : State :=
  if status ≠ 0 ∨ bitN w 8 then
    s.putRec r ⟨recBytes (bitsN w 27 16) (bitsN w 7 0) status n detail 0xFF t0 s.ftime ver, bitN w 9, none, false⟩
  else s.modRing r (fun x => { x with live := x.live.erase n })

theorem State.endRec_eq (ho : RingOpen s r) : s.endRec r n w status detail t0 ver =
    (let u := s.putDue r n w status detail t0 ver
      if status ≠ 0 ∧ (bitN w 10 ∨ status = 0x13) then u.ringStop r status (some n) else u) := by
  unfold State.endRec State.putDue
  dsimp only
  rw [postRec_eq_putRec ho rfl]

theorem State.putDue_work : RingWork s (s.putDue r n w status detail t0 ver) := .ite State.putRec_work .setRing

theorem State.ring_putDue (hn : n < 2 ^ 32) :
    (s.putDue r n w status detail t0 ver).ring q = if q = r then (s.ring r).recorded n w status else s.ring q := by
  unfold State.putDue Ring.recorded
  split
  · rw [State.ring_putRec, bitsN_recBytes hn]
    rfl
  · exact State.ring_setRing_eq

theorem State.endRec_work (ho : RingOpen s r) : RingWork s (s.endRec r n w status detail t0 ver) := by
  rw [State.endRec_eq ho]
  exact .ite (State.putDue_work.trans State.ringStop_work) State.putDue_work

theorem State.ring_endRec (ho : RingOpen s r) (hn : n < 2 ^ 32) :
    (s.endRec r n w status detail t0 ver).ring q = if q = r then (s.ring r).ended n w status else s.ring q := by
  rw [State.endRec_eq ho]
  unfold Ring.ended
  dsimp only
  split
  · rw [State.ring_ringStop, State.ring_putDue hn, State.ring_putDue hn, if_pos rfl]
    split <;> rfl
  · exact State.ring_putDue hn

theorem endRec_posts (ho : RingOpen s r) (h : status ≠ 0 ∨ bitN w 8 = true) : Posts s (s.endRec r n w status detail t0 ver) r
    (recBytes (bitsN w 27 16) (bitsN w 7 0) status n detail 0xFF t0 s.ftime ver) := by
  rw [State.endRec_eq ho]
  unfold State.putDue
  rw [if_pos h]
  dsimp only
  split
  · exact State.ringStop_work.posts putRec_posts
  · exact putRec_posts

theorem Ring.ended_waits {x : Ring} : (x.ended n w status).sigs = x.sigs ∧ (x.ended n w status).disabling = x.disabling := by
  unfold Ring.ended Ring.stopped
  split
  · split <;> exact ⟨rfl, rfl⟩
  · exact ⟨rfl, rfl⟩

/-- With no SIGNAL that waits and no DISABLE nothing follows a command's end. -/
theorem State.ringSettle_rests {r : RingId} (hs : (s.ring r.val).sigs = []) (hd : (s.ring r.val).disabling = false) : s.ringSettle r = s := by
  have hrun : ∀ m, State.runSigs m s r = s := fun m => by
    cases m with
    | zero => rfl
    | succ m =>
      unfold State.runSigs
      dsimp only
      rw [hs]
  unfold State.ringSettle State.ringIdle
  rw [hrun]
  dsimp only
  split
  · rfl
  · simp [hd]

theorem State.cmdEnd_eq {r : RingId} (ho : RingOpen s r.val) (hn : n < 2 ^ 32) :
    s.cmdEnd r n w status detail t0 ver = s.endRec r.val n w status detail t0 ver := by
  have hring : (s.endRec r.val n w status detail t0 ver).ring r.val = (s.ring r.val).ended n w status := by
    rw [State.ring_endRec ho hn, if_pos rfl]
  obtain ⟨-, hsigs, -, -, hdis, -⟩ := ho
  obtain ⟨hs, hd⟩ := Ring.ended_waits (x := s.ring r.val) (n := n) (w := w) (status := status)
  exact State.ringSettle_rests (by rw [hring, hs, hsigs]) (by rw [hring, hd, hdis])

end Sys2Proof.Machine
end

section
/-! SUPPORT. The head command of a ring: it is taken into the copy engine, or it ends at once (R251 to R256). -/

namespace Sys2Proof.Claims
open Sys2Proof.Machine

variable {s t u : State} {r : RingId} {op n w status detail t0 ver : Nat}

/-- A good command at the head runs. -/
theorem onHead_atHead {k : Nat → State} (h : AtHead s r.val op w) : s.onHead r op k = k w := by
  obtain ⟨hcmd, hgood, hop, hc6⟩ := h
  have h6 : (s.ringC6 (s.ring r.val) && decide (8 ≤ op)) = false := by
    rcases hc6 with h | h
    · rw [h, Bool.false_and]
    · simp [h]
  unfold State.onHead
  simp [hcmd, hgood, hop, h6]

theorem AtHead.open_ring {r : Nat} (h : AtHead s r op w) : (s.ring r).state = 1 ∧ (s.ring r).disabling = false := by
  have hcmd := h.1
  unfold State.headCmd at hcmd
  dsimp only at hcmd
  split at hcmd
  · next hr => exact ⟨hr.1, by simpa using hr.2.1⟩
  · cases hcmd

/-- What says where the next record of a ring goes. -/
def recordAt (x : Ring) : Bool × Nat × Nat × Nat := (x.c6, x.cplBase, x.cplTail, x.cplLog2)

theorem posts_of_space {r v : Nat} (hs : SameSpace s u) (hr : recordAt (u.ring r) = recordAt (s.ring r)) (h : Posts u t r v) :
    Posts s t r v := by
  obtain ⟨hc6, hbase, htail, hlog⟩ : (u.ring r).c6 = (s.ring r).c6 ∧ (u.ring r).cplBase = (s.ring r).cplBase ∧
      (u.ring r).cplTail = (s.ring r).cplTail ∧ (u.ring r).cplLog2 = (s.ring r).cplLog2 := by
    simpa [recordAt] using hr
  have hunit : u.ringUnit (u.ring r) = s.ringUnit (s.ring r) := by
    rw [hs.ringUnit]
    unfold State.ringUnit State.ringC6
    rw [hc6]
  unfold Posts at *
  simpa only [hunit, hbase, htail, hlog, hs.placeOf, hs.hostAddr, hs.tdiRuns] using h

theorem cplReady_recordAt {x y : Ring} (h : recordAt x = recordAt y) : s.cplReady x = s.cplReady y := by
  obtain ⟨hc6, hbase, htail, hlog⟩ : x.c6 = y.c6 ∧ x.cplBase = y.cplBase ∧ x.cplTail = y.cplTail ∧ x.cplLog2 = y.cplLog2 := by
    simpa [recordAt] using h
  unfold State.cplReady State.ringUnit State.ringC6
  simp only [hc6, hbase, htail, hlog]

/-- A ring whose head command has just been taken can take its record. -/
theorem ringOpen_taken (ha : AtHead s r.val op w) (hi : RingIdle s r.val) (hr : u.ring r.val = (s.ring r.val).taken) (hs : SameSpace s u) :
    RingOpen u r.val := by
  obtain ⟨-, hheld, hsigs, hroom, hready, htdi, -⟩ := hi
  refine ⟨?_, ?_, ?_, ?_, ?_, ?_⟩
  · rw [hr]; exact hheld
  · rw [hr]; exact hsigs
  · rw [hr]; exact hroom
  · rw [hr, hs.cplReady, ← hready]
    exact cplReady_recordAt rfl
  · rw [hr]; exact ha.open_ring.2
  · rw [hs.sec]; exact htdi

/-- The end of a command that has just been taken from an idle ring. -/
theorem taken_ends (ha : AtHead s r.val op w) (hi : RingIdle s r.val) (hr : u.ring r.val = (s.ring r.val).taken) (hs : SameSpace s u)
    (hf : u.ftime = s.ftime) :
    let t := u.cmdEnd r (s.ring r.val).head w status detail t0 ver
    RingWork u t ∧
      HeadEnds s t r.val (if status ≠ 0 ∧ (bitN w 10 ∨ status = 0x13) then 2 else 1) (decide (status ≠ 0 ∨ bitN w 8)) ∧
      ((status ≠ 0 ∨ bitN w 8 = true) →
        Posts s t r.val (recBytes (bitsN w 27 16) op status (s.ring r.val).head detail 0xFF t0 s.ftime ver)) := by
  have ho : RingOpen u r.val := ringOpen_taken ha hi hr hs
  obtain ⟨hstate, hdis⟩ := ha.open_ring
  obtain ⟨-, -, hop, -⟩ := ha
  obtain ⟨hlive, -, -, -, -, -, hhead⟩ := hi
  intro t
  have ht : t = u.endRec r.val (s.ring r.val).head w status detail t0 ver := State.cmdEnd_eq ho hhead
  have hring : t.ring r.val = (s.ring r.val).taken.ended (s.ring r.val).head w status := by
    rw [ht, State.ring_endRec ho hhead, if_pos rfl, hr]
  refine ⟨?_, ?_, fun hdue => ?_⟩
  · rw [ht]
    exact State.endRec_work ho
  · unfold HeadEnds
    rw [hring]
    unfold Ring.ended Ring.stopped Ring.recorded Ring.taken
    by_cases hstop : status ≠ 0 ∧ (bitN w 10 = true ∨ status = 0x13) <;> simp [hstop, hstate, hlive]
  · refine posts_of_space hs (by rw [hr]; rfl) ?_
    rw [ht, ← hop, ← hf]
    exact endRec_posts ho hdue

/-- A command that is refused at the head ends there with its status. -/
theorem headEnd_refuses (ha : AtHead s r.val op w) (hi : RingIdle s r.val) (h0 : status ≠ 0) (h13 : status ≠ 0x13) :
    let t := s.headEnd r w status detail ver
    HeadEnds s t r.val (if bitN w 10 then 2 else 1) true ∧ (∀ n, t.wset n = s.wset n) ∧
      Posts s t r.val (recBytes (bitsN w 27 16) (bitsN w 7 0) status (s.ring r.val).head detail 0xFF s.ftime s.ftime ver) := by
  intro t
  have htake : RingWork s (s.take r.val).2 := State.take_work
  obtain ⟨hwork, hends, hposts⟩ := taken_ends (status := status) (detail := detail) (t0 := s.ftime) (ver := ver) ha hi
    (State.ring_take.trans (if_pos rfl)) State.take_space htake.ftime
  refine ⟨?_, fun n => (hwork.wset n).trans (htake.wset n), ?_⟩
  · rw [if_congr (by simp [h0, h13] : (status ≠ 0 ∧ (bitN w 10 = true ∨ status = 0x13)) ↔ bitN w 10 = true) rfl rfl] at hends
    rwa [decide_eq_true (.inl h0)] at hends
  · rw [ha.2.2.1]
    exact hposts (.inl h0)

end Sys2Proof.Claims
end

section
/-! SUPPORT. The copy engine (R254, R272 to R275): a command enters it, its lines move or it waits for its peer, and it ends. -/

namespace Sys2Proof.Machine
open Sys2Proof.Claims

variable {s t u : State} {c : CopyCmd}

@[simp] theorem State.wset_setWset {k : Nat} {x : WSet} : (s.setWset k x).wset k = x := SMap.get_put_same

theorem onlyWset_setWset {k : Nat} {x : WSet} : OnlyWset k s (s.setWset k x) := fun _ hn => SMap.get_put_ne hn

/-! Commands in the engine. -/

theorem mem_setCopy (hc : c ∈ s.fe.copies) {c' : CopyCmd} (hid : c'.id = c.id) : c' ∈ (s.setCopy c').fe.copies :=
  List.mem_map.mpr ⟨c, hc, if_pos hid.symm⟩

/-- The command once its lines move. -/
def State.moving (s : State) (c : CopyCmd) : CopyCmd :=
  { c with phase := 1, mc0 := if C.op c.w = 2 ∨ C.mcast c.w = 0 then 0 else s.mcCount (C.mcast c.w - 1) true }

/-- The command once it waits for its peer. -/
def State.awaiting (s : State) (c : CopyCmd) : CopyCmd :=
  { c with phase := 2, seen := s.tallyVal (s.tref none none (C.tally c.w % 2 ^ 18)), seenAt := s.ftime }

theorem moving_mem_copyMove {src dst : Nat} (hc : c ∈ s.fe.copies) : s.moving c ∈ (s.copyMove c src dst).fe.copies := mem_setCopy hc rfl

theorem awaiting_mem_copyPeer (hc : c ∈ s.fe.copies) : s.awaiting c ∈ (s.copyPeer c).fe.copies := mem_setCopy hc rfl

theorem copyMove_moves {src dst : Nat} : Moves s (s.copyMove c src dst) c.id c.w src dst := ⟨_, rfl, rfl, rfl, rfl, rfl, rfl⟩

/-! A command is taken. -/

/-- The command at the head of ring `r` as it enters the engine. -/
def State.entering (s : State) (r : RingId) (w phase : Nat) (ws : List (Nat × Nat)) : CopyCmd :=
  ⟨s.fe.copyEng.nextId, r.val, (s.ring r.val).head, w, phase, s.ftime, 0, s.ftime, ws, 0⟩

/-- The engine with one more command. -/
def State.enter (s : State) (c : CopyCmd) : State :=
  { s with fe := { s.fe with copyEng := { s.fe.copyEng with nextId := s.fe.copyEng.nextId + 1 }, copies := s.fe.copies ++ [c] } }

theorem State.copyTake_eq {r : RingId} {w phase : Nat} {ws : List (Nat × Nat)} :
    s.copyTake r w phase ws = (s.entering r w phase ws, (s.take r.val).2.enter (s.entering r w phase ws)) := by
  unfold State.entering
  rw [← (State.take_work (s := s) (r := r.val)).copyEng]
  rfl

/-- The engine once the command at the head of ring `r` has entered. -/
theorem entering_mem {r : RingId} {c : CopyCmd} : c ∈ ((s.take r.val).2.enter c).fe.copies :=
  List.mem_append_right _ (List.mem_singleton.mpr rfl)

theorem takes_of_rings {r : Nat} (h : t.fe.rings = (s.take r).2.fe.rings) : Takes s t r := by
  have hring : ∀ q, t.ring q = (s.take r).2.ring q := State.ring_of_fe h
  unfold Takes
  simp only [hring]
  exact take_takes

theorem wset_of_wsets (h : t.fe.wsets = s.fe.wsets) (k : Nat) : t.wset k = s.wset k := by
  unfold State.wset
  rw [h]

theorem enter_wset {r : Nat} {c : CopyCmd} (k : Nat) : ((s.take r).2.enter c).wset k = s.wset k :=
  (State.take_work (s := s) (r := r)).wset k

theorem onlyWset_entered {r k : Nat} {c : CopyCmd} {x : WSet} : OnlyWset k s (((s.take r).2.enter c).setWset k x) :=
  fun n hn => (onlyWset_setWset n hn).trans (enter_wset n)

theorem enter_space {r : Nat} {c : CopyCmd} : SameSpace s ((s.take r).2.enter c) :=
  State.take_space.frame (Frame.set_fe (ps := [.fe]) rfl .refl) rfl

/-- A move that begins as the command enters. -/
theorem moves_entered {r : RingId} {c : CopyCmd} {src dst : Nat} :
    Moves s (((s.take r.val).2.enter c).copyMove c src dst) c.id c.w src dst := by
  obtain ⟨x, hfly, h⟩ := copyMove_moves (s := (s.take r.val).2.enter c) (c := c) (src := src) (dst := dst)
  refine ⟨x, ?_, h⟩
  rw [hfly, ← (State.take_work (s := s) (r := r.val)).copyEng]
  rfl

/-! A command ends. -/

/-- The ring that a command of the engine came from. -/
def homeRing (c : CopyCmd) : RingId := ⟨c.ring % 32768, Nat.mod_lt _ (by decide)⟩

theorem State.copyEnd_eq {status detail ver : Nat} :
    s.copyEnd c status detail ver = (s.copyGone c).cmdEnd (homeRing c) c.head c.w status detail c.t0 ver := rfl

theorem State.copyGone_frame : Frame [.fe, .fab] s (s.copyGone c) := by
  unfold State.copyGone
  exact Frame.step State.setFab_frame rfl (Frame.set_fe rfl .refl)

theorem copyGone_wset (k : Nat) : (s.copyGone c).wset k = s.wset k := wset_of_wsets rfl k

theorem ringOpen_of_space {r : Nat} (ho : RingOpen s r) (hs : SameSpace s u) (hr : u.ring r = s.ring r) : RingOpen u r := by
  obtain ⟨hheld, hsigs, hroom, hready, hdis, htdi⟩ := ho
  unfold RingOpen
  rw [hr, hs.cplReady, hs.sec]
  exact ⟨hheld, hsigs, hroom, hready, hdis, htdi⟩

/-- The end of a command once its effect stands, in a state `u` that differs from `s` in the weight sets, the slots and the umbels at most:
it has left, and only its ring changes besides. -/
theorem copyEnd_leaves {status detail ver : Nat} (hf : Frame [.fe, .ums] s u) (hr : u.fe.rings = s.fe.rings)
    (hc : u.fe.copies = s.fe.copies) (ho : RingOpen s (c.ring % 32768)) (hn : c.head < 2 ^ 32) :
    let t := u.copyEnd c status detail ver
    Leaves s t c status detail ver ∧ (∀ k, t.wset k = u.wset k) ∧ (∀ v, t.um v = u.um v) ∧
      t.ring (c.ring % 32768) = (s.ring (c.ring % 32768)).ended c.head c.w status := by
  intro t
  have hgone : Frame [.fe, .ums, .fab] s (u.copyGone c) := (hf.mono rfl).trans (State.copyGone_frame.mono rfl)
  have hspace : SameSpace s (u.copyGone c) := .of_frame hgone rfl
  have hring : (u.copyGone c).ring (c.ring % 32768) = s.ring (c.ring % 32768) := State.ring_of_fe hr _
  have hog : RingOpen (u.copyGone c) (c.ring % 32768) := ringOpen_of_space ho hspace hring
  have ht : t = (u.copyGone c).endRec (c.ring % 32768) c.head c.w status detail c.t0 ver :=
    State.copyEnd_eq.trans (State.cmdEnd_eq (r := homeRing c) hog hn)
  have hwork : RingWork (u.copyGone c) t := ht ▸ State.endRec_work hog
  have hend : t.ring (c.ring % 32768) = (s.ring (c.ring % 32768)).ended c.head c.w status := by
    rw [ht, State.ring_endRec hog hn, if_pos rfl, ← hring]
  have hrec : ((s.ring (c.ring % 32768)).ended c.head c.w status).live = (s.ring (c.ring % 32768)).live.erase c.head ∧
      ((s.ring (c.ring % 32768)).ended c.head c.w status).cplTail =
        ((s.ring (c.ring % 32768)).recorded c.head c.w status).cplTail := by
    unfold Ring.ended Ring.stopped
    split
    · split <;> exact ⟨rfl, rfl⟩
    · exact ⟨rfl, rfl⟩
  refine ⟨⟨?_, ?_, fun hdue => ⟨?_, ?_⟩⟩, fun k => hwork.wset k, fun v => hwork.um v, hend⟩
  · rw [hwork.copies, ← hc]
    rfl
  · rw [hend, hrec.1]
  · rw [hend, hrec.2]
    exact if_pos hdue
  · refine posts_of_space hspace (by rw [hring]) ?_
    rw [ht, ← show (u.copyGone c).ftime = s.ftime from hgone .ftime rfl]
    exact endRec_posts hog hdue

end Sys2Proof.Machine
end

section
/-! SUPPORT. COPY, LOAD_WEIGHTS and SWAP_LAYER at the head of a ring: O36. -/

namespace Sys2Proof.Claims
open Sys2Proof.Machine

variable {r : RingId} {s : State} {w : Nat}

/-- A command that has entered the engine as it came. -/
theorem entered_enters {t : State} {phase : Nat} {ws : List (Nat × Nat)}
    (h : t.fe.copies = ((s.take r.val).2.enter (s.entering r w phase ws)).fe.copies) : Enters s t r w phase ws :=
  ⟨s.entering r w phase ws, h ▸ entering_mem, rfl, rfl, rfl, rfl, rfl⟩

theorem copyCmd_taken (hroom : s.copyRoom w = true) (ha : AtHead s r 2 w) :
    ∃ t, exec (.copyCmd r) s = .next t ∧ Takes s t r ∧ Enters s t r w 1 [] ∧
      Moves s t s.fe.copyEng.nextId w (C.src w) (C.dst w) ∧ ∀ n, t.wset n = s.wset n := by
  refine ⟨_, congrArg Host.Outcome.next (onHead_atHead ha), ?_⟩
  simp only [hroom, ↓reduceIte, State.copyTake_eq]
  exact ⟨takes_of_rings rfl, ⟨_, moving_mem_copyMove entering_mem, rfl, rfl, rfl, rfl, rfl⟩, moves_entered,
    fun n => enter_wset (c := s.entering r w 1 []) n⟩

theorem loadWeightsBase_taken (hroom : s.copyRoom w = true) (ha : AtHead s r 8 w) (hbase : C.pack w = false) (hkey : C.ckey w = 0) :
    ∃ t, exec (.loadWeightsBase r) s = .next t ∧ Takes s t r ∧ Enters s t r w 0 (s.users (C.ws w) none) ∧
      t.wset (C.ws w) = { s.wset (C.ws w) with retiring := true } ∧ OnlyWset (C.ws w) s t := by
  have hck : s.ckOk (C.ckey w) (C.wsetId w) = true := by rw [hkey]; rfl
  refine ⟨_, congrArg Host.Outcome.next (onHead_atHead ha), ?_⟩
  simp only [hroom, hbase, hck, Bool.not_true, Bool.or_self, Bool.false_eq_true, ↓reduceIte, State.copyTake_eq]
  exact ⟨takes_of_rings rfl, entered_enters rfl, State.wset_setWset, onlyWset_entered⟩

theorem loadWeightsPack_taken (hroom : s.copyRoom w = true) (ha : AtHead s r 8 w) (hpack : C.pack w = true)
    (hv : (s.wset (C.ws w)).valid = true) (hid : (s.wset (C.ws w)).id = C.wsetId w) :
    (SMap.get none (s.wset (C.ws w)).packs (C.vslot w) = none →
      ∃ t, exec (.loadWeightsPack r) s = .next t ∧ Takes s t r ∧ Enters s t r w 0 [] ∧ ∀ n, t.wset n = s.wset n) ∧
    (∀ v, SMap.get none (s.wset (C.ws w)).packs (C.vslot w) = some v →
      ∃ t, exec (.loadWeightsPack r) s = .next t ∧ Takes s t r ∧ Enters s t r w 0 (s.users (C.ws w) (some v.addr)) ∧
        t.wset (C.ws w) =
          { s.wset (C.ws w) with packs := SMap.put none (s.wset (C.ws w)).packs (C.vslot w) (some { v with retiring := true }) } ∧
        OnlyWset (C.ws w) s t) := by
  refine ⟨fun hnone => ⟨_, congrArg Host.Outcome.next (onHead_atHead ha), ?_⟩,
    fun v hsome => ⟨_, congrArg Host.Outcome.next (onHead_atHead ha), ?_⟩⟩
  · simp only [hroom, hpack, hv, hid, hnone, Bool.not_true, Bool.or_self, bne_self_eq_false, Bool.false_eq_true, ↓reduceIte,
      State.copyTake_eq]
    exact ⟨takes_of_rings rfl, entered_enters rfl, fun n => enter_wset n⟩
  · simp only [hroom, hpack, hv, hid, hsome, Bool.not_true, Bool.or_self, bne_self_eq_false, Bool.false_eq_true, ↓reduceIte,
      State.copyTake_eq]
    exact ⟨takes_of_rings rfl, entered_enters rfl, State.wset_setWset, onlyWset_entered⟩

/-- The command has ended at the head with a status, its weight sets as they were. -/
def RefusedAt (s t : State) (r : RingId) (w status detail ver : Nat) : Prop :=
  HeadEnds s t r (if bitN w 10 then 2 else 1) true ∧ (∀ n, t.wset n = s.wset n) ∧
    Posts s t r (recBytes (bitsN w 27 16) (bitsN w 7 0) status (s.ring r.val).head detail 0xFF s.ftime s.ftime ver)

theorem loadWeightsPack_refused (hroom : s.copyRoom w = true) (ha : AtHead s r 8 w) (hpack : C.pack w = true)
    (hbad : (s.wset (C.ws w)).valid = false ∨ (s.wset (C.ws w)).id ≠ C.wsetId w) (hi : RingIdle s r) :
    ∃ t, exec (.loadWeightsPack r) s = .next t ∧ RefusedAt s t r w 6 0 0 := by
  have hcheck : (!(s.wset (C.ws w)).valid || (s.wset (C.ws w)).id != C.wsetId w) = true := by
    rcases hbad with h | h <;> simp [h]
  refine ⟨_, congrArg Host.Outcome.next (onHead_atHead ha), ?_⟩
  simp only [hroom, hpack, hcheck, Bool.not_true, Bool.or_self, Bool.false_eq_true, ↓reduceIte]
  exact headEnd_refuses ha hi (by decide) (by decide)

/-! SWAP_LAYER. -/

/-- SWAP_LAYER without RELOCATE that the weight set allows. -/
theorem swapLayer_runs (hroom : s.copyRoom w = true) (ha : AtHead s r 9 w) (hrel : C.reloc w = false) (hgood : s.swapBad w = none)
    (hkey : C.ckey w = 0) :
    exec (.swapLayer r) s = .next (if C.begin w then
      ((s.take r.val).2.enter (s.entering r w 0 (s.users (C.ws w) none))).setWset (C.ws w) { s.wset (C.ws w) with
        swapping := true, ver := ((s.wset (C.ws w)).ver + 1) % 2 ^ 32, gb := (s.wset (C.ws w)).g, next := 0
        packs := if C.keep w then (s.wset (C.ws w)).packs else State.retireAll (s.wset (C.ws w)) }
      else ((s.take r.val).2.enter (s.entering r w 1 [])).swapMove (s.entering r w 1 [])) := by
  have hck : s.ckOk (C.ckey w) (C.wsetId w) = true := by rw [hkey]; rfl
  refine (congrArg Host.Outcome.next (onHead_atHead ha)).trans ?_
  simp only [hroom, hrel, hgood, hck, Bool.not_true, Bool.or_self, Bool.false_eq_true, ↓reduceIte, State.copyTake_eq]

theorem swapLayer_begins (hroom : s.copyRoom w = true) (ha : AtHead s r 9 w) (hrel : C.reloc w = false) (hgood : s.swapBad w = none)
    (hkey : C.ckey w = 0) (hb : C.begin w = true) :
    ∃ t, exec (.swapLayer r) s = .next t ∧ Takes s t r ∧ Enters s t r w 0 (s.users (C.ws w) none) ∧
      (t.wset (C.ws w)).swapping = true ∧ (t.wset (C.ws w)).ver = ((s.wset (C.ws w)).ver + 1) % 2 ^ 32 ∧
      (t.wset (C.ws w)).gb = (s.wset (C.ws w)).g ∧ (t.wset (C.ws w)).next = 0 ∧ (t.wset (C.ws w)).lat = (s.wset (C.ws w)).lat ∧
      OnlyWset (C.ws w) s t := by
  refine ⟨_, swapLayer_runs hroom ha hrel hgood hkey, ?_⟩
  rw [if_pos hb, State.wset_setWset]
  exact ⟨takes_of_rings rfl, entered_enters rfl, rfl, rfl, rfl, rfl, rfl, onlyWset_entered⟩

theorem swapLayer_moves (hroom : s.copyRoom w = true) (ha : AtHead s r 9 w) (hrel : C.reloc w = false) (hgood : s.swapBad w = none)
    (hkey : C.ckey w = 0) (hb : C.begin w = false) (hp : C.peer w = false) :
    ∃ t, exec (.swapLayer r) s = .next t ∧ Takes s t r ∧ Enters s t r w 1 [] ∧
      Moves s t s.fe.copyEng.nextId w (C.src w) (s.own ((s.wset (C.ws w)).base + SMap.get 0 (s.wset (C.ws w)).off (C.entry w))) ∧
      ∀ n, t.wset n = s.wset n := by
  refine ⟨_, swapLayer_runs hroom ha hrel hgood hkey, ?_⟩
  have hp' : C.peer (s.entering r w 1 []).w = false := hp
  simp only [hb, State.swapMove, hp', Bool.false_eq_true, ↓reduceIte, enter_wset, enter_space.own]
  exact ⟨takes_of_rings rfl, ⟨_, moving_mem_copyMove entering_mem, rfl, rfl, rfl, rfl, rfl⟩, moves_entered,
    fun n => enter_wset (c := s.entering r w 1 []) n⟩

theorem swapLayer_awaits (hroom : s.copyRoom w = true) (ha : AtHead s r 9 w) (hrel : C.reloc w = false) (hgood : s.swapBad w = none)
    (hkey : C.ckey w = 0) (hb : C.begin w = false) (hp : C.peer w = true) :
    ∃ t, exec (.swapLayer r) s = .next t ∧ Takes s t r ∧ Enters s t r w 2 [] ∧ t.fe.copyEng.fly = s.fe.copyEng.fly ∧
      ∀ n, t.wset n = s.wset n := by
  refine ⟨_, swapLayer_runs hroom ha hrel hgood hkey, ?_⟩
  have hp' : C.peer (s.entering r w 1 []).w = true := hp
  simp only [hb, State.swapMove, hp', Bool.false_eq_true, ↓reduceIte]
  exact ⟨takes_of_rings rfl, ⟨_, awaiting_mem_copyPeer entering_mem, rfl, rfl, rfl, rfl, rfl⟩,
    (show _ = (s.take r.val).2.fe.copyEng.fly from rfl).trans (congrArg Eng.fly State.take_work.copyEng),
    fun n => enter_wset (c := s.entering r w 1 []) n⟩

/-- What a SWAP_LAYER may not do ends it with one of three statuses. -/
theorem swapBad_status {e : Nat × Nat} (h : s.swapBad w = some e) : e.1 = 6 ∨ e.1 = 7 ∨ e.1 = 1 := by
  unfold State.swapBad at h
  dsimp only at h
  split at h
  · exact .inl (congrArg Prod.fst (Option.some.inj h)).symm
  · split at h
    · exact .inr (.inl (congrArg Prod.fst (Option.some.inj h)).symm)
    · obtain ⟨o, -, rfl⟩ := Option.map_eq_some_iff.mp h
      exact .inr (.inr rfl)

theorem headEnd_swapBad {e : Nat × Nat} {ver : Nat} (ha : AtHead s r 9 w) (hbad : s.swapBad w = some e) (hi : RingIdle s r) :
    RefusedAt s (s.headEnd r w e.1 e.2 ver) r w e.1 e.2 ver := by
  have hst := swapBad_status hbad
  exact headEnd_refuses ha hi (by omega) (by omega)

theorem swapLayer_refused {e : Nat × Nat} (hroom : s.copyRoom w = true) (ha : AtHead s r 9 w) (hbad : s.swapBad w = some e)
    (hi : RingIdle s r) (hrel : C.reloc w = false) :
    ∃ t, exec (.swapLayer r) s = .next t ∧ RefusedAt s t r w e.1 e.2 (s.wset (C.ws w)).ver := by
  refine ⟨_, congrArg Host.Outcome.next (onHead_atHead ha), ?_⟩
  simp only [hroom, hrel, hbad, Bool.not_true, Bool.or_self, Bool.false_eq_true, ↓reduceIte]
  exact headEnd_swapBad ha hbad hi

/-! SWAP_LAYER with RELOCATE. -/

/-- The command of a relocation as it enters, waiting for the weight set's launches. -/
def relocCmd (s : State) (r : RingId) (w : Nat) : CopyCmd := s.entering r w 0 (s.users (C.ws w) none)

/-- The state once a relocation has entered the engine: releases of its weight set are held (R273). -/
def relocHeld (s : State) (r : RingId) (w : Nat) : State :=
  ((s.take r.val).2.enter (relocCmd s r w)).setWset (C.ws w) { s.wset (C.ws w) with reloc := true }

/-- The weight set once a relocation has written its entry. -/
def relocated (x : WSet) (w : Nat) : WSet := { x with reloc := false, lat := SMap.put 0 x.lat (C.entry w) (C.src w) }

theorem relocEnd_eq {c : CopyCmd} :
    s.relocEnd c = (s.setWset (C.ws c.w) (relocated (s.wset (C.ws c.w)) c.w)).copyEnd c 0 0 (s.wset (C.ws c.w)).ver := rfl

theorem swapRelocate_refused {e : Nat × Nat} (hroom : s.copyRoom w = true) (ha : AtHead s r 9 w) (hbad : s.swapBad w = some e)
    (hi : RingIdle s r) (hrel : C.reloc w = true) (hdue : s.relocDue r.val = none) :
    ∃ t, exec (.swapRelocate r) s = .next t ∧ RefusedAt s t r w e.1 e.2 (s.wset (C.ws w)).ver := by
  have hrun : exec (.swapRelocate r) s = .next (s.headEnd r w e.1 e.2 (s.wset (C.ws w)).ver) := by
    show execSwapRelocate r s = _
    unfold execSwapRelocate
    simp only [hdue, onHead_atHead ha, hroom, hrel, hbad, Bool.not_true, Bool.or_self, Bool.false_eq_true, ↓reduceIte]
  exact ⟨_, hrun, headEnd_swapBad ha hbad hi⟩

theorem swapRelocate_atHead (hroom : s.copyRoom w = true) (ha : AtHead s r 9 w) (hgood : s.swapBad w = none) (hrel : C.reloc w = true)
    (hdue : s.relocDue r.val = none) :
    exec (.swapRelocate r) s = .next (
      if (relocHeld s r w).waitsOver (s.users (C.ws w) none) then (relocHeld s r w).relocEnd (relocCmd s r w) else relocHeld s r w) := by
  show execSwapRelocate r s = _
  unfold execSwapRelocate
  simp only [hdue, onHead_atHead ha, hroom, hrel, hgood, Bool.not_true, Bool.or_self, Bool.false_eq_true, ↓reduceIte, State.copyTake_eq]
  rfl

theorem relocHeld_waitsOver {ws : List (Nat × Nat)} : (relocHeld s r w).waitsOver ws = s.waitsOver ws :=
  (State.take_work (s := s) (r := r.val)).waitsOver ws

theorem relocHeld_frame : Frame [.fe] ((s.take r.val).2.enter (relocCmd s r w)) (relocHeld s r w) := State.setWset_frame

theorem relocHeld_wset : (relocHeld s r w).wset (C.ws w) = { s.wset (C.ws w) with reloc := true } := State.wset_setWset

/-- A relocation that has entered holds the releases of its weight set. -/
theorem relocHeld_holds : Takes s (relocHeld s r w) r ∧ Enters s (relocHeld s r w) r w 0 (s.users (C.ws w) none) ∧
    OnlyWset (C.ws w) s (relocHeld s r w) :=
  ⟨takes_of_rings rfl, entered_enters rfl, onlyWset_entered⟩

theorem homeRing_relocCmd : homeRing (relocCmd s r w) = r := Fin.ext (Nat.mod_eq_of_lt r.isLt)

/-- The state of a relocation's end before its record. -/
def relocGone (s : State) (r : RingId) (w : Nat) : State :=
  ((relocHeld s r w).setWset (C.ws w) (relocated (s.wset (C.ws w)) w)).copyGone (relocCmd s r w)

theorem relocEnd_relocHeld : (relocHeld s r w).relocEnd (relocCmd s r w) =
    (relocGone s r w).cmdEnd r (s.ring r.val).head w 0 0 s.ftime (s.wset (C.ws w)).ver := by
  have hw : (relocCmd s r w).w = w := rfl
  have hhead : (relocCmd s r w).head = (s.ring r.val).head := rfl
  have ht0 : (relocCmd s r w).t0 = s.ftime := rfl
  have hset : relocated { s.wset (C.ws w) with reloc := true } w = relocated (s.wset (C.ws w)) w := rfl
  rw [relocEnd_eq, State.copyEnd_eq, homeRing_relocCmd, hw, hhead, ht0, relocHeld_wset, hset]
  rfl

theorem relocGone_frame : Frame [.fe, .fab] ((s.take r.val).2.enter (relocCmd s r w)) (relocGone s r w) :=
  Frame.step State.copyGone_frame rfl (Frame.step State.setWset_frame rfl (relocHeld_frame.mono rfl))

theorem relocGone_ring : (relocGone s r w).ring r.val = (s.ring r.val).taken := by
  have hrings : (relocGone s r w).fe.rings = (s.take r.val).2.fe.rings := rfl
  rw [State.ring_of_fe hrings, State.ring_take, if_pos rfl]

theorem relocGone_wset (n : Nat) : (relocGone s r w).wset n = if n = C.ws w then relocated (s.wset (C.ws w)) w else s.wset n := by
  unfold relocGone
  rw [copyGone_wset]
  split
  · next h => rw [h, State.wset_setWset]
  · next h => rw [onlyWset_setWset n h, relocHeld_holds.2.2 n h]

/-- A relocation just taken whose launches are over writes its entry and ends (R273). -/
theorem relocEnd_atHead (ha : AtHead s r 9 w) (hi : RingIdle s r) :
    let x := s.wset (C.ws w)
    let t := (relocHeld s r w).relocEnd (relocCmd s r w)
    HeadEnds s t r 1 (bitN w 8) ∧
      (bitN w 8 = true → Posts s t r (recBytes (bitsN w 27 16) 9 0 (s.ring r.val).head 0 0xFF s.ftime s.ftime x.ver)) ∧
      t.wset (C.ws w) = relocated x w ∧ OnlyWset (C.ws w) s t := by
  have htime : (relocGone s r w).ftime = s.ftime := (relocGone_frame .ftime rfl).trans (State.take_work (s := s) (r := r.val)).ftime
  obtain ⟨hwork, hends, hposts⟩ := taken_ends (status := 0) (detail := 0) (t0 := s.ftime) (ver := (s.wset (C.ws w)).ver) ha hi
    relocGone_ring (enter_space.frame relocGone_frame rfl) htime
  rw [relocEnd_relocHeld]
  refine ⟨?_, fun h8 => hposts (.inr h8), ?_, fun n hn => ?_⟩
  · simpa using hends
  · rw [hwork.wset, relocGone_wset, if_pos rfl]
  · rw [hwork.wset, relocGone_wset, if_neg hn]

theorem swapRelocate_taken (hroom : s.copyRoom w = true) (ha : AtHead s r 9 w) (hrel : C.reloc w = true) (hgood : s.swapBad w = none)
    (hdue : s.relocDue r.val = none) :
    let k := C.ws w
    let x := s.wset k
    (s.waitsOver (s.users k none) = true → RingIdle s r →
      ∃ t, exec (.swapRelocate r) s = .next t ∧ HeadEnds s t r 1 (bitN w 8) ∧
        (bitN w 8 = true → Posts s t r (recBytes (bitsN w 27 16) 9 0 (s.ring r.val).head 0 0xFF s.ftime s.ftime x.ver)) ∧
        t.wset k = { x with reloc := false, lat := SMap.put 0 x.lat (C.entry w) (C.src w) } ∧ OnlyWset k s t) ∧
    (s.waitsOver (s.users k none) = false → ∃ t, exec (.swapRelocate r) s = .next t ∧ Takes s t r ∧
      Enters s t r w 0 (s.users k none) ∧ t.wset k = { x with reloc := true } ∧ OnlyWset k s t) := by
  have hrun := swapRelocate_atHead hroom ha hgood hrel hdue
  rw [relocHeld_waitsOver] at hrun
  refine ⟨fun hdone hi => ⟨_, hrun.trans ?_, relocEnd_atHead ha hi⟩, fun hwait => ⟨relocHeld s r w, hrun.trans ?_, ?_⟩⟩
  · rw [if_pos hdone]
  · rw [if_neg (by rw [hwait]; exact Bool.false_ne_true)]
  · obtain ⟨htakes, henters, honly⟩ := relocHeld_holds (s := s) (r := r) (w := w)
    exact ⟨htakes, henters, relocHeld_wset, honly⟩

/-- A relocation that has waited for its launches writes its entry and ends (R273). -/
theorem swapRelocate_ends {c : CopyCmd} (hdue : s.relocDue r.val = some c) (ho : RingOpen s r.val) (hn : c.head < 2 ^ 32) :
    let k := C.ws c.w
    let x := s.wset k
    ∃ t, exec (.swapRelocate r) s = .next t ∧ Leaves s t c 0 0 x.ver ∧
      t.wset k = { x with reloc := false, lat := SMap.put 0 x.lat (C.entry c.w) (C.src c.w) } ∧ OnlyWset k s t := by
  intro k x
  have hrun : exec (.swapRelocate r) s = .next (s.relocEnd c) := by
    show execSwapRelocate r s = _
    unfold execSwapRelocate
    simp only [hdue]
  have hhome : c.ring % 32768 = r.val := by
    have hring := List.find?_some hdue
    simp only [Bool.and_eq_true, beq_iff_eq] at hring
    obtain ⟨⟨⟨⟨hring, -⟩, -⟩, -⟩, -⟩ := hring
    rw [hring]
    exact Nat.mod_eq_of_lt r.isLt
  obtain ⟨hleaves, hwset, -, -⟩ := copyEnd_leaves (c := c) (status := 0) (detail := 0) (ver := x.ver)
    (u := s.setWset k (relocated x c.w))
    (State.setWset_frame.mono rfl) rfl rfl (hhome ▸ ho) hn
  exact ⟨_, hrun, hleaves, (hwset k).trans State.wset_setWset, fun n hk => (hwset n).trans (onlyWset_setWset n hk)⟩

end Sys2Proof.Claims

open Sys2Proof Sys2Proof.Machine Sys2Proof.Claims

/-- Settles O36: each command at the head of a ring, and the relocation that has waited, by the lemma that says how it is taken or
ended. -/
theorem copyAndWeightCommandsAreTaken : Obligations.CopyAndWeightCommandsAreTaken := by
  unfold Obligations.CopyAndWeightCommandsAreTaken
  refine ⟨fun r s w => ?_, fun r s c => swapRelocate_ends⟩
  intro k x d head refused hroom
  refine ⟨copyCmd_taken hroom, loadWeightsBase_taken hroom, loadWeightsPack_taken hroom, loadWeightsPack_refused hroom,
    fun ha hrel hgood hkey => ⟨swapLayer_begins hroom ha hrel hgood hkey, swapLayer_moves hroom ha hrel hgood hkey,
      swapLayer_awaits hroom ha hrel hgood hkey⟩,
    fun e ha hbad hi => ⟨swapLayer_refused hroom ha hbad hi, swapRelocate_refused hroom ha hbad hi⟩,
    fun ha hrel hgood hdue => swapRelocate_taken hroom ha hrel hgood hdue⟩

end

section
/-! SUPPORT. Commands in the copy engine (R112, R254, R272 to R275, R315, R320): O37. -/

namespace Sys2Proof.Machine
open Sys2Proof.Claims

variable {s t u : State} {c : CopyCmd} {d : Nat}

/-! The waits for launches. -/

theorem mem_of_copy (h : s.copy d = some c) : c ∈ s.fe.copies ∧ c.id = d :=
  ⟨List.mem_of_find?_eq_some h, by simpa using List.find?_some h⟩

/-- The lines of a command move, or it waits for its peer's (R112, R254). -/
def State.goOn (s : State) (c : CopyCmd) (dst : Nat) : State := if C.peer c.w then s.copyPeer c else s.copyMove c (C.src c.w) dst

theorem goOn_goesOn {dst : Nat} (hc : s.copy d = some c) (hu : Frame [.fe] s u) (hcopies : u.fe.copies = s.fe.copies)
    (heng : u.fe.copyEng = s.fe.copyEng) :
    Frame [.fe] s (u.goOn c dst) ∧
      (∃ c' ∈ (u.goOn c dst).fe.copies, c'.id = d ∧ c'.w = c.w ∧ c'.phase = (if C.peer c.w then 2 else 1)) ∧
      (C.peer c.w = false → Moves s (u.goOn c dst) d c.w (C.src c.w) dst) := by
  obtain ⟨hmem, rfl⟩ := mem_of_copy hc
  rw [← hcopies] at hmem
  unfold State.goOn
  split
  · next hp => exact ⟨hu.trans State.copyPeer_frame, ⟨_, awaiting_mem_copyPeer hmem, rfl, rfl, rfl⟩, fun h => by rw [h] at hp; cases hp⟩
  · refine ⟨hu.trans State.copyMove_frame, ⟨_, moving_mem_copyMove hmem, rfl, rfl, rfl⟩, fun _ => ?_⟩
    obtain ⟨x, hfly, h⟩ := copyMove_moves (s := u) (c := c) (src := C.src c.w) (dst := dst)
    exact ⟨x, by rw [hfly, heng], h⟩

theorem goOn_wset {dst : Nat} (k : Nat) : (s.goOn c dst).wset k = s.wset k := by
  unfold State.goOn
  split <;> exact wset_of_wsets rfl k

/-- The state once LOAD_WEIGHTS has waited for its launches: a base weight set has lost its packs (R272). -/
def State.retired (s : State) (c : CopyCmd) : State :=
  if C.pack c.w then s else s.setWset (C.ws c.w) { s.wset (C.ws c.w) with packs := [] }

theorem retired_effect : Frame [.fe] s (s.retired c) ∧ (s.retired c).fe.copies = s.fe.copies ∧ (s.retired c).fe.copyEng = s.fe.copyEng ∧
    (s.retired c).wset (C.ws c.w) = { s.wset (C.ws c.w) with packs := if C.pack c.w then (s.wset (C.ws c.w)).packs else [] } ∧
    OnlyWset (C.ws c.w) s (s.retired c) := by
  unfold State.retired
  cases C.pack c.w with
  | true => exact ⟨.refl, rfl, rfl, rfl, fun _ _ => rfl⟩
  | false => exact ⟨State.setWset_frame, rfl, rfl, State.wset_setWset, onlyWset_setWset⟩

theorem retiringWaitEnd_goesOn (hc : s.copy d = some c) (h0 : c.phase = 0) (h8 : C.op c.w = 8) (hover : s.waitsOver c.waits = true) :
    let k := C.ws c.w
    let x := s.wset k
    let dst := s.own (C.dst c.w)
    ∃ t, exec (.retiringWaitEnd d) s = .next t ∧ Frame [.fe] s t ∧
      ((∃ c' ∈ t.fe.copies, c'.id = d ∧ c'.w = c.w ∧ c'.phase = (if C.peer c.w then 2 else 1)) ∧
        (C.peer c.w = false → Moves s t d c.w (C.src c.w) dst)) ∧
      t.wset k = { x with packs := if C.pack c.w then x.packs else [] } ∧ OnlyWset k s t := by
  intro k x dst
  obtain ⟨hframe, hcopies, heng, hset, honly⟩ := retired_effect (s := s) (c := c)
  have hrun : exec (.retiringWaitEnd d) s = .next ((s.retired c).goOn c dst) := by
    show execRetiringWaitEnd d s = _
    unfold execRetiringWaitEnd
    simp only [hc, h0, h8, hover, ne_eq, not_true_eq_false, Bool.not_true, Bool.false_eq_true, or_self, ↓reduceIte]
    show Host.Outcome.next ((s.retired c).goOn c ((s.retired c).own (C.dst c.w))) = _
    rw [(SameSpace.of_frame hframe rfl).own]
  obtain ⟨hfe, hgoes⟩ := goOn_goesOn (dst := dst) hc hframe hcopies heng
  exact ⟨_, hrun, hfe, hgoes, (goOn_wset k).trans hset, fun n hn => (goOn_wset n).trans (honly n hn)⟩

theorem swapBeginWaitEnd_goesOn (hc : s.copy d = some c) (h0 : c.phase = 0) (h9 : C.op c.w = 9) (hrel : C.reloc c.w = false)
    (hover : s.waitsOver c.waits = true) :
    let k := C.ws c.w
    let x := s.wset k
    let dst := s.own (x.base + SMap.get 0 x.off (C.entry c.w))
    ∃ t, exec (.swapBeginWaitEnd d) s = .next t ∧ Frame [.fe] s t ∧
      ((∃ c' ∈ t.fe.copies, c'.id = d ∧ c'.w = c.w ∧ c'.phase = (if C.peer c.w then 2 else 1)) ∧
        (C.peer c.w = false → Moves s t d c.w (C.src c.w) dst)) ∧
      t.wset k = { x with packs := if C.keep c.w then x.packs else [] } ∧ OnlyWset k s t := by
  intro k x dst
  let u : State := s.setWset k { x with packs := if C.keep c.w then x.packs else [] }
  have hset : u.wset k = { x with packs := if C.keep c.w then x.packs else [] } := State.wset_setWset
  have hown : ∀ a, u.own a = s.own a := (SameSpace.of_frame State.setWset_frame rfl).own
  have hrun : exec (.swapBeginWaitEnd d) s = .next (u.goOn c dst) := by
    show execSwapBeginWaitEnd d s = _
    unfold execSwapBeginWaitEnd
    simp only [hc, h0, h9, hrel, hover, ne_eq, not_true_eq_false, Bool.not_true, Bool.false_eq_true, or_self, ↓reduceIte]
    show Host.Outcome.next (u.swapMove c) = _
    unfold State.swapMove State.goOn
    rw [hset]
    dsimp only
    rw [hown]
  obtain ⟨hfe, hgoes⟩ := goOn_goesOn (u := u) (dst := dst) hc State.setWset_frame rfl rfl
  exact ⟨_, hrun, hfe, hgoes, (goOn_wset k).trans hset, fun n hn => (goOn_wset n).trans (onlyWset_setWset n hn)⟩

/-! The effect of an end. -/

/-- A table built key by key reads what was put. -/
theorem get_foldl_put {f : Nat → Nat} {es : List Nat} {m : SMap Nat} {e : Nat} (he : e ∈ es) :
    SMap.get 0 (es.foldl (fun m e => SMap.put 0 m e (f e)) m) e = f e := by
  have hlast : ∀ (es : List Nat) (m : SMap Nat), SMap.get 0 m e = f e → SMap.get 0 (es.foldl (fun m e => SMap.put 0 m e (f e)) m) e = f e := by
    intro es
    induction es with
    | nil => exact fun _ h => h
    | cons j es ih =>
      refine fun m h => ih _ ?_
      rw [SMap.get_put]
      split
      · next hj => rw [hj]
      · exact h
  induction es generalizing m with
  | nil => cases he
  | cons j es ih =>
    rcases List.mem_cons.mp he with rfl | he
    · exact hlast es _ SMap.get_put_same
    · exact ih he

/-- The step of SWAP_LAYER at one umbel: its GATE tally counts unless it is held in reset (R274). -/
def State.gateTick (s : State) (g u : Nat) : State :=
  if (s.um u).held then s else s.modUm u (fun m => m.setTally g (m.tally g + 1))

/-- The step of SWAP_LAYER at every umbel. -/
def State.gateUmbels (s : State) (g : Nat) : State := (List.range 32).foldl (fun s u => s.gateTick g u) s

theorem gateTick_um {g v n : Nat} : (s.gateTick g v).um n =
    if n = v ∧ (s.um v).held = false then (s.um v).setTally g ((s.um v).tally g + 1) else s.um n := by
  unfold State.gateTick State.modUm
  cases hheld : (s.um v).held with
  | true => simp
  | false =>
    by_cases hn : n = v
    · subst hn
      simp [State.um_setUm]
    · simp [hn, State.um_setUm_ne]

theorem gateUmbels_um {g v : Nat} (hv : v < 32) :
    ((s.gateUmbels g).um v).tally g = if (s.um v).held then (s.um v).tally g else (s.um v).tally g + 1 := by
  have hother : ∀ (us : List Nat) (s : State), v ∉ us → (us.foldl (fun s u => s.gateTick g u) s).um v = s.um v := by
    intro us
    induction us with
    | nil => exact fun _ _ => rfl
    | cons a us ih =>
      intro s h
      rw [List.foldl_cons, ih _ fun hin => h (List.mem_cons_of_mem _ hin), gateTick_um, if_neg]
      rintro ⟨rfl, -⟩
      exact h List.mem_cons_self
  have hown : ∀ (us : List Nat) (s : State), us.Nodup → v ∈ us →
      (us.foldl (fun s u => s.gateTick g u) s).um v = (s.gateTick g v).um v := by
    intro us
    induction us with
    | nil => exact fun _ _ h => nomatch h
    | cons a us ih =>
      intro s hnd hin
      obtain ⟨ha, hnd⟩ := List.nodup_cons.mp hnd
      rw [List.foldl_cons]
      by_cases hva : v = a
      · rw [hva] at hother ⊢
        exact hother us _ ha
      · rw [ih _ hnd ((List.mem_cons.mp hin).resolve_left hva), gateTick_um, gateTick_um]
        simp only [gateTick_um, hva, false_and, ↓reduceIte]
  unfold State.gateUmbels
  rw [hown _ _ List.nodup_range (List.mem_range.mpr hv), gateTick_um]
  cases (s.um v).held with
  | true => simp
  | false => simp [Umbel.tally, Umbel.setTally]

theorem gateUmbels_frame {g : Nat} : Frame [.ums] s (s.gateUmbels g) :=
  Frame.foldl fun _ _ => .ite .refl State.modUm_frame

/-- Releases that a swap sequence of weight set `k` held go on (R275). -/
def State.resumeHeld (s : State) (k : Nat) : State :=
  { s with fe := { s.fe with slots := s.fe.slots.map (fun t =>
      if t.2.ws = some k ∧ t.2.suspended then
        (t.1, { t.2 with suspended := false, tAdv := s.ftime, nextSample := s.ftime + samplePeriod t.2.window })
      else t) } }

/-- The weight set once one more entry has been replaced. -/
def replacedEntry (x : WSet) (w : Nat) : WSet := { x with g := (x.g + 1) % 2 ^ 32, next := C.entry w + 1, swapping := !C.fin w }

/-- The weight set with its entry replaced, in a state whose umbels have counted. -/
def State.gateEnd (s : State) (k w : Nat) (x : WSet) : State :=
  if C.fin w then (s.setWset k x).resumeHeld k else s.setWset k x

theorem gateEnd_effect {k w : Nat} {x : WSet} : Frame [.fe] s (s.gateEnd k w x) ∧ (s.gateEnd k w x).fe.rings = s.fe.rings ∧
    (s.gateEnd k w x).fe.copies = s.fe.copies ∧ (s.gateEnd k w x).wset k = x ∧ OnlyWset k s (s.gateEnd k w x) := by
  unfold State.gateEnd
  split
  · exact ⟨Frame.set_fe rfl State.setWset_frame, rfl, rfl, State.wset_setWset, onlyWset_setWset⟩
  · exact ⟨State.setWset_frame, rfl, rfl, State.wset_setWset, onlyWset_setWset⟩

theorem gateStep_eq {k w : Nat} :
    s.gateStep k w = (s.gateUmbels (s.wset k).gate).gateEnd k w (replacedEntry (s.wset k) w) := by
  unfold State.gateStep State.gateEnd State.resumeHeld replacedEntry State.gateUmbels State.gateTick
  with_reducible rfl

/-- What the replacement of an entry leaves (R274). -/
theorem gateStep_effect {k w : Nat} : Frame [.fe, .ums] s (s.gateStep k w) ∧ (s.gateStep k w).fe.rings = s.fe.rings ∧
    (s.gateStep k w).fe.copies = s.fe.copies ∧ (s.gateStep k w).wset k = replacedEntry (s.wset k) w ∧ OnlyWset k s (s.gateStep k w) ∧
    ∀ v, v < 32 → ((s.gateStep k w).um v).tally (s.wset k).gate =
      if (s.um v).held then (s.um v).tally (s.wset k).gate else (s.um v).tally (s.wset k).gate + 1 := by
  have hframe : Frame [.ums] s (s.gateUmbels (s.wset k).gate) := gateUmbels_frame
  have hfe : (s.gateUmbels (s.wset k).gate).fe = s.fe := hframe .fe rfl
  have htally := fun v (hv : v < 32) => gateUmbels_um (s := s) (g := (s.wset k).gate) hv
  rw [gateStep_eq]
  generalize s.gateUmbels (s.wset k).gate = u at *
  obtain ⟨hend, hrings, hcopies, hset, honly⟩ := gateEnd_effect (s := u) (k := k) (w := w) (x := replacedEntry (s.wset k) w)
  have hwset : ∀ n, u.wset n = s.wset n := wset_of_wsets (congrArg Front.wsets hfe)
  refine ⟨(hframe.mono rfl).trans (hend.mono rfl), by rw [hrings, hfe], by rw [hcopies, hfe], hset, fun n hn => ?_, fun v hv => ?_⟩
  · exact (honly n hn).trans (hwset n)
  · rw [← htally v hv]
    unfold State.um
    rw [show State.ums _ = u.ums from hend .ums rfl]

/-! The end of a command (R254, R272 to R275). -/

theorem copyFinish_copy (h2 : C.op c.w = 2) (ho : RingOpen s (c.ring % 32768)) (hn : c.head < 2 ^ 32) :
    Leaves s (s.copyFinish c) c 0 0 (verOf s c) ∧ Finished s (s.copyFinish c) c := by
  have hrun : s.copyFinish c = s.copyEnd c 0 0 0 := by simp only [State.copyFinish, h2]
  have hver : verOf s c = 0 := by simp [verOf, h2]
  obtain ⟨hleaves, hset, -, -⟩ := copyEnd_leaves (s := s) (u := s) (c := c) (status := 0) (detail := 0) (ver := 0) .refl rfl rfl ho hn
  rw [hrun, hver]
  refine ⟨hleaves, fun _ => hset, ?_, ?_, ?_⟩ <;> exact fun h => absurd (h2.symm.trans h) (by decide)

theorem copyFinish_pack (h8 : C.op c.w = 8) (hpack : C.pack c.w = true) (hgood : s.packBad (s.wset (C.ws c.w)) (C.dst c.w) = none)
    (ho : RingOpen s (c.ring % 32768)) (hn : c.head < 2 ^ 32) :
    Leaves s (s.copyFinish c) c 0 0 (verOf s c) ∧ Finished s (s.copyFinish c) c := by
  let x : WSet := { s.wset (C.ws c.w) with
    packs := SMap.put none (s.wset (C.ws c.w)).packs (C.vslot c.w) (some ⟨C.dst c.w, s.memGetN 4 (C.dst c.w + 0x14), false⟩) }
  have hrun : s.copyFinish c = (s.setWset (C.ws c.w) x).copyEnd c 0 0 (s.wset (C.ws c.w)).ver := by
    simp only [State.copyFinish, h8, hpack, hgood, ↓reduceIte, x]
  have hver : verOf s c = (s.wset (C.ws c.w)).ver := if_pos (.inr ⟨h8, hpack⟩)
  obtain ⟨hleaves, hset, -, -⟩ := copyEnd_leaves (s := s) (u := s.setWset (C.ws c.w) x) (c := c) (status := 0) (detail := 0)
    (ver := (s.wset (C.ws c.w)).ver) (State.setWset_frame.mono rfl) rfl rfl ho hn
  rw [hrun, hver]
  refine ⟨hleaves, fun h => absurd (h8.symm.trans h) (by decide), fun _ h => absurd (hpack.symm.trans h) (by decide),
    fun _ _ => ⟨(hset _).trans State.wset_setWset, fun n hne => (hset n).trans (onlyWset_setWset n hne)⟩,
    fun h => absurd (h8.symm.trans h) (by decide)⟩

/-- What the checks of a base weight set read of it. -/
theorem readWset_table {a id lines g e : Nat} (he : e < s.memGetN 2 (a + 4)) :
    let y := (s.readWset a id lines g).2
    SMap.get 0 y.off e = s.memGetN 8 (a + 128 + 16 * e) ∧ SMap.get 0 y.lat e = s.own (a + s.memGetN 8 (a + 128 + 16 * e)) ∧
      SMap.get 0 y.lines e = s.memGetN 4 (a + 128 + 16 * e + 8) :=
  have hin := List.mem_range.mpr he
  ⟨get_foldl_put hin, get_foldl_put (f := fun e => s.own (a + s.memGetN 8 (a + 128 + 16 * e))) hin,
    get_foldl_put (f := fun e => s.memGetN 4 (a + 128 + 16 * e + 8)) hin⟩

theorem copyFinish_base (h8 : C.op c.w = 8) (hbase : C.pack c.w = false) (hkey : C.ckey c.w = 0)
    (hgood : (s.readWset (C.dst c.w) (C.wsetId c.w) (C.lines c.w) (s.wset (C.ws c.w)).g).1 = none)
    (ho : RingOpen s (c.ring % 32768)) (hn : c.head < 2 ^ 32) :
    Leaves s (s.copyFinish c) c 0 0 (verOf s c) ∧ Finished s (s.copyFinish c) c := by
  let x : WSet := (s.readWset (C.dst c.w) (C.wsetId c.w) (C.lines c.w) (s.wset (C.ws c.w)).g).2
  have hrun : s.copyFinish c = (s.setWset (C.ws c.w) x).copyEnd c 0 0 0 := by
    simp only [State.copyFinish, h8, hbase, hgood, State.digestBad, hkey, Bool.false_eq_true, ↓reduceIte, x]
  have hver : verOf s c = 0 := by simp [verOf, h8, hbase]
  obtain ⟨hleaves, hset, -, -⟩ := copyEnd_leaves (s := s) (u := s.setWset (C.ws c.w) x) (c := c) (status := 0) (detail := 0)
    (ver := 0) (State.setWset_frame.mono rfl) rfl rfl ho hn
  rw [hrun, hver]
  refine ⟨hleaves, fun h => absurd (h8.symm.trans h) (by decide), fun _ _ => ?_,
    fun _ h => absurd (hbase.symm.trans h) (by decide), fun h => absurd (h8.symm.trans h) (by decide)⟩
  rw [hset, State.wset_setWset]
  exact ⟨rfl, rfl, rfl, rfl, rfl, rfl, rfl, rfl, rfl, rfl, rfl, rfl, fun n hne => (hset n).trans (onlyWset_setWset n hne),
    fun e he => readWset_table he⟩

theorem copyFinish_swap (h9 : C.op c.w = 9) (hkey : C.ckey c.w = 0) (ho : RingOpen s (c.ring % 32768)) (hn : c.head < 2 ^ 32) :
    Leaves s (s.copyFinish c) c 0 0 (verOf s c) ∧ Finished s (s.copyFinish c) c := by
  have hrun : s.copyFinish c = (s.gateStep (C.ws c.w) c.w).copyEnd c 0 0 (s.wset (C.ws c.w)).ver := by
    simp only [State.copyFinish, h9, State.digestBad, hkey, ↓reduceIte]
  have hver : verOf s c = (s.wset (C.ws c.w)).ver := if_pos (.inl h9)
  obtain ⟨hframe, hrings, hcopies, hstep, honly, htally⟩ := gateStep_effect (s := s) (k := C.ws c.w) (w := c.w)
  obtain ⟨hleaves, hset, hum, -⟩ := copyEnd_leaves (c := c) (status := 0) (detail := 0) (ver := (s.wset (C.ws c.w)).ver)
    hframe hrings hcopies ho hn
  rw [hrun, hver]
  refine ⟨hleaves, fun h => absurd (h9.symm.trans h) (by decide), fun h => absurd (h9.symm.trans h) (by decide),
    fun h => absurd (h9.symm.trans h) (by decide),
    fun _ => ⟨(hset _).trans hstep, fun n hne => (hset n).trans (honly n hne), fun v hv => ?_⟩⟩
  rw [hum]
  exact htally v hv

theorem copyFinish_finishes (hgood : GoodEnd s c) (ho : RingOpen s (c.ring % 32768)) (hn : c.head < 2 ^ 32) :
    Leaves s (s.copyFinish c) c 0 0 (verOf s c) ∧ Finished s (s.copyFinish c) c := by
  obtain ⟨hop, hkey, hbase, hpack⟩ := hgood
  rcases hop with h2 | h8 | h9
  · exact copyFinish_copy h2 ho hn
  · cases hp : C.pack c.w with
    | true => exact copyFinish_pack h8 hp (hpack h8 hp) ho hn
    | false => exact copyFinish_base h8 hp hkey (hbase h8 hp) ho hn
  · exact copyFinish_swap h9 hkey ho hn

theorem copyUndo_undoes : Frame [.fe] s (s.copyUndo c) ∧ (s.copyUndo c).fe.rings = s.fe.rings ∧ (s.copyUndo c).fe.copies = s.fe.copies ∧
    Failed s (s.copyUndo c) c := by
  unfold State.copyUndo Failed
  by_cases h8 : C.op c.w = 8
  · cases hp : C.pack c.w <;> simp only [h8, ne_eq, not_true_eq_false, Bool.false_eq_true, ↓reduceIte] <;>
      exact ⟨State.setWset_frame, rfl, rfl, onlyWset_setWset, State.wset_setWset⟩
  · simp only [h8, ne_eq, not_false_eq_true, ↓reduceIte]
    exact ⟨.refl, trivial, trivial, fun _ _ => rfl, trivial⟩

theorem copyFail_fails {status detail : Nat} (ho : RingOpen s (c.ring % 32768)) (hn : c.head < 2 ^ 32) :
    let t := s.copyFail c status detail
    Leaves s t c status detail (if C.op c.w = 9 then (s.wset (C.ws c.w)).ver else 0) ∧ Failed s t c ∧
      t.ring (c.ring % 32768) = (s.ring (c.ring % 32768)).ended c.head c.w status := by
  intro t
  obtain ⟨hframe, hrings, hcopies, honly, hundo⟩ := copyUndo_undoes (s := s) (c := c)
  obtain ⟨hleaves, hset, -, hring⟩ := copyEnd_leaves (c := c) (status := status) (detail := detail)
    (ver := if C.op c.w = 9 then (s.wset (C.ws c.w)).ver else 0) (hframe.mono rfl) hrings hcopies ho hn
  exact ⟨hleaves, ⟨fun n hne => (hset n).trans (honly n hne), (hset _).trans hundo⟩, hring⟩

/-- A watchdog status stops an ACTIVE ring (R254). -/
theorem ended_stops {r : Ring} {n w : Nat} (h1 : r.state = 1) :
    (r.ended n w 0x13).state = 2 ∧ (r.ended n w 0x13).stopCode = 0x13 := by
  have hrun : (r.recorded n w 0x13).state = 1 := h1
  unfold Ring.ended Ring.stopped
  rw [if_pos ⟨by decide, .inr rfl⟩, if_neg (not_not.mpr hrun)]
  exact ⟨rfl, rfl⟩

/-! The events of the engine. -/

/-- Every line of a command is in place. -/
theorem copyEngineComplete_done {q : Desc} (hc : s.copy d = some c) (hq : s.fe.copyEng.desc d = some q) (hall : AllLines s c q) :
    exec (.copyEngineComplete d) s = .next (s.copyFinish c) := by
  obtain ⟨h1, hlost, hlines, htree⟩ := hall
  have hdone : s.copyDone c q = true := by
    unfold State.copyDone
    rcases htree with h2 | h0 | ⟨-, hcount⟩
    · simp [hlines, h2]
    · simp [hlines, h0]
    · simp [hlines, hcount]
  have hwhole : ¬ (C.op c.w ≠ 2 ∧ C.mcast c.w ≠ 0 ∧ SMap.get false s.fab.mcBroken (C.mcast c.w - 1) = true) := by
    rintro ⟨hne2, hne0, hbroken⟩
    rcases htree with h2 | h0 | ⟨hok, -⟩
    · exact hne2 h2
    · exact hne0 h0
    · rw [hok] at hbroken
      cases hbroken
  show execCopyEngineComplete d s = _
  unfold execCopyEngineComplete
  simp only [hc, hq]
  rw [if_neg (not_not.mpr h1), if_neg (not_or.mpr ⟨not_not.mpr hlost, hwhole⟩), if_pos hdone]

theorem copyEngineComplete_lost {q : Desc} (hc : s.copy d = some c) (hq : s.fe.copyEng.desc d = some q) (h1 : c.phase = 1)
    (hlost : q.lost ≠ 0) : exec (.copyEngineComplete d) s = .next (s.copyFail c 0x11 Code.lineLoss) := by
  show execCopyEngineComplete d s = _
  unfold execCopyEngineComplete
  simp only [hc, hq]
  rw [if_neg (not_not.mpr h1), if_pos (.inl hlost)]

/-- A base weight set that fails its checks. -/
theorem copyFinish_badBase {o : Nat} (h8 : C.op c.w = 8) (hbase : C.pack c.w = false)
    (hbad : (s.readWset (C.dst c.w) (C.wsetId c.w) (C.lines c.w) (s.wset (C.ws c.w)).g).1 = some o) :
    s.copyFinish c = s.copyFail c 0x0E o := by
  simp only [State.copyFinish, h8, hbase, hbad, Bool.false_eq_true, ↓reduceIte]

/-- The value of the tally that a command waits for. -/
def State.peerTally (s : State) (c : CopyCmd) : BitVec 32 := s.tallyVal (s.tref none none (C.tally c.w % 2 ^ 18))

theorem peerTallyReached_done (hc : s.copy d = some c) (h2 : c.phase = 2)
    (hmet : waitOk (s.peerTally c) (BitVec.ofNat 32 (C.target c.w)) = true) :
    exec (.peerTallyReached d) s = .next (s.copyFinish c) := by
  show execPeerTallyReached d s = _
  unfold execPeerTallyReached
  simp only [hc]
  rw [if_pos ⟨h2, hmet⟩]

/-- A command whose peer's tally is short of its target. -/
theorem peerTimeout_short (hc : s.copy d = some c) (h2 : c.phase = 2)
    (hmet : waitOk (s.peerTally c) (BitVec.ofNat 32 (C.target c.w)) = false) :
    exec (.peerTimeout d) s = .next (
      if s.peerTally c ≠ c.seen then s.setCopy { c with seen := s.peerTally c, seenAt := s.ftime }
      else if s.regN .fe 0 0x110 * 1000 ≤ s.ftime - c.seenAt then s.copyFail c 0x13 0
      else s) := by
  show execPeerTimeout d s = _
  unfold execPeerTimeout
  simp only [hc]
  rw [if_neg]
  · rfl
  · rintro (hne | hyes)
    · exact hne h2
    · exact absurd (hmet.symm.trans hyes) (by decide)

end Sys2Proof.Machine

open Sys2Proof Sys2Proof.Machine Sys2Proof.Claims

/-- Settles O37: each event of the engine is one of `goOn`, `copyFinish`, `copyFail` and a new look at the peer's tally, and the end of
a command leaves only its ring, its record and its effect (`copyEnd_leaves`). -/
theorem copyEngineCommandsComplete : Obligations.CopyEngineCommandsComplete := by
  unfold Obligations.CopyEngineCommandsComplete
  intro d s c hc hn k x r v met goesOn
  obtain ⟨hmem, hid⟩ := mem_of_copy hc
  refine ⟨fun h0 h8 hover => retiringWaitEnd_goesOn hc h0 h8 hover, fun h0 h9 hrel hover => swapBeginWaitEnd_goesOn hc h0 h9 hrel hover,
    fun ho => ⟨fun hgood => ⟨fun q hq hall => ?_, fun h2 hmet => ?_⟩, fun q o hq hall h8 hbase hbad => ?_,
      fun q hq h1 hlost => ?_, fun h2 hmet hseen hold => ?_⟩, fun h2 hmet hrise => ?_⟩
  · exact ⟨_, copyEngineComplete_done hc hq hall, copyFinish_finishes hgood ho hn⟩
  · exact ⟨_, peerTallyReached_done hc h2 hmet, copyFinish_finishes hgood ho hn⟩
  · obtain ⟨hleaves, hfailed, -⟩ := copyFail_fails (status := 0x0E) (detail := o) ho hn
    rw [if_neg (by rw [h8]; decide)] at hleaves
    refine ⟨_, ?_, hleaves, hfailed⟩
    rw [copyEngineComplete_done hc hq hall, copyFinish_badBase h8 hbase hbad]
  · obtain ⟨hleaves, hfailed, -⟩ := copyFail_fails (status := 0x11) (detail := Code.lineLoss) ho hn
    exact ⟨_, copyEngineComplete_lost hc hq h1 hlost, hleaves, hfailed⟩
  · obtain ⟨hleaves, hfailed, hring⟩ := copyFail_fails (status := 0x13) (detail := 0) ho hn
    refine ⟨_, (peerTimeout_short hc h2 hmet).trans ?_, hleaves, hfailed, fun h1 => ?_⟩
    · exact congrArg Host.Outcome.next ((if_neg (not_not.mpr hseen)).trans (if_pos hold))
    · rw [hring]
      exact ended_stops h1
  · refine ⟨_, (peerTimeout_short hc h2 hmet).trans (congrArg Host.Outcome.next (if_pos hrise)), ⟨_, mem_setCopy hmem rfl, hid, h2, rfl, rfl⟩,
      State.setCopy_frame⟩
end

section
/-! SUPPORT. The queue of a load engine (R151, R161, R169) and the lines that its floret takes (R157, R177): O27. -/

namespace Sys2Proof.Machine
open Sys2Proof.Claims

variable {s t u : State} {f : FloretId}

/-! What a completion leaves of feeds and patch requests. -/

/-- The feeds of every floret and the patch requests of every umbel stay. -/
structure FeedsStay (s t : State) : Prop where
  feeds : ∀ n, (t.fl n).feeds = (s.fl n).feeds
  ddq : ∀ n, (t.um n).ddq = (s.um n).ddq

namespace FeedsStay

theorem refl : FeedsStay s s := ⟨fun _ => rfl, fun _ => rfl⟩

theorem trans (h : FeedsStay s t) (k : FeedsStay t u) : FeedsStay s u :=
  ⟨fun n => (k.feeds n).trans (h.feeds n), fun n => (k.ddq n).trans (h.ddq n)⟩

theorem of_frame {ps : List Piece} (h : Frame ps s t) (hf : ps.contains .fls = false) (hu : ps.contains .ums = false) : FeedsStay s t := by
  refine ⟨fun n => by rw [State.fl_of_frame h hf], fun n => ?_⟩
  unfold State.um
  rw [h .ums hu]

theorem modFl {n : Nat} {h : Floret → Floret} (hh : ∀ fl, (h fl).feeds = fl.feeds) : FeedsStay s (s.modFl n h) := by
  refine ⟨fun m => ?_, fun _ => rfl⟩
  unfold State.modFl
  by_cases hm : m = n
  · rw [hm, State.fl_setFl, hh]
  · exact congrArg Floret.feeds (State.fl_setFl_ne _ _ hm)

theorem modUm {n : Nat} {h : Umbel → Umbel} (hh : ∀ um, (h um).ddq = um.ddq) : FeedsStay s (s.modUm n h) := by
  refine ⟨fun _ => rfl, fun m => ?_⟩
  unfold State.modUm
  by_cases hm : m = n
  · rw [hm, State.um_setUm, hh]
  · exact congrArg Umbel.ddq (State.um_setUm_ne _ _ hm)

theorem feed (h : FeedsStay s t) (n e : Nat) : (t.fl n).feed e = (s.fl n).feed e := by
  unfold Floret.feed
  rw [h.feeds]

end FeedsStay

/-- An addition to a tally of a floret. -/
theorem State.addTally_fl_feeds {n i : Nat} {v : W32} : FeedsStay s (s.modFl n (fun x => x.setTally i (x.tally i + v))) :=
  .modFl (h := fun x => x.setTally i (x.tally i + v)) fun _ => rfl

/-- An addition to a tally of an umbel. -/
theorem State.addTally_um_feeds {n i : Nat} {v : W32} : FeedsStay s (s.modUm n (fun x => x.setTally i (x.tally i + v))) :=
  .modUm (h := fun x => x.setTally i (x.tally i + v)) fun _ => rfl

theorem State.modEng_load_feeds {h : Eng → Eng} : FeedsStay s (s.modEng (.load f) h) :=
  .modFl (h := fun fl => { fl with le := h (s.eng (.load f)) }) fun _ => rfl

theorem State.tallyAdd_feeds {q : Req} {a b : Option Nat} {r : Nat} {v : W32} : FeedsStay s (s.tallyAdd q a b r v).2 := by
  have herr : ∀ q addr, FeedsStay s (s.addrErr q addr true) := fun _ _ => .of_frame State.addrErr_frame rfl rfl
  have hungate : ∀ n, FeedsStay s (s.ungate n) := fun _ => .of_frame State.ungate_frame rfl rfl
  unfold State.tallyAdd
  split
  · exact .refl
  · split
    · exact .refl
    · exact (hungate _).trans State.addTally_um_feeds
  · dsimp only
    split
    · exact herr _ _
    · split
      · exact .refl
      · split
        · exact herr _ _
        · exact (hungate _).trans State.addTally_fl_feeds

theorem State.doSignal_feeds {g : Agent} {d : Desc} : FeedsStay s (s.doSignal g d).2 := by
  unfold State.doSignal
  extract_lets v r fw
  have hr : FeedsStay s r.2 := State.tallyAdd_feeds
  split
  · exact hr
  · exact hr
  · extract_lets i
    have hi : FeedsStay s i.2 := hr.trans (.of_frame State.inject_frame rfl rfl)
    split
    · exact hi
    · exact hi

theorem State.doEnd_load_feeds {d : Desc} : FeedsStay s (s.doEnd (.load f) d).2 :=
  .modFl (h := fun fl => { fl with ends := setBitN fl.ends (D.feed d.w) true }) fun _ => rfl

theorem State.complete_load_feeds {d : Desc} : FeedsStay s (s.complete (.load f) d) :=
  (State.modEng_load_feeds.trans State.addTally_fl_feeds).trans (.of_frame State.progress_frame rfl rfl)

theorem State.engLoss_load_feeds {write : Bool} : FeedsStay s (s.engLoss (.load f) write) :=
  (State.modEng_load_feeds.trans (.of_frame State.sticky_frame rfl rfl)).trans (.of_frame State.flFault_frame rfl rfl)

theorem State.cascade_load_feeds {n : Nat} : FeedsStay s (State.cascade n s (.load f)) := by
  induction n generalizing s with
  | zero => exact .refl
  | succ n ih =>
    unfold State.cascade
    extract_lets x
    split
    · next d _ _ =>
      extract_lets k r
      split
      · exact .refl
      · have hr : FeedsStay s r.2 := by
          dsimp only [r]
          split
          · exact State.doSignal_feeds
          · exact State.doEnd_load_feeds
        split
        · exact (hr.trans State.complete_load_feeds).trans ih
        · exact hr.trans State.modEng_load_feeds
        · exact (hr.trans State.complete_load_feeds).trans State.engLoss_load_feeds
    · exact .refl

theorem State.settle_load_feeds {id : Nat} : FeedsStay s (s.settle (.load f) id) := by
  unfold State.settle
  dsimp only [State.roomMade]
  split
  · split
    · exact State.complete_load_feeds.trans State.cascade_load_feeds
    · exact .refl
  · exact .refl

/-! Places of feeds in a near bank (R157, R177). -/

/-- A feed but for its presence bits, which are all that the arrival of lines changes of it. -/
def Feed.bare (fd : Feed) : Feed := { fd with present := [] }

/-- A line may arrive at near-bank line `l`: no feed there would discard it. -/
def Floret.lineOpen (fl : Floret) (l : Nat) : Prop := ∀ p ∈ fl.feedLines (l % 32768), fl.feedFull p = false

theorem feedLines_of_region {fl fl' : Floret} (hb : ∀ e, (fl'.feed e).base = (fl.feed e).base)
    (hs : ∀ e, (fl'.feed e).slots = (fl.feed e).slots) (hl : ∀ e, (fl'.feed e).bl = (fl.feed e).bl) (l : Nat) :
    fl'.feedLines l = fl.feedLines l := by
  unfold Floret.feedLines
  simp only [hb, hs, hl]

/-- A place of a feed lies at one line of the near bank. -/
theorem line_of_mem_feedLines {fl : Floret} {l : Nat} {p : Nat × Nat × Nat} (h : p ∈ fl.feedLines l) :
    l = (fl.feed p.1).base + ((fl.feed p.1).bl * p.2.1 + p.2.2) := by
  obtain ⟨e, -, he⟩ := List.mem_filterMap.mp h
  dsimp only at he
  split at he
  · next hin =>
    obtain rfl := Option.some.inj he
    dsimp only
    rw [Nat.div_add_mod]
    omega
  · cases he

@[simp] theorem Floret.feed_setFeed {fl : Floret} {e : Nat} {x : Feed} : (fl.setFeed e x).feed e = x := SMap.get_put_same

theorem Floret.feed_setFeed_ne {fl : Floret} {e n : Nat} {x : Feed} (h : n ≠ e) : (fl.setFeed e x).feed n = fl.feed n := SMap.get_put_ne h

theorem bare_setPresent {fl : Floret} {p : Nat × Nat × Nat} (e : Nat) : ((fl.setPresent p).feed e).bare = (fl.feed e).bare := by
  unfold Floret.setPresent
  by_cases he : e = p.1
  · rw [he, Floret.feed_setFeed]
    rfl
  · rw [Floret.feed_setFeed_ne he]

theorem setBitN_eq {n i : Nat} : setBitN n i true = 2 ^ (i + 1) * (n / 2 ^ (i + 1)) + (2 ^ i + n % 2 ^ i) := by
  unfold setBitN setBitsN
  dsimp only
  rw [show i + 1 - i = 1 by omega, if_pos rfl, Nat.mod_eq_of_lt (show 1 < 2 ^ 1 by decide)]
  ring

theorem setBitN_below {n i : Nat} : setBitN n i true % 2 ^ i = n % 2 ^ i := by
  have hpow : 2 ^ (i + 1) = 2 ^ i * 2 := Nat.pow_succ ..
  have hsplit : setBitN n i true = n % 2 ^ i + 2 ^ i * (2 * (n / 2 ^ (i + 1)) + 1) := by
    rw [setBitN_eq, hpow]
    ring
  rw [hsplit, Nat.add_mul_mod_self_left, Nat.mod_mod]

theorem setBitN_above {n i : Nat} : setBitN n i true / 2 ^ (i + 1) = n / 2 ^ (i + 1) := by
  have hlow : n % 2 ^ i < 2 ^ i := Nat.mod_lt _ (Nat.two_pow_pos i)
  have hpow : 2 ^ (i + 1) = 2 ^ i * 2 := Nat.pow_succ ..
  have hbelow : (2 ^ i + n % 2 ^ i) / 2 ^ (i + 1) = 0 := Nat.div_eq_of_lt (by omega)
  rw [setBitN_eq, Nat.mul_add_div (Nat.two_pow_pos _), hbelow, Nat.add_zero]

theorem bitN_setBitN_ne {n i j : Nat} (h : j ≠ i) : bitN (setBitN n i true) j = bitN n j := by
  rw [bitN_eq_testBit, bitN_eq_testBit]
  rcases Nat.lt_or_gt_of_ne h with hj | hj
  · have hread : ∀ w, Nat.testBit w j = Nat.testBit (w % 2 ^ i) j := fun w => by
      rw [Nat.testBit_mod_two_pow, decide_eq_true hj, Bool.true_and]
    rw [hread, setBitN_below, ← hread]
  · obtain ⟨k, rfl⟩ : ∃ k, j = i + 1 + k := Nat.exists_eq_add_of_lt hj |>.imp fun k hk => by omega
    have hread : ∀ w, Nat.testBit w (i + 1 + k) = Nat.testBit (w / 2 ^ (i + 1)) k := fun w => by
      rw [Nat.testBit_div_two_pow, Nat.add_comm]
    rw [hread, setBitN_above, ← hread]

/-- The presence bit of one place says nothing of another. -/
theorem feedFull_setPresent {fl : Floret} {p q : Nat × Nat × Nat} (h : q ≠ p) : (fl.setPresent p).feedFull q = fl.feedFull q := by
  unfold Floret.feedFull Floret.setPresent
  by_cases h1 : q.1 = p.1
  · rw [h1, Floret.feed_setFeed]
    dsimp only
    by_cases h2 : q.2.1 = p.2.1
    · have h3 : q.2.2 ≠ p.2.2 := fun h3 => h (Prod.ext h1 (Prod.ext h2 h3))
      rw [h2, SMap.get_put_same, bitN_setBitN_ne h3]
    · rw [SMap.get_put_ne h2]
  · rw [Floret.feed_setFeed_ne h1]

theorem bare_setPresents {ps : List (Nat × Nat × Nat)} {fl : Floret} (e : Nat) :
    ((ps.foldl Floret.setPresent fl).feed e).bare = (fl.feed e).bare := by
  induction ps generalizing fl with
  | nil => rfl
  | cons p ps ih => exact ih.trans (bare_setPresent e)

theorem feedFull_setPresents {ps : List (Nat × Nat × Nat)} {fl : Floret} {q : Nat × Nat × Nat} (h : q ∉ ps) :
    (ps.foldl Floret.setPresent fl).feedFull q = fl.feedFull q := by
  induction ps generalizing fl with
  | nil => rfl
  | cons p ps ih =>
    obtain ⟨hp, hps⟩ := not_or.mp (mt List.mem_cons.mpr h)
    exact (ih hps).trans (feedFull_setPresent hp)

theorem feedLines_of_bare {fl fl' : Floret} (h : ∀ e, (fl'.feed e).bare = (fl.feed e).bare) (l : Nat) : fl'.feedLines l = fl.feedLines l :=
  feedLines_of_region (fun e => (congrArg Feed.base (h e) :)) (fun e => (congrArg Feed.slots (h e) :)) (fun e => (congrArg Feed.bl (h e) :)) l

/-- A line that arrives leaves other lines of the near bank as open as they were. -/
theorem lineOpen_setPresents {fl : Floret} {l m : Nat} (hne : m % 32768 ≠ l % 32768) (h : fl.lineOpen m) :
    ((fl.feedLines (l % 32768)).foldl Floret.setPresent fl).lineOpen m := by
  intro p hp
  rw [feedLines_of_bare bare_setPresents] at hp
  rw [feedFull_setPresents]
  · exact h p hp
  · intro hl
    exact hne ((line_of_mem_feedLines hp).trans (line_of_mem_feedLines hl).symm)

end Sys2Proof.Machine
end

section
/-! SUPPORT. Patch requests (R106, R161): O27. -/

namespace Sys2Proof.Machine
open Sys2Proof.Claims

variable {s t u : State}

/-! Lines that a load engine writes itself. -/

theorem nbLine_lineNo {f l : Nat} : Vec.nbLine f l / 128 % 32768 = l % 32768 := by
  unfold Vec.nbLine
  omega

theorem feedArrive_open {f l src : Nat} (h : (s.fl f).lineOpen l) : s.feedArrive f (Vec.nbLine f l) src =
    (true, if (s.fl f).feedLines (l % 32768) = [] then s else
      s.setFl f (((s.fl f).feedLines (l % 32768)).foldl Floret.setPresent (s.fl f))) := by
  have hfree : ((s.fl f).feedLines (l % 32768)).find? (s.fl f).feedFull = none :=
    List.find?_eq_none.mpr fun p hp => by rw [h p hp]; exact Bool.false_ne_true
  unfold State.feedArrive
  rw [nbLine_lineNo]
  simp only [hfree]
  split <;> rfl

/-- The floret once a line has arrived at an open place. -/
theorem feedArrive_open_fl {f l src : Nat} (h : (s.fl f).lineOpen l) :
    (s.feedArrive f (Vec.nbLine f l) src).2.fl f = ((s.fl f).feedLines (l % 32768)).foldl Floret.setPresent (s.fl f) := by
  rw [feedArrive_open h]
  dsimp only
  split
  · next hnil => rw [hnil]; rfl
  · exact State.fl_setFl _ _ _

/-- One of the lines that a load engine writes itself. -/
def State.putLine (s : State) (f l : Nat) (ln : Line) : State :=
  let r := s.feedArrive f (Vec.nbLine f l) f
  if r.1 then (r.2.sramBytes (.nb f) true).sramPut (Vec.nbLine f l) fullMask ln false else r.2

theorem State.putLines_eq {f l : Nat} {ls : List Line} :
    s.putLines f l ls = (List.range ls.length).foldl (fun s i => s.putLine f (l + i) (ls.getD i 0)) s := rfl

theorem State.putLine_open {f l : Nat} {ln : Line} (h : (s.fl f).lineOpen l) :
    (s.putLine f l ln).sram = Memory.writeLine s.sram (Vec.nbLine f l) ln ∧
      (s.putLine f l ln).fl f = ((s.fl f).feedLines (l % 32768)).foldl Floret.setPresent (s.fl f) := by
  have harr := State.feedArrive_frame (s := s) (f := f) (a := Vec.nbLine f l) (src := f)
  have hbytes := State.sramBytes_frame (s := (s.feedArrive f (Vec.nbLine f l) f).2) (p := .nb f) (wr := true)
  have hdone : (s.feedArrive f (Vec.nbLine f l) f).1 = true := congrArg Prod.fst (feedArrive_open h)
  have hrun : s.putLine f l ln =
      ((s.feedArrive f (Vec.nbLine f l) f).2.sramBytes (.nb f) true).sramPut (Vec.nbLine f l) fullMask ln false := if_pos hdone
  rw [hrun]
  constructor
  · unfold State.sramPut
    rw [if_pos rfl]
    exact congrArg (fun m => Memory.writeLine m (Vec.nbLine f l) ln) ((hbytes .sram rfl).trans (harr .sram rfl))
  · rw [State.fl_of_frame State.sramPut_frame rfl, State.fl_of_frame hbytes rfl]
    exact feedArrive_open_fl h

theorem State.feedArrive_bare {f a src : Nat} (e : Nat) : (((s.feedArrive f a src).2.fl f).feed e).bare = ((s.fl f).feed e).bare := by
  unfold State.feedArrive
  dsimp only
  split
  · rw [State.fl_of_frame State.feedOverrun_frame rfl]
  · split
    · rfl
    · rw [State.fl_setFl]
      exact bare_setPresents e

theorem State.putLine_bare {f l : Nat} {ln : Line} (e : Nat) : (((s.putLine f l ln).fl f).feed e).bare = ((s.fl f).feed e).bare := by
  unfold State.putLine
  dsimp only
  split
  · rw [State.fl_of_frame State.sramPut_frame rfl, State.fl_of_frame State.sramBytes_frame rfl, State.feedArrive_bare]
  · exact State.feedArrive_bare e

theorem State.putLines_bare {f l : Nat} {ls : List Line} (e : Nat) : (((s.putLines f l ls).fl f).feed e).bare = ((s.fl f).feed e).bare := by
  rw [State.putLines_eq]
  generalize List.range ls.length = is
  induction is generalizing s with
  | nil => rfl
  | cons i is ih => exact ih.trans (State.putLine_bare e)

/-- A line written elsewhere in the near bank leaves a line as it was. -/
theorem readLine_writeLine_ne {m : Memory} {f k l : Nat} {ln : Line} (h : k % 32768 ≠ l % 32768) :
    Memory.readLine (Memory.writeLine m (Vec.nbLine f l) ln) (Vec.nbLine f k) = Memory.readLine m (Vec.nbLine f k) := by
  unfold Memory.readLine Memory.writeLine
  rw [Memory.readN_writeN_other]
  unfold Vec.nbLine
  omega

/-- Lines written in turn at open places: the first `n` stand in the near bank, the others' places are still open. -/
theorem State.putLines_prefix {f l m n : Nat} {line : Nat → Line} (hn : n ≤ m) (hm : m ≤ 32768)
    (hopen : ∀ j, j < m → (s.fl f).lineOpen (l + j)) :
    let t := (List.range n).foldl (fun s i => s.putLine f (l + i) (line i)) s
    (∀ j, j < n → Memory.readLine t.sram (Vec.nbLine f (l + j)) = line j) ∧ ∀ j, n ≤ j → j < m → (t.fl f).lineOpen (l + j) := by
  induction n with
  | zero => exact ⟨fun _ hj => absurd hj (Nat.not_lt_zero _), fun j _ => hopen j⟩
  | succ n ih =>
    obtain ⟨hstored, hfree⟩ := ih (by omega)
    rw [List.range_succ, List.foldl_append, List.foldl_cons, List.foldl_nil]
    obtain ⟨hsram, hfl⟩ := State.putLine_open (ln := line n) (hfree n (Nat.le_refl n) (by omega))
    intro t
    refine ⟨fun j hj => ?_, fun j hj hjm => ?_⟩
    · rw [hsram]
      by_cases hjn : j = n
      · rw [hjn]
        exact Memory.readLine_writeLine
      · rw [readLine_writeLine_ne (by omega)]
        exact hstored j (by omega)
    · rw [hfl]
      exact lineOpen_setPresents (by omega) (hfree j (by omega) hjm)

theorem State.putLines_stores {f l : Nat} {ls : List Line} (hm : ls.length ≤ 32768) (hopen : ∀ j, j < ls.length → (s.fl f).lineOpen (l + j)) :
    ∀ j, j < ls.length → Memory.readLine (s.putLines f l ls).sram (Vec.nbLine f (l + j)) = ls.getD j 0 :=
  (State.putLines_prefix (Nat.le_refl _) hm hopen).1

/-! A request (R106, R161). -/

/-- The state once slot `asked` of a patch feed is named for the next tile of descriptor `d`. -/
def State.askSlot (s : State) (f : FloretId) (e d : Nat) : State :=
  (s.setFl f.val ((s.fl f.val).setFeed e { (s.fl f.val).feed e with asked := ((s.fl f.val).feed e).asked + 1 })).modDesc (.load f) d
    (fun q => { q with asked := q.asked + 1 })

variable {f : FloretId} {e d : Nat}

theorem State.askSlot_frame : Frame [.fls] s (s.askSlot f e d) := by
  unfold State.askSlot State.modDesc State.modEng State.setEng
  exact Frame.step State.modFl_frame rfl (Frame.step State.setFl_frame rfl .refl)

theorem State.askSlot_feeds : ((s.askSlot f e d).fl f.val).feeds =
    ((s.fl f.val).setFeed e { (s.fl f.val).feed e with asked := ((s.fl f.val).feed e).asked + 1 }).feeds :=
  (State.modEng_load_feeds.feeds f.val).trans (congrArg Floret.feeds (State.fl_setFl _ _ _))

theorem State.askSlot_feed : ((s.askSlot f e d).fl f.val).feed e =
    { (s.fl f.val).feed e with asked := ((s.fl f.val).feed e).asked + 1 } := by
  unfold Floret.feed
  rw [State.askSlot_feeds]
  exact Floret.feed_setFeed

theorem State.askSlot_feed_ne {n : Nat} (h : n ≠ e) : ((s.askSlot f e d).fl f.val).feed n = (s.fl f.val).feed n := by
  unfold Floret.feed
  rw [State.askSlot_feeds]
  exact Floret.feed_setFeed_ne h

/-- Naming a slot leaves the lines of the near bank as open as they were. -/
theorem State.lineOpen_askSlot {l : Nat} (h : (s.fl f.val).lineOpen l) : ((s.askSlot f e d).fl f.val).lineOpen l := by
  have hfeed : ∀ {α : Type} (k : Feed → α), (∀ fd n, k { fd with asked := n } = k fd) → ∀ n,
      k (((s.askSlot f e d).fl f.val).feed n) = k ((s.fl f.val).feed n) := by
    intro α k hk n
    by_cases hn : n = e
    · rw [hn, State.askSlot_feed, hk]
    · rw [State.askSlot_feed_ne hn]
  intro p hp
  rw [feedLines_of_region (hfeed Feed.base fun _ _ => rfl) (hfeed Feed.slots fun _ _ => rfl) (hfeed Feed.bl fun _ _ => rfl)] at hp
  have hfull := h p hp
  unfold Floret.feedFull at hfull ⊢
  rwa [hfeed Feed.state fun _ _ => rfl, hfeed Feed.present fun _ _ => rfl]

theorem State.answerSlot_feed {n slot : Nat} : ((s.answerSlot n e slot).fl n).feed e =
    { (s.fl n).feed e with answered := SMap.put 0 ((s.fl n).feed e).answered (((s.fl n).feed e).index slot) 1 } := by
  unfold State.answerSlot State.modFl
  rw [State.fl_setFl]
  exact Floret.feed_setFeed

theorem unitOf_of_fe {fl : Floret} {a : Nat} {h : Bool} (hfe : t.fe = s.fe) : t.unitOf fl a h = s.unitOf fl a h := by
  unfold State.unitOf State.lsl State.wset
  rw [hfe]

theorem tileUnits_one {fl : Floret} {a k : Nat} (h : s.unitOf fl a false = some k) : (s.tileUnits fl a 1).1 = [k] := by
  unfold State.tileUnits
  rw [show List.range 1 = [0] from rfl]
  simp [h]

/-- The near-bank line at which the next record of a patch feed begins. -/
def Feed.askLine (fd : Feed) : Nat := fd.base + fd.index fd.asked * fd.bl

/-- The empty records of a tile, in lines of a near bank: of both units for a slot of 72 lines or more (R161). -/
def Feed.askLines (fd : Feed) : Nat := if decide (72 ≤ fd.bl) then 8 else 4

/-- The units of a tile whose records a slot holds (R161). -/
def Feed.askUnits (fd : Feed) : Nat := if decide (72 ≤ fd.bl) then 2 else 1

theorem askLines_eq {fd : Feed} : fd.askLines = if 72 ≤ fd.bl then 8 else 4 := by simp only [Feed.askLines, decide_eq_true_eq]

theorem askUnits_single {fd : Feed} (h : fd.bl < 72) : fd.askUnits = 1 := if_neg (by simpa using h)

/-- What a patch request does once it may be sent. -/
def State.askPatch (s : State) (f : FloretId) (q : Desc) (e a : Nat) : State :=
  let fl := s.fl f.val
  let fd := fl.feed e
  if fl.pack = 0 then
    (((s.askSlot f e q.id).putLines f.val fd.askLine (List.replicate fd.askLines 0)).answerSlot f.val e fd.asked).settle
      (.load f) q.id
  else
    let us := (s.askSlot f e q.id).tileUnits fl a fd.askUnits
    (us.2.modUm (f.val / 16) (fun um => { um with ddq := um.ddq ++
      [⟨f.val, e, fd.asked, fd.askLine, us.1, fl.pack, BitVec.ofNat 32 (D.tally q.w), D.tallyEn q.w⟩] })).settle (.load f) q.id

variable {q : Desc} {a : Nat}

theorem execPatchRequest_asks (hnext : (s.fl f.val).patchNext = some (q, e)) (hon : s.flOn f.val = true)
    (hrun : (s.fl f.val).le.stopped = false) (hpatch : ((s.fl f.val).feed e).patch = true) (hslots : ((s.fl f.val).feed e).slots ≠ 0)
    (hroom : ((s.fl f.val).feed e).asked < ((s.fl f.val).feed e).released + ((s.fl f.val).feed e).slots)
    (hsrc : s.srcOf (.load f) q (33 * q.asked) = some a) : execPatchRequest f s = .next (s.askPatch f q e a) := by
  have hfull : ¬ ((s.fl f.val).feed e).released + ((s.fl f.val).feed e).slots ≤ ((s.fl f.val).feed e).asked := by omega
  unfold execPatchRequest
  simp only [hnext]
  rw [if_neg (by simp [hon, hrun, hpatch, hslots, hfull])]
  simp only [hsrc]
  rfl

theorem askPatch_empty (h : (s.fl f.val).pack = 0) :
    let fl := s.fl f.val
    let fd := fl.feed e
    let n := fd.askLines
    let t := s.askPatch f q e a
    ((t.fl f.val).feed e).asked = fd.asked + 1 ∧ SMap.get 0 ((t.fl f.val).feed e).answered (fd.index fd.asked) = 1 ∧
      ((∀ j, j < n → fl.lineOpen (fd.askLine + j)) → ∀ j, j < n → Memory.readLine t.sram (Vec.nbLine f.val (fd.askLine + j)) = 0) := by
  intro fl fd n t
  let u : State := (s.askSlot f e q.id).putLines f.val fd.askLine (List.replicate n 0)
  have ht : t = (u.answerSlot f.val e fd.asked).settle (.load f) q.id := if_pos h
  have hbare : ((u.fl f.val).feed e).bare = { fd with asked := fd.asked + 1 }.bare :=
    (State.putLines_bare e).trans (congrArg Feed.bare State.askSlot_feed)
  have hindex : ((u.fl f.val).feed e).index fd.asked = fd.index fd.asked := (congrArg (Feed.index · fd.asked) hbare :)
  have hfeed : (t.fl f.val).feed e = { (u.fl f.val).feed e with
      answered := SMap.put 0 ((u.fl f.val).feed e).answered (fd.index fd.asked) 1 } := by
    rw [ht, State.settle_load_feeds.feed, State.answerSlot_feed, hindex]
  have hsram : t.sram = u.sram := by
    rw [ht]
    exact (State.settle_frame .sram rfl).trans (State.answerSlot_frame .sram rfl)
  refine ⟨?_, ?_, fun hopen j hj => ?_⟩
  · rw [hfeed]
    exact (congrArg Feed.asked hbare :)
  · rw [hfeed]
    dsimp only
    exact SMap.get_put_same
  · have hlen : (List.replicate n (0 : Line)).length = n := List.length_replicate
    have hn : n ≤ 8 := by dsimp only [n]; rw [askLines_eq]; split <;> omega
    rw [hsram, State.putLines_stores (by omega) (fun i hi => State.lineOpen_askSlot (hopen i (hlen ▸ hi))) j (by omega)]
    exact List.getD_replicate _ hj

theorem askPatch_queued (h : (s.fl f.val).pack ≠ 0) :
    let fl := s.fl f.val
    let fd := fl.feed e
    let t := s.askPatch f q e a
    ((t.fl f.val).feed e).asked = fd.asked + 1 ∧
      ∃ r, (t.um (f.val / 16)).ddq = (s.um (f.val / 16)).ddq ++ [r] ∧ r.floret = f.val ∧ r.feed = e ∧ r.slot = fd.asked ∧
        r.pack = fl.pack ∧ r.line = fd.askLine ∧ ∀ k, s.unitOf fl a false = some k → fd.bl < 72 → r.units = [k] := by
  intro fl fd t
  let v : State := s.askSlot f e q.id
  let us := v.tileUnits fl a fd.askUnits
  let r : PatchReq := ⟨f.val, e, fd.asked, fd.askLine, us.1, fl.pack, BitVec.ofNat 32 (D.tally q.w), D.tallyEn q.w⟩
  let u : State := us.2.modUm (f.val / 16) (fun um => { um with ddq := um.ddq ++ [r] })
  have ht : t = u.settle (.load f) q.id := if_neg h
  have hunits : Frame [.freeCtr] v us.2 := State.tileUnits_frame
  have hfl : u.fl f.val = v.fl f.val := State.fl_of_frame hunits rfl f.val
  have hum : us.2.um (f.val / 16) = s.um (f.val / 16) := by
    unfold State.um
    rw [show us.2.ums = s.ums from (hunits .ums rfl).trans (State.askSlot_frame .ums rfl)]
  have hddq : (u.um (f.val / 16)).ddq = (s.um (f.val / 16)).ddq ++ [r] := by
    rw [← hum]
    exact congrArg Umbel.ddq (State.um_setUm _ _ _)
  refine ⟨?_, r, ?_, rfl, rfl, rfl, rfl, rfl, fun k hk hbl => ?_⟩
  · rw [ht, State.settle_load_feeds.feed, hfl, State.askSlot_feed]
  · rw [ht, State.settle_load_feeds.ddq, hddq]
  · have hone : us.1 = (v.tileUnits fl a 1).1 := congrArg (fun n => (v.tileUnits fl a n).1) (askUnits_single hbl)
    exact hone.trans (tileUnits_one ((unitOf_of_fe (State.askSlot_frame .fe rfl)).trans hk))

end Sys2Proof.Machine
end

section
/-! SUPPORT. The decoder of delta packs (R105 to R109): what its reads of HBM leave, and how it answers a unit. O27. -/

namespace Sys2Proof.Machine
open Sys2Proof.Claims

variable {s t u : State}

/-! Registers at a read of HBM (R288, R291, R292, R479). -/

/-- Offsets of the registers that the decoder's reads change, whatever ECC finds. -/
def decodeOffs : List Nat :=
  [Off.evtRaw, Off.evtPend, Off.hcErr, Off.hcCe, Off.hcUe, Off.hcTag, Off.hcRetry, Off.hcCeLast, 0x190, Off.ddLines] ++ logOffs

theorem State.sticky_decodes {b : Blk} {n off bit : Nat} {e : Option Nat} (ho : off < 4096) (hin : off ∈ decodeOffs) :
    RegsStay decodeOffs s (s.sticky b n off bit e) := .sticky ho hin (by decide) (by decide)

theorem State.logErr_decodes {b : Blk} {n code addr src info : Nat} : RegsStay decodeOffs s (s.logErr b n code addr src info) :=
  .logErr fun _ h => List.mem_append_right _ h

theorem State.setHbm_decodes {x : Hbm} : RegsStay decodeOffs s { s with hbm := x } := fun _ _ _ => rfl

theorem State.carveHit_decodes {k : Nat} : RegsStay decodeOffs s (s.carveHit k) := by
  unfold State.carveHit
  exact .ite ((State.sticky_decodes (by decide) (by decide)).frame State.report_frame rfl) .refl

theorem State.chanFails_decodes {c : Nat} : RegsStay decodeOffs s (s.chanFails c) := by
  unfold State.chanFails State.startRetire
  have hstart : ∀ {x : Hbm} {v : W32} {k : Nat}, RegsStay decodeOffs s
      (((({ s with hbm := x } : State).setReg .hc 0 0x190 v).sticky .hc k Off.hcErr 4 (some 4)).carveHit k) := fun {_ _ _} =>
    ((State.setHbm_decodes.trans (.setReg (by decide) (by decide))).trans (State.sticky_decodes (by decide) (by decide))).trans
      State.carveHit_decodes
  have hfull : ∀ {x : Hbm} {k : Nat}, RegsStay decodeOffs s
      ((({ s with hbm := x } : State).sticky .hc k Off.hcErr 5 (some 6)).report Code.hbmRetFull (0x220 + k) c 0) := fun {_ _} =>
    (State.setHbm_decodes.trans (State.sticky_decodes (by decide) (by decide))).frame State.report_frame rfl
  exact .ite .refl (.ite hstart hfull)

theorem State.countCe_decodes {a p : Nat} : RegsStay decodeOffs s (s.countCe a p) := by
  unfold State.countCe State.chanCe
  have hcount : ∀ {v : W32} {k : Nat}, RegsStay decodeOffs s
      (((s.addReg .hc k Off.hcCe 1).setReg .hc k Off.hcCeLast v).sticky .hc k Off.hcErr 0 (some 0)) := fun {_ _} =>
    ((RegsStay.addReg (by decide) (by decide)).trans (.setReg (by decide) (by decide))).trans (State.sticky_decodes (by decide) (by decide))
  exact hcount.trans (State.setHbm_decodes.trans (.ite State.chanFails_decodes .refl))

theorem State.countUe_decodes {q : Req} {a p : Nat} : RegsStay decodeOffs s (s.countUe q a p) := by
  unfold State.countUe State.chanUe
  have hcount : ∀ {code addr src info k : Nat}, RegsStay decodeOffs s
      (((s.addReg .hc k Off.hcUe 1).logErr .hc k code addr src info).sticky .hc k Off.hcErr 1 (some 1)) := fun {_ _ _ _ _} =>
    ((RegsStay.addReg (by decide) (by decide)).trans State.logErr_decodes).trans (State.sticky_decodes (by decide) (by decide))
  exact hcount.trans (State.setHbm_decodes.trans (.ite State.chanFails_decodes .refl))

theorem State.countTag_decodes {q : Req} {a p : Nat} : RegsStay decodeOffs s (s.countTag q a p) := by
  unfold State.countTag
  exact ((RegsStay.addReg (by decide) (by decide)).trans State.logErr_decodes).trans (State.sticky_decodes (by decide) (by decide))

theorem State.decodeLine_decodes {q : Req} {a p : Nat} {e : Ecc} : RegsStay decodeOffs s (s.decodeLine q a p e).2 := by
  have hretry : ∀ {k n : Nat}, RegsStay decodeOffs s (s.addReg .hc k Off.hcRetry n) := fun {_ _} => .addReg (by decide) (by decide)
  unfold State.decodeLine
  dsimp only
  split
  · exact .refl
  · split
    · exact .ite .refl State.countTag_decodes
    · exact .ite State.countCe_decodes State.countTag_decodes
    · exact hretry.trans (.ite State.countCe_decodes State.countTag_decodes)
    · refine (hretry.trans State.countUe_decodes).frame State.putPoison_frame rfl
    · exact State.countTag_decodes

theorem State.hbmRead_decodes {q : Req} {a : Nat} {e : Ecc} : RegsStay decodeOffs s (s.hbmRead q a e).2 := by
  unfold State.hbmRead State.physRead
  have hreads : ∀ xs : List Nat, RegsStay decodeOffs s (xs.foldl (fun u _ => u.hbmBytes (s.phys a) false) s) := fun _ =>
    .foldl fun _ _ => RegsStay.refl.frame State.hbmBytes_frame rfl
  exact (hreads _).trans State.decodeLine_decodes

theorem State.readSpan_decodes {q : Req} {a n : Nat} {es : List Ecc} : RegsStay decodeOffs s (s.readSpan q a n es).2.2.2 := by
  unfold State.readSpan
  dsimp only
  generalize List.range _ = is
  have hall : ∀ (acc : List Nat × Bool × State) (g : List Nat × Bool × State → Nat → List Nat × Bool × State),
      (∀ acc i, RegsStay decodeOffs acc.2.2 (g acc i).2.2) → RegsStay decodeOffs acc.2.2 (is.foldl g acc).2.2 := by
    intro acc g hg
    induction is generalizing acc with
    | nil => exact .refl
    | cons i is ih => exact (hg acc i).trans (ih _)
  refine hall ([], false, s) _ fun acc i => ?_
  dsimp only
  split
  · exact State.logErr_decodes
  · exact State.hbmRead_decodes

/-- The decoder has read a span of a pack: no umbel changes, and its counts of lines alone among its registers. -/
structure Read (s t : State) : Prop where
  regs : RegsStay decodeOffs s t
  ums : t.ums = s.ums

theorem Read.trans (h : Read s t) (k : Read t u) : Read s u := ⟨h.regs.trans k.regs, k.ums.trans h.ums⟩

theorem readSpan_read {q : Req} {a n v : Nat} {es : List Ecc} {m : Nat} :
    Read s ((s.readSpan q a n es).2.2.2.addReg .ub m Off.ddLines v) :=
  ⟨State.readSpan_decodes.trans (.addReg (by decide) (by decide)), (State.addReg_frame .ums rfl).trans (State.readSpan_frame .ums rfl)⟩

/-! The decoder's answer (R105 to R109). -/

variable {u : UmbelId} {r : PatchReq} {unit : Nat}

/-- The decoder gives the records of a unit. -/
def Gives (s t : State) (u : UmbelId) (r : PatchReq) (ls : List Line) : Prop :=
  (∃ o, (t.um u.val).ddout = (s.um u.val).ddout ++ [o] ∧ o.lines = ls ∧ o.req = r ∧ o.dn = 0) ∧
    t.reg .ub u.val Off.ddUnits = s.reg .ub u.val Off.ddUnits + 1 ∧ OnlyUm u.val s t

/-- The decoder gives up a unit (R109). -/
def GivesUp (s t : State) (u : UmbelId) (r : PatchReq) (unit : Nat) : Prop :=
  (t.um u.val).ddout = (s.um u.val).ddout ∧ (t.reg .ub u.val Off.ddStat).getLsbD 0 = true ∧ OnlyUm u.val s t ∧
    ∃ rep, rep ∈ t.reports ∧ rep.code = Code.weightStream ∧ rep.src = r.floret ∧ rep.addr = r.pack ∧ rep.info = unit

theorem um_of_ums (h : t.ums = s.ums) (n : Nat) : t.um n = s.um n := by
  unfold State.um
  rw [h]

theorem onlyUm_modUm {n : Nat} {h : Umbel → Umbel} : OnlyUm n s (s.modUm n h) := fun _ hn => State.um_setUm_ne _ _ hn

theorem pageOf_ub : pageOf (Blk.ub.page u.val) = some (.ub, u.val) := by
  have hpage : Blk.ub.page u.val = 0x100 + u.val := rfl
  unfold pageOf
  simp only [hpage]
  repeat rw [if_neg (by omega)]
  rw [if_pos (by omega), Nat.add_sub_cancel_left]

theorem Read.reg (h : Read s t) {off : Nat} (ho : off < 4096) (hn : off ∉ decodeOffs) : t.reg .ub u.val off = s.reg .ub u.val off :=
  h.regs.reg_of_page pageOf_ub ho hn

theorem ddPush_reg {m off : Nat} {b : Blk} {n : Nat} {ls : List Line} : (s.ddPush m r ls).reg b n off = s.reg b n off :=
  State.rawReg_of_regs (State.ddPush_frame .regs rfl) _

/-- Records that are pushed where the umbels and DD_UNITS are as they were but for the unit counted. -/
theorem ddPush_gives {v : State} {ls : List Line} (hums : v.ums = s.ums)
    (hunits : v.reg .ub u.val Off.ddUnits = s.reg .ub u.val Off.ddUnits + 1) : Gives s (v.ddPush u.val r ls) u r ls := by
  have hum : (v.ddPush u.val r ls).um u.val = _ := State.um_setUm _ _ _
  refine ⟨⟨⟨(v.um u.val).ddId, r, ls, 0, 0, r.units.tail.isEmpty⟩, ?_, rfl, rfl, rfl⟩, ddPush_reg.trans hunits, fun n hn => ?_⟩
  · rw [hum, ← um_of_ums hums]
  · exact (onlyUm_modUm n hn).trans (um_of_ums hums n)

theorem ddFail_givesUp (h : Read s t) : GivesUp s (t.ddFail u.val r unit) u r unit := by
  let v : State := t.modUm u.val (fun um => { um with ddq := ddStep um.ddq r r.line })
  let x : State := v.sticky .ub u.val Off.ddStat 0 (some 12)
  have hset : (x.reg .ub u.val Off.ddStat).getLsbD 0 = true := State.sticky_sets (by decide)
  have hafter : ∀ {w : W32} {code addr src info : Nat},
      (((x.setReg .ub u.val Off.ddErrUnit w).logErr .ub u.val code addr src info).report Code.weightStream r.floret r.pack unit).reg
        .ub u.val Off.ddStat = x.reg .ub u.val Off.ddStat := by
    intro w code addr src info
    have hunit : RegsStay (Off.ddErrUnit :: logOffs) x (x.setReg .ub u.val Off.ddErrUnit w) := .setReg (by decide) List.mem_cons_self
    have hlog := hunit.trans (.logErr (b := .ub) (n := u.val) (code := code) (addr := addr) (src := src) (info := info)
      fun _ h => List.mem_cons_of_mem _ h)
    exact (hlog.frame State.report_frame rfl).reg_of_page pageOf_ub (by decide) (by decide)
  have hum : ∀ n, (t.ddFail u.val r unit).um n = v.um n := fun n => um_of_ums
    ((State.report_frame .ums rfl).trans ((State.logErr_frame .ums rfl).trans ((State.setReg_frame .ums rfl).trans (State.sticky_frame .ums rfl)))) n
  refine ⟨?_, ?_, fun n hn => ?_, _, List.mem_append_right _ (List.mem_singleton.mpr rfl), rfl, rfl, rfl, rfl⟩
  · have hout : (v.um u.val).ddout = (t.um u.val).ddout := (congrArg Umbel.ddout (State.um_setUm _ _ _) :)
    rw [hum, hout, um_of_ums h.ums]
  · exact (congrArg (BitVec.getLsbD · 0) hafter).trans hset
  · exact (hum n).trans ((onlyUm_modUm n hn).trans (um_of_ums h.ums n))

/-- The records of a unit's four stationary tiles. -/
theorem recordOf_tiles {bs : List Nat} : (List.range 4).flatMap (fun k => recordOf bs (k / 2) (k % 2)) =
    recordOf bs 0 0 ++ recordOf bs 0 1 ++ recordOf bs 1 0 ++ recordOf bs 1 1 := by
  rw [show List.range 4 = [0, 1, 2, 3] from rfl]
  simp only [List.flatMap_cons, List.flatMap_nil, List.append_nil, List.append_assoc]

/-- The decoder's read of `n` bytes at `a`, with the lines that it counts. -/
def State.ddRead (s : State) (u : UmbelId) (a n : Nat) (es : List Ecc) : List Nat × Bool × Nat × State :=
  let x := s.readSpan ⟨.ub, u.val, 0x200 + u.val⟩ a n es
  (x.1, x.2.1, x.2.2.1, x.2.2.2.addReg .ub u.val Off.ddLines x.2.2.1)

theorem ddRead_read {a n : Nat} {es : List Ecc} : Read s (s.ddRead u a n es).2.2.2 := readSpan_read

/-- The entry of a unit whose index word is `w`, as the decoder reads it. -/
def State.ddEntry (s : State) (u : UmbelId) (ea : Nat) (es : List Ecc) : List Nat × Bool × Nat × State :=
  s.ddRead u ea (136 + 4 * bitsN (s.hbmGetN 2 ea) 10 0) es

/-- The answer once the index word has come. -/
def State.ddAnswer (s : State) (u : UmbelId) (r : PatchReq) (unit : Nat) (es : List Ecc) : State :=
  let x := s.ddRead u (s.indexAddr r.pack unit) 4 es
  let ea := r.pack + 16 * ofBytes x.1
  let y := x.2.2.2.ddEntry u ea (es.drop x.2.2.1)
  if x.2.1 then x.2.2.2.ddFail u.val r unit
  else if ofBytes x.1 = 0 then (x.2.2.2.addReg .ub u.val Off.ddUnits 1).ddPush u.val r (List.replicate 4 0)
  else if y.2.1 || !entryOk unit y.1 then y.2.2.2.ddFail u.val r unit
  else ((y.2.2.2.addReg .ub u.val Off.ddUnits 1).addReg .ub u.val Off.ddGroups (bitsN (x.2.2.2.hbmGetN 2 ea) 10 0)).ddPush u.val r
    ((List.range 4).flatMap (fun k => Machine.recordOf y.1 (k / 2) (k % 2)))

variable {rs : List PatchReq} {us : List Nat} {es : List Ecc}

theorem execPatchUnitAnswer_answers (hq : (s.um u.val).ddq = r :: rs) (hu : r.units = unit :: us) (hheld : (s.um u.val).held = false)
    (htrip : s.pw.trip = false) (hready : s.ddWaits u.val = false) :
    execPatchUnitAnswer ⟨u, es⟩ s = .next (s.ddAnswer u r unit es) := by
  unfold execPatchUnitAnswer
  simp only [hq, hu]
  rw [if_neg (by simp [hheld, htrip, hready])]
  rfl

/-- A zero index word: the unit's four records are empty (R105). -/
theorem ddAnswer_empty (hread : (s.ddRead u (s.indexAddr r.pack unit) 4 es).2.1 = false)
    (hzero : ofBytes (s.ddRead u (s.indexAddr r.pack unit) 4 es).1 = 0) :
    Gives s (s.ddAnswer u r unit es) u r (List.replicate 4 0) := by
  have hx : Read s (s.ddRead u (s.indexAddr r.pack unit) 4 es).2.2.2 := ddRead_read
  unfold State.ddAnswer
  simp only [hread, hzero, Bool.false_eq_true, ↓reduceIte]
  refine ddPush_gives ((State.addReg_frame .ums rfl).trans hx.ums) ?_
  rw [State.reg_addReg_one, hx.reg (by decide) (by decide)]

/-- An entry that passes its checks: the records of the unit's four tiles, counted (R105 to R107). -/
theorem ddAnswer_good (hread : (s.ddRead u (s.indexAddr r.pack unit) 4 es).2.1 = false)
    (hword : ofBytes (s.ddRead u (s.indexAddr r.pack unit) 4 es).1 ≠ 0) :
    let x := s.ddRead u (s.indexAddr r.pack unit) 4 es
    let ea := r.pack + 16 * ofBytes x.1
    let y := x.2.2.2.ddEntry u ea (es.drop x.2.2.1)
    let t := s.ddAnswer u r unit es
    y.2.1 = false → entryOk unit y.1 = true →
      Gives s t u r (recordOf y.1 0 0 ++ recordOf y.1 0 1 ++ recordOf y.1 1 0 ++ recordOf y.1 1 1) ∧
        t.reg .ub u.val Off.ddGroups = s.reg .ub u.val Off.ddGroups + BitVec.ofNat 32 (bitsN (x.2.2.2.hbmGetN 2 ea) 10 0) := by
  intro x ea y t hentry hok
  let n := bitsN (x.2.2.2.hbmGetN 2 ea) 10 0
  let v : State := (y.2.2.2.addReg .ub u.val Off.ddUnits 1).addReg .ub u.val Off.ddGroups n
  have hy : Read s y.2.2.2 := (ddRead_read (s := s)).trans ddRead_read
  have ht : t = v.ddPush u.val r (recordOf y.1 0 0 ++ recordOf y.1 0 1 ++ recordOf y.1 1 0 ++ recordOf y.1 1 1) := by
    rw [← recordOf_tiles]
    have hbad : ¬ (y.2.1 || !entryOk unit y.1) = true := by rw [hentry, hok]; decide
    exact (if_neg (by rw [hread]; decide)).trans ((if_neg hword).trans (if_neg hbad))
  have hums : v.ums = s.ums := (State.addReg_frame .ums rfl).trans ((State.addReg_frame .ums rfl).trans hy.ums)
  have hunits : v.reg .ub u.val Off.ddUnits = s.reg .ub u.val Off.ddUnits + 1 := by
    refine (State.reg_setReg_ne (by decide) (by decide) (by decide)).trans ?_
    rw [State.reg_addReg_one, hy.reg (by decide) (by decide)]
  have hgroups : v.reg .ub u.val Off.ddGroups = s.reg .ub u.val Off.ddGroups + BitVec.ofNat 32 n := by
    have hkeep : (y.2.2.2.addReg .ub u.val Off.ddUnits 1).reg .ub u.val Off.ddGroups = y.2.2.2.reg .ub u.val Off.ddGroups :=
      State.reg_setReg_ne (by decide) (by decide) (by decide)
    rw [← hy.reg (off := Off.ddGroups) (by decide) (by decide), ← hkeep]
    exact State.reg_setReg _ _ _ _ _
  rw [ht]
  exact ⟨ddPush_gives hums hunits, ddPush_reg.trans hgroups⟩

/-- A unit whose index word or entry comes poisoned, or whose entry fails its checks (R109). -/
theorem ddAnswer_bad :
    let x := s.ddRead u (s.indexAddr r.pack unit) 4 es
    let y := x.2.2.2.ddEntry u (r.pack + 16 * ofBytes x.1) (es.drop x.2.2.1)
    (x.2.1 = true ∨ (ofBytes x.1 ≠ 0 ∧ (y.2.1 = true ∨ entryOk unit y.1 = false))) → GivesUp s (s.ddAnswer u r unit es) u r unit := by
  intro x y hbad
  have hx : Read s x.2.2.2 := ddRead_read
  by_cases hp : x.2.1 = true
  · have ht : s.ddAnswer u r unit es = x.2.2.2.ddFail u.val r unit := if_pos hp
    rw [ht]
    exact ddFail_givesUp hx
  · obtain ⟨hword, hfail⟩ := hbad.resolve_left hp
    have hentry : (y.2.1 || !entryOk unit y.1) = true := by
      rcases hfail with h | h <;> simp [h]
    have ht : s.ddAnswer u r unit es = y.2.2.2.ddFail u.val r unit := (if_neg hp).trans ((if_neg hword).trans (if_pos hentry))
    rw [ht]
    exact ddFail_givesUp (hx.trans ddRead_read)

end Sys2Proof.Machine
end

section
/-! SUPPORT. Record lines of the decoder (R106, R107, R157): O27. -/

namespace Sys2Proof.Machine
open Sys2Proof.Claims

variable {s : State} {u : UmbelId} {o : DdOut} {i : Nat}

theorem lineStored_frame {t v : State} {a : Nat} {l : Line} {ps : List Piece} (h : LineStored s t a l) (hf : Frame ps t v)
    (hs : ps.contains .sram = false) (hh : ps.contains .hbm = false) (hm : ps.contains .hostMem = false) : LineStored s v a l := by
  obtain ⟨hline, hother, hhbm, hmem⟩ := h
  have hsram : v.sram = t.sram := hf .sram hs
  refine ⟨by rw [hsram, hline], fun b hb => by rw [hsram, hother b hb], (hf .hbm hh).trans hhbm, (hf .hostMem hm).trans hmem⟩

/-- A whole line for an open place of a serving near bank is stored there (R157, R229). -/
theorem writeLocal_nb_stores {io : RegIO} {q : Req} {f n : Nat} {l : Line} {e : Ecc} (hplace : s.placeOf (Vec.nbLine f n) = .nb f)
    (hserves : s.umShut (f / 16) = false) (hopen : (s.fl f).lineOpen n) :
    let r := s.writeLocal io q (Vec.nbLine f n) fullMask l false e
    r.1 = .done ∧ LineStored s r.2 (Vec.nbLine f n) l := by
  intro r
  let v : State := s.d2d q.half (s.placeHalf (.nb f) (Vec.nbLine f n))
  have hv : Frame [.cnt64] s v := State.d2d_frame
  have hdone : (v.feedArrive f (Vec.nbLine f n) q.src).1 = true := by
    refine congrArg Prod.fst (feedArrive_open ?_)
    rw [State.fl_of_frame hv rfl]
    exact hopen
  have hshut : sramShut s (.nb f) = false := hserves
  have hr : r = (.done, ((v.feedArrive f (Vec.nbLine f n) q.src).2.sramBytes (.nb f) true).sramPut (Vec.nbLine f n) fullMask l false) := by
    unfold r State.writeLocal
    simp only [hplace, hshut, Bool.false_eq_true, ↓reduceIte]
    exact if_pos hdone
  rw [hr]
  have hbefore : Frame [.regs, .cnt64, .fls, .hostOut, .logPtr, .pw] s ((v.feedArrive f (Vec.nbLine f n) q.src).2.sramBytes (.nb f) true) :=
    Frame.step State.sramBytes_frame rfl (Frame.step State.feedArrive_frame rfl (hv.mono rfl))
  have hafter := hbefore.mono (qs := [.regs, .cnt64, .fls, .sram, .sramBad, .hostOut, .logPtr, .pw]) rfl
  have hall := Frame.step (State.sramPut_frame (a := Vec.nbLine f n) (mask := fullMask) (l := l) (poison := false)) rfl hafter
  have hsram : (((v.feedArrive f (Vec.nbLine f n) q.src).2.sramBytes (.nb f) true).sramPut (Vec.nbLine f n) fullMask l false).sram =
      Memory.writeLine s.sram (Vec.nbLine f n) l := by
    unfold State.sramPut
    rw [if_pos rfl]
    exact congrArg (fun m => Memory.writeLine m (Vec.nbLine f n) l) (hbefore .sram rfl)
  refine ⟨rfl, ?_, fun b hb => ?_, hall .hbm rfl, hall .hostMem rfl⟩
  · rw [hsram]
    exact Memory.readLine_writeLine
  · rw [hsram]
    exact Memory.read_writeN_other hb

theorem lineOpen_of_mayArrive {f n : Nat} (hplace : s.placeOf (Vec.nbLine f n) = .nb f) (h : MayArrive s (Vec.nbLine f n)) :
    (s.fl f).lineOpen n := by
  have hp := h f hplace
  rwa [nbLine_lineNo] at hp

/-- A record line whose turn has come is stored at its slot (R106, R107, R232). -/
theorem ddWrite_stores (ho : (s.um u.val).ddout.find? (fun x => x.id = o.id) = some o) (hheld : (s.um u.val).held = false)
    (htrip : s.pw.trip = false) (hi : i < o.lines.length) (hdn : bitN o.dn i = false) (hlost : bitN o.lost i = false)
    (hturn : (s.um u.val).ddTurn o i = true)
    (hplace : s.placeOf (Vec.nbLine o.req.floret (o.req.line + i)) = .nb o.req.floret)
    (hserves : s.umShut (o.req.floret / 16) = false) (hopen : MayArrive s (Vec.nbLine o.req.floret (o.req.line + i))) :
    LineStored s (s.ddWrite regIO u o.id i .clean) (Vec.nbLine o.req.floret (o.req.line + i)) (o.lines.getD i 0) := by
  obtain ⟨hdone, hstored⟩ := writeLocal_nb_stores (io := regIO) (q := reqOf (.dd u)) (l := o.lines.getD i 0) (e := .clean) hplace hserves
    (lineOpen_of_mayArrive hplace hopen)
  unfold State.ddWrite
  simp only [ho]
  rw [if_neg (by simp [hheld, htrip, hdn, hlost, hturn, hi])]
  simp only [hdone]
  exact lineStored_frame (lineStored_frame hstored State.ddCount_frame rfl rfl rfl) State.ddDone_frame rfl rfl rfl

end Sys2Proof.Machine

open Sys2Proof Sys2Proof.Machine Sys2Proof.Claims

/-- Settles O27: a request by `askPatch`, a unit's answer by `ddAnswer`, a record line by `ddWrite`. -/
theorem patchUnitsAnswerTheirRequests : Obligations.PatchUnitsAnswerTheirRequests := by
  unfold Obligations.PatchUnitsAnswerTheirRequests
  intro f u s
  refine ⟨fun d e a hnext hon hrun hpatch hslots hroom hsrc => ?_, fun r rs unit us es hq hu hheld htrip hready => ?_,
    fun o i ho hheld htrip hi hdn hlost hturn => ?_⟩
  · intro fl fd line n
    have hexec : exec (.patchRequest f) s = .next (s.askPatch f d e a) :=
      execPatchRequest_asks hnext hon hrun hpatch hslots hroom hsrc
    by_cases hpack : fl.pack = 0
    · obtain ⟨hasked, hanswered, hlines⟩ := askPatch_empty (e := e) (q := d) (a := a) hpack
      refine ⟨_, hexec, hasked, fun h => absurd hpack h, fun _ => ⟨hanswered, ?_⟩⟩
      rw [askLines_eq] at hlines
      exact hlines
    · obtain ⟨hasked, hqueued⟩ := askPatch_queued (e := e) (q := d) (a := a) hpack
      exact ⟨_, hexec, hasked, fun _ => hqueued, fun h => absurd h hpack⟩
  · intro q x s1 ea n y gives fails
    have hexec : exec (.patchUnitAnswer ⟨u, es⟩) s = .next (s.ddAnswer u r unit es) :=
      execPatchUnitAnswer_answers hq hu hheld htrip hready
    exact ⟨fun hread hzero => ⟨_, hexec, ddAnswer_empty hread hzero⟩,
      fun hread hword hentry hok => ⟨_, hexec, ddAnswer_good hread hword hentry hok⟩, fun hbad => ⟨_, hexec, ddAnswer_bad hbad⟩⟩
  · intro a hplace hserves hopen
    exact ⟨_, rfl, rfl, ddWrite_stores ho hheld htrip hi hdn hlost hturn hplace hserves hopen⟩
end

section
/-! SUPPORT. Merged candidate lists (R132): the rank order of candidates with distinct tokens, and what the first entries of a merge
depend on. -/

namespace Sys2Proof.Machine.Vec
open Fp

variable {st : Bool} {a b c d : Cand} {k : Nat} {cs ds xs ys zs : List Cand}

/-! The rank order. -/

theorem ranks_iff : ranks st a b = true ↔
    valKey st b.1 < valKey st a.1 ∨ (valKey st a.1 = valKey st b.1 ∧ a.2.toNat ≤ b.2.toNat) := by
  simp [ranks]

theorem ranks_of_not (h : ¬ ranks st a b = true) : ranks st b a = true := by
  rw [ranks_iff] at h ⊢
  omega

theorem ranks_trans (h : ranks st a b = true) (k : ranks st b c = true) : ranks st a c = true := by
  rw [ranks_iff] at h k ⊢
  omega

/-- Only candidates of one token rank before each other both ways. -/
theorem token_eq_of_ranks (h : ranks st a b = true) (k : ranks st b a = true) : a.2 = b.2 := by
  rw [ranks_iff] at h k
  exact BitVec.eq_of_toNat_eq (by omega)

/-- The list stands in rank order. -/
def Ranked (st : Bool) (cs : List Cand) : Prop := cs.Pairwise (fun a b => ranks st a b = true)

/-- The tokens of a list are distinct. -/
def Distinct (cs : List Cand) : Prop := (cs.map (·.2)).Nodup

theorem Distinct.perm (h : Distinct xs) (hp : xs.Perm ys) : Distinct ys := (hp.map _).nodup h

/-- Candidates with distinct tokens have one ranked order. -/
theorem Ranked.eq_of_perm (hx : Ranked st xs) (hy : Ranked st ys) (hd : Distinct xs) (hp : xs.Perm ys) : xs = ys :=
  hp.eq_of_pairwise
    (fun _ _ ha hb hab hba => List.inj_on_of_nodup_map hd ha (hp.symm.subset hb) (token_eq_of_ranks hab hba)) hx hy

/-! Insertion in rank order. -/

theorem insertCand_perm : (insertCand st c ds).Perm (c :: ds) := by
  induction ds with
  | nil => exact .refl _
  | cons d ds ih =>
    unfold insertCand
    split
    · exact .refl _
    · exact (ih.cons d).trans (.swap c d ds)

theorem insertCand_ranked (h : Ranked st ds) : Ranked st (insertCand st c ds) := by
  induction ds with
  | nil => exact List.pairwise_singleton _ c
  | cons d ds ih =>
    obtain ⟨hd, hds⟩ := List.pairwise_cons.mp h
    unfold insertCand
    split
    · next hc => exact List.pairwise_cons.mpr ⟨List.forall_mem_cons.mpr ⟨hc, fun x hx => ranks_trans hc (hd x hx)⟩, h⟩
    · next hc =>
      have hall : ∀ x ∈ c :: ds, ranks st d x = true := List.forall_mem_cons.mpr ⟨ranks_of_not hc, hd⟩
      exact List.pairwise_cons.mpr ⟨fun x hx => hall x (insertCand_perm.subset hx), ih hds⟩

/-- The first `k` entries after an insertion depend on the first `k` before it. -/
theorem take_insertCand : (insertCand st c ds).take k = (insertCand st c (ds.take k)).take k := by
  induction ds generalizing k with
  | nil => rw [List.take_nil]
  | cons d ds ih =>
    cases k with
    | zero => rfl
    | succ k =>
      rw [List.take_succ_cons]
      unfold insertCand
      split
      · rw [List.take_succ_cons, List.take_succ_cons]
        cases k with
        | zero => rfl
        | succ k => rw [List.take_succ_cons, List.take_succ_cons, List.take_take, Nat.min_eq_left (Nat.le_succ k)]
      · rw [List.take_succ_cons, List.take_succ_cons, ih]

/-- The candidates of `cs` inserted, one after another, into a list. -/
def insertAll (st : Bool) (ds cs : List Cand) : List Cand := cs.foldl (fun acc c => insertCand st c acc) ds

theorem insertAll_append : insertAll st ds (xs ++ ys) = insertAll st (insertAll st ds xs) ys := List.foldl_append

theorem insertAll_perm : (insertAll st ds cs).Perm (ds ++ cs) := by
  induction cs generalizing ds with
  | nil => rw [List.append_nil]; exact .refl _
  | cons c cs ih => exact ih.trans ((insertCand_perm.append_right cs).trans List.perm_middle.symm)

theorem insertAll_ranked (h : Ranked st ds) : Ranked st (insertAll st ds cs) := by
  induction cs generalizing ds with
  | nil => exact h
  | cons c cs ih => exact ih (insertCand_ranked h)

theorem take_insertAll : (insertAll st ds cs).take k = (insertAll st (ds.take k) cs).take k := by
  induction cs generalizing ds with
  | nil => exact (List.take_take.trans (congrArg (ds.take ·) (Nat.min_self k))).symm
  | cons c cs ih => exact (ih.trans (congrArg (fun l => (insertAll st l cs).take k) take_insertCand)).trans ih.symm

/-- The candidates of a list, ranked. -/
def ranked (st : Bool) (cs : List Cand) : List Cand := insertAll st [] cs

theorem ranked_perm : (ranked st cs).Perm cs := insertAll_perm

theorem ranked_ranked : Ranked st (ranked st cs) := insertAll_ranked .nil

theorem ranked_of_perm (hd : Distinct xs) (hp : xs.Perm ys) : ranked st xs = ranked st ys :=
  ranked_ranked.eq_of_perm ranked_ranked (hd.perm ranked_perm.symm) (ranked_perm.trans (hp.trans ranked_perm.symm))

theorem ranked_of_ranked (hd : Distinct xs) (h : Ranked st xs) : ranked st xs = xs :=
  ranked_ranked.eq_of_perm h (hd.perm ranked_perm.symm) ranked_perm

/-- Of candidates merged list by list the first `k` are those of a merge of all at once. -/
theorem take_ranked_take (hd : Distinct xs) :
    (ranked st ((ranked st xs).take k ++ zs)).take k = (ranked st (xs ++ zs)).take k := by
  have hsub : ((ranked st xs).take k).Sublist (ranked st xs) := List.take_sublist _ _
  have hfirst : ranked st ((ranked st xs).take k) = (ranked st xs).take k :=
    ranked_of_ranked ((hd.perm ranked_perm.symm).sublist (hsub.map _)) (ranked_ranked.sublist hsub)
  calc (ranked st ((ranked st xs).take k ++ zs)).take k
      = (insertAll st (ranked st ((ranked st xs).take k)) zs).take k := congrArg _ insertAll_append
    _ = (insertAll st ((ranked st xs).take k) zs).take k := by rw [hfirst]
    _ = (insertAll st (ranked st xs) zs).take k := take_insertAll.symm
    _ = (ranked st (xs ++ zs)).take k := congrArg _ insertAll_append.symm

/-! Admission. -/

/-- The candidates of a list that are admitted, as they are taken. -/
def admitted (cs : List Cand) : List Cand := cs.filterMap candIn

theorem candIn_token (h : candIn c = some d) : d.2 = c.2 := by
  unfold candIn at h
  split at h
  · cases h
  · split at h <;> cases h <;> rfl

/-- What is admitted is admitted again as it is. -/
theorem candIn_again (h : candIn c = some d) : candIn d = some d := by
  have hadmit : ¬ (isNaN 0x7F7FFFFF || (0x7F7FFFFF : W32) == infBits true) = true := by decide
  have hfinite : ¬ ((0x7F7FFFFF : W32) == infBits false) = true := by decide
  have hlargest : ∀ t, candIn (0x7F7FFFFF, t) = some (0x7F7FFFFF, t) := fun _ => (if_neg hadmit).trans (if_neg hfinite)
  have h' := h
  unfold candIn at h
  split at h
  · cases h
  · split at h <;> cases h
    · exact hlargest _
    · exact h'

theorem admitted_distinct (h : Distinct cs) : Distinct (admitted cs) := by
  refine h.sublist ?_
  unfold admitted
  induction cs with
  | nil => exact .slnil
  | cons c cs ih =>
    have hrest := ih (List.nodup_cons.mp h).2
    cases hc : candIn c with
    | none => rw [List.filterMap_cons_none hc]; exact hrest.cons _
    | some d =>
      rw [List.filterMap_cons_some hc, List.map_cons, List.map_cons, candIn_token hc]
      exact hrest.cons_cons _

theorem admitted_append : admitted (xs ++ ys) = admitted xs ++ admitted ys := List.filterMap_append

theorem admitted_of_subset (h : ds ⊆ admitted cs) : admitted ds = ds := by
  have hsame : ∀ d ∈ ds, candIn d = some d := fun d hd => by
    obtain ⟨c, -, hc⟩ := List.mem_filterMap.mp (h hd)
    exact candIn_again hc
  unfold admitted
  rw [List.filterMap_congr hsame, List.filterMap_some]

/-! The merged list. -/

/-- The entries of the merged list that are no padding. -/
def best (st : Bool) (k : Nat) (cs : List Cand) : List Cand := (ranked st (admitted cs)).take k

theorem topk_eq : topk st k cs = best st k cs ++ List.replicate (k - (best st k cs).length) (infBits true, 0xFFFFFFFF) := rfl

theorem topk_of_best (h : best st k xs = best st k ys) : topk st k xs = topk st k ys := by
  rw [topk_eq, topk_eq, h]

theorem length_topk : (topk st k cs).length = k := by
  have hle : (best st k cs).length ≤ k := List.length_take_le _ _
  rw [topk_eq, List.length_append, List.length_replicate]
  omega

/-- Padding is not admitted again. -/
theorem admitted_topk : admitted (topk st k cs) = best st k cs := by
  have hpad : ∀ n, admitted (List.replicate n (infBits true, 0xFFFFFFFF)) = [] := fun n =>
    List.filterMap_eq_nil_iff.mpr fun c hc => by rw [List.eq_of_mem_replicate hc]; rfl
  rw [topk_eq, admitted_append, hpad, List.append_nil]
  exact admitted_of_subset fun c hc => ranked_perm.subset (List.mem_of_mem_take hc)

theorem topk_of_perm (hd : Distinct xs) (hp : xs.Perm ys) : topk st k xs = topk st k ys :=
  topk_of_best (congrArg (List.take k) (ranked_of_perm (admitted_distinct hd) (hp.filterMap _)))

/-- A list merged into the merge of another is merged with that other at once. -/
theorem topk_topk_append (hd : Distinct xs) : topk st k (topk st k xs ++ zs) = topk st k (xs ++ zs) := by
  refine topk_of_best ?_
  unfold best
  rw [admitted_append, admitted_topk, admitted_append]
  exact take_ranked_take (admitted_distinct hd)

end Sys2Proof.Machine.Vec
end

section
/-! SUPPORT. The order in which candidates arrive: O16. -/

open Sys2Proof Sys2Proof.Machine

/-- Settles O16: candidates with distinct tokens have one ranked order, and the first `k` of a merge depend on the first `k` of the
lists merged. -/
theorem topkMergeIsIndependentOfOrder : Obligations.TopkMergeIsIndependentOfOrder := by
  unfold Obligations.TopkMergeIsIndependentOfOrder
  intro st k xs ys hd
  exact ⟨Vec.topk_of_perm hd, Vec.length_topk, fun zs _ => Vec.topk_topk_append hd⟩

end

section
/-! SUPPORT. The register file of a floret (R116, R143) and the writes of the vector unit lane by lane (R118). -/

namespace Sys2Proof.Machine

variable {fl : Floret} {r q d e i k : Nat} {x : W64} {y : W32}

/-! Predicate registers. -/

theorem Floret.pred_zero : fl.pred 0 = BitVec.allOnes 64 := rfl

theorem Floret.setPred_zero : fl.setPred 0 x = fl := rfl

theorem Floret.pred_setPred (hr : r % 8 ≠ 0) (hq : q % 8 = r % 8) : (fl.setPred r x).pred q = x := by
  unfold Floret.pred Floret.setPred
  rw [if_neg hr, hq, if_neg hr]
  exact SMap.get_put_same

theorem Floret.pred_setPred_ne (hq : q % 8 ≠ r % 8) : (fl.setPred r x).pred q = fl.pred q := by
  unfold Floret.pred Floret.setPred
  split
  · rfl
  · split
    · rfl
    · exact SMap.get_put_ne hq

theorem Floret.vreg_setPred : (fl.setPred r x).vreg e i = fl.vreg e i := by
  unfold Floret.setPred
  split <;> rfl

theorem Floret.s_setPred : (fl.setPred r x).s k = fl.s k := by
  unfold Floret.setPred
  split <;> rfl

/-! Vector registers. -/

theorem Floret.vreg_setV_ne (hi : i < 64) (hk : k < 64) (h : e % 32 ≠ d % 32 ∨ i ≠ k) : (fl.setV d k y).vreg e i = fl.vreg e i :=
  SMap.get_put_ne (by omega)

/-- Lane `i` of every vector and predicate register, and every scalar register, are the same. -/
structure LaneKept (i : Nat) (fl fl' : Floret) : Prop where
  vreg : ∀ d, fl'.vreg d i = fl.vreg d i
  pred : ∀ q, (fl'.pred q).getLsbD i = (fl.pred q).getLsbD i
  sreg : ∀ k, fl'.s k = fl.s k

theorem LaneKept.refl : LaneKept i fl fl := ⟨fun _ => rfl, fun _ => rfl, fun _ => rfl⟩

namespace Vec

variable {st : Res} {pr : W64} {f : Nat → W32 × W32 × W32} {g : Nat → Bool × W32}

/-! A register written lane by lane. -/

/-- The lanes that a predicate leaves unmasked. -/
def active (pr : W64) : List Nat := (List.range 64).filter (fun i => pr.getLsbD i)

theorem mem_active : i ∈ active pr ↔ i < 64 ∧ pr.getLsbD i = true := by
  rw [active, List.mem_filter, List.mem_range]

theorem active_nodup : (active pr).Nodup := List.nodup_range.filter _

/-- The write of one lane. -/
def laneStep (d : Nat) (f : Nat → W32 × W32 × W32) (r : Res) (i : Nat) : Res :=
  { r with fl := r.fl.setV d i (f i).1, fp := r.fp ||| (f i).2.1, vx := r.vx ||| (f i).2.2 }

theorem lanes_eq : lanes st pr d f = (active pr).foldl (laneStep d f) st := List.foldl_filter.symm

theorem lanes_vreg_own (hi : i ∈ active pr) : (lanes st pr d f).fl.vreg d i = (f i).1 := by
  rw [lanes_eq]
  exact SMap.get_foldl_own (d := (0 : W32)) (g := fun r : Res => r.fl.v) (v := fun i _ => (f i).1) (key := fun i => d % 32 * 64 + i)
    (fun _ _ => rfl) (active_nodup.map fun _ _ h => Nat.add_left_cancel h) hi

theorem lanes_vreg_other (hi : i < 64) (h : e % 32 ≠ d % 32 ∨ i ∉ active pr) : (lanes st pr d f).fl.vreg e i = st.fl.vreg e i := by
  rw [lanes_eq]
  refine SMap.get_foldl_other (d := (0 : W32)) (g := fun r : Res => r.fl.v) (v := fun i _ => (f i).1)
    (key := fun i => d % 32 * 64 + i) (fun _ _ => rfl) fun hin => ?_
  obtain ⟨j, hj, hkey⟩ := List.mem_map.mp hin
  obtain ⟨hlt, -⟩ := mem_active.mp hj
  obtain h | h := h
  · omega
  · exact h ((show j = i by omega) ▸ hj)

theorem lanes_bad : (lanes st pr d f).bad = st.bad := by
  rw [lanes_eq]
  exact foldl_keeps fun _ _ => rfl

theorem lanes_fp (h : ∀ i, (f i).2.1 = 0) : (lanes st pr d f).fp = st.fp := by
  rw [lanes_eq]
  exact foldl_keeps (p := Res.fp) fun r i => by simp [laneStep, h i]

/-- Where each lane raises flag `x` or none, the flag stands after some lanes exactly when it stood or one of them raised it. -/
theorem foldl_laneStep_vx {x : W32} {is : List Nat} (hf : ∀ i, (f i).2.2 = x ∨ (f i).2.2 = 0) (hst : st.vx = x ∨ st.vx = 0) :
    (is.foldl (laneStep d f) st).vx = x ↔ st.vx = x ∨ ∃ i ∈ is, (f i).2.2 = x := by
  induction is generalizing st with
  | nil => simp
  | cons i is ih =>
    have hstep : (laneStep d f st i).vx = st.vx ||| (f i).2.2 := rfl
    have hnext : (laneStep d f st i).vx = x ∨ (laneStep d f st i).vx = 0 := by
      obtain h | h := hst <;> obtain k | k := hf i <;> simp [hstep, h, k]
    rw [List.foldl_cons, ih hnext, hstep]
    obtain h | h := hst <;> obtain k | k := hf i <;> simp [h, k]

theorem lanes_vx {x : W32} (hx : x ≠ 0) (hf : ∀ i, (f i).2.2 = x ∨ (f i).2.2 = 0) (hst : st.vx = 0) :
    (lanes st pr d f).vx = x ↔ ∃ i ∈ active pr, (f i).2.2 = x := by
  rw [lanes_eq, foldl_laneStep_vx hf (.inr hst), hst]
  exact or_iff_right hx.symm

/-- A write lane by lane keeps masked lanes. -/
theorem lanes_keeps (hi : i < 64) (hpr : pr.getLsbD i = false) : LaneKept i st.fl (lanes st pr d f).fl where
  vreg _ := lanes_vreg_other hi (.inr fun h => Bool.false_ne_true (hpr.symm.trans (mem_active.mp h).2))
  pred q := by
    rw [lanes_eq, foldl_keeps (p := fun r : Res => r.fl.pred q) (g := laneStep d f) fun _ _ => rfl]
  sreg k := by
    rw [lanes_eq]
    exact foldl_keeps (p := fun r : Res => r.fl.s k) (g := laneStep d f) fun _ _ => rfl

/-! A predicate register written lane by lane. -/

/-- The number whose lowest bits are given. -/
def bitsOf (n : Nat) (b : Nat → Bool) : Nat := (List.range n).foldl (fun acc i => acc + (if b i then 2 ^ i else 0)) 0

theorem bitsOf_succ {n : Nat} {b : Nat → Bool} : bitsOf (n + 1) b = 2 ^ n * (b n).toNat + bitsOf n b := by
  unfold bitsOf
  rw [List.range_succ, List.foldl_append, List.foldl_cons, List.foldl_nil]
  cases b n <;> simp [Nat.add_comm]

theorem bitsOf_lt {n : Nat} {b : Nat → Bool} : bitsOf n b < 2 ^ n := by
  induction n with
  | zero => exact Nat.one_pos
  | succ n ih =>
    rw [bitsOf_succ, Nat.pow_succ]
    cases b n <;> simp <;> omega

theorem testBit_bitsOf {n : Nat} {b : Nat → Bool} (hi : i < n) : (bitsOf n b).testBit i = b i := by
  induction n with
  | zero => omega
  | succ n ih =>
    rw [bitsOf_succ, Nat.testBit_two_pow_mul_add _ bitsOf_lt]
    split
    · next h => exact ih h
    · obtain rfl : i = n := by omega
      cases b i <;> simp

theorem predLanes_fl : (predLanes st pr d g).fl =
    st.fl.setPred d (BitVec.ofNat 64 (bitsOf 64 fun i => if pr.getLsbD i then (g i).1 else (st.fl.pred d).getLsbD i)) := rfl

theorem predLanes_keeps (hi : i < 64) (hpr : pr.getLsbD i = false) : LaneKept i st.fl (predLanes st pr d g).fl := by
  rw [predLanes_fl]
  generalize hb : (fun i => if pr.getLsbD i then (g i).1 else (st.fl.pred d).getLsbD i) = b
  have hbit : b i = (st.fl.pred d).getLsbD i := by rw [← hb]; exact if_neg (by rw [hpr]; exact Bool.false_ne_true)
  refine ⟨fun e => ?_, fun q => ?_, fun k => ?_⟩
  · exact Floret.vreg_setPred
  · by_cases hq : q % 8 = d % 8
    · by_cases hd : d % 8 = 0
      · rw [show st.fl.setPred d _ = st.fl from if_pos hd]
      · have hsame : st.fl.pred q = st.fl.pred d := by unfold Floret.pred; rw [hq]
        rw [Floret.pred_setPred hd hq, BitVec.getLsbD_ofNat, testBit_bitsOf hi, hbit, hsame]
        simp [hi]
    · rw [Floret.pred_setPred_ne hq]
  · exact Floret.s_setPred

end Vec
end Sys2Proof.Machine
end

section
/-! SUPPORT. Masked lanes, reductions and operations that are passed over (R118, R124, R142, R485): O15. -/

namespace Sys2Proof.Machine.Vec
open Isa

variable {n w i : Nat} {r : Res} {pr : W64}

/-! What each operation with a per-lane result leaves of a masked lane. -/

section Masked
variable (hi : i < 64) (hpr : pr.getLsbD i = false)
include hi hpr

theorem doInt_keeps : LaneKept i r.fl (doInt r pr w).fl := by
  unfold doInt
  dsimp only
  split
  · exact lanes_keeps hi hpr
  · exact predLanes_keeps hi hpr

theorem doFloat_keeps : LaneKept i r.fl (doFloat r pr w).fl := by
  have hlanes := fun f => lanes_keeps (st := r) (d := vd w) (f := f) hi hpr
  have hpred := fun g => predLanes_keeps (st := r) (d := vd w) (g := g) hi hpr
  unfold doFloat
  extract_lets fl st a b c p bin cmp
  split
  iterate 7 exact hlanes _
  iterate 4 exact hpred _

theorem doCvt_keeps : LaneKept i r.fl (doCvt r pr w).fl := by
  unfold doCvt
  dsimp only
  split <;> exact lanes_keeps hi hpr

theorem doSpecial_keeps : LaneKept i r.fl (doSpecial r pr w).fl := lanes_keeps hi hpr

theorem doVld_keeps : LaneKept i r.fl (doVld n r pr w).fl := by
  unfold doVld
  extract_lets fl l k val r'
  exact (lanes_keeps hi hpr : LaneKept i r.fl r'.fl)

end Masked

/-- A store leaves every register. -/
theorem doVst_fl : (doVst n r pr w).fl = r.fl := by
  unfold doVst
  extract_lets fl l k full dead bits put r' bad' touched
  exact foldl_keeps (p := Res.fl) fun r i => by simp only [put, apply_ite Res.fl, ite_self]

/-! Reductions. -/

theorem doReduce_fl : ∃ x, (doReduce r pr w).fl = r.fl.setV (vd w) 0 x ∨ (doReduce r pr w).fl = r.fl.setS (ss w) x := by
  unfold doReduce
  extract_lets fl st k isI ident src f out fl'
  exact ⟨out.1, ite_eq_or_eq _ _ _⟩

/-- A reduction writes lane 0 of one register at most. -/
theorem doReduce_vreg {d : Nat} (h1 : 1 ≤ i) (hi : i < 64) : (doReduce r pr w).fl.vreg d i = r.fl.vreg d i := by
  obtain ⟨x, h | h⟩ := doReduce_fl (r := r) (pr := pr) (w := w)
  · rw [h]
    exact Floret.vreg_setV_ne hi (by decide) (.inr (by omega))
  · rw [h]
    rfl

/-! Operations that their predicate passes over (R142, R485). -/

section Off
variable (hoff : pr.getLsbD 0 = false)
include hoff

theorem doNorm_off : doNorm n r pr w = r := if_pos (by rw [hoff]; rfl)
theorem doRope_off : doRope n r pr w = r := if_pos (by rw [hoff]; rfl)
theorem doSmerge_off : doSmerge r pr w = r := if_pos (by rw [hoff]; rfl)
theorem doSample_off : doSample n r pr w = r := if_pos (by rw [hoff]; rfl)
theorem doTopk_off (hv : vop w = 1) : doTopk n r pr w = r := if_pos (by rw [hoff, hv]; rfl)

end Off

/-! The operation of a word. -/

theorem exec_of_perLane_keeps (hop : Claims.perLane (opcode w)) (hi : i < 64) (hpr : (r.fl.pred (predReg w)).getLsbD i = false) :
    LaneKept i r.fl (exec n r w).fl := by
  unfold exec
  obtain h | h | h | h | h := hop <;> simp only [h]
  · exact doInt_keeps hi hpr
  · exact doFloat_keeps hi hpr
  · exact doCvt_keeps hi hpr
  · exact doSpecial_keeps hi hpr
  · split
    · exact doVld_keeps hi hpr
    · rw [doVst_fl]
      exact .refl

theorem exec_reduce (hop : opcode w = 0x2B) : exec n r w = doReduce r (r.fl.pred (predReg w)) w := by
  unfold exec
  simp only [hop]

/-- An operation without a per-lane result does nothing with bit 0 of its predicate clear. -/
theorem exec_off (hop : opcode w = 0x2E ∨ (opcode w = 0x2F ∧ 1 ≤ vop w)) (hoff : (r.fl.pred (predReg w)).getLsbD 0 = false) :
    exec n r w = r := by
  unfold exec
  obtain h | ⟨h, hv⟩ := hop <;> simp only [h]
  · rw [doNorm_off hoff, doRope_off hoff, doSmerge_off hoff, ite_self, ite_self]
  · split
    · exact doTopk_off hoff (by omega)
    · exact doSample_off hoff

end Sys2Proof.Machine.Vec

open Sys2Proof Sys2Proof.Machine Sys2Proof.Claims

/-- Settles O15: a write lane by lane keeps masked lanes, a reduction writes lane 0, and the others return what they were given. -/
theorem maskedLanesAndReductionsFollowTheirPredicate : Obligations.MaskedLanesAndReductionsFollowTheirPredicate := by
  unfold Obligations.MaskedLanesAndReductionsFollowTheirPredicate
  refine ⟨fun n fl s w i hop hi hpr => ?_, fun n fl s w => ⟨fun hop d i _ h1 hi => ?_, fun hop hoff => ?_⟩⟩
  · obtain ⟨hvreg, hpred, hsreg⟩ := Vec.exec_of_perLane_keeps (n := n) (r := .of fl s.sram s.sramBad) hop hi hpr
    exact ⟨fun d _ => hvreg d, fun q _ => hpred q, hsreg⟩
  · show (Vec.exec n (.of fl s.sram s.sramBad) w).fl.vreg d i = fl.vreg d i
    rw [Vec.exec_reduce hop]
    exact Vec.doReduce_vreg h1 hi
  · rw [show vxOut n fl s w = .of fl s.sram s.sramBad from Vec.exec_off hop hoff]
    exact ⟨rfl, rfl, rfl, rfl, rfl⟩

end

section
/-! SUPPORT. INT32 lane arithmetic (R54, R118, R121): the exact result of each operation and its clamp. -/

namespace Sys2Proof.Machine.Vec
open Isa Claims

variable {a b : W32} {z d : Int} {n v w : Nat}

/-! The clamp. -/

/-- A lane's result, clamped, with VI_SAT where the clamp changed it. -/
def saturated (z : Int) : W32 × W32 := (clamp32 z, if (clamp32 z).toInt = z then 0 else xVI)

theorem toInt_clamp32 : (clamp32 z).toInt = max (-2147483648) (min 2147483647 z) :=
  BitVec.toInt_ofInt_eq_self (by decide) (by omega) (by omega)

theorem saturated_of_fits (hlo : -2147483648 ≤ z) (hhi : z ≤ 2147483647) : saturated z = (BitVec.ofInt 32 z, 0) := by
  have hz : max (-2147483648) (min 2147483647 z) = z := by omega
  unfold saturated
  rw [toInt_clamp32, clamp32, hz, if_pos rfl]

theorem toInt_fits : -2147483648 ≤ a.toInt ∧ a.toInt ≤ 2147483647 := by
  have hlo := a.le_toInt
  have hhi := a.toInt_lt
  omega

theorem saturated_toInt : saturated a.toInt = (a, 0) := by
  rw [saturated_of_fits toInt_fits.1 toInt_fits.2, BitVec.ofInt_toInt]

/-- The saturation of the model's lane arithmetic. -/
theorem satI32_saturates : (BitVec.ofInt 32 (Fp.satI32 z).1, if (Fp.satI32 z).2 then xVI else 0) = saturated z := by
  unfold Fp.satI32
  split
  · have hz : max (-2147483648) (min 2147483647 z) = 2147483647 := by omega
    exact Prod.ext (congrArg (BitVec.ofInt 32) hz.symm) (if_neg (by rw [toInt_clamp32, hz]; omega)).symm
  · split
    · have hz : max (-2147483648) (min 2147483647 z) = -2147483648 := by omega
      exact Prod.ext (congrArg (BitVec.ofInt 32) hz.symm) (if_neg (by rw [toInt_clamp32, hz]; omega)).symm
    · exact (saturated_of_fits (by omega) (by omega)).symm

/-! Shifts to the right. -/

theorem ediv_fits {m : Int} (hd : 0 < d) (hlo : -(m * d) ≤ z) (hhi : z < m * d) : -m ≤ z / d ∧ z / d < m :=
  ⟨Int.le_ediv_of_mul_le hd (by rwa [Int.neg_mul]), Int.ediv_lt_of_lt_mul hd hhi⟩

theorem shifted_fits : -2147483648 ≤ a.toInt / 2 ^ n ∧ a.toInt / 2 ^ n ≤ 2147483647 := by
  obtain ⟨hlo, hhi⟩ := toInt_fits (a := a)
  have hd : (1 : Int) ≤ 2 ^ n := one_le_pow₀ (by decide)
  have hfits := ediv_fits (m := 2147483648) (z := a.toInt) (by omega : (0 : Int) < 2 ^ n) (by omega) (by omega)
  omega

theorem nearest_fits : -2147483648 ≤ nearest a.toInt n ∧ nearest a.toInt n ≤ 2147483647 := by
  obtain ⟨hlo, hhi⟩ := toInt_fits (a := a)
  cases n with
  | zero => simp [nearest, hlo, hhi]
  | succ n =>
    have hd : (1 : Int) ≤ 2 ^ n := one_le_pow₀ (by decide)
    have hpow : (2 : Int) ^ (n + 1) = 2 ^ n * 2 := pow_succ ..
    have hfits := ediv_fits (m := 1073741824) (z := a.toInt) (by omega : (0 : Int) < 2 ^ (n + 1)) (by omega) (by omega)
    unfold nearest
    dsimp only
    split <;> omega

/-- Past 31 places nothing is left. -/
theorem nearest_far (hn : 32 ≤ n) : nearest a.toInt n = 0 := by
  obtain ⟨hlo, hhi⟩ := toInt_fits (a := a)
  have hd : (4294967296 : Int) ≤ 2 ^ n := (show (4294967296 : Int) = 2 ^ 32 by decide) ▸ pow_le_pow_right₀ (by decide) hn
  have hsplit := Int.mul_ediv_add_emod a.toInt (2 ^ n)
  unfold nearest
  dsimp only
  generalize (2 : Int) ^ n = d at hd hsplit
  obtain hneg | hpos := lt_or_ge a.toInt 0
  · have hq : a.toInt / d = -1 := Int.ediv_eq_neg_one_of_neg_of_le hneg (by omega)
    rw [hq] at hsplit ⊢
    rw [if_pos (by omega)]
    rfl
  · have hq : a.toInt / d = 0 := Int.ediv_eq_zero_of_lt hpos (by omega)
    rw [hq] at hsplit ⊢
    exact if_neg (by omega)

/-! Each operation. -/

theorem shift_amount : bitsN b.toNat 5 0 = b.toNat % 64 := by simp [bitsN]

theorem intOp_sraR : intOp 10 a b = (BitVec.ofInt 32 (nearest a.toInt (b.toNat % 64)), 0) := by
  have hodd : ∀ q : Int, q % 2 ≠ 0 ↔ q % 2 = 1 := fun q => by omega
  simp only [intOp, si, shift_amount, hodd]
  split
  · next hfar => rw [nearest_far hfar]; rfl
  · rfl

/-- Every operation gives its exact result, clamped. -/
theorem intOp_exact (hv : v ≤ 10) : intOp v a b = saturated (intExact v a b) := by
  have hshift := shift_amount (b := b)
  match v, hv with
  | 0, _ => exact satI32_saturates
  | 1, _ => exact satI32_saturates
  | 2, _ => exact satI32_saturates
  | 3, _ =>
    have hmin : min a.toInt b.toInt = (if si a ≤ si b then a else b).toInt := by unfold si; split <;> omega
    exact (saturated_toInt.symm.trans (congrArg saturated hmin.symm) :)
  | 4, _ =>
    have hmax : max a.toInt b.toInt = (if si a ≤ si b then b else a).toInt := by unfold si; split <;> omega
    exact (saturated_toInt.symm.trans (congrArg saturated hmax.symm) :)
  | 5, _ => exact saturated_toInt.symm
  | 6, _ => exact saturated_toInt.symm
  | 7, _ => exact saturated_toInt.symm
  | 8, _ => exact satI32_saturates.trans (by rw [hshift]; rfl)
  | 9, _ =>
    refine Eq.trans ?_ (saturated_of_fits shifted_fits.1 shifted_fits.2).symm
    rw [← hshift]
    rfl
  | 10, _ => exact intOp_sraR.trans (saturated_of_fits nearest_fits.1 nearest_fits.2).symm

/-- The legal operations with a result in VD. -/
theorem vop_le_of_legal (hop : opcode w = 0x28) (hlegal : vxLegal w = true) (hv : vop w < 16) : vop w ≤ 10 := by
  by_contra hlt
  unfold vxLegal at hlegal
  simp only [hop] at hlegal
  rw [if_neg (by omega), if_neg (by omega), if_neg (by omega)] at hlegal
  cases hlegal

/-! The instruction. -/

section Instruction
variable {r : Res} {pr : W64}

/-- What a lane of VD takes, with its flags. -/
def intLane (fl : Floret) (w i : Nat) : W32 × W32 × W32 :=
  let x := saturated (intExact (vop w) (fl.vreg (va w) i) (laneB fl w i))
  (x.1, 0, x.2)

theorem doInt_lanes (hv : vop w ≤ 10) : doInt r pr w = lanes r pr (vd w) (intLane r.fl w) := by
  unfold doInt
  dsimp only
  rw [if_pos (by omega)]
  congr 1
  funext i
  rw [intOp_exact hv]
  rfl

theorem exec_int (hop : opcode w = 0x28) : exec n r w = doInt r (r.fl.pred (predReg w)) w := by
  unfold exec
  simp only [hop]

theorem vd_lt : vd w < 32 := Nat.mod_lt _ (by decide)

theorem saturated_flag : (saturated z).2 = xVI ↔ (clamp32 z).toInt ≠ z := by
  unfold saturated
  split <;> simp_all [xVI]

end Instruction

end Sys2Proof.Machine.Vec

open Sys2Proof Sys2Proof.Machine Sys2Proof.Claims

/-- Settles O14: each operation gives its exact result, clamped, and the lanes write it. -/
theorem int32LanesSaturateExactly : Obligations.Int32LanesSaturateExactly := by
  unfold Obligations.Int32LanesSaturateExactly
  intro n fl s w hop hlegal hv r pr z
  have hr : r = Vec.lanes (.of fl s.sram s.sramBad) pr (Isa.vd w) (Vec.intLane fl w) :=
    (Vec.exec_int hop).trans (Vec.doInt_lanes (Vec.vop_le_of_legal hop hlegal hv))
  have hflag : ∀ i, (Vec.intLane fl w i).2.2 = Vec.xVI ∨ (Vec.intLane fl w i).2.2 = 0 := fun i => (ite_eq_or_eq _ _ _).symm
  rw [hr]
  refine ⟨fun i hi => ?_, fun d i hd hi hne => ?_, ?_, Vec.lanes_fp fun _ => rfl, Vec.lanes_mem, Vec.lanes_bad⟩
  · split
    · next hon => exact Vec.lanes_vreg_own (Vec.mem_active.mpr ⟨hi, hon⟩)
    · next hoff => exact Vec.lanes_vreg_other hi (.inr fun h => hoff (Vec.mem_active.mp h).2)
  · have hvd := Vec.vd_lt (w := w)
    exact Vec.lanes_vreg_other hi (.inl (by omega))
  · rw [Vec.lanes_vx (by decide) hflag rfl]
    simp only [Vec.mem_active, and_assoc]
    exact exists_congr fun i => and_congr_right fun _ => and_congr_right fun _ => Vec.saturated_flag

end

section
/-! SUPPORT. Issue (R140, R142, R172): which commands run a predicated instruction, what retirement and the illegal path leave. -/

namespace Sys2Proof.Claims
open Sys2Proof.Machine

variable {s : State} {f pc op w : Nat} {p : Bool}

/-! Retirement. -/

/-- The instruction at PC of a floret retires. -/
theorem retireTo_retires_self : Retires f pc p (s.fl f) s (s.retireTo f pc p) := by
  obtain ⟨⟨-, -, hissue, hprog⟩, hregs, -⟩ := retireTo_retires (s := s) (f := f) (pc := pc) (p := p) (fl := s.fl f)
  have hraw := State.rawReg_of_regs (s := (s.setFl f (s.fl f)).retireTo f pc p) (t := s.retireTo f pc p) (by cases p <;> rfl)
  refine ⟨⟨?_, ?_, (hraw _).trans hissue, (hraw _).trans hprog⟩, fun k hk => (hraw k).trans (hregs k hk),
    State.retireTo_frame.mono rfl⟩
  · cases p <;> simp [State.retireTo, State.progress, State.modFl]
  · exact .ite ((OnlyFl.setFl.frame State.addReg_frame rfl).frame State.progress_frame rfl) (OnlyFl.setFl.frame State.addReg_frame rfl)

theorem retire_retires_self : Retires f ((s.fl f).pc + 1) p (s.fl f) s (s.retire f p) := retireTo_retires_self

/-! What issue finds. -/

theorem look_of_legal (hon : s.seqOn f = true) (hpc : (s.fl f).pc < 8192) (hw : (s.fl f).word = w) (hlisted : Isa.listed op = true)
    (hop : Isa.opcode w = op) (hlegal : Isa.legal (s.fl f) w = true) :
    s.look f op = if (0x28 ≤ op ∧ op ≤ 0x2F) ∨ ((s.fl f).pred (Isa.predReg w)).getLsbD 0 = true then .go w else .skip := by
  have hin : ¬ 8191 < (s.fl f).pc := by omega
  unfold State.look
  simp [hon, hin, hw, hop, hlisted, hlegal]

/-- A command of a predicated instruction issues it, and is progress where R172 says so. -/
theorem exec_seqInsn {c : Instr} {f : FloretId} (h : seqInsn c = some (f, op)) :
    (∃ k, exec c s = .next (s.issue f.val op k)) ∧ progresses op = progressOps.contains op := by
  unfold seqInsn at h
  split at h <;> cases h <;> exact ⟨⟨_, rfl⟩, rfl⟩

/-! The illegal path. -/

/-- A floret whose sequencer has stopped at an illegal encoding. -/
def stopped (fl : Floret) : Floret := { fl with run := false, halted := true, waiting := false, qfull := false }

/-- The floret has stopped and its instruction is copied. -/
def insnCopied (s : State) (f : Nat) : State :=
  ((s.setFl f (stopped (s.fl f))).setReg .fl f Off.errInsnLo (BitVec.ofNat 32 (s.fl f).word)).setReg .fl f Off.errInsnHi
    (BitVec.ofNat 32 ((s.fl f).word / 2 ^ 32))

/-- The error is flagged, counted and logged. -/
def insnLogged (s : State) (f : Nat) : State :=
  (((insnCopied s f).sticky .fl f Off.sqStat 0 none).event .fl f 11).logErr .fl f 0x03 (s.fl f).pc f ((s.fl f).word % 2 ^ 32)

theorem illegal_eq (hpc : (s.fl f).pc < 8192) : s.illegal f = (insnLogged s f).flFault f Code.sqIllegal (s.fl f).pc := by
  unfold State.illegal
  dsimp only
  rw [if_neg (by omega)]
  rfl

theorem insnCopied_frame : Frame [.fls, .regs] s (insnCopied s f) :=
  .step State.setReg_frame rfl (.step State.setReg_frame rfl (State.setFl_frame.mono rfl))

theorem insnLogged_frame : Frame [.regs, .logPtr, .hostOut] (insnCopied s f) (insnLogged s f) :=
  .step State.logErr_frame rfl (.step State.event_frame rfl (State.sticky_frame.mono rfl))

/-- The registers that flagging and logging an illegal encoding changes. -/
def insnRegs : List Nat := [Off.sqStat, Off.evtRaw, Off.evtPend] ++ logOffs

theorem insnLogged_regsStay : RegsStay insnRegs (insnCopied s f) (insnLogged s f) :=
  ((RegsStay.sticky (by decide) (by decide) (by decide) (by decide)).trans (.event (by decide) (by decide))).trans
    (.logErr (List.subset_append_right _ _))

theorem fl_insnCopied : (insnCopied s f).fl f = stopped (s.fl f) := by
  unfold insnCopied
  exact (State.fl_of_frame (.trans State.setReg_frame State.setReg_frame) rfl f).trans (State.fl_setFl ..)

theorem fl_insnLogged : (insnLogged s f).fl f = stopped (s.fl f) :=
  (State.fl_of_frame insnLogged_frame rfl f).trans fl_insnCopied

theorem insnLogged_onlyFl : OnlyFl f s (insnLogged s f) :=
  ((OnlyFl.setFl (x := stopped (s.fl f))).frame (.trans State.setReg_frame State.setReg_frame) rfl).frame insnLogged_frame rfl

theorem insnCopied_lo : (insnCopied s f).reg .fl f Off.errInsnLo = BitVec.ofNat 32 (s.fl f).word :=
  (State.reg_setReg_ne (by decide) (by decide) (by decide)).trans (State.reg_setReg ..)

theorem insnCopied_hi : (insnCopied s f).reg .fl f Off.errInsnHi = BitVec.ofNat 32 ((s.fl f).word / 2 ^ 32) := State.reg_setReg ..

/-- An illegal encoding sets its bit of FL_SQ_STAT. -/
theorem insnLogged_flagged (hf : f < 512) : ((insnLogged s f).reg .fl f Off.sqStat).getLsbD 0 = true := by
  have hlog : RegsStay logOffs (((insnCopied s f).sticky .fl f Off.sqStat 0 none).event .fl f 11) (insnLogged s f) :=
    .logErr (List.Subset.refl _)
  rw [hlog.reg hf (by decide) (by decide)]
  exact State.event_keeps_bit (State.sticky_sets (by decide))

theorem insnLogged_reports : (insnLogged s f).reports = s.reports := (insnLogged_frame .reports rfl).trans (insnCopied_frame .reports rfl)

/-- A floret's report names its launch. -/
theorem launchOf_floret (hf : f < 512) : s.launchOf f = flLaunch s f := if_pos hf

theorem flLaunch_insnLogged : flLaunch (insnLogged s f) f = flLaunch s f := by
  unfold flLaunch
  rw [fl_insnLogged]
  rfl

/-- The illegal path (R140). -/
theorem illegal_stops (hf : f < 512) (hpc : (s.fl f).pc < 8192) :
    let t := s.illegal f
    t.fl f = stopped (s.fl f) ∧ OnlyFl f s t ∧ t.reg .fl f Off.errInsnLo = BitVec.ofNat 32 (s.fl f).word ∧
      t.reg .fl f Off.errInsnHi = BitVec.ofNat 32 ((s.fl f).word / 2 ^ 32) ∧ (t.reg .fl f Off.sqStat).getLsbD 0 = true ∧
      t.reports = s.reports ++ [⟨Code.sqIllegal, f, (s.fl f).pc, 0, flLaunch s f⟩] ∧
      Frame [.fls, .regs, .logPtr, .reports, .hostOut] s t := by
  have hreg : ∀ off, ((insnLogged s f).flFault f Code.sqIllegal (s.fl f).pc).reg .fl f off = (insnLogged s f).reg .fl f off :=
    fun _ => State.rawReg_of_regs (State.flFault_frame .regs rfl) _
  rw [illegal_eq hpc]
  refine ⟨(State.fl_of_frame State.flFault_frame rfl f).trans fl_insnLogged, insnLogged_onlyFl.frame State.flFault_frame rfl,
    ?_, ?_, ?_, ?_, .step State.flFault_frame rfl (.step insnLogged_frame rfl (insnCopied_frame.mono rfl))⟩
  · rw [hreg, insnLogged_regsStay.reg hf (by decide) (by decide), insnCopied_lo]
  · rw [hreg, insnLogged_regsStay.reg hf (by decide) (by decide), insnCopied_hi]
  · rw [hreg]
    exact insnLogged_flagged hf
  · show (insnLogged s f).reports ++ [⟨Code.sqIllegal, f, (s.fl f).pc, 0, (insnLogged s f).launchOf f⟩] = _
    rw [insnLogged_reports, launchOf_floret hf, flLaunch_insnLogged]

end Sys2Proof.Claims

open Sys2Proof Sys2Proof.Machine Sys2Proof.Claims

/-- Settles O8: the predicate registers by their laws, what issue finds by `look_of_legal`, an instruction that is passed over by its
retirement, an illegal word by `illegal_stops`. -/
theorem predicatesAndIllegalWordsDecideWhatExecutes : Obligations.PredicatesAndIllegalWordsDecideWhatExecutes := by
  unfold Obligations.PredicatesAndIllegalWordsDecideWhatExecutes
  refine ⟨fun fl r q x hr hq => ⟨Floret.pred_zero, Floret.setPred_zero, fun h => ?_, fun h => ?_⟩, fun s f op w => ?_,
    fun c f op s hc hlook => ?_, fun c f op s hc hlook hpc => ?_⟩
  · exact Floret.pred_setPred (by omega) rfl
  · exact Floret.pred_setPred_ne (by omega)
  · exact look_of_legal
  · obtain ⟨⟨k, hexec⟩, hprog⟩ := exec_seqInsn (s := s) hc
    have hissue : s.issue f.val op k = s.retire f.val (progresses op) := by
      unfold State.issue
      rw [hlook]
    exact ⟨_, hexec.trans (congrArg _ hissue), hprog ▸ retire_retires_self⟩
  · obtain ⟨⟨k, hexec⟩, -⟩ := exec_seqInsn (s := s) hc
    have hissue : s.issue f.val op k = s.illegal f.val := by
      unfold State.issue
      rw [hlook]
    exact ⟨_, hexec.trans (congrArg _ hissue), illegal_stops f.isLt hpc⟩

end

section
/-! SUPPORT. Lines that the vector unit writes as they arrive in the near bank (R157, R159, R177). -/

namespace Sys2Proof.Machine
open Sys2Proof.Claims

variable {old s : State} {fl : Floret} {f l : Nat} {p q : Nat × Nat × Nat} {ps : List (Nat × Nat × Nat)}

/-! Presence bits. -/

/-- The presence bit of a place of a feed. -/
def Floret.presentAt (fl : Floret) (p : Nat × Nat × Nat) : Bool := bitN (SMap.get 0 (fl.feed p.1).present p.2.1) p.2.2

theorem presentAt_setPresent : (fl.setPresent p).presentAt p = true := by
  unfold Floret.presentAt Floret.setPresent
  rw [Floret.feed_setFeed]
  dsimp only
  rw [SMap.get_put_same, bitN_setBitN]

/-- A line that arrives clears no presence bit. -/
theorem presentAt_setPresent_of_set (h : fl.presentAt q = true) : (fl.setPresent p).presentAt q = true := by
  by_cases hq : q = p
  · rw [hq]
    exact presentAt_setPresent
  · refine Eq.trans ?_ h
    unfold Floret.presentAt Floret.setPresent
    by_cases hfeed : q.1 = p.1
    · rw [hfeed, Floret.feed_setFeed]
      dsimp only
      by_cases hslot : q.2.1 = p.2.1
      · have hline : q.2.2 ≠ p.2.2 := fun hline => hq (Prod.ext hfeed (Prod.ext hslot hline))
        rw [hslot, SMap.get_put_same, bitN_setBitN_ne hline]
      · rw [SMap.get_put_ne hslot]
    · rw [Floret.feed_setFeed_ne hfeed]

theorem presentAt_setPresents (h : fl.presentAt q = true ∨ q ∈ ps) : (ps.foldl Floret.setPresent fl).presentAt q = true := by
  induction ps generalizing fl with
  | nil => exact h.resolve_right (List.not_mem_nil)
  | cons p ps ih =>
    refine ih ?_
    obtain h | h := h
    · exact .inl (presentAt_setPresent_of_set h)
    · exact (List.mem_cons.mp h).imp (by rintro rfl; exact presentAt_setPresent) id

theorem pc_setPresents : (ps.foldl Floret.setPresent fl).pc = fl.pc := foldl_keeps fun _ _ => rfl

/-! The arrival of one line. -/

/-- What a discarded line leaves: at its place what stood there before the instruction. -/
def State.vxDiscard (s old : State) (f l : Nat) : State :=
  { s with
    sram := Memory.writeLine s.sram (Vec.nbLine f l) (Memory.readLine old.sram (Vec.nbLine f l))
    sramBad := SMap.put false s.sramBad (Vec.nbLine f l) (SMap.get false old.sramBad (Vec.nbLine f l)) }

@[simp] theorem State.fl_vxDiscard {n : Nat} : (s.vxDiscard old f l).fl n = s.fl n := rfl
@[simp] theorem State.reg_vxDiscard {b : Blk} {n off : Nat} : (s.vxDiscard old f l).reg b n off = s.reg b n off := rfl

/-- The discarded line itself. -/
theorem State.readLine_vxDiscard :
    Memory.readLine (s.vxDiscard old f l).sram (Vec.nbLine f l) = Memory.readLine old.sram (Vec.nbLine f l) :=
  Memory.readLine_writeLine

theorem vxArrive_of_taken (h : (s.feedArrive f (Vec.nbLine f l) f).1 = true) :
    State.vxArrive old f s l = (s.feedArrive f (Vec.nbLine f l) f).2.cnt .fl f Off.nbWr 128 := if_pos h

theorem vxArrive_of_discarded (h : (s.feedArrive f (Vec.nbLine f l) f).1 = false) :
    State.vxArrive old f s l = (s.feedArrive f (Vec.nbLine f l) f).2.vxDiscard old f l := if_neg (by rw [h]; exact Bool.false_ne_true)

/-- A line that belongs to no feed is just counted. -/
theorem vxArrive_bare (h : (s.fl f).feedLines (l % 32768) = []) : State.vxArrive old f s l = s.cnt .fl f Off.nbWr 128 := by
  have hopen : (s.fl f).lineOpen l := by
    intro p hp
    rw [h] at hp
    cases hp
  have harrive : s.feedArrive f (Vec.nbLine f l) f = (true, s) := (feedArrive_open hopen).trans (by rw [if_pos h])
  rw [vxArrive_of_taken (congrArg Prod.fst harrive), harrive]

/-- A line whose feeds all have room for it takes its places. -/
theorem vxArrive_open (h : (s.fl f).lineOpen l) :
    (State.vxArrive old f s l).fl f = ((s.fl f).feedLines (l % 32768)).foldl Floret.setPresent (s.fl f) ∧
      (State.vxArrive old f s l).sram = s.sram ∧ (State.vxArrive old f s l).sramBad = s.sramBad := by
  have harrive := State.feedArrive_frame (s := s) (f := f) (a := Vec.nbLine f l) (src := f)
  rw [vxArrive_of_taken (congrArg Prod.fst (feedArrive_open h))]
  exact ⟨(State.fl_of_frame State.cnt_frame rfl f).trans (feedArrive_open_fl h), harrive .sram rfl, harrive .sramBad rfl⟩

/-- Where a feed has no room the line is discarded. -/
theorem feedArrive_full (h : ∃ p ∈ (s.fl f).feedLines (l % 32768), (s.fl f).feedFull p = true) :
    ∃ e, s.feedArrive f (Vec.nbLine f l) f = (false, s.feedOverrun f (Vec.nbLine f l) e f) := by
  obtain ⟨p, hp⟩ := Option.isSome_iff_exists.mp (List.find?_isSome.mpr h)
  unfold State.feedArrive
  rw [nbLine_lineNo]
  simp only [hp]
  exact ⟨_, rfl⟩

/-- A discarded line keeps what stood there, and FEED_OVR is set. -/
theorem vxArrive_full (hf : f < 512) (h : ∃ p ∈ (s.fl f).feedLines (l % 32768), (s.fl f).feedFull p = true) :
    (State.vxArrive old f s l).fl f = s.fl f ∧
      Memory.readLine (State.vxArrive old f s l).sram (Vec.nbLine f l) = Memory.readLine old.sram (Vec.nbLine f l) ∧
      ((State.vxArrive old f s l).reg .fl f Off.sqStat).getLsbD 2 = true := by
  obtain ⟨e, harrive⟩ := feedArrive_full h
  have hfl : (s.feedOverrun f (Vec.nbLine f l) e f).fl f = s.fl f := State.fl_of_frame State.feedOverrun_frame rfl f
  have hlog : RegsStay logOffs ((s.sticky .fl f Off.sqStat 2 none).event .fl f 14) (s.feedOverrun f (Vec.nbLine f l) e f) :=
    .logErr (List.Subset.refl _)
  have hflag : ((s.feedOverrun f (Vec.nbLine f l) e f).reg .fl f Off.sqStat).getLsbD 2 = true := by
    rw [hlog.reg hf (by decide) (by decide)]
    exact State.event_keeps_bit (State.sticky_sets (by decide))
  rw [vxArrive_of_discarded (congrArg Prod.fst harrive), harrive, State.fl_vxDiscard, State.reg_vxDiscard]
  exact ⟨hfl, State.readLine_vxDiscard, hflag⟩

/-! What arrivals leave alone. -/

/-- The registers that an arriving line changes: those of a discarded one. -/
def arriveRegs : List Nat := [Off.sqStat, Off.evtRaw, Off.evtPend] ++ logOffs

/-- From `s` to `t` lines arrive in floret `f`'s near bank: the PC and the other florets stay, and of the registers those that a
discarded line does not change. -/
structure LinesArrived (f : Nat) (s t : State) : Prop where
  pc : (t.fl f).pc = (s.fl f).pc
  others : OnlyFl f s t
  regs : RegsStay arriveRegs s t

theorem LinesArrived.refl : LinesArrived f s s := ⟨rfl, .refl, .refl⟩

theorem LinesArrived.trans {t u : State} (h : LinesArrived f s t) (k : LinesArrived f t u) : LinesArrived f s u :=
  ⟨k.pc.trans h.pc, h.others.trans k.others, h.regs.trans k.regs⟩

theorem LinesArrived.frame {ps : List Piece} {t u : State} (h : LinesArrived f s t) (k : Frame ps t u) (hfl : ps.contains .fls = false)
    (hregs : ps.contains .regs = false) : LinesArrived f s u :=
  ⟨(congrArg Floret.pc (State.fl_of_frame k hfl f)).trans h.pc, h.others.frame k hfl, h.regs.frame k hregs⟩

theorem feedOverrun_arrived {a e src : Nat} : LinesArrived f s (s.feedOverrun f a e src) where
  pc := congrArg Floret.pc (State.fl_of_frame State.feedOverrun_frame rfl f)
  others := OnlyFl.refl.frame State.feedOverrun_frame rfl
  regs := ((RegsStay.sticky (by decide) (by decide) (by decide) (by decide)).trans (.event (by decide) (by decide))).trans
    (.logErr (List.subset_append_right _ _))

theorem feedArrive_arrived {a src : Nat} : LinesArrived f s (s.feedArrive f a src).2 := by
  unfold State.feedArrive
  extract_lets fl ps
  split
  · exact feedOverrun_arrived
  · split
    · exact .refl
    · exact ⟨(congrArg Floret.pc (State.fl_setFl ..)).trans pc_setPresents, .setFl, RegsStay.refl.frame State.setFl_frame rfl⟩

theorem vxArrive_arrived : LinesArrived f s (State.vxArrive old f s l) := by
  unfold State.vxArrive
  extract_lets a r
  have harrive : LinesArrived f s r.2 := feedArrive_arrived
  split
  · exact harrive.frame State.cnt_frame rfl rfl
  · exact harrive.frame (Frame.set_sram_sramBad (ps := [.sram, .sramBad]) rfl .refl) rfl rfl

theorem vxArrives_arrived {ls : List Nat} : LinesArrived f s (ls.foldl (State.vxArrive old f) s) := by
  induction ls generalizing s with
  | nil => exact .refl
  | cons l ls ih => exact vxArrive_arrived.trans ih

/-- Lines that belong to no feed arrive with the floret and its near bank as the unit left them. -/
theorem vxArrives_bare {ls : List Nat} (h : ∀ l ∈ ls, (s.fl f).feedLines (l % 32768) = []) :
    (ls.foldl (State.vxArrive old f) s).fl f = s.fl f ∧ (ls.foldl (State.vxArrive old f) s).sram = s.sram ∧
      (ls.foldl (State.vxArrive old f) s).sramBad = s.sramBad := by
  induction ls generalizing s with
  | nil => exact ⟨rfl, rfl, rfl⟩
  | cons l ls ih =>
    obtain ⟨hl, hls⟩ := List.forall_mem_cons.mp h
    rw [List.foldl_cons, vxArrive_bare hl]
    exact ih hls

end Sys2Proof.Machine
end

section
/-! SUPPORT. VX instructions (R116 to R135, R172, R173, R485): O13. -/

namespace Sys2Proof.Claims
open Sys2Proof.Machine

variable {s u : State} {f : FloretId} {w : Nat}

/-! The stages of a VX instruction. -/

/-- The unit's registers and near bank stand. -/
def vxWritten (f : Nat) (w : Nat) (s : State) : State :=
  let r := vxOut f (s.fl f) s w
  ({ (s.setFl f r.fl) with sram := r.mem, sramBad := r.bad } : State).cnt .fl f Off.nbRd (128 * r.rd)

/-- The lines written have arrived. -/
def vxArrived (f : Nat) (w : Nat) (s : State) : State :=
  (vxOut f (s.fl f) s w).wr.foldl (State.vxArrive s f) (vxWritten f w s)

/-- Flags are raised, the instruction is counted, and a poisoned line is reported. -/
def vxCounted (f : Nat) (r : Vec.Res) (occ w : Nat) (u : State) : State :=
  let u := (u.fpFlags f r.fp).stickies .fl f Off.vxStat r.vx [(0, 9), (1, 10), (2, 10), (3, 10)]
  let u := (u.addReg .fl f Off.vxIssue 1).addReg .fl f Off.vxBusy occ
  let u := if Isa.opcode w = 0x2F ∧ Isa.vop w = 2 ∧ (r.fl.pred (Isa.predReg w)).getLsbD 0 then u.addReg .fl f Off.vxSample 1 else u
  if r.poison then u.flFault f Code.poisonUse 0 else u

/-- The state in which the instruction retires. -/
def vxEffect (f : Nat) (w : Nat) (s : State) : State :=
  vxCounted f (vxOut f (s.fl f) s w) (Vec.occupancy (s.fl f) w) w (vxArrived f w s)

theorem vx_eq {f : Nat} (h : (s.fl f).vxHeld (vxOut f (s.fl f) s w).wr = false) : s.vx f w = (vxEffect f w s).retire f true := by
  unfold State.vx
  dsimp only
  rw [if_neg (by rw [Bool.not_eq_true]; exact h)]
  rfl

/-- Under R128 an instruction that is held waits. -/
theorem vx_held {f : Nat} (h : (s.fl f).vxHeld (vxOut f (s.fl f) s w).wr = true) : s.vx f w = s := if_pos h

/-! What each stage leaves. -/

theorem vxWritten_fl {f : Nat} : (vxWritten f w s).fl f = (vxOut f (s.fl f) s w).fl :=
  (State.fl_of_frame State.cnt_frame rfl f).trans (s.fl_setFl f _)

theorem vxWritten_onlyFl {f : Nat} : OnlyFl f s (vxWritten f w s) :=
  ((OnlyFl.setFl (s := s)).frame (Frame.set_sram_sramBad (ps := [.sram, .sramBad]) rfl .refl) rfl).frame State.cnt_frame rfl

theorem vxArrived_of_single {f l : Nat} (h : (vxOut f (s.fl f) s w).wr = [l]) :
    vxArrived f w s = State.vxArrive s f (vxWritten f w s) l := by
  unfold vxArrived
  rw [h]
  rfl

theorem vxArrived_arrived {f : Nat} : LinesArrived f (vxWritten f w s) (vxArrived f w s) := vxArrives_arrived

/-- The registers that flags and counts change. -/
def vxRegs : List Nat := [Off.evtRaw, Off.evtPend, Off.fpStat, Off.vxStat, Off.vxIssue, Off.vxBusy, Off.vxSample]

section Counted
variable {f : Nat} {r : Vec.Res} {occ : Nat}

theorem vxCounted_frame : Frame [.regs, .hostOut, .reports] u (vxCounted f r occ w u) := by
  unfold vxCounted
  extract_lets flagged issued sampled
  have hflagged : Frame [.regs, .hostOut, .reports] u flagged := .step State.stickies_frame rfl (State.fpFlags_frame.mono rfl)
  have hissued : Frame [.regs, .hostOut, .reports] u issued := .step State.addReg_frame rfl (.step State.addReg_frame rfl hflagged)
  have hsampled : Frame [.regs, .hostOut, .reports] u sampled := .ite (.step State.addReg_frame rfl hissued) hissued
  exact .ite (.step State.flFault_frame rfl hsampled) hsampled

theorem vxCounted_regsStay : RegsStay vxRegs u (vxCounted f r occ w u) := by
  unfold vxCounted
  extract_lets flagged issued sampled
  have hflagged : RegsStay vxRegs u flagged :=
    (RegsStay.stickies (by decide) (by decide) (by decide) (by decide)).trans (.stickies (by decide) (by decide) (by decide) (by decide))
  have hissued : RegsStay vxRegs u issued := (hflagged.trans (.addReg (by decide) (by decide))).trans (.addReg (by decide) (by decide))
  have hsampled : RegsStay vxRegs u sampled := .ite (hissued.trans (.addReg (by decide) (by decide))) hissued
  exact .ite (hsampled.frame State.flFault_frame rfl) hsampled

end Counted

theorem vxEffect_fl {f : Nat} : (vxEffect f w s).fl f = (vxArrived f w s).fl f := State.fl_of_frame vxCounted_frame rfl f

/-- Up to its retirement the instruction counts no progress event. -/
theorem vxEffect_progress : (vxEffect f.val w s).reg .fl f.val Off.progress = s.reg .fl f.val Off.progress := by
  have hcounted : (vxEffect f.val w s).reg .fl f.val Off.progress = (vxArrived f.val w s).reg .fl f.val Off.progress :=
    vxCounted_regsStay.reg f.isLt (by decide) (by decide)
  exact hcounted.trans (vxArrived_arrived.regs.reg f.isLt (by decide) (by decide))

/-! What the instruction leaves. -/

section Retired
variable (hfree : (s.fl f.val).vxHeld (vxOut f.val (s.fl f.val) s w).wr = false)
include hfree

theorem vx_retires : Retires f.val (((vxArrived f.val w s).fl f.val).pc + 1) true ((vxArrived f.val w s).fl f.val)
    (vxEffect f.val w s) (s.vx f.val w) := by
  rw [vx_eq hfree, ← vxEffect_fl]
  exact retire_retires_self

theorem vx_fl : (s.vx f.val w).fl f.val =
    { (vxArrived f.val w s).fl f.val with pc := ((vxArrived f.val w s).fl f.val).pc + 1, waiting := false, qfull := false } :=
  (vx_retires hfree).1.1

/-- The floret where arrivals leave it as the unit computed it. -/
theorem vx_fl_of_arrived (h : (vxArrived f.val w s).fl f.val = (vxWritten f.val w s).fl f.val) :
    let r := vxOut f.val (s.fl f.val) s w
    (s.vx f.val w).fl f.val = { r.fl with pc := r.fl.pc + 1, waiting := false, qfull := false } := by
  rw [vx_fl hfree, h, vxWritten_fl]

theorem vx_sram : (s.vx f.val w).sram = (vxArrived f.val w s).sram := by
  rw [vx_eq hfree]
  exact (State.retire_frame .sram rfl).trans (vxCounted_frame .sram rfl)

theorem vx_sramBad : (s.vx f.val w).sramBad = (vxArrived f.val w s).sramBad := by
  rw [vx_eq hfree]
  exact (State.retire_frame .sramBad rfl).trans (vxCounted_frame .sramBad rfl)

theorem vx_sqStat : (s.vx f.val w).reg .fl f.val Off.sqStat = (vxArrived f.val w s).reg .fl f.val Off.sqStat :=
  (reg_of_issueRegs (vx_retires hfree).2.1 (by decide) (by decide) (by decide)).trans
    (vxCounted_regsStay.reg f.isLt (by decide) (by decide))

/-- A VX instruction that is not held takes its effect, however its lines fare. -/
theorem vx_done : VxDone f w s (s.vx f.val w) := by
  obtain ⟨⟨hfl, honly, -, hprog⟩, -, -⟩ := vx_retires hfree
  have hwritten : (vxWritten f.val w s).fl f.val = (vxOut f.val (s.fl f.val) s w).fl := vxWritten_fl
  have hpc : ((vxArrived f.val w s).fl f.val).pc = (vxOut f.val (s.fl f.val) s w).fl.pc := by
    rw [vxArrived_arrived.pc, hwritten]
  refine ⟨?_, by rw [hfl, hpc], by rw [hprog, vxEffect_progress]; rfl, State.vx_frame.mono rfl, fun hbare => ?_,
    fun l hl _ hroom => ?_, fun l hl hfull => ?_⟩
  · exact ((vxWritten_onlyFl.trans vxArrived_arrived.others).frame vxCounted_frame rfl).trans honly
  · obtain ⟨hsame, hsram, hbad⟩ := vxArrives_bare (old := s) (s := vxWritten f.val w s) (by rwa [hwritten])
    exact ⟨vx_fl_of_arrived hfree hsame, (vx_sram hfree).trans hsram, (vx_sramBad hfree).trans hbad⟩
  · have harrived := vxArrived_of_single hl
    obtain ⟨hplaced, hsram, hbad⟩ := vxArrive_open (old := s) (s := vxWritten f.val w s) (l := l) (by rwa [hwritten])
    rw [← harrived] at hplaced hsram hbad
    refine ⟨(vx_sram hfree).trans hsram, (vx_sramBad hfree).trans hbad, fun p hp => ?_⟩
    rw [hfl, hplaced, hwritten]
    exact presentAt_setPresents (.inr hp)
  · have harrived := vxArrived_of_single hl
    obtain ⟨hsame, hkept, hflag⟩ := vxArrive_full (old := s) (s := vxWritten f.val w s) (l := l) f.isLt (by rwa [hwritten])
    rw [← harrived] at hsame hkept hflag
    refine ⟨by rw [vx_sram hfree, hkept], vx_fl_of_arrived hfree hsame, ?_⟩
    show ((s.vx f.val w).reg .fl f.val Off.sqStat).getLsbD 2 = true
    rw [vx_sqStat hfree]
    exact hflag

end Retired

/-! Commands of the vector unit. -/

theorem vxIf_go {f op : Nat} {p : Nat → Bool} (hlook : s.look f op = .go w) (hp : p (Isa.vop w) = true) : s.vxIf f op p = s.vx f w := by
  unfold State.vxIf State.issue
  simp only [hlook, hp, if_true]

/-- A command whose kind the operation is of takes the effect of the instruction at PC. -/
theorem exec_vx {c : Instr} {op : Nat} {p : Nat → Bool} (hc : exec c s = .next (s.vxIf f.val op p)) (hgo : VxGoes f op w s)
    (hp : p (Isa.vop w) = true) : ∃ t, exec c s = .next t ∧ VxDone f w s t := by
  obtain ⟨hlook, hfree⟩ := hgo
  exact ⟨_, hc.trans (congrArg _ (vxIf_go hlook hp)), vx_done hfree⟩

end Sys2Proof.Claims

open Sys2Proof Sys2Proof.Machine Sys2Proof.Claims

/-- Settles O13: each command runs the vector unit on the word at PC where the word's operation is of its kind. -/
theorem vxInstructionsTakeEffect : Obligations.VxInstructionsTakeEffect := by
  unfold Obligations.VxInstructionsTakeEffect
  intro f s w v
  refine ⟨fun h => exec_vx rfl h rfl, fun h => exec_vx rfl h rfl, fun h => exec_vx rfl h rfl, fun h => exec_vx rfl h rfl,
    fun h => exec_vx rfl h rfl, fun h hv => exec_vx rfl h (decide_eq_true hv), fun h hv => exec_vx rfl h (decide_eq_true hv),
    fun h hv => exec_vx rfl h (beq_iff_eq.mpr hv), fun h hv => exec_vx rfl h (beq_iff_eq.mpr hv),
    fun h hv => exec_vx rfl h (beq_iff_eq.mpr hv), fun h hv => exec_vx rfl h (beq_iff_eq.mpr hv),
    fun h hv => exec_vx rfl h (beq_iff_eq.mpr hv), fun h hv => exec_vx rfl h (beq_iff_eq.mpr hv),
    fun h hv => exec_vx rfl h (beq_iff_eq.mpr hv), fun hlook hv hheld => ?_⟩
  exact congrArg Host.Outcome.next ((vxIf_go hlook (decide_eq_true hv)).trans (vx_held hheld))

end
